-- ==== Sys2Proof/Word.lean ====
section
/-! DEFINITION. The word types of the SD-2: bytes, 16-bit parcels and 64-bit register words (R25, R32, R151). -/

namespace Sys2Proof

/-- One byte of any memory of the device (R4: little-endian everywhere). -/
abbrev Byte := BitVec 8

/-- A 64-bit scalar register value (R151). -/
abbrev Word := BitVec 64

/-- A 32-bit element or FP32 value (R171, R202). -/
abbrev Half32 := BitVec 32

/-- One vector register: 256 bytes (R159). -/
abbrev VecVal := BitVec 2048

/-- One mask register: 256 bits (R159). -/
abbrev MaskVal := BitVec 256

/-- A 64-byte record: shape record, resource entry, Transom configuration or header, request record. -/
abbrev Rec512 := BitVec 512

/-- The all-ones word, which R90, R143 and R198 use. -/
def Word.ones : Word := BitVec.allOnes 64

end Sys2Proof
end

