-- ==== Sys2Proof/Config.lean ====
section
/-! DEFINITION. What is fixed for the machine (its sizes, R9, R12, R15, R16) and the values the specification leaves open:
every `opaque` below is a free value, named in the assumption log; nothing can evaluate it. -/

namespace Sys2Proof.Config

/-- Logical tiles of the reasoning array (R9). -/
def reasoningTiles : Nat := 512
/-- Logical tiles of the reflex array (R9). -/
def reflexTiles : Nat := 32
/-- Bytes of main memory mappable by a tenant: 510 GiB (R52). -/
def mainMemoryTop : Nat := 0x7F80000000
/-- End of the device structures range (R52). -/
def structuresTop : Nat := 0x8000000000
/-- Start of the host window (R52). -/
def hostWindowBase : Nat := 0x8000000000000
/-- End of the 52-bit physical space (R52). -/
def physicalTop : Nat := 0x10000000000000
/-- Transom slots (R133). -/
def transomSlots : Nat := 4096

/-- FREE VALUE (log 6): the cycles for which a streamer held a line's stage (R86); timing that the model does not count. -/
opaque stageSample : Nat → Nat
/-- FREE VALUE (log 6): a destination byte of a copy whose endpoints overlap in physical bytes (R93). -/
opaque overlapByte : Nat → BitVec 8
/-- FREE VALUE (log 6): the fused bias-temperature limit btilim of a physical tile (R346, R347). -/
opaque btiLimit : Nat → Nat
/-- FREE VALUE (log 6): the frame that the placer's own translation gives a tenant's virtual page, where no TLB holds it (R441). -/
opaque placerFrame : Nat → Nat → Nat
/-- FREE VALUE (log 6): which of the four sectors of a line a controller finds uncorrectable as it fills it, as bits of a number (R79). -/
opaque badSectors : Nat → Nat
/-- FREE VALUE (log 6): whether a soft error strikes a stored word in a cycle: 0 none, else 2 × the word's key / 8 + 1 or 2 flipped bits
(R110, R133). -/
opaque softError : Nat → Nat
/-- FREE VALUE (log 6): the number of a kind of storage in the entry of a storage error; 0 is DRAM (R402). -/
opaque storageKind : Nat → Nat
/-- FREE VALUE (log 81): the index along K, modulo 4096, in the payload of a NaN that the fold of an mx.bay makes of two infinities (R186, R187). -/
opaque foldIndex : Nat → Nat → Nat
/-- FREE VALUE (log 48): the weights that the hypervisor's arming brings for the B-store reserve of a bay, as offsets and bytes, where the reflex launch
has no B-store section (R377, R479). -/
opaque armWeights : Nat → List (Nat × List (BitVec 8))
/-- FREE VALUE (log 6): the guest address that the tenant's entry names for a physical address that no TLB maps (R401). -/
opaque guestAddress : Nat → Nat
/-- FREE VALUES (log 6): the identity key (R456): its seed, its one-time secrets by layer, tree, leaf and chain, and the randomizer of each leaf. -/
opaque identitySeed : BitVec 256
opaque identitySecret : Nat → Nat → Nat → Nat → BitVec 256
opaque identityRandom : Nat → BitVec 256

/-- The root and the seed of the XMSS key that is fused into the module (R455), 32 bytes each (log 74). -/
opaque fusedRoot : List Byte
opaque fusedSeed : List Byte

end Sys2Proof.Config
end

