-- ==== Sys2Proof/Syntax.lean ====
section
/-! DEFINITION. The operands and the instructions: one constructor of `Instr` per row of the opcode table. -/

namespace Sys2Proof

/-- A register specifier (R32): g0 to g39, n0 to n7, y0 to y3, q0 to q7, z and the three reserved codes. -/
inductive Reg where
  | g (i : Fin 40)
  | n (i : Fin 8)
  | y (i : Fin 4)
  | q (i : Fin 8)
  | z
  | rsv (i : Fin 3)
deriving DecidableEq, Repr

/-- A 4-bit register field of a compact word (R39); what it names depends on its direction. -/
abbrev CReg := Fin 16
/-- A 5-bit vector field (R35): a vector register, a queue, a mask register or a small immediate. -/
abbrev VReg := Fin 32
/-- A 3-bit mask field (R35): 0 is unmasked, 1 to 7 are k1 to k7. -/
abbrev Km := Fin 8

/-- The width and extension of a scalar memory access (R30); code 7 is reserved. -/
inductive MemType where
  | i8 | i16 | i32 | i64 | n8 | n16 | n32
deriving DecidableEq, Repr

/-- The floating-point element formats of the vector majors (R221). -/
inductive FpType where
  | f32 | bf16 | f16
deriving DecidableEq, Repr

/-- Element sizes of 8, 16, 32 and 64 bits (R223, R231). -/
inductive EltSize where
  | b8 | b16 | b32 | b64
deriving DecidableEq, Repr

/-- Element types of major 45 (R233). -/
inductive RedType where
  | f32 | bf16 | f16 | i8 | i16 | i32 | i64
deriving DecidableEq, Repr

/-- Element types of vord and vordi (R237). -/
inductive OrdType where
  | f32 | f16 | i8 | i16 | i32 | i64
deriving DecidableEq, Repr

/-- The width of an atomic (R126). -/
inductive AmoWidth where
  | w32 | w64
deriving DecidableEq, Repr

/-- The kinds of fence (R297). -/
inductive FenceKind where
  | acq | rel | full
deriving DecidableEq, Repr

/-- The scopes of R283. -/
inductive Scope where
  | tile | bay | array | device | system
deriving DecidableEq, Repr

/-- The operations of cmb.lgc (R365). -/
inductive LgcOp where
  | and | or | xor
deriving DecidableEq, Repr

/-- A host request to a register of a BAR: a posted write or a non-posted read, and its width in bytes, 8 where it is legal (R394, R445). -/
inductive BarAccess where
  | write (v : BitVec 64) (n : Nat := 8)
  | read (n : Nat := 8)
deriving DecidableEq, Repr

/-- The changes of a frame's state outside a move and a quarantine (R74): to MAPPED for a tenant, to FREE_DIRTY, to SCRUBBING, to FREE_CLEAN. -/
inductive FrameStep where
  | map (tenant : Fin 16)
  | free | post | clean
deriving DecidableEq, Repr

/-- A frame, and how its state changes (R74). -/
structure FrameAct where
  frame : Nat
  step : FrameStep
deriving DecidableEq, Repr

/-- The number of a move; for the start of one its source page, and the tag and attribute words of the mapping to be (R77). -/
structure MoveAct where
  num : Nat
  src : Nat := 0
  tag : BitVec 64 := 0#64
  attr : BitVec 64 := 0#64
deriving DecidableEq, Repr

/-- The payload of a mirrored version, and its poisoned sectors (R150). -/
structure MirrorData where
  bytes : List (BitVec 8)
  bad : List Nat := []
deriving DecidableEq, Repr

/-- A queued message of a delta (R453): its tile, its header and payload, 1 + its timer for a timer item, the activations that it has started, and
cause, faddr and xpc of the last abort of one (R393). -/
structure QueuedMsg where
  tile : Nat
  header : BitVec 128
  body : List (BitVec 8)
  timer : Nat
  deliv : Nat
  lastAbort : BitVec 64 × BitVec 64 × BitVec 64
deriving DecidableEq, Repr

/-- The instructions and events of the opcode table, one constructor per row, in the table's order. -/
inductive Instr where
  /-- `ADD` (R196): Adds two registers, wrapping modulo 2^64. -/
  | add (b : Reg) (a : Reg) (d : Reg)
  /-- `SUB` (R196): Subtracts b from a, wrapping modulo 2^64. -/
  | sub (b : Reg) (a : Reg) (d : Reg)
  /-- `AND` (R196): Bitwise AND of two registers. -/
  | and (b : Reg) (a : Reg) (d : Reg)
  /-- `OR` (R196): Bitwise OR of two registers. -/
  | or (b : Reg) (a : Reg) (d : Reg)
  /-- `XOR` (R196): Bitwise XOR of two registers. -/
  | xor (b : Reg) (a : Reg) (d : Reg)
  /-- `ANDN` (R196): a AND NOT b. -/
  | andn (b : Reg) (a : Reg) (d : Reg)
  /-- `ORN` (R196): a OR NOT b. -/
  | orn (b : Reg) (a : Reg) (d : Reg)
  /-- `SLL` (R197): Shifts left by a register amount, with defined results for large amounts. -/
  | sll (b : Reg) (a : Reg) (d : Reg)
  /-- `SRL` (R197): Logical right shift by a register amount. -/
  | srl (b : Reg) (a : Reg) (d : Reg)
  /-- `SRA` (R197): Arithmetic right shift by a register amount. -/
  | sra (b : Reg) (a : Reg) (d : Reg)
  /-- `SLT` (R196): Signed set-less-than. -/
  | slt (b : Reg) (a : Reg) (d : Reg)
  /-- `SLTN` (R196): Unsigned set-less-than. -/
  | sltn (b : Reg) (a : Reg) (d : Reg)
  /-- `MIN` (R196): Signed minimum. -/
  | min (b : Reg) (a : Reg) (d : Reg)
  /-- `MAX` (R196): Signed maximum. -/
  | max (b : Reg) (a : Reg) (d : Reg)
  /-- `MINN` (R196): Unsigned minimum. -/
  | minn (b : Reg) (a : Reg) (d : Reg)
  /-- `MAXN` (R196): Unsigned maximum. -/
  | maxn (b : Reg) (a : Reg) (d : Reg)
  /-- `MUL` (R196): Low 64 bits of the product. -/
  | mul (b : Reg) (a : Reg) (d : Reg)
  /-- `MULH` (R196): High 64 bits of the signed product. -/
  | mulh (b : Reg) (a : Reg) (d : Reg)
  /-- `MULHN` (R196): High 64 bits of the unsigned product. -/
  | mulhn (b : Reg) (a : Reg) (d : Reg)
  /-- `DIV` (R198): Signed division truncating toward zero, with defined results or a catchable trap on a zero divisor. -/
  | div (b : Reg) (a : Reg) (d : Reg)
  /-- `DIVN` (R198): Unsigned division. -/
  | divn (b : Reg) (a : Reg) (d : Reg)
  /-- `REM` (R198): Signed remainder with the sign of the dividend. -/
  | rem (b : Reg) (a : Reg) (d : Reg)
  /-- `REMN` (R198): Unsigned remainder. -/
  | remn (b : Reg) (a : Reg) (d : Reg)
  /-- `ADDW` (R196): 32-bit add, sign-extended. -/
  | addw (b : Reg) (a : Reg) (d : Reg)
  /-- `SUBW` (R196): 32-bit subtract, sign-extended. -/
  | subw (b : Reg) (a : Reg) (d : Reg)
  /-- `SLLW` (R197): 32-bit left shift, sign-extended. -/
  | sllw (b : Reg) (a : Reg) (d : Reg)
  /-- `SRLW` (R197): 32-bit logical right shift, sign-extended. -/
  | srlw (b : Reg) (a : Reg) (d : Reg)
  /-- `SRAW` (R197): 32-bit arithmetic right shift, sign-extended. -/
  | sraw (b : Reg) (a : Reg) (d : Reg)
  /-- `MULW` (R196): 32-bit multiply, sign-extended. -/
  | mulw (b : Reg) (a : Reg) (d : Reg)
  /-- `CLZ` (R196): Counts leading zero bits. -/
  | clz (a : Reg) (d : Reg)
  /-- `CTZ` (R196): Counts trailing zero bits. -/
  | ctz (a : Reg) (d : Reg)
  /-- `POPC` (R196): Counts set bits. -/
  | popc (a : Reg) (d : Reg)
  /-- `BSWAP` (R196): Reverses the bytes of a. -/
  | bswap (a : Reg) (d : Reg)
  /-- `ADDI` (R199): Adds a sign-extended 12-bit immediate. -/
  | addi (imm : BitVec 12) (a : Reg) (d : Reg)
  /-- `ANDI` (R199): ANDs a sign-extended immediate. -/
  | andi (imm : BitVec 12) (a : Reg) (d : Reg)
  /-- `ORI` (R199): ORs a sign-extended immediate. -/
  | ori (imm : BitVec 12) (a : Reg) (d : Reg)
  /-- `XORI` (R199): XORs a sign-extended immediate. -/
  | xori (imm : BitVec 12) (a : Reg) (d : Reg)
  /-- `SLLI` (R200): Left shift by an immediate amount. -/
  | slli (sh : BitVec 6) (a : Reg) (d : Reg)
  /-- `SRLI` (R200): Logical right shift by an immediate amount. -/
  | srli (sh : BitVec 6) (a : Reg) (d : Reg)
  /-- `SRAI` (R200): Arithmetic right shift by an immediate amount. -/
  | srai (sh : BitVec 6) (a : Reg) (d : Reg)
  /-- `RORI` (R200): Rotates right within 64 bits. -/
  | rori (sh : BitVec 6) (a : Reg) (d : Reg)
  /-- `SLLIW` (R200): 32-bit immediate left shift, sign-extended. -/
  | slliw (sh : BitVec 6) (a : Reg) (d : Reg)
  /-- `SRLIW` (R200): 32-bit immediate logical right shift, sign-extended. -/
  | srliw (sh : BitVec 6) (a : Reg) (d : Reg)
  /-- `SRAIW` (R200): 32-bit immediate arithmetic right shift, sign-extended. -/
  | sraiw (sh : BitVec 6) (a : Reg) (d : Reg)
  /-- `RORIW` (R200): 32-bit rotate right, sign-extended. -/
  | roriw (sh : BitVec 6) (a : Reg) (d : Reg)
  /-- `SLTI` (R199): Signed set-less-than against an immediate. -/
  | slti (imm : BitVec 12) (a : Reg) (d : Reg)
  /-- `LIX` (R201): Loads a sign-extended 18-bit immediate. -/
  | lix (imm : BitVec 18) (d : Reg)
  /-- `LIXS` (R201): Shifts d left by 18 and ORs in an 18-bit immediate. -/
  | lixs (imm : BitVec 18) (d : Reg)
  /-- `FADD` (R203): FP32 add with one rounding. -/
  | fadd (b : Reg) (a : Reg) (d : Reg)
  /-- `FSUB` (R203): FP32 subtract. -/
  | fsub (b : Reg) (a : Reg) (d : Reg)
  /-- `FMUL` (R203): FP32 multiply. -/
  | fmul (b : Reg) (a : Reg) (d : Reg)
  /-- `FDIV` (R203): FP32 divide. -/
  | fdiv (b : Reg) (a : Reg) (d : Reg)
  /-- `FSQRT` (R203): FP32 square root. -/
  | fsqrt (a : Reg) (d : Reg)
  /-- `FMIN` (R202): FP32 minimum. -/
  | fmin (b : Reg) (a : Reg) (d : Reg)
  /-- `FMAX` (R202): FP32 maximum. -/
  | fmax (b : Reg) (a : Reg) (d : Reg)
  /-- `FMADD` (R203): Fused a×b+d with one rounding. -/
  | fmadd (b : Reg) (a : Reg) (d : Reg)
  /-- `FMSUB` (R203): Fused a×b−d. -/
  | fmsub (b : Reg) (a : Reg) (d : Reg)
  /-- `FNMADD` (R203): Fused d−a×b. -/
  | fnmadd (b : Reg) (a : Reg) (d : Reg)
  /-- `FEQ` (R203): FP32 equality compare. -/
  | feq (b : Reg) (a : Reg) (d : Reg)
  /-- `FLT` (R203): FP32 less-than compare. -/
  | flt (b : Reg) (a : Reg) (d : Reg)
  /-- `FLE` (R203): FP32 less-or-equal compare. -/
  | fle (b : Reg) (a : Reg) (d : Reg)
  /-- `FCLASS` (R204): Writes a one-hot class mask. -/
  | fclass (a : Reg) (d : Reg)
  /-- `FNEG` (R203): Inverts bit 31. -/
  | fneg (a : Reg) (d : Reg)
  /-- `FABS` (R203): Clears bit 31. -/
  | fabs (a : Reg) (d : Reg)
  /-- `FCVT_I64_F32` (R205): FP32 to INT64, saturating. -/
  | fcvtI64F32 (a : Reg) (d : Reg)
  /-- `FCVT_N64_F32` (R205): FP32 to UINT64, saturating. -/
  | fcvtN64F32 (a : Reg) (d : Reg)
  /-- `FCVT_I32_F32` (R205): FP32 to INT32, sign-extended. -/
  | fcvtI32F32 (a : Reg) (d : Reg)
  /-- `FCVT_N32_F32` (R205): FP32 to UINT32, zero-extended. -/
  | fcvtN32F32 (a : Reg) (d : Reg)
  /-- `FCVT_F32_I64` (R205): INT64 to FP32. -/
  | fcvtF32I64 (a : Reg) (d : Reg)
  /-- `FCVT_F32_N64` (R205): UINT64 to FP32. -/
  | fcvtF32N64 (a : Reg) (d : Reg)
  /-- `FCVT_BF16_F32` (R205): Narrows FP32 to BF16. -/
  | fcvtBf16F32 (a : Reg) (d : Reg)
  /-- `FCVT_F16_F32` (R205): Narrows FP32 to FP16. -/
  | fcvtF16F32 (a : Reg) (d : Reg)
  /-- `FCVT_F32_BF16` (R205): Widens BF16 to FP32 exactly. -/
  | fcvtF32Bf16 (a : Reg) (d : Reg)
  /-- `FCVT_F32_F16` (R205): Widens FP16 to FP32 exactly. -/
  | fcvtF32F16 (a : Reg) (d : Reg)
  /-- `B_EQ` (R206): Branches when a equals b. -/
  | bEq (imm : BitVec 12) (b : Reg) (a : Reg)
  /-- `B_NE` (R206): Branches when a differs from b. -/
  | bNe (imm : BitVec 12) (b : Reg) (a : Reg)
  /-- `B_LT` (R206): Branches when a is signed-less than b. -/
  | bLt (imm : BitVec 12) (b : Reg) (a : Reg)
  /-- `B_GE` (R206): Branches when a is signed-greater-or-equal b. -/
  | bGe (imm : BitVec 12) (b : Reg) (a : Reg)
  /-- `B_LTN` (R206): Branches on unsigned less-than. -/
  | bLtn (imm : BitVec 12) (b : Reg) (a : Reg)
  /-- `B_GEN` (R206): Branches on unsigned greater-or-equal. -/
  | bGen (imm : BitVec 12) (b : Reg) (a : Reg)
  /-- `J` (R207): Jumps to a PC-relative target. -/
  | j (imm : BitVec 24)
  /-- `JAL` (R207): Writes lk with the return address and jumps. -/
  | jal (imm : BitVec 24)
  /-- `NOP` (R208): Does nothing. -/
  | nop
  /-- `JR` (R208): Jumps to the address in a register. -/
  | jr (a : Reg)
  /-- `JALR` (R208): Jumps to a register address and links. -/
  | jalr (a : Reg) (d : Reg)
  /-- `LP` (R211): Starts a zero-overhead hardware loop over L parcels. -/
  | lp (len : BitVec 12) (a : Reg)
  /-- `PCA` (R208): Writes the address of the next instruction. -/
  | pca (d : Reg)
  /-- `DONE` (R315): Ends the activation: waits, commits the log, releases the out-buffer and retires. -/
  | done
  /-- `FLUSH` (R316): Commits the log, releases the out-buffer and marks the activation non-replayable. -/
  | flush
  /-- `LD` (R120): Loads from the own scratchpad window. -/
  | ld (off : BitVec 9) (t : MemType) (base : Reg) (d : Reg)
  /-- `ST` (R120): Stores to the own scratchpad window. -/
  | st (off : BitVec 9) (t : MemType) (base : Reg) (s : Reg)
  /-- `LDB` (R120): Loads from another tile of the bay through its port thread. -/
  | ldb (off : BitVec 3) (t : MemType) (ti : Reg) (base : Reg) (d : Reg)
  /-- `STB` (R120): Stores to another tile of the bay through its port thread. -/
  | stb (off : BitVec 3) (t : MemType) (ti : Reg) (base : Reg) (s : Reg)
  /-- `LDG` (R61): Loads through a resource after checks and translation. -/
  | ldg (scale : BitVec 3) (t : MemType) (o : Reg) (res : Reg) (d : Reg)
  /-- `STG` (R61): Stores through a resource after checks and translation. -/
  | stg (scale : BitVec 3) (t : MemType) (o : Reg) (res : Reg) (d : Reg)
  /-- `AMO_SWAP` (R128): Atomic swap at the space of the address word. -/
  | amoSwap (w : AmoWidth) (b : Reg) (a : Reg) (d : Reg)
  /-- `AMO_ADD` (R128): Atomic add. -/
  | amoAdd (w : AmoWidth) (b : Reg) (a : Reg) (d : Reg)
  /-- `AMO_AND` (R128): Atomic AND. -/
  | amoAnd (w : AmoWidth) (b : Reg) (a : Reg) (d : Reg)
  /-- `AMO_OR` (R128): Atomic OR. -/
  | amoOr (w : AmoWidth) (b : Reg) (a : Reg) (d : Reg)
  /-- `AMO_XOR` (R128): Atomic XOR. -/
  | amoXor (w : AmoWidth) (b : Reg) (a : Reg) (d : Reg)
  /-- `AMO_MAX_I` (R128): Atomic signed maximum. -/
  | amoMaxI (w : AmoWidth) (b : Reg) (a : Reg) (d : Reg)
  /-- `AMO_MIN_I` (R128): Atomic signed minimum. -/
  | amoMinI (w : AmoWidth) (b : Reg) (a : Reg) (d : Reg)
  /-- `AMO_MAX_N` (R128): Atomic unsigned maximum. -/
  | amoMaxN (w : AmoWidth) (b : Reg) (a : Reg) (d : Reg)
  /-- `AMO_MIN_N` (R128): Atomic unsigned minimum. -/
  | amoMinN (w : AmoWidth) (b : Reg) (a : Reg) (d : Reg)
  /-- `AMO_CAS` (R128): Atomic compare-and-swap against e0. -/
  | amoCas (w : AmoWidth) (b : Reg) (a : Reg) (d : Reg)
  /-- `AMO_FADD` (R128): Atomic FP32 add, width 32 only. -/
  | amoFadd (b : Reg) (a : Reg) (d : Reg)
  /-- `FENCE` (R298): Acquire, release or full fence at a named scope, optionally waiting for the vector stream. -/
  | fence (scope : Scope) (vec : Bool) (kind : FenceKind)
  /-- `LD_ACQ` (R299): Load followed by an acquire at the scope of its space. -/
  | ldAcq (sys : Bool) (t : MemType) (a : Reg) (d : Reg)
  /-- `ST_REL` (R299): Release followed by a store. -/
  | stRel (sys : Bool) (t : MemType) (a : Reg) (s : Reg)
  /-- `CINV` (R300): Removes one line of the tenant from the tile's read cache. -/
  | cinv (a : Reg)
  /-- `CINV_ALL` (R300): Removes every read-cache line of the tenant. -/
  | cinvAll
  /-- `MSG_SEND` (R320): Buffers a channel message with a payload from the scratchpad. -/
  | msgSend (rep : Bool) (b : Reg) (a : Reg)
  /-- `MSG_SENDN` (R320): Buffers a channel message whose payload is n0 to n(k−1). -/
  | msgSendn (k : BitVec 3) (rep : Bool) (a : Reg)
  /-- `MSG_SPAWN` (R320): Buffers a spawn built from e0–e2. -/
  | msgSpawn (a : Reg)
  /-- `MSG_HOST` (R320): Buffers a message to the host channel. -/
  | msgHost (b : Reg)
  /-- `MSG_PUT` (R320): Buffers a put into another tile's scratchpad. -/
  | msgPut (rep : Bool) (b : Reg) (a : Reg)
  /-- `MSG_ARG` (R321): Reads a payload word of the triggering message. -/
  | msgArg (b : Reg) (a : Reg)
  /-- `MSG_HDR` (R321): Reads a header word of the triggering message. -/
  | msgHdr (b : Reg) (a : Reg)
  /-- `MSG_MASK` (R321): Masks or unmasks a channel of the tenant. -/
  | msgMask (c : BitVec 6) (b : Reg)
  /-- `BAR_ARR` (R326): Buffers an arrival at a barrier of a group. -/
  | barArr (a : Reg)
  /-- `GRP_RANK` (R326): Returns the tile's rank in a group. -/
  | grpRank (b : Reg) (a : Reg)
  /-- `GRP_SIZE` (R326): Returns a group's size. -/
  | grpSize (b : Reg) (a : Reg)
  /-- `GRP_TILE` (R326): Returns the logical tile of a member rank. -/
  | grpTile (b : Reg) (a : Reg)
  /-- `GRP_SEND` (R326): Buffers one message to every member of a group. -/
  | grpSend (rep : Bool) (b : Reg) (a : Reg)
  /-- `MX_LDB` (R266): Loads a B K-step into a latch buffer. -/
  | mxLdb (a : Reg)
  /-- `MX_MMA` (R263): Matrix multiply-accumulate command. -/
  | mxMma (notify : Bool) (c : BitVec 6) (b : Reg) (a : Reg)
  /-- `MX_ZERO` (R267): Zeroes accumulator rows. -/
  | mxZero (notify : Bool) (c : BitVec 6) (b : Reg)
  /-- `MX_RD` (R272): Converts accumulator rows and writes them to the scratchpad. -/
  | mxRd (notify : Bool) (c : BitVec 6) (b : Reg) (a : Reg)
  /-- `MX_LDACC` (R267): Loads accumulator rows from the scratchpad. -/
  | mxLdacc (notify : Bool) (c : BitVec 6) (b : Reg) (a : Reg)
  /-- `MX_BAY` (R278): Buffers one mma for all 16 engines of the bay. -/
  | mxBay (notify : Bool) (c : BitVec 6) (b : Reg) (a : Reg)
  /-- `MX_STAT` (R276): Waits for earlier local commands and returns engine flags. -/
  | mxStat (b : Reg) (a : Reg)
  /-- `MX_CFG` (R268): Sets the engine configuration. -/
  | mxCfg (a : Reg)
  /-- `CP_GL` (R95): Copy from global memory to the own scratchpad. -/
  | cpGl (chain : Bool) (notify : Bool) (c : BitVec 4) (a : Reg)
  /-- `CP_GB` (R95): Copy from global memory to the own B-store. -/
  | cpGb (chain : Bool) (notify : Bool) (c : BitVec 4) (a : Reg)
  /-- `CP_LG` (R95): Buffered copy from the scratchpad to global memory. -/
  | cpLg (notify : Bool) (c : BitVec 4) (a : Reg)
  /-- `CP_GG` (R95): Buffered copy from global to global memory. -/
  | cpGg (notify : Bool) (c : BitVec 4) (a : Reg)
  /-- `CP_LB` (R95): Copy from the own scratchpad to the own B-store. -/
  | cpLb (chain : Bool) (notify : Bool) (c : BitVec 4) (a : Reg)
  /-- `CP_LS` (R95): Copy from the own scratchpad to a tile's scratchpad. -/
  | cpLs (chain : Bool) (notify : Bool) (c : BitVec 4) (b : Reg) (a : Reg)
  /-- `CP_LSB` (R95): Copy from the own scratchpad to a tile's B-store. -/
  | cpLsb (chain : Bool) (notify : Bool) (c : BitVec 4) (b : Reg) (a : Reg)
  /-- `CP_PL` (R95): Copy from a tile's scratchpad to the own scratchpad. -/
  | cpPl (chain : Bool) (notify : Bool) (c : BitVec 4) (b : Reg) (a : Reg)
  /-- `CP_CANCEL` (R104): Cancels a range of transfers of a channel. -/
  | cpCancel (c : BitVec 4) (b : Reg) (a : Reg)
  /-- `CP_CFG` (R103): Sets a channel's stage limits. -/
  | cpCfg (c : BitVec 4) (b : Reg) (a : Reg)
  /-- `CP_CREC` (R103): Reads a cancel record entry or the cancel count. -/
  | cpCrec (c : BitVec 4) (b : Reg) (a : Reg)
  /-- `GX_LD` (R105): Gathers indexed table rows into the scratchpad. -/
  | gxLd (chain : Bool) (notify : Bool) (c : BitVec 4) (a : Reg)
  /-- `GX_ST` (R105): Buffered scatter of local rows into table rows. -/
  | gxSt (notify : Bool) (c : BitVec 4) (a : Reg)
  /-- `GX_LDB` (R105): Gathers indexed table rows into the B-store. -/
  | gxLdb (chain : Bool) (notify : Bool) (c : BitVec 4) (a : Reg)
  /-- `CMB_MAX` (R366): Buffers a max contribution to a combine. -/
  | cmbMax (i32 : Bool) (b : Reg) (a : Reg)
  /-- `CMB_MIN` (R366): Buffers a min contribution. -/
  | cmbMin (i32 : Bool) (b : Reg) (a : Reg)
  /-- `CMB_LGC` (R366): Buffers a logical contribution. -/
  | cmbLgc (op : LgcOp) (b : Reg) (a : Reg)
  /-- `CMB_ADD` (R366): Buffers an add contribution. -/
  | cmbAdd (b : Reg) (a : Reg)
  /-- `TM_PUB` (R144): Publishes a scratchpad snapshot into a Transom slot. -/
  | tmPub (now : Bool) (b : Reg)
  /-- `TM_GET` (R143): Reads the newest version of a slot with its header. -/
  | tmGet (b : Reg) (a : Reg)
  /-- `TM_AGE` (R143): Returns the age of a slot's newest version. -/
  | tmAge (b : Reg) (a : Reg)
  /-- `TM_ARM` (R145): Sets or removes a slot's notification target. -/
  | tmArm (b : Reg)
  /-- `TM_CFG` (R146): Writes or reads a slot configuration. -/
  | tmCfg (rd : Bool) (b : Reg) (a : Reg)
  /-- `REQ_SUB` (R363): Submits a request record. -/
  | reqSub (b : Reg) (a : Reg)
  /-- `REQ_STEP` (R356): Buffers a batch step. -/
  | reqStep (a : Reg)
  /-- `REQ_RD` (R363): Copies a request record to the scratchpad. -/
  | reqRd (b : Reg) (a : Reg)
  /-- `REQ_COMMIT` (R359): Commits 1 to 8 tokens to a row's request. -/
  | reqCommit (b : Reg) (a : Reg)
  /-- `REQ_FAULT` (R360): Buffers a fault of one row's request. -/
  | reqFault (a : Reg)
  /-- `REQ_CFG_ROWS` (R363): Sets the batch rows B from the next step. -/
  | reqCfgRows (b : Reg) (a : Reg)
  /-- `REQ_CFG_STOPSET` (R363): Replaces a stop-token set. -/
  | reqCfgStopset (b : Reg) (a : Reg)
  /-- `REQ_CANCEL` (R354): Cancels or frees a request record. -/
  | reqCancel (free : Bool) (b : Reg) (a : Reg)
  /-- `REQ_KV_ATTACH` (R361): Attaches a KV page for a tenant. -/
  | reqKvAttach (b : Reg) (a : Reg)
  /-- `REQ_KV_DETACH` (R361): Detaches a KV page. -/
  | reqKvDetach (b : Reg) (a : Reg)
  /-- `REQ_KV_EVICT` (R362): Finds and claims an eviction victim page. -/
  | reqKvEvict (b : Reg) (a : Reg)
  /-- `REQ_KV_RELEASE` (R361): Releases an evicting page. -/
  | reqKvRelease (b : Reg) (a : Reg)
  /-- `TMR_SET` (R375): Sets or disables a reflex timer. -/
  | tmrSet (b : Reg) (a : Reg)
  /-- `TMR_RD` (R375): Reads a timer item. -/
  | tmrRd (b : Reg) (a : Reg)
  /-- `WKT_SEIZE` (R386): Sends a seize request over the Wicket line. -/
  | wktSeize (b : Reg) (a : Reg)
  /-- `WKT_REL` (R386): Sends a release to a bay's Wicket unit. -/
  | wktRel (a : Reg)
  /-- `WKT_STAT` (R386): Reads a bay's Wicket state and sbrem. -/
  | wktStat (b : Reg) (a : Reg)
  /-- `EXT_W` (R167): Writes an extension register. -/
  | extW (n : BitVec 3) (a : Reg)
  /-- `EXT_GET` (R167): Reads an extension register. -/
  | extGet (n : BitVec 3) (a : Reg)
  /-- `EXT_LIX` (R167): Loads a sign-extended 16-bit immediate into an e register. -/
  | extLix (n : BitVec 3) (imm : BitVec 16)
  /-- `EXT_LIXS` (R167): Shifts an e register left 16 and ORs in an immediate. -/
  | extLixs (n : BitVec 3) (imm : BitVec 16)
  /-- `SHP_LD` (R168): Loads a shape register from the scratchpad. -/
  | shpLd (n : BitVec 4) (b : Reg)
  /-- `SHP_ST` (R168): Stores a shape register to the scratchpad. -/
  | shpSt (n : BitVec 4) (b : Reg)
  /-- `SHP_SET` (R168): Sets a field of a shape register. -/
  | shpSet (n : BitVec 4) (f : BitVec 6) (a : Reg)
  /-- `SHP_GET` (R168): Reads a field of a shape register. -/
  | shpGet (n : BitVec 4) (f : BitVec 6) (a : Reg)
  /-- `REC_SLICE` (R169): Derives the tile's slice record from a broadcast record. -/
  | recSlice (idx : BitVec 6) (b : Reg) (a : Reg)
  /-- `CSR_RW` (R407): Reads and writes a control register. -/
  | csrRw (n : BitVec 10) (a : Reg) (d : Reg)
  /-- `CSR_RS` (R407): Reads and sets bits of a control register. -/
  | csrRs (n : BitVec 10) (a : Reg) (d : Reg)
  /-- `CSR_RC` (R407): Reads and clears bits of a control register. -/
  | csrRc (n : BitVec 10) (a : Reg) (d : Reg)
  /-- `WAKE_REQ` (R404): Writing 1 to WAKE.req while asleep starts a wake of the reasoning array. -/
  | wakeReq
  /-- `TRET` (R409): Returns from trap code, restoring prefix and loop state. -/
  | tret
  /-- `TRAP_AB` (R409): Software abort with cause 0x2C. -/
  | trapAb (a : Reg)
  /-- `TRAP_DEAD` (R409): Abort with cause 0x2D sending the message to the dead area. -/
  | trapDead (a : Reg)
  /-- `FRZ_REL` (R395): Releases a frozen master with resume or abort. -/
  | frzRel (b : Reg) (a : Reg) (d : Reg)
  /-- `EQ_POP` (R409): Moves the oldest virtual error queue entry to the scratchpad. -/
  | eqPop (b : Reg) (d : Reg)
  /-- `TLB_WR` (R67): Installs a page in a tile's TLB and optionally resumes the parked miss. -/
  | tlbWr (b : Reg) (a : Reg) (d : Reg)
  /-- `TLB_NAK` (R67): Answers a miss with not-mapped, permission or retry. -/
  | tlbNak (b : Reg) (a : Reg) (d : Reg)
  /-- `TLB_INV` (R67): Removes overlapping entries of a tenant from all TLBs of the bay. -/
  | tlbInv (a : Reg) (d : Reg)
  /-- `TLB_INVT` (R67): Removes every entry of a tenant from the bay's TLBs. -/
  | tlbInvt (a : Reg) (d : Reg)
  /-- `RES_WR` (R69): Replaces a resource entry and invalidates cached copies. -/
  | resWr (b : Reg) (a : Reg) (d : Reg)
  /-- `RES_RD` (R71): Copies a resource entry to the scratchpad. -/
  | resRd (b : Reg) (a : Reg)
  /-- `BND_WR` (R409): Writes a bound register and clears its count. -/
  | bndWr (b : Reg) (a : Reg)
  /-- `BND_RD` (R409): Reads a bound register field. -/
  | bndRd (a : Reg) (d : Reg)
  /-- `BND_CLR` (R409): Clears bound counts and flags. -/
  | bndClr (a : Reg)
  /-- `WEAR_RD` (R342): Reads wear or tile-state values. -/
  | wearRd (b : Reg) (d : Reg)
  /-- `LV_HOLD` (R343): Requests and holds a block of leave tokens. -/
  | lvHold (a : Reg)
  /-- `LV_DROP` (R343): Returns the activation's hold. -/
  | lvDrop
  /-- `LV_STAT` (R342): Reads pool or hold state. -/
  | lvStat (b : Reg) (d : Reg)
  /-- `LV_SHARE` (R342): System core sets a bay's token pool. -/
  | lvShare (b : Reg) (a : Reg) (d : Reg)
  /-- `WEAR_SET` (R347): System core sets a tile's stress weight and state. -/
  | wearSet (b : Reg) (a : Reg) (d : Reg)
  /-- `PART_MK` (R413): Creates a partition from a descriptor. -/
  | partMk (a : Reg) (d : Reg)
  /-- `PART_FREE` (R432): Frees an empty partition. -/
  | partFree (a : Reg) (d : Reg)
  /-- `PART_HOLD` (R336): Sets or clears a dispatch hold on a partition. -/
  | partHold (b : Reg) (a : Reg) (d : Reg)
  /-- `PART_HALT` (R417): Halts or unhalts a partition. -/
  | partHalt (b : Reg) (a : Reg) (d : Reg)
  /-- `PART_SWAP` (R421): Saves one partition while restoring another. -/
  | partSwap (b : Reg) (a : Reg) (d : Reg)
  /-- `SHUT_POST` (R423): Posts an eviction deadline and starts the shutter. -/
  | shutPost (b : Reg) (a : Reg) (d : Reg)
  /-- `SHUT_STAT` (R432): Reads shutter state. -/
  | shutStat (b : Reg) (a : Reg) (d : Reg)
  /-- `VF_CTL_PAUSE` (R429): Pauses a function's interrupt delivery. -/
  | vfCtlPause (b : Reg) (a : Reg) (d : Reg)
  /-- `VF_CTL_RESUME` (R429): Resumes a function and raises a pending vector. -/
  | vfCtlResume (b : Reg) (a : Reg) (d : Reg)
  /-- `VF_CTL_RESET` (R430): Resets a function in the fixed order. -/
  | vfCtlReset (b : Reg) (a : Reg) (d : Reg)
  /-- `VF_CTL_TEARDOWN` (R431): Tears down a host queue, optionally killing its activations. -/
  | vfCtlTeardown (b : Reg) (a : Reg) (d : Reg)
  /-- `VFADD` (R222): Vector FP add. -/
  | vfadd (vs : Bool) (t : FpType) (km : Km) (vb : VReg) (va : VReg) (vd : VReg)
  /-- `VFSUB` (R222): Vector FP subtract. -/
  | vfsub (vs : Bool) (t : FpType) (km : Km) (vb : VReg) (va : VReg) (vd : VReg)
  /-- `VFMUL` (R222): Vector FP multiply. -/
  | vfmul (vs : Bool) (t : FpType) (km : Km) (vb : VReg) (va : VReg) (vd : VReg)
  /-- `VFMA` (R222): Vector fused multiply-add. -/
  | vfma (vs : Bool) (t : FpType) (km : Km) (vb : VReg) (va : VReg) (vd : VReg)
  /-- `VFNMA` (R222): Vector fused vd−va×vb. -/
  | vfnma (vs : Bool) (t : FpType) (km : Km) (vb : VReg) (va : VReg) (vd : VReg)
  /-- `VFMIN` (R222): Vector FP minimum. -/
  | vfmin (vs : Bool) (t : FpType) (km : Km) (vb : VReg) (va : VReg) (vd : VReg)
  /-- `VFMAX` (R222): Vector FP maximum. -/
  | vfmax (vs : Bool) (t : FpType) (km : Km) (vb : VReg) (va : VReg) (vd : VReg)
  /-- `VFDIV` (R222): Vector FP divide. -/
  | vfdiv (vs : Bool) (t : FpType) (km : Km) (vb : VReg) (va : VReg) (vd : VReg)
  /-- `VADD` (R223): Vector integer add. -/
  | vadd (vs : Bool) (z : EltSize) (km : Km) (vb : VReg) (va : VReg) (vd : VReg)
  /-- `VSUB` (R223): Vector integer subtract. -/
  | vsub (vs : Bool) (z : EltSize) (km : Km) (vb : VReg) (va : VReg) (vd : VReg)
  /-- `VMUL` (R223): Vector integer multiply. -/
  | vmul (vs : Bool) (z : EltSize) (km : Km) (vb : VReg) (va : VReg) (vd : VReg)
  /-- `VMAC` (R223): Vector integer multiply-accumulate. -/
  | vmac (vs : Bool) (z : EltSize) (km : Km) (vb : VReg) (va : VReg) (vd : VReg)
  /-- `VMIN_I` (R223): Vector signed minimum. -/
  | vminI (vs : Bool) (z : EltSize) (km : Km) (vb : VReg) (va : VReg) (vd : VReg)
  /-- `VMAX_I` (R223): Vector signed maximum. -/
  | vmaxI (vs : Bool) (z : EltSize) (km : Km) (vb : VReg) (va : VReg) (vd : VReg)
  /-- `VMIN_N` (R223): Vector unsigned minimum. -/
  | vminN (vs : Bool) (z : EltSize) (km : Km) (vb : VReg) (va : VReg) (vd : VReg)
  /-- `VMAX_N` (R223): Vector unsigned maximum. -/
  | vmaxN (vs : Bool) (z : EltSize) (km : Km) (vb : VReg) (va : VReg) (vd : VReg)
  /-- `VAND` (R224): Vector AND. -/
  | vand (vs : Bool) (z : EltSize) (km : Km) (vb : VReg) (va : VReg) (vd : VReg)
  /-- `VOR` (R224): Vector OR. -/
  | vor (vs : Bool) (z : EltSize) (km : Km) (vb : VReg) (va : VReg) (vd : VReg)
  /-- `VXOR` (R224): Vector XOR. -/
  | vxor (vs : Bool) (z : EltSize) (km : Km) (vb : VReg) (va : VReg) (vd : VReg)
  /-- `VANDN` (R224): Vector AND NOT. -/
  | vandn (vs : Bool) (z : EltSize) (km : Km) (vb : VReg) (va : VReg) (vd : VReg)
  /-- `VSLL` (R224): Vector left shift. -/
  | vsll (vs : Bool) (z : EltSize) (km : Km) (vb : VReg) (va : VReg) (vd : VReg)
  /-- `VSRL` (R224): Vector logical right shift. -/
  | vsrl (vs : Bool) (z : EltSize) (km : Km) (vb : VReg) (va : VReg) (vd : VReg)
  /-- `VSRA` (R224): Vector arithmetic right shift. -/
  | vsra (vs : Bool) (z : EltSize) (km : Km) (vb : VReg) (va : VReg) (vd : VReg)
  /-- `VMOV` (R224): Vector move or scalar broadcast. -/
  | vmov (vs : Bool) (z : EltSize) (km : Km) (vb : VReg) (vd : VReg)
  /-- `VCEQ` (R226): Integer equality compare into a mask. -/
  | vceq (vs : Bool) (z : EltSize) (km : Km) (vb : VReg) (va : VReg) (vd : VReg)
  /-- `VCLT` (R226): Signed less-than compare. -/
  | vclt (vs : Bool) (z : EltSize) (km : Km) (vb : VReg) (va : VReg) (vd : VReg)
  /-- `VCGE` (R226): Signed greater-or-equal compare. -/
  | vcge (vs : Bool) (z : EltSize) (km : Km) (vb : VReg) (va : VReg) (vd : VReg)
  /-- `VCLTN` (R226): Unsigned less-than compare. -/
  | vcltn (vs : Bool) (z : EltSize) (km : Km) (vb : VReg) (va : VReg) (vd : VReg)
  /-- `VCGEN` (R226): Unsigned greater-or-equal compare. -/
  | vcgen (vs : Bool) (z : EltSize) (km : Km) (vb : VReg) (va : VReg) (vd : VReg)
  /-- `VFEQ` (R226): FP equality compare. -/
  | vfeq (vs : Bool) (t : FpType) (km : Km) (vb : VReg) (va : VReg) (vd : VReg)
  /-- `VFLT` (R226): FP less-than compare. -/
  | vflt (vs : Bool) (t : FpType) (km : Km) (vb : VReg) (va : VReg) (vd : VReg)
  /-- `VFLE` (R226): FP less-or-equal compare. -/
  | vfle (vs : Bool) (t : FpType) (km : Km) (vb : VReg) (va : VReg) (vd : VReg)
  /-- `KAND` (R227): Mask AND. -/
  | kand (vb : VReg) (va : VReg) (vd : VReg)
  /-- `KOR` (R227): Mask OR. -/
  | kor (vb : VReg) (va : VReg) (vd : VReg)
  /-- `KXOR` (R227): Mask XOR. -/
  | kxor (vb : VReg) (va : VReg) (vd : VReg)
  /-- `KANDN` (R227): Mask AND NOT. -/
  | kandn (vb : VReg) (va : VReg) (vd : VReg)
  /-- `KNOT` (R227): Mask NOT. -/
  | knot (va : VReg) (vd : VReg)
  /-- `KPOP` (R227): Appends the mask's set-bit count to q4–q7. -/
  | kpop (va : VReg) (vd : VReg)
  /-- `KFIRST` (R227): Appends the index of the lowest set bit. -/
  | kfirst (va : VReg) (vd : VReg)
  /-- `KWORD` (R227): Appends the four words of a mask. -/
  | kword (va : VReg) (vd : VReg)
  /-- `KLO` (R227): Sets the low n bits of a mask from a queue entry. -/
  | klo (vb : VReg) (vd : VReg)
  /-- `KSET` (R227): Sets a mask from four queue entries. -/
  | kset (vb : VReg) (vd : VReg)
  /-- `VCVT_F32_BF16` (R229): Widens half of a BF16 register to FP32. -/
  | vcvtF32Bf16 (km : Km) (part : VReg) (va : VReg) (vd : VReg)
  /-- `VCVT_F32_F16` (R229): Widens half of an FP16 register to FP32. -/
  | vcvtF32F16 (km : Km) (part : VReg) (va : VReg) (vd : VReg)
  /-- `VCVT_BF16_F32` (R229): Narrows two FP32 registers to BF16. -/
  | vcvtBf16F32 (km : Km) (vb : VReg) (va : VReg) (vd : VReg)
  /-- `VCVT_F16_F32` (R229): Narrows two FP32 registers to FP16. -/
  | vcvtF16F32 (km : Km) (vb : VReg) (va : VReg) (vd : VReg)
  /-- `VCVT_F16_BF16` (R229): Converts BF16 to FP16. -/
  | vcvtF16Bf16 (km : Km) (va : VReg) (vd : VReg)
  /-- `VCVT_BF16_F16` (R229): Converts FP16 to BF16. -/
  | vcvtBf16F16 (km : Km) (va : VReg) (vd : VReg)
  /-- `VCVT_F32_I32` (R229): Converts INT32 to FP32. -/
  | vcvtF32I32 (km : Km) (va : VReg) (vd : VReg)
  /-- `VCVT_I32_F32` (R229): Converts FP32 to INT32, saturating. -/
  | vcvtI32F32 (km : Km) (va : VReg) (vd : VReg)
  /-- `VCVT_F32_I8` (R229): Widens a quarter of INT8 elements to FP32. -/
  | vcvtF32I8 (km : Km) (part : VReg) (va : VReg) (vd : VReg)
  /-- `VWID_I16_I8` (R229): Sign-extends INT8 to INT16. -/
  | vwidI16I8 (km : Km) (part : VReg) (va : VReg) (vd : VReg)
  /-- `VWID_I32_I16` (R229): Sign-extends INT16 to INT32. -/
  | vwidI32I16 (km : Km) (part : VReg) (va : VReg) (vd : VReg)
  /-- `VWID_N16_N8` (R229): Zero-extends UINT8 to UINT16. -/
  | vwidN16N8 (km : Km) (part : VReg) (va : VReg) (vd : VReg)
  /-- `VWID_N32_N16` (R229): Zero-extends UINT16 to UINT32. -/
  | vwidN32N16 (km : Km) (part : VReg) (va : VReg) (vd : VReg)
  /-- `VNAR_I8_I16` (R229): Narrows two INT16 registers to INT8. -/
  | vnarI8I16 (km : Km) (vb : VReg) (va : VReg) (vd : VReg)
  /-- `VNAR_I16_I32` (R229): Narrows two INT32 registers to INT16. -/
  | vnarI16I32 (km : Km) (vb : VReg) (va : VReg) (vd : VReg)
  /-- `VGSC_LO` (R230): Multiplies FP32 elements by the low BF16 scales. -/
  | vgscLo (km : Km) (vb : VReg) (va : VReg) (vd : VReg)
  /-- `VGSC_HI` (R230): Multiplies FP32 elements by the high BF16 scales. -/
  | vgscHi (km : Km) (vb : VReg) (va : VReg) (vd : VReg)
  /-- `VUNPK_I8_I4` (R229): Unpacks INT4 elements to INT8. -/
  | vunpkI8I4 (km : Km) (part : VReg) (va : VReg) (vd : VReg)
  /-- `VPK_I4_I8` (R229): Packs two INT8 registers to INT4. -/
  | vpkI4I8 (km : Km) (vb : VReg) (va : VReg) (vd : VReg)
  /-- `VPERM_B` (R231): Byte permute by index. -/
  | vpermB (km : Km) (vb : VReg) (va : VReg) (vd : VReg)
  /-- `VNIB_LO` (R231): Table lookup by low nibbles. -/
  | vnibLo (km : Km) (vb : VReg) (va : VReg) (vd : VReg)
  /-- `VNIB_HI` (R231): Table lookup by high nibbles. -/
  | vnibHi (km : Km) (vb : VReg) (va : VReg) (vd : VReg)
  /-- `VBCAST` (R231): Broadcasts element j. -/
  | vbcast (z : EltSize) (km : Km) (el : VReg) (va : VReg) (vd : VReg)
  /-- `VSLUP` (R231): Slides elements up by n. -/
  | vslup (z : EltSize) (km : Km) (cnt : VReg) (va : VReg) (vd : VReg)
  /-- `VSLDN` (R231): Slides elements down by n. -/
  | vsldn (z : EltSize) (km : Km) (cnt : VReg) (va : VReg) (vd : VReg)
  /-- `VCOMP` (R232): Compresses selected elements to the front. -/
  | vcomp (z : EltSize) (km : Km) (va : VReg) (vd : VReg)
  /-- `VIDX` (R231): Writes element indices. -/
  | vidx (z : EltSize) (km : Km) (vd : VReg)
  /-- `VMVQ` (R231): Appends element j to q4–q7. -/
  | vmvq (z : EltSize) (el : VReg) (va : VReg) (vd : VReg)
  /-- `VRSUM` (R234): Tree-sum reduction to a queue entry. -/
  | vrsum (t : RedType) (km : Km) (va : VReg) (vd : VReg)
  /-- `VRMAX` (R234): Maximum reduction. -/
  | vrmax (t : RedType) (km : Km) (va : VReg) (vd : VReg)
  /-- `VRMIN` (R234): Minimum reduction. -/
  | vrmin (t : RedType) (km : Km) (va : VReg) (vd : VReg)
  /-- `VRAMAX` (R234): Arg-max reduction with index. -/
  | vramax (t : RedType) (km : Km) (va : VReg) (vd : VReg)
  /-- `VRAMIN` (R234): Arg-min reduction with index. -/
  | vramin (t : RedType) (km : Km) (va : VReg) (vd : VReg)
  /-- `VSCAN` (R235): Inclusive prefix fold. -/
  | vscan (t : RedType) (km : Km) (va : VReg) (vd : VReg)
  /-- `VHIST` (R236): Counts 4-bit digits into 16 counters. -/
  | vhist (t : RedType) (km : Km) (cnt : VReg) (va : VReg) (vd : VReg)
  /-- `VEXP2` (R238): Computes 2^x by the fixed algorithm. -/
  | vexp2 (km : Km) (va : VReg) (vd : VReg)
  /-- `VLOG2` (R239): Computes log2 x by the fixed algorithm. -/
  | vlog2 (km : Km) (va : VReg) (vd : VReg)
  /-- `VRCP` (R240): Correctly rounded reciprocal. -/
  | vrcp (km : Km) (va : VReg) (vd : VReg)
  /-- `VRSQRT` (R240): Correctly rounded reciprocal square root. -/
  | vrsqrt (km : Km) (va : VReg) (vd : VReg)
  /-- `VSQRT` (R240): Correctly rounded square root. -/
  | vsqrt (km : Km) (va : VReg) (vd : VReg)
  /-- `VRNG_N32` (R242): Counter-based random UINT32. -/
  | vrngN32 (km : Km) (vb : VReg) (va : VReg) (vd : VReg)
  /-- `VRNG_F32` (R242): Counter-based random FP32 in [0,1). -/
  | vrngF32 (km : Km) (vb : VReg) (va : VReg) (vd : VReg)
  /-- `VORD` (R243): Maps elements to order-preserving unsigned keys. -/
  | vord (t : OrdType) (km : Km) (va : VReg) (vd : VReg)
  /-- `VORDI` (R243): Maps keys back to elements. -/
  | vordi (t : OrdType) (km : Km) (va : VReg) (vd : VReg)
  /-- `VLD` (R247): Loads 256 bytes from the own window. -/
  | vld (km : Km) (base : Reg) (v : VReg)
  /-- `VST` (R247): Stores 256 bytes to the own window. -/
  | vst (km : Km) (base : Reg) (v : VReg)
  /-- `VLDS` (R247): Strided vector load. -/
  | vlds (km : Km) (stride : Reg) (base : Reg) (v : VReg)
  /-- `VSTS` (R247): Strided vector store. -/
  | vsts (km : Km) (stride : Reg) (base : Reg) (v : VReg)
  /-- `VLDG` (R247): Loads 256 bytes through a resource. -/
  | vldg (km : Km) (base : Reg) (v : VReg)
  /-- `VSTG` (R247): Stores 256 bytes through a resource with bound checks. -/
  | vstg (km : Km) (base : Reg) (v : VReg)
  /-- `VLDB` (R247): Loads one element and broadcasts it. -/
  | vldb (km : Km) (base : Reg) (v : VReg)
  /-- `COMPACT_ADD` (R41): Compact add ds, ds, b. -/
  | compactAdd (b : CReg) (d : CReg)
  /-- `COMPACT_SUB` (R41): Compact sub. -/
  | compactSub (b : CReg) (d : CReg)
  /-- `COMPACT_AND` (R41): Compact and. -/
  | compactAnd (b : CReg) (d : CReg)
  /-- `COMPACT_OR` (R41): Compact or. -/
  | compactOr (b : CReg) (d : CReg)
  /-- `COMPACT_XOR` (R41): Compact xor. -/
  | compactXor (b : CReg) (d : CReg)
  /-- `COMPACT_SLL` (R41): Compact sll. -/
  | compactSll (b : CReg) (d : CReg)
  /-- `COMPACT_SRL` (R41): Compact srl. -/
  | compactSrl (b : CReg) (d : CReg)
  /-- `COMPACT_SRA` (R41): Compact sra. -/
  | compactSra (b : CReg) (d : CReg)
  /-- `COMPACT_MUL` (R41): Compact mul. -/
  | compactMul (b : CReg) (d : CReg)
  /-- `COMPACT_MOVE` (R41): Compact register move add ds, b, z. -/
  | compactMove (b : CReg) (d : CReg)
  /-- `COMPACT_ADDI` (R42): Compact addi with a 6-bit immediate. -/
  | compactAddi (imm : BitVec 6) (d : CReg)
  /-- `COMPACT_LIX` (R42): Compact lix with a 6-bit immediate. -/
  | compactLix (imm : BitVec 6) (d : CReg)
  /-- `COMPACT_ANDI` (R42): Compact andi. -/
  | compactAndi (imm : BitVec 6) (d : CReg)
  /-- `COMPACT_SLLI` (R42): Compact slli. -/
  | compactSlli (imm : BitVec 6) (d : CReg)
  /-- `COMPACT_SRLI` (R42): Compact srli. -/
  | compactSrli (imm : BitVec 6) (d : CReg)
  /-- `COMPACT_SRAI` (R42): Compact srai. -/
  | compactSrai (imm : BitVec 6) (d : CReg)
  /-- `COMPACT_LD_I64` (R43): Compact ld.i64. -/
  | compactLdI64 (off : BitVec 2) (b : CReg) (d : CReg)
  /-- `COMPACT_ST_I64` (R43): Compact st.i64. -/
  | compactStI64 (off : BitVec 2) (b : CReg) (s : CReg)
  /-- `COMPACT_LD_I32` (R43): Compact ld.i32. -/
  | compactLdI32 (off : BitVec 2) (b : CReg) (d : CReg)
  /-- `COMPACT_ST_I32` (R43): Compact st.i32. -/
  | compactStI32 (off : BitVec 2) (b : CReg) (s : CReg)
  /-- `COMPACT_B_EQ` (R43): Compact branch if a equals zero. -/
  | compactBEq (imm : BitVec 6) (a : CReg)
  /-- `COMPACT_B_NE` (R43): Compact branch if a differs from zero. -/
  | compactBNe (imm : BitVec 6) (a : CReg)
  /-- `COMPACT_J` (R43): Compact jump. -/
  | compactJ (imm : BitVec 10)
  /-- `COMPACT_NOP` (R43): Compact nop. -/
  | compactNop
  /-- `COMPACT_DONE` (R43): Compact done. -/
  | compactDone
  /-- `COMPACT_FLUSH` (R43): Compact flush. -/
  | compactFlush
  /-- `COMPACT_JR_LK` (R43): Compact jr lk. -/
  | compactJrLk
  /-- `PFX` (R45): Sets a pending prefix governing the next instruction. -/
  | pfx (fmt : BitVec 4) (rnd : BitVec 3) (sat : Bool) (gs : BitVec 2)
  /-- `MESSAGE_ARRIVAL` (R306): A message's tail flit enters an inbox and is checked and queued. -/
  | messageArrival (n : Nat)
  /-- `BINDING` (R331): Selection binds a runnable item to a free context, starting an activation. -/
  | binding (t : Nat) (c : Fin 8)
  /-- `VECTOR_START` (R216): The vector unit starts a ready queue-head instruction of a context. -/
  | vectorStart (t : Nat) (c : Fin 8)
  /-- `BOUND_TRAP` (R484): The scalar stream takes a vstg bound trap at the point named. -/
  | boundTrap (t : Nat) (c : Fin 8)
  /-- `TLB_MISS_RETRY` (R67): 256 cycles after a retry answer a new miss message is sent. -/
  | tlbMissRetry (t : Nat) (c : Fin 8)
  /-- `ABORT` (R392): An activation ends and is rolled back in order. -/
  | abort (t : Nat) (c : Fin 8)
  /-- `BUDGET_OVERRUN` (R335): The budget counter reaches 0 and the activation aborts. -/
  | budgetOverrun (t : Nat) (c : Fin 8)
  /-- `LEAVE_GRANT` (R339): The leave controller grants queue heads covered by free tokens. -/
  | leaveGrant (bay : Nat)
  /-- `LEAVE_TIMEOUT` (R341): After 4096 waiting cycles the context parks with cause leave timeout. -/
  | leaveTimeout (t : Nat) (c : Fin 8)
  /-- `DONE_RETIRE` (R315): When done's waits and injection end, the context retires and its half clears. -/
  | doneRetire (t : Nat) (c : Fin 8)
  /-- `SLICE_ACCESS` (R63): A global access reaches its slice and is performed there. -/
  | sliceAccess (n : Nat)
  /-- `LINE_FILL` (R63): A controller fills the slice line of this number after a miss. -/
  | lineFill (line : Nat)
  /-- `LOAD_REPLY` (R62): An outstanding load's reply returns and writes its register. -/
  | loadReply (t : Nat) (c : Fin 8)
  /-- `PORT_THREAD_OPERATION` (R318): A port thread performs an arrived bay-remote or global access. -/
  | portThreadOperation (t : Nat)
  /-- `PUT` (R318): A port thread performs an arrived put into its scratchpad. -/
  | put (t : Nat)
  /-- `BARRIER_ARRIVAL` (R324): A home port thread counts an arrival at a barrier counter. -/
  | barrierArrival (t : Nat)
  /-- `PROBE` (R296): A slice answers a fence probe once the partition's earlier writes are performed. -/
  | probe (n : Nat)
  /-- `RESOURCE_INVALIDATION` (R69): A tile receives and acknowledges a resource entry invalidation. -/
  | resourceInvalidation (t : Nat)
  /-- `STREAMER_SEGMENT` (R85): A copy segment arrives at its serving streamer. -/
  | streamerSegment (n : Nat)
  /-- `STREAMER_LINE` (R86): A streamer stage completes a line and updates its latency estimate. -/
  | streamerLine (n : Nat)
  /-- `TRANSFER_END` (R89): A transfer ends and its channel prefix advances. -/
  | transferEnd (n : Nat)
  /-- `STREAMER_CANCEL` (R104): A cancel reaches a streamer, which stops matching transfers at a beat boundary. -/
  | streamerCancel (n : Nat)
  /-- `MX_QUEUE_ENTRY` (R255): A matrix command enters its engine queue. -/
  | mxQueueEntry (t : Nat)
  /-- `MX_COMMAND_START` (R255): The queue head starts once the previous command completed and leave is granted. -/
  | mxCommandStart (t : Nat)
  /-- `MX_COMMAND_COMPLETE` (R258): A matrix command completes, returning its tokens. -/
  | mxCommandComplete (t : Nat)
  /-- `MX_BAY_MEMBER` (R280): An mx.bay reaches a member, which queues it. -/
  | mxBayMember (t : Nat)
  /-- `MX_BAY_FOLD` (R279): The K-slice 0 member folds its block's partial sums. -/
  | mxBayFold (t : Nat)
  /-- `TRANSOM_REQUEST_ACCEPT` (R143): A get or age request is accepted and reads the newest buffer. -/
  | transomRequestAccept (n : Nat)
  /-- `TRANSOM_STAGING_COMPLETE` (R139): A publication's staging completes and a free buffer starts writing. -/
  | transomStagingComplete (n : Nat)
  /-- `TRANSOM_COMMIT` (R138): The writing buffer becomes newest and the version counter rises. -/
  | transomCommit (n : Nat)
  /-- `READ_PIN_END` (R138): A read pin ends, possibly freeing an old buffer. -/
  | readPinEnd (n : Nat)
  /-- `MIRROR_INSTALL` (R150): The spare installs a mirrored version. -/
  | mirrorInstall (h : BitVec 512) (data : MirrorData)
  /-- `PUBDB` (R149): A host doorbell publishes STAGE into a slot. -/
  | pubdb (fn : Fin 16) (v : BitVec 64)
  /-- `GETDB` (R149): A host doorbell delivers a slot's header and payload to host memory. -/
  | getdb (fn : Fin 16) (v : BitVec 64)
  /-- `HOST_POSTED_WRITE` (R293): An inbound posted write is accepted at its slice. -/
  | hostPostedWrite (fn : Fin 16) (addr : Nat) (data : List (BitVec 8))
  /-- `SENDDB` (R446): A host doorbell sends a message or spawn from the inbox window. -/
  | senddb (fn : Fin 16)
  /-- `HOST_CHANNEL_WRITE` (R447): A host-channel message is written into the host ring. -/
  | hostChannelWrite (n : Nat)
  /-- `EQPOP` (R448): A host write moves the oldest error queue entry into EQDATA. -/
  | eqpop (fn : Fin 16)
  /-- `RQSUB` (R449): A host doorbell submits a request record. -/
  | rqsub (fn : Fin 16) (v : BitVec 64)
  /-- `RQRD` (R449): A host doorbell copies a request record into RQSTAGE. -/
  | rqrd (fn : Fin 16) (v : BitVec 64)
  /-- `RQCAN` (R449): A host doorbell cancels a request record. -/
  | rqcan (fn : Fin 16) (v : BitVec 64)
  /-- `QTAIL` (R439): A host queue doorbell submits launch descriptors. -/
  | qtail (fn : Fin 16) (q : Fin 8) (v : BitVec 64)
  /-- `ADMISSION` (R441): The placer takes a launch entry and admits it in steps. -/
  | admission (n : Nat)
  /-- `MB_EXEC_SYSTEM_INSTRUCTION` (R450): Mailbox op 1 executes a system instruction of major 38. -/
  | mbExecSystemInstruction
  /-- `MB_SLOT_CONFIG` (R450): Mailbox op 2 writes a Transom slot configuration. -/
  | mbSlotConfig
  /-- `MB_WICKET_ARM` (R377): Mailbox op 3 arms or disarms a bay. -/
  | mbWicketArm
  /-- `MB_ERROR_AREA` (R450): Mailbox op 4 places a dead-message area and log overflow size. -/
  | mbErrorArea
  /-- `MB_POWER_CAP` (R458): Mailbox op 5 sets the power cap and recomputes pools. -/
  | mbPowerCap
  /-- `MB_SLEEP` (R459): Mailbox op 6 puts the reasoning array to sleep. -/
  | mbSleep
  /-- `MB_WAKE` (R459): Mailbox op 6 wakes the reasoning array. -/
  | mbWake
  /-- `WAKE_COMPLETE` (R459): The wake sequence finishes and the array is awake. -/
  | wakeComplete
  /-- `MB_SUSPEND` (R460): Mailbox op 7 suspends all state to memory. -/
  | mbSuspend
  /-- `MB_RESUME` (R460): Mailbox op 7 resumes from the suspend area. -/
  | mbResume
  /-- `MB_PEER_WORD` (R452): Mailbox op 8 sets the spare role, control timer and epoch. -/
  | mbPeerWord
  /-- `MB_LIFETIME_RECORD` (R450): Mailbox op 9 returns a tile's lifetime record. -/
  | mbLifetimeRecord
  /-- `REGISTER_WRITE` (R445): A write to a BAR register with no behaviour of its own, or a read of any register. -/
  | registerWrite (fn : Fin 16) (off : Nat) (a : BarAccess)
  /-- `FUNCTION_LEVEL_RESET` (R430): An FLR resets a function in the fixed order. -/
  | functionLevelReset (fn : Fin 16)
  /-- `BOOT` (R455): After PERST# deassertion the boot ROM runs its stages. -/
  | boot (ok : Bool) (measured : List (BitVec 8)) (tenant : BitVec 4) (grant : BitVec 4) (record : Bool)
  /-- `TIMER_EDGE` (R373): A reflex timer edge places a timer item or counts a miss. -/
  | timerEdge (t : Nat)
  /-- `CONTROL_EDGE` (R452): At a control edge each module sends a heartbeat and the primary seals a delta. -/
  | controlEdge
  /-- `DELTA_COMMIT` (R453): The standby commits a complete, untorn delta. -/
  | deltaCommit (complete : Bool) (torn : Bool) (overfull : Bool) (lines : List (Nat × List (BitVec 8) × List Nat)) (timers : List (List Nat)) (msgs : List QueuedMsg)
  /-- `SWEEP` (R328): Every 4096 cycles a reduction tree collects idleness and message sums. -/
  | sweep (n : Nat)
  /-- `SEIZE_REQUEST` (R379): The Wicket unit accepts or refuses a seize request. -/
  | seizeRequest (bay : Nat)
  /-- `WICKET_RELEASE` (R383): Once the release condition holds the bay is unfrozen. -/
  | wicketRelease (bay : Nat)
  /-- `FORCED_RELEASE` (R384): sbrem reaching 64 aborts seizing activations and releases the bay. -/
  | forcedRelease (bay : Nat)
  /-- `REQ_STEP_OPERATION` (R356): The batch former performs a step: retire, take in and deliver the slot map. -/
  | reqStepOperation (n : Nat)
  /-- `KV_OPERATION` (R361): A slice port thread performs a KV counter operation. -/
  | kvOperation (n : Nat)
  /-- `COMBINE_ARRIVAL` (R366): A combine packet is absorbed at the owner's combine unit. -/
  | combineArrival (n : Nat)
  /-- `HALT_COMPLETE` (R417): A partition halt completes on its tiles. -/
  | haltComplete (n : Nat)
  /-- `SWAP_COMPLETE` (R421): A save-and-restore swap completes. -/
  | swapComplete (n : Nat)
  /-- `BSTORE_REFILL` (R420): A restored tile refills its B-store window from bsback. -/
  | bstoreRefill (t : Nat)
  /-- `SHUTTER_UNIT_END` (R423): A shutter unit finishes by run, checkpoint or discard. -/
  | shutterUnitEnd (n : Nat)
  /-- `SHUTTER_VACANT` (R423): When all units end the partition is saved and becomes vacant. -/
  | shutterVacant (n : Nat)
  /-- `MOVE_ROUND` (R77): A page-move round completes and the bitmap is exchanged; for the next number, the move starts with these words. -/
  | moveRound (a : MoveAct)
  /-- `MOVE_FREEZE` (R78): A converged move freezes, copies and installs the destination. -/
  | moveFreeze (n : Nat)
  /-- `SCRUB` (R74, R75): A streamer scrubs a freed frame and marks it clean; the steps of its life before that. -/
  | scrub (a : FrameAct)
  /-- `ROW_CLOSE_TIMEOUT` (R483): A bank idle for 128 ns closes its open row. -/
  | rowCloseTimeout (n : Nat)
  /-- `REFRESH` (R483): A refresh closes every row of the controller. -/
  | refresh (n : Nat)
  /-- `MONITOR_SAMPLE` (R345): Every millisecond the system core samples wear monitors. -/
  | monitorSample (w : Nat) (bti : Nat) (em : Nat)
  /-- `ILLEGAL_INSTRUCTION` (R37): Executing a parcel or word that no defined encoding matches raises the illegal-instruction trap at decode. -/
  | illegalInstruction (w : BitVec 32)
  /-- `TRANSCENDENTAL_BURST_END` (R244): When 64 cycles pass without a transcendental starting on the tile, the burst ends and returns its leave tokens. -/
  | transcendentalBurstEnd (t : Nat)
  /-- `HEARTBEAT` (R452): A heartbeat posted write from the other module arrives over the peer port and updates the peer status and the miss count. -/
  | heartbeat (role : Nat) (epoch : Nat) (edge : Nat) (dt : Nat)
  /-- `PTM_EXCHANGE` (R6): A PCIe Precision Time Measurement exchange brings device time in step across module and spare, slewing dtime. -/
  | ptmExchange (time : Nat)
  /-- `QUOTE_REQUEST` (R457): A DOE quote request with a nonce and register mask is answered with the selected measurement registers signed by the identity key. -/
  | quoteRequest (nonce : BitVec 256) (mask : BitVec 8)
  /-- `HOST_PORT_ACCEPTANCE` (R294): The host port accepts an outbound host-window posted write, on which system-scope releases and host messages wait. -/
  | hostPortAcceptance (fn : Fin 16)
deriving DecidableEq, Repr

end Sys2Proof
end

