-- ==== Sys2Proof/WellFormed.lean ====
section
/-! DEFINITION. The limits an instruction's fields keep beyond their widths: a value outside them has no encoding and the
word that would hold it raises the illegal-instruction trap (R37). -/

namespace Sys2Proof

/-- The number of elements of a register at this size (R159). -/
def EltSize.count : EltSize → Nat
  | .b8 => 256 | .b16 => 128 | .b32 => 64 | .b64 => 32

/-- Bytes of an element of major 45 (R233). -/
def RedType.bytes : RedType → Nat
  | .f32 => 4 | .bf16 => 2 | .f16 => 2 | .i8 => 1 | .i16 => 2 | .i32 => 4 | .i64 => 8

/-- Whether the fields of an instruction lie within the limits the specification sets on them. -/
def Instr.wellFormed (i : Instr) : Bool :=
  match i with
  -- R200: the 32-bit shift forms take amounts below 32
  | .slliw sh _ _ => decide (sh.toNat < 32)
  | .srliw sh _ _ => decide (sh.toNat < 32)
  | .sraiw sh _ _ => decide (sh.toNat < 32)
  | .roriw sh _ _ => decide (sh.toNat < 32)
  -- R166: field numbers 0 to 32
  | .shpSet _ f _ => decide (f.toNat ≤ 32)
  | .shpGet _ f _ => decide (f.toNat ≤ 32)
  -- R228: part selectors
  | .vcvtF32Bf16 _ part _ _ => decide (part.val < 2)
  | .vcvtF32F16 _ part _ _ => decide (part.val < 2)
  | .vcvtF32I8 _ part _ _ => decide (part.val < 4)
  | .vwidI16I8 _ part _ _ => decide (part.val < 2)
  | .vwidI32I16 _ part _ _ => decide (part.val < 2)
  | .vwidN16N8 _ part _ _ => decide (part.val < 2)
  | .vwidN32N16 _ part _ _ => decide (part.val < 2)
  | .vunpkI8I4 _ part _ _ => decide (part.val < 2)
  -- R231: an element number below the element count
  | .vbcast z _ el _ _ => decide (el.val < z.count)
  | .vmvq z el _ _ => decide (el.val < z.count)
  -- R233: no arg-extremum of 64-bit elements
  | .vramax t _ _ _ => decide (t ≠ .i64)
  | .vramin t _ _ _ => decide (t ≠ .i64)
  -- R236: a nibble the element has
  | .vhist t _ cnt _ _ => decide (cnt.val < 2 * t.bytes)
  -- R44: reserved prefix field values
  | .pfx _ rnd _ gs => decide (rnd.toNat < 5) && decide (gs.toNat < 3)
  | _ => true

end Sys2Proof
end

