-- ==== Sys2Proof/Decode.lean ====
section
/-! DEFINITION. The decoder, total on any bytes (R25 to R45), and the encoder written from the same tables. -/

namespace Sys2Proof

/-- The 6-bit code of a register specifier (R32). -/
def Reg.code : Reg → Nat
  | .g i => i.val
  | .n i => 40 + i.val
  | .y i => 48 + i.val
  | .q i => 52 + i.val
  | .z => 60
  | .rsv i => 61 + i.val

/-- The register specifier of a 6-bit code (R32). -/
def Reg.ofCode (c : Nat) : Reg :=
  if h : c < 40 then .g ⟨c, h⟩
  else if h : c - 40 < 8 then .n ⟨c - 40, h⟩
  else if h : c - 48 < 4 then .y ⟨c - 48, h⟩
  else if h : c - 52 < 8 then .q ⟨c - 52, h⟩
  else if c = 60 then .z
  else .rsv (Fin.ofNat 3 (c - 61))

/-- R30. -/
def MemType.code : MemType → Nat
  | .i8 => 0 | .i16 => 1 | .i32 => 2 | .i64 => 3 | .n8 => 4 | .n16 => 5 | .n32 => 6
/-- R30; code 7 is reserved. -/
def MemType.ofCode : Nat → Option MemType
  | 0 => some .i8 | 1 => some .i16 | 2 => some .i32 | 3 => some .i64
  | 4 => some .n8 | 5 => some .n16 | 6 => some .n32 | _ => none
/-- R221. -/
def FpType.code : FpType → Nat
  | .f32 => 0 | .bf16 => 1 | .f16 => 2
/-- R221; code 3 is reserved. -/
def FpType.ofCode : Nat → Option FpType
  | 0 => some .f32 | 1 => some .bf16 | 2 => some .f16 | _ => none
/-- R223. -/
def EltSize.code : EltSize → Nat
  | .b8 => 0 | .b16 => 1 | .b32 => 2 | .b64 => 3
/-- R223. -/
def EltSize.ofCode : Nat → EltSize
  | 0 => .b8 | 1 => .b16 | 2 => .b32 | _ => .b64
/-- R233. -/
def RedType.code : RedType → Nat
  | .f32 => 0 | .bf16 => 1 | .f16 => 2 | .i8 => 3 | .i16 => 4 | .i32 => 5 | .i64 => 6
/-- R233; type 7 is reserved. -/
def RedType.ofCode : Nat → Option RedType
  | 0 => some .f32 | 1 => some .bf16 | 2 => some .f16 | 3 => some .i8
  | 4 => some .i16 | 5 => some .i32 | 6 => some .i64 | _ => none
/-- R237: the low three bits of func6 0x10 to 0x15 and 0x18 to 0x1D. -/
def OrdType.code : OrdType → Nat
  | .f32 => 0 | .f16 => 1 | .i8 => 2 | .i16 => 3 | .i32 => 4 | .i64 => 5
/-- R237. -/
def OrdType.ofCode : Nat → Option OrdType
  | 0 => some .f32 | 1 => some .f16 | 2 => some .i8 | 3 => some .i16
  | 4 => some .i32 | 5 => some .i64 | _ => none
/-- R126: func6[4]. -/
def AmoWidth.code : AmoWidth → Nat
  | .w32 => 0 | .w64 => 1
/-- R126. -/
def AmoWidth.ofCode : Nat → AmoWidth
  | 0 => .w32 | _ => .w64
/-- R297. -/
def FenceKind.code : FenceKind → Nat
  | .acq => 1 | .rel => 2 | .full => 3
/-- R297; kind 0 is reserved. -/
def FenceKind.ofCode : Nat → Option FenceKind
  | 1 => some .acq | 2 => some .rel | 3 => some .full | _ => none
/-- R283. -/
def Scope.code : Scope → Nat
  | .tile => 0 | .bay => 1 | .array => 2 | .device => 3 | .system => 4
/-- R283; scopes 5 to 7 are reserved. -/
def Scope.ofCode : Nat → Option Scope
  | 0 => some .tile | 1 => some .bay | 2 => some .array | 3 => some .device | 4 => some .system | _ => none
/-- R365. -/
def LgcOp.code : LgcOp → Nat
  | .and => 0 | .or => 1 | .xor => 2
/-- R365; op 3 is reserved. -/
def LgcOp.ofCode : Nat → Option LgcOp
  | 0 => some .and | 1 => some .or | 2 => some .xor | _ => none

noncomputable section

/-- Fields laid side by side, the lowest first: each a width in bits and a value. -/
def pack : List (Nat × Nat) → Nat
  | [] => 0
  | (k, v) :: r => v % 2 ^ k + 2 ^ k * pack r

/-- The fields of a word, the lowest first, for the given widths. -/
def unpack : List Nat → Nat → List Nat
  | [], _ => []
  | k :: ks, w => w % 2 ^ k :: unpack ks (w / 2 ^ k)

/-- Rows of major 1 (R36). -/
def decodeMajor1 (x1 x2 x3 x4 : Nat) : Option Instr :=
  match x4 with
  | 0 => some (.add (Reg.ofCode x3) (Reg.ofCode x2) (Reg.ofCode x1))
  | 1 => some (.sub (Reg.ofCode x3) (Reg.ofCode x2) (Reg.ofCode x1))
  | 2 => some (.and (Reg.ofCode x3) (Reg.ofCode x2) (Reg.ofCode x1))
  | 3 => some (.or (Reg.ofCode x3) (Reg.ofCode x2) (Reg.ofCode x1))
  | 4 => some (.xor (Reg.ofCode x3) (Reg.ofCode x2) (Reg.ofCode x1))
  | 5 => some (.andn (Reg.ofCode x3) (Reg.ofCode x2) (Reg.ofCode x1))
  | 6 => some (.orn (Reg.ofCode x3) (Reg.ofCode x2) (Reg.ofCode x1))
  | 8 => some (.sll (Reg.ofCode x3) (Reg.ofCode x2) (Reg.ofCode x1))
  | 9 => some (.srl (Reg.ofCode x3) (Reg.ofCode x2) (Reg.ofCode x1))
  | 10 => some (.sra (Reg.ofCode x3) (Reg.ofCode x2) (Reg.ofCode x1))
  | 12 => some (.slt (Reg.ofCode x3) (Reg.ofCode x2) (Reg.ofCode x1))
  | 13 => some (.sltn (Reg.ofCode x3) (Reg.ofCode x2) (Reg.ofCode x1))
  | 14 => some (.min (Reg.ofCode x3) (Reg.ofCode x2) (Reg.ofCode x1))
  | 15 => some (.max (Reg.ofCode x3) (Reg.ofCode x2) (Reg.ofCode x1))
  | 16 => some (.minn (Reg.ofCode x3) (Reg.ofCode x2) (Reg.ofCode x1))
  | 17 => some (.maxn (Reg.ofCode x3) (Reg.ofCode x2) (Reg.ofCode x1))
  | 18 => some (.mul (Reg.ofCode x3) (Reg.ofCode x2) (Reg.ofCode x1))
  | 19 => some (.mulh (Reg.ofCode x3) (Reg.ofCode x2) (Reg.ofCode x1))
  | 20 => some (.mulhn (Reg.ofCode x3) (Reg.ofCode x2) (Reg.ofCode x1))
  | 22 => some (.div (Reg.ofCode x3) (Reg.ofCode x2) (Reg.ofCode x1))
  | 23 => some (.divn (Reg.ofCode x3) (Reg.ofCode x2) (Reg.ofCode x1))
  | 24 => some (.rem (Reg.ofCode x3) (Reg.ofCode x2) (Reg.ofCode x1))
  | 25 => some (.remn (Reg.ofCode x3) (Reg.ofCode x2) (Reg.ofCode x1))
  | 26 => some (.addw (Reg.ofCode x3) (Reg.ofCode x2) (Reg.ofCode x1))
  | 27 => some (.subw (Reg.ofCode x3) (Reg.ofCode x2) (Reg.ofCode x1))
  | 28 => some (.sllw (Reg.ofCode x3) (Reg.ofCode x2) (Reg.ofCode x1))
  | 29 => some (.srlw (Reg.ofCode x3) (Reg.ofCode x2) (Reg.ofCode x1))
  | 30 => some (.sraw (Reg.ofCode x3) (Reg.ofCode x2) (Reg.ofCode x1))
  | 31 => some (.mulw (Reg.ofCode x3) (Reg.ofCode x2) (Reg.ofCode x1))
  | 32 => if x3 = 0 then some (.clz (Reg.ofCode x2) (Reg.ofCode x1)) else none
  | 33 => if x3 = 0 then some (.ctz (Reg.ofCode x2) (Reg.ofCode x1)) else none
  | 34 => if x3 = 0 then some (.popc (Reg.ofCode x2) (Reg.ofCode x1)) else none
  | 35 => if x3 = 0 then some (.bswap (Reg.ofCode x2) (Reg.ofCode x1)) else none
  | _ => none

/-- Rows of major 2 (R36). -/
def decodeMajor2 (x1 x2 x3 : Nat) : Option Instr :=
  some (.addi (BitVec.ofNat 12 x3) (Reg.ofCode x2) (Reg.ofCode x1))

/-- Rows of major 3 (R36). -/
def decodeMajor3 (x1 x2 x3 : Nat) : Option Instr :=
  some (.andi (BitVec.ofNat 12 x3) (Reg.ofCode x2) (Reg.ofCode x1))

/-- Rows of major 4 (R36). -/
def decodeMajor4 (x1 x2 x3 : Nat) : Option Instr :=
  some (.ori (BitVec.ofNat 12 x3) (Reg.ofCode x2) (Reg.ofCode x1))

/-- Rows of major 5 (R36). -/
def decodeMajor5 (x1 x2 x3 : Nat) : Option Instr :=
  some (.xori (BitVec.ofNat 12 x3) (Reg.ofCode x2) (Reg.ofCode x1))

/-- Rows of major 6 (R36). -/
def decodeMajor6 (x1 x2 x3 x4 : Nat) : Option Instr :=
  match x4 with
  | 0 => some (.slli (BitVec.ofNat 6 x3) (Reg.ofCode x2) (Reg.ofCode x1))
  | 1 => some (.srli (BitVec.ofNat 6 x3) (Reg.ofCode x2) (Reg.ofCode x1))
  | 2 => some (.srai (BitVec.ofNat 6 x3) (Reg.ofCode x2) (Reg.ofCode x1))
  | 3 => some (.rori (BitVec.ofNat 6 x3) (Reg.ofCode x2) (Reg.ofCode x1))
  | 4 => some (.slliw (BitVec.ofNat 6 x3) (Reg.ofCode x2) (Reg.ofCode x1))
  | 5 => some (.srliw (BitVec.ofNat 6 x3) (Reg.ofCode x2) (Reg.ofCode x1))
  | 6 => some (.sraiw (BitVec.ofNat 6 x3) (Reg.ofCode x2) (Reg.ofCode x1))
  | 7 => some (.roriw (BitVec.ofNat 6 x3) (Reg.ofCode x2) (Reg.ofCode x1))
  | _ => none

/-- Rows of major 7 (R36). -/
def decodeMajor7 (x1 x2 x3 : Nat) : Option Instr :=
  some (.slti (BitVec.ofNat 12 x3) (Reg.ofCode x2) (Reg.ofCode x1))

/-- Rows of major 8 (R36). -/
def decodeMajor8 (x1 x2 : Nat) : Option Instr :=
  some (.lix (BitVec.ofNat 18 x2) (Reg.ofCode x1))

/-- Rows of major 9 (R36). -/
def decodeMajor9 (x1 x2 : Nat) : Option Instr :=
  some (.lixs (BitVec.ofNat 18 x2) (Reg.ofCode x1))

/-- Rows of major 10 (R36). -/
def decodeMajor10 (x1 x2 x3 x4 : Nat) : Option Instr :=
  match x4 with
  | 0 => some (.fadd (Reg.ofCode x3) (Reg.ofCode x2) (Reg.ofCode x1))
  | 1 => some (.fsub (Reg.ofCode x3) (Reg.ofCode x2) (Reg.ofCode x1))
  | 2 => some (.fmul (Reg.ofCode x3) (Reg.ofCode x2) (Reg.ofCode x1))
  | 3 => some (.fdiv (Reg.ofCode x3) (Reg.ofCode x2) (Reg.ofCode x1))
  | 4 => if x3 = 0 then some (.fsqrt (Reg.ofCode x2) (Reg.ofCode x1)) else none
  | 5 => some (.fmin (Reg.ofCode x3) (Reg.ofCode x2) (Reg.ofCode x1))
  | 6 => some (.fmax (Reg.ofCode x3) (Reg.ofCode x2) (Reg.ofCode x1))
  | 7 => some (.fmadd (Reg.ofCode x3) (Reg.ofCode x2) (Reg.ofCode x1))
  | 8 => some (.fmsub (Reg.ofCode x3) (Reg.ofCode x2) (Reg.ofCode x1))
  | 9 => some (.fnmadd (Reg.ofCode x3) (Reg.ofCode x2) (Reg.ofCode x1))
  | 10 => some (.feq (Reg.ofCode x3) (Reg.ofCode x2) (Reg.ofCode x1))
  | 11 => some (.flt (Reg.ofCode x3) (Reg.ofCode x2) (Reg.ofCode x1))
  | 12 => some (.fle (Reg.ofCode x3) (Reg.ofCode x2) (Reg.ofCode x1))
  | 13 => if x3 = 0 then some (.fclass (Reg.ofCode x2) (Reg.ofCode x1)) else none
  | 14 => if x3 = 0 then some (.fneg (Reg.ofCode x2) (Reg.ofCode x1)) else none
  | 15 => if x3 = 0 then some (.fabs (Reg.ofCode x2) (Reg.ofCode x1)) else none
  | 16 => if x3 = 0 then some (.fcvtI64F32 (Reg.ofCode x2) (Reg.ofCode x1)) else none
  | 17 => if x3 = 0 then some (.fcvtN64F32 (Reg.ofCode x2) (Reg.ofCode x1)) else none
  | 18 => if x3 = 0 then some (.fcvtI32F32 (Reg.ofCode x2) (Reg.ofCode x1)) else none
  | 19 => if x3 = 0 then some (.fcvtN32F32 (Reg.ofCode x2) (Reg.ofCode x1)) else none
  | 20 => if x3 = 0 then some (.fcvtF32I64 (Reg.ofCode x2) (Reg.ofCode x1)) else none
  | 21 => if x3 = 0 then some (.fcvtF32N64 (Reg.ofCode x2) (Reg.ofCode x1)) else none
  | 22 => if x3 = 0 then some (.fcvtBf16F32 (Reg.ofCode x2) (Reg.ofCode x1)) else none
  | 23 => if x3 = 0 then some (.fcvtF16F32 (Reg.ofCode x2) (Reg.ofCode x1)) else none
  | 24 => if x3 = 0 then some (.fcvtF32Bf16 (Reg.ofCode x2) (Reg.ofCode x1)) else none
  | 25 => if x3 = 0 then some (.fcvtF32F16 (Reg.ofCode x2) (Reg.ofCode x1)) else none
  | _ => none

/-- Rows of major 11 (R36). -/
def decodeMajor11 (x1 x2 x3 : Nat) : Option Instr :=
  some (.bEq (BitVec.ofNat 12 x3) (Reg.ofCode x2) (Reg.ofCode x1))

/-- Rows of major 12 (R36). -/
def decodeMajor12 (x1 x2 x3 : Nat) : Option Instr :=
  some (.bNe (BitVec.ofNat 12 x3) (Reg.ofCode x2) (Reg.ofCode x1))

/-- Rows of major 13 (R36). -/
def decodeMajor13 (x1 x2 x3 : Nat) : Option Instr :=
  some (.bLt (BitVec.ofNat 12 x3) (Reg.ofCode x2) (Reg.ofCode x1))

/-- Rows of major 14 (R36). -/
def decodeMajor14 (x1 x2 x3 : Nat) : Option Instr :=
  some (.bGe (BitVec.ofNat 12 x3) (Reg.ofCode x2) (Reg.ofCode x1))

/-- Rows of major 15 (R36). -/
def decodeMajor15 (x1 x2 x3 : Nat) : Option Instr :=
  some (.bLtn (BitVec.ofNat 12 x3) (Reg.ofCode x2) (Reg.ofCode x1))

/-- Rows of major 16 (R36). -/
def decodeMajor16 (x1 x2 x3 : Nat) : Option Instr :=
  some (.bGen (BitVec.ofNat 12 x3) (Reg.ofCode x2) (Reg.ofCode x1))

/-- Rows of major 17 (R36). -/
def decodeMajor17 (x1 : Nat) : Option Instr :=
  some (.j (BitVec.ofNat 24 x1))

/-- Rows of major 18 (R36). -/
def decodeMajor18 (x1 : Nat) : Option Instr :=
  some (.jal (BitVec.ofNat 24 x1))

/-- Rows of major 19 (R36). -/
def decodeMajor19 (x1 x2 x3 x4 : Nat) : Option Instr :=
  match x4 with
  | 0 => if x1 = 0 ∧ x2 = 0 ∧ x3 = 0 then some .nop else none
  | 1 => if x1 = 0 ∧ x3 = 0 then some (.jr (Reg.ofCode x2)) else none
  | 2 => if x3 = 0 then some (.jalr (Reg.ofCode x2) (Reg.ofCode x1)) else none
  | 3 => some (.lp (BitVec.ofNat 12 (x1 + 64 * x3)) (Reg.ofCode x2))
  | 4 => if x2 = 0 ∧ x3 = 0 then some (.pca (Reg.ofCode x1)) else none
  | 8 => if x1 = 0 ∧ x2 = 0 ∧ x3 = 0 then some .done else none
  | 9 => if x1 = 0 ∧ x2 = 0 ∧ x3 = 0 then some .flush else none
  | _ => none

/-- Rows of major 20 (R36). -/
def decodeMajor20 (x1 x2 x3 x4 : Nat) : Option Instr :=
  (MemType.ofCode x3).bind fun t => some (.ld (BitVec.ofNat 9 x4) t (Reg.ofCode x2) (Reg.ofCode x1))

/-- Rows of major 21 (R36). -/
def decodeMajor21 (x1 x2 x3 x4 : Nat) : Option Instr :=
  (MemType.ofCode x3).bind fun t => some (.st (BitVec.ofNat 9 x4) t (Reg.ofCode x2) (Reg.ofCode x1))

/-- Rows of major 22 (R36). -/
def decodeMajor22 (x1 x2 x3 x4 x5 : Nat) : Option Instr :=
  (MemType.ofCode x4).bind fun t => some (.ldb (BitVec.ofNat 3 x5) t (Reg.ofCode x3) (Reg.ofCode x2) (Reg.ofCode x1))

/-- Rows of major 23 (R36). -/
def decodeMajor23 (x1 x2 x3 x4 x5 : Nat) : Option Instr :=
  (MemType.ofCode x4).bind fun t => some (.stb (BitVec.ofNat 3 x5) t (Reg.ofCode x3) (Reg.ofCode x2) (Reg.ofCode x1))

/-- Rows of major 24 (R36). -/
def decodeMajor24 (x1 x2 x3 x4 x5 : Nat) : Option Instr :=
  (MemType.ofCode x4).bind fun t => some (.ldg (BitVec.ofNat 3 x5) t (Reg.ofCode x3) (Reg.ofCode x2) (Reg.ofCode x1))

/-- Rows of major 25 (R36). -/
def decodeMajor25 (x1 x2 x3 x4 x5 : Nat) : Option Instr :=
  (MemType.ofCode x4).bind fun t => some (.stg (BitVec.ofNat 3 x5) t (Reg.ofCode x3) (Reg.ofCode x2) (Reg.ofCode x1))

/-- Rows of major 26 (R36). -/
def decodeMajor26 (x1 x2 x3 x4 : Nat) : Option Instr :=
  match x4 with
  | 10 => some (.amoFadd (Reg.ofCode x3) (Reg.ofCode x2) (Reg.ofCode x1))
  | _ => (match unpack [4, 1, 1] x4 with
    | [0, w0, 0] => some (.amoSwap (AmoWidth.ofCode w0) (Reg.ofCode x3) (Reg.ofCode x2) (Reg.ofCode x1))
    | [1, w0, 0] => some (.amoAdd (AmoWidth.ofCode w0) (Reg.ofCode x3) (Reg.ofCode x2) (Reg.ofCode x1))
    | [2, w0, 0] => some (.amoAnd (AmoWidth.ofCode w0) (Reg.ofCode x3) (Reg.ofCode x2) (Reg.ofCode x1))
    | [3, w0, 0] => some (.amoOr (AmoWidth.ofCode w0) (Reg.ofCode x3) (Reg.ofCode x2) (Reg.ofCode x1))
    | [4, w0, 0] => some (.amoXor (AmoWidth.ofCode w0) (Reg.ofCode x3) (Reg.ofCode x2) (Reg.ofCode x1))
    | [5, w0, 0] => some (.amoMaxI (AmoWidth.ofCode w0) (Reg.ofCode x3) (Reg.ofCode x2) (Reg.ofCode x1))
    | [6, w0, 0] => some (.amoMinI (AmoWidth.ofCode w0) (Reg.ofCode x3) (Reg.ofCode x2) (Reg.ofCode x1))
    | [7, w0, 0] => some (.amoMaxN (AmoWidth.ofCode w0) (Reg.ofCode x3) (Reg.ofCode x2) (Reg.ofCode x1))
    | [8, w0, 0] => some (.amoMinN (AmoWidth.ofCode w0) (Reg.ofCode x3) (Reg.ofCode x2) (Reg.ofCode x1))
    | [9, w0, 0] => some (.amoCas (AmoWidth.ofCode w0) (Reg.ofCode x3) (Reg.ofCode x2) (Reg.ofCode x1))
    | _ => none)

/-- Rows of major 27 (R36). -/
def decodeMajor27 (x1 x2 x3 x4 : Nat) : Option Instr :=
  match x4 with
  | 0 => if x1 = 0 then (match unpack [2, 1, 3] x2 with | [kind0, vec0, 0] => (match unpack [3, 3] x3 with | [scope0, 0] => (Scope.ofCode scope0).bind fun scope => (FenceKind.ofCode kind0).bind fun kind => some (.fence scope (decide (vec0 = 1)) kind) | _ => none) | _ => none) else none
  | 1 => (match unpack [3, 1, 2] x3 with | [t0, sys0, 0] => (MemType.ofCode t0).bind fun t => some (.ldAcq (decide (sys0 = 1)) t (Reg.ofCode x2) (Reg.ofCode x1)) | _ => none)
  | 2 => (match unpack [3, 1, 2] x3 with | [t0, sys0, 0] => (MemType.ofCode t0).bind fun t => some (.stRel (decide (sys0 = 1)) t (Reg.ofCode x2) (Reg.ofCode x1)) | _ => none)
  | 3 => if x1 = 0 ∧ x3 = 0 then some (.cinv (Reg.ofCode x2)) else none
  | 4 => if x1 = 0 ∧ x2 = 0 ∧ x3 = 0 then some .cinvAll else none
  | _ => none

/-- Rows of major 28 (R36). -/
def decodeMajor28 (x1 x2 x3 x4 : Nat) : Option Instr :=
  match x3 with
  | 0 => (match unpack [1, 6] x4 with | [rep0, 0] => some (.msgSend (decide (rep0 = 1)) (Reg.ofCode x2) (Reg.ofCode x1)) | _ => none)
  | 1 => if x2 = 0 then (match unpack [1, 1, 3, 2] x4 with | [rep0, 0, k0, 0] => some (.msgSendn (BitVec.ofNat 3 k0) (decide (rep0 = 1)) (Reg.ofCode x1)) | _ => none) else none
  | 2 => if x2 = 0 ∧ x4 = 0 then some (.msgSpawn (Reg.ofCode x1)) else none
  | 3 => if x1 = 0 ∧ x4 = 0 then some (.msgHost (Reg.ofCode x2)) else none
  | 4 => (match unpack [1, 6] x4 with | [rep0, 0] => some (.msgPut (decide (rep0 = 1)) (Reg.ofCode x2) (Reg.ofCode x1)) | _ => none)
  | 5 => if x4 = 0 then some (.msgArg (Reg.ofCode x2) (Reg.ofCode x1)) else none
  | 6 => if x4 = 0 then some (.msgHdr (Reg.ofCode x2) (Reg.ofCode x1)) else none
  | 7 => if x1 = 0 then (match unpack [6, 1] x4 with | [c0, 0] => some (.msgMask (BitVec.ofNat 6 c0) (Reg.ofCode x2)) | _ => none) else none
  | _ => none

/-- Rows of major 29 (R36). -/
def decodeMajor29 (x1 x2 x3 x4 : Nat) : Option Instr :=
  match x3 with
  | 0 => if x2 = 0 ∧ x4 = 0 then some (.barArr (Reg.ofCode x1)) else none
  | 1 => if x4 = 0 then some (.grpRank (Reg.ofCode x2) (Reg.ofCode x1)) else none
  | 2 => if x4 = 0 then some (.grpSize (Reg.ofCode x2) (Reg.ofCode x1)) else none
  | 3 => if x4 = 0 then some (.grpTile (Reg.ofCode x2) (Reg.ofCode x1)) else none
  | 4 => (match unpack [1, 6] x4 with | [rep0, 0] => some (.grpSend (decide (rep0 = 1)) (Reg.ofCode x2) (Reg.ofCode x1)) | _ => none)
  | _ => none

/-- Rows of major 30 (R36). -/
def decodeMajor30 (x1 x2 x3 x4 : Nat) : Option Instr :=
  match x3 with
  | 0 => if x2 = 0 ∧ x4 = 0 then some (.mxLdb (Reg.ofCode x1)) else none
  | 1 => (match unpack [6, 1] x4 with | [c0, notify0] => some (.mxMma (decide (notify0 = 1)) (BitVec.ofNat 6 c0) (Reg.ofCode x2) (Reg.ofCode x1)) | _ => none)
  | 2 => if x1 = 0 then (match unpack [6, 1] x4 with | [c0, notify0] => some (.mxZero (decide (notify0 = 1)) (BitVec.ofNat 6 c0) (Reg.ofCode x2)) | _ => none) else none
  | 3 => (match unpack [6, 1] x4 with | [c0, notify0] => some (.mxRd (decide (notify0 = 1)) (BitVec.ofNat 6 c0) (Reg.ofCode x2) (Reg.ofCode x1)) | _ => none)
  | 4 => (match unpack [6, 1] x4 with | [c0, notify0] => some (.mxLdacc (decide (notify0 = 1)) (BitVec.ofNat 6 c0) (Reg.ofCode x2) (Reg.ofCode x1)) | _ => none)
  | 5 => (match unpack [6, 1] x4 with | [c0, notify0] => some (.mxBay (decide (notify0 = 1)) (BitVec.ofNat 6 c0) (Reg.ofCode x2) (Reg.ofCode x1)) | _ => none)
  | 6 => if x4 = 0 then some (.mxStat (Reg.ofCode x2) (Reg.ofCode x1)) else none
  | 7 => if x2 = 0 ∧ x4 = 0 then some (.mxCfg (Reg.ofCode x1)) else none
  | _ => none

/-- Rows of major 31 (R36). -/
def decodeMajor31 (x1 x2 x3 x4 : Nat) : Option Instr :=
  match x3 with
  | 0 => if x2 = 0 then (match unpack [4, 1, 1, 1] x4 with | [c0, notify0, chain0, 0] => some (.cpGl (decide (chain0 = 1)) (decide (notify0 = 1)) (BitVec.ofNat 4 c0) (Reg.ofCode x1)) | _ => none) else none
  | 1 => if x2 = 0 then (match unpack [4, 1, 1, 1] x4 with | [c0, notify0, chain0, 0] => some (.cpGb (decide (chain0 = 1)) (decide (notify0 = 1)) (BitVec.ofNat 4 c0) (Reg.ofCode x1)) | _ => none) else none
  | 2 => if x2 = 0 then (match unpack [4, 1, 2] x4 with | [c0, notify0, 0] => some (.cpLg (decide (notify0 = 1)) (BitVec.ofNat 4 c0) (Reg.ofCode x1)) | _ => none) else none
  | 3 => if x2 = 0 then (match unpack [4, 1, 2] x4 with | [c0, notify0, 0] => some (.cpGg (decide (notify0 = 1)) (BitVec.ofNat 4 c0) (Reg.ofCode x1)) | _ => none) else none
  | 4 => if x2 = 0 then (match unpack [4, 1, 1, 1] x4 with | [c0, notify0, chain0, 0] => some (.cpLb (decide (chain0 = 1)) (decide (notify0 = 1)) (BitVec.ofNat 4 c0) (Reg.ofCode x1)) | _ => none) else none
  | 5 => (match unpack [4, 1, 1, 1] x4 with | [c0, notify0, chain0, 0] => some (.cpLs (decide (chain0 = 1)) (decide (notify0 = 1)) (BitVec.ofNat 4 c0) (Reg.ofCode x2) (Reg.ofCode x1)) | _ => none)
  | 6 => (match unpack [4, 1, 1, 1] x4 with | [c0, notify0, chain0, 0] => some (.cpLsb (decide (chain0 = 1)) (decide (notify0 = 1)) (BitVec.ofNat 4 c0) (Reg.ofCode x2) (Reg.ofCode x1)) | _ => none)
  | 7 => (match unpack [4, 1, 1, 1] x4 with | [c0, notify0, chain0, 0] => some (.cpPl (decide (chain0 = 1)) (decide (notify0 = 1)) (BitVec.ofNat 4 c0) (Reg.ofCode x2) (Reg.ofCode x1)) | _ => none)
  | 8 => (match unpack [4, 3] x4 with | [c0, 0] => some (.cpCancel (BitVec.ofNat 4 c0) (Reg.ofCode x2) (Reg.ofCode x1)) | _ => none)
  | 9 => (match unpack [4, 3] x4 with | [c0, 0] => some (.cpCfg (BitVec.ofNat 4 c0) (Reg.ofCode x2) (Reg.ofCode x1)) | _ => none)
  | 10 => (match unpack [4, 3] x4 with | [c0, 0] => some (.cpCrec (BitVec.ofNat 4 c0) (Reg.ofCode x2) (Reg.ofCode x1)) | _ => none)
  | _ => none

/-- Rows of major 32 (R36). -/
def decodeMajor32 (x1 x2 x3 x4 : Nat) : Option Instr :=
  match x3 with
  | 0 => if x2 = 0 then (match unpack [4, 1, 1, 1] x4 with | [c0, notify0, chain0, 0] => some (.gxLd (decide (chain0 = 1)) (decide (notify0 = 1)) (BitVec.ofNat 4 c0) (Reg.ofCode x1)) | _ => none) else none
  | 1 => if x2 = 0 then (match unpack [4, 1, 2] x4 with | [c0, notify0, 0] => some (.gxSt (decide (notify0 = 1)) (BitVec.ofNat 4 c0) (Reg.ofCode x1)) | _ => none) else none
  | 2 => if x2 = 0 then (match unpack [4, 1, 1, 1] x4 with | [c0, notify0, chain0, 0] => some (.gxLdb (decide (chain0 = 1)) (decide (notify0 = 1)) (BitVec.ofNat 4 c0) (Reg.ofCode x1)) | _ => none) else none
  | 16 => (match unpack [1, 6] x4 with | [i320, 0] => some (.cmbMax (decide (i320 = 1)) (Reg.ofCode x2) (Reg.ofCode x1)) | _ => none)
  | 17 => (match unpack [1, 6] x4 with | [i320, 0] => some (.cmbMin (decide (i320 = 1)) (Reg.ofCode x2) (Reg.ofCode x1)) | _ => none)
  | 18 => (match unpack [2, 5] x4 with | [op0, 0] => (LgcOp.ofCode op0).bind fun op => some (.cmbLgc op (Reg.ofCode x2) (Reg.ofCode x1)) | _ => none)
  | 19 => if x4 = 0 then some (.cmbAdd (Reg.ofCode x2) (Reg.ofCode x1)) else none
  | _ => none

/-- Rows of major 33 (R36). -/
def decodeMajor33 (x1 x2 x3 x4 : Nat) : Option Instr :=
  match x3 with
  | 0 => if x1 = 0 then (match unpack [1, 6] x4 with | [now0, 0] => some (.tmPub (decide (now0 = 1)) (Reg.ofCode x2)) | _ => none) else none
  | 1 => if x4 = 0 then some (.tmGet (Reg.ofCode x2) (Reg.ofCode x1)) else none
  | 2 => if x4 = 0 then some (.tmAge (Reg.ofCode x2) (Reg.ofCode x1)) else none
  | 3 => if x1 = 0 ∧ x4 = 0 then some (.tmArm (Reg.ofCode x2)) else none
  | 4 => (match unpack [1, 6] x4 with | [rd0, 0] => some (.tmCfg (decide (rd0 = 1)) (Reg.ofCode x2) (Reg.ofCode x1)) | _ => none)
  | _ => none

/-- Rows of major 34 (R36). -/
def decodeMajor34 (x1 x2 x3 x4 : Nat) : Option Instr :=
  match x3 with
  | 0 => if x4 = 0 then some (.reqSub (Reg.ofCode x2) (Reg.ofCode x1)) else none
  | 1 => if x2 = 0 ∧ x4 = 0 then some (.reqStep (Reg.ofCode x1)) else none
  | 2 => if x4 = 0 then some (.reqRd (Reg.ofCode x2) (Reg.ofCode x1)) else none
  | 3 => if x4 = 0 then some (.reqCommit (Reg.ofCode x2) (Reg.ofCode x1)) else none
  | 4 => if x2 = 0 ∧ x4 = 0 then some (.reqFault (Reg.ofCode x1)) else none
  | 5 => if x4 = 0 then some (.reqCfgRows (Reg.ofCode x2) (Reg.ofCode x1)) else (if x4 = 1 then some (.reqCfgStopset (Reg.ofCode x2) (Reg.ofCode x1)) else none)
  | 6 => (match unpack [1, 6] x4 with | [free0, 0] => some (.reqCancel (decide (free0 = 1)) (Reg.ofCode x2) (Reg.ofCode x1)) | _ => none)
  | 7 => if x4 = 0 then some (.reqKvAttach (Reg.ofCode x2) (Reg.ofCode x1)) else (if x4 = 1 then some (.reqKvDetach (Reg.ofCode x2) (Reg.ofCode x1)) else (if x4 = 2 then some (.reqKvEvict (Reg.ofCode x2) (Reg.ofCode x1)) else (if x4 = 3 then some (.reqKvRelease (Reg.ofCode x2) (Reg.ofCode x1)) else none)))
  | _ => none

/-- Rows of major 35 (R36). -/
def decodeMajor35 (x1 x2 x3 x4 : Nat) : Option Instr :=
  match x3 with
  | 0 => if x4 = 0 then some (.wktSeize (Reg.ofCode x2) (Reg.ofCode x1)) else none
  | 1 => if x2 = 0 ∧ x4 = 0 then some (.wktRel (Reg.ofCode x1)) else none
  | 2 => if x4 = 0 then some (.wktStat (Reg.ofCode x2) (Reg.ofCode x1)) else none
  | 3 => if x4 = 0 then some (.tmrSet (Reg.ofCode x2) (Reg.ofCode x1)) else none
  | 4 => if x4 = 0 then some (.tmrRd (Reg.ofCode x2) (Reg.ofCode x1)) else none
  | _ => none

/-- Rows of major 36 (R36). -/
def decodeMajor36 (x1 x2 x3 x4 : Nat) : Option Instr :=
  match x3 with
  | 0 => if x2 = 0 then (match unpack [3, 4] x4 with | [n0, 0] => some (.extW (BitVec.ofNat 3 n0) (Reg.ofCode x1)) | _ => none) else none
  | 1 => if x2 = 0 then (match unpack [3, 4] x4 with | [n0, 0] => some (.extGet (BitVec.ofNat 3 n0) (Reg.ofCode x1)) | _ => none) else none
  | 2 => (match unpack [3, 4] x4 with | [n0, i20] => some (.extLix (BitVec.ofNat 3 n0) (BitVec.ofNat 16 (x1 + 64 * x2 + 4096 * i20))) | _ => none)
  | 3 => (match unpack [3, 4] x4 with | [n0, i20] => some (.extLixs (BitVec.ofNat 3 n0) (BitVec.ofNat 16 (x1 + 64 * x2 + 4096 * i20))) | _ => none)
  | 4 => if x1 = 0 then (match unpack [4, 3] x4 with | [n0, 0] => some (.shpLd (BitVec.ofNat 4 n0) (Reg.ofCode x2)) | _ => none) else none
  | 5 => if x1 = 0 then (match unpack [4, 3] x4 with | [n0, 0] => some (.shpSt (BitVec.ofNat 4 n0) (Reg.ofCode x2)) | _ => none) else none
  | 6 => (match unpack [4, 3] x4 with | [n0, 0] => some (.shpSet (BitVec.ofNat 4 n0) (BitVec.ofNat 6 x2) (Reg.ofCode x1)) | _ => none)
  | 7 => (match unpack [4, 3] x4 with | [n0, 0] => some (.shpGet (BitVec.ofNat 4 n0) (BitVec.ofNat 6 x2) (Reg.ofCode x1)) | _ => none)
  | 8 => (match unpack [6, 1] x4 with | [idx0, 0] => some (.recSlice (BitVec.ofNat 6 idx0) (Reg.ofCode x2) (Reg.ofCode x1)) | _ => none)
  | _ => none

/-- Rows of major 37 (R36). -/
def decodeMajor37 (x1 x2 x3 x4 : Nat) : Option Instr :=
  match x4 with
  | 0 => some (.csrRw (BitVec.ofNat 10 x3) (Reg.ofCode x2) (Reg.ofCode x1))
  | 1 => some (.csrRs (BitVec.ofNat 10 x3) (Reg.ofCode x2) (Reg.ofCode x1))
  | 2 => some (.csrRc (BitVec.ofNat 10 x3) (Reg.ofCode x2) (Reg.ofCode x1))
  | _ => none

/-- Rows of major 38 (R36). tlb.inv and tlb.invt have z as their b; another code there makes an illegal instruction (R37 and R67 do not say
what such a word does; DESIGN CHOICE, log 67). -/
def decodeMajor38 (x1 x2 x3 x4 : Nat) : Option Instr :=
  match x4 with
  | 0 => if x1 = 0 ∧ x2 = 0 ∧ x3 = 0 then some .tret else none
  | 1 => if x1 = 0 ∧ x3 = 0 then some (.trapAb (Reg.ofCode x2)) else none
  | 2 => if x1 = 0 ∧ x3 = 0 then some (.trapDead (Reg.ofCode x2)) else none
  | 3 => some (.frzRel (Reg.ofCode x3) (Reg.ofCode x2) (Reg.ofCode x1))
  | 4 => if x2 = 0 then some (.eqPop (Reg.ofCode x3) (Reg.ofCode x1)) else none
  | 16 => some (.tlbWr (Reg.ofCode x3) (Reg.ofCode x2) (Reg.ofCode x1))
  | 17 => some (.tlbNak (Reg.ofCode x3) (Reg.ofCode x2) (Reg.ofCode x1))
  | 18 => if x3 = 60 then some (.tlbInv (Reg.ofCode x2) (Reg.ofCode x1)) else none
  | 19 => if x3 = 60 then some (.tlbInvt (Reg.ofCode x2) (Reg.ofCode x1)) else none
  | 24 => some (.resWr (Reg.ofCode x3) (Reg.ofCode x2) (Reg.ofCode x1))
  | 25 => if x1 = 0 then some (.resRd (Reg.ofCode x3) (Reg.ofCode x2)) else none
  | 32 => if x1 = 0 then some (.bndWr (Reg.ofCode x3) (Reg.ofCode x2)) else none
  | 33 => if x3 = 0 then some (.bndRd (Reg.ofCode x2) (Reg.ofCode x1)) else none
  | 34 => if x1 = 0 ∧ x3 = 0 then some (.bndClr (Reg.ofCode x2)) else none
  | 40 => if x2 = 0 then some (.wearRd (Reg.ofCode x3) (Reg.ofCode x1)) else none
  | 41 => if x1 = 0 ∧ x3 = 0 then some (.lvHold (Reg.ofCode x2)) else none
  | 42 => if x1 = 0 ∧ x2 = 0 ∧ x3 = 0 then some .lvDrop else none
  | 43 => if x2 = 0 then some (.lvStat (Reg.ofCode x3) (Reg.ofCode x1)) else none
  | 44 => some (.lvShare (Reg.ofCode x3) (Reg.ofCode x2) (Reg.ofCode x1))
  | 45 => some (.wearSet (Reg.ofCode x3) (Reg.ofCode x2) (Reg.ofCode x1))
  | 48 => if x3 = 0 then some (.partMk (Reg.ofCode x2) (Reg.ofCode x1)) else none
  | 49 => if x3 = 0 then some (.partFree (Reg.ofCode x2) (Reg.ofCode x1)) else none
  | 50 => some (.partHold (Reg.ofCode x3) (Reg.ofCode x2) (Reg.ofCode x1))
  | 51 => some (.partHalt (Reg.ofCode x3) (Reg.ofCode x2) (Reg.ofCode x1))
  | 52 => some (.partSwap (Reg.ofCode x3) (Reg.ofCode x2) (Reg.ofCode x1))
  | 53 => some (.shutPost (Reg.ofCode x3) (Reg.ofCode x2) (Reg.ofCode x1))
  | 54 => some (.shutStat (Reg.ofCode x3) (Reg.ofCode x2) (Reg.ofCode x1))
  | 55 => some (.vfCtlPause (Reg.ofCode x3) (Reg.ofCode x2) (Reg.ofCode x1))
  | _ => none

/-- Rows of major 39 (R36). -/
def decodeMajor39 (x1 x2 x3 x4 x5 : Nat) : Option Instr :=
  match x5 with
  | _ => (match unpack [3, 2, 1] x5 with
    | [0, t0, vs0] => (FpType.ofCode t0).bind fun t => some (.vfadd (decide (vs0 = 1)) t (Fin.ofNat 8 x4) (Fin.ofNat 32 x3) (Fin.ofNat 32 x2) (Fin.ofNat 32 x1))
    | [1, t0, vs0] => (FpType.ofCode t0).bind fun t => some (.vfsub (decide (vs0 = 1)) t (Fin.ofNat 8 x4) (Fin.ofNat 32 x3) (Fin.ofNat 32 x2) (Fin.ofNat 32 x1))
    | [2, t0, vs0] => (FpType.ofCode t0).bind fun t => some (.vfmul (decide (vs0 = 1)) t (Fin.ofNat 8 x4) (Fin.ofNat 32 x3) (Fin.ofNat 32 x2) (Fin.ofNat 32 x1))
    | [3, t0, vs0] => (FpType.ofCode t0).bind fun t => some (.vfma (decide (vs0 = 1)) t (Fin.ofNat 8 x4) (Fin.ofNat 32 x3) (Fin.ofNat 32 x2) (Fin.ofNat 32 x1))
    | [4, t0, vs0] => (FpType.ofCode t0).bind fun t => some (.vfnma (decide (vs0 = 1)) t (Fin.ofNat 8 x4) (Fin.ofNat 32 x3) (Fin.ofNat 32 x2) (Fin.ofNat 32 x1))
    | [5, t0, vs0] => (FpType.ofCode t0).bind fun t => some (.vfmin (decide (vs0 = 1)) t (Fin.ofNat 8 x4) (Fin.ofNat 32 x3) (Fin.ofNat 32 x2) (Fin.ofNat 32 x1))
    | [6, t0, vs0] => (FpType.ofCode t0).bind fun t => some (.vfmax (decide (vs0 = 1)) t (Fin.ofNat 8 x4) (Fin.ofNat 32 x3) (Fin.ofNat 32 x2) (Fin.ofNat 32 x1))
    | [7, t0, vs0] => (FpType.ofCode t0).bind fun t => some (.vfdiv (decide (vs0 = 1)) t (Fin.ofNat 8 x4) (Fin.ofNat 32 x3) (Fin.ofNat 32 x2) (Fin.ofNat 32 x1))
    | _ => none)

/-- Rows of major 40 (R36). -/
def decodeMajor40 (x1 x2 x3 x4 x5 : Nat) : Option Instr :=
  match x5 with
  | _ => (match unpack [3, 2, 1] x5 with
    | [0, z0, vs0] => some (.vadd (decide (vs0 = 1)) (EltSize.ofCode z0) (Fin.ofNat 8 x4) (Fin.ofNat 32 x3) (Fin.ofNat 32 x2) (Fin.ofNat 32 x1))
    | [1, z0, vs0] => some (.vsub (decide (vs0 = 1)) (EltSize.ofCode z0) (Fin.ofNat 8 x4) (Fin.ofNat 32 x3) (Fin.ofNat 32 x2) (Fin.ofNat 32 x1))
    | [2, z0, vs0] => some (.vmul (decide (vs0 = 1)) (EltSize.ofCode z0) (Fin.ofNat 8 x4) (Fin.ofNat 32 x3) (Fin.ofNat 32 x2) (Fin.ofNat 32 x1))
    | [3, z0, vs0] => some (.vmac (decide (vs0 = 1)) (EltSize.ofCode z0) (Fin.ofNat 8 x4) (Fin.ofNat 32 x3) (Fin.ofNat 32 x2) (Fin.ofNat 32 x1))
    | [4, z0, vs0] => some (.vminI (decide (vs0 = 1)) (EltSize.ofCode z0) (Fin.ofNat 8 x4) (Fin.ofNat 32 x3) (Fin.ofNat 32 x2) (Fin.ofNat 32 x1))
    | [5, z0, vs0] => some (.vmaxI (decide (vs0 = 1)) (EltSize.ofCode z0) (Fin.ofNat 8 x4) (Fin.ofNat 32 x3) (Fin.ofNat 32 x2) (Fin.ofNat 32 x1))
    | [6, z0, vs0] => some (.vminN (decide (vs0 = 1)) (EltSize.ofCode z0) (Fin.ofNat 8 x4) (Fin.ofNat 32 x3) (Fin.ofNat 32 x2) (Fin.ofNat 32 x1))
    | [7, z0, vs0] => some (.vmaxN (decide (vs0 = 1)) (EltSize.ofCode z0) (Fin.ofNat 8 x4) (Fin.ofNat 32 x3) (Fin.ofNat 32 x2) (Fin.ofNat 32 x1))
    | _ => none)

/-- Rows of major 41 (R36). -/
def decodeMajor41 (x1 x2 x3 x4 x5 : Nat) : Option Instr :=
  match x5 with
  | _ => (match unpack [3, 2, 1] x5 with
    | [0, z0, vs0] => some (.vand (decide (vs0 = 1)) (EltSize.ofCode z0) (Fin.ofNat 8 x4) (Fin.ofNat 32 x3) (Fin.ofNat 32 x2) (Fin.ofNat 32 x1))
    | [1, z0, vs0] => some (.vor (decide (vs0 = 1)) (EltSize.ofCode z0) (Fin.ofNat 8 x4) (Fin.ofNat 32 x3) (Fin.ofNat 32 x2) (Fin.ofNat 32 x1))
    | [2, z0, vs0] => some (.vxor (decide (vs0 = 1)) (EltSize.ofCode z0) (Fin.ofNat 8 x4) (Fin.ofNat 32 x3) (Fin.ofNat 32 x2) (Fin.ofNat 32 x1))
    | [3, z0, vs0] => some (.vandn (decide (vs0 = 1)) (EltSize.ofCode z0) (Fin.ofNat 8 x4) (Fin.ofNat 32 x3) (Fin.ofNat 32 x2) (Fin.ofNat 32 x1))
    | [4, z0, vs0] => some (.vsll (decide (vs0 = 1)) (EltSize.ofCode z0) (Fin.ofNat 8 x4) (Fin.ofNat 32 x3) (Fin.ofNat 32 x2) (Fin.ofNat 32 x1))
    | [5, z0, vs0] => some (.vsrl (decide (vs0 = 1)) (EltSize.ofCode z0) (Fin.ofNat 8 x4) (Fin.ofNat 32 x3) (Fin.ofNat 32 x2) (Fin.ofNat 32 x1))
    | [6, z0, vs0] => some (.vsra (decide (vs0 = 1)) (EltSize.ofCode z0) (Fin.ofNat 8 x4) (Fin.ofNat 32 x3) (Fin.ofNat 32 x2) (Fin.ofNat 32 x1))
    | [7, z0, vs0] => if x2 = 0 then some (.vmov (decide (vs0 = 1)) (EltSize.ofCode z0) (Fin.ofNat 8 x4) (Fin.ofNat 32 x3) (Fin.ofNat 32 x1)) else none
    | _ => none)

/-- Rows of major 42 (R36). -/
def decodeMajor42 (x1 x2 x3 x4 x5 : Nat) : Option Instr :=
  match x5 with
  | 31 => (match x4 with
    | 0 => some (.kand (Fin.ofNat 32 x3) (Fin.ofNat 32 x2) (Fin.ofNat 32 x1))
    | 1 => some (.kor (Fin.ofNat 32 x3) (Fin.ofNat 32 x2) (Fin.ofNat 32 x1))
    | 2 => some (.kxor (Fin.ofNat 32 x3) (Fin.ofNat 32 x2) (Fin.ofNat 32 x1))
    | 3 => some (.kandn (Fin.ofNat 32 x3) (Fin.ofNat 32 x2) (Fin.ofNat 32 x1))
    | 4 => if x3 = 0 then some (.knot (Fin.ofNat 32 x2) (Fin.ofNat 32 x1)) else none
    | 5 => if x3 = 0 then some (.kpop (Fin.ofNat 32 x2) (Fin.ofNat 32 x1)) else none
    | 6 => if x3 = 0 then some (.kfirst (Fin.ofNat 32 x2) (Fin.ofNat 32 x1)) else none
    | 7 => if x3 = 0 then some (.kword (Fin.ofNat 32 x2) (Fin.ofNat 32 x1)) else none
    | _ => none)
  | 63 => (match x4 with
    | 0 => if x2 = 0 then some (.klo (Fin.ofNat 32 x3) (Fin.ofNat 32 x1)) else none
    | 1 => if x2 = 0 then some (.kset (Fin.ofNat 32 x3) (Fin.ofNat 32 x1)) else none
    | _ => none)
  | _ => (match unpack [2, 3, 1] x5 with
    | [z0, 0, vs0] => some (.vceq (decide (vs0 = 1)) (EltSize.ofCode z0) (Fin.ofNat 8 x4) (Fin.ofNat 32 x3) (Fin.ofNat 32 x2) (Fin.ofNat 32 x1))
    | [z0, 1, vs0] => some (.vclt (decide (vs0 = 1)) (EltSize.ofCode z0) (Fin.ofNat 8 x4) (Fin.ofNat 32 x3) (Fin.ofNat 32 x2) (Fin.ofNat 32 x1))
    | [z0, 2, vs0] => some (.vcge (decide (vs0 = 1)) (EltSize.ofCode z0) (Fin.ofNat 8 x4) (Fin.ofNat 32 x3) (Fin.ofNat 32 x2) (Fin.ofNat 32 x1))
    | [z0, 3, vs0] => some (.vcltn (decide (vs0 = 1)) (EltSize.ofCode z0) (Fin.ofNat 8 x4) (Fin.ofNat 32 x3) (Fin.ofNat 32 x2) (Fin.ofNat 32 x1))
    | [z0, 4, vs0] => some (.vcgen (decide (vs0 = 1)) (EltSize.ofCode z0) (Fin.ofNat 8 x4) (Fin.ofNat 32 x3) (Fin.ofNat 32 x2) (Fin.ofNat 32 x1))
    | [t0, 5, vs0] => (FpType.ofCode t0).bind fun t => some (.vfeq (decide (vs0 = 1)) t (Fin.ofNat 8 x4) (Fin.ofNat 32 x3) (Fin.ofNat 32 x2) (Fin.ofNat 32 x1))
    | [t0, 6, vs0] => (FpType.ofCode t0).bind fun t => some (.vflt (decide (vs0 = 1)) t (Fin.ofNat 8 x4) (Fin.ofNat 32 x3) (Fin.ofNat 32 x2) (Fin.ofNat 32 x1))
    | [t0, 7, vs0] => (FpType.ofCode t0).bind fun t => some (.vfle (decide (vs0 = 1)) t (Fin.ofNat 8 x4) (Fin.ofNat 32 x3) (Fin.ofNat 32 x2) (Fin.ofNat 32 x1))
    | _ => none)

/-- Rows of major 43 (R36). -/
def decodeMajor43 (x1 x2 x3 x4 x5 : Nat) : Option Instr :=
  match x5 with
  | 0 => some (.vcvtF32Bf16 (Fin.ofNat 8 x4) (Fin.ofNat 32 x3) (Fin.ofNat 32 x2) (Fin.ofNat 32 x1))
  | 1 => some (.vcvtF32F16 (Fin.ofNat 8 x4) (Fin.ofNat 32 x3) (Fin.ofNat 32 x2) (Fin.ofNat 32 x1))
  | 2 => some (.vcvtBf16F32 (Fin.ofNat 8 x4) (Fin.ofNat 32 x3) (Fin.ofNat 32 x2) (Fin.ofNat 32 x1))
  | 3 => some (.vcvtF16F32 (Fin.ofNat 8 x4) (Fin.ofNat 32 x3) (Fin.ofNat 32 x2) (Fin.ofNat 32 x1))
  | 4 => if x3 = 0 then some (.vcvtF16Bf16 (Fin.ofNat 8 x4) (Fin.ofNat 32 x2) (Fin.ofNat 32 x1)) else none
  | 5 => if x3 = 0 then some (.vcvtBf16F16 (Fin.ofNat 8 x4) (Fin.ofNat 32 x2) (Fin.ofNat 32 x1)) else none
  | 6 => if x3 = 0 then some (.vcvtF32I32 (Fin.ofNat 8 x4) (Fin.ofNat 32 x2) (Fin.ofNat 32 x1)) else none
  | 7 => if x3 = 0 then some (.vcvtI32F32 (Fin.ofNat 8 x4) (Fin.ofNat 32 x2) (Fin.ofNat 32 x1)) else none
  | 8 => some (.vcvtF32I8 (Fin.ofNat 8 x4) (Fin.ofNat 32 x3) (Fin.ofNat 32 x2) (Fin.ofNat 32 x1))
  | 10 => some (.vwidI16I8 (Fin.ofNat 8 x4) (Fin.ofNat 32 x3) (Fin.ofNat 32 x2) (Fin.ofNat 32 x1))
  | 11 => some (.vwidI32I16 (Fin.ofNat 8 x4) (Fin.ofNat 32 x3) (Fin.ofNat 32 x2) (Fin.ofNat 32 x1))
  | 12 => some (.vwidN16N8 (Fin.ofNat 8 x4) (Fin.ofNat 32 x3) (Fin.ofNat 32 x2) (Fin.ofNat 32 x1))
  | 13 => some (.vwidN32N16 (Fin.ofNat 8 x4) (Fin.ofNat 32 x3) (Fin.ofNat 32 x2) (Fin.ofNat 32 x1))
  | 14 => some (.vnarI8I16 (Fin.ofNat 8 x4) (Fin.ofNat 32 x3) (Fin.ofNat 32 x2) (Fin.ofNat 32 x1))
  | 15 => some (.vnarI16I32 (Fin.ofNat 8 x4) (Fin.ofNat 32 x3) (Fin.ofNat 32 x2) (Fin.ofNat 32 x1))
  | 16 => some (.vgscLo (Fin.ofNat 8 x4) (Fin.ofNat 32 x3) (Fin.ofNat 32 x2) (Fin.ofNat 32 x1))
  | 17 => some (.vgscHi (Fin.ofNat 8 x4) (Fin.ofNat 32 x3) (Fin.ofNat 32 x2) (Fin.ofNat 32 x1))
  | 20 => some (.vunpkI8I4 (Fin.ofNat 8 x4) (Fin.ofNat 32 x3) (Fin.ofNat 32 x2) (Fin.ofNat 32 x1))
  | 21 => some (.vpkI4I8 (Fin.ofNat 8 x4) (Fin.ofNat 32 x3) (Fin.ofNat 32 x2) (Fin.ofNat 32 x1))
  | _ => none

/-- Rows of major 44 (R36). -/
def decodeMajor44 (x1 x2 x3 x4 x5 : Nat) : Option Instr :=
  match x5 with
  | 0 => some (.vpermB (Fin.ofNat 8 x4) (Fin.ofNat 32 x3) (Fin.ofNat 32 x2) (Fin.ofNat 32 x1))
  | 1 => some (.vnibLo (Fin.ofNat 8 x4) (Fin.ofNat 32 x3) (Fin.ofNat 32 x2) (Fin.ofNat 32 x1))
  | 2 => some (.vnibHi (Fin.ofNat 8 x4) (Fin.ofNat 32 x3) (Fin.ofNat 32 x2) (Fin.ofNat 32 x1))
  | _ => (match unpack [2, 4] x5 with
    | [z0, 1] => some (.vbcast (EltSize.ofCode z0) (Fin.ofNat 8 x4) (Fin.ofNat 32 x3) (Fin.ofNat 32 x2) (Fin.ofNat 32 x1))
    | [z0, 2] => some (.vslup (EltSize.ofCode z0) (Fin.ofNat 8 x4) (Fin.ofNat 32 x3) (Fin.ofNat 32 x2) (Fin.ofNat 32 x1))
    | [z0, 3] => some (.vsldn (EltSize.ofCode z0) (Fin.ofNat 8 x4) (Fin.ofNat 32 x3) (Fin.ofNat 32 x2) (Fin.ofNat 32 x1))
    | [z0, 4] => if x3 = 0 then some (.vcomp (EltSize.ofCode z0) (Fin.ofNat 8 x4) (Fin.ofNat 32 x2) (Fin.ofNat 32 x1)) else none
    | [z0, 5] => if x2 = 0 ∧ x3 = 0 then some (.vidx (EltSize.ofCode z0) (Fin.ofNat 8 x4) (Fin.ofNat 32 x1)) else none
    | [z0, 6] => if x4 = 0 then some (.vmvq (EltSize.ofCode z0) (Fin.ofNat 32 x3) (Fin.ofNat 32 x2) (Fin.ofNat 32 x1)) else none
    | _ => none)

/-- Rows of major 45 (R36). -/
def decodeMajor45 (x1 x2 x3 x4 x5 : Nat) : Option Instr :=
  match x5 with
  | _ => (match unpack [3, 3] x5 with
    | [t0, 0] => if x3 = 0 then (RedType.ofCode t0).bind fun t => some (.vrsum t (Fin.ofNat 8 x4) (Fin.ofNat 32 x2) (Fin.ofNat 32 x1)) else none
    | [t0, 1] => if x3 = 0 then (RedType.ofCode t0).bind fun t => some (.vrmax t (Fin.ofNat 8 x4) (Fin.ofNat 32 x2) (Fin.ofNat 32 x1)) else none
    | [t0, 2] => if x3 = 0 then (RedType.ofCode t0).bind fun t => some (.vrmin t (Fin.ofNat 8 x4) (Fin.ofNat 32 x2) (Fin.ofNat 32 x1)) else none
    | [t0, 3] => if x3 = 0 then (RedType.ofCode t0).bind fun t => some (.vramax t (Fin.ofNat 8 x4) (Fin.ofNat 32 x2) (Fin.ofNat 32 x1)) else none
    | [t0, 4] => if x3 = 0 then (RedType.ofCode t0).bind fun t => some (.vramin t (Fin.ofNat 8 x4) (Fin.ofNat 32 x2) (Fin.ofNat 32 x1)) else none
    | [t0, 5] => if x3 = 0 then (RedType.ofCode t0).bind fun t => some (.vscan t (Fin.ofNat 8 x4) (Fin.ofNat 32 x2) (Fin.ofNat 32 x1)) else none
    | [t0, 6] => (RedType.ofCode t0).bind fun t => some (.vhist t (Fin.ofNat 8 x4) (Fin.ofNat 32 x3) (Fin.ofNat 32 x2) (Fin.ofNat 32 x1))
    | _ => none)

/-- Rows of major 46 (R36). -/
def decodeMajor46 (x1 x2 x3 x4 x5 : Nat) : Option Instr :=
  match x5 with
  | 0 => if x3 = 0 then some (.vexp2 (Fin.ofNat 8 x4) (Fin.ofNat 32 x2) (Fin.ofNat 32 x1)) else none
  | 1 => if x3 = 0 then some (.vlog2 (Fin.ofNat 8 x4) (Fin.ofNat 32 x2) (Fin.ofNat 32 x1)) else none
  | 2 => if x3 = 0 then some (.vrcp (Fin.ofNat 8 x4) (Fin.ofNat 32 x2) (Fin.ofNat 32 x1)) else none
  | 3 => if x3 = 0 then some (.vrsqrt (Fin.ofNat 8 x4) (Fin.ofNat 32 x2) (Fin.ofNat 32 x1)) else none
  | 4 => if x3 = 0 then some (.vsqrt (Fin.ofNat 8 x4) (Fin.ofNat 32 x2) (Fin.ofNat 32 x1)) else none
  | 8 => some (.vrngN32 (Fin.ofNat 8 x4) (Fin.ofNat 32 x3) (Fin.ofNat 32 x2) (Fin.ofNat 32 x1))
  | 9 => some (.vrngF32 (Fin.ofNat 8 x4) (Fin.ofNat 32 x3) (Fin.ofNat 32 x2) (Fin.ofNat 32 x1))
  | _ => (match unpack [3, 3] x5 with
    | [t0, 2] => if x3 = 0 then (OrdType.ofCode t0).bind fun t => some (.vord t (Fin.ofNat 8 x4) (Fin.ofNat 32 x2) (Fin.ofNat 32 x1)) else none
    | [t0, 3] => if x3 = 0 then (OrdType.ofCode t0).bind fun t => some (.vordi t (Fin.ofNat 8 x4) (Fin.ofNat 32 x2) (Fin.ofNat 32 x1)) else none
    | _ => none)

/-- Rows of major 47 (R36). -/
def decodeMajor47 (x1 x2 x3 x4 x5 : Nat) : Option Instr :=
  match x5 with
  | 0 => if x3 = 0 then some (.vld (Fin.ofNat 8 x4) (Reg.ofCode x2) (Fin.ofNat 32 x1)) else none
  | 1 => if x3 = 0 then some (.vst (Fin.ofNat 8 x4) (Reg.ofCode x2) (Fin.ofNat 32 x1)) else none
  | 2 => some (.vlds (Fin.ofNat 8 x4) (Reg.ofCode x3) (Reg.ofCode x2) (Fin.ofNat 32 x1))
  | 3 => some (.vsts (Fin.ofNat 8 x4) (Reg.ofCode x3) (Reg.ofCode x2) (Fin.ofNat 32 x1))
  | 4 => if x3 = 0 then some (.vldg (Fin.ofNat 8 x4) (Reg.ofCode x2) (Fin.ofNat 32 x1)) else none
  | 5 => if x3 = 0 then some (.vstg (Fin.ofNat 8 x4) (Reg.ofCode x2) (Fin.ofNat 32 x1)) else none
  | 6 => if x3 = 0 then some (.vldb (Fin.ofNat 8 x4) (Reg.ofCode x2) (Fin.ofNat 32 x1)) else none
  | _ => none

/-- Compact quadrant 0 (R41). -/
def decodeQuadrant0 (op ds b : Nat) : Option Instr :=
  match op with
  | 1 => some (.compactAdd (Fin.ofNat 16 b) (Fin.ofNat 16 ds))
  | 2 => some (.compactSub (Fin.ofNat 16 b) (Fin.ofNat 16 ds))
  | 3 => some (.compactAnd (Fin.ofNat 16 b) (Fin.ofNat 16 ds))
  | 4 => some (.compactOr (Fin.ofNat 16 b) (Fin.ofNat 16 ds))
  | 5 => some (.compactXor (Fin.ofNat 16 b) (Fin.ofNat 16 ds))
  | 6 => some (.compactSll (Fin.ofNat 16 b) (Fin.ofNat 16 ds))
  | 7 => some (.compactSrl (Fin.ofNat 16 b) (Fin.ofNat 16 ds))
  | 8 => some (.compactSra (Fin.ofNat 16 b) (Fin.ofNat 16 ds))
  | 9 => some (.compactMul (Fin.ofNat 16 b) (Fin.ofNat 16 ds))
  | 10 => some (.compactMove (Fin.ofNat 16 b) (Fin.ofNat 16 ds))
  | _ => none

/-- Compact quadrant 1 (R42). -/
def decodeQuadrant1 (op ds imm : Nat) : Option Instr :=
  match op with
  | 1 => some (.compactAddi (BitVec.ofNat 6 imm) (Fin.ofNat 16 ds))
  | 2 => some (.compactLix (BitVec.ofNat 6 imm) (Fin.ofNat 16 ds))
  | 3 => some (.compactAndi (BitVec.ofNat 6 imm) (Fin.ofNat 16 ds))
  | 4 => some (.compactSlli (BitVec.ofNat 6 imm) (Fin.ofNat 16 ds))
  | 5 => some (.compactSrli (BitVec.ofNat 6 imm) (Fin.ofNat 16 ds))
  | 6 => some (.compactSrai (BitVec.ofNat 6 imm) (Fin.ofNat 16 ds))
  | _ => none

/-- Compact quadrant 2 (R43, R44): `r` is bits [15:6]. -/
def decodeQuadrant2 (op r : Nat) : Option Instr :=
  match op with
  | 1 => (match unpack [4, 4, 2] r with | [d0, b0, off0] => some (.compactLdI64 (BitVec.ofNat 2 off0) (Fin.ofNat 16 b0) (Fin.ofNat 16 d0)) | _ => none)
  | 2 => (match unpack [4, 4, 2] r with | [s0, b0, off0] => some (.compactStI64 (BitVec.ofNat 2 off0) (Fin.ofNat 16 b0) (Fin.ofNat 16 s0)) | _ => none)
  | 3 => (match unpack [4, 4, 2] r with | [d0, b0, off0] => some (.compactLdI32 (BitVec.ofNat 2 off0) (Fin.ofNat 16 b0) (Fin.ofNat 16 d0)) | _ => none)
  | 4 => (match unpack [4, 4, 2] r with | [s0, b0, off0] => some (.compactStI32 (BitVec.ofNat 2 off0) (Fin.ofNat 16 b0) (Fin.ofNat 16 s0)) | _ => none)
  | 5 => (match unpack [4, 6] r with | [a0, imm0] => some (.compactBEq (BitVec.ofNat 6 imm0) (Fin.ofNat 16 a0)) | _ => none)
  | 6 => (match unpack [4, 6] r with | [a0, imm0] => some (.compactBNe (BitVec.ofNat 6 imm0) (Fin.ofNat 16 a0)) | _ => none)
  | 7 => some (.compactJ (BitVec.ofNat 10 r))
  | 8 => (match r with
    | 0 => some .compactNop
    | 1 => some .compactDone
    | 2 => some .compactFlush
    | 3 => some .compactJrLk
    | _ => none)
  | 9 => (match unpack [2, 1, 3, 4] r with | [gs0, sat0, rnd0, fmt0] => some (.pfx (BitVec.ofNat 4 fmt0) (BitVec.ofNat 3 rnd0) (decide (sat0 = 1)) (BitVec.ofNat 2 gs0)) | _ => none)
  | _ => none

/-- The instruction a 32-bit word spells, before the range checks of `WellFormed` (R28, R36): by its major opcode. -/
def decodeFields32 (w : Nat) : Option Instr :=
  match w / 4 % 64 with
  | 1 => (match unpack [8, 6, 6, 6, 6] w with | [_, x1, x2, x3, x4] => decodeMajor1 x1 x2 x3 x4 | _ => none)
  | 2 => (match unpack [8, 6, 6, 12] w with | [_, x1, x2, x3] => decodeMajor2 x1 x2 x3 | _ => none)
  | 3 => (match unpack [8, 6, 6, 12] w with | [_, x1, x2, x3] => decodeMajor3 x1 x2 x3 | _ => none)
  | 4 => (match unpack [8, 6, 6, 12] w with | [_, x1, x2, x3] => decodeMajor4 x1 x2 x3 | _ => none)
  | 5 => (match unpack [8, 6, 6, 12] w with | [_, x1, x2, x3] => decodeMajor5 x1 x2 x3 | _ => none)
  | 6 => (match unpack [8, 6, 6, 6, 6] w with | [_, x1, x2, x3, x4] => decodeMajor6 x1 x2 x3 x4 | _ => none)
  | 7 => (match unpack [8, 6, 6, 12] w with | [_, x1, x2, x3] => decodeMajor7 x1 x2 x3 | _ => none)
  | 8 => (match unpack [8, 6, 18] w with | [_, x1, x2] => decodeMajor8 x1 x2 | _ => none)
  | 9 => (match unpack [8, 6, 18] w with | [_, x1, x2] => decodeMajor9 x1 x2 | _ => none)
  | 10 => (match unpack [8, 6, 6, 6, 6] w with | [_, x1, x2, x3, x4] => decodeMajor10 x1 x2 x3 x4 | _ => none)
  | 11 => (match unpack [8, 6, 6, 12] w with | [_, x1, x2, x3] => decodeMajor11 x1 x2 x3 | _ => none)
  | 12 => (match unpack [8, 6, 6, 12] w with | [_, x1, x2, x3] => decodeMajor12 x1 x2 x3 | _ => none)
  | 13 => (match unpack [8, 6, 6, 12] w with | [_, x1, x2, x3] => decodeMajor13 x1 x2 x3 | _ => none)
  | 14 => (match unpack [8, 6, 6, 12] w with | [_, x1, x2, x3] => decodeMajor14 x1 x2 x3 | _ => none)
  | 15 => (match unpack [8, 6, 6, 12] w with | [_, x1, x2, x3] => decodeMajor15 x1 x2 x3 | _ => none)
  | 16 => (match unpack [8, 6, 6, 12] w with | [_, x1, x2, x3] => decodeMajor16 x1 x2 x3 | _ => none)
  | 17 => (match unpack [8, 24] w with | [_, x1] => decodeMajor17 x1 | _ => none)
  | 18 => (match unpack [8, 24] w with | [_, x1] => decodeMajor18 x1 | _ => none)
  | 19 => (match unpack [8, 6, 6, 6, 6] w with | [_, x1, x2, x3, x4] => decodeMajor19 x1 x2 x3 x4 | _ => none)
  | 20 => (match unpack [8, 6, 6, 3, 9] w with | [_, x1, x2, x3, x4] => decodeMajor20 x1 x2 x3 x4 | _ => none)
  | 21 => (match unpack [8, 6, 6, 3, 9] w with | [_, x1, x2, x3, x4] => decodeMajor21 x1 x2 x3 x4 | _ => none)
  | 22 => (match unpack [8, 6, 6, 6, 3, 3] w with | [_, x1, x2, x3, x4, x5] => decodeMajor22 x1 x2 x3 x4 x5 | _ => none)
  | 23 => (match unpack [8, 6, 6, 6, 3, 3] w with | [_, x1, x2, x3, x4, x5] => decodeMajor23 x1 x2 x3 x4 x5 | _ => none)
  | 24 => (match unpack [8, 6, 6, 6, 3, 3] w with | [_, x1, x2, x3, x4, x5] => decodeMajor24 x1 x2 x3 x4 x5 | _ => none)
  | 25 => (match unpack [8, 6, 6, 6, 3, 3] w with | [_, x1, x2, x3, x4, x5] => decodeMajor25 x1 x2 x3 x4 x5 | _ => none)
  | 26 => (match unpack [8, 6, 6, 6, 6] w with | [_, x1, x2, x3, x4] => decodeMajor26 x1 x2 x3 x4 | _ => none)
  | 27 => (match unpack [8, 6, 6, 6, 6] w with | [_, x1, x2, x3, x4] => decodeMajor27 x1 x2 x3 x4 | _ => none)
  | 28 => (match unpack [8, 6, 6, 5, 7] w with | [_, x1, x2, x3, x4] => decodeMajor28 x1 x2 x3 x4 | _ => none)
  | 29 => (match unpack [8, 6, 6, 5, 7] w with | [_, x1, x2, x3, x4] => decodeMajor29 x1 x2 x3 x4 | _ => none)
  | 30 => (match unpack [8, 6, 6, 5, 7] w with | [_, x1, x2, x3, x4] => decodeMajor30 x1 x2 x3 x4 | _ => none)
  | 31 => (match unpack [8, 6, 6, 5, 7] w with | [_, x1, x2, x3, x4] => decodeMajor31 x1 x2 x3 x4 | _ => none)
  | 32 => (match unpack [8, 6, 6, 5, 7] w with | [_, x1, x2, x3, x4] => decodeMajor32 x1 x2 x3 x4 | _ => none)
  | 33 => (match unpack [8, 6, 6, 5, 7] w with | [_, x1, x2, x3, x4] => decodeMajor33 x1 x2 x3 x4 | _ => none)
  | 34 => (match unpack [8, 6, 6, 5, 7] w with | [_, x1, x2, x3, x4] => decodeMajor34 x1 x2 x3 x4 | _ => none)
  | 35 => (match unpack [8, 6, 6, 5, 7] w with | [_, x1, x2, x3, x4] => decodeMajor35 x1 x2 x3 x4 | _ => none)
  | 36 => (match unpack [8, 6, 6, 5, 7] w with | [_, x1, x2, x3, x4] => decodeMajor36 x1 x2 x3 x4 | _ => none)
  | 37 => (match unpack [8, 6, 6, 10, 2] w with | [_, x1, x2, x3, x4] => decodeMajor37 x1 x2 x3 x4 | _ => none)
  | 38 => (match unpack [8, 6, 6, 6, 6] w with | [_, x1, x2, x3, x4] => decodeMajor38 x1 x2 x3 x4 | _ => none)
  | 39 => (match unpack [8, 5, 5, 5, 3, 6] w with | [_, x1, x2, x3, x4, x5] => decodeMajor39 x1 x2 x3 x4 x5 | _ => none)
  | 40 => (match unpack [8, 5, 5, 5, 3, 6] w with | [_, x1, x2, x3, x4, x5] => decodeMajor40 x1 x2 x3 x4 x5 | _ => none)
  | 41 => (match unpack [8, 5, 5, 5, 3, 6] w with | [_, x1, x2, x3, x4, x5] => decodeMajor41 x1 x2 x3 x4 x5 | _ => none)
  | 42 => (match unpack [8, 5, 5, 5, 3, 6] w with | [_, x1, x2, x3, x4, x5] => decodeMajor42 x1 x2 x3 x4 x5 | _ => none)
  | 43 => (match unpack [8, 5, 5, 5, 3, 6] w with | [_, x1, x2, x3, x4, x5] => decodeMajor43 x1 x2 x3 x4 x5 | _ => none)
  | 44 => (match unpack [8, 5, 5, 5, 3, 6] w with | [_, x1, x2, x3, x4, x5] => decodeMajor44 x1 x2 x3 x4 x5 | _ => none)
  | 45 => (match unpack [8, 5, 5, 5, 3, 6] w with | [_, x1, x2, x3, x4, x5] => decodeMajor45 x1 x2 x3 x4 x5 | _ => none)
  | 46 => (match unpack [8, 5, 5, 5, 3, 6] w with | [_, x1, x2, x3, x4, x5] => decodeMajor46 x1 x2 x3 x4 x5 | _ => none)
  | 47 => (match unpack [8, 5, 6, 6, 3, 4] w with | [_, x1, x2, x3, x4, x5] => decodeMajor47 x1 x2 x3 x4 x5 | _ => none)
  | _ => none

/-- The instruction a compact parcel spells, before the range checks (R39 to R44): by its quadrant. -/
def decodeFields16 (w : Nat) : Option Instr :=
  match w % 4 with
  | 0 => (match unpack [2, 6, 4, 4] w with | [_, op, ds, b] => decodeQuadrant0 op ds b | _ => none)
  | 1 => (match unpack [2, 4, 4, 6] w with | [_, op, ds, imm] => decodeQuadrant1 op ds imm | _ => none)
  | 2 => (match unpack [2, 4, 10] w with | [_, op, r] => decodeQuadrant2 op r | _ => none)
  | _ => none

/-- A 32-bit word decodes to the instruction its fields spell, if that instruction is well formed (R37). -/
def decodeWord32 (w : Nat) : Option Instr := (decodeFields32 w).filter Instr.wellFormed

/-- A compact parcel decodes to the instruction its fields spell, if that instruction is well formed (R40). -/
def decodeWord16 (w : Nat) : Option Instr := (decodeFields16 w).filter Instr.wellFormed

/-- Why bytes are no instruction. -/
inductive DecodeError where
  /-- Fewer bytes than a parcel, or than the word the first parcel opens. -/
  | tooShort
  /-- The parcel 0x0000 (R27). -/
  | zeroParcel
  /-- A compact pattern that R41 to R43 do not list, or a reserved pfx field value (R40, R44). -/
  | undefinedCompact (parcel : Nat)
  /-- A reserved major opcode: 0, 48 to 62, 63 (R27, R36). -/
  | reservedMajor (major : Nat)
  /-- A reserved or undefined selector, a reserved field value or a non-zero unused field (R37). -/
  | undefinedEncoding (word : Nat)
deriving DecidableEq, Repr

/-- A decoded instruction with its length in bytes (R25). -/
structure Decoded where
  instr : Instr
  len : Nat
deriving DecidableEq, Repr

/-- Decode the instruction whose first parcel is `p0` and whose following parcel, if the code holds one, is `p1` (R25). -/
def decodeParcels (p0 : Nat) (p1 : Option Nat) : Except DecodeError Decoded :=
  if p0 % 4 = 3 then
    match p1 with
    | none => .error .tooShort
    | some h =>
      let w := p0 % 65536 + 65536 * (h % 65536)
      match decodeWord32 w with
      | some i => .ok ⟨i, 4⟩
      | none =>
        if w / 4 % 64 = 0 ∨ 48 ≤ w / 4 % 64 then .error (.reservedMajor (w / 4 % 64))
        else .error (.undefinedEncoding w)
  else if p0 % 65536 = 0 then .error .zeroParcel
  else
    match decodeWord16 (p0 % 65536) with
    | some i => .ok ⟨i, 2⟩
    | none => .error (.undefinedCompact (p0 % 65536))

/-- Decode the instruction at the start of a list of bytes, with the bytes that follow it (R4, R25). -/
def decode : List Byte → Except DecodeError (Instr × List Byte)
  | b0 :: b1 :: rest =>
    let p0 := b0.toNat + 256 * b1.toNat
    if p0 % 4 = 3 then
      match rest with
      | b2 :: b3 :: rest' =>
        match decodeParcels p0 (some (b2.toNat + 256 * b3.toNat)) with
        | .ok r => .ok (r.instr, rest')
        | .error e => .error e
      | _ => .error .tooShort
    else
      match decodeParcels p0 none with
      | .ok r => .ok (r.instr, rest)
      | .error e => .error e
  | _ => .error .tooShort

/-- The `k` little-endian bytes of a word. -/
def wordBytes : Nat → Nat → List Byte
  | 0, _ => []
  | k + 1, w => BitVec.ofNat 8 w :: wordBytes k (w / 256)

/-- The instruction the decoder reads from an instruction of `nbits` bits whose value is `w`, further words being zero. -/
def decodeTableWord (nbits w : Nat) : Option Instr :=
  match decode (wordBytes (max (nbits / 8) 4) (w % 2 ^ nbits)) with
  | .ok (i, _) => some i
  | .error _ => none

/-- The words of an instruction: its length in bits and its value, from the formats of R28, R31, R41 to R44.
An event, and an instruction that shares another row's word, has none. -/
def encode (i : Instr) : Option (Nat × Nat) :=
  match i with
  | .add b a d => some (32, pack [(8, 7), (6, d.code), (6, a.code), (6, b.code), (6, 0)])
  | .sub b a d => some (32, pack [(8, 7), (6, d.code), (6, a.code), (6, b.code), (6, 1)])
  | .and b a d => some (32, pack [(8, 7), (6, d.code), (6, a.code), (6, b.code), (6, 2)])
  | .or b a d => some (32, pack [(8, 7), (6, d.code), (6, a.code), (6, b.code), (6, 3)])
  | .xor b a d => some (32, pack [(8, 7), (6, d.code), (6, a.code), (6, b.code), (6, 4)])
  | .andn b a d => some (32, pack [(8, 7), (6, d.code), (6, a.code), (6, b.code), (6, 5)])
  | .orn b a d => some (32, pack [(8, 7), (6, d.code), (6, a.code), (6, b.code), (6, 6)])
  | .sll b a d => some (32, pack [(8, 7), (6, d.code), (6, a.code), (6, b.code), (6, 8)])
  | .srl b a d => some (32, pack [(8, 7), (6, d.code), (6, a.code), (6, b.code), (6, 9)])
  | .sra b a d => some (32, pack [(8, 7), (6, d.code), (6, a.code), (6, b.code), (6, 10)])
  | .slt b a d => some (32, pack [(8, 7), (6, d.code), (6, a.code), (6, b.code), (6, 12)])
  | .sltn b a d => some (32, pack [(8, 7), (6, d.code), (6, a.code), (6, b.code), (6, 13)])
  | .min b a d => some (32, pack [(8, 7), (6, d.code), (6, a.code), (6, b.code), (6, 14)])
  | .max b a d => some (32, pack [(8, 7), (6, d.code), (6, a.code), (6, b.code), (6, 15)])
  | .minn b a d => some (32, pack [(8, 7), (6, d.code), (6, a.code), (6, b.code), (6, 16)])
  | .maxn b a d => some (32, pack [(8, 7), (6, d.code), (6, a.code), (6, b.code), (6, 17)])
  | .mul b a d => some (32, pack [(8, 7), (6, d.code), (6, a.code), (6, b.code), (6, 18)])
  | .mulh b a d => some (32, pack [(8, 7), (6, d.code), (6, a.code), (6, b.code), (6, 19)])
  | .mulhn b a d => some (32, pack [(8, 7), (6, d.code), (6, a.code), (6, b.code), (6, 20)])
  | .div b a d => some (32, pack [(8, 7), (6, d.code), (6, a.code), (6, b.code), (6, 22)])
  | .divn b a d => some (32, pack [(8, 7), (6, d.code), (6, a.code), (6, b.code), (6, 23)])
  | .rem b a d => some (32, pack [(8, 7), (6, d.code), (6, a.code), (6, b.code), (6, 24)])
  | .remn b a d => some (32, pack [(8, 7), (6, d.code), (6, a.code), (6, b.code), (6, 25)])
  | .addw b a d => some (32, pack [(8, 7), (6, d.code), (6, a.code), (6, b.code), (6, 26)])
  | .subw b a d => some (32, pack [(8, 7), (6, d.code), (6, a.code), (6, b.code), (6, 27)])
  | .sllw b a d => some (32, pack [(8, 7), (6, d.code), (6, a.code), (6, b.code), (6, 28)])
  | .srlw b a d => some (32, pack [(8, 7), (6, d.code), (6, a.code), (6, b.code), (6, 29)])
  | .sraw b a d => some (32, pack [(8, 7), (6, d.code), (6, a.code), (6, b.code), (6, 30)])
  | .mulw b a d => some (32, pack [(8, 7), (6, d.code), (6, a.code), (6, b.code), (6, 31)])
  | .clz a d => some (32, pack [(8, 7), (6, d.code), (6, a.code), (6, 0), (6, 32)])
  | .ctz a d => some (32, pack [(8, 7), (6, d.code), (6, a.code), (6, 0), (6, 33)])
  | .popc a d => some (32, pack [(8, 7), (6, d.code), (6, a.code), (6, 0), (6, 34)])
  | .bswap a d => some (32, pack [(8, 7), (6, d.code), (6, a.code), (6, 0), (6, 35)])
  | .addi imm a d => some (32, pack [(8, 11), (6, d.code), (6, a.code), (12, imm.toNat)])
  | .andi imm a d => some (32, pack [(8, 15), (6, d.code), (6, a.code), (12, imm.toNat)])
  | .ori imm a d => some (32, pack [(8, 19), (6, d.code), (6, a.code), (12, imm.toNat)])
  | .xori imm a d => some (32, pack [(8, 23), (6, d.code), (6, a.code), (12, imm.toNat)])
  | .slli sh a d => some (32, pack [(8, 27), (6, d.code), (6, a.code), (6, sh.toNat), (6, 0)])
  | .srli sh a d => some (32, pack [(8, 27), (6, d.code), (6, a.code), (6, sh.toNat), (6, 1)])
  | .srai sh a d => some (32, pack [(8, 27), (6, d.code), (6, a.code), (6, sh.toNat), (6, 2)])
  | .rori sh a d => some (32, pack [(8, 27), (6, d.code), (6, a.code), (6, sh.toNat), (6, 3)])
  | .slliw sh a d => some (32, pack [(8, 27), (6, d.code), (6, a.code), (6, sh.toNat), (6, 4)])
  | .srliw sh a d => some (32, pack [(8, 27), (6, d.code), (6, a.code), (6, sh.toNat), (6, 5)])
  | .sraiw sh a d => some (32, pack [(8, 27), (6, d.code), (6, a.code), (6, sh.toNat), (6, 6)])
  | .roriw sh a d => some (32, pack [(8, 27), (6, d.code), (6, a.code), (6, sh.toNat), (6, 7)])
  | .slti imm a d => some (32, pack [(8, 31), (6, d.code), (6, a.code), (12, imm.toNat)])
  | .lix imm d => some (32, pack [(8, 35), (6, d.code), (18, imm.toNat)])
  | .lixs imm d => some (32, pack [(8, 39), (6, d.code), (18, imm.toNat)])
  | .fadd b a d => some (32, pack [(8, 43), (6, d.code), (6, a.code), (6, b.code), (6, 0)])
  | .fsub b a d => some (32, pack [(8, 43), (6, d.code), (6, a.code), (6, b.code), (6, 1)])
  | .fmul b a d => some (32, pack [(8, 43), (6, d.code), (6, a.code), (6, b.code), (6, 2)])
  | .fdiv b a d => some (32, pack [(8, 43), (6, d.code), (6, a.code), (6, b.code), (6, 3)])
  | .fsqrt a d => some (32, pack [(8, 43), (6, d.code), (6, a.code), (6, 0), (6, 4)])
  | .fmin b a d => some (32, pack [(8, 43), (6, d.code), (6, a.code), (6, b.code), (6, 5)])
  | .fmax b a d => some (32, pack [(8, 43), (6, d.code), (6, a.code), (6, b.code), (6, 6)])
  | .fmadd b a d => some (32, pack [(8, 43), (6, d.code), (6, a.code), (6, b.code), (6, 7)])
  | .fmsub b a d => some (32, pack [(8, 43), (6, d.code), (6, a.code), (6, b.code), (6, 8)])
  | .fnmadd b a d => some (32, pack [(8, 43), (6, d.code), (6, a.code), (6, b.code), (6, 9)])
  | .feq b a d => some (32, pack [(8, 43), (6, d.code), (6, a.code), (6, b.code), (6, 10)])
  | .flt b a d => some (32, pack [(8, 43), (6, d.code), (6, a.code), (6, b.code), (6, 11)])
  | .fle b a d => some (32, pack [(8, 43), (6, d.code), (6, a.code), (6, b.code), (6, 12)])
  | .fclass a d => some (32, pack [(8, 43), (6, d.code), (6, a.code), (6, 0), (6, 13)])
  | .fneg a d => some (32, pack [(8, 43), (6, d.code), (6, a.code), (6, 0), (6, 14)])
  | .fabs a d => some (32, pack [(8, 43), (6, d.code), (6, a.code), (6, 0), (6, 15)])
  | .fcvtI64F32 a d => some (32, pack [(8, 43), (6, d.code), (6, a.code), (6, 0), (6, 16)])
  | .fcvtN64F32 a d => some (32, pack [(8, 43), (6, d.code), (6, a.code), (6, 0), (6, 17)])
  | .fcvtI32F32 a d => some (32, pack [(8, 43), (6, d.code), (6, a.code), (6, 0), (6, 18)])
  | .fcvtN32F32 a d => some (32, pack [(8, 43), (6, d.code), (6, a.code), (6, 0), (6, 19)])
  | .fcvtF32I64 a d => some (32, pack [(8, 43), (6, d.code), (6, a.code), (6, 0), (6, 20)])
  | .fcvtF32N64 a d => some (32, pack [(8, 43), (6, d.code), (6, a.code), (6, 0), (6, 21)])
  | .fcvtBf16F32 a d => some (32, pack [(8, 43), (6, d.code), (6, a.code), (6, 0), (6, 22)])
  | .fcvtF16F32 a d => some (32, pack [(8, 43), (6, d.code), (6, a.code), (6, 0), (6, 23)])
  | .fcvtF32Bf16 a d => some (32, pack [(8, 43), (6, d.code), (6, a.code), (6, 0), (6, 24)])
  | .fcvtF32F16 a d => some (32, pack [(8, 43), (6, d.code), (6, a.code), (6, 0), (6, 25)])
  | .bEq imm b a => some (32, pack [(8, 47), (6, a.code), (6, b.code), (12, imm.toNat)])
  | .bNe imm b a => some (32, pack [(8, 51), (6, a.code), (6, b.code), (12, imm.toNat)])
  | .bLt imm b a => some (32, pack [(8, 55), (6, a.code), (6, b.code), (12, imm.toNat)])
  | .bGe imm b a => some (32, pack [(8, 59), (6, a.code), (6, b.code), (12, imm.toNat)])
  | .bLtn imm b a => some (32, pack [(8, 63), (6, a.code), (6, b.code), (12, imm.toNat)])
  | .bGen imm b a => some (32, pack [(8, 67), (6, a.code), (6, b.code), (12, imm.toNat)])
  | .j imm => some (32, pack [(8, 71), (24, imm.toNat)])
  | .jal imm => some (32, pack [(8, 75), (24, imm.toNat)])
  | .nop => some (32, pack [(8, 79), (6, 0), (6, 0), (6, 0), (6, 0)])
  | .jr a => some (32, pack [(8, 79), (6, 0), (6, a.code), (6, 0), (6, 1)])
  | .jalr a d => some (32, pack [(8, 79), (6, d.code), (6, a.code), (6, 0), (6, 2)])
  | .lp len a => some (32, pack [(8, 79), (6, (len.toNat % 64)), (6, a.code), (6, (len.toNat / 64)), (6, 3)])
  | .pca d => some (32, pack [(8, 79), (6, d.code), (6, 0), (6, 0), (6, 4)])
  | .done => some (32, pack [(8, 79), (6, 0), (6, 0), (6, 0), (6, 8)])
  | .flush => some (32, pack [(8, 79), (6, 0), (6, 0), (6, 0), (6, 9)])
  | .ld off t base d => some (32, pack [(8, 83), (6, d.code), (6, base.code), (3, t.code), (9, off.toNat)])
  | .st off t base s => some (32, pack [(8, 87), (6, s.code), (6, base.code), (3, t.code), (9, off.toNat)])
  | .ldb off t ti base d => some (32, pack [(8, 91), (6, d.code), (6, base.code), (6, ti.code), (3, t.code), (3, off.toNat)])
  | .stb off t ti base s => some (32, pack [(8, 95), (6, s.code), (6, base.code), (6, ti.code), (3, t.code), (3, off.toNat)])
  | .ldg scale t o res d => some (32, pack [(8, 99), (6, d.code), (6, res.code), (6, o.code), (3, t.code), (3, scale.toNat)])
  | .stg scale t o res d => some (32, pack [(8, 103), (6, d.code), (6, res.code), (6, o.code), (3, t.code), (3, scale.toNat)])
  | .amoSwap w b a d => some (32, pack [(8, 107), (6, d.code), (6, a.code), (6, b.code), (6, pack [(4, 0), (1, w.code), (1, 0)])])
  | .amoAdd w b a d => some (32, pack [(8, 107), (6, d.code), (6, a.code), (6, b.code), (6, pack [(4, 1), (1, w.code), (1, 0)])])
  | .amoAnd w b a d => some (32, pack [(8, 107), (6, d.code), (6, a.code), (6, b.code), (6, pack [(4, 2), (1, w.code), (1, 0)])])
  | .amoOr w b a d => some (32, pack [(8, 107), (6, d.code), (6, a.code), (6, b.code), (6, pack [(4, 3), (1, w.code), (1, 0)])])
  | .amoXor w b a d => some (32, pack [(8, 107), (6, d.code), (6, a.code), (6, b.code), (6, pack [(4, 4), (1, w.code), (1, 0)])])
  | .amoMaxI w b a d => some (32, pack [(8, 107), (6, d.code), (6, a.code), (6, b.code), (6, pack [(4, 5), (1, w.code), (1, 0)])])
  | .amoMinI w b a d => some (32, pack [(8, 107), (6, d.code), (6, a.code), (6, b.code), (6, pack [(4, 6), (1, w.code), (1, 0)])])
  | .amoMaxN w b a d => some (32, pack [(8, 107), (6, d.code), (6, a.code), (6, b.code), (6, pack [(4, 7), (1, w.code), (1, 0)])])
  | .amoMinN w b a d => some (32, pack [(8, 107), (6, d.code), (6, a.code), (6, b.code), (6, pack [(4, 8), (1, w.code), (1, 0)])])
  | .amoCas w b a d => some (32, pack [(8, 107), (6, d.code), (6, a.code), (6, b.code), (6, pack [(4, 9), (1, w.code), (1, 0)])])
  | .amoFadd b a d => some (32, pack [(8, 107), (6, d.code), (6, a.code), (6, b.code), (6, 10)])
  | .fence scope vec kind => some (32, pack [(8, 111), (6, 0), (6, pack [(2, kind.code), (1, vec.toNat), (3, 0)]), (6, pack [(3, scope.code), (3, 0)]), (6, 0)])
  | .ldAcq sys t a d => some (32, pack [(8, 111), (6, d.code), (6, a.code), (6, pack [(3, t.code), (1, sys.toNat), (2, 0)]), (6, 1)])
  | .stRel sys t a s => some (32, pack [(8, 111), (6, s.code), (6, a.code), (6, pack [(3, t.code), (1, sys.toNat), (2, 0)]), (6, 2)])
  | .cinv a => some (32, pack [(8, 111), (6, 0), (6, a.code), (6, 0), (6, 3)])
  | .cinvAll => some (32, pack [(8, 111), (6, 0), (6, 0), (6, 0), (6, 4)])
  | .msgSend rep b a => some (32, pack [(8, 115), (6, a.code), (6, b.code), (5, 0), (7, pack [(1, rep.toNat), (6, 0)])])
  | .msgSendn k rep a => some (32, pack [(8, 115), (6, a.code), (6, 0), (5, 1), (7, pack [(1, rep.toNat), (1, 0), (3, k.toNat), (2, 0)])])
  | .msgSpawn a => some (32, pack [(8, 115), (6, a.code), (6, 0), (5, 2), (7, 0)])
  | .msgHost b => some (32, pack [(8, 115), (6, 0), (6, b.code), (5, 3), (7, 0)])
  | .msgPut rep b a => some (32, pack [(8, 115), (6, a.code), (6, b.code), (5, 4), (7, pack [(1, rep.toNat), (6, 0)])])
  | .msgArg b a => some (32, pack [(8, 115), (6, a.code), (6, b.code), (5, 5), (7, 0)])
  | .msgHdr b a => some (32, pack [(8, 115), (6, a.code), (6, b.code), (5, 6), (7, 0)])
  | .msgMask c b => some (32, pack [(8, 115), (6, 0), (6, b.code), (5, 7), (7, pack [(6, c.toNat), (1, 0)])])
  | .barArr a => some (32, pack [(8, 119), (6, a.code), (6, 0), (5, 0), (7, 0)])
  | .grpRank b a => some (32, pack [(8, 119), (6, a.code), (6, b.code), (5, 1), (7, 0)])
  | .grpSize b a => some (32, pack [(8, 119), (6, a.code), (6, b.code), (5, 2), (7, 0)])
  | .grpTile b a => some (32, pack [(8, 119), (6, a.code), (6, b.code), (5, 3), (7, 0)])
  | .grpSend rep b a => some (32, pack [(8, 119), (6, a.code), (6, b.code), (5, 4), (7, pack [(1, rep.toNat), (6, 0)])])
  | .mxLdb a => some (32, pack [(8, 123), (6, a.code), (6, 0), (5, 0), (7, 0)])
  | .mxMma notify c b a => some (32, pack [(8, 123), (6, a.code), (6, b.code), (5, 1), (7, pack [(6, c.toNat), (1, notify.toNat)])])
  | .mxZero notify c b => some (32, pack [(8, 123), (6, 0), (6, b.code), (5, 2), (7, pack [(6, c.toNat), (1, notify.toNat)])])
  | .mxRd notify c b a => some (32, pack [(8, 123), (6, a.code), (6, b.code), (5, 3), (7, pack [(6, c.toNat), (1, notify.toNat)])])
  | .mxLdacc notify c b a => some (32, pack [(8, 123), (6, a.code), (6, b.code), (5, 4), (7, pack [(6, c.toNat), (1, notify.toNat)])])
  | .mxBay notify c b a => some (32, pack [(8, 123), (6, a.code), (6, b.code), (5, 5), (7, pack [(6, c.toNat), (1, notify.toNat)])])
  | .mxStat b a => some (32, pack [(8, 123), (6, a.code), (6, b.code), (5, 6), (7, 0)])
  | .mxCfg a => some (32, pack [(8, 123), (6, a.code), (6, 0), (5, 7), (7, 0)])
  | .cpGl chain notify c a => some (32, pack [(8, 127), (6, a.code), (6, 0), (5, 0), (7, pack [(4, c.toNat), (1, notify.toNat), (1, chain.toNat), (1, 0)])])
  | .cpGb chain notify c a => some (32, pack [(8, 127), (6, a.code), (6, 0), (5, 1), (7, pack [(4, c.toNat), (1, notify.toNat), (1, chain.toNat), (1, 0)])])
  | .cpLg notify c a => some (32, pack [(8, 127), (6, a.code), (6, 0), (5, 2), (7, pack [(4, c.toNat), (1, notify.toNat), (2, 0)])])
  | .cpGg notify c a => some (32, pack [(8, 127), (6, a.code), (6, 0), (5, 3), (7, pack [(4, c.toNat), (1, notify.toNat), (2, 0)])])
  | .cpLb chain notify c a => some (32, pack [(8, 127), (6, a.code), (6, 0), (5, 4), (7, pack [(4, c.toNat), (1, notify.toNat), (1, chain.toNat), (1, 0)])])
  | .cpLs chain notify c b a => some (32, pack [(8, 127), (6, a.code), (6, b.code), (5, 5), (7, pack [(4, c.toNat), (1, notify.toNat), (1, chain.toNat), (1, 0)])])
  | .cpLsb chain notify c b a => some (32, pack [(8, 127), (6, a.code), (6, b.code), (5, 6), (7, pack [(4, c.toNat), (1, notify.toNat), (1, chain.toNat), (1, 0)])])
  | .cpPl chain notify c b a => some (32, pack [(8, 127), (6, a.code), (6, b.code), (5, 7), (7, pack [(4, c.toNat), (1, notify.toNat), (1, chain.toNat), (1, 0)])])
  | .cpCancel c b a => some (32, pack [(8, 127), (6, a.code), (6, b.code), (5, 8), (7, pack [(4, c.toNat), (3, 0)])])
  | .cpCfg c b a => some (32, pack [(8, 127), (6, a.code), (6, b.code), (5, 9), (7, pack [(4, c.toNat), (3, 0)])])
  | .cpCrec c b a => some (32, pack [(8, 127), (6, a.code), (6, b.code), (5, 10), (7, pack [(4, c.toNat), (3, 0)])])
  | .gxLd chain notify c a => some (32, pack [(8, 131), (6, a.code), (6, 0), (5, 0), (7, pack [(4, c.toNat), (1, notify.toNat), (1, chain.toNat), (1, 0)])])
  | .gxSt notify c a => some (32, pack [(8, 131), (6, a.code), (6, 0), (5, 1), (7, pack [(4, c.toNat), (1, notify.toNat), (2, 0)])])
  | .gxLdb chain notify c a => some (32, pack [(8, 131), (6, a.code), (6, 0), (5, 2), (7, pack [(4, c.toNat), (1, notify.toNat), (1, chain.toNat), (1, 0)])])
  | .cmbMax i32 b a => some (32, pack [(8, 131), (6, a.code), (6, b.code), (5, 16), (7, pack [(1, i32.toNat), (6, 0)])])
  | .cmbMin i32 b a => some (32, pack [(8, 131), (6, a.code), (6, b.code), (5, 17), (7, pack [(1, i32.toNat), (6, 0)])])
  | .cmbLgc op b a => some (32, pack [(8, 131), (6, a.code), (6, b.code), (5, 18), (7, pack [(2, op.code), (5, 0)])])
  | .cmbAdd b a => some (32, pack [(8, 131), (6, a.code), (6, b.code), (5, 19), (7, 0)])
  | .tmPub now b => some (32, pack [(8, 135), (6, 0), (6, b.code), (5, 0), (7, pack [(1, now.toNat), (6, 0)])])
  | .tmGet b a => some (32, pack [(8, 135), (6, a.code), (6, b.code), (5, 1), (7, 0)])
  | .tmAge b a => some (32, pack [(8, 135), (6, a.code), (6, b.code), (5, 2), (7, 0)])
  | .tmArm b => some (32, pack [(8, 135), (6, 0), (6, b.code), (5, 3), (7, 0)])
  | .tmCfg rd b a => some (32, pack [(8, 135), (6, a.code), (6, b.code), (5, 4), (7, pack [(1, rd.toNat), (6, 0)])])
  | .reqSub b a => some (32, pack [(8, 139), (6, a.code), (6, b.code), (5, 0), (7, 0)])
  | .reqStep a => some (32, pack [(8, 139), (6, a.code), (6, 0), (5, 1), (7, 0)])
  | .reqRd b a => some (32, pack [(8, 139), (6, a.code), (6, b.code), (5, 2), (7, 0)])
  | .reqCommit b a => some (32, pack [(8, 139), (6, a.code), (6, b.code), (5, 3), (7, 0)])
  | .reqFault a => some (32, pack [(8, 139), (6, a.code), (6, 0), (5, 4), (7, 0)])
  | .reqCfgRows b a => some (32, pack [(8, 139), (6, a.code), (6, b.code), (5, 5), (7, 0)])
  | .reqCfgStopset b a => some (32, pack [(8, 139), (6, a.code), (6, b.code), (5, 5), (7, 1)])
  | .reqCancel free b a => some (32, pack [(8, 139), (6, a.code), (6, b.code), (5, 6), (7, pack [(1, free.toNat), (6, 0)])])
  | .reqKvAttach b a => some (32, pack [(8, 139), (6, a.code), (6, b.code), (5, 7), (7, 0)])
  | .reqKvDetach b a => some (32, pack [(8, 139), (6, a.code), (6, b.code), (5, 7), (7, 1)])
  | .reqKvEvict b a => some (32, pack [(8, 139), (6, a.code), (6, b.code), (5, 7), (7, 2)])
  | .reqKvRelease b a => some (32, pack [(8, 139), (6, a.code), (6, b.code), (5, 7), (7, 3)])
  | .tmrSet b a => some (32, pack [(8, 143), (6, a.code), (6, b.code), (5, 3), (7, 0)])
  | .tmrRd b a => some (32, pack [(8, 143), (6, a.code), (6, b.code), (5, 4), (7, 0)])
  | .wktSeize b a => some (32, pack [(8, 143), (6, a.code), (6, b.code), (5, 0), (7, 0)])
  | .wktRel a => some (32, pack [(8, 143), (6, a.code), (6, 0), (5, 1), (7, 0)])
  | .wktStat b a => some (32, pack [(8, 143), (6, a.code), (6, b.code), (5, 2), (7, 0)])
  | .extW n a => some (32, pack [(8, 147), (6, a.code), (6, 0), (5, 0), (7, pack [(3, n.toNat), (4, 0)])])
  | .extGet n a => some (32, pack [(8, 147), (6, a.code), (6, 0), (5, 1), (7, pack [(3, n.toNat), (4, 0)])])
  | .extLix n imm => some (32, pack [(8, 147), (6, (imm.toNat % 64)), (6, (imm.toNat / 64 % 64)), (5, 2), (7, pack [(3, n.toNat), (4, (imm.toNat / 4096))])])
  | .extLixs n imm => some (32, pack [(8, 147), (6, (imm.toNat % 64)), (6, (imm.toNat / 64 % 64)), (5, 3), (7, pack [(3, n.toNat), (4, (imm.toNat / 4096))])])
  | .shpLd n b => some (32, pack [(8, 147), (6, 0), (6, b.code), (5, 4), (7, pack [(4, n.toNat), (3, 0)])])
  | .shpSt n b => some (32, pack [(8, 147), (6, 0), (6, b.code), (5, 5), (7, pack [(4, n.toNat), (3, 0)])])
  | .shpSet n f a => some (32, pack [(8, 147), (6, a.code), (6, f.toNat), (5, 6), (7, pack [(4, n.toNat), (3, 0)])])
  | .shpGet n f a => some (32, pack [(8, 147), (6, a.code), (6, f.toNat), (5, 7), (7, pack [(4, n.toNat), (3, 0)])])
  | .recSlice idx b a => some (32, pack [(8, 147), (6, a.code), (6, b.code), (5, 8), (7, pack [(6, idx.toNat), (1, 0)])])
  | .csrRw n a d => some (32, pack [(8, 151), (6, d.code), (6, a.code), (10, n.toNat), (2, 0)])
  | .csrRs n a d => some (32, pack [(8, 151), (6, d.code), (6, a.code), (10, n.toNat), (2, 1)])
  | .csrRc n a d => some (32, pack [(8, 151), (6, d.code), (6, a.code), (10, n.toNat), (2, 2)])
  | .wakeReq => none
  | .tret => some (32, pack [(8, 155), (6, 0), (6, 0), (6, 0), (6, 0)])
  | .trapAb a => some (32, pack [(8, 155), (6, 0), (6, a.code), (6, 0), (6, 1)])
  | .trapDead a => some (32, pack [(8, 155), (6, 0), (6, a.code), (6, 0), (6, 2)])
  | .frzRel b a d => some (32, pack [(8, 155), (6, d.code), (6, a.code), (6, b.code), (6, 3)])
  | .eqPop b d => some (32, pack [(8, 155), (6, d.code), (6, 0), (6, b.code), (6, 4)])
  | .tlbWr b a d => some (32, pack [(8, 155), (6, d.code), (6, a.code), (6, b.code), (6, 16)])
  | .tlbNak b a d => some (32, pack [(8, 155), (6, d.code), (6, a.code), (6, b.code), (6, 17)])
  | .tlbInv a d => some (32, pack [(8, 155), (6, d.code), (6, a.code), (6, 60), (6, 18)])
  | .tlbInvt a d => some (32, pack [(8, 155), (6, d.code), (6, a.code), (6, 60), (6, 19)])
  | .resWr b a d => some (32, pack [(8, 155), (6, d.code), (6, a.code), (6, b.code), (6, 24)])
  | .resRd b a => some (32, pack [(8, 155), (6, 0), (6, a.code), (6, b.code), (6, 25)])
  | .bndWr b a => some (32, pack [(8, 155), (6, 0), (6, a.code), (6, b.code), (6, 32)])
  | .bndRd a d => some (32, pack [(8, 155), (6, d.code), (6, a.code), (6, 0), (6, 33)])
  | .bndClr a => some (32, pack [(8, 155), (6, 0), (6, a.code), (6, 0), (6, 34)])
  | .wearRd b d => some (32, pack [(8, 155), (6, d.code), (6, 0), (6, b.code), (6, 40)])
  | .lvHold a => some (32, pack [(8, 155), (6, 0), (6, a.code), (6, 0), (6, 41)])
  | .lvDrop => some (32, pack [(8, 155), (6, 0), (6, 0), (6, 0), (6, 42)])
  | .lvStat b d => some (32, pack [(8, 155), (6, d.code), (6, 0), (6, b.code), (6, 43)])
  | .lvShare b a d => some (32, pack [(8, 155), (6, d.code), (6, a.code), (6, b.code), (6, 44)])
  | .wearSet b a d => some (32, pack [(8, 155), (6, d.code), (6, a.code), (6, b.code), (6, 45)])
  | .partMk a d => some (32, pack [(8, 155), (6, d.code), (6, a.code), (6, 0), (6, 48)])
  | .partFree a d => some (32, pack [(8, 155), (6, d.code), (6, a.code), (6, 0), (6, 49)])
  | .partHold b a d => some (32, pack [(8, 155), (6, d.code), (6, a.code), (6, b.code), (6, 50)])
  | .partHalt b a d => some (32, pack [(8, 155), (6, d.code), (6, a.code), (6, b.code), (6, 51)])
  | .partSwap b a d => some (32, pack [(8, 155), (6, d.code), (6, a.code), (6, b.code), (6, 52)])
  | .shutPost b a d => some (32, pack [(8, 155), (6, d.code), (6, a.code), (6, b.code), (6, 53)])
  | .shutStat b a d => some (32, pack [(8, 155), (6, d.code), (6, a.code), (6, b.code), (6, 54)])
  | .vfCtlPause b a d => some (32, pack [(8, 155), (6, d.code), (6, a.code), (6, b.code), (6, 55)])
  | .vfCtlResume _ _ _ => none
  | .vfCtlReset _ _ _ => none
  | .vfCtlTeardown _ _ _ => none
  | .vfadd vs t km vb va vd => some (32, pack [(8, 159), (5, vd.val), (5, va.val), (5, vb.val), (3, km.val), (6, pack [(3, 0), (2, t.code), (1, vs.toNat)])])
  | .vfsub vs t km vb va vd => some (32, pack [(8, 159), (5, vd.val), (5, va.val), (5, vb.val), (3, km.val), (6, pack [(3, 1), (2, t.code), (1, vs.toNat)])])
  | .vfmul vs t km vb va vd => some (32, pack [(8, 159), (5, vd.val), (5, va.val), (5, vb.val), (3, km.val), (6, pack [(3, 2), (2, t.code), (1, vs.toNat)])])
  | .vfma vs t km vb va vd => some (32, pack [(8, 159), (5, vd.val), (5, va.val), (5, vb.val), (3, km.val), (6, pack [(3, 3), (2, t.code), (1, vs.toNat)])])
  | .vfnma vs t km vb va vd => some (32, pack [(8, 159), (5, vd.val), (5, va.val), (5, vb.val), (3, km.val), (6, pack [(3, 4), (2, t.code), (1, vs.toNat)])])
  | .vfmin vs t km vb va vd => some (32, pack [(8, 159), (5, vd.val), (5, va.val), (5, vb.val), (3, km.val), (6, pack [(3, 5), (2, t.code), (1, vs.toNat)])])
  | .vfmax vs t km vb va vd => some (32, pack [(8, 159), (5, vd.val), (5, va.val), (5, vb.val), (3, km.val), (6, pack [(3, 6), (2, t.code), (1, vs.toNat)])])
  | .vfdiv vs t km vb va vd => some (32, pack [(8, 159), (5, vd.val), (5, va.val), (5, vb.val), (3, km.val), (6, pack [(3, 7), (2, t.code), (1, vs.toNat)])])
  | .vadd vs z km vb va vd => some (32, pack [(8, 163), (5, vd.val), (5, va.val), (5, vb.val), (3, km.val), (6, pack [(3, 0), (2, z.code), (1, vs.toNat)])])
  | .vsub vs z km vb va vd => some (32, pack [(8, 163), (5, vd.val), (5, va.val), (5, vb.val), (3, km.val), (6, pack [(3, 1), (2, z.code), (1, vs.toNat)])])
  | .vmul vs z km vb va vd => some (32, pack [(8, 163), (5, vd.val), (5, va.val), (5, vb.val), (3, km.val), (6, pack [(3, 2), (2, z.code), (1, vs.toNat)])])
  | .vmac vs z km vb va vd => some (32, pack [(8, 163), (5, vd.val), (5, va.val), (5, vb.val), (3, km.val), (6, pack [(3, 3), (2, z.code), (1, vs.toNat)])])
  | .vminI vs z km vb va vd => some (32, pack [(8, 163), (5, vd.val), (5, va.val), (5, vb.val), (3, km.val), (6, pack [(3, 4), (2, z.code), (1, vs.toNat)])])
  | .vmaxI vs z km vb va vd => some (32, pack [(8, 163), (5, vd.val), (5, va.val), (5, vb.val), (3, km.val), (6, pack [(3, 5), (2, z.code), (1, vs.toNat)])])
  | .vminN vs z km vb va vd => some (32, pack [(8, 163), (5, vd.val), (5, va.val), (5, vb.val), (3, km.val), (6, pack [(3, 6), (2, z.code), (1, vs.toNat)])])
  | .vmaxN vs z km vb va vd => some (32, pack [(8, 163), (5, vd.val), (5, va.val), (5, vb.val), (3, km.val), (6, pack [(3, 7), (2, z.code), (1, vs.toNat)])])
  | .vand vs z km vb va vd => some (32, pack [(8, 167), (5, vd.val), (5, va.val), (5, vb.val), (3, km.val), (6, pack [(3, 0), (2, z.code), (1, vs.toNat)])])
  | .vor vs z km vb va vd => some (32, pack [(8, 167), (5, vd.val), (5, va.val), (5, vb.val), (3, km.val), (6, pack [(3, 1), (2, z.code), (1, vs.toNat)])])
  | .vxor vs z km vb va vd => some (32, pack [(8, 167), (5, vd.val), (5, va.val), (5, vb.val), (3, km.val), (6, pack [(3, 2), (2, z.code), (1, vs.toNat)])])
  | .vandn vs z km vb va vd => some (32, pack [(8, 167), (5, vd.val), (5, va.val), (5, vb.val), (3, km.val), (6, pack [(3, 3), (2, z.code), (1, vs.toNat)])])
  | .vsll vs z km vb va vd => some (32, pack [(8, 167), (5, vd.val), (5, va.val), (5, vb.val), (3, km.val), (6, pack [(3, 4), (2, z.code), (1, vs.toNat)])])
  | .vsrl vs z km vb va vd => some (32, pack [(8, 167), (5, vd.val), (5, va.val), (5, vb.val), (3, km.val), (6, pack [(3, 5), (2, z.code), (1, vs.toNat)])])
  | .vsra vs z km vb va vd => some (32, pack [(8, 167), (5, vd.val), (5, va.val), (5, vb.val), (3, km.val), (6, pack [(3, 6), (2, z.code), (1, vs.toNat)])])
  | .vmov vs z km vb vd => some (32, pack [(8, 167), (5, vd.val), (5, 0), (5, vb.val), (3, km.val), (6, pack [(3, 7), (2, z.code), (1, vs.toNat)])])
  | .vceq vs z km vb va vd => some (32, pack [(8, 171), (5, vd.val), (5, va.val), (5, vb.val), (3, km.val), (6, pack [(2, z.code), (3, 0), (1, vs.toNat)])])
  | .vclt vs z km vb va vd => some (32, pack [(8, 171), (5, vd.val), (5, va.val), (5, vb.val), (3, km.val), (6, pack [(2, z.code), (3, 1), (1, vs.toNat)])])
  | .vcge vs z km vb va vd => some (32, pack [(8, 171), (5, vd.val), (5, va.val), (5, vb.val), (3, km.val), (6, pack [(2, z.code), (3, 2), (1, vs.toNat)])])
  | .vcltn vs z km vb va vd => some (32, pack [(8, 171), (5, vd.val), (5, va.val), (5, vb.val), (3, km.val), (6, pack [(2, z.code), (3, 3), (1, vs.toNat)])])
  | .vcgen vs z km vb va vd => some (32, pack [(8, 171), (5, vd.val), (5, va.val), (5, vb.val), (3, km.val), (6, pack [(2, z.code), (3, 4), (1, vs.toNat)])])
  | .vfeq vs t km vb va vd => some (32, pack [(8, 171), (5, vd.val), (5, va.val), (5, vb.val), (3, km.val), (6, pack [(2, t.code), (3, 5), (1, vs.toNat)])])
  | .vflt vs t km vb va vd => some (32, pack [(8, 171), (5, vd.val), (5, va.val), (5, vb.val), (3, km.val), (6, pack [(2, t.code), (3, 6), (1, vs.toNat)])])
  | .vfle vs t km vb va vd => some (32, pack [(8, 171), (5, vd.val), (5, va.val), (5, vb.val), (3, km.val), (6, pack [(2, t.code), (3, 7), (1, vs.toNat)])])
  | .kand vb va vd => some (32, pack [(8, 171), (5, vd.val), (5, va.val), (5, vb.val), (3, 0), (6, 31)])
  | .kor vb va vd => some (32, pack [(8, 171), (5, vd.val), (5, va.val), (5, vb.val), (3, 1), (6, 31)])
  | .kxor vb va vd => some (32, pack [(8, 171), (5, vd.val), (5, va.val), (5, vb.val), (3, 2), (6, 31)])
  | .kandn vb va vd => some (32, pack [(8, 171), (5, vd.val), (5, va.val), (5, vb.val), (3, 3), (6, 31)])
  | .knot va vd => some (32, pack [(8, 171), (5, vd.val), (5, va.val), (5, 0), (3, 4), (6, 31)])
  | .kpop va vd => some (32, pack [(8, 171), (5, vd.val), (5, va.val), (5, 0), (3, 5), (6, 31)])
  | .kfirst va vd => some (32, pack [(8, 171), (5, vd.val), (5, va.val), (5, 0), (3, 6), (6, 31)])
  | .kword va vd => some (32, pack [(8, 171), (5, vd.val), (5, va.val), (5, 0), (3, 7), (6, 31)])
  | .klo vb vd => some (32, pack [(8, 171), (5, vd.val), (5, 0), (5, vb.val), (3, 0), (6, 63)])
  | .kset vb vd => some (32, pack [(8, 171), (5, vd.val), (5, 0), (5, vb.val), (3, 1), (6, 63)])
  | .vcvtF32Bf16 km part va vd => some (32, pack [(8, 175), (5, vd.val), (5, va.val), (5, part.val), (3, km.val), (6, 0)])
  | .vcvtF32F16 km part va vd => some (32, pack [(8, 175), (5, vd.val), (5, va.val), (5, part.val), (3, km.val), (6, 1)])
  | .vcvtBf16F32 km vb va vd => some (32, pack [(8, 175), (5, vd.val), (5, va.val), (5, vb.val), (3, km.val), (6, 2)])
  | .vcvtF16F32 km vb va vd => some (32, pack [(8, 175), (5, vd.val), (5, va.val), (5, vb.val), (3, km.val), (6, 3)])
  | .vcvtF16Bf16 km va vd => some (32, pack [(8, 175), (5, vd.val), (5, va.val), (5, 0), (3, km.val), (6, 4)])
  | .vcvtBf16F16 km va vd => some (32, pack [(8, 175), (5, vd.val), (5, va.val), (5, 0), (3, km.val), (6, 5)])
  | .vcvtF32I32 km va vd => some (32, pack [(8, 175), (5, vd.val), (5, va.val), (5, 0), (3, km.val), (6, 6)])
  | .vcvtI32F32 km va vd => some (32, pack [(8, 175), (5, vd.val), (5, va.val), (5, 0), (3, km.val), (6, 7)])
  | .vcvtF32I8 km part va vd => some (32, pack [(8, 175), (5, vd.val), (5, va.val), (5, part.val), (3, km.val), (6, 8)])
  | .vwidI16I8 km part va vd => some (32, pack [(8, 175), (5, vd.val), (5, va.val), (5, part.val), (3, km.val), (6, 10)])
  | .vwidI32I16 km part va vd => some (32, pack [(8, 175), (5, vd.val), (5, va.val), (5, part.val), (3, km.val), (6, 11)])
  | .vwidN16N8 km part va vd => some (32, pack [(8, 175), (5, vd.val), (5, va.val), (5, part.val), (3, km.val), (6, 12)])
  | .vwidN32N16 km part va vd => some (32, pack [(8, 175), (5, vd.val), (5, va.val), (5, part.val), (3, km.val), (6, 13)])
  | .vnarI8I16 km vb va vd => some (32, pack [(8, 175), (5, vd.val), (5, va.val), (5, vb.val), (3, km.val), (6, 14)])
  | .vnarI16I32 km vb va vd => some (32, pack [(8, 175), (5, vd.val), (5, va.val), (5, vb.val), (3, km.val), (6, 15)])
  | .vgscLo km vb va vd => some (32, pack [(8, 175), (5, vd.val), (5, va.val), (5, vb.val), (3, km.val), (6, 16)])
  | .vgscHi km vb va vd => some (32, pack [(8, 175), (5, vd.val), (5, va.val), (5, vb.val), (3, km.val), (6, 17)])
  | .vunpkI8I4 km part va vd => some (32, pack [(8, 175), (5, vd.val), (5, va.val), (5, part.val), (3, km.val), (6, 20)])
  | .vpkI4I8 km vb va vd => some (32, pack [(8, 175), (5, vd.val), (5, va.val), (5, vb.val), (3, km.val), (6, 21)])
  | .vpermB km vb va vd => some (32, pack [(8, 179), (5, vd.val), (5, va.val), (5, vb.val), (3, km.val), (6, 0)])
  | .vnibLo km vb va vd => some (32, pack [(8, 179), (5, vd.val), (5, va.val), (5, vb.val), (3, km.val), (6, 1)])
  | .vnibHi km vb va vd => some (32, pack [(8, 179), (5, vd.val), (5, va.val), (5, vb.val), (3, km.val), (6, 2)])
  | .vbcast z km el va vd => some (32, pack [(8, 179), (5, vd.val), (5, va.val), (5, el.val), (3, km.val), (6, pack [(2, z.code), (4, 1)])])
  | .vslup z km cnt va vd => some (32, pack [(8, 179), (5, vd.val), (5, va.val), (5, cnt.val), (3, km.val), (6, pack [(2, z.code), (4, 2)])])
  | .vsldn z km cnt va vd => some (32, pack [(8, 179), (5, vd.val), (5, va.val), (5, cnt.val), (3, km.val), (6, pack [(2, z.code), (4, 3)])])
  | .vcomp z km va vd => some (32, pack [(8, 179), (5, vd.val), (5, va.val), (5, 0), (3, km.val), (6, pack [(2, z.code), (4, 4)])])
  | .vidx z km vd => some (32, pack [(8, 179), (5, vd.val), (5, 0), (5, 0), (3, km.val), (6, pack [(2, z.code), (4, 5)])])
  | .vmvq z el va vd => some (32, pack [(8, 179), (5, vd.val), (5, va.val), (5, el.val), (3, 0), (6, pack [(2, z.code), (4, 6)])])
  | .vrsum t km va vd => some (32, pack [(8, 183), (5, vd.val), (5, va.val), (5, 0), (3, km.val), (6, pack [(3, t.code), (3, 0)])])
  | .vrmax t km va vd => some (32, pack [(8, 183), (5, vd.val), (5, va.val), (5, 0), (3, km.val), (6, pack [(3, t.code), (3, 1)])])
  | .vrmin t km va vd => some (32, pack [(8, 183), (5, vd.val), (5, va.val), (5, 0), (3, km.val), (6, pack [(3, t.code), (3, 2)])])
  | .vramax t km va vd => some (32, pack [(8, 183), (5, vd.val), (5, va.val), (5, 0), (3, km.val), (6, pack [(3, t.code), (3, 3)])])
  | .vramin t km va vd => some (32, pack [(8, 183), (5, vd.val), (5, va.val), (5, 0), (3, km.val), (6, pack [(3, t.code), (3, 4)])])
  | .vscan t km va vd => some (32, pack [(8, 183), (5, vd.val), (5, va.val), (5, 0), (3, km.val), (6, pack [(3, t.code), (3, 5)])])
  | .vhist t km cnt va vd => some (32, pack [(8, 183), (5, vd.val), (5, va.val), (5, cnt.val), (3, km.val), (6, pack [(3, t.code), (3, 6)])])
  | .vexp2 km va vd => some (32, pack [(8, 187), (5, vd.val), (5, va.val), (5, 0), (3, km.val), (6, 0)])
  | .vlog2 km va vd => some (32, pack [(8, 187), (5, vd.val), (5, va.val), (5, 0), (3, km.val), (6, 1)])
  | .vrcp km va vd => some (32, pack [(8, 187), (5, vd.val), (5, va.val), (5, 0), (3, km.val), (6, 2)])
  | .vrsqrt km va vd => some (32, pack [(8, 187), (5, vd.val), (5, va.val), (5, 0), (3, km.val), (6, 3)])
  | .vsqrt km va vd => some (32, pack [(8, 187), (5, vd.val), (5, va.val), (5, 0), (3, km.val), (6, 4)])
  | .vrngN32 km vb va vd => some (32, pack [(8, 187), (5, vd.val), (5, va.val), (5, vb.val), (3, km.val), (6, 8)])
  | .vrngF32 km vb va vd => some (32, pack [(8, 187), (5, vd.val), (5, va.val), (5, vb.val), (3, km.val), (6, 9)])
  | .vord t km va vd => some (32, pack [(8, 187), (5, vd.val), (5, va.val), (5, 0), (3, km.val), (6, pack [(3, t.code), (3, 2)])])
  | .vordi t km va vd => some (32, pack [(8, 187), (5, vd.val), (5, va.val), (5, 0), (3, km.val), (6, pack [(3, t.code), (3, 3)])])
  | .vld km base v => some (32, pack [(8, 191), (5, v.val), (6, base.code), (6, 0), (3, km.val), (4, 0)])
  | .vst km base v => some (32, pack [(8, 191), (5, v.val), (6, base.code), (6, 0), (3, km.val), (4, 1)])
  | .vlds km stride base v => some (32, pack [(8, 191), (5, v.val), (6, base.code), (6, stride.code), (3, km.val), (4, 2)])
  | .vsts km stride base v => some (32, pack [(8, 191), (5, v.val), (6, base.code), (6, stride.code), (3, km.val), (4, 3)])
  | .vldg km base v => some (32, pack [(8, 191), (5, v.val), (6, base.code), (6, 0), (3, km.val), (4, 4)])
  | .vstg km base v => some (32, pack [(8, 191), (5, v.val), (6, base.code), (6, 0), (3, km.val), (4, 5)])
  | .vldb km base v => some (32, pack [(8, 191), (5, v.val), (6, base.code), (6, 0), (3, km.val), (4, 6)])
  | .compactAdd b d => some (16, pack [(2, 0), (6, 1), (4, d.val), (4, b.val)])
  | .compactSub b d => some (16, pack [(2, 0), (6, 2), (4, d.val), (4, b.val)])
  | .compactAnd b d => some (16, pack [(2, 0), (6, 3), (4, d.val), (4, b.val)])
  | .compactOr b d => some (16, pack [(2, 0), (6, 4), (4, d.val), (4, b.val)])
  | .compactXor b d => some (16, pack [(2, 0), (6, 5), (4, d.val), (4, b.val)])
  | .compactSll b d => some (16, pack [(2, 0), (6, 6), (4, d.val), (4, b.val)])
  | .compactSrl b d => some (16, pack [(2, 0), (6, 7), (4, d.val), (4, b.val)])
  | .compactSra b d => some (16, pack [(2, 0), (6, 8), (4, d.val), (4, b.val)])
  | .compactMul b d => some (16, pack [(2, 0), (6, 9), (4, d.val), (4, b.val)])
  | .compactMove b d => some (16, pack [(2, 0), (6, 10), (4, d.val), (4, b.val)])
  | .compactAddi imm d => some (16, pack [(2, 1), (4, 1), (4, d.val), (6, imm.toNat)])
  | .compactLix imm d => some (16, pack [(2, 1), (4, 2), (4, d.val), (6, imm.toNat)])
  | .compactAndi imm d => some (16, pack [(2, 1), (4, 3), (4, d.val), (6, imm.toNat)])
  | .compactSlli imm d => some (16, pack [(2, 1), (4, 4), (4, d.val), (6, imm.toNat)])
  | .compactSrli imm d => some (16, pack [(2, 1), (4, 5), (4, d.val), (6, imm.toNat)])
  | .compactSrai imm d => some (16, pack [(2, 1), (4, 6), (4, d.val), (6, imm.toNat)])
  | .compactLdI64 off b d => some (16, pack [(2, 2), (4, 1), (4, d.val), (4, b.val), (2, off.toNat)])
  | .compactStI64 off b s => some (16, pack [(2, 2), (4, 2), (4, s.val), (4, b.val), (2, off.toNat)])
  | .compactLdI32 off b d => some (16, pack [(2, 2), (4, 3), (4, d.val), (4, b.val), (2, off.toNat)])
  | .compactStI32 off b s => some (16, pack [(2, 2), (4, 4), (4, s.val), (4, b.val), (2, off.toNat)])
  | .compactBEq imm a => some (16, pack [(2, 2), (4, 5), (4, a.val), (6, imm.toNat)])
  | .compactBNe imm a => some (16, pack [(2, 2), (4, 6), (4, a.val), (6, imm.toNat)])
  | .compactJ imm => some (16, pack [(2, 2), (4, 7), (10, imm.toNat)])
  | .compactNop => some (16, pack [(2, 2), (4, 8), (10, 0)])
  | .compactDone => some (16, pack [(2, 2), (4, 8), (10, 1)])
  | .compactFlush => some (16, pack [(2, 2), (4, 8), (10, 2)])
  | .compactJrLk => some (16, pack [(2, 2), (4, 8), (10, 3)])
  | .pfx fmt rnd sat gs => some (16, pack [(6, 38), (2, gs.toNat), (1, sat.toNat), (3, rnd.toNat), (4, fmt.toNat)])
  | .messageArrival _ => none
  | .binding _ _ => none
  | .vectorStart _ _ => none
  | .boundTrap _ _ => none
  | .tlbMissRetry _ _ => none
  | .abort _ _ => none
  | .budgetOverrun _ _ => none
  | .leaveGrant _ => none
  | .leaveTimeout _ _ => none
  | .doneRetire _ _ => none
  | .sliceAccess _ => none
  | .lineFill _ => none
  | .loadReply _ _ => none
  | .portThreadOperation _ => none
  | .put _ => none
  | .barrierArrival _ => none
  | .probe _ => none
  | .resourceInvalidation _ => none
  | .streamerSegment _ => none
  | .streamerLine _ => none
  | .transferEnd _ => none
  | .streamerCancel _ => none
  | .mxQueueEntry _ => none
  | .mxCommandStart _ => none
  | .mxCommandComplete _ => none
  | .mxBayMember _ => none
  | .mxBayFold _ => none
  | .transomRequestAccept _ => none
  | .transomStagingComplete _ => none
  | .transomCommit _ => none
  | .readPinEnd _ => none
  | .mirrorInstall _ _ => none
  | .pubdb _ _ => none
  | .getdb _ _ => none
  | .hostPostedWrite _ _ _ => none
  | .senddb _ => none
  | .hostChannelWrite _ => none
  | .eqpop _ => none
  | .rqsub _ _ => none
  | .rqrd _ _ => none
  | .rqcan _ _ => none
  | .qtail _ _ _ => none
  | .admission _ => none
  | .mbExecSystemInstruction => none
  | .mbSlotConfig => none
  | .mbWicketArm => none
  | .mbErrorArea => none
  | .mbPowerCap => none
  | .mbSleep => none
  | .mbWake => none
  | .wakeComplete => none
  | .mbSuspend => none
  | .mbResume => none
  | .mbPeerWord => none
  | .mbLifetimeRecord => none
  | .registerWrite _ _ _ => none
  | .functionLevelReset _ => none
  | .boot _ _ _ _ _ => none
  | .timerEdge _ => none
  | .controlEdge => none
  | .deltaCommit _ _ _ _ _ _ => none
  | .sweep _ => none
  | .seizeRequest _ => none
  | .wicketRelease _ => none
  | .forcedRelease _ => none
  | .reqStepOperation _ => none
  | .kvOperation _ => none
  | .combineArrival _ => none
  | .haltComplete _ => none
  | .swapComplete _ => none
  | .bstoreRefill _ => none
  | .shutterUnitEnd _ => none
  | .shutterVacant _ => none
  | .moveRound _ => none
  | .moveFreeze _ => none
  | .scrub _ => none
  | .rowCloseTimeout _ => none
  | .refresh _ => none
  | .monitorSample _ _ _ => none
  | .illegalInstruction _ => none
  | .transcendentalBurstEnd _ => none
  | .heartbeat _ _ _ _ => none
  | .ptmExchange _ => none
  | .quoteRequest _ _ => none
  | .hostPortAcceptance _ => none

/-- The little-endian bytes of an instruction's word (R4). -/
def encodeBytes (i : Instr) : Option (List Byte) :=
  (encode i).map fun p => wordBytes (p.1 / 8) p.2

end -- nc: the runtime holds at most 244 constructors with fields, so what builds an `Instr` is not compiled

end Sys2Proof
end

