-- ==== Sys2Proof/Machine/Flags.lean ====
section
/-! DEFINITION. Floating-point values, rounding and exception flags (R171 to R191), as exact arithmetic on naturals and
integers followed by one rounding. Bit patterns are naturals below 2^width. -/

namespace Sys2Proof.Machine

/-- The five exception flags in the order of fflags[4:0]: nv, dz, of, uf, nx (R182). -/
abbrev Flags := BitVec 5
def flagNV : Flags := 16#5
def flagDZ : Flags := 8#5
def flagOF : Flags := 4#5
def flagUF : Flags := 2#5
def flagNX : Flags := 1#5
def noFlags : Flags := 0#5

/-- The rounding modes of R178. -/
inductive RMode where
  | rne | rz | rdn | rup
deriving DecidableEq, Repr

/-- The mode that frnd.mode names (R178). -/
def RMode.ofBits : BitVec 2 → RMode
  | 0#2 => .rne | 1#2 => .rz | 2#2 => .rdn | _ => .rup

def RMode.bits : RMode → BitVec 2
  | .rne => 0#2 | .rz => 1#2 | .rdn => 2#2 | .rup => 3#2

/-- A binary format: exponent and fraction widths (R171). -/
structure Fmt where
  eb : Nat
  fb : Nat
deriving DecidableEq, Repr

def f32 : Fmt := ⟨8, 23⟩
def bf16 : Fmt := ⟨8, 7⟩
def f16 : Fmt := ⟨5, 10⟩

def Fmt.width (f : Fmt) : Nat := 1 + f.eb + f.fb
def Fmt.bias (f : Fmt) : Nat := 2 ^ (f.eb - 1) - 1
def Fmt.emax (f : Fmt) : Nat := 2 ^ f.eb - 1
/-- The sign bit's weight. -/
def Fmt.signW (f : Fmt) : Nat := 2 ^ (f.eb + f.fb)
def Fmt.inf (f : Fmt) (neg : Bool) : Nat := (if neg then f.signW else 0) + f.emax * 2 ^ f.fb
def Fmt.maxFinite (f : Fmt) (neg : Bool) : Nat := (if neg then f.signW else 0) + f.emax * 2 ^ f.fb - 1
/-- The canonical NaN (R171). -/
def Fmt.canonNaN (f : Fmt) : Nat := f.emax * 2 ^ f.fb + 2 ^ (f.fb - 1)
def Fmt.zero (f : Fmt) (neg : Bool) : Nat := if neg then f.signW else 0

def Fmt.isNeg (f : Fmt) (x : Nat) : Bool := f.signW ≤ x
def Fmt.expo (f : Fmt) (x : Nat) : Nat := x / 2 ^ f.fb % 2 ^ f.eb
def Fmt.frac (f : Fmt) (x : Nat) : Nat := x % 2 ^ f.fb
def Fmt.isNaN (f : Fmt) (x : Nat) : Bool := f.expo x = f.emax && f.frac x ≠ 0
def Fmt.isInf (f : Fmt) (x : Nat) : Bool := f.expo x = f.emax && f.frac x = 0
def Fmt.isZero (f : Fmt) (x : Nat) : Bool := f.expo x = 0 && f.frac x = 0
/-- A NaN whose quiet bit is clear (R171). -/
def Fmt.isSNaN (f : Fmt) (x : Nat) : Bool := f.isNaN x && f.frac x < 2 ^ (f.fb - 1)
/-- Set the quiet bit of a NaN (R185). -/
def Fmt.quiet (f : Fmt) (x : Nat) : Nat := if f.frac x < 2 ^ (f.fb - 1) then x + 2 ^ (f.fb - 1) else x

/-- An exact dyadic value m × 2^e. -/
structure Dy where
  m : Int
  e : Int
deriving DecidableEq, Repr

def Dy.zero : Dy := ⟨0, 0⟩
def Dy.neg (a : Dy) : Dy := ⟨-a.m, a.e⟩
def Dy.mul (a b : Dy) : Dy := ⟨a.m * b.m, a.e + b.e⟩
def Dy.add (a b : Dy) : Dy :=
  if a.e ≤ b.e then ⟨a.m + b.m * 2 ^ (b.e - a.e).toNat, a.e⟩
  else ⟨a.m * 2 ^ (a.e - b.e).toNat + b.m, b.e⟩
def Dy.lt (a b : Dy) : Bool := (a.add b.neg).m < 0
def Dy.ofInt (n : Int) : Dy := ⟨n, 0⟩

/-- The exact value of a finite pattern (R171, R172: subnormals are kept). -/
def Fmt.value (f : Fmt) (x : Nat) : Dy :=
  let ex := f.expo x
  let m : Nat := if ex = 0 then f.frac x else 2 ^ f.fb + f.frac x
  let e : Int := (if ex = 0 then 1 else (ex : Int)) - (f.bias : Int) - (f.fb : Int)
  ⟨if f.isNeg x then -(m : Int) else (m : Int), e⟩

/-- Divide m by 2^sh and round in the given direction; `sticky` says that the exact value lies above m by less than one
unit. Answers the rounded quotient and whether anything was lost (R178). -/
def roundShift (md : RMode) (neg : Bool) (m : Nat) (sh : Int) (sticky : Bool) : Nat × Bool :=
  if sh ≤ 0 then
    let q := m * 2 ^ (-sh).toNat
    (if sticky ∧ ((md = .rdn ∧ neg) ∨ (md = .rup ∧ ¬ neg)) then q + 1 else q, sticky)
  else
    let d := 2 ^ sh.toNat
    let q := m / d
    let r := m % d
    let inexact := decide (r ≠ 0) || sticky
    let up : Bool := match md with
      | .rne => decide (d < 2 * r) || (decide (2 * r = d) && (sticky || decide (q % 2 = 1)))
      | .rz => false
      | .rdn => neg && inexact
      | .rup => !neg && inexact
    (if up then q + 1 else q, inexact)

/-- Round ±(m + sticky) × 2^e into a format, with the overflow rule of R179 and the flags of R182. -/
def roundTo (f : Fmt) (md : RMode) (neg : Bool) (m : Nat) (e : Int) (sticky : Bool) : Nat × Flags :=
  if m = 0 then (f.zero neg, noFlags)
  else
    let p : Int := (f.fb : Int) + 1
    let top : Int := e + (Nat.log2 m : Int)
    let emin : Int := 1 - (f.bias : Int)
    let lsb : Int := max (top - (p - 1)) (emin - (p - 1))
    let (q, inexact) := roundShift md neg m (lsb - e) sticky
    let carry := decide (2 ^ (f.fb + 1) ≤ q)
    let q' := if carry then q / 2 else q
    let lsb' := if carry then lsb + 1 else lsb
    let bexp : Int := if q' < 2 ^ f.fb then 0 else lsb' + (p - 1) + (f.bias : Int)
    let s := f.zero neg
    if (f.emax : Int) ≤ bexp then
      let toInf : Bool := match md with
        | .rne => true | .rz => false | .rdn => neg | .rup => !neg
      (if toInf then f.inf neg else f.maxFinite neg, flagOF ||| flagNX)
    else
      let bits := s + (if q' < 2 ^ f.fb then q' else bexp.toNat * 2 ^ f.fb + (q' - 2 ^ f.fb))
      let unb := (roundShift md neg m (top - (p - 1) - e) sticky).1
      let tiny := decide (top < emin) && !(decide (top = emin - 1) && decide (2 ^ (f.fb + 1) ≤ unb))
      (bits, (if inexact then flagNX else noFlags) ||| (if inexact && tiny then flagUF else noFlags))

/-- Round an exact dyadic value; `zneg` is the sign an exact zero takes. -/
def roundDy (f : Fmt) (md : RMode) (zneg : Bool) (d : Dy) : Nat × Flags :=
  if d.m = 0 then (f.zero zneg, noFlags) else roundTo f md (decide (d.m < 0)) d.m.natAbs d.e false

/-- The first NaN among the operands, quieted; nv if any operand is signalling (R185). -/
def nanResult (f : Fmt) (xs : List Nat) : Nat × Flags :=
  ((xs.find? f.isNaN).elim f.canonNaN f.quiet, if xs.any f.isSNaN then flagNV else noFlags)

def invalid (f : Fmt) : Nat × Flags := (f.canonNaN, flagNV)

/-- The sign of an exact zero sum of two terms (R179). R179 states it for non-zero terms and for zeros of one sign; that two zeros of unlike sign
give +0 too, or −0 rounding down, is the model's choice (PRESUMED, log 81). -/
def zeroSumNeg (md : RMode) (na nb : Bool) : Bool := if na = nb then na else decide (md = .rdn)

/-- Addition, rounded once (R179, R180, R185). -/
def fAdd (f : Fmt) (md : RMode) (a b : Nat) : Nat × Flags :=
  if f.isNaN a || f.isNaN b then nanResult f [a, b]
  else if f.isInf a then (if f.isInf b && f.isNeg a != f.isNeg b then invalid f else (a, noFlags))
  else if f.isInf b then (b, noFlags)
  else roundDy f md (zeroSumNeg md (f.isNeg a) (f.isNeg b)) ((f.value a).add (f.value b))

/-- Change of the sign bit alone (R203). -/
def fNeg (f : Fmt) (a : Nat) : Nat := if f.isNeg a then a - f.signW else a + f.signW

/-- Subtraction: a NaN operand keeps its own sign. -/
def fSub (f : Fmt) (md : RMode) (a b : Nat) : Nat × Flags :=
  if f.isNaN a || f.isNaN b then nanResult f [a, b] else fAdd f md a (fNeg f b)

def fMul (f : Fmt) (md : RMode) (a b : Nat) : Nat × Flags :=
  let neg := f.isNeg a != f.isNeg b
  if f.isNaN a || f.isNaN b then nanResult f [a, b]
  else if f.isInf a || f.isInf b then
    (if f.isZero a || f.isZero b then invalid f else (f.inf neg, noFlags))
  else roundDy f md neg ((f.value a).mul (f.value b))

/-- Division (R203): dz for a finite non-zero value over zero. -/
def fDiv (f : Fmt) (md : RMode) (a b : Nat) : Nat × Flags :=
  let neg := f.isNeg a != f.isNeg b
  if f.isNaN a || f.isNaN b then nanResult f [a, b]
  else if f.isInf a then (if f.isInf b then invalid f else (f.inf neg, noFlags))
  else if f.isInf b then (f.zero neg, noFlags)
  else if f.isZero b then (if f.isZero a then invalid f else (f.inf neg, flagDZ))
  else
    let va := f.value a
    let vb := f.value b
    let k := f.fb + 4 + Nat.log2 vb.m.natAbs
    let n := va.m.natAbs * 2 ^ k
    roundTo f md neg (n / vb.m.natAbs) (va.e - vb.e - (k : Int)) (decide (n % vb.m.natAbs ≠ 0))

/-- The integer square root below 2^n, one bit at a time. -/
def isqrtBits : Nat → Nat → Nat → Nat
  | 0, _, r => r
  | n + 1, m, r => isqrtBits n m (if (r + 2 ^ n) * (r + 2 ^ n) ≤ m then r + 2 ^ n else r)

def isqrt (m : Nat) : Nat := isqrtBits (Nat.log2 m / 2 + 1) m 0

/-- A positive finite value as m × 4^e, with m enlarged by 4^k. -/
def evenParts (v : Dy) (k : Nat) : Nat × Int :=
  let m := v.m.natAbs * 4 ^ k
  let e := v.e - 2 * (k : Int)
  if e % 2 = 0 then (m, e / 2) else (2 * m, (e - 1) / 2)

def fSqrt (f : Fmt) (md : RMode) (a : Nat) : Nat × Flags :=
  if f.isNaN a then nanResult f [a]
  else if f.isZero a then (a, noFlags)
  else if f.isNeg a then invalid f
  else if f.isInf a then (a, noFlags)
  else
    let (m, e) := evenParts (f.value a) (f.fb + 4)
    let r := isqrt m
    roundTo f md false r e (decide (r * r ≠ m))

/-- Reciprocal square root, rounded once (R240). -/
def fRsqrt (f : Fmt) (md : RMode) (a : Nat) : Nat × Flags :=
  if f.isNaN a then nanResult f [a]
  else if f.isZero a then (f.inf (f.isNeg a), flagDZ)
  else if f.isNeg a then invalid f
  else if f.isInf a then (f.zero false, noFlags)
  else
    let (m, e) := evenParts (f.value a) 0
    let k := f.fb + 4 + Nat.log2 m
    let r := isqrt (4 ^ k / m)
    roundTo f md false r (-e - (k : Int)) (decide (r * r * m ≠ 4 ^ k))

/-- a × b + c with one rounding; 0 × ∞ is invalid even beside a quiet NaN addend (R203, R222). -/
def fFma (f : Fmt) (md : RMode) (a b c : Nat) : Nat × Flags :=
  let pneg := f.isNeg a != f.isNeg b
  if f.isNaN a || f.isNaN b then nanResult f [a, b, c]
  else if (f.isInf a && f.isZero b) || (f.isZero a && f.isInf b) then invalid f
  else if f.isNaN c then nanResult f [c]
  else if f.isInf a || f.isInf b then
    (if f.isInf c && f.isNeg c != pneg then invalid f else (f.inf pneg, noFlags))
  else if f.isInf c then (c, noFlags)
  else roundDy f md (zeroSumNeg md pneg (f.isNeg c)) (((f.value a).mul (f.value b)).add (f.value c))

/-- a × b − c; a NaN addend keeps its own sign. -/
def fFms (f : Fmt) (md : RMode) (a b c : Nat) : Nat × Flags :=
  fFma f md a b (if f.isNaN c then c else fNeg f c)

/-- c − a × b. -/
def fFnma (f : Fmt) (md : RMode) (a b c : Nat) : Nat × Flags :=
  if f.isNaN a || f.isNaN b then nanResult f [a, b, c] else fFma f md (fNeg f a) b c

/-- The key whose natural order is −∞ … −0 < +0 … +∞ (R172, R243). -/
def Fmt.ordKey (f : Fmt) (x : Nat) : Nat := if f.isNeg x then 2 * f.signW - 1 - x else x + f.signW

/-- Minimum and maximum (R172, R185): −0 below +0; one NaN operand gives the other operand. -/
def fMinMax (f : Fmt) (isMax : Bool) (a b : Nat) : Nat × Flags :=
  let fl := if f.isSNaN a || f.isSNaN b then flagNV else noFlags
  if f.isNaN a then (if f.isNaN b then (f.quiet a, fl) else (b, fl))
  else if f.isNaN b then (a, fl)
  else if isMax then (if f.ordKey a < f.ordKey b then b else a, fl)
  else (if f.ordKey b < f.ordKey a then b else a, fl)

/-- The comparisons of R203 and R226. -/
inductive FCmp where
  | eq | lt | le
deriving DecidableEq, Repr

def fCompare (f : Fmt) (k : FCmp) (a b : Nat) : Bool × Flags :=
  let snan := f.isSNaN a || f.isSNaN b
  if f.isNaN a || f.isNaN b then
    (false, if decide (k ≠ .eq) || snan then flagNV else noFlags)
  else
    let ka := if f.isZero a then f.signW else f.ordKey a
    let kb := if f.isZero b then f.signW else f.ordKey b
    (match k with
      | .eq => decide (ka = kb)
      | .lt => decide (ka < kb)
      | .le => decide (ka ≤ kb), noFlags)

/-- The class mask of R204. -/
def fClass (x : Nat) : Nat :=
  let n := f32.isNeg x
  if f32.isNaN x then (if f32.isSNaN x then 2 ^ 8 else 2 ^ 9)
  else if f32.isInf x then (if n then 2 ^ 0 else 2 ^ 7)
  else if f32.isZero x then (if n then 2 ^ 3 else 2 ^ 4)
  else if f32.expo x = 0 then (if n then 2 ^ 2 else 2 ^ 5)
  else (if n then 2 ^ 1 else 2 ^ 6)

/-- Round an exact dyadic to an integer (R189); answers also whether it was exact. -/
def roundToInt (md : RMode) (d : Dy) : Int × Bool :=
  let neg := decide (d.m < 0)
  let (q, inexact) := roundShift md neg d.m.natAbs (-d.e) false
  (if neg then -(q : Int) else (q : Int), inexact)

/-- Conversion to an integer range with saturation (R189). -/
def fToInt (f : Fmt) (md : RMode) (lo hi : Int) (x : Nat) : Int × Flags :=
  if f.isNaN x then (0, flagNV)
  else if f.isInf x then (if f.isNeg x then lo else hi, flagNV)
  else
    let (n, inexact) := roundToInt md (f.value x)
    if n < lo then (lo, flagNV) else if hi < n then (hi, flagNV)
    else (n, if inexact then flagNX else noFlags)

/-- Conversion of an integer (R189). -/
def intToF (f : Fmt) (md : RMode) (n : Int) : Nat × Flags := roundDy f md false (Dy.ofInt n)

/-- Conversion between floating-point formats (R188, R190): a NaN narrowed to BF16 or FP16 becomes canonical; a NaN
widened to FP32 keeps sign and fraction and is quieted; nv for a signalling source (R182, R205). The last component is the NaN's
FP32 form where one was narrowed. -/
def fConvert (src dst : Fmt) (md : RMode) (x : Nat) : Nat × Flags × Option Nat :=
  if src.isNaN x then
    let fl := if src.isSNaN x then flagNV else noFlags
    let wide := (if src.isNeg x then f32.signW else 0) + f32.emax * 2 ^ 23
      + f32.frac (src.frac x * 2 ^ (23 - src.fb))
    if dst = f32 then (f32.quiet wide, fl, none)
    else (dst.canonNaN, fl, some wide)
  else if src.isInf x then (dst.inf (src.isNeg x), noFlags, none)
  else
    let r := roundDy dst md (src.isNeg x) (src.value x)
    (r.1, r.2, none)

end Sys2Proof.Machine

namespace Sys2Proof

open Machine

def FpType.fmt : FpType → Fmt
  | .f32 => Machine.f32 | .bf16 => Machine.bf16 | .f16 => Machine.f16

end Sys2Proof
end

