-- ==== Sys2Proof/Machine/State.lean ====
section
/-! DEFINITION. The state of the whole device as plain data. Every field names the rule of the specification that gives
it; the reset value is the one `State.reset` and the structures' defaults give. -/

namespace Sys2Proof.Machine

/-- A sparse table keyed by a number, in rising order of the key. -/
abbrev NMap (α : Type) := List (Nat × α)

/-- A memory as its non-default bytes, addresses strictly rising (R4, R12, R52). -/
abbrev Memory := List Host.Cell

/-- What a byte that nothing has written reads as. DESIGN CHOICE (log 2). -/
def Memory.unlisted : Byte := 0#8

/-- The canonical form: addresses strictly rising and no entry equal to what an unlisted address reads as. -/
abbrev Memory.wf (m : Memory) : Prop :=
  m.Pairwise (fun a b => a.1 < b.1) ∧ ∀ p ∈ m, p.2 ≠ Memory.unlisted

/-- A trap: its cause code, reason and fault detail; `xpc` where it differs from the instruction's address (R389). -/
structure Trap where
  code : Nat
  reason : Nat := 0
  faddr : Word := 0#64
  xpc : Option Word := none
  /-- `faddr` is the entry's own detail, not the instruction's word (R163, R219) -/
  own : Bool := false
  /-- access bits of a miss message: 1 read, 2 write, 4 atomic (R65) -/
  access : Nat := 0
  /-- for a miss, the resource index and offset of the access in the layout of R59 (R67) -/
  res : Word := 0#64
  /-- for a global consumption, the guest and the physical address; for one in another tile's window, that tile (R396) -/
  place : Option (Nat × Nat) := none
  target : Option Nat := none
deriving DecidableEq, Repr

/-- The reply of an outstanding load: a value with the flags of an amo.fadd (R126), the fault detail of a poison consumption, or what a
Transom request brings. -/
inductive Reply where
  | value (v : Word) (fl : Flags := noFlags)
  | poisoned (reason : Nat) (faddr : Word)
  /-- the value of a tm.get whose staleness trap follows, with the slot (R143) -/
  | stale (v : Word) (slot : Nat)
  /-- the request was refused where it arrived (R143, R146) -/
  | refused (t : Trap)
deriving DecidableEq, Repr

/-- A bay-remote operation on its way (R119, R128): a request with its issuer, the number of the access, and what it does; or the answer to
one: the reply of a load or an atomic, the acknowledgement of a store (R124). -/
inductive RemoteOp where
  | load (tile : Nat) (c : Fin 8) (sh : Fin 3) (id : Nat) (addr size : Nat)
  | store (tile : Nat) (c : Fin 8) (sh : Fin 3) (id : Nat) (addr : Nat) (bytes : List Byte)
  | amo (tile : Nat) (c : Fin 8) (sh : Fin 3) (id : Nat) (op : Nat) (w64 : Bool) (addr : Nat) (v cmp : Word)
  | answer (tile : Nat) (c : Fin 8) (sh : Fin 3) (id : Nat) (r : Option Reply)
deriving DecidableEq, Repr

/-- A message: header fields of R304 and its payload. `dst` is the model's key of the destination tile. -/
structure Msg where
  /-- [127:96] msgid (R304) -/
  msgid : BitVec 32 := 0#32
  /-- [95:80] launch number (R304) -/
  launch : Nat := 0
  /-- [71:68] tenant of the sender (R304) -/
  tenant : Nat := 0
  /-- [67:64] kind: 0 channel, 1 spawn, 2 put, 3 barrier arrival, 4 notification, 5 port-thread operation (R304); 7 a miss message, DESIGN
  CHOICE (log 79) -/
  kind : Nat := 0
  /-- [63:53] tile word of the sender (R304) -/
  source : BitVec 11 := 0#11
  /-- [52:50] virtual network (R304) -/
  vnet : Nat := 0
  /-- [48] replayable (R304) -/
  replayable : Bool := true
  /-- [47:42] destination channel (R304) -/
  chan : Nat := 0
  /-- [41:31] tile word of the destination (R304) -/
  dest : BitVec 11 := 0#11
  /-- [29:0] poison mask (R304) -/
  pmask : BitVec 30 := 0#30
  /-- payload (R304) -/
  body : List Byte := []
  /-- the destination tile, as the model numbers tiles (R10) -/
  dst : Nat := 0
  /-- the sending tile, as the model numbers tiles; it fixes the path (R292) -/
  src : Nat := 0
  /-- scratchpad address of a put (R319) -/
  addr : Nat := 0
  /-- activations that the message has started (R393) -/
  deliv : Nat := 0
  /-- cycle in which its tail flit entered the inbox (R330) -/
  arrival : Nat := 0
  /-- true for a message to a seized tile, which queues on a Wicket channel (R378) -/
  wicket : Bool := false
  /-- 1 + the timer of a timer item, 0 for any other message (R373) -/
  timer : Nat := 0
  /-- what a port-thread operation does at its target: a bay-remote request, on the request network, or its answer, on the reply network (R120,
  R124, R292) -/
  remote : Option RemoteOp := none
  /-- the model's own: the partition of the launch, 16 for none; launch numbers are given per partition (R440; log 89) -/
  pid : Nat := 16
  /-- cause, faddr and xpc of the last abort of an activation that it started (R393) -/
  lastAbort : Word × Word × Word := (0#64, 0#64, 0#64)
deriving DecidableEq, Repr

/-- The operations of the vector unit (majors 39 to 47), as the queue of R155 holds them. -/
inductive VOp where
  | fp (op : Fin 8) (t : FpType)
  | int (op : Fin 8) (z : EltSize)
  | logic (op : Fin 8) (z : EltSize)
  | cmpInt (pred : Fin 5) (z : EltSize)
  | cmpFp (k : FCmp) (t : FpType)
  | maskBin (op : Fin 4)
  | maskNot
  | maskPop
  | maskFirst
  | maskWord
  | maskLo
  | maskSet
  | cvt (f : Fin 9)
  | wid (f : Fin 4)
  | nar (f : Fin 2)
  | gsc (hi : Bool)
  | unpk
  | pk
  | perm
  | nib (hi : Bool)
  | bcast (z : EltSize)
  | slup (z : EltSize)
  | sldn (z : EltSize)
  | comp (z : EltSize)
  | idx (z : EltSize)
  | mvq (z : EltSize)
  | rsum (t : RedType)
  | rext (isMax : Bool) (t : RedType)
  | raext (isMax : Bool) (t : RedType)
  | scan (t : RedType)
  | hist (t : RedType)
  | exp2
  | log2
  | rcp
  | rsqrt
  | sqrt
  | rng (fp : Bool)
  | ord (inv : Bool) (t : OrdType)
  | vld
  | vst
  | vlds
  | vsts
  | vldg
  | vstg
  | vldb
deriving DecidableEq, Repr

/-- One entry of the vector instruction queue (R155, R160, R184). -/
structure VEntry where
  op : VOp
  vs : Bool := false
  km : Km := 0
  vb : VReg := 0
  va : VReg := 0
  vd : VReg := 0
  base : Reg := .z
  stride : Reg := .z
  /-- the prefix parcel that governs it, 0 when none (R155) -/
  pfx : BitVec 16 := 0#16
  /-- its instruction word, for the half image (R160) -/
  word : BitVec 32 := 0#32
  /-- effective rounding mode captured at handover (R184) -/
  mode : RMode := .rne
  /-- address of the instruction, for xpc (R219) -/
  pc : Word := 0#64
  /-- the model's number of its handover, rising (R285), and the order point of its context then (R286) -/
  seq : Nat := 0
  after : Nat := 0
deriving DecidableEq, Repr

/-- A load or atomic whose value has not returned (R62, R124, R128). -/
structure PendLoad where
  id : Nat
  d : Reg
  /-- the context issues nothing more until the value has returned (R128) -/
  blocking : Bool := false
  /-- width in bytes and sign of the extension -/
  size : Nat := 8
  signed : Bool := false
  pc : Word := 0#64
  /-- fault detail of the access, for a poisoned reply; its guest and physical address where it is global, its target where it is bay-remote
  (R389, R396) -/
  faddr : Word := 0#64
  place : Option (Nat × Nat) := none
  target : Option Nat := none
  /-- global or bay-remote (R62, R124) -/
  global : Bool := true
  /-- an atomic: its activation becomes non-replayable when the value returns (R128) -/
  amo : Bool := false
  /-- an acquire when its value returns (R286), and of device scope: the tenant's read-cache lines go then (R299) -/
  acq : Bool := false
  inv : Bool := false
  reply : Option Reply := none
deriving DecidableEq, Repr

/-- A register half (R160): everything that an activation owns. -/
structure Half where
  /-- g0–g39, 64 bits each (07, R151); reset 0 -/
  g : Vector Word 40 := Vector.replicate 40 0#64
  /-- n0–n7, 64 bits each (07, R151, R152); reset 0 -/
  n : Vector Word 8 := Vector.replicate 8 0#64
  /-- poison bits of n0–n7, 8 bits (07, R152, R160); reset 0 -/
  npoison : BitVec 8 := 0#8
  /-- y0–y3, 64 bits each (07, R151, R153); reset 0 -/
  y : Vector Word 4 := Vector.replicate 4 0#64
  /-- ready flags of y0–y3: 0 when the value is there, else 1 + the number of the load that brings it (07, R153, R160); reset ready -/
  ypend : Vector Nat 4 := Vector.replicate 4 0
  /-- e0–e7, 64 bits each (07, R151, R158); reset 0 -/
  e : Vector Word 8 := Vector.replicate 8 0#64
  /-- q0–q7, 8 entries of 64 bits each, oldest first (07, R154); reset empty -/
  q : Vector (List Word) 8 := Vector.replicate 8 []
  /-- entries of q0–q3 that an outstanding load has appended and not yet filled: queue, place from the oldest, number of the load (02, R34; 07,
  R154); reset none -/
  qwait : List (Nat × Nat × Nat) := []
  /-- vector instruction queue, 16 entries, oldest first (07, R155); reset empty -/
  vq : List VEntry := []
  /-- v0–v31, 256 bytes each (07, R159); reset 0 -/
  v : Vector VecVal 32 := Vector.replicate 32 0#2048
  /-- k0–k7, 256 bits each (07, R159); reset 0 -/
  k : Vector MaskVal 8 := Vector.replicate 8 0#256
  /-- h0–h15, 64 bytes each (07, R165); reset 0 -/
  h : Vector Rec512 16 := Vector.replicate 16 0#512
  /-- address of the next instruction, 64 bits (09, R209); reset 0, DESIGN CHOICE (log 3) -/
  pc : Word := 0#64
  /-- address of the instruction issued last, which faddr of a fetch fault names (17, R389); reset 0, DESIGN CHOICE (log 3) -/
  lastPc : Word := 0#64
  /-- status, 64 bits: side 4, dzt 3, nr 2, tm 1, pp 0 (17, R404); reset 0 -/
  status : Word := 0#64
  /-- cause, 64 bits: reason 15:8, code 7:0 (17, R403); reset 0 -/
  cause : Word := 0#64
  /-- xpc, 64 bits (17, R403); reset 0 -/
  xpc : Word := 0#64
  /-- faddr, 64 bits (17, R403); reset 0 -/
  faddr : Word := 0#64
  /-- msgid, 32 bits (13, R308; 17, R403); reset 0, DESIGN CHOICE (log 3) -/
  msgid : BitVec 32 := 0#32
  /-- chan, 7 bits (13, R308; 17, R403); reset 0, DESIGN CHOICE (log 3) -/
  chan : Nat := 0
  /-- budget: cycles left, 64 bits (14, R335; 17, R403); reset 0, DESIGN CHOICE (log 3) -/
  budget : Word := 0#64
  /-- trapvec, 64 bits: v 32, pc 31:0 (17, R404); reset 0 -/
  trapvec : Word := 0#64
  /-- tsave, 64 bits (17, R404); reset 0 -/
  tsave : Word := 0#64
  /-- tlpcnt, 64 bits (17, R403); reset 0 -/
  tlpcnt : Word := 0#64
  /-- fflags[4:0] (08, R182); reset 0 -/
  fflags : Flags := 0#5
  /-- frnd[1:0] (08, R183); reset 0 -/
  frnd : BitVec 2 := 0#2
  /-- pfxsave[15:0] (02, R45); reset 0 -/
  pfxsave : BitVec 16 := 0#16
  /-- nanorg: v 63, payload 21:0 (08, R183); reset 0 -/
  nanorg : Word := 0#64
  /-- lpcnt, 64 bits (09, R210); reset 0 -/
  lpcnt : Word := 0#64
  /-- lpbeg, 64 bits (09, R210); reset 0 -/
  lpbeg : Word := 0#64
  /-- lpend, 64 bits (09, R210); reset 0 -/
  lpend : Word := 0#64
  /-- loads and atomics whose value has not returned, oldest first (03, R62; 05, R124); reset none -/
  loads : List PendLoad := []
  /-- a bound trap a vstg has raised and the scalar stream has not yet taken: register index and address of the vstg (10, R484); reset none -/
  boundTrap : Option (Nat × Word) := none
  /-- the vector stream stands at a parked vldg or vstg (10, R219); reset false -/
  vparked : Bool := false
  /-- the vector stream waits for the first instruction of trap code (10, R484); reset false -/
  vheld : Bool := false
deriving DecidableEq, Repr

/-- One logged line of an activation-atomic keep region: its address in the physical scratchpad, its old bytes, dirty bit and poison bits (R115). -/
structure UndoLine where
  line : Nat
  bytes : List Byte
  dirty : Bool
  /-- its poisoned sectors, 0 to 3 -/
  poison : List Nat
deriving DecidableEq, Repr

/-- What an activation is, beside its registers (R307, R308, R313, R343). -/
structure Act where
  /-- the model's number of the activation, unique; 0 for none -/
  id : Nat := 0
  /-- launch number (R308) -/
  launch : Nat := 0
  /-- the model's own: the partition of its launch, 16 for none (R440; log 89) -/
  pid : Nat := 16
  /-- tenant (R308) -/
  tenant : Nat := 0
  /-- priority of its channel, 3 for a spawn (R302, R309) -/
  prio : Nat := 0
  /-- keep-region set (R114, R309) -/
  keep : BitVec 32 := 0#32
  /-- the triggering message, which stays in its inbox entry (R308) -/
  msg : Msg := {}
  /-- cycle of binding (R345) -/
  bound : Nat := 0
  /-- undo log entries, newest first (R115) -/
  undo : List UndoLine := []
  /-- tokens of its lv.hold and how many of them are lent (R343) -/
  hold : Nat := 0
  lent : Nat := 0
  /-- pending engine error: reason and fault detail (R101, R273) -/
  engErr : Option (Nat × Word) := none
  /-- done or flush has released its out-buffer items, and some may still wait for injection (R315 steps 4 and 5, R316) -/
  released : Bool := false
  /-- the abort that is in progress: what R392 reports -/
  abort : Option Trap := none
  /-- cycles it has waited on leave (R341) -/
  lvWait : Nat := 0
  /-- its lv.hold request: 0 none, 1 queued, 2 granted, 3 taken (R343) -/
  lvReq : Nat := 0
  /-- steps 1 and 2 of R392 are done, and its transfers are told to stop -/
  abortStarted : Bool := false
  /-- index of a res.wr whose invalidations are not all acknowledged (R69) -/
  resWr : Option Nat := none
deriving DecidableEq, Repr

/-- What a register half is doing (R160, R331, R388). -/
inductive Phase where
  | free
  | live
  /-- parked with a cause code 1, 2 or 3 (R389) -/
  | parked (code : Nat)
  /-- frozen by a protection violation (R394) -/
  | frozen
  /-- ending by abort; the ABORT event rolls it back (R392) -/
  | aborting
  /-- done has released its items and waits for the end of injection (R315 step 5) -/
  | retiring
deriving DecidableEq, Repr

/-- What an instruction waits for, as far as it can be leave (R341). -/
inductive WaitOn where
  /-- its own lv.hold request -/
  | hold
  /-- mx.stat: the commands of the activation -/
  | engine
  /-- done: the commands and the copies of the activation -/
  | commands
  /-- the vector stream -/
  | vector
  /-- the end of an instruction that has issued and holds the context until it completes (R484) -/
  | issued
  /-- an event that is not a grant of leave -/
  | other
deriving DecidableEq, Repr

/-- One of the two halves of a context with what runs in it (R161). -/
structure Slot where
  phase : Phase := .free
  /-- the instruction at pc waits for an event (R34, R333) -/
  waiting : Bool := false
  /-- what it waits for (R341) -/
  waitOn : WaitOn := .other
  /-- frozen in place for a shutter's checkpoint (R423) -/
  wfrozen : Bool := false
  /-- a miss message of the context is unanswered, and the context waits for the retry of R67 -/
  missSent : Bool := false
  /-- cycle at which a new miss message is sent after a retry answer (R67) -/
  retryAt : Option Nat := none
  /-- what a refused translation reports of the parked access: its resource word, and its access bits (R65, R67) -/
  missRes : Word := 0#64
  missAcc : Nat := 0
  /-- the virtual address that the miss message names, and whether the vector stream has sent it (R65, R219) -/
  missVa : Word := 0#64
  missVec : Bool := false
  act : Act := {}
  half : Half := {}
deriving DecidableEq, Repr

/-- A hardware context (R9, R161). -/
structure Ctx where
  s0 : Slot := {}
  s1 : Slot := {}
  /-- the current half (R161); reset 0, DESIGN CHOICE (log 3) -/
  cur : Bool := false
  /-- the model's own: accesses that the context issues from now on follow every access of its partition with a lower number (R284, R286);
  reset 0 (log 5) -/
  after : Nat := 0
  /-- context wear count (R345); reset 0, DESIGN CHOICE (log 3) -/
  wear : Nat := 0
deriving DecidableEq, Repr

/-- A copy channel of a tile (R88 to R90, R103). -/
structure CopyChan where
  /-- nid: next identifier, 64 bits (04, R88); reset 0 -/
  nid : Word := 0#64
  /-- cpdone: lowest identifier not ended, 64 bits (04, R89); reset 0 -/
  done : Word := 0#64
  /-- identifiers that have ended above cpdone (04, R89); reset none -/
  ended : List Word := []
  /-- cpdepth: the stage count last applied in the launch (04, R86), none before any segment was served; reset none -/
  depth : Option Nat := none
  /-- min stages (04, R103); reset 1 -/
  min : Nat := 1
  /-- max stages (04, R103); reset 8 -/
  max : Nat := 8
  /-- cancel record, newest first, 8 entries (04, R90); reset empty -/
  crec : List Word := []
  /-- cancel count, 64 bits (04, R90); reset 0 -/
  ccount : Word := 0#64
  /-- a transfer of the channel has an unanswered miss message (03, R65); reset false -/
  missSent : Bool := false
  /-- cycle at which a new miss message is sent after a retry answer (03, R67); reset none -/
  retryAt : Option Nat := none
deriving DecidableEq, Repr

/-- A TLB entry (R64, R66). -/
structure TlbEntry where
  tenant : Nat
  /-- page size code 0 to 4 (R66) -/
  size : Nat
  /-- first virtual address of the page -/
  va : Nat
  /-- first physical address of the frame -/
  pa : Nat
  /-- ordering kind code (R54) -/
  kind : Nat
  /-- policy code (R54) -/
  pol : Nat
  pr : Bool
  pw : Bool
  pa' : Bool
deriving DecidableEq, Repr

/-- A line of a tile's read cache (R131). -/
structure RLine where
  line : Nat
  tenant : Nat
  bytes : List Byte
  poison : List Nat
deriving DecidableEq, Repr

/-- A handler table entry (R302). -/
structure Handler where
  keep : BitVec 32 := 0#32
  pc : BitVec 32 := 0#32
  /-- budget − 1 -/
  budget : BitVec 24 := 0#24
  tenant : Nat := 0
  prio : Nat := 0
  mask : Bool := false
  valid : Bool := false
deriving DecidableEq, Repr

/-- A bound register (R397). -/
structure Bound where
  count : Nat := 0
  /-- limits are INT32 -/
  int : Bool := false
  act : BitVec 2 := 0#2
  hi : BitVec 32 := 0#32
  lo : BitVec 32 := 0#32
deriving DecidableEq, Repr

/-- A reflex timer of a tile: enable, channel, period P, phase, missed count, edge index n of the next edge (R372, R373); edges gated on a
standby since the last committed seal (R454). -/
structure Timer where
  en : Bool := false
  chan : Nat := 0
  period : Nat := 0
  phase : Nat := 0
  missed : Nat := 0
  next : Nat := 0
  gated : Nat := 0
  /-- the item of an edge that waits for an inbox entry (13, R305; log 72); reset none -/
  held : Option Msg := none
deriving DecidableEq, Repr

/-- Where a copied or gathered extent lies (R91, R92, R94). -/
inductive CpForm where
  | gl | gb | lg | gg | lb | ls | lsb | pl | gxld | gxst | gxldb
deriving DecidableEq, Repr

/-- What a released transfer is doing (R65, R89, R101, R104, R427). -/
inductive CpPhase where
  /-- waits for leave (R87) -/
  | leave
  /-- its command is on the way to the streamers (R85, R291) -/
  | sent
  | running
  /-- parked on a TLB miss (R65) -/
  | parked
  /-- cancelled; ends at the next TRANSFER_END (R104) -/
  | cancelled
  /-- paused by a checkpoint (R427) -/
  | paused
  /-- all bytes have landed or it has stopped; ends at the next TRANSFER_END with this status (R97) -/
  | ended (status : Nat)
deriving DecidableEq, Repr

/-- A copy or gather command (R91, R95). -/
structure Transfer where
  /-- the model's number of the transfer, unique -/
  uid : Nat := 0
  form : CpForm
  /-- image of e0–e7 at issue (R91) -/
  e : Vector Word 8
  chan : Nat
  id : Word
  notify : Bool
  chain : Bool
  tenant : Nat
  launch : Nat
  /-- the model's own: the partition of its launch, 16 for none (R440; log 89) -/
  pid : Nat := 16
  /-- issuing activation while it was released at issue, 0 when released from the out-buffer (R96) -/
  act : Nat
  /-- issuing activation in either case: it asks for leave, and its hold lends (R341, R343) -/
  owner : Nat := 0
  /-- context of the issuing stream, and the number of the fork: the stream's accesses with lower numbers come before it (R291) -/
  ctx : Fin 8 := 0
  fork : Nat := 0
  /-- the model's number of the arrival of its segments at the streamers, rising (R86) -/
  arrived : Nat := 0
  prio : Nat
  /-- issuing tile -/
  tile : Nat
  /-- which share of the tile issued it: 0 whole or half A, 1 half B, 2 Wicket -/
  part : Nat
  /-- tiles of the local endpoints -/
  srcTile : Nat
  dstTile : Nat
  phase : CpPhase := .running
  /-- how far the lines have been taken up, in bytes of its rows laid end to end: the resume offset (R427) -/
  pos : Nat := 0
  /-- lines passed over because the streamer that serves them is frozen: place and bytes (R85, R101) -/
  held : List (Nat × Nat) := []
  /-- streamers whose segment of it has been cancelled, and whether a line has gone with one (R395) -/
  dropped : List Nat := []
  lost : Bool := false
  /-- physical bytes read and written so far: first key and length (R93) -/
  srcSeen : List (Nat × Nat) := []
  dstSeen : List (Nat × Nat) := []
  /-- while it is parked: the address and access bits of its miss, and the model's number of its parking, rising (R65, R67) -/
  missVa : Word := 0#64
  missAcc : Nat := 0
  parkedAt : Nat := 0
  landed : Nat := 0
  oor : Nat := 0
  /-- index list of a gather, read at release (R105) -/
  idx : List Nat := []
  /-- power tokens it holds, and whether its activation's hold lent them (R338, R343) -/
  tokens : Nat := 0
  fromHold : Bool := false
  /-- virtual addresses of global endpoints as the check at issue found them; for a gather the table's, with its length (R70, R95, R105) -/
  srcVa : Nat := 0
  dstVa : Nat := 0
  tabLen : Nat := 0
  /-- the resource entries of the global endpoints as the check at issue found them (R55, R70) -/
  srcRes : Rec512 := 0#512
  dstRes : Rec512 := 0#512
  /-- destination sectors in which some bytes have landed: which of the 64, as bits, and whether any came from a poisoned sector (R100) -/
  cov : NMap (Nat × Bool) := []
  /-- a cancel is on its way to the streamers (R104) -/
  cancelReq : Bool := false
  /-- the channel's stage limits when its segments were sent (R86, R103) -/
  lo : Nat := 1
  hi : Nat := 8
deriving DecidableEq, Repr

/-- An engine command in a queue (R255, R259). -/
structure MxCmd where
  /-- the model's number of the command, unique -/
  uid : Nat := 0
  /-- the tile and the context of the issuing stream and the number of the fork, none for a follow-on: the stream's accesses with lower numbers
  come before it (R291) -/
  fork : Option (Nat × Fin 8 × Nat) := none
  /-- the mx form: its sub5 (R259) -/
  sub : Nat
  a : Word
  /-- the b value with the fields that a prefix has replaced (R262, R271), and as the register held it (R260) -/
  b : Word
  b0 : Word := 0#64
  notify : Option Nat := none
  tenant : Nat := 0
  launch : Nat := 0
  /-- the model's own: the partition of its launch, 16 for none (R440; log 89) -/
  pid : Nat := 16
  /-- issuing activation, 0 for a follow-on or a bay member (R258) -/
  act : Nat := 0
  prio : Nat := 0
  /-- rounding mode captured at issue for mx.rd (R271) -/
  mode : RMode := .rne
  /-- leave: 0 not needed or granted, 1 requested (R256) -/
  wantsLeave : Bool := false
  /-- tokens it holds and where they came from: the pool, or the activation's hold -/
  tokens : Nat := 0
  fromHold : Bool := false
  started : Bool := false
  /-- the mx.bay it belongs to: issuer tile and number (R278) -/
  bay : Option (Nat × Nat) := none
  /-- the latch buffer that its last step uses: false for buffer 0 (R266) -/
  lastBuf : Option Bool := none
  /-- flags and poison it raised, for its notification (R260) -/
  flags : Flags := 0#5
  poison : Bool := false
  /-- tile word of the issuing tile within its partition, for NaN payloads (R186) -/
  core : Nat := 0
deriving DecidableEq, Repr

/-- A matrix engine half (R250 to R254). -/
structure Engine where
  /-- command queue, 8 entries (11, R255); reset empty -/
  queue : List MxCmd := []
  /-- commands issued and not yet entered, oldest first (11, R255); reset empty -/
  entering : List MxCmd := []
  /-- sticky engine flags, 5 bits (11, R263, R276); reset 0 -/
  flags : Flags := 0#5
  /-- NaN origin and nanv (11, R276); reset none -/
  origin : Option (BitVec 22) := none
  /-- mx.cfg: slot map address, 20 bits (11, R268); reset 0 -/
  slotMap : Nat := 0
  /-- mx.cfg: rowoff, 9 bits (11, R268); reset 0 -/
  rowoff : Nat := 0
  /-- mx.cfg: kofs, 16 bits (11, R268); reset 0 -/
  kofs : Nat := 0
  /-- B latch tags of the two buffers: tenant and step offset, none when invalid (11, R252); reset invalid -/
  latch0 : Option (Nat × Nat) := none
  latch1 : Option (Nat × Nat) := none
  /-- what the two buffers hold: the 256 bytes of lane 0's block of the step, then lane 1's, and so on (11, R252); reset empty -/
  latchB0 : List Byte := []
  latchB1 : List Byte := []
  /-- poison bits of the accumulator rows (11, R253); reset 0 -/
  accPoison : BitVec 160 := 0#160
deriving DecidableEq, Repr

/-- An mx.bay in progress: its issuer, its command, and the members that have completed and folded (R278 to R280). -/
structure BayOp where
  uid : Nat
  tile : Nat
  cmd : MxCmd
  done : List Nat := []
  folded : List Nat := []
deriving DecidableEq, Repr

/-- A publication on its way (R139, R144). -/
structure Pub where
  slot : Nat
  payload : List Byte
  poison : List Nat
  tenant : Nat
  launch : Nat
  /-- the model's own: the partition of its launch, 16 for none (R440; log 89) -/
  pid : Nat := 16
  writer : BitVec 11
  host : Bool
  reflexSide : Bool
  /-- key of the sending tile, 4096 + function for the host, and the model's number of its release, rising (R147) -/
  src : Nat := 0
  seq : Nat := 0
  /-- cycle in which its staging completed (R139) -/
  staged : Nat := 0
deriving DecidableEq, Repr

/-- A tm.get or tm.age on its way to the Transom (R141, R143). -/
structure TmReq where
  tile : Nat
  c : Fin 8
  sh : Fin 3
  act : Nat
  tenant : Nat
  reflexSide : Bool
  /-- number of the pending value of register a -/
  id : Nat
  slot : Nat
  get : Bool
  /-- destination and payload bytes, as the window check at issue found them -/
  dst : Nat := 0
  size : Nat := 0
  word : Word
deriving DecidableEq, Repr

/-- A contribution to a combine (R365, R366). -/
structure CmbPkt where
  op : Nat
  i32 : Bool
  value : Word
  owner : Nat
  ownerWord : BitVec 11
  chan : Nat
  count : Nat
  id : Nat
  tenant : Nat
  launch : Nat
  /-- the model's own: the partition of its launch, 16 for none (R440; log 89) -/
  pid : Nat := 16
  src : Nat
  n : Nat := 1
  /-- to a tile of a seized bay, from its seizing handlers (R378) -/
  wicket : Bool := false
deriving DecidableEq, Repr

/-- An open entry of a combine unit (R366). -/
structure CmbEntry where
  first : CmbPkt
  value : Word
  n : Nat
  mismatch : Bool := false
deriving DecidableEq, Repr

/-- What an out-buffer item sends (R311, R312). -/
inductive OutKind where
  | msgs (ms : List Msg)
  | host (m : Msg)
  | copy (x : Transfer)
  | pub (p : Pub)
  | cmb (p : CmbPkt)
  | bay (c : MxCmd)
  | reqStep (word : Word)
  | reqFault (row code : Nat)
deriving DecidableEq, Repr

/-- An out-buffer item (R311). -/
structure OutItem where
  act : Nat
  bytes : Nat
  kind : OutKind
deriving DecidableEq, Repr

/-- What a tile keeps for each holder of it: index 0 the whole tile or half A, 1 half B, 2 the Wicket. -/
structure Share where
  /-- the launch that holds the share: partition identifier (13, R302; 18, R412); reset none -/
  pid : Option Nat := none
  /-- out-buffer items, oldest first; 32 items and 4096 bytes on a whole tile (13, R311); reset empty -/
  out : List OutItem := []
  /-- sequence counter, 21 bits (13, R304); reset 0 -/
  seq : Nat := 0
  /-- Sent and Received counts, 64 bits each (13, R327); reset 0 -/
  sent : Nat := 0
  received : Nat := 0
  /-- bay-remote mark (05, R125); reset false -/
  mark : Bool := false
  /-- bay mask, 16 bits (05, R120); reset 0 -/
  bayMask : BitVec 16 := 0#16
  /-- dispatch hold (14, R336); reset false -/
  hold : Bool := false
  /-- issue weight, 1–15 (14, R333; 18, R412); reset 1, DESIGN CHOICE (log 3) -/
  weight : Nat := 1
  /-- signed issue deficit and vector deficit (14, R333, R334); reset 0 -/
  issueD : Int := 0
  vecD : Int := 0
  /-- the context that issued last, of this tenant (14, R333); reset 7 -/
  last : Fin 8 := 7
deriving DecidableEq, Repr

/-- An operation queued at a tile's port thread (R318). -/
inductive PortOp where
  | remote (o : RemoteOp)
  | put (m : Msg)
  | arrive (m : Msg)
  /-- the data of a tm.get, with the positions of poisoned bytes, and its reply -/
  | land (c : Fin 8) (sh : Fin 3) (id dst : Nat) (bytes : List Byte) (bad : List Nat) (r : Reply)
deriving DecidableEq, Repr

/-- A bay-remote access without a reply or an acknowledgement: its context, the share that issued it, its number, and whether it is a load
(R124). -/
structure RemoteAcc where
  c : Fin 8
  sh : Fin 3 := 0
  id : Nat
  load : Bool := false
deriving DecidableEq, Repr

/-- One of the 2048 barrier counters (R324). -/
structure Barrier where
  count : Nat := 0
  gen : Nat := 0
  grp : Nat := 0
deriving DecidableEq, Repr

/-- A tile, a translation core or the system core (R9, R12, R19, R20). -/
structure Tile where
  /-- the 8 hardware contexts with two register halves each (01, R9; 07, R161) -/
  ctxs : Vector Ctx 8 := Vector.replicate 8 {}
  /-- shares of the tile: whole or half A, half B, Wicket (05, R107; 18, R416) -/
  shares : Vector Share 3 := Vector.replicate 3 {}
  /-- the tile is held in halves (05, R107; 18, R412); reset false -/
  split : Bool := false
  /-- handler table, 64 entries of 16 bytes (13, R302); reset 0 -/
  handlers : Vector Handler 64 := Vector.replicate 64 {}
  /-- inbox: queued messages, oldest first, 128 entries; spawns queue as channel 64 (13, R305, R309); reset empty -/
  inbox : List Msg := []
  /-- port thread queue, 16 operations (13, R318); reset empty -/
  portQ : List PortOp := []
  /-- copy channels 0–15 (04, R88); reset as launch start -/
  chans : Vector CopyChan 16 := Vector.replicate 16 {}
  /-- Wicket copy channels 0–3 (04, R88); reset as launch start -/
  wchans : Vector CopyChan 4 := Vector.replicate 4 {}
  /-- TLB, 64 entries (03, R64); reset empty, DESIGN CHOICE (log 3) -/
  tlb : Vector (Option TlbEntry) 64 := Vector.replicate 64 none
  /-- TLB replacement pointer, 6 bits (03, R67); reset 0, DESIGN CHOICE (log 3) -/
  tlbPtr : Fin 64 := 0
  /-- resource cache: copies tagged by partition's launch and index, most recent first, 64 entries (03, R58); reset empty -/
  rcache : List ((Nat × Nat) × Rec512) := []
  /-- read cache lines, most recent first, 256 lines in 64 sets of 4 (05, R131); reset empty -/
  rdcache : List RLine := []
  /-- bound registers bnd.0–bnd.63, 128 bits each (17, R397); reset 0 -/
  bnd : Vector Bound 64 := Vector.replicate 64 {}
  /-- bndflag, 64 bits (17, R403); reset 0 -/
  bndflag : Word := 0#64
  /-- grpslot.0–3 of the two tenants, 64 bits each: 0–3 whole or half A, 4–7 half B (13, R323); reset 0 -/
  grpslot : Vector Word 8 := Vector.replicate 8 0#64
  /-- barrier counters with a count, 2048 each of the tile's two tenants: key tenant half × 2048 + b (13, R324); reset 0 -/
  barriers : NMap Barrier := []
  /-- matrix engine halves: whole or half A, half B, Wicket queue (11, R255, R269); reset zero -/
  engines : Vector Engine 3 := Vector.replicate 3 {}
  /-- combine unit entries, 64 (15, R366); reset empty -/
  combine : List CmbEntry := []
  /-- four timers (16, R372); reset disabled -/
  timers : Vector Timer 4 := Vector.replicate 4 {}
  /-- a transcendental burst: cycle of the last transcendental start while it holds leave (10, R244); reset none -/
  burst : Option Nat := none
  /-- a burst's request is queued (10, R244; 14, R338); reset false -/
  burstReq : Bool := false
  /-- the burst draws on the bay's reserve (10, R244; 14, R340); reset false -/
  burstRes : Bool := false
  /-- the activation whose hold lent the burst its token, 0 for none (14, R343); reset 0 -/
  burstAct : Nat := 0
  /-- a burst of seizing handlers while it holds its token: cycle of their last transcendental start, and the activation whose hold lent it, 0 for
  the reserve (10, R244; 14, R340, R343); reset none -/
  rburst : Option (Nat × Nat) := none
  /-- the context that last started a vector instruction (10, R216); reset 7, DESIGN CHOICE (log 3) -/
  vlast : Fin 8 := 7
  /-- length of the stored launch code: whole or half A, half B, Wicket (19, R436); reset 0 -/
  codeLen : Vector Nat 3 := Vector.replicate 3 0
  /-- invalidations of resource entries not yet acknowledged: partition, index and the old entry (03, R69, R70); reset none -/
  inval : List (Nat × Nat × Rec512) := []
  /-- bay-remote accesses without a reply or an acknowledgement (05, R124, R125); reset none -/
  acks : List RemoteAcc := []
  /-- tenant served when both were able to issue, and to start a vector instruction (14, R333, R334); reset 1 -/
  lastTenant : Bool := true
  lastVTenant : Bool := true
  /-- next window offset of the B-store refill after a restore, of each share (18, R420); reset none -/
  refill : Vector (Option Nat) 3 := Vector.replicate 3 none
  /-- 1 + the virtual network of the message that entered the inbox last in this cycle, 0 for none (14, R330); reset 0 -/
  inNet : Nat := 0
  /-- a context has issued, and a vector instruction has started, in this cycle (14, R333, R334); reset false -/
  slotUsed : Bool := false
  vslotUsed : Bool := false
  /-- the tile has bound an item in this cycle (14, R331); reset false -/
  didBind : Bool := false
  /-- in the translation core of a reflex bay, the physical bounds of the reflex partition: its first tile and its number of tiles (01, R19);
  reset none -/
  bounds : Option (Nat × Nat) := none
deriving DecidableEq, Repr

/-- Where a global access comes from: the context, whose streams are its agents (R282), and the partition. -/
structure Src where
  tile : Nat
  c : Fin 8
  pid : Nat
deriving DecidableEq, Repr

/-- What a global access does at its slice (R63, R84). -/
inductive SliceWhat where
  /-- a scalar load: the keys of its bytes, in order (R61) -/
  | load (id : Nat) (addrs : List Nat)
  /-- a store: each byte with the mask of the bits it writes (R61, R247) -/
  | store (cells : List (Nat × Byte × Byte))
  /-- a global atomic: the keys of its bytes, in order (R128) -/
  | amo (id : Nat) (op : Nat) (w64 : Bool) (addrs : List Nat) (v cmp : Word)
  /-- an inbound host write (R293) -/
  | host (fn : Fin 16) (cells : List (Nat × Byte × Byte))
  /-- a fence's probe (R296) -/
  | probe (slice : Nat)
deriving DecidableEq, Repr

/-- A part of a global access, within one page: its first key and its bytes, whether its kind is S, and its policy (R55, R61, R295). -/
structure PathPart where
  key : Nat
  n : Nat
  strong : Bool := false
  nc : Bool := false
  rc : Bool := false
deriving DecidableEq, Repr

/-- A global access on its way to a slice: its issuer, what it does, and the parts that follow their own page (R54, R55). -/
structure SliceOp where
  src : Src
  what : SliceWhat
  parts : List PathPart := []
  /-- of the vector stream (R285) -/
  vec : Bool := false
  /-- the model's number of its issue, rising (R285), and the order point of its stream (R286) -/
  seq : Nat := 0
  after : Nat := 0
deriving DecidableEq, Repr

/-- An outbound write to the host window that the port has not accepted: each byte with the mask of the bits it writes (R247, R294). -/
structure OutWrite where
  src : Src
  cells : List (Nat × Byte × Byte)
  strong : Bool := false
  vec : Bool := false
  seq : Nat := 0
  after : Nat := 0
deriving DecidableEq, Repr

/-- A resident line of the shared cache (R82, R83): its bytes are those of main memory. -/
structure L2Line where
  line : Nat
  dirty : Bool
  /-- every byte is present; else those at the offsets written since the allocation (R63) -/
  full : Bool := true
  written : List Nat := []
  /-- sectors that one write has covered whole since the allocation, of a line that is not yet filled (R63, R83) -/
  whole : List Nat := []
  /-- the sectors 0 to 3 of the line that are poisoned (R83) -/
  poison : List Nat := []
deriving DecidableEq, Repr

/-- A leave request (R338, R339). -/
structure LvReq where
  cost : Nat
  prio : Nat
  cycle : Nat
  tileIdx : Nat
  /-- 0 lv.hold, 1 mx.mma, 2 copy, 3 burst (R339 key 4) -/
  kind : Nat
  tile : Nat
  /-- the activation that asks, for the waits of R341; 0 when none -/
  act : Nat
  /-- number of the activation, the command or the transfer that is to be granted -/
  key : Nat
deriving DecidableEq, Repr

/-- A seize request at a Wicket unit: issuing tile, seize word, argument word, cycle of its issue (R379). -/
structure SeizeReq where
  tile : Nat
  word : Word
  arg : Word
  cycle : Nat
  /-- a wkt.rel, which reaches the unit behind the requests sent before it (R383, R386) -/
  rel : Bool := false
deriving DecidableEq, Repr

/-- A bay: its leave controller and its Wicket unit (R337 to R340, R376 to R384). -/
structure Bay where
  /-- pool of power tokens (14, R337; 19, R458); reset 125: DESIGN CHOICE (log 4) -/
  pool : Nat := 125
  /-- tokens of the pool not free (14, R339); reset 0 -/
  used : Nat := 0
  /-- requests waiting, in arrival order (14, R339); reset empty -/
  lvq : List LvReq := []
  /-- tokens of the reserve of 176 that are granted (14, R340); reset 0 -/
  resUsed : Nat := 0
  /-- Wicket record, 64 bytes (16, R376); reset 0 -/
  wrec : Rec512 := 0#512
  /-- a disarming waits for the release (16, R377, R379); reset false -/
  disarm : Bool := false
  /-- seized (16, R380); reset false -/
  seized : Bool := false
  /-- release pending: wkt.rel has arrived (16, R383); reset false -/
  relPending : Bool := false
  /-- seizure number (16, R379); reset 0 -/
  seizureNo : Nat := 0
  /-- sbrem (16, R384); reset 0 -/
  sbrem : Nat := 0
  /-- seize requests on the Wicket line (16, R379); reset empty -/
  reqs : List SeizeReq := []
  /-- issuer of the seizure in force: tile, notify channel, launch's partition (16, R383); reset none -/
  issuer : Option (Nat × Nat) := none
  /-- cycle of the seizure's freeze, for the cycles charged (16, R383); reset 0 -/
  since : Nat := 0
  /-- Wicket unit's Sent count (13, R327); reset 0 -/
  sent : Nat := 0
  /-- map of bay tile indices to physical positions: the position the spare replaces (01, R11); reset none -/
  spared : Option Nat := none
  /-- degraded (01, R11); reset false -/
  degraded : Bool := false
deriving DecidableEq, Repr

/-- The role of a Transom buffer (R138). -/
inductive Role where
  | free | writing | newest | old
deriving DecidableEq, Repr

/-- One of the four buffers of a slot: its payload bytes lie in `State.mem` (R133, R136, R138). -/
structure TBuf where
  role : Role := .free
  pins : Nat := 0
  hdr : Rec512 := 0#512
deriving DecidableEq, Repr

/-- A Transom slot (R133). -/
structure TSlot where
  /-- configuration, 512 bits (06, R134); reset 0 -/
  cfg : Rec512 := 0#512
  /-- four buffers: role, pins, header (06, R136, R138); reset FREE -/
  bufs : Vector TBuf 4 := Vector.replicate 4 {}
  /-- version counter, 64 bits (06, R137); reset 0 -/
  version : Word := 0#64
  /-- notification target: tile key, channel, tenant, tile word, partition (06, R145); reset none -/
  arm : Option (Nat × Nat × Nat × BitVec 11 × Nat) := none
  /-- publications staged and not yet writing, in order of staging (06, R139); reset empty -/
  staged : List Pub := []
  /-- the publication that is writing (06, R138, R139); reset none -/
  writing : Option Pub := none
  /-- pins in force, oldest first: buffer number, and cycle in which its get was accepted (06, R138, R139); reset none -/
  pinq : List (Fin 4 × Nat) := []
  /-- the cycle of the last commit, and the buffer that was NEWEST before it (06, R138); reset none -/
  swapped : Option (Nat × Option (Fin 4)) := none
deriving DecidableEq, Repr

/-- A KV page counter (R361). -/
structure Kv where
  count : Nat := 0
  tenant : Nat := 0
  last : Nat := 0
deriving DecidableEq, Repr

/-- A req.kv operation at the slices: round and candidate are those of an evict (R361, R362). -/
structure KvOp where
  tile : Nat
  c : Fin 8
  id : Nat
  pid : Nat
  op : Nat
  page : Nat
  tenant : Nat
  round : Nat := 0
  cand : Option Nat := none
deriving DecidableEq, Repr

/-- The batch former's state for a partition (R352 to R361). -/
structure ReqTable where
  /-- request records, 4096 of 64 bytes (15, R352, R353); reset 0 -/
  recs : NMap Rec512 := []
  /-- step counter (15, R355); reset 0 -/
  step : Nat := 0
  /-- batch rows B (15, R363); reset 512, DESIGN CHOICE (log 3) -/
  rows : Nat := 512
  /-- the B that the next step takes over (15, R363); reset none -/
  rowsNext : Option Nat := none
  /-- the record that holds each row (15, R356); reset none -/
  held : NMap Nat := []
  /-- records faulted since the last step (15, R358); reset 0 -/
  faulted : Nat := 0
  /-- stop-token sets 0–7 (15, R363); reset empty -/
  stops : Vector (List Nat) 8 := Vector.replicate 8 []
  /-- step of the last commit of each row (15, R359); reset none -/
  committed : NMap Nat := []
  /-- next admission sequence number (15, R353); reset 0 -/
  admseq : Nat := 0
  /-- records faulted by a reset notice and not yet freed (15, R360); reset none -/
  resetFaults : List Nat := []
  /-- members that received the current slot map: tile and address (15, R358); reset none -/
  members : List (Nat × Nat) := []
  /-- valid rows of the current slot map, 512 bits (15, R357); reset 0 -/
  valid : BitVec 512 := 0#512
  /-- steps and faults released and not yet performed: tile, word or row and code, tenant (15, R355); reset empty -/
  ops : List (Nat × OutKind) := []
  /-- batch former's Sent count (13, R327); reset 0 -/
  sent : Nat := 0
  /-- KV page counters (15, R361); reset 0 -/
  kv : NMap Kv := []
deriving DecidableEq, Repr

/-- A launch as its control block describes it (R56, R302 to R310, R439 to R441). -/
structure Launch where
  num : Nat := 0
  tenant : Nat := 0
  queue : Nat := 0
  /-- base of the resource table and its entry count (R56) -/
  resBase : Nat := 0
  resCount : Nat := 0
  /-- spawn budget (R309) -/
  spawnBudget : Nat := 0
  /-- spawn entries (R306) -/
  spawns : List Nat := []
  /-- keep regions: base, size, activation-atomic (R112) -/
  keeps : List (Nat × Nat × Bool) := []
  /-- group table (R322) -/
  groups : List (BitVec 512) := []
  /-- upper-quarter flag (R109) -/
  uq : Bool := false
  reflex : Bool := false
  /-- Wicket keep layout, launch-area bytes, Wicket code and weights of a reflex launch (R377, R378, R435) -/
  wkeeps : List (Nat × Nat × Bool) := []
  wshapes : List Byte := []
  wcode : List Byte := []
  weights : List (Nat × List Byte) := []
  /-- binds no further items: its queue is torn down (R431); killed -/
  torn : Bool := false
  killed : Bool := false
  /-- messages moved to the dead-message area (R328) -/
  dead : Nat := 0
  /-- the sums of the last sweep that found it idle, and the cycle of the last sweep (R328) -/
  lastSweep : Option (Nat × Nat) := none
  sweepAt : Nat := 0
  /-- a barrier over the whole of a marked bay has completed: bays (R125) -/
  bayBarriers : List Nat := []
  /-- Sent count of the Transom for the launch (R327) -/
  transomSent : Nat := 0
  /-- host messages counted as sent (R327) -/
  hostSent : Nat := 0
  /-- tiles drained when it was admitted: they bind nothing for it (R347) -/
  drained : List Nat := []
deriving DecidableEq, Repr

/-- What a save keeps of one tile of a partition, as structured data in place of the bytes of R418: keys of its bytes and sectors are
relative to the tile, and its own code comes along. -/
structure TileImage where
  logical : Nat
  ctxs : Vector Ctx 8
  share : Share
  engine : Engine
  handlers : Vector Handler 64
  inbox : List Msg
  chans : Vector CopyChan 16
  bnd : Vector Bound 64
  bndflag : Word
  grpslot : Vector Word 8
  barriers : NMap Barrier
  combine : List CmbEntry
  /-- resource table cache tags, most recent first, and the requests for leave of its activations -/
  rtags : List (Nat × Nat)
  asks : List LvReq
  /-- the half images of R160, in order of context and half -/
  halves : List (List Byte)
  code : List Byte
  /-- dirty scratchpad lines and the launch area, and their poisoned sectors -/
  spad : List Host.Cell
  spadLines : List Nat
  spadPoison : List Nat
  /-- accumulators -/
  acc : List Host.Cell
deriving DecidableEq, Repr

/-- A unit of a shutter: bay, channel, mode 0 run, 1 checkpoint, 2 discard, and whether it has ended (R423, R425). -/
structure ShutterUnit where
  bay : Nat
  chan : Nat
  mode : Nat
  ended : Bool := false
deriving DecidableEq, Repr

/-- A shutter, in progress or ended (R423 to R425). -/
structure Shutter where
  deadline : Nat
  units : List ShutterUnit
  /-- device time of vacancy, once vacant -/
  vacancy : Nat := 0
deriving DecidableEq, Repr

/-- A partition (R412, R432). -/
structure Part where
  /-- partition descriptor, 64 bytes (18, R412) -/
  desc : Rec512
  /-- state: 1 made, 3 halting to 10 vacant (18, R432); 1 when made; 2 is 1 under a dispatch hold -/
  state : Nat := 1
  /-- the launch it holds (19, R440) -/
  launch : Option Launch := none
  /-- next launch number (19, R440); 1 when made -/
  nextLaunch : Nat := 1
  /-- dispatch hold (14, R336) -/
  hold : Bool := false
  /-- saved image, whether it lies in the shadow store, and the paused transfers and mx.bay operations with it (18, R418, R419, R427) -/
  image : List TileImage := []
  inShadow : Bool := false
  imageTransfers : List Transfer := []
  imageBay : List BayOp := []
  shutter : Option Shutter := none
  req : ReqTable := {}
deriving DecidableEq, Repr

/-- A part.swap in progress: who leaves, whether to DRAM, who comes and onto which node (R421, R432). -/
structure Swap where
  out : Option Nat
  toDram : Bool
  back : Option Nat
  node : Nat
deriving DecidableEq, Repr

/-- An entry of the physical log or of a virtual error queue (R400, R401). -/
structure ErrEvent where
  dtime : Nat := 0
  loc : Nat := 0
  info : Nat := 0
  ptile : Nat := 0xFFFF
  tenant : Nat := 0
  sev : Nat := 0
  count : Nat := 1
  cause : Nat := 0
  type : Nat
  /-- what the virtual entry holds in place of `ptile` and `loc` (R401) -/
  ltile : Nat := 0xFFFF
  vloc : Option Nat := none
deriving DecidableEq, Repr

/-- A host queue (R439). -/
structure HostQ where
  base : Word := 0#64
  size : Word := 0#64
  tail : Word := 0#64
  head : Word := 0#64
  /-- when the doorbell that submitted each entry was written, by its place (R440) -/
  bells : NMap Nat := []
  /-- a teardown waits for the end of its launches (R431) -/
  tearing : Bool := false
  /-- places of entries that a teardown of the launch they wait for has cancelled (R431, R440) -/
  cancelled : List Nat := []
deriving DecidableEq, Repr

/-- A PCIe function: the registers of its BAR and its queues (R149, R428, R439, R445 to R449). -/
structure Fn where
  /-- inbox window PAYLOAD, 240 bytes (19, R446); reset 0, DESIGN CHOICE (log 3) -/
  payload : List Byte := []
  /-- SENDCTL, 64 bits (19, R446); reset 0, DESIGN CHOICE (log 3) -/
  sendctl : Word := 0#64
  /-- SENDST, 64 bits (19, R446); reset 0, DESIGN CHOICE (log 3) -/
  sendst : Word := 0#64
  /-- sequence counter, 21 bits (13, R304); reset 0 -/
  seq : Nat := 0
  /-- Transom window STAGE, 1024 bytes (06, R149); reset 0, DESIGN CHOICE (log 3) -/
  stage : List Byte := []
  /-- GETADDR, 64 bits (06, R149); reset 0, DESIGN CHOICE (log 3) -/
  getaddr : Word := 0#64
  /-- DMBASE, DMPROD, DMCONS, DMLOST, 64 bits each (17, R393; 19, R448); reset 0 -/
  dmbase : Word := 0#64
  dmprod : Word := 0#64
  dmcons : Word := 0#64
  dmlost : Word := 0#64
  /-- sequence number of dead-message moves (17, R393); reset 0 -/
  dmseq : Nat := 0
  /-- virtual error queue, 64 entries of 32 bytes, oldest first (17, R401); reset empty -/
  eq : List ErrEvent := []
  /-- overflow count, 32 bits (17, R401; 19, R448); reset 0 -/
  eqovf : Nat := 0
  /-- EQDATA, 32 bytes (19, R448); reset 0 -/
  eqdata : BitVec 256 := 0#256
  /-- RQSTAGE, 64 bytes, and RQRES, 64 bits (19, R449); reset 0, DESIGN CHOICE (log 3) -/
  rqstage : Rec512 := 0#512
  rqres : Word := 0#64
  /-- HCBASE, HCSIZE, HCPROD, HCCONS, HCLOST, 64 bits each (19, R447); reset 0 -/
  hcbase : Word := 0#64
  hcsize : Word := 0#64
  hcprod : Word := 0#64
  hccons : Word := 0#64
  hclost : Word := 0#64
  /-- messages the port holds for the host channel, 16 (19, R447); reset empty -/
  hcheld : List Msg := []
  /-- host queues 0–7 (19, R439); reset 0 -/
  queues : Vector HostQ 8 := Vector.replicate 8 {}
  /-- virtual inbox, 64 entries of 16 bytes: type, count, data (18, R428); reset empty -/
  vin : List (Nat × Nat × Nat) := []
  /-- VICONS and the inbox's lost count (18, R428; 19, R445); reset 0 -/
  vicons : Word := 0#64
  vilost : Nat := 0
  /-- MSI-X vectors raised, latest first (18, R428; 19, R451); reset none -/
  vectors : List Nat := []
  /-- paused (18, R429); reset false -/
  paused : Bool := false
  /-- its partitions are all saved (18, R429); reset false -/
  saved : Bool := false
  /-- frozen by a protection violation (17, R394); reset false -/
  frozen : Bool := false
  /-- completions of the reads of its BAR, latest first: the value, or none for Unsupported Request (17, R394; 19, R445); reset none -/
  reads : List (Option Word) := []
  /-- a reset is in progress (18, R430); reset false -/
  resetting : Bool := false
  /-- the tenant's wear total, wearacct (14, R345; 17, R403); reset 0 -/
  wearacct : Nat := 0
  /-- outbound host-window writes the port has not accepted, in order of issue (12, R294); reset empty -/
  outbound : List OutWrite := []
deriving DecidableEq, Repr

/-- A page move (R76, R77): the page's mapping onto the destination, as its attribute word gives it. -/
structure Move where
  src : Nat
  dst : Nat
  size : Nat
  tenant : Nat
  entry : TlbEntry
  round : Nat
  /-- rewrite bitmap: lines written since the exchange (R76) -/
  bits : List Nat
  frozen : Bool
  /-- lines that the round in progress recopies (R77) -/
  todo : List Nat := []
  converged : Bool := false
  /-- mappings that the freeze has removed from TLBs: tile and entry (R77) -/
  gone : List (Nat × TlbEntry) := []
deriving DecidableEq, Repr

/-- A sealed delta of the primary (R453): lines of reflex scratchpads and accumulators with their bytes and poisoned sectors, timer states, queued
messages. -/
structure Delta where
  torn : Bool
  overfull : Bool
  lines : List (Nat × List Byte × List Nat)
  timers : List (Nat × Vector Timer 4)
  inbox : List (Nat × List Msg)
deriving DecidableEq, Repr

/-- The system core's registers and records (R345, R376, R400, R450 to R460). -/
structure Sys where
  /-- physical log, 256 entries on die, oldest first (17, R400); reset empty -/
  plog : List ErrEvent := []
  /-- overflow region: size in entries and its entries (17, R400); reset size 0, DESIGN CHOICE (log 4) -/
  plogOvfSize : Nat := 0
  plogOvf : List ErrEvent := []
  plogLost : Nat := 0
  /-- producer and consumer index of the physical log, 64 bits each (19, R448; log 87); reset 0 -/
  plogProd : Nat := 0
  plogCons : Nat := 0
  /-- EQDATA of the physical log window, 32 bytes (19, R448); reset 0 -/
  plogData : BitVec 256 := 0#256
  /-- mailbox MBREQ, 128 bytes; MBST; MBRES, 64 bytes (19, R450); reset 0, DESIGN CHOICE (log 3) -/
  mbreq : List Byte := []
  mbst : Word := 0#64
  mbres : Rec512 := 0#512
  /-- power cap in units of 0.25 W (19, R458); reset 1280, DESIGN CHOICE (log 4) -/
  cap : Nat := 1280
  /-- WAKE: req, asleep, waking (17, R404); reset 0 -/
  asleep : Bool := false
  waking : Bool := false
  /-- BOOTST (19, R455); reset 1 -/
  bootst : Nat := 1
  /-- tenant that holds the wake grant of the boot configuration (19, R455); reset 0, DESIGN CHOICE (log 4) -/
  wakeTenant : Nat := 0
  /-- poison mode of the boot configuration: true record mode (01, R16; 03, R79); reset true, DESIGN CHOICE (log 4) -/
  recordMode : Bool := true
  /-- peer word: role, control timer, its tile, epoch (19, R452); reset detached -/
  role : Nat := 0
  ctimer : Nat := 0
  ctile : Nat := 0
  epoch : Nat := 0
  /-- peer status: role, epoch, misses, torn or overfull periods (19, R452); reset 0 -/
  peerRole : Nat := 0
  peerEpoch : Nat := 0
  misses : Nat := 0
  torn : Nat := 0
  /-- a heartbeat of the primary has arrived since the last edge (19, R454); reset false -/
  beat : Bool := false
  /-- heartbeats sent to the peer: role, epoch, edge index, device time (19, R452); reset none -/
  beatsOut : List (Nat × Nat × Nat × Nat) := []
  /-- edges of the control timer whose heartbeat, seal and count are still to come, by edge index (19, R452); reset none -/
  edgesDue : List Nat := []
  /-- sealed deltas not yet committed, oldest first (19, R453); reset none -/
  deltas : List Delta := []
  /-- measurement registers 0–7, 256 bits each (19, R457); reset 0 -/
  meas : Vector (BitVec 256) 8 := Vector.replicate 8 0#256
  /-- entries of the admission log (19, R457); reset 0 -/
  admlog : Nat := 0
  /-- monotonic fuses burnt, of 4096 (19, R456); reset 0, DESIGN CHOICE (log 90) -/
  fuses : Nat := 0
  /-- next leaf index of the identity key (19, R456); reset 0, DESIGN CHOICE (log 90) -/
  leaf : Nat := 0
  /-- replies to quote requests: registers, length of the admission log, nonce, leaf index, signature (19, R457); reset none -/
  quotes : List (List (BitVec 256) × Nat × BitVec 256 × Nat × List Byte) := []
  /-- lifetime records by physical tile word (14, R346); reset stress 1, else 0 -/
  life : NMap Rec512 := []
  /-- device times of the corrected errors of the last hour, by physical tile word (14, R347); reset none -/
  corrected : NMap (List Nat) := []
  /-- suspended (19, R460); reset false -/
  suspended : Bool := false
  /-- page moves (03, R77); reset none -/
  moves : List Move := []
  /-- frames posted for scrubbing (03, R75); reset none -/
  scrubs : List Nat := []
  /-- sector entries of the poison records are exhausted: quarantined frames, and the uncontained error (03, R80); reset none -/
  quar : List Nat := []
  uncontained : Bool := false
deriving DecidableEq, Repr

/-- Why the machine stops. -/
inductive Fault where
  /-- `step` or `exec` on a state whose `cur` names no tile or core of the device. Safe: no reachable state has it. -/
  | noCore
deriving DecidableEq, Repr

/-- Why a meaning refuses. -/
inductive Refusal where
  /-- raised by an arm of `exec` that has no meaning yet. Safe. -/
  | notModelled (mnemonic : String)
  /-- raised by an event whose premise does not hold in this state: the device performs no such event here. Safe. -/
  | noSuchEvent (mnemonic : String)
deriving DecidableEq, Repr

/-- The whole device. -/
structure State where
  /-- tile cycles since reset (00, R5); reset 0 -/
  cycle : Nat := 0
  /-- device time at cycle 0, nanoseconds, modulo 2^64 (00, R6); reset 0, DESIGN CHOICE (log 3) -/
  dtimeBase : Nat := 0
  /-- while an exchange has set device time back: the value at which it stands until the count has passed it (00, R6; 16, R372; log 85); reset 0 -/
  dtimeHold : Nat := 0
  /-- the model's own: events from outside still to come, the first one next (log 5) -/
  inputs : List Instr := []
  /-- the model's own: the next step looks for an internal event first (log 5) -/
  evTurn : Bool := false
  /-- the model's own: the tile whose turn it is (log 5); reset reasoning tile 0 -/
  cur : Nat := 0
  /-- the model's own: the context that `exec` acts for (log 5) -/
  ctx : Fin 8 := 0
  /-- the model's own: count of activations, loads, free values (log 5, 6) -/
  fresh : Nat := 1
  /-- tiles and cores: reasoning t, reflex 1024 + t, translation core 2048 + bay, system core 3072 (01, R9, R19, R20) -/
  tiles : NMap Tile := []
  /-- every byte store of the device under one key space (01, R12, R16, R17; log 7) -/
  mem : Memory := []
  /-- poisoned 64-byte sectors of any store, by key / 64, rising; of main memory, what the controllers hold (03, R79, R83; 05, R111; 11,
  R100) -/
  poison : List Nat := []
  /-- stored words that a soft error has struck, by key / 8: 1 for one flipped bit, 2 for two (05, R110; 06, R133); reset none -/
  flips : NMap Nat := []
  /-- dirty bits of scratchpad lines, by key / 256, rising (05, R110) -/
  dirty : List Nat := []
  /-- messages on the fabric, in injection order (13, R304, R329) -/
  net : List Msg := []
  /-- combine packets on the fabric (15, R366) -/
  cnet : List CmbPkt := []
  /-- global accesses not yet performed, in arrival order; the write counters of R84 count its stores (03, R63; 04, R84) -/
  sliceQ : List SliceOp := []
  /-- operations on KV page counters not yet performed, in arrival order (15, R361); reset empty -/
  kvq : List KvOp := []
  /-- resident lines of the shared cache, most recently used first (04, R82); reset empty -/
  l2 : List L2Line := []
  /-- open DRAM rows: key controller channel and bank, value row (03, R483); reset none -/
  rows : NMap Nat := []
  /-- released transfers, oldest first (04, R89) -/
  transfers : List Transfer := []
  /-- services frozen by a protection violation: streamer (slice s, or 32 + bay) and tenant (17, R394); reset none -/
  strFrozen : List (Nat × Nat) := []
  /-- the partition whose segment each streamer served last, for the round robin: slice s, or 32 + bay (04, R86); reset 15, DESIGN CHOICE
  (log 3) -/
  strLast : NMap Nat := []
  /-- streamers' latency estimates L: slice s, or 32 + bay (04, R86); reset 40 -/
  lat : NMap Nat := []
  /-- Transom slots, 4096 (06, R133); reset disabled -/
  slots : NMap TSlot := []
  /-- publications released and not yet staged, in arrival order (06, R139) -/
  pubs : List Pub := []
  /-- tm.get and tm.age requests not yet accepted, in order of issue (06, R141); reset none -/
  tmq : List TmReq := []
  /-- commits of mirrored slots sent to the spare: header, payload and its poisoned sectors, oldest first (06, R150); reset none -/
  mirrors : List (Rec512 × List Byte × List Nat) := []
  /-- mx.bay commands released and not yet notified (11, R280); reset none -/
  bayOps : List BayOp := []
  /-- bays: reasoning 0–31, reflex 32–33 (14, R337; 16, R376) -/
  bays : NMap Bay := []
  /-- partitions by pid (18, R412) -/
  parts : NMap Part := []
  /-- swaps in progress, oldest first (18, R421); reset none -/
  swaps : List Swap := []
  /-- lines of reflex scratchpads and accumulators written since the last committed delta, by key / 256, while primary (19, R453); reset none -/
  marks : List Nat := []
  /-- landings in locked SRAM on their way to the peer, oldest first, while primary: line, bytes, poisoned sectors (19, R453); reset none -/
  forwards : List (Nat × List Byte × List Nat) := []
  /-- host functions 0–15 (19, R444) -/
  fns : Vector Fn 16 := Vector.replicate 16 {}
  /-- host messages on their way to the host port (13, R320; 19, R447) -/
  hostq : List Msg := []
  /-- frame-state table: state byte of each 4 KiB frame (03, R72); reset 0 (FREE_DIRTY), DESIGN CHOICE (log 4) -/
  frames : NMap Nat := []
  sys : Sys := {}
deriving DecidableEq, Repr

/-- The machine right after reset: no launch, every context free, nothing in memory. -/
def State.reset : State := {}

end Sys2Proof.Machine
end

