-- ==== Sys2Proof/Machine/Memory.lean ====
section
/-! DEFINITION. Byte memories, sparse tables and address spaces: the one place where byte order and keys are decided. -/

namespace Sys2Proof.Machine

/-- The byte at a key. -/
def Memory.get : Memory → Nat → Byte
  | [], _ => Memory.unlisted
  | (k, v) :: r, a => if a < k then Memory.unlisted else if k = a then v else Memory.get r a

/-- Write one byte, keeping the canonical form. -/
def Memory.set : Memory → Nat → Byte → Memory
  | [], a, v => if v = Memory.unlisted then [] else [(a, v)]
  | (k, w) :: r, a, v =>
    if a < k then (if v = Memory.unlisted then (k, w) :: r else (a, v) :: (k, w) :: r)
    else if k = a then (if v = Memory.unlisted then r else (a, v) :: r)
    else (k, w) :: Memory.set r a v

/-- The n bytes from a key, in rising order. -/
def Memory.bytes (m : Memory) (a : Nat) : Nat → List Byte
  | 0 => []
  | n + 1 => m.get a :: Memory.bytes m (a + 1) n

/-- Write bytes from a key upwards. -/
def Memory.write (m : Memory) (a : Nat) : List Byte → Memory
  | [] => m
  | b :: r => Memory.write (m.set a b) (a + 1) r

/-- Write the bits of each cell's mask. -/
def Memory.writeMasked (m : Memory) : List (Nat × Byte × Byte) → Memory
  | [] => m
  | (a, v, k) :: r => Memory.writeMasked (m.set a ((m.get a &&& ~~~ k) ||| (v &&& k))) r

/-- The number whose little-endian bytes are given (R4). -/
def leNat : List Byte → Nat
  | [] => 0
  | b :: r => b.toNat + 256 * leNat r

/-- The k little-endian bytes of a number (R4). -/
def leBytes (k n : Nat) : List Byte :=
  match k with
  | 0 => []
  | k + 1 => BitVec.ofNat 8 n :: leBytes k (n / 256)

/-- Bits [hi:lo] of a number. -/
def bits (n hi lo : Nat) : Nat := n / 2 ^ lo % 2 ^ (hi + 1 - lo)

/-- A number with bits [hi:lo] replaced. -/
def setBits (n hi lo v : Nat) : Nat :=
  n - bits n hi lo * 2 ^ lo + v % 2 ^ (hi + 1 - lo) * 2 ^ lo

/-- The two's-complement value of the low n bits. -/
def signedOf (n x : Nat) : Int := if x % 2 ^ n < 2 ^ (n - 1) then (x % 2 ^ n : Nat) else ((x % 2 ^ n : Nat) : Int) - 2 ^ n

/-- The n-bit pattern of an integer. -/
def wrapInt (n : Nat) (x : Int) : Nat := (x % (2 ^ n : Nat)).toNat

/-- Rising sets of numbers. -/
def nInsert : Nat → List Nat → List Nat
  | a, [] => [a]
  | a, k :: r => if a < k then a :: k :: r else if a = k then k :: r else k :: nInsert a r
def nErase : Nat → List Nat → List Nat
  | _, [] => []
  | a, k :: r => if a = k then r else k :: nErase a r

/-- Sparse tables. -/
def NMap.get? {α : Type} : NMap α → Nat → Option α
  | [], _ => none
  | (k, v) :: r, a => if k = a then some v else NMap.get? r a
def NMap.set {α : Type} : NMap α → Nat → α → NMap α
  | [], a, v => [(a, v)]
  | (k, w) :: r, a, v => if a < k then (a, v) :: (k, w) :: r else if k = a then (a, v) :: r else (k, w) :: NMap.set r a v
def NMap.erase {α : Type} : NMap α → Nat → NMap α
  | [], _ => []
  | (k, w) :: r, a => if k = a then r else (k, w) :: NMap.erase r a

/-- Keys of the device's stores in `State.mem` (log 7): main memory and device structures have their physical address. -/
def transomKey (slot buf i : Nat) : Nat := 2 ^ 58 + (slot * 4 + buf) * 2048 + i
def codeKey (t off : Nat) : Nat := 2 ^ 59 + t * 2 ^ 16 + off
def hostKey (fn ha : Nat) : Nat := 2 ^ 60 + fn * 2 ^ 64 + ha
def spadKey (t phys : Nat) : Nat := 2 ^ 90 + t * 2 ^ 20 + phys
def bstoreKey (t off : Nat) : Nat := 2 ^ 91 + t * 2 ^ 22 + off
def isSpadKey (k : Nat) : Bool := decide (2 ^ 90 ≤ k) && decide (k < 2 ^ 91)
/-- Keys of the rest of Transom storage, whose contents `TSlot` and `TBuf` hold: a buffer's header, a slot's configuration, its version counter
and notification target (R133). -/
def hdrKey (slot buf : Nat) : Nat := transomKey slot buf 1024
def cfgKey (slot : Nat) : Nat := transomKey slot 0 1088
def counterKey (slot : Nat) : Nat := transomKey slot 0 1152
/-- A key at which the Transom stores a byte. -/
def isTransomKey (k : Nat) : Bool :=
  decide (2 ^ 58 ≤ k) && decide (k < transomKey Config.transomSlots 0 0)
    && (decide ((k - 2 ^ 58) % 2048 < 1088) || (decide ((k - 2 ^ 58) / 2048 % 4 = 0) && decide ((k - 2 ^ 58) % 2048 < 1168)))
def accKey (t row lane : Nat) : Nat := 2 ^ 92 + t * 2 ^ 16 + row * 256 + lane * 4

/-- A line of a reflex tile's scratchpad, or a row of its accumulators (R453): both are 256 bytes. -/
def isReflexLine (l : Nat) : Bool :=
  (decide (spadKey 1024 0 ≤ l * 256) && decide (l * 256 < spadKey 1056 0)) || (decide (accKey 1024 0 0 ≤ l * 256) && decide (l * 256 < accKey 1056 0 0))
/-- A line of the reflex tiles' B-store, which is locked SRAM (R250, R453). -/
def isLockedLine (l : Nat) : Bool := decide (bstoreKey 1024 0 ≤ l * 256) && decide (l * 256 < bstoreKey 1056 0)
/-- A line with its bytes and its poisoned sectors, as a delta holds it. -/
def State.lineImage (s : State) (l : Nat) : Nat × List Byte × List Nat :=
  (l, s.mem.bytes (l * 256) 256, (List.range 4).filter fun j => s.poison.contains (4 * l + j))
/-- Mark written lines for the next delta of a primary, and forward the landings in locked SRAM (R453). -/
def State.mark (s : State) (lines : List Nat) : State :=
  if s.sys.role = 1 then
    { s with
      marks := (lines.filter isReflexLine).foldl (fun m l => nInsert l m) s.marks
      forwards := s.forwards ++ (lines.filter isLockedLine).map s.lineImage }
  else s

/-- One write since the allocation of a line has covered a sector of it whole: the controller's bit for it is past (R63, R83). -/
def L2Line.covers (x : L2Line) (j : Nat) : Bool := x.whole.contains j
/-- The resident copy of a line (R82). -/
def State.cached (s : State) (line : Nat) : Option L2Line :=
  if line * 256 < Config.structuresTop then s.l2.find? fun x => decide (x.line = line) else none
/-- The poison bit of a sector: that of the resident line, else what the controller or the store holds (R79, R83, R111). A line that is not
yet filled shows the controller's bits too, but for the sectors that have been written whole. -/
def State.sectorBit (s : State) (k : Nat) : Bool :=
  match s.cached (k / 4) with
  | some x => x.poison.contains (k % 4) || (!x.full && !x.covers (k % 4) && s.poison.contains k)
  | none => s.poison.contains k
/-- The numbers of the sectors that [a, a + n) touches. -/
def sectorsOf (a n : Nat) : List Nat := if n = 0 then [] else (List.range ((a + n - 1) / 64 + 1 - a / 64)).map fun k => a / 64 + k
/-- Poison of the 64-byte sectors that a range of keys touches (R79, R111); every sector of a quarantined frame reads as poisoned,
and so does all of main memory after an uncontained memory error (R80). -/
def State.sectorPoisoned (s : State) (a n : Nat) : Bool :=
  ((sectorsOf a n).any s.sectorBit)
    || (decide (a < Config.structuresTop) &&
        (s.sys.uncontained || s.sys.quar.any fun f => decide (f * 4096 < a + n) && decide (a < f * 4096 + 4096)))

def State.setPoison (s : State) (sector : Nat) (on : Bool) : State :=
  { s with poison := if on then nInsert sector s.poison else nErase sector s.poison }

/-- Clear the poison of the sectors that [a, a + n) covers whole (R83, R111): sectors a/64 rounded up, and k of them. -/
def clearSectors (p : List Nat) (a n : Nat) : List Nat :=
  p.filter fun k => !(decide (a ≤ k * 64) && decide (k * 64 + 64 ≤ a + n))

/-- The scratchpad lines that [a, a + n) touches become dirty (R110). -/
def markDirty (d : List Nat) (a n : Nat) : List Nat :=
  if n = 0 then d else (List.range ((a + n - 1) / 256 + 1 - a / 256)).foldl (fun acc i => nInsert (a / 256 + i) acc) d

end Sys2Proof.Machine
end

