-- ==== Sys2Proof/Machine/Ops.lean ====
section
/-! DEFINITION. The named operations over the device: geometry, tiles and their shares, windows, events, traps and their
entry, and the issue of one instruction. -/

namespace Sys2Proof.Machine

/-! ### Geometry and agents (R9, R10) -/

/-- Keys of the tiles and cores that exist. -/
def validKey (t : Nat) : Bool :=
  decide (t < 512) || (decide (1024 ≤ t) && decide (t < 1056)) || (decide (2048 ≤ t) && decide (t < 2082)) || decide (t = 3072)
def isReflex (t : Nat) : Bool := decide (1024 ≤ t) && decide (t < 1056)
/-- A translation core or the system core (R19, R66). -/
def isCore (t : Nat) : Bool := decide (2048 ≤ t)
def isSystem (t : Nat) : Bool := decide (t = 3072)
/-- The bay of a tile: reasoning 0–31, reflex 32–33 (R10). -/
def bayOf (t : Nat) : Nat :=
  if t < 512 then (t / 32 / 4) * 8 + t % 32 / 4
  else if isReflex t then 32 + (t - 1024) % 8 / 4
  else t - 2048
/-- The bay tile index (R10). -/
def bayIdx (t : Nat) : Nat :=
  if t < 512 then (t / 32 % 4) * 4 + t % 32 % 4 else ((t - 1024) / 8 % 4) * 4 + (t - 1024) % 8 % 4
/-- The tile of a bay with the given bay tile index (R10). -/
def bayTile (bay i : Nat) : Nat :=
  if bay < 32 then (bay / 8 * 4 + i / 4) * 32 + bay % 8 * 4 + i % 4
  else 1024 + (i / 4) * 8 + (bay - 32) * 4 + i % 4

def State.tile (s : State) (t : Nat) : Tile := (s.tiles.get? t).getD {}
def State.setTile (s : State) (t : Nat) (x : Tile) : State := { s with tiles := s.tiles.set t x }
def State.modTile (s : State) (t : Nat) (f : Tile → Tile) : State := s.setTile t (f (s.tile t))
def State.bay (s : State) (b : Nat) : Bay := (s.bays.get? b).getD {}
def State.setBay (s : State) (b : Nat) (x : Bay) : State := { s with bays := s.bays.set b x }
def State.modBay (s : State) (b : Nat) (f : Bay → Bay) : State := s.setBay b (f (s.bay b))
/-- A buffer's header at reset and after a change of size: the slot number stands in it (R136). -/
def nullHeader (slot : Nat) : Rec512 := BitVec.ofNat 512 (slot % 2 ^ 12 * 2 ^ 148)
def TSlot.blank (slot : Nat) : TSlot := { bufs := Vector.replicate 4 { hdr := nullHeader slot } }
def State.slotT (s : State) (n : Nat) : TSlot := (s.slots.get? n).getD (TSlot.blank n)
def State.setSlotT (s : State) (n : Nat) (x : TSlot) : State := { s with slots := s.slots.set n x }
def State.fn (s : State) (f : Nat) : Fn := s.fns.get (Fin.ofNat 16 f)
def State.modFn (s : State) (f : Nat) (g : Fn → Fn) : State :=
  { s with fns := s.fns.set (f % 16) (g (s.fn f)) (Nat.mod_lt _ (by decide)) }
def State.modSys (s : State) (g : Sys → Sys) : State := { s with sys := g s.sys }
def State.modPart (s : State) (pid : Nat) (g : Part → Part) : State :=
  match s.parts.get? pid with
  | some p => { s with parts := s.parts.set pid (g p) }
  | none => s

/-- Device time k cycles from now, a 64-bit count of nanoseconds: a cycle is 5/6 ns; time that an exchange has set back stands still until the count
has passed it (R5, R6). -/
def State.dtimeIn (s : State) (k : Nat) : Nat := max ((s.dtimeBase + (s.cycle + k) * 5 / 6) % 2 ^ 64) s.dtimeHold
def State.dtime (s : State) : Nat := s.dtimeIn 0

/-! ### Contexts, halves, activations -/

def Ctx.slot (c : Ctx) (h : Bool) : Slot := if h then c.s1 else c.s0
def Ctx.setSlot (c : Ctx) (h : Bool) (x : Slot) : Ctx := if h then { c with s1 := x } else { c with s0 := x }
def Tile.ctx (t : Tile) (c : Fin 8) : Ctx := t.ctxs.get c
def Tile.setCtx (t : Tile) (c : Fin 8) (x : Ctx) : Tile := { t with ctxs := t.ctxs.set c.val x c.isLt }
/-- The current slot of a context (R161). -/
def State.slotAt (s : State) (t : Nat) (c : Fin 8) : Slot := let x := (s.tile t).ctx c; x.slot x.cur
def State.setSlotAt (s : State) (t : Nat) (c : Fin 8) (x : Slot) : State :=
  s.modTile t fun tl => let k := tl.ctx c; tl.setCtx c (k.setSlot k.cur x)
def State.modSlotAt (s : State) (t : Nat) (c : Fin 8) (f : Slot → Slot) : State := s.setSlotAt t c (f (s.slotAt t c))
/-- The slot, half and activation that `exec` acts for. -/
def State.slot (s : State) : Slot := s.slotAt s.cur s.ctx
def State.setSlot (s : State) (x : Slot) : State := s.setSlotAt s.cur s.ctx x
def State.half (s : State) : Half := s.slot.half
def State.setHalf (s : State) (h : Half) : State := s.setSlot { s.slot with half := h }
def State.modHalf (s : State) (f : Half → Half) : State := s.setHalf (f s.half)
def State.act (s : State) : Act := s.slot.act
def State.modAct (s : State) (f : Act → Act) : State := s.setSlot { s.slot with act := f s.slot.act }

/-- An activation of the reflex tenant on a seized bay (R378). -/
def Slot.seizing (x : Slot) : Bool := x.act.msg.wicket
/-- Which share of the tile a context draws on: 0 whole or half A, 1 half B, 2 Wicket. -/
def State.shareAt (s : State) (t : Nat) (c : Fin 8) : Fin 3 :=
  if (s.slotAt t c).seizing then 2 else if (s.tile t).split && decide (4 ≤ c.val) then 1 else 0
def State.share (s : State) : Fin 3 := s.shareAt s.cur s.ctx
def Tile.share (t : Tile) (i : Fin 3) : Share := t.shares.get i
def Tile.modShare (t : Tile) (i : Fin 3) (f : Share → Share) : Tile :=
  { t with shares := t.shares.set i.val (f (t.share i)) i.isLt }
def State.modShareAt (s : State) (t : Nat) (i : Fin 3) (f : Share → Share) : State := s.modTile t fun x => x.modShare i f
def Tile.engine (t : Tile) (i : Fin 3) : Engine := t.engines.get i
def Tile.modEngine (t : Tile) (i : Fin 3) (f : Engine → Engine) : Tile :=
  { t with engines := t.engines.set i.val (f (t.engine i)) i.isLt }
def State.modEngine (s : State) (t : Nat) (i : Fin 3) (f : Engine → Engine) : State := s.modTile t fun x => x.modEngine i f
/-- What the context issues from now on follows every earlier access of its partition (R284, R286; log 5). -/
def State.orderPoint (s : State) (t : Nat) (c : Fin 8) : State :=
  s.modTile t fun x => x.setCtx c { x.ctx c with after := s.fresh }
/-- The reflex side (R135, R378). -/
def State.reflexSide (s : State) : Bool := isReflex s.cur || s.slot.seizing
def State.pid (s : State) : Option Nat := ((s.tile s.cur).share s.share).pid
def State.pidAt (s : State) (t : Nat) (i : Fin 3) : Option Nat := ((s.tile t).share i).pid
def State.part (s : State) (pid : Option Nat) : Option Part := pid.bind s.parts.get?
def State.launchOf (s : State) (pid : Option Nat) : Launch :=
  ((pid.bind s.parts.get?).bind Part.launch).getD {}
def State.launch (s : State) : Launch := s.launchOf s.pid
/-- Change the launch of a partition, if it has this number (R440). -/
def State.modLaunchOf (s : State) (pid num : Nat) (f : Launch → Launch) : State :=
  s.modPart pid fun p => { p with launch := p.launch.map fun l => if l.num = num then f l else l }
/-- The bay of a tile is armed (R337, R376). -/
def State.armed (s : State) (t : Nat) : Bool := decide (t < 512) && (s.bay (bayOf t)).wrec.getLsbD 0

/-- Partition states in which its contexts are frozen in place or gone (R417, R432). -/
def haltedState (n : Nat) : Bool := (decide (3 ≤ n) && decide (n ≤ 8)) || decide (n = 10)
/-- Work of a share of a tile stands still: its bay is seized by others, its partition is halted, or the array is asleep or suspended
(R381, R417, R459, R460). -/
def State.frozenShare (s : State) (t : Nat) (i : Fin 3) : Bool :=
  (decide (i ≠ 2) && decide (t < 512) && (s.bay (bayOf t)).seized)
    || (match s.part (s.pidAt t i) with | some p => haltedState p.state | none => false)
    || (decide (t < 512) && s.sys.asleep) || s.sys.suspended

/-! ### Partitions and tile words (R10, R411, R414) -/

/-- The rectangle of a buddy node: row, column, rows, columns (R411). -/
def nodeRectBits : List Bool → Nat × Nat × Nat × Nat → Nat × Nat × Nat × Nat
  | [], r => r
  | b :: bs, (r, c, h, w) =>
    if h < w then nodeRectBits bs (r, if b then c + w / 2 else c, h, w / 2)
    else nodeRectBits bs (if b then r + h / 2 else r, c, h / 2, w)
def nodeRect (n : Nat) : Nat × Nat × Nat × Nat :=
  nodeRectBits (((List.range (Nat.log2 n)).map fun i => decide (n / 2 ^ i % 2 = 1)).reverse) (0, 0, 16, 32)

def descNode (d : Rec512) : Nat := bits d.toNat 73 64
def descHalf (d : Rec512) : Nat := bits d.toNat 97 96
def descPid (d : Rec512) : Nat := bits d.toNat 107 104
def descTenant (d : Rec512) : Nat := bits d.toNat 111 108
def descWeight (d : Rec512) : Nat := bits d.toNat 123 120
/-- The reflex partition's descriptor has node 0, which names no node of the tree (R411, R414). -/
def Part.isReflex (p : Part) : Bool := decide (descNode p.desc = 0)
/-- Tiles of a partition in its own logical order (R414). -/
def Part.tiles (p : Part) : List Nat :=
  if p.isReflex then (List.range 32).map (· + 1024)
  else
    let (r, c, h, w) := nodeRect (descNode p.desc)
    (List.range (h * w)).map fun i => (r + i / w) * 32 + c + i % w
def Part.size (p : Part) : Nat :=
  if p.isReflex then 32 else let (_, _, h, w) := nodeRect (descNode p.desc); h * w
def Part.shareIdx (p : Part) : Fin 3 := if descHalf p.desc = 2 then 1 else 0
/-- The tile of a logical number, and back. -/
def Part.tileOf (p : Part) (i : Nat) : Option Nat :=
  if i < p.size then
    (if p.isReflex then some (1024 + i)
     else let (r, c, _, w) := nodeRect (descNode p.desc); some ((r + i / w) * 32 + c + i % w))
  else none
def Part.logical (p : Part) (t : Nat) : Nat :=
  if p.isReflex then t - 1024
  else let (r, c, _, w) := nodeRect (descNode p.desc); (t / 32 - r) * w + (t % 32 - c)
/-- The seizing tile word of a tile of a seized bay (R378). -/
def seizeWord (t : Nat) : BitVec 11 := BitVec.ofNat 11 (bayOf t * 16 + bayIdx t)
/-- tileid: the tile word of a context's tile within its partition (R403). -/
def State.tileWordAt (s : State) (t : Nat) (i : Fin 3) : BitVec 11 :=
  if i = 2 then seizeWord t
  else
    let l := match s.part (s.pidAt t i) with
      | some p => p.logical t
      | none => 0
    BitVec.ofNat 11 ((if Sys2Proof.Machine.isReflex t then 1024 else 0) + l)
def State.tileWord (s : State) : BitVec 11 := s.tileWordAt s.cur s.share
/-- The tile a tile word names for the current context: within its array and partition, or by the seizing words of R378. -/
def State.resolve (s : State) (w : Nat) : Option Nat :=
  if s.share = 2 then
    (if 1024 ≤ w then (if w - 1024 < 32 then some w else none)
     else if w < 512 ∧ w / 16 = bayOf s.cur then some (bayTile (w / 16) (w % 16)) else none)
  else
    match s.part s.pid with
    | none => none
    | some p => if decide (1024 ≤ w) = Sys2Proof.Machine.isReflex s.cur then p.tileOf (w % 1024) else none

/-- The physical tile word, R346: array in bit 15, bay in [14:10], position 0 to 16 in [4:0] (R11). -/
def State.physTile (s : State) (t : Nat) : Nat :=
  if isCore t then 0xFFFF
  else
    let b := bayOf t
    let pos := if (s.bay b).spared = some (bayIdx t) then 16 else bayIdx t
    if b < 32 then b * 2 ^ 10 + pos else 2 ^ 15 + (b - 32) * 2 ^ 10 + pos
/-- The tile that a physical tile word carries, if it carries one. -/
def State.tileOfPhys (s : State) (w : Nat) : Option Nat :=
  let b := if w < 2 ^ 15 then w / 2 ^ 10 else 32 + (w - 2 ^ 15) / 2 ^ 10
  let pos := w % 32
  if 2 ^ 16 ≤ w ∨ w / 32 % 32 ≠ 0 ∨ 16 < pos ∨ 34 ≤ b then none
  else if pos = 16 then (s.bay b).spared.map (bayTile b)
  else if (s.bay b).spared = some pos then none
  else some (bayTile b pos)

/-! ### Windows of the scratchpad (R107, R109, R378) -/

/-- The physical byte of a window address (R107, R110, R378). -/
def State.physOf (s : State) (t : Nat) (i : Fin 3) (ea : Nat) : Nat :=
  if i = 2 then
    (if (s.tile t).split then (if ea < 0x20000 then 0x60000 + ea else 0xE0000 + (ea - 0x20000)) else 0xC0000 + ea)
  else if i = 1 then 0x80000 + ea else ea
def State.spad (s : State) (t : Nat) (i : Fin 3) (ea : Nat) : Nat := spadKey t (s.physOf t i ea)
def State.windowTop (s : State) (t : Nat) (i : Fin 3) : Nat :=
  if i = 2 then 0x40000 else if Sys2Proof.Machine.isReflex t || (s.tile t).split then 0x80000 else 0x100000
/-- First byte of the upper quarter, for a reasoning tile's own window (R107). -/
def State.upperQuarter (s : State) (t : Nat) (i : Fin 3) : Option Nat :=
  if i = 2 ∨ 512 ≤ t then none else if (s.tile t).split then some 0x60000 else some 0xC0000
/-- The keep regions that hold for a share: base, size, activation-atomic (R112, R378). -/
def State.keeps (s : State) (t : Nat) (i : Fin 3) : List (Nat × Nat × Bool) :=
  let l := s.launchOf (s.pidAt t i)
  if i = 2 then l.wkeeps else l.keeps
/-- Indices of the keep regions that [ea, ea + n) touches. -/
def touched (ks : List (Nat × Nat × Bool)) (ea n : Nat) : List (Nat × Bool) :=
  (ks.zipIdx.filter fun k => decide (k.1.1 < ea + n) && decide (ea < k.1.1 + k.1.2.1)).map fun k => (k.2, k.1.2.2)

/-- How an access is checked (R114, R121, R318). -/
inductive AccKind where
  | load | store | engineWrite | remoteStore | put
deriving DecidableEq, Repr

/-- check_window: the reason of the first failing row of R121, rows 1 to 4. `keep` is the handler's set. -/
def State.checkWindow (s : State) (t : Nat) (i : Fin 3) (keep : BitVec 32) (ea : Int) (n : Nat) (k : AccKind) : Option Nat :=
  if ea < 0 ∨ ((s.windowTop t i : Nat) : Int) < ea + n then some 2
  else
    let a := ea.toNat
    let withheld : Bool := match s.upperQuarter t i with
      | some u => decide (u < a + n) && (!(s.launchOf (s.pidAt t i)).uq || s.armed t)
      | none => false
    if withheld then some 3
    else if k = .load ∨ isCore t = true then none
    else if a < 0x1000 then some 4
    else
      let ts := touched (s.keeps t i) a n
      match k with
      | .store => if ts.any fun r => !keep.getLsbD r.1 then some 5 else none
      | .remoteStore => if ts.any fun r => !keep.getLsbD r.1 || r.2 then some 5 else none
      | .put => if ts.any fun r => r.2 then some 5 else none
      | _ => none

/-! ### Writes to a scratchpad: dirty bits, poison, undo log (R110, R111, R115) -/

/-- The undo capacity of a share, and the lines it holds (R117). -/
def State.undoCap (s : State) (t : Nat) : Nat := if (s.tile t).split then 512 else 1024
def State.undoUsed (s : State) (t : Nat) (i : Fin 3) : Nat :=
  (List.finRange 8).foldl (fun n c =>
    if (s.tile t).split ∧ (decide (4 ≤ c.val) ≠ decide (i = 1)) then n
    else n + ((s.tile t).ctx c).s0.act.undo.length + ((s.tile t).ctx c).s1.act.undo.length) 0

/-- The lines of [ea, ea + n) that lie in activation-atomic regions and are not yet logged by the activation (R115). -/
def State.linesToLog (s : State) (t : Nat) (i : Fin 3) (logged : List UndoLine) (ea n : Nat) : List Nat :=
  if n = 0 then [] else
  let lines := (List.range ((ea + n - 1) / 256 + 1 - ea / 256)).map fun k => ea / 256 + k
  lines.filter fun l =>
    ((touched (s.keeps t i) (max ea (l * 256)) (min (ea + n) (l * 256 + 256) - max ea (l * 256))).any fun r => r.2)
      && !(logged.any fun u => decide (u.line = s.spad t i (l * 256) / 256))

/-- Store bytes at a scratchpad key: dirty bits set, poison untouched (R110, R111). -/
def State.storeBytes (s : State) (key : Nat) (bs : List Byte) : State :=
  ({ s with mem := s.mem.write key bs, dirty := markDirty s.dirty key bs.length }).mark (markDirty [] key bs.length)
/-- A landing of bytes with the poison of their source sectors (given as keys/64 of the destination): sectors it covers whole and clean
are cleared, poisoned ones set (R100, R111). -/
def State.landBytes (s : State) (key : Nat) (bs : List Byte) (poisoned : List Nat) : State :=
  let s1 := s.storeBytes key bs
  { s1 with poison := poisoned.foldl (fun p k => nInsert k p) (clearSectors s1.poison key bs.length) }

/-! ### Error events (R400 to R402) -/

/-- The event types that also enter a virtual error queue (R402). -/
def isVirtualEvent (ty : Nat) : Bool := !(ty = 5 || ty = 7 || ty = 8 || ty = 15)

/-- Enter an event in a virtual error queue, coalescing when it is full (R401). -/
def Fn.pushEvent (f : Fn) (e : ErrEvent) : Fn :=
  if f.eq.length < 64 then
    { f with eq := f.eq ++ [{ e with sev := 0, ptile := e.ltile, loc := e.vloc.getD e.loc, ltile := 0xFFFF, vloc := none }] }
  else
    match (f.eq.zipIdx.filter fun x => decide (x.1.type = e.type) && decide (x.1.cause = e.cause)).getLast? with
    | some (x, i) => { f with eq := f.eq.set i { x with count := min (x.count + 1) 0xFFFF } }
    | none => { f with eqovf := f.eqovf + 1 }

/-- Enter an event in the physical log, spilling to the overflow region, then counting losses (R400). -/
def Sys.pushLog (y : Sys) (e : ErrEvent) : Sys :=
  if y.plog.length < 256 then { y with plog := y.plog ++ [e], plogProd := y.plogProd + 1 }
  else if y.plogOvf.length < y.plogOvfSize then { y with plogOvf := y.plogOvf ++ [e], plogProd := y.plogProd + 1 }
  else { y with plogLost := y.plogLost + 1 }

/-- Raise an MSI-X vector, unless the function is paused or its partitions are all saved (R428, R429, R451). -/
def Fn.raise (f : Fn) (v : Nat) : Fn := if f.paused || f.saved then f else { f with vectors := v :: f.vectors }

/-- Post an entry to a virtual inbox: a vector is raised each time an entry is added or a count rises (R428). -/
def Fn.postInbox (f : Fn) (ty data : Nat) : Fn :=
  if f.vin.length < 64 then { f with vin := f.vin ++ [(ty, 1, data)] }.raise 0
  else
    match (f.vin.zipIdx.filter fun x => decide (x.1.1 = ty)).getLast? with
    | some (x, i) => if x.2.1 < 0xFFFF then { f with vin := f.vin.set i (x.1, x.2.1 + 1, x.2.2) }.raise 0 else f
    | none => { f with vilost := f.vilost + 1 }

/-- A corrected error of a tile counts for the hour that follows it (R347). -/
def Sys.countError (y : Sys) (dtime : Nat) (e : ErrEvent) : Sys :=
  if e.type = 5 ∧ e.ptile ≠ 0xFFFF then
    let old := (y.corrected.get? e.ptile).getD []
    { y with corrected := y.corrected.set e.ptile (dtime :: old.filter fun t => decide (dtime < t + 3600000000000)) }
  else y
/-- An entry of the physical log; the physical function's vector 3 is raised with each that the log takes (R400, R451; DEDUCED, log 80). -/
def State.enterLog (s : State) (e : ErrEvent) : State :=
  let s1 := s.modSys fun y => (y.pushLog { e with dtime := s.dtime, ltile := 0xFFFF, vloc := none }).countError s.dtime e
  if s1.sys.plogLost = s.sys.plogLost then s1.modFn 0 fun f => f.raise 3 else s1
/-- An event that concerns no tenant: the physical log alone (R400). -/
def State.logOnly (s : State) (e : ErrEvent) : State := s.enterLog e
/-- Post an event: physical log, and the tenant's virtual queue for the types R402 marks; a queue that becomes non-empty raises a type 3
inbox entry (R428). -/
def State.post (s : State) (e : ErrEvent) : State :=
  let e := { e with dtime := s.dtime }
  let s1 := s.enterLog e
  if isVirtualEvent e.type then
    let f := s1.fn e.tenant
    s1.modFn e.tenant fun g => let g' := g.pushEvent e; if f.eq = [] then g'.postInbox 3 0 else g'
  else s1

/-! ### Soft errors in scratchpads and in the Transom (R110, R133) -/

/-- Whose bytes a stored word of a scratchpad or of the Transom is, and where: the tile and the share, or the slot. -/
structure WordAt where
  kind : Nat
  tenant : Option Nat
  ptile : Nat := 0xFFFF
  ltile : Nat := 0xFFFF
  vloc : Nat
def State.wordAt (s : State) (w : Nat) : WordAt :=
  if isSpadKey (8 * w) then
    let t := (8 * w - 2 ^ 90) / 2 ^ 20
    let a := 8 * w % 2 ^ 20
    let i : Fin 3 := if (s.tile t).split && decide (0x80000 ≤ a) then 1 else 0
    { kind := 1, tenant := (s.part (s.pidAt t i)).map fun p => descTenant p.desc, ptile := s.physTile t,
      ltile := (s.tileWordAt t i).toNat, vloc := if i = 1 then a - 0x80000 else a }
  else
    let n := (8 * w - 2 ^ 58) / 8192
    { kind := 2, tenant := if (s.slotT n).cfg.getLsbD 15 then some (bits (s.slotT n).cfg.toNat 163 160) else none, vloc := n }
/-- The log entry of a word's soft error: a corrected one in the physical log, an uncorrectable one for its tenant too (R402). -/
def State.postWord (s : State) (w : Nat) (two : Bool) : State :=
  let x := s.wordAt w
  let e : ErrEvent := {
    type := (if two then 6 else 5), info := Config.storageKind x.kind, loc := w * 8, sev := (if two then 2 else 1),
    ptile := x.ptile, ltile := x.ltile, vloc := some x.vloc }
  match two, x.tenant with
  | true, some t => s.post { e with tenant := t }
  | _, _ => s.logOnly e
/-- A word that a soft error has struck is read: one flipped bit is corrected and logged; two poison its sector before any data leave. -/
def State.senseWord (s : State) (w : Nat) : State :=
  match s.flips.get? w with
  | none => s
  | some n =>
    let s1 := { s with flips := s.flips.erase w }
    if n = 1 then s1.postWord w false else ({ s1 with poison := nInsert (w / 8) s1.poison }).postWord w true
/-- The words of a list of keys are read. -/
def State.sense (s : State) (keys : List Nat) : State :=
  if s.flips = [] then s else (keys.foldl (fun acc k => nInsert (k / 8) acc) []).foldl State.senseWord s
def State.undoLine (s : State) (key : Nat) : UndoLine :=
  { line := key / 256, bytes := s.mem.bytes key 256, dirty := s.dirty.contains (key / 256),
    poison := (List.range 4).filter fun j => s.poison.contains (key / 256 * 4 + j) }

/-- Entries of the undo log for lines of a window: the log reads them, so soft errors in their words are corrected, or poison their sectors
(R110, R115). -/
def State.undoLines (s : State) (t : Nat) (i : Fin 3) (lines : List Nat) : State × List UndoLine :=
  let s1 := s.sense (lines.flatMap fun l => (List.range 256).map fun k => s.spad t i (l * 256) + k)
  (s1, (lines.map fun l => s1.undoLine (s1.spad t i (l * 256))).reverse)
/-- Log the lines a write touches for the activation of a context; none when the log is full (R115, R117). -/
def State.logLines (s : State) (t : Nat) (c : Fin 8) (ea n : Nat) : Option State :=
  let i := s.shareAt t c
  let new := s.linesToLog t i (s.slotAt t c).act.undo ea n
  if new = [] then some s
  else if s.undoCap t < s.undoUsed t i + new.length then none
  else
    let r := s.undoLines t i new
    some (r.1.modSlotAt t c fun x => { x with act := { x.act with undo := r.2 ++ x.act.undo } })
/-- Words that a write covers whole have new check bits. -/
def freshWords (flips : NMap Nat) (keys : List Nat) : NMap Nat :=
  flips.filter fun f => !((List.range 8).all fun i => keys.contains (8 * f.1 + i))
/-- A soft error strikes a stored word of a scratchpad or of the Transom in this cycle, or none does. -/
def State.strike (s : State) : State :=
  let n := Config.softError s.cycle
  let w := n / 2
  if n = 0 ∨ ¬ (isSpadKey (8 * w) ∨ isTransomKey (8 * w)) then s
  else { s with flips := s.flips.set w (match s.flips.get? w with | some _ => 2 | none => n % 2 + 1) }

/-! ### Messages (R304, R327) -/

/-- The header of a message as 128 bits (R304). -/
def Msg.header (m : Msg) : Nat :=
  m.pmask.toNat + 2 ^ 31 * m.dest.toNat + 2 ^ 42 * (m.chan % 64) + (if m.replayable then 2 ^ 48 else 0)
    + (if m.pmask = 0#30 then 0 else 2 ^ 49) + 2 ^ 50 * m.vnet + 2 ^ 53 * m.source.toNat + 2 ^ 64 * m.kind
    + 2 ^ 68 * m.tenant + 2 ^ 72 * m.body.length + 2 ^ 80 * m.launch + 2 ^ 96 * m.msgid.toNat

/-- Payload word i (R304, R321). -/
def Msg.word (m : Msg) (i : Nat) : Word := BitVec.ofNat 64 (leNat ((m.body.drop (8 * i)).take 8))

/-- The little-endian bytes of payload words. -/
def wordsBody (ws : List Word) : List Byte := ws.flatMap fun w => leBytes 8 w.toNat

/-- A message as a share of a tile sends it: the next sequence number of the launch stands in its msgid (R304). -/
def State.stamp (s : State) (t : Nat) (i : Fin 3) (m : Msg) : Msg :=
  let sh := (s.tile t).share i
  { m with
    src := t, wicket := decide (i = 2) && decide (m.dst < 512), pid := (s.pidAt t i).getD 16
    msgid := BitVec.ofNat 32 (m.source.toNat * 2 ^ 21 + sh.seq % 2 ^ 21) }
/-- Inject a message from a share of a tile: it takes the next sequence number and counts as sent for kinds 0 to 4 (R304, R327). -/
def State.inject (s : State) (t : Nat) (i : Fin 3) (m0 : Msg) : State :=
  let m := s.stamp t i m0
  let s1 := s.modShareAt t i fun x =>
    { x with seq := (x.seq + 1) % 2 ^ 21, sent := if m.kind ≤ 4 then x.sent + 1 else x.sent }
  { s1 with net := s1.net ++ [m] }

/-- A port-thread operation leaves a share of a tile: a bay-remote request on the request network, its answer on the reply network (R119,
R124, R292, R304). -/
def State.sendPort (s : State) (t : Nat) (i : Fin 3) (dst vnet : Nat) (o : RemoteOp) : State :=
  let l := s.launchOf (s.pidAt t i)
  s.inject t i {
    kind := 5, vnet := vnet, launch := l.num, tenant := l.tenant, source := s.tileWordAt t i, dest := s.tileWordAt dst i, dst := dst,
    remote := some o }

/-- The miss message of a context or channel to its bay's translation core. R304 has no kind for it: 7 (R65; DESIGN CHOICE, log 79). -/
def State.sendMiss (s : State) (t : Nat) (i : Fin 3) (tenant va access : Nat) (eng : Bool) (unit xid : Nat) : State :=
  let tag := tenant * 2 ^ 60 + 2 ^ 56 + bayIdx t * 2 ^ 52 + (if eng then 2 ^ 51 + unit else unit * 2 ^ 48) + va / 4096 % 2 ^ 36 * 2 ^ 12
  let w1 := access + (if eng then 8 + xid % 2 ^ 56 * 256 else 0)
  s.inject t i {
    kind := 7, launch := (s.launchOf (s.pidAt t i)).num, tenant := tenant, vnet := 3, source := s.tileWordAt t i, dst := 2048 + bayOf t,
    body := wordsBody [BitVec.ofNat 64 tag, BitVec.ofNat 64 w1] }

/-! ### Taking a trap (R388 to R395) -/

/-- What stops an instruction before it has an effect, or after the part its entry states. -/
inductive Stop where
  /-- it waits for an event; it has had no effect (R34, R333) -/
  | wait (k : WaitOn)
  /-- it waits for an event that this state has set going (R296) -/
  | waitIn (k : WaitOn) (f : State → State)
  /-- a trap; the instruction has had no effect -/
  | trap (t : Trap)
  /-- a trap after the state the entry states for it (R143) -/
  | trapIn (s : State) (t : Trap)
  /-- a trap of an instruction whose checks have left a trace: a use of the resource cache, or errors that a read has found (R58, R110) -/
  | trapOn (f : State → State) (t : Trap)
  | fault (f : Fault)

/-- The scalar and vector streams' actions: a state, or a stop. -/
abbrev Exec := StateT State (Except Stop)

def stop {α : Type} (x : Stop) : Exec α := fun _ => .error x
def trap {α : Type} (code : Nat) (reason : Nat := 0) (faddr : Word := 0#64) : Exec α :=
  stop (.trap { code := code, reason := reason, faddr := faddr })
/-- A check that raises a trap. -/
def check (ok : Bool) (code : Nat) (reason : Nat := 0) (faddr : Word := 0#64) : Exec Unit :=
  if ok then pure () else trap code reason faddr
/-- The illegal-operand trap (R389: faddr is the instruction's word). -/
def illegalOperand {α : Type} : Exec α := trap 0x21
def requireOperand (ok : Bool) : Exec Unit := check ok 0x21
def wait {α : Type} (k : WaitOn := .other) : Exec α := stop (.wait k)
def waitUntil (ok : Bool) (k : WaitOn := .other) : Exec Unit := if ok then pure () else wait k
def update (f : State → State) : Exec Unit := modify f

def statusPP : Word := 1#64
def statusTM : Word := 2#64
def statusNR : Word := 4#64
def statusDZT : Word := 8#64
def statusSIDE : Word := 16#64
def Half.pp (h : Half) : Bool := h.status.getLsbD 0
def Half.tm (h : Half) : Bool := h.status.getLsbD 1
def Half.nr (h : Half) : Bool := h.status.getLsbD 2
def Half.dzt (h : Half) : Bool := h.status.getLsbD 3
def Half.setPP (h : Half) (b : Bool) : Half := { h with status := if b then h.status ||| statusPP else h.status &&& ~~~ statusPP }
def Half.setTM (h : Half) (b : Bool) : Half := { h with status := if b then h.status ||| statusTM else h.status &&& ~~~ statusTM }
def Half.setNR (h : Half) : Half := { h with status := h.status ||| statusNR }

/-- The activation cannot be redelivered any more (R313). -/
def markNonReplayable : Exec Unit := update fun s => s.modHalf Half.setNR

/-- The cause register's value (R391, R403). -/
def causeWord (t : Trap) : Word := BitVec.ofNat 64 (t.reason % 256 * 256 + t.code % 256)

/-- Cause, xpc and faddr, which a trap of every class writes (R389). -/
def Half.record (h : Half) (xpc : Word) (t : Trap) : Half :=
  { h with cause := causeWord t, xpc := t.xpc.getD xpc, faddr := t.faddr }

/-- The entry of trap code (R391). -/
def Half.enterTrap (h : Half) (xpc : Word) (t : Trap) : Half :=
  let plen := bits ((h.lpend - h.lpbeg).toNat / 2) 11 0
  let ts := (h.lpbeg.toNat % 2 ^ 32) * 2 ^ 32 + plen * 2 ^ 17 + (if h.pp then 2 ^ 16 else 0) + h.pfxsave.toNat
  { ((h.setPP false).setTM true).record xpc t with
    tsave := BitVec.ofNat 64 ts, tlpcnt := h.lpcnt, lpcnt := 0#64, lastPc := xpc,
    pc := h.trapvec &&& 0xFFFFFFFF#64 }

/-- Whether a catchable trap enters trap code (R388, R390). -/
def Half.catches (h : Half) : Bool := h.trapvec.getLsbD 32 && !h.tm

/-- Begin an abort: the ABORT event rolls the activation back (R392). -/
def Slot.beginAbort (x : Slot) (xpc : Word) (t : Trap) : Slot :=
  { x with phase := .aborting, waiting := false, half := x.half.record xpc t, act := { x.act with abort := some t } }

/-- A context takes a trap at an instruction address: the one description of all four classes (R388, R389). -/
def State.takeTrapAt (s : State) (tl : Nat) (c : Fin 8) (xpc : Word) (t : Trap) : State :=
  let x := s.slotAt tl c
  if t.code < 0x10 then
    let s1 := s.setSlotAt tl c {
      x with
      phase := .parked t.code
      waiting := false
      waitOn := .other
      half := x.half.record xpc t
      missSent := (if t.code = 3 then x.missSent else true)
      missVec := (if t.code = 3 ∨ x.missSent then x.missVec else false)
      missVa := (if t.code = 3 ∨ x.missSent then x.missVa else t.faddr)
      missRes := (if t.code = 3 ∨ x.missSent then x.missRes else t.res)
      missAcc := (if t.code = 3 ∨ x.missSent then x.missAcc else t.access) }
    if t.code = 3 || x.missSent then s1
    else s1.sendMiss tl (s.shareAt tl c) x.act.tenant t.faddr.toNat t.access false c.val 0
  else if t.code < 0x20 then
    (if x.half.catches then s.setSlotAt tl c { x with waiting := false, waitOn := .other, half := x.half.enterTrap xpc t }
     else s.setSlotAt tl c (x.beginAbort xpc t))
  else if t.code < 0x30 then s.setSlotAt tl c (x.beginAbort xpc t)
  else
    (s.setSlotAt tl c { x with phase := .frozen, waiting := false, half := x.half.record xpc t }).post {
      type := 3, tenant := x.act.tenant, info := c.val, cause := t.code, loc := t.faddr.toNat,
      ptile := s.physTile tl, ltile := (s.tileWordAt tl (s.shareAt tl c)).toNat }

/-- The trap of the current context. -/
def State.takeTrap (s : State) (xpc : Word) (t : Trap) : State := s.takeTrapAt s.cur s.ctx xpc t

/-- Return from trap code: what tret restores (R409). -/
def Half.leaveTrap (h : Half) : Half :=
  let ts := h.tsave.toNat
  let beg := BitVec.ofNat 64 (bits ts 63 32)
  { ((h.setPP (decide (bits ts 16 16 = 1))).setTM false) with
    pfxsave := BitVec.ofNat 16 (bits ts 15 0), lpbeg := beg,
    lpend := beg + BitVec.ofNat 64 (2 * bits ts 28 17), lpcnt := h.tlpcnt }

/-! ### Fetch (R209, R436) -/

/-- Where a share's code lies in the tile's instruction store (R436). -/
def codeOffset (i : Fin 3) : Nat := if i = 2 then 0x8000 else if i = 1 then 0x4000 else 0
/-- The parcel at a code offset of the current context's code. -/
def State.parcelAt (s : State) (pc : Nat) : Nat :=
  leNat (s.mem.bytes (codeKey s.cur (codeOffset s.share + pc)) 2)
def State.codeLen (s : State) : Nat := (s.tile s.cur).codeLen.get s.share
/-- The word or parcel at the pc, zero-extended, as faddr of a decode trap holds it (R389). -/
def State.wordAtPc (s : State) (len : Nat) : Word :=
  let pc := s.half.pc.toNat
  BitVec.ofNat 64 (s.parcelAt pc + (if len = 4 then 65536 * s.parcelAt (pc + 2) else 0))

/-! ### Register operands (R32 to R34, R151 to R154) -/

end Sys2Proof.Machine

namespace Sys2Proof

/-- A code that R33 allows as a source. -/
def Reg.srcOk : Reg → Bool
  | .g _ => true | .n _ => true | .y _ => true | .z => true
  | .q i => decide (4 ≤ i.val)
  | .rsv _ => false
/-- A code that R33 allows as a destination. -/
def Reg.dstOk : Reg → Bool
  | .g _ => true | .n _ => true | .y _ => false | .z => true
  | .q i => decide (i.val < 4)
  | .rsv _ => false
/-- A destination that only one pending load may have at a time: any but z, and but a queue, which takes entries in order (R34, R62). -/
def Reg.held : Reg → Bool
  | .z => false
  | .q _ => false
  | _ => true
/-- A code that a form reading its destination allows: g0–g39 or n0–n7 (R201, R202). -/
def Reg.dstGN : Reg → Bool
  | .g _ => true | .n _ => true | _ => false

end Sys2Proof

namespace Sys2Proof.Machine

/-- push_last (R8, R153). -/
def Half.push (h : Half) (v : Word) : Half :=
  { h with y := ⟨#[v, h.y[0], h.y[1], h.y[2]], rfl⟩, ypend := ⟨#[0, h.ypend[0], h.ypend[1], h.ypend[2]], rfl⟩ }
/-- push_last of a value that the load with this number brings (R153). -/
def Half.pushPending (h : Half) (id : Nat) : Half :=
  { h with y := ⟨#[0#64, h.y[0], h.y[1], h.y[2]], rfl⟩, ypend := ⟨#[id + 1, h.ypend[0], h.ypend[1], h.ypend[2]], rfl⟩ }

/-- The oldest entry of a queue leaves: the places behind it move up. -/
def shiftWait (i : Nat) (ws : List (Nat × Nat × Nat)) : List (Nat × Nat × Nat) :=
  ws.map fun w => if w.1 = i then (w.1, w.2.1 - 1, w.2.2) else w
/-- A load with a queue as its destination appends its entry when it issues (R34, R154). -/
def Half.reserve (h : Half) (r : Reg) (id : Nat) : Half :=
  match r with
  | .q i => { h with q := h.q.set i.val (h.q.get i ++ [0#64]) i.isLt, qwait := h.qwait ++ [(i.val, (h.q.get i).length, id)] }
  | _ => h
/-- The value of a returned load at its destination: the entry that it appended, or the register (R34, R153). -/
def Half.arrive (h : Half) (r : Reg) (id : Nat) (v : Word) : Half :=
  match r with
  | .q i =>
    match h.qwait.find? fun w => decide (w.2.2 = id) with
    | some w => { h with q := h.q.set i.val ((h.q.get i).set w.2.1 v) i.isLt, qwait := h.qwait.filter fun x => decide (x.2.2 ≠ id) }
    | none => h
  | .g i => { h with g := h.g.set i.val v i.isLt }
  | .n i => { h with n := h.n.set i.val v i.isLt, npoison := h.npoison &&& ~~~ (1#8 <<< i.val) }
  | _ => h

/-- The value of a source and the half after its queue removal (R33, R34). -/
def Half.read (h : Half) (r : Reg) : Word × Half :=
  match r with
  | .g i => (h.g.get i, h)
  | .n i => (h.n.get i, h)
  | .y i => (h.y.get i, h)
  | .q i =>
    match h.q.get i with
    | v :: rest => (v, { h with q := h.q.set i.val rest i.isLt, qwait := shiftWait i.val h.qwait })
    | [] => (0#64, h)
  | .z => (0#64, h)
  | .rsv _ => (0#64, h)

/-- Write a destination, without the push: a register, one entry at a queue's end, nothing for z (R33, R152). -/
def Half.write (h : Half) (r : Reg) (v : Word) : Half :=
  match r with
  | .g i => { h with g := h.g.set i.val v i.isLt }
  | .n i => { h with n := h.n.set i.val v i.isLt, npoison := h.npoison &&& ~~~ (1#8 <<< i.val) }
  | .q i => { h with q := h.q.set i.val (h.q.get i ++ [v]) i.isLt }
  | _ => h

/-- Read a source operand. -/
def rd (r : Reg) : Exec Word := fun s =>
  let p := s.half.read r
  .ok (p.1, s.setHalf p.2)
/-- Write a result and push it (R153). -/
def wrPush (r : Reg) (v : Word) : Exec Unit := update fun s => s.modHalf fun h => (h.write r v).push v

/-! ### Issue (R34, R38, R214) -/

/-- Where control goes after an instruction. -/
inductive Flow where
  | next
  | jump (target : Word)
  /-- the context goes on at its present pc: trap entry or return has set it, or the activation ends -/
  | stay
deriving DecidableEq, Repr

/-- What issue needs to know of an instruction: its specifiers in reading order, its length, the prefixes it takes, where it is not legal. -/
structure Op where
  srcs : List Reg := []
  dsts : List Reg := []
  len : Nat := 4
  /-- accepts this prefix parcel (R45) -/
  pfx : BitVec 16 → Bool := fun _ => false
  /-- illegal on this tile at decode (R374, R385) -/
  illegal : Bool := false
  /-- a global access, isolated on the reflex side (R370) -/
  iso : Bool := false
  /-- a further forbidden code, e.g. a destination that is also read (R201, R202) -/
  badCode : Bool := false
  /-- reads near registers without consuming their poison -/
  readsPoison : Bool := false
  /-- is the prefix itself -/
  isPfx : Bool := false

/-- How many of the specifiers name this register. -/
def countReg (rs : List Reg) (r : Reg) : Nat := (rs.filter (· = r)).length
/-- Every queue read holds the entries removed, with their values, and every queue written has room (R34). -/
def Half.queuesReady (h : Half) (o : Op) : Bool :=
  (List.finRange 8).all fun i =>
    decide (countReg o.srcs (.q i) ≤ (h.q.get i).length) &&
    !(h.qwait.any fun w => decide (w.1 = i.val) && decide (w.2.1 < countReg o.srcs (.q i))) &&
    (decide (countReg o.dsts (.q i) = 0) || decide ((h.q.get i).length + countReg o.dsts (.q i) ≤ 8))
/-- No named register waits for an outstanding load, and none holds the context (R62, R124, R128, R153). -/
def Half.loadsReady (h : Half) (o : Op) : Bool :=
  (h.loads.all fun l => !l.blocking && !(o.srcs.contains l.d && decide (l.d ≠ .z)) && !(o.dsts.contains l.d && l.d.held)) &&
  ((List.finRange 4).all fun k => decide (h.ypend.get k = 0) || !o.srcs.contains (.y k))
/-- A wait for a queue that the vector stream fills, or for another event (R341). -/
def Half.operandWait (h : Half) (o : Op) : WaitOn :=
  if (List.finRange 8).any fun i => decide (4 ≤ i.val) && decide ((h.q.get i).length < countReg o.srcs (.q i)) then .vector else .other
/-- The first near register named as a source whose poison bit is set (R152). -/
def Half.poisonedNear (h : Half) (o : Op) : Option (Fin 8) :=
  if o.readsPoison then none else (List.finRange 8).find? fun i => h.npoison.getLsbD i.val && o.srcs.contains (.n i)

/-- The decode and issue checks in the order of R38, then the waits of R34 and the consumption of R152. -/
def issueStop (o : Op) (s : State) : Option Stop :=
  let h := s.half
  if o.illegal then some (.trap { code := 0x20 })
  else if o.iso && s.reflexSide then some (.trap { code := 0x23 })
  else if h.pp && !o.pfx h.pfxsave then
    some (.trap { code := 0x22, faddr := BitVec.ofNat 64 ((s.wordAtPc o.len).toNat + 2 ^ 32 * h.pfxsave.toNat), own := true })
  else if !(o.srcs.all Reg.srcOk && o.dsts.all Reg.dstOk) || o.badCode
    || (decide (h.lpcnt ≠ 0#64) && decide (h.pc.toNat < h.lpend.toNat) && decide (h.lpend.toNat < h.pc.toNat + o.len)) then
    some (.trap { code := 0x21 })
  else if !(h.queuesReady o && h.loadsReady o) then some (.wait (h.operandWait o))
  else match h.poisonedNear o with
    | some i => some (.trap { code := 0x28, reason := 2, faddr := BitVec.ofNat 64 i.val })
    | none => none

/-- The hardware loop and the next address (R211, R212). -/
def Half.advance (h : Half) (len : Nat) (f : Flow) : Half :=
  let h0 := h
  let h := { h with lastPc := h.pc }
  match f with
  | .stay => h0
  | .jump t =>
    if h.lpcnt ≠ 0#64 ∧ ¬ (h.lpbeg.toNat ≤ t.toNat ∧ t.toNat < h.lpend.toNat) then { h with pc := t, lpcnt := 0#64 }
    else { h with pc := t }
  | .next =>
    let seq := h.pc + BitVec.ofNat 64 len
    if h.lpcnt ≠ 0#64 ∧ seq = h.lpend then
      (if h.lpcnt = 1#64 then { h with pc := seq, lpcnt := 0#64 } else { h with pc := h.lpbeg, lpcnt := h.lpcnt - 1#64 })
    else { h with pc := seq }

/-- The first instruction of trap code lets the vector stream go on (R484). -/
def Half.goVector (h : Half) : Half := { h with vheld := false }
/-- An instruction has completed: a governing prefix is consumed, control moves on (R45, R211). -/
def State.retire (s : State) (o : Op) (f : Flow) : State :=
  s.setSlot { s.slot with
    waiting := false,
    waitOn := .other,
    half := Half.advance (Half.goVector <| if o.isPfx then s.half else if f = .stay then s.half else s.half.setPP false) o.len f }

/-- faddr of a decode trap or illegal operand is the word itself (R389). -/
def Trap.withWord (t : Trap) (w : Word) : Trap :=
  if t.own || !(t.code = 0x20 || t.code = 0x21 || t.code = 0x23) then t else { t with faddr := w }

/-- What a stop leaves: a waiting context, or the trap taken at this instruction (R388). -/
def State.stopped (s : State) (len : Nat) : Stop → Host.Outcome State Fault Refusal
  | .wait k => .next (s.setSlot { s.slot with waiting := true, waitOn := k })
  | .waitIn k f => let s' := f s; .next (s'.setSlot { s'.slot with waiting := true, waitOn := k })
  | .trap t => .next (s.takeTrap s.half.pc (t.withWord (s.wordAtPc len)))
  | .trapIn s' t => .next (s'.takeTrap s'.half.pc t)
  | .trapOn f t => .next ((f s).takeTrap s.half.pc (t.withWord (s.wordAtPc len)))
  | .fault f => .fault f

/-- Issue one instruction of the current context: checks, effect, retirement. -/
def issue (o : Op) (body : Exec Flow) (s : State) : Host.Outcome State Fault Refusal :=
  if !validKey s.cur then .fault .noCore
  else match issueStop o s with
    | some x => s.stopped o.len x
    | none =>
      match body s with
      | .ok (f, s') => .next (s'.retire o f)
      | .error x => s.stopped o.len x

/-- An instruction that computes one value from the current half: written to d and pushed. -/
def issueValue (o : Op) (d : Reg) (body : Exec Word) (s : State) : Host.Outcome State Fault Refusal :=
  issue o (do let v ← body; wrPush d v; pure .next) s

/-- An event that the device performs only where its premise holds. -/
def event (mnemonic : String) (r : Option State) : Host.Outcome State Fault Refusal :=
  match r with
  | some s => .next s
  | none => .refused (.noSuchEvent mnemonic)

end Sys2Proof.Machine
end

