-- ==== Sys2Proof/Machine/Operands.lean ====
section
/-! DEFINITION. The operand forms: compact registers, immediates and displacements, access types, the prefix, shifts and rotations,
and the forms that compute one value. -/

namespace Sys2Proof.Machine

/-! ### Compact register fields (R39, R41) -/

end Sys2Proof.Machine

namespace Sys2Proof

/-- A compact source field. -/
def CReg.src (c : CReg) : Reg :=
  if c.val < 8 then .n (Fin.ofNat 8 c.val) else if c.val < 12 then .y (Fin.ofNat 4 c.val) else .q (Fin.ofNat 8 (c.val - 8))
/-- A compact destination field; codes 8–11 name y0–y3, which no destination may. -/
def CReg.dst (c : CReg) : Reg :=
  if c.val < 8 then .n (Fin.ofNat 8 c.val) else if c.val < 12 then .y (Fin.ofNat 4 c.val) else .q (Fin.ofNat 8 (c.val - 12))

end Sys2Proof

namespace Sys2Proof.Machine

/-! ### Immediates (R29, R42, R43) -/

/-- An immediate of w bits, sign-extended. -/
def sext {w : Nat} (x : BitVec w) : Word := x.signExtend 64
/-- A displacement in parcels. -/
def disp {w : Nat} (x : BitVec w) : Word := sext x <<< 1
/-- Sign extension of the low n bits of a number. -/
def sextN (n x : Nat) : Word := BitVec.ofNat 64 (wrapInt 64 (signedOf n x))

/-! ### Access types (R30) -/

end Sys2Proof.Machine

namespace Sys2Proof

def MemType.size : MemType → Nat
  | .i8 | .n8 => 1 | .i16 | .n16 => 2 | .i32 | .n32 => 4 | .i64 => 8
def MemType.signed : MemType → Bool
  | .i8 | .i16 | .i32 => true | _ => false
def AmoWidth.is64 : AmoWidth → Bool | .w32 => false | .w64 => true

end Sys2Proof

namespace Sys2Proof.Machine

/-- The value that a load of this size and sign writes. -/
def extendLoad (size : Nat) (signed : Bool) (v : Nat) : Word :=
  if signed then sextN (8 * size) v else BitVec.ofNat 64 v
/-- The byte offset of the M format (R29). -/
def mOffset (off : BitVec 9) (size : Nat) : Int := off.toInt * size

/-! ### The prefix (R44, R45) -/

def pfxFmt (p : BitVec 16) : Nat := bits p.toNat 15 12
def pfxRnd (p : BitVec 16) : Nat := bits p.toNat 11 9
def pfxSat (p : BitVec 16) : Bool := p.getLsbD 8
def pfxGs (p : BitVec 16) : Nat := bits p.toNat 7 6
/-- The prefix parcel in force for the instruction at pc, 0 when none. -/
def Half.pfx (h : Half) : BitVec 16 := if h.pp then h.pfxsave else 0#16
/-- The effective rounding mode (R178). -/
def Half.mode (h : Half) : RMode :=
  let r := pfxRnd h.pfx
  if r = 0 then RMode.ofBits h.frnd else RMode.ofBits (BitVec.ofNat 2 (r - 1))
/-- A prefix with nothing but a rounding mode (R203). -/
def onlyRnd (p : BitVec 16) : Bool := decide (pfxFmt p = 0) && !pfxSat p && decide (pfxGs p = 0)

/-! ### Shifts and rotations (R197, R200) -/

/-- Shifts of the low w bits of x by an unsigned amount of any size. -/
def shiftL (w x n : Nat) : Nat := if n < w then x % 2 ^ w * 2 ^ n % 2 ^ w else 0
def shiftR (w x n : Nat) : Nat := if n < w then x % 2 ^ w / 2 ^ n else 0
def shiftA (w x n : Nat) : Nat := wrapInt w (signedOf w x / ((2 ^ (min n (w - 1)) : Nat) : Int))
def rotR (w x n : Nat) : Nat := (x % 2 ^ w / 2 ^ n + x % 2 ^ w * 2 ^ (w - n)) % 2 ^ w

/-! ### Forms that compute one value (R195) -/

/-- Read one operand. -/
def opA (a d : Reg) : Op := { srcs := [a], dsts := [d] }
/-- `op d, a, b`: a is read before b (R34). -/
def opAB (b a d : Reg) : Op := { srcs := [a, b], dsts := [d] }

def unary (a d : Reg) (f : Word → Word) : State → Host.Outcome State Fault Refusal :=
  issueValue (opA a d) d (do let x ← rd a; pure (f x))
def binary (b a d : Reg) (f : Word → Word → Word) : State → Host.Outcome State Fault Refusal :=
  issueValue (opAB b a d) d (do let x ← rd a; let y ← rd b; pure (f x y))

/-- The compact two-address form: ds is read, then written; codes 8–15 are forbidden (R41, R42). -/
def opCC (b ds : CReg) : Op := { srcs := [ds.dst, b.src], dsts := [ds.dst], len := 2, badCode := !ds.dst.dstGN }
def opCI (ds : CReg) : Op := { srcs := [ds.dst], dsts := [ds.dst], len := 2, badCode := !ds.dst.dstGN }
def compactBinary (b ds : CReg) (f : Word → Word → Word) : State → Host.Outcome State Fault Refusal :=
  issueValue (opCC b ds) ds.dst (do let x ← rd ds.dst; let y ← rd b.src; pure (f x y))
def compactUnary (ds : CReg) (f : Word → Word) : State → Host.Outcome State Fault Refusal :=
  issueValue (opCI ds) ds.dst (do let x ← rd ds.dst; pure (f x))

/-- OR flags into fflags (R182). -/
def raiseFlags (f : Flags) : Exec Unit := update fun s => s.modHalf fun h => { h with fflags := h.fflags ||| f }
/-- Record the first narrowed NaN (R188). -/
def Half.recordNaN (h : Half) (n : Option Nat) : Half :=
  match n with
  | some x => if h.nanorg.getLsbD 63 then h else { h with nanorg := BitVec.ofNat 64 (2 ^ 63 + x % 2 ^ 22) }
  | none => h

end Sys2Proof.Machine
end

