-- ==== Sys2Proof/Machine/Access.lean ====
section
/-! DEFINITION. Global accesses and scratchpad accesses: resource checks, translation, paths, the shared cache and the read cache, and
what an access does when it is performed (03, 04, 05). -/

namespace Sys2Proof.Machine

/-- Lift a check of the current instruction. -/
def liftT {α : Type} (e : Except Trap α) : Exec α := fun s =>
  match e with
  | .ok x => .ok (x, s)
  | .error t => .error (.trap t)

/-! ### Resource entries (R56 to R59) -/

def resBits (r : Rec512) (hi lo : Nat) : Nat := bits r.toNat hi lo
def resVbase (r : Rec512) : Nat := resBits r 47 0
def resLength (r : Rec512) : Nat := resBits r 95 48
def resPerm (r : Rec512) : Nat := resBits r 102 100
def resKindOv (r : Rec512) : Nat := resBits r 105 104
def resPolOv (r : Rec512) : Nat := resBits r 107 106
def resFmt (r : Rec512) : Nat := resBits r 111 108
def resBndIdx (r : Rec512) : Nat := resBits r 117 112
def resBndEn (r : Rec512) : Bool := r.getLsbD 118
def resMut (r : Rec512) : Bool := r.getLsbD 119
def resValid (r : Rec512) : Bool := r.getLsbD 99
def resTenant (r : Rec512) : Nat := resBits r 127 124
/-- Malformed (R57); the bound register must belong to the tenant of the contexts on a split tile (R397). -/
def resMalformed (split upper : Bool) (r : Rec512) : Bool :=
  decide (resLength r = 0) || decide (resBits r 511 192 ≠ 0) || decide (resBits r 123 120 ≠ 0) || r.getLsbD 103
    || decide (resBits r 98 96 ≠ 0)
    || (resBndEn r && split && (decide (32 ≤ resBndIdx r) != upper))

/-- The tag of a cached entry (R58). -/
def State.resTag (s : State) (pid : Option Nat) (idx : Nat) : Nat × Nat :=
  (pid.getD 16 * 65536 + (s.launchOf pid).num, idx)
/-- The 64 bytes of a record at a key. -/
def State.rec512 (s : State) (key : Nat) : Rec512 := BitVec.ofNat 512 (leNat (s.mem.bytes key 64))
/-- An entry as a tile sees it: its cached copy; where an invalidation of the entry is still on its way to the tile, the entry before it; else
the table's (R58, R70). -/
def State.resEntry (s : State) (t : Nat) (pid : Option Nat) (idx : Nat) : Rec512 :=
  match (s.tile t).rcache.find? (fun x => x.1 = s.resTag pid idx) with
  | some x => x.2
  | none =>
    match (s.tile t).inval.find? (fun x => decide (x.1 = pid.getD 16) && decide (x.2.1 = idx)) with
    | some x => x.2.2
    | none => s.rec512 ((s.launchOf pid).resBase + 64 * idx)
/-- faddr of a resource fault (R59). -/
def resFaddr (idx off : Nat) : Word := BitVec.ofNat 64 (idx % 2 ^ 16 * 2 ^ 48 + off % 2 ^ 48)

/-- check_resource: R59 in its order. `acc` is 1 read, 2 write, 4 atomic. -/
def State.checkRes (s : State) (t : Nat) (i : Fin 3) (tenant idx off size acc : Nat) : Except Trap Rec512 :=
  let pid := s.pidAt t i
  let r := s.resEntry t pid idx
  let fail (reason : Nat) : Except Trap Rec512 := .error { code := 0x26, reason := reason, faddr := resFaddr idx off }
  if (s.launchOf pid).resCount ≤ idx ∨ !resValid r then fail 1
  else if resMalformed (s.tile t).split (decide (i = 1)) r then fail 2
  else if resTenant r ≠ tenant then .error { code := 0x30, faddr := resFaddr idx off }
  else if resPerm r / acc % 2 = 0 then fail 3
  else if resLength r < off + size ∨ 2 ^ 48 < resVbase r + off + size then fail 4
  else .ok r
/-! ### Translation (R64, R65, R52) -/

/-- log2 of the bytes of a page (R66). -/
def pageBits : Nat → Nat
  | 0 => 12 | 1 => 16 | 2 => 21 | 3 => 25 | _ => 30
def TlbEntry.bits (e : TlbEntry) : Nat := pageBits e.size
def TlbEntry.hits (e : TlbEntry) (tenant va : Nat) : Bool :=
  decide (e.tenant = tenant) && decide (va / 2 ^ e.bits = e.va / 2 ^ e.bits)
def TlbEntry.permits (e : TlbEntry) (acc : Nat) : Bool :=
  if acc = 1 then e.pr else if acc = 2 then e.pw else e.pa'
/-- Physical addresses that a tenant page may map (R52). -/
def mappable (pa : Nat) : Bool :=
  decide (pa < Config.mainMemoryTop) || (decide (Config.hostWindowBase ≤ pa) && decide (pa < Config.physicalTop))
def State.tlbLookup (s : State) (t tenant va : Nat) : Option TlbEntry :=
  (s.tile t).tlb.toList.findSome? fun e => e.filter fun x => x.hits tenant va
/-- The page is being moved and its freeze is on (R77). -/
def State.pageFrozen (s : State) (tenant va : Nat) : Bool :=
  s.sys.moves.any fun m => m.frozen && (m.entry.hits tenant va || m.gone.any fun g => g.2.hits tenant va)

/-- Translate one byte address (R64): a miss parks; a hit without permission, or a reserved frame, is a protection violation. -/
def State.xlate (s : State) (t tenant va acc : Nat) : Except Trap (Nat × TlbEntry) :=
  match s.tlbLookup t tenant va with
  | none => .error { code := if s.pageFrozen tenant va then 0x02 else 0x01, faddr := BitVec.ofNat 64 va, access := acc }
  | some e =>
    let pa := e.pa + (va - e.va)
    if e.permits acc && mappable pa then .ok (pa, e) else .error { code := 0x30, faddr := BitVec.ofNat 64 va }

/-- A part of an access: physical address, bytes, and its page. -/
abbrev Part' := Nat × Nat × TlbEntry

/-- [va, va + n) cut at 4 KiB boundaries, where any page may end. -/
def pageParts (va n : Nat) : List (Nat × Nat) :=
  if n = 0 then [] else
  (List.range ((va + n - 1) / 4096 + 1 - va / 4096)).map fun k =>
    let lo := max va ((va / 4096 + k) * 4096)
    (lo, min (va + n) ((va / 4096 + k + 1) * 4096) - lo)
/-- Translate every part before any is performed (R61). -/
def State.xlateRange (s : State) (t tenant va n acc : Nat) : Except Trap (List Part') :=
  (pageParts va n).mapM fun p => (s.xlate t tenant p.1 acc).map fun x => (x.1, p.2, x.2)

/-- The key of a physical address; the host window belongs to the function of the tenant (R52, 19). -/
def paKey (tenant pa : Nat) : Nat := if Config.hostWindowBase ≤ pa then hostKey tenant (pa - Config.hostWindowBase) else pa
/-- The physical address of a key of main memory or of the host window. -/
def keyPa (k : Nat) : Nat := if 2 ^ 60 ≤ k then Config.hostWindowBase + (k - 2 ^ 60) % 2 ^ 64 else k
def isHostKey (k : Nat) : Bool := decide (2 ^ 60 ≤ k) && decide (k < 2 ^ 90)
/-- Keys of the bytes of translated parts, in order. -/
def partKeys (tenant : Nat) (ps : List Part') : List Nat :=
  ps.flatMap fun p => (List.range p.2.1).map fun i => paKey tenant (p.1 + i)

/-- The effective kind: S 0, C 1, U 2 (R55). -/
def effKind (r : Rec512) (e : TlbEntry) : Nat :=
  let k := if resKindOv r = 0 then e.kind else min e.kind (resKindOv r - 1)
  if Config.hostWindowBase ≤ e.pa then min k 1 else k
/-- The effective policy: WB 0, NC 1, RC 2 (R55). -/
def effPol (r : Rec512) (e : TlbEntry) : Nat :=
  if Config.hostWindowBase ≤ e.pa then 1
  else
    let p := if resPolOv r = 0 then e.pol else resPolOv r - 1
    if effKind r e = 0 ∧ p = 2 then 0 else p

/-- The parts of an access that translates: each follows its own page (R55, R61, R295). -/
abbrev GlobalPath := List PathPart
def partOf (tenant : Nat) (r : Rec512) (p : Part') : PathPart := {
  key := paKey tenant p.1, n := p.2.1, strong := decide (effKind r p.2.2 = 0), nc := decide (effPol r p.2.2 = 1),
  rc := decide (effPol r p.2.2 = 2) }
def pathOf (tenant : Nat) (r : Rec512) (ps : List Part') : GlobalPath := ps.map (partOf tenant r)
/-- Keys of the bytes of the parts, in order. -/
def GlobalPath.keys (ps : GlobalPath) : List Nat := ps.flatMap fun p => (List.range p.n).map fun i => p.key + i
def GlobalPath.strong (ps : GlobalPath) : Bool := ps.any PathPart.strong
/-- The policy of the part that a byte lies in. -/
def GlobalPath.ncKey (ps : GlobalPath) (k : Nat) : Bool := ps.any fun p => p.nc && decide (p.key ≤ k) && decide (k < p.key + p.n)
def GlobalPath.rcKey (ps : GlobalPath) (k : Nat) : Bool := ps.any fun p => p.rc && decide (p.key ≤ k) && decide (k < p.key + p.n)
/-! ### The shared cache, the controllers and the read cache (R82, R83, R131, R483) -/

def lineOf (key : Nat) : Nat := key / 256
def sliceOf (pa : Nat) : Nat := (pa / 2 ^ 8 % 32) ^^^ (pa / 2 ^ 13 % 32)
def l2Set (line : Nat) : Nat := sliceOf (line * 256) * 1024 + line / 2 ^ 5 % 1024
/-- A byte of a line is present in the shared cache (R63). -/
def State.present (s : State) (key : Nat) : Bool :=
  match s.cached (lineOf key) with
  | some x => x.full || x.written.contains (key % 256)
  | none => false

/-- Controller, channel and bank of a line, and its row (R53, R483). -/
def bankOf (pa : Nat) : Nat :=
  (((pa / 2 ^ 8 % 16) ^^^ (pa / 2 ^ 20 % 16)) * 4 + pa / 2 ^ 12 % 4) * 16 + pa / 2 ^ 14 % 16
def rowOf (pa : Nat) : Nat := pa / 2 ^ 18 % 2 ^ 21
/-- A controller serves a line: its row is open afterwards. -/
def State.openRow (s : State) (line : Nat) : State :=
  if line * 256 < Config.structuresTop then { s with rows := s.rows.set (bankOf (line * 256)) (rowOf (line * 256)) } else s
/-- The controller of a sector (R53). -/
def controllerOf (k : Nat) : Nat := (k * 64 / 2 ^ 8 % 16) ^^^ (k * 64 / 2 ^ 20 % 16)
/-- The frame-state byte of a frame (R72). -/
def State.frame (s : State) (f : Nat) : Nat := (s.frames.get? f).getD 0
/-- A quarantine of a frame in all controllers together, for a sector that its controller has no entry for; or the uncontained error when the
frame entries are used up (R80). -/
def State.quarantine (s : State) (f ctl : Nat) : State :=
  if 16 ≤ s.sys.quar.length then
    (s.modSys fun y => { y with uncontained := true }).post { type := 7, info := ctl, loc := f * 4096, sev := 3 }
  else
    let s1 := s.modSys fun y => { y with quar := nInsert f y.quar }
    let st := bits (s.frame f) 7 4 * 16 + 6
    let s2 := { s1 with frames := s1.frames.set f st, poison := s1.poison.filter fun k => decide (k / 64 ≠ f) }
    let s3 := s2.post { type := 7, info := ctl, loc := f * 4096, sev := 2 }
    if s1.sys.quar.length = 12 then s3.post { type := 7, info := ctl } else s3
/-- A controller records the poison of a sector. One in record mode that has no sector entry left quarantines the frame (R79, R80). -/
def State.recordPoison (s : State) (k : Nat) : State :=
  if !s.sys.recordMode || s.poison.contains k then { s with poison := nInsert k s.poison }
  else if s.sys.quar.contains (k / 64) then s
  else if (s.poison.countP fun j => decide (j * 64 < Config.structuresTop) && decide (controllerOf j = controllerOf k)) < 512 then
    { s with poison := nInsert k s.poison }
  else s.quarantine (k / 64) (controllerOf k)
/-- A dirty line is written back: its controller records the sectors that carry poison and clears those that it writes whole (R82, R83). -/
def State.writeBack (s : State) (x : L2Line) : State :=
  if !x.dirty then s
  else (List.range 4).foldl (fun (st : State) j =>
    if x.poison.contains j then st.recordPoison (4 * x.line + j)
    else if x.full || x.covers j then { st with poison := nErase (4 * x.line + j) st.poison } else st) (s.openRow x.line)
/-- The line that a new line of a full set of 16 ways replaces: the least recently used of the set (R82). -/
def l2Victim (l2 : List L2Line) (line : Nat) : Option L2Line :=
  let set := l2.filter fun x => decide (l2Set x.line = l2Set line)
  if 16 ≤ set.length then set.getLast? else none
/-- A line becomes the most recently used of its set; a new one is allocated without its bytes (R63, R82). -/
def State.l2Touch (s : State) (line : Nat) (wr : Bool) : State :=
  match s.cached line with
  | some x => { s with l2 := { x with dirty := x.dirty || wr } :: s.l2.filter fun y => decide (y.line ≠ line) }
  | none =>
    let new : L2Line := { line := line, dirty := wr, full := false }
    match l2Victim s.l2 line with
    | some v =>
      let s1 := s.writeBack v
      { s1 with l2 := new :: s1.l2.filter fun y => decide (y.line ≠ v.line) }
    | none => { s with l2 := new :: s.l2 }
/-- A line leaves the shared cache, written back where it is dirty (R54). -/
def State.l2Flush (s : State) (line : Nat) : State :=
  match s.cached line with
  | some x => let s1 := s.writeBack x; { s1 with l2 := s1.l2.filter fun y => decide (y.line ≠ line) }
  | none => s
/-- The guest address of a physical address, from a TLB that maps it for the tenant. -/
def State.guestOf (s : State) (tenant pa : Nat) : Nat :=
  (s.tiles.findSome? fun t => (t.2.tlb.toList.filterMap id).findSome? fun e =>
    if e.tenant = tenant ∧ e.pa ≤ pa ∧ pa < e.pa + 2 ^ e.bits then some (e.va + (pa - e.pa)) else none).getD (Config.guestAddress pa)
/-- A controller reads a sector that it cannot correct: the sector is poisoned and the error logged, for the tenant too where a mapped frame
of it holds the bytes (R79, R402). -/
def State.readError (s : State) (k : Nat) : State :=
  let s1 := s.recordPoison k
  let st := s.frame (k / 64)
  let own := decide (st % 16 = 3) || decide (st % 16 = 4)
  let e : ErrEvent := { type := 6, info := Config.storageKind 0, loc := k * 64, sev := 2 }
  if own then s1.post { e with tenant := st / 16, vloc := some (s.guestOf (st / 16) (k * 64)) } else s1.logOnly e
/-- A controller reads a line of main memory: its row opens, and a sector that it finds uncorrectable is poisoned before the data leave it
(R79, R483). -/
def State.ctlRead (s : State) (line : Nat) : State :=
  if Config.structuresTop ≤ line * 256 then s
  else
    let bad := (List.range 4).filter fun i => (Config.badSectors s.fresh).testBit i
    bad.foldl (fun st i => st.readError (4 * line + i)) { (s.openRow line) with fresh := s.fresh + 1 }
/-- A line is filled from its controller: bytes written since its allocation stay, and so do the poison bits of the sectors that they do not
cover (R63, R83). -/
def State.l2Fill (s : State) (line : Nat) : State :=
  let s1 := (s.l2Touch line false).ctlRead line
  { s1 with l2 := s1.l2.map fun x => if x.line = line then
      { x with full := true, whole := [], poison := (List.range 4).filter fun j => x.poison.contains j || (!x.covers j && s1.poison.contains (4 * line + j)) }
    else x }
/-- A line as an agent that reads it whole through its slice finds it: filled where bytes of it are missing, and used; under NC the controller
serves it, the slice's copy written back first (R54, R63, R82). -/
def State.readLine (s : State) (nc : Bool) (line : Nat) : State :=
  if nc then (s.l2Flush line).ctlRead line
  else match s.cached line with
    | some x => if x.full then s.l2Touch line false else s.l2Fill line
    | none => s.l2Fill line
/-- A line that is about to be written: allocated and dirty, or under NC gone from the slice and its row open (R54, R63). -/
def State.writeLine (s : State) (nc : Bool) (line : Nat) : State :=
  if nc then (s.l2Flush line).openRow line else s.l2Touch line true

/-! ### Uses of resource entries (R58, R59) -/

/-- The tile holds a copy of the entry. -/
def State.resHit (s : State) (t : Nat) (pid : Option Nat) (idx : Nat) : Bool := (s.tile t).rcache.any fun x => decide (x.1 = s.resTag pid idx)
/-- A hit or a fill counts as a use; 64 entries, least recently used leaves. A miss reads the entry through the shared cache. An index beyond the
table reads nothing (R58, R59). -/
def State.useRes (s : State) (t : Nat) (pid : Option Nat) (idx : Nat) : State :=
  let tag := s.resTag pid idx
  if (s.launchOf pid).resCount ≤ idx then s
  else
    let s1 := if s.resHit t pid idx then s else s.readLine false (lineOf ((s.launchOf pid).resBase + 64 * idx))
    s1.modTile t fun x =>
      { x with rcache := ((tag, s.resEntry t pid idx) :: x.rcache.filter (fun y => decide (y.1 ≠ tag))).take 64 }
/-- The current instruction uses an entry. -/
def State.used (s : State) (idx : Nat) : State := s.useRes s.cur s.pid idx
/-- What an instruction's earlier checks have used stays where a later check traps (R58). -/
def keeping {α : Type} (f : State → State) (m : Exec α) : Exec α := fun s =>
  match m s with
  | .error (.trap t) => .error (.trapOn f t)
  | .error (.trapOn g t) => .error (.trapOn (fun s => g (f s)) t)
  | r => r
/-- The check for the current instruction; the entry counts as used even where the check fails (R58, R59). -/
def checkResource (idx off size acc : Nat) : Exec Rec512 := do
  let s ← get
  match s.checkRes s.cur s.share s.act.tenant idx off size acc with
  | .ok r => do
    update fun s => s.used idx
    pure r
  | .error t => stop (.trapOn (fun s => s.used idx) t)

/-- Check and translate a global access of the current context; a miss parks it, and its use of the entry stays (R58, R61, R65). -/
def globalPathOf (r : Rec512) (idx off size acc : Nat) : Exec GlobalPath := do
  let s ← get
  match s.xlateRange s.cur s.act.tenant (resVbase r + off) size acc with
  | .ok ps => pure (pathOf s.act.tenant r ps)
  | .error t => stop (.trapOn (fun s => s.used idx) { t with res := resFaddr idx off })
def globalPath (idx off size acc : Nat) : Exec GlobalPath := do
  let r ← checkResource idx off size acc
  globalPathOf r idx off size acc

/-! ### The read cache (R131) -/

def rdSet (line : Nat) : Nat := line % 64
/-- Fill a line into a tile's read cache of 64 sets of 4 ways (R131). -/
def rdFill (rc : List RLine) (x : RLine) : List RLine :=
  let rest := rc.filter fun y => !(decide (y.line = x.line) && decide (y.tenant = x.tenant))
  let kept := if 4 ≤ rest.countP (fun y => decide (rdSet y.line = rdSet x.line)) then
      (match (rest.filter fun y => decide (rdSet y.line = rdSet x.line)).getLast? with
        | some v => rest.filter fun y => decide (y ≠ v)
        | none => rest)
    else rest
  x :: kept
def State.rdHit (s : State) (t tenant key : Nat) : Option RLine :=
  (s.tile t).rdcache.find? fun x => decide (x.line = lineOf key) && decide (x.tenant = tenant)
/-- The line as it stands in memory, for a fill. -/
def State.lineNow (s : State) (tenant line : Nat) : RLine :=
  { line := line, tenant := tenant, bytes := s.mem.bytes (line * 256) 256,
    poison := (List.range 4).filter fun k => s.sectorPoisoned (line * 256 + k * 64) 64 }
/-- Remove a tenant's lines from a tile's read cache (R132). -/
def State.rdInvalidate (s : State) (t tenant : Nat) : State :=
  s.modTile t fun x => { x with rdcache := x.rdcache.filter fun y => decide (y.tenant ≠ tenant) }

/-- The distinct lines of a list of keys, rising. -/
def linesOf (keys : List Nat) : List Nat := keys.foldl (fun acc k => nInsert (lineOf k) acc) []

/-! ### Writing memory (R61, R76, R80, R83) -/

/-- The sectors that cells with full masks cover whole. -/
def wholeSectors (cells : List (Nat × Byte × Byte)) : List Nat :=
  let secs := cells.foldl (fun acc c => nInsert (c.1 / 64) acc) []
  secs.filter fun k => decide (64 ≤ cells.countP fun c => decide (c.1 / 64 = k) && decide (c.2.2 = 0xFF#8))
/-- A write lands on a page that is being moved: the bits of its lines are set (R76). -/
def Move.mark (m : Move) (lines : List Nat) : Move :=
  { m with bits := lines.foldl (fun acc l => if m.src ≤ l * 256 ∧ l * 256 < m.src + m.size then nInsert l acc else acc) m.bits }
/-- Written bytes of a line that is not yet filled are present (R63). -/
def L2Line.wrote (x : L2Line) (cells : List (Nat × Byte × Byte)) : L2Line :=
  let mine := cells.filter fun c => decide (lineOf c.1 = x.line) && decide (c.2.2 = 0xFF#8)
  if x.full then x else { x with written := mine.foldl (fun acc c => nInsert (c.1 % 256) acc) x.written }
/-- A line of which one write has covered these sectors whole with clean data (R63, R83). -/
def L2Line.cleaned (x : L2Line) (sectors : List Nat) : L2Line := {
  x with
  poison := x.poison.filter fun j => !sectors.contains (4 * x.line + j)
  whole := (if x.full then x.whole
    else ((List.range 4).filter fun j => sectors.contains (4 * x.line + j)).foldl (fun a j => nInsert j a) x.whole) }
/-- Sectors that clean data cover whole lose their poison: in the resident line, else in the store itself (R83, R111). -/
def State.clearPoison (s : State) (whole : List Nat) : State :=
  { s with
    poison := s.poison.filter fun k => !(whole.contains k && (s.cached (k / 4)).isNone),
    l2 := s.l2.map (L2Line.cleaned · whole) }
/-- The controllers accept writes at a key: not after an uncontained memory error (R80). -/
def State.takes (s : State) (k : Nat) : Bool := !s.sys.uncontained || decide (Config.structuresTop ≤ k)
/-- Perform a write of masked bytes at keys of main memory or the host window. -/
def State.writeCells (s : State) (cells0 : List (Nat × Byte × Byte)) : State :=
  let cells := cells0.filter fun c => s.takes c.1
  let lines := linesOf (cells.map (·.1))
  ({ s with
    mem := s.mem.writeMasked cells,
    l2 := s.l2.map (L2Line.wrote · cells),
    sys := { s.sys with moves := s.sys.moves.map (Move.mark · lines) } }).clearPoison (wholeSectors cells)
/-- Cells of whole bytes at rising keys. -/
def plainCells (keys : List Nat) (bs : List Byte) : List (Nat × Byte × Byte) :=
  (keys.zip bs).map fun p => (p.1, p.2, 0xFF#8)
/-- Set the poison of one sector: of the resident line, else of the controller or of the store it lies in (R79, R83, R111). -/
def State.poisonSector (s : State) (k : Nat) : State :=
  if Config.structuresTop ≤ k * 64 then { s with poison := nInsert k s.poison }
  else match s.cached (k / 4) with
    | some _ => { s with l2 := s.l2.map fun x => if x.line = k / 4 then { x with poison := nInsert (k % 4) x.poison } else x }
    | none => s.recordPoison k
def State.poisonSectors (s : State) (ks : List Nat) : State := ks.foldl State.poisonSector s
/-- An agent of the device writes bytes of main memory through the slices: their lines are allocated and dirty, and rows open for the lines that
leave (R63, R82, R483). -/
def State.writeThrough (s : State) (cells : List (Nat × Byte × Byte)) : State :=
  let main := (cells.map (·.1)).filter fun k => decide (k < Config.structuresTop) && s.takes k
  ((linesOf main).foldl (fun (st : State) l => st.writeLine false l) s).writeCells cells
def State.bytesAt (s : State) (keys : List Nat) : List Byte := keys.map s.mem.get
def State.keysPoisoned (s : State) (keys : List Nat) : Bool := keys.any fun k => s.sectorPoisoned k 1
/-- Update the lines of the issuing tile's read cache that a store under RC finds there; a sector that it covers whole is clean (R54, R83). -/
def RLine.patch (x : RLine) (cells : List (Nat × Byte × Byte)) : RLine :=
  { x with poison := x.poison.filter (fun j => !(wholeSectors cells).contains (4 * x.line + j)), bytes := x.bytes.zipIdx.map fun b =>
      match cells.find? fun c => decide (c.1 = x.line * 256 + b.2) with
      | some c => (b.1 &&& ~~~ c.2.2) ||| (c.2.1 &&& c.2.2)
      | none => b.1 }
/-- Keys that lie in main memory or in device structures, not in the host window. -/
def mainKeys (ks : List Nat) : List Nat := ks.filter fun k => !isHostKey k
def hostFnOf (k : Nat) : Nat := (k - 2 ^ 60) / 2 ^ 64

/-! ### Atomic operations (R126) -/

/-- New memory value, returned value and flags of an atomic. -/
def amoApply (op : Nat) (w64 : Bool) (old v cmp : Nat) : Nat × Word × Flags :=
  let n := if w64 then 64 else 32
  let a := old % 2 ^ n
  let b := v % 2 ^ n
  let sg := sextN n a
  let un := BitVec.ofNat 64 a
  match op with
  | 0 => (b, sg, noFlags)
  | 1 => ((a + b) % 2 ^ n, sg, noFlags)
  | 2 => (a &&& b, sg, noFlags)
  | 3 => (a ||| b, sg, noFlags)
  | 4 => (a ^^^ b, sg, noFlags)
  | 5 => (if signedOf n a < signedOf n b then b else a, sg, noFlags)
  | 6 => (if signedOf n b < signedOf n a then b else a, sg, noFlags)
  | 7 => (max a b, un, noFlags)
  | 8 => (min a b, un, noFlags)
  | 9 => (if a = cmp % 2 ^ n then b else a, sg, noFlags)
  | _ =>
    let r := fAdd f32 .rne a b
    (if f32.isNaN r.1 then f32.canonNaN else r.1, un, r.2)
def amoSize (w64 : Bool) : Nat := if w64 then 8 else 4

/-! ### The scratchpad (R107, R120 to R122) -/

/-- The keys of a window range. -/
def State.winKeys (s : State) (t : Nat) (i : Fin 3) (ea n : Nat) : List Nat := (List.range n).map fun k => s.spad t i (ea + k)
def State.readWin (s : State) (t : Nat) (i : Fin 3) (ea n : Nat) : List Byte := s.bytesAt (s.winKeys t i ea n)
def State.winPoisoned (s : State) (t : Nat) (i : Fin 3) (ea n : Nat) : Bool :=
  if n = 0 then false
  else (List.range ((ea + n - 1) / 64 + 1 - ea / 64)).any fun k => s.sectorPoisoned (s.spad t i ((ea / 64 + k) * 64)) 64
/-- Write bytes to a window, a line at a time: dirty bits are set, poison stays; a word that is written in part is read for it (R110, R111). -/
def State.writeWin (s : State) (t : Nat) (i : Fin 3) (ea : Nat) (bs : List Byte) : State :=
  let keys := s.winKeys t i ea bs.length
  ({ s with
    mem := (keys.zip bs).foldl (fun (m : Memory) (p : Nat × Byte) => m.set p.1 p.2) s.mem,
    flips := freshWords s.flips keys,
    dirty := (linesOf keys).foldl (fun d l => nInsert l d) s.dirty }.sense keys).mark (linesOf keys)
/-- Clear the poison of the sectors a write of clean data covers whole (R111). -/
def State.clearWin (s : State) (t : Nat) (i : Fin 3) (ea n : Nat) : State :=
  let whole := wholeSectors ((s.winKeys t i ea n).map fun k => (k, 0#8, 0xFF#8))
  { s with poison := s.poison.filter fun k => !whole.contains k }
/-- A landing in a window: sectors written whole are cleared, those that receive poisoned bytes are set (R100, R111). `bad` lists the
positions of poisoned bytes. -/
def State.landWin (s : State) (t : Nat) (i : Fin 3) (ea : Nat) (bs : List Byte) (bad : List Nat) : State :=
  let s1 := (s.writeWin t i ea bs).clearWin t i ea bs.length
  s1.poisonSectors (bad.map fun k => s.spad t i (ea + k) / 64)

/-- faddr of a scratchpad fault and of a poison consumption there (R121). -/
def spadFaddr (ea : Int) (ti reason : Nat) : Word :=
  BitVec.ofNat 64 (wrapInt 20 ea + ti % 16 * 2 ^ 52 + reason * 2 ^ 60)
def spadFault {α : Type} (ea : Int) (ti reason : Nat) : Exec α := trap 0x25 reason (spadFaddr ea ti reason)
/-- check_window for the current instruction on a tile's window (R121). -/
def checkWin (t : Nat) (ti : Nat) (ea : Int) (n : Nat) (k : AccKind) : Exec Nat := do
  let s ← get
  match s.checkWindow t s.share s.act.keep ea n k with
  | some r => spadFault ea ti r
  | none => pure ea.toNat
/-- Log the lines that a write of the own window touches (R115, R117). -/
def logWrite (ea n : Nat) : Exec Unit := fun s =>
  match s.logLines s.cur s.ctx ea n with
  | some s' => .ok ((), s')
  | none => .error (.trap { code := 0x25, reason := 7, faddr := spadFaddr ea 0 7 })
/-- The bytes that a bay-remote request touches. -/
def RemoteOp.span : RemoteOp → Nat × Nat
  | .load _ _ _ _ a n => (a, n)
  | .store _ _ _ _ a bs => (a, bs.length)
  | .amo _ _ _ _ _ w64 a _ _ => (a, amoSize w64)
  | .answer .. => (0, 0)
/-- The context that a request comes from; an answer is none. -/
def RemoteOp.issuer : RemoteOp → Option (Nat × Fin 8)
  | .load t c _ _ _ _ => some (t, c)
  | .store t c _ _ _ _ => some (t, c)
  | .amo t c _ _ _ _ _ _ _ => some (t, c)
  | .answer .. => none
def RemoteOp.isLoad : RemoteOp → Bool | .load .. => true | _ => false
def PortOp.remote? : PortOp → Option RemoteOp | .remote r => some r | _ => none
/-- Bay-remote requests of a context to its own tile that the port thread has not performed, with the own index (R119). -/
def State.toSelf (s : State) (t : Nat) (c : Fin 8) : List RemoteOp :=
  ((s.net.filterMap fun m => if m.dst = t then m.remote else none) ++ (s.tile t).portQ.filterMap PortOp.remote?).filter fun r =>
    decide (r.issuer = some (t, c))
/-- A bay-remote load of a context that its target has not performed. -/
def State.loadsAway (s : State) (t : Nat) (c : Fin 8) : Bool :=
  (s.net.filterMap (·.remote) ++ s.tiles.flatMap fun (x : Nat × Tile) => x.2.portQ.filterMap PortOp.remote?).any fun r =>
    r.isLoad && decide (r.issuer = some (t, c))
/-- No earlier bay-remote access of the context to its own tile touches these bytes: accesses of one stream to one location keep their
order (R284). -/
def State.ownClear (s : State) (ea n : Nat) : Bool :=
  !((s.toSelf s.cur s.ctx).any fun r => decide (r.span.1 < ea + n) && decide (ea < r.span.1 + r.span.2))
def ownWait (ea n : Nat) : Exec Unit := do
  let s ← get
  waitUntil (s.ownClear ea n)
/-- The words of a window range are read: soft errors in them are corrected, or poison their sector (R110). -/
def State.senseWin (s : State) (t : Nat) (i : Fin 3) (ea n : Nat) : State := s.sense (s.winKeys t i ea n)
/-- Read n bytes of the own window; poison is consumed (R110, R111, R396). -/
def readOwn (ea n : Nat) : Exec (List Byte) := do
  ownWait ea n
  update fun s => s.senseWin s.cur s.share ea n
  let s ← get
  if s.winPoisoned s.cur s.share ea n then
    stop (.trapOn (fun s => s.senseWin s.cur s.share ea n) { code := 0x28, faddr := spadFaddr ea 0 0 })
  pure (s.readWin s.cur s.share ea n)
/-- A checked and logged store to the own window. -/
def storeOwn (ea : Nat) (bs : List Byte) : Exec Unit := do
  ownWait ea bs.length
  logWrite ea bs.length
  update fun s => s.writeWin s.cur s.share ea bs

/-! ### Address words (R127) -/

/-- Where an atomic address word points. -/
inductive AddrWord where
  | loc (ea : Nat)
  | bay (ti ea : Nat)
  | glob (idx off : Nat)
  | bad
deriving DecidableEq, Repr

def addrWord (w : Word) : AddrWord :=
  let n := w.toNat
  match bits n 63 62 with
  | 0 => if bits n 61 20 = 0 then .loc (bits n 19 0) else .bad
  | 1 => if bits n 61 56 = 0 ∧ bits n 51 20 = 0 then .bay (bits n 55 52) (bits n 19 0) else .bad
  | 2 => if bits n 49 48 = 0 then .glob (bits n 61 50) (bits n 47 0) else .bad
  | _ => .bad

/-! ### Outstanding accesses and their order (R282 to R287) -/

/-- The issuer of an access of the current context. -/
def State.src (s : State) : Src := { tile := s.cur, c := s.ctx, pid := s.pid.getD 16 }
/-- A fresh number. -/
def freshId : Exec Nat := fun s => .ok (s.fresh, { s with fresh := s.fresh + 1 })
/-- A load of a tile on its way, and one whose value has not landed (R62). -/
def SliceOp.loadOf (o : SliceOp) (t : Nat) : Bool := decide (o.src.tile = t) && (match o.what with | .load _ _ => true | _ => false)
def Half.answered (h : Half) : Nat := h.loads.countP fun l => l.global && !l.amo && l.reply.isSome
/-- Outstanding global loads of a tile, of every activation (R62). -/
def State.outstanding (s : State) (t : Nat) : Nat :=
  s.sliceQ.countP (·.loadOf t) + (s.tile t).ctxs.toList.foldl (fun n k => n + k.s0.half.answered + k.s1.half.answered) 0
/-- Outstanding bay-remote loads of a tile, and its stores and atomics without an acknowledgement (R124). -/
def Tile.loadsOut (t : Tile) : Nat := t.acks.countP RemoteAcc.load
def Tile.storesOut (t : Tile) : Nat := t.acks.countP fun a => !a.load
/-- Issue a load that another agent answers: the destination, its queue entry and the pushed position wait for it (R34, R62, R153). -/
def pendingLoad (l : PendLoad) : Exec Unit := update fun s => s.modHalf fun h =>
  { ((h.reserve l.d l.id).pushPending l.id) with loads := h.loads ++ [l] }
/-- The order point of the current context's streams. -/
def State.orderedFrom (s : State) : Nat := ((s.tile s.cur).ctx s.ctx).after
def sliceAccess (op : SliceOp) : Exec Unit := update fun s =>
  { s with sliceQ := s.sliceQ ++ [{ op with seq := s.fresh, after := s.orderedFrom }], fresh := s.fresh + 1 }
/-- An acquire, a release or a fence of the current context: its later accesses follow every earlier access of the partition, whatever the
scope (R284, R286; log 5). -/
def orderHere : Exec Unit := update fun s => s.orderPoint s.cur s.ctx

/-- A reply goes back to its context. -/
def PendLoad.answer (id : Nat) (r : Reply) (l : PendLoad) : PendLoad := if l.id = id then { l with reply := some r } else l
def Slot.answer (id : Nat) (r : Reply) (x : Slot) : Slot :=
  { x with half := { x.half with loads := x.half.loads.map (PendLoad.answer id r) } }
def State.sendReply (s : State) (t : Nat) (c : Fin 8) (id : Nat) (r : Reply) : State :=
  s.modTile t fun x => let k := x.ctx c; x.setCtx c { k with s0 := k.s0.answer id r, s1 := k.s1.answer id r }
/-- The access with this number is answered. -/
def Tile.ackOne (t : Tile) (id : Nat) : Tile := { t with acks := t.acks.filter fun a => decide (a.id ≠ id) }
/-- An answer reaches its issuer, which counts the access no longer (R124). -/
def State.answered (s : State) : RemoteOp → State
  | .answer tl c _ id r =>
    let s1 := s.modTile tl fun x => x.ackOne id
    match r with
    | some v => s1.sendReply tl c id v
    | none => s1
  | _ => s

/-- Keys that an access reads or writes. -/
def SliceWhat.keys : SliceWhat → List Nat
  | .load _ addrs => addrs
  | .store cells => cells.map (·.1)
  | .amo _ _ _ addrs _ _ => addrs
  | .host _ cells => cells.map (·.1)
  | .probe _ => []
/-- Is this a write at the slices, and of which keys? -/
def SliceWhat.writes : SliceWhat → List Nat
  | .store cells => cells.map (·.1)
  | .host _ cells => cells.map (·.1)
  | .amo _ _ _ addrs _ _ => addrs
  | _ => []
/-- Unperformed global writes of the context's scalar stream, or of both its streams; host-window writes apart (R296, R298). -/
def State.myWrites (s : State) (vec : Bool) : List SliceOp :=
  s.sliceQ.filter fun o => decide (o.src.tile = s.cur) && decide (o.src.c = s.ctx) && decide (o.what.writes ≠ []) && (vec || !o.vec)
def State.myProbes (s : State) : List SliceOp :=
  s.sliceQ.filter fun o => decide (o.src.tile = s.cur) && decide (o.src.c = s.ctx) && (match o.what with | .probe _ => true | _ => false)
/-- Host-window writes of the context's scalar stream, or of both its streams, that the port has not accepted (R294, R298). -/
def State.myOutbound (s : State) (vec : Bool) : Bool :=
  (s.fn s.act.tenant).outbound.any fun o => decide (o.src.tile = s.cur) && decide (o.src.c = s.ctx) && (vec || !o.vec)

/-- The release part of a fence (R298): scope 0 tile, 1 bay, 2 array, 3 device, 4 system. None when its accesses have been performed,
else what waiting sets going: the probes of R296. A bay scope or wider waits for the acknowledgements of all the tile's stores (R124). A
bay-remote load, and any access that travels to the own window, is performed before a release of any scope (R286; DEDUCED, log 5). -/
def State.releaseStop (s : State) (vec : Bool) (scope : Nat) : Option (State → State) :=
  let slices := ((s.myWrites vec).flatMap fun o => o.what.writes.map sliceOf).foldl (fun acc k => nInsert k acc) []
  if s.loadsAway s.cur s.ctx ∨ s.toSelf s.cur s.ctx ≠ [] then some id
  else if 1 ≤ scope ∧ (s.tile s.cur).storesOut ≠ 0 then some id
  else if 3 ≤ scope ∧ s.myProbes ≠ [] then some id
  else if 3 ≤ scope ∧ slices ≠ [] then
    some fun s0 => { s0 with sliceQ := s0.sliceQ ++ slices.map fun k => { src := s.src, what := .probe k, seq := s.fresh } }
  else if 4 ≤ scope ∧ s.myOutbound vec then some id
  else none
def releaseWait (scope : Nat) (vec : Bool := false) (k : WaitOn := .issued) : Exec Unit := do
  let s ← get
  match s.releaseStop vec scope with
  | some f => stop (.waitIn k f)
  | none => orderHere
/-- The acquire part: every load and amo of the stream has returned (R298). -/
def acquireWait (k : WaitOn := .issued) : Exec Unit := do
  let s ← get
  waitUntil (decide (s.half.loads = [])) k
  orderHere
/-- The vector queue is empty and the vector unit holds no instruction of the context (R184, R298). -/
def State.vectorDone (s : State) : Bool := decide (s.half.vq = []) && s.half.boundTrap.isNone
def vectorIdle : Exec Unit := do
  let s ← get
  waitUntil s.vectorDone .vector

end Sys2Proof.Machine
end

