-- ==== Sys2Proof/Machine/Exact.lean ====
section
/-! DEFINITION. Exact values of elements, the sums of the matrix engine, and the bound check (R181, R185 to R191, R398). -/

namespace Sys2Proof.Machine

/-- An exact value: a finite one carries its sign so that zeros keep theirs. -/
inductive Num where
  | nan (signalling : Bool)
  | inf (neg : Bool)
  | fin (neg : Bool) (v : Dy)
deriving DecidableEq, Repr

/-- An element format. -/
inductive ElemFmt where
  | fp (f : Fmt)
  | int (bits : Nat) (signed : Bool)
deriving DecidableEq, Repr
def ElemFmt.bytes : ElemFmt → Nat
  | .fp f => f.width / 8
  | .int b _ => b / 8
def ElemFmt.lo : ElemFmt → Int
  | .fp _ => 0
  | .int b sg => if sg then -(2 ^ (b - 1)) else 0
def ElemFmt.hi : ElemFmt → Int
  | .fp _ => 0
  | .int b sg => if sg then 2 ^ (b - 1) - 1 else 2 ^ b - 1

def numFp (f : Fmt) (x : Nat) : Num :=
  if f.isNaN x then .nan (f.isSNaN x)
  else if f.isInf x then .inf (f.isNeg x)
  else .fin (f.isNeg x) (f.value x)
def numInt (n : Int) : Num := .fin (decide (n < 0)) (Dy.ofInt n)
def ElemFmt.num : ElemFmt → Nat → Num
  | .fp f, x => numFp f x
  | .int b sg, x => numInt (if sg then signedOf b x else (x % 2 ^ b : Nat))
def Num.isNaN : Num → Bool | .nan _ => true | _ => false
def Num.isSNaN : Num → Bool | .nan true => true | _ => false
def Num.neg? : Num → Bool | .nan _ => false | .inf n => n | .fin n _ => n
def Num.isZero : Num → Bool | .fin _ v => decide (v.m = 0) | _ => false
def Num.isInf : Num → Bool | .inf _ => true | _ => false
/-- The product of two values. A product of integers that is zero takes the sign of its factors as a floating-point product does: -0 for 0 times a
negative integer, which shows only under a group scale (R186 gives integers no signed zero; DESIGN CHOICE, log 81). -/
def Num.mul (a b : Num) : Num :=
  match a, b with
  | .nan s, .nan t => .nan (s || t)
  | .nan s, _ => .nan s
  | _, .nan s => .nan s
  | .fin n v, .fin m w => .fin (n != m) (v.mul w)
  | x, y => if x.isZero || y.isZero then .nan false else .inf (x.neg? != y.neg?)
/-- a ≤ b for values that are no NaN. -/
def Num.le (a b : Num) : Bool :=
  match a, b with
  | .nan _, _ => false
  | _, .nan _ => false
  | .inf n, .inf m => n || !m
  | .inf n, _ => n
  | _, .inf m => !m
  | .fin _ v, .fin _ w => !w.lt v

/-! ### One K-step (R181, R186) -/

/-- A term of a K-step: its index along K, the product with its scale, and whether a signalling NaN was met. -/
structure Term where
  k : Nat
  v : Num
  /-- a NaN that no NaN factor brought (R263) -/
  created : Bool
  snan : Bool

def term (k : Nat) (scale a b : Num) : Term :=
  let v := scale.mul (a.mul b)
  { k := k, v := v,
    created := v.isNaN && !(scale.isNaN || a.isNaN || b.isNaN),
    snan := scale.isSNaN || a.isSNaN || b.isSNaN }

/-- The payload NaN of R186. -/
def originNaN (core k : Nat) : Nat := 0x7FC00000 + core % 1024 * 4096 + k % 4096

def sumFin (ts : List Term) : Dy :=
  ts.foldl (fun acc t => match t.v with | .fin _ v => acc.add v | _ => acc) Dy.zero

/-- The new FP32 accumulator after a K-step, with its flags: the table of R186. The accumulator's old value is one of what R181 adds, so an
exact sum of zero is −0 only where it too is −0 (DEDUCED, log 70). -/
def stepFp (core : Nat) (x : Nat) (ts : List Term) : Nat × Flags :=
  if f32.isNaN x then (x, if ts.any Term.snan then flagNV else noFlags)
  else
    match ts.find? fun t => t.v.isNaN with
    | some t => (originNaN core t.k, if ts.any fun u => u.created || u.snan then flagNV else noFlags)
    | none =>
      let acc := numFp f32 x
      let infs := ts.filter fun t => t.v.isInf
      let signs := infs.map (fun t => t.v.neg?) ++ (if acc.isInf then [acc.neg?] else [])
      if signs.contains true && signs.contains false then (originNaN core ((infs.head?.map Term.k).getD 0), flagNV)
      else match signs with
        | n :: _ => (f32.inf n, noFlags)
        | [] =>
          let allNeg := acc.isZero && acc.neg? && ts.all fun t => t.v.isZero && t.v.neg?
          roundDy f32 .rne allNeg ((f32.value x).add (sumFin ts))

/-- The new INT32 accumulator after a K-step (R181). -/
def stepInt (sat : Bool) (x : Nat) (ts : List Term) : Nat :=
  let sum := ts.foldl (fun acc t => match t.v with | .fin _ v => acc + v.m * 2 ^ v.e.toNat | _ => acc) (signedOf 32 x)
  if sat then wrapInt 32 (max (-(2 ^ 31)) (min (2 ^ 31 - 1) sum)) else wrapInt 32 sum

/-! ### Bit planes (R175, R176) -/

/-- The value a BPI-p read delivers for element e of a plane block. -/
def bpiValue (p : Nat) (block : Nat → Nat) (e : Nat) : Int :=
  let planes := (List.range p).foldl (fun acc j => acc * 2 + block (32 * j + e / 8) / 2 ^ (e % 8) % 2) 0
  if p = 8 then signedOf 8 planes else signedOf p planes * 2 ^ (8 - p) + 2 ^ (7 - p)

/-! ### The bound check (R398) -/

/-- conv of a limit into an element format: rounding in the given direction, or ceiling and floor with saturation. -/
def convLimit (x : Num) (f : ElemFmt) (up : Bool) : Nat :=
  match f, x with
  | .fp g, .nan _ => g.canonNaN
  | .fp g, .inf n => g.inf n
  | .fp g, .fin n v => (roundDy g (if up then .rup else .rdn) n v).1
  | .int b _, .nan _ => wrapInt b 0
  | .int b _, .inf n => wrapInt b (if n then f.lo else f.hi)
  | .int b _, .fin _ v => wrapInt b (max f.lo (min f.hi (roundToInt (if up then .rup else .rdn) v).1))

/-- What bound_check says of an element: the value to write, if any, and whether it counts. -/
def Bound.apply (r : Bound) (f : ElemFmt) (y : Nat) : Option Nat × Bool :=
  if r.act = 0#2 then (some y, false)
  else
    let x := f.num y
    let lim (b : BitVec 32) : Num := if r.int then numInt b.toInt else numFp f32 b.toNat
    if !x.isNaN && (lim r.lo).le x && x.le (lim r.hi) then (some y, false)
    else
      (if r.act = 1#2 then some y
       else if r.act = 2#2 then some (if !x.isNaN && !x.le (lim r.hi) && !(lim r.hi).isNaN then convLimit (lim r.hi) f false
        else convLimit (lim r.lo) f true)
       else none, true)
/-- Count an element out of range (R398). -/
def Tile.countBound (t : Tile) (i : Nat) : Tile :=
  let k : Fin 64 := Fin.ofNat 64 i
  let b := t.bnd.get k
  { t with bnd := t.bnd.set k.val { b with count := min (b.count + 1) 0xFFFFFFFF } k.isLt,
           bndflag := t.bndflag ||| (1#64 <<< k.val) }

end Sys2Proof.Machine
end

