-- ==== Sys2Proof/Machine/Scalar.lean ====
section
/-! DEFINITION. Scalar integer instructions: majors 1 to 9 and their compact aliases (R196 to R201, R41, R42). -/

namespace Sys2Proof.Machine

/-- What a meaning is. -/
abbrev Meaning := State → Host.Outcome State Fault Refusal

/-! ### The operations (R196 to R201) -/

def b2w (b : Bool) : Word := if b then 1#64 else 0#64
/-- A 32-bit result, sign-extended. -/
def word32 (n : Nat) : Word := sextN 32 n
def aluSll (x y : Word) : Word := BitVec.ofNat 64 (shiftL 64 x.toNat y.toNat)
def aluSrl (x y : Word) : Word := BitVec.ofNat 64 (shiftR 64 x.toNat y.toNat)
def aluSra (x y : Word) : Word := BitVec.ofNat 64 (shiftA 64 x.toNat y.toNat)
def aluMulh (x y : Word) : Word := BitVec.ofNat 64 (wrapInt 64 (x.toInt * y.toInt / 2 ^ 64))
def aluMulhn (x y : Word) : Word := BitVec.ofNat 64 (x.toNat * y.toNat / 2 ^ 64)
/-- The quotients and remainders of R198, the two borderline cases among them. -/
def aluDiv (x y : Word) : Word := if y = 0#64 then Word.ones else BitVec.ofNat 64 (wrapInt 64 (x.toInt.tdiv y.toInt))
def aluRem (x y : Word) : Word := if y = 0#64 then x else BitVec.ofNat 64 (wrapInt 64 (x.toInt.tmod y.toInt))
def aluDivn (x y : Word) : Word := if y = 0#64 then Word.ones else BitVec.ofNat 64 (x.toNat / y.toNat)
def aluRemn (x y : Word) : Word := if y = 0#64 then x else BitVec.ofNat 64 (x.toNat % y.toNat)
def aluClz (x : Word) : Word := BitVec.ofNat 64 (if x = 0#64 then 64 else 63 - Nat.log2 x.toNat)
def aluCtz (x : Word) : Word := BitVec.ofNat 64 (((List.range 64).find? fun i => x.getLsbD i).getD 64)
def aluPopc (x : Word) : Word := BitVec.ofNat 64 ((List.range 64).countP fun i => x.getLsbD i)
def aluBswap (x : Word) : Word := BitVec.ofNat 64 (leNat (leBytes 8 x.toNat).reverse)
def aluLixs (old : Word) (imm : BitVec 18) : Word := (old <<< 18) ||| imm.zeroExtend 64

/-! ### Register forms (R196) -/

def execAdd (b a d : Reg) : Meaning := binary b a d (· + ·)
def execSub (b a d : Reg) : Meaning := binary b a d (· - ·)
def execAnd (b a d : Reg) : Meaning := binary b a d (· &&& ·)
def execOr (b a d : Reg) : Meaning := binary b a d (· ||| ·)
def execXor (b a d : Reg) : Meaning := binary b a d (· ^^^ ·)
def execAndn (b a d : Reg) : Meaning := binary b a d fun x y => x &&& ~~~ y
def execOrn (b a d : Reg) : Meaning := binary b a d fun x y => x ||| ~~~ y
def execSll (b a d : Reg) : Meaning := binary b a d aluSll
def execSrl (b a d : Reg) : Meaning := binary b a d aluSrl
def execSra (b a d : Reg) : Meaning := binary b a d aluSra
def execSlt (b a d : Reg) : Meaning := binary b a d fun x y => b2w (x.slt y)
def execSltn (b a d : Reg) : Meaning := binary b a d fun x y => b2w (x.ult y)
def execMin (b a d : Reg) : Meaning := binary b a d fun x y => if y.slt x then y else x
def execMax (b a d : Reg) : Meaning := binary b a d fun x y => if x.slt y then y else x
def execMinn (b a d : Reg) : Meaning := binary b a d fun x y => if y.ult x then y else x
def execMaxn (b a d : Reg) : Meaning := binary b a d fun x y => if x.ult y then y else x
def execMul (b a d : Reg) : Meaning := binary b a d (· * ·)
def execMulh (b a d : Reg) : Meaning := binary b a d aluMulh
def execMulhn (b a d : Reg) : Meaning := binary b a d aluMulhn

/-- A division: a zero divisor traps under status.dzt with the defined result in faddr, before anything is written (R198). -/
def division (b a d : Reg) (f : Word → Word → Word) : Meaning :=
  issueValue (opAB b a d) d do
    let x ← rd a
    let y ← rd b
    let s ← get
    check (!(decide (y = 0#64) && s.half.dzt)) 0x13 0 (f x y)
    pure (f x y)
def execDiv (b a d : Reg) : Meaning := division b a d aluDiv
def execDivn (b a d : Reg) : Meaning := division b a d aluDivn
def execRem (b a d : Reg) : Meaning := division b a d aluRem
def execRemn (b a d : Reg) : Meaning := division b a d aluRemn

def execAddw (b a d : Reg) : Meaning := binary b a d fun x y => word32 (x + y).toNat
def execSubw (b a d : Reg) : Meaning := binary b a d fun x y => word32 (x - y).toNat
def execSllw (b a d : Reg) : Meaning := binary b a d fun x y => word32 (shiftL 32 x.toNat y.toNat)
def execSrlw (b a d : Reg) : Meaning := binary b a d fun x y => word32 (shiftR 32 x.toNat y.toNat)
def execSraw (b a d : Reg) : Meaning := binary b a d fun x y => word32 (shiftA 32 x.toNat y.toNat)
def execMulw (b a d : Reg) : Meaning := binary b a d fun x y => word32 (x * y).toNat
def execClz (a d : Reg) : Meaning := unary a d aluClz
def execCtz (a d : Reg) : Meaning := unary a d aluCtz
def execPopc (a d : Reg) : Meaning := unary a d aluPopc
def execBswap (a d : Reg) : Meaning := unary a d aluBswap

/-! ### Immediate forms (R199 to R201) -/

def execAddi (imm : BitVec 12) (a d : Reg) : Meaning := unary a d (· + sext imm)
def execAndi (imm : BitVec 12) (a d : Reg) : Meaning := unary a d (· &&& sext imm)
def execOri (imm : BitVec 12) (a d : Reg) : Meaning := unary a d (· ||| sext imm)
def execXori (imm : BitVec 12) (a d : Reg) : Meaning := unary a d (· ^^^ sext imm)
def execSlti (imm : BitVec 12) (a d : Reg) : Meaning := unary a d fun x => b2w (x.slt (sext imm))
def execSlli (sh : BitVec 6) (a d : Reg) : Meaning := unary a d fun x => BitVec.ofNat 64 (shiftL 64 x.toNat sh.toNat)
def execSrli (sh : BitVec 6) (a d : Reg) : Meaning := unary a d fun x => BitVec.ofNat 64 (shiftR 64 x.toNat sh.toNat)
def execSrai (sh : BitVec 6) (a d : Reg) : Meaning := unary a d fun x => BitVec.ofNat 64 (shiftA 64 x.toNat sh.toNat)
def execRori (sh : BitVec 6) (a d : Reg) : Meaning := unary a d fun x => BitVec.ofNat 64 (rotR 64 x.toNat sh.toNat)
def execSlliw (sh : BitVec 6) (a d : Reg) : Meaning := unary a d fun x => word32 (shiftL 32 x.toNat sh.toNat)
def execSrliw (sh : BitVec 6) (a d : Reg) : Meaning := unary a d fun x => word32 (shiftR 32 x.toNat sh.toNat)
def execSraiw (sh : BitVec 6) (a d : Reg) : Meaning := unary a d fun x => word32 (shiftA 32 x.toNat sh.toNat)
def execRoriw (sh : BitVec 6) (a d : Reg) : Meaning := unary a d fun x => word32 (rotR 32 x.toNat sh.toNat)
def execLix (imm : BitVec 18) (d : Reg) : Meaning := issueValue { dsts := [d] } d (pure (sext imm))
/-- lixs reads d before it writes it: d names g0–g39 or n0–n7 (R201). -/
def execLixs (imm : BitVec 18) (d : Reg) : Meaning :=
  issueValue { srcs := [d], dsts := [d], badCode := !d.dstGN } d (do let x ← rd d; pure (aluLixs x imm))

/-! ### Compact aliases (R41, R42) -/

def execCompactAdd (b d : CReg) : Meaning := compactBinary b d (· + ·)
def execCompactSub (b d : CReg) : Meaning := compactBinary b d (· - ·)
def execCompactAnd (b d : CReg) : Meaning := compactBinary b d (· &&& ·)
def execCompactOr (b d : CReg) : Meaning := compactBinary b d (· ||| ·)
def execCompactXor (b d : CReg) : Meaning := compactBinary b d (· ^^^ ·)
def execCompactSll (b d : CReg) : Meaning := compactBinary b d aluSll
def execCompactSrl (b d : CReg) : Meaning := compactBinary b d aluSrl
def execCompactSra (b d : CReg) : Meaning := compactBinary b d aluSra
def execCompactMul (b d : CReg) : Meaning := compactBinary b d (· * ·)
/-- The register move: ds is a destination alone. -/
def execCompactMove (b d : CReg) : Meaning :=
  issueValue { srcs := [b.src], dsts := [d.dst], len := 2 } d.dst (rd b.src)
def execCompactAddi (imm : BitVec 6) (d : CReg) : Meaning := compactUnary d (· + sext imm)
def execCompactLix (imm : BitVec 6) (d : CReg) : Meaning :=
  issueValue { dsts := [d.dst], len := 2 } d.dst (pure (sext imm))
def execCompactAndi (imm : BitVec 6) (d : CReg) : Meaning := compactUnary d (· &&& sext imm)
def execCompactSlli (imm : BitVec 6) (d : CReg) : Meaning :=
  compactUnary d fun x => BitVec.ofNat 64 (shiftL 64 x.toNat imm.toNat)
def execCompactSrli (imm : BitVec 6) (d : CReg) : Meaning :=
  compactUnary d fun x => BitVec.ofNat 64 (shiftR 64 x.toNat imm.toNat)
def execCompactSrai (imm : BitVec 6) (d : CReg) : Meaning :=
  compactUnary d fun x => BitVec.ofNat 64 (shiftA 64 x.toNat imm.toNat)

end Sys2Proof.Machine
end

