-- ==== Sys2Proof/Machine/Leave.lean ====
section
/-! DEFINITION. Leave controllers, power tokens and holds (R337 to R344). -/

namespace Sys2Proof.Machine

/-- Tokens of a reserve (R340). -/
def reserveSize : Nat := 176
/-- Requests of a share of a tile are served by the bay's reserve: the reflex array and seizing handlers (R340). -/
def usesReserve (t : Nat) (i : Fin 3) : Bool := isReflex t || decide (i = 2)
def Bay.take (b : Bay) (reserve : Bool) (n : Nat) : Bay :=
  if reserve then { b with resUsed := b.resUsed + n } else { b with used := b.used + n }
def Bay.give (b : Bay) (reserve : Bool) (n : Nat) : Bay :=
  if reserve then { b with resUsed := b.resUsed - n } else { b with used := b.used - n }
def Bay.free (b : Bay) : Nat := b.pool - b.used

/-- Change the slot that runs an activation. -/
def Slot.onAct (x : Slot) (id : Nat) (f : Slot → Slot) : Slot :=
  if x.act.id = id ∧ id ≠ 0 ∧ x.phase ≠ .free then f x else x
def Tile.onAct (t : Tile) (id : Nat) (f : Slot → Slot) : Tile :=
  { t with ctxs := t.ctxs.map fun c => { c with s0 := c.s0.onAct id f, s1 := c.s1.onAct id f } }
def State.onAct (s : State) (t : Nat) (id : Nat) (f : Slot → Slot) : State := s.modTile t fun x => x.onAct id f
/-- The activation of a number on a tile. -/
def Tile.findAct (t : Tile) (id : Nat) : Option Slot :=
  (t.ctxs.toList.flatMap fun c => [c.s0, c.s1]).find? fun x => decide (x.act.id = id) && decide (id ≠ 0) && decide (x.phase ≠ .free)

/-- Tokens that an activation's hold can still lend (R343). -/
def Act.unlent (a : Act) : Nat := a.hold - a.lent
/-- Queue a request, or serve it from a reserve at once (R339, R340). -/
def State.leaveRequest (s : State) (t : Nat) (i : Fin 3) (r : LvReq) : State × Bool :=
  if usesReserve t i then (s.modBay (bayOf t) fun b => b.take true r.cost, true)
  else (s.modBay (bayOf t) fun b => { b with lvq := b.lvq ++ [r] }, false)
/-- Return the tokens of an operation at its point of return (R338, R343). -/
def State.leaveReturn (s : State) (t : Nat) (i : Fin 3) (act tokens : Nat) (fromHold : Bool) : State :=
  if tokens = 0 then s
  else if fromHold then s.onAct t act fun x => { x with act := { x.act with lent := x.act.lent - tokens } }
  else s.modBay (bayOf t) fun b => b.give (usesReserve t i) tokens

/-- The rank of R339. -/
def LvReq.before (a b : LvReq) : Bool :=
  if a.prio ≠ b.prio then decide (b.prio < a.prio)
  else if a.cycle ≠ b.cycle then decide (a.cycle < b.cycle)
  else if a.tileIdx ≠ b.tileIdx then decide (a.tileIdx < b.tileIdx)
  else decide (a.kind < b.kind)
/-- The head of a queue: the first request that none ranks ahead of. -/
def lvHead : List LvReq → Option LvReq
  | [] => none
  | r :: rest =>
    match lvHead rest with
    | none => some r
    | some q => if q.before r then some q else some r

def MxCmd.granted (c : MxCmd) (uid cost : Nat) : MxCmd :=
  if c.uid = uid then { c with wantsLeave := false, tokens := cost } else c
def Engine.granted (e : Engine) (uid cost : Nat) : Engine :=
  { e with queue := e.queue.map fun c => c.granted uid cost }
def Transfer.granted (x : Transfer) (uid cost : Nat) : Transfer :=
  if x.uid = uid ∧ x.phase = .leave then { x with phase := .sent, tokens := cost } else x
/-- What a granted request starts. -/
def State.grantEffect (s : State) (r : LvReq) : State :=
  match r.kind with
  | 0 => s.onAct r.tile r.key fun x => { x with act := { x.act with lvReq := 2, hold := r.cost, lent := 0 } }
  | 1 => s.modTile r.tile fun t => { t with engines := t.engines.map fun e => e.granted r.key r.cost }
  | 2 => { s with transfers := s.transfers.map fun x => x.granted r.key r.cost }
  | _ => s.modTile r.tile fun t => { t with burst := some s.cycle, burstReq := false }
/-- The transcendental instructions (R244). -/
def VOp.transcendental : VOp → Bool
  | .exp2 | .log2 | .rcp | .rsqrt => true
  | _ => false
/-- The oldest vector instruction of a slot is a transcendental. -/
def Slot.headBurst (x : Slot) : Bool := match x.half.vq with | v :: _ => v.op.transcendental | [] => false
/-- The ungranted requests of a slot's activation, in order of request; that of a burst belongs to every activation of the tile whose
vector instruction waits for it (R341). -/
def State.lvOf (s : State) (t : Nat) (x : Slot) : List LvReq :=
  (s.bay (bayOf t)).lvq.filter fun r => decide (r.tile = t) && decide (x.act.id ≠ 0) &&
    (if r.kind = 3 then x.headBurst && !x.seizing else decide (r.act = x.act.id))
/-- A context parked for leave resumes when no request of its activation is left (R341). -/
def State.leaveResumed (s : State) (t : Nat) (x : Slot) : Slot :=
  if x.phase = .parked 3 ∧ (s.lvOf t x).isEmpty then { x with phase := .live } else x
/-- Grant the head of a bay's queue when the free tokens cover it (R339); contexts that were parked for leave resume when their
activation has no request left (R341). -/
def State.leaveGrant (s : State) (b : Nat) : Option State :=
  match lvHead (s.bay b).lvq with
  | none => none
  | some r =>
    if (s.bay b).free < r.cost then none
    else
      let q := (s.bay b).lvq.erase r
      let s1 := (s.modBay b fun y => { (y.take false r.cost) with lvq := q }).grantEffect r
      some (s1.modTile r.tile fun x => { x with ctxs := x.ctxs.map fun k =>
        { k with s0 := s1.leaveResumed r.tile k.s0, s1 := s1.leaveResumed r.tile k.s1 } })

/-- Drop the hold of an activation: tokens not lent return at once, lent ones when their operations end (R343). -/
def MxCmd.unhold (c : MxCmd) (act : Nat) : MxCmd := if c.act = act then { c with fromHold := false } else c
def Transfer.unhold (x : Transfer) (act : Nat) : Transfer := if x.owner = act then { x with fromHold := false } else x
def State.dropHold (s : State) (t : Nat) (i : Fin 3) (a : Act) : State :=
  let s1 := (s.modBay (bayOf t) fun b =>
      { (b.give (usesReserve t i) a.unlent) with lvq := b.lvq.filter fun r => !(decide (r.kind = 0) && decide (r.key = a.id)) })
  let s2 := s1.modTile t fun x => { x with engines := x.engines.map fun e =>
      { e with queue := e.queue.map fun c => c.unhold a.id, entering := e.entering.map fun c => c.unhold a.id } }
  let s3 := { s2 with transfers := s2.transfers.map fun x => Transfer.unhold x a.id }
  let s4 := s3.modTile t fun x => { x with
      burstAct := (if x.burstAct = a.id then 0 else x.burstAct), rburst := x.rburst.map fun b => (b.1, if b.2 = a.id then 0 else b.2) }
  s4.onAct t a.id fun x => { x with act := { x.act with hold := 0, lent := 0, lvReq := 0 } }
/-- An activation that ends before its grant takes no tokens. -/
def State.cancelLeave (s : State) (t : Nat) (act : Nat) : State :=
  let asks := (s.bay (bayOf t)).lvq.any fun r => decide (r.kind = 3) && decide (r.tile = t) && decide (r.act = act)
  (s.modBay (bayOf t) fun b =>
    { b with lvq := b.lvq.filter fun r => !((decide (r.kind = 0) && decide (r.key = act)) || (decide (r.kind = 3) && decide (r.tile = t) && decide (r.act = act))) }).modTile t
    fun x => { x with burstReq := x.burstReq && !asks }

/-- Tokens for an operation of an activation: lent by its hold while that covers the cost, else requested (R338, R343). The second
component is true when the operation need not wait, the third when its hold lends the tokens. -/
def State.obtainLeave (s : State) (t : Nat) (i : Fin 3) (act : Nat) (r : LvReq) : State × Bool × Bool :=
  match (s.tile t).findAct act with
  | some x =>
    if 0 < x.act.hold ∧ r.cost ≤ x.act.unlent then
      (s.onAct t act fun y => { y with act := { y.act with lent := y.act.lent + r.cost } }, true, true)
    else let g := s.leaveRequest t i r; (g.1, g.2, false)
  | none => let g := s.leaveRequest t i r; (g.1, g.2, false)

/-! ### lv.hold, lv.drop, lv.stat, lv.share (R342, R343) -/

/-- The pool an activation's hold is limited by. -/
def State.holdLimit (s : State) : Nat := if usesReserve s.cur s.share then reserveSize else (s.bay (bayOf s.cur)).pool

/-- lv.hold requests n tokens and waits until the grant; executing it again finds its own request (R341, R343). -/
def execLvHold (a : Reg) : Meaning :=
  issue { srcs := [a] } do
    let n ← rd a
    let s ← get
    if s.act.lvReq = 2 then
      update fun s => s.modAct fun x => { x with lvReq := 3 }
      pure .next
    else if s.act.lvReq = 1 then wait .hold
    else
      requireOperand (decide (n ≠ 0#64) && decide (n.toNat ≤ s.holdLimit) && decide (s.act.hold = 0))
      let r : LvReq := { cost := n.toNat, prio := s.act.prio, cycle := s.cycle, tileIdx := bayIdx s.cur, kind := 0,
                         tile := s.cur, act := s.act.id, key := s.act.id }
      if usesReserve s.cur s.share then
        update fun s => (s.leaveRequest s.cur s.share r).1.modAct fun x => { x with hold := n.toNat, lent := 0, lvReq := 3 }
        pure .next
      else stop (.waitIn .hold fun s => (s.leaveRequest s.cur s.share r).1.modAct fun x => { x with lvReq := 1 })
def execLvDrop : Meaning :=
  issue {} do
    update fun s => if s.act.hold = 0 then s else s.dropHold s.cur s.share s.act
    pure .next
def execLvStat (b d : Reg) : Meaning :=
  issueValue { srcs := [b], dsts := [d] } d do
    let k ← rd b
    requireOperand (decide (k.toNat ≤ 3))
    let s ← get
    let y := s.bay (bayOf s.cur)
    let res := usesReserve s.cur s.share
    pure (BitVec.ofNat 64 (match k.toNat with
      | 0 => if res then reserveSize - y.resUsed else y.free
      | 1 => if res then reserveSize else y.pool
      | 2 => if res then 0 else y.lvq.length
      | _ => s.act.unlent))

/-- The guard of the privileged forms: elsewhere than on the cores named it is a protection violation, which freezes the context
(R66, R342, R409, R432). -/
def privileged (ok : Nat → Bool) : Exec Unit := do
  let s ← get
  check (ok s.cur) 0x30

/-- lv.share sets a bay's pool (R342): status 1 for an operand out of range. -/
def lvShareStatus (a b : Word) : Nat :=
  if a.toNat < 34 ∧ 10 ≤ b.toNat ∧ b.toNat ≤ 4095 then 0 else 1
def execLvShare (b a d : Reg) : Meaning :=
  issueValue (opAB b a d) d do
    let x ← rd a
    let y ← rd b
    privileged isSystem
    let st := lvShareStatus x y
    if st = 0 then update fun s => s.modBay x.toNat fun k => { k with pool := y.toNat }
    pure (BitVec.ofNat 64 st)

end Sys2Proof.Machine
end

