-- ==== Sys2Proof/Machine/Messages.lean ====
section
/-! DEFINITION. The out-buffer, messages, groups and barriers: majors 28 and 29 (R302 to R326). -/

namespace Sys2Proof.Machine

/-! ### The out-buffer (R311) -/

/-- Limits of a share: items and bytes (R311). -/
def State.outLimits (s : State) (t : Nat) (i : Fin 3) : Nat × Nat :=
  if i = 2 then (8, 1024)
  else if s.armed t then (if (s.tile t).split then (12, 1536) else (24, 3072))
  else if (s.tile t).split then (16, 2048) else (32, 4096)
def outBytes (items : List OutItem) : Nat := items.foldl (fun n x => n + x.bytes) 0
/-- There is room for an item of n bytes. -/
def State.outRoom (s : State) (n : Nat) : Bool :=
  let items := ((s.tile s.cur).share s.share).out
  let lim := s.outLimits s.cur s.share
  decide (items.length + 1 ≤ lim.1) && decide (outBytes items + n ≤ lim.2)
/-- The room check comes before any state changes: the catchable trap 0x10 names the bytes the item needs (R311, R389). -/
def checkOut (n : Nat) : Exec Unit := do
  let s ← get
  check (s.outRoom n) 0x10 0 (BitVec.ofNat 64 n)
def appendOut (n : Nat) (k : OutKind) : Exec Unit := do
  checkOut n
  update fun s => s.modShareAt s.cur s.share fun x => { x with out := x.out ++ [{ act := s.act.id, bytes := n, kind := k }] }

/-! ### Operand words (R319, R326) -/

/-- Bits of a word that lie outside the given fields are 0. -/
def onlyBits (w : Word) (fields : List (Nat × Nat)) : Bool :=
  (List.range 64).all fun i => !w.getLsbD i || fields.any fun f => decide (f.2 ≤ i) && decide (i ≤ f.1)

def wfield (w : Word) (hi lo : Nat) : Nat := bits w.toNat hi lo
/-- The tile that a tile word names; a wrong array or a tile beyond the partition is an illegal operand (R319). -/
def targetTile (w : Nat) : Exec Nat := do
  let s ← get
  match s.resolve w with
  | some t => pure t
  | none => illegalOperand
/-- A payload word: source address and length (R319). -/
def payloadWord (w : Word) (minLen : Nat) : Exec (Nat × Nat) := do
  requireOperand (onlyBits w [(19, 0), (39, 32)])
  let a := wfield w 19 0
  let n := wfield w 39 32
  requireOperand (decide (a % 8 = 0) && decide (n % 8 = 0) && decide (minLen ≤ n) && decide (n ≤ 240))
  pure (a, n)
/-- The body of a message from the own scratchpad with its poison mask; reading it corrects soft errors and consumes nothing (R110, R320). -/
def bodyOwn (a n : Nat) : Exec (List Byte × BitVec 30) := do
  let s ← get
  let _ ← checkWin s.cur 0 a n .load
  ownWait a n
  update fun s => s.senseWin s.cur s.share a n
  let s ← get
  let pm := (List.range (n / 8)).filter fun k => s.winPoisoned s.cur s.share (a + 8 * k) 8
  pure (s.readWin s.cur s.share a n, BitVec.ofNat 30 (pm.foldl (fun acc k => acc + 2 ^ k) 0))
/-- The header fields that a sending context gives every message (R304). -/
def State.newMsg (s : State) : Msg :=
  { launch := s.act.launch, pid := s.act.pid, tenant := s.act.tenant, source := s.tileWord, src := s.cur }

/-! ### Major 28 (R319 to R321) -/

def repNet (rep : Bool) : Nat := if rep then 1 else 0

def execMsgSend (rep : Bool) (b a : Reg) : Meaning :=
  issue { srcs := [a, b] } do
    let tw ← rd a
    let pw ← rd b
    requireOperand (onlyBits tw [(10, 0), (21, 16)])
    let p ← payloadWord pw 0
    let t ← targetTile (wfield tw 10 0)
    let body ← bodyOwn p.1 p.2
    let s ← get
    appendOut (16 + p.2) (.msgs [{ s.newMsg with
      kind := 0, vnet := repNet rep, chan := wfield tw 21 16, dest := BitVec.ofNat 11 (wfield tw 10 0),
      dst := t, body := body.1, pmask := body.2 }])
    pure .next
/-- msg.sendn reads n0 to n(k−1) as they stand, without consuming their poison, which becomes the mask (R320). -/
def execMsgSendn (k : BitVec 3) (rep : Bool) (a : Reg) : Meaning :=
  issue { srcs := [a] } do
    let tw ← rd a
    requireOperand (onlyBits tw [(10, 0), (21, 16)])
    let t ← targetTile (wfield tw 10 0)
    let s ← get
    let n := k.toNat + 1
    appendOut (16 + 8 * n) (.msgs [{ s.newMsg with
      kind := 0, vnet := repNet rep, chan := wfield tw 21 16, dest := BitVec.ofNat 11 (wfield tw 10 0), dst := t,
      body := wordsBody (s.half.n.toList.take n), pmask := BitVec.ofNat 30 (s.half.npoison.toNat % 2 ^ n) }])
    pure .next
def execMsgSpawn (a : Reg) : Meaning :=
  issue { srcs := [a] } do
    let tw ← rd a
    requireOperand (onlyBits tw [(10, 0)])
    let t ← targetTile (wfield tw 10 0)
    let s ← get
    appendOut 32 (.msgs [{ s.newMsg with
      kind := 1, vnet := 0, dest := BitVec.ofNat 11 (wfield tw 10 0), dst := t, body := wordsBody (s.half.e.toList.take 3) }])
    pure .next
def execMsgHost (b : Reg) : Meaning :=
  issue { srcs := [b] } do
    let pw ← rd b
    let p ← payloadWord pw 0
    let body ← bodyOwn p.1 p.2
    let s ← get
    appendOut (16 + p.2) (.host { s.newMsg with
      kind := 0, vnet := 3, dest := 0x7FF#11, body := body.1, pmask := body.2 })
    pure .next
def execMsgPut (rep : Bool) (b a : Reg) : Meaning :=
  issue { srcs := [a, b] } do
    let tw ← rd a
    let pw ← rd b
    requireOperand (onlyBits tw [(10, 0), (51, 32)] && decide (wfield tw 51 32 % 8 = 0))
    let p ← payloadWord pw 8
    let t ← targetTile (wfield tw 10 0)
    let body ← bodyOwn p.1 p.2
    let s ← get
    appendOut (16 + p.2) (.msgs [{ s.newMsg with
      kind := 2, vnet := repNet rep, dest := BitVec.ofNat 11 (wfield tw 10 0), dst := t, addr := wfield tw 51 32,
      body := body.1, pmask := body.2 }])
    pure .next
/-- msg.arg reads a payload word of the triggering message; a poisoned word is consumed (R321). -/
def execMsgArg (b a : Reg) : Meaning :=
  issueValue { srcs := [b], dsts := [a] } a do
    let i ← rd b
    requireOperand (decide (i.toNat ≤ 29))
    let s ← get
    let m := s.act.msg
    check (!m.pmask.getLsbD i.toNat) 0x28 2 i
    pure (if 8 * i.toNat + 8 ≤ m.body.length then m.word i.toNat else 0#64)
def execMsgHdr (b a : Reg) : Meaning :=
  issueValue { srcs := [b], dsts := [a] } a do
    let i ← rd b
    requireOperand (decide (i.toNat ≤ 1))
    let s ← get
    pure (BitVec.ofNat 64 (s.act.msg.header / 2 ^ (64 * i.toNat)))
/-- A channel of the activation's tenant (R302, R378). -/
def State.ownsChannel (s : State) (c : Nat) : Bool :=
  if s.share = 2 then false
  else !(s.tile s.cur).split || (decide (c < 32) == decide (s.share = 0))
def Tile.modHandler (t : Tile) (c : Nat) (f : Handler → Handler) : Tile :=
  let k : Fin 64 := Fin.ofNat 64 c
  { t with handlers := t.handlers.set k.val (f (t.handlers.get k)) k.isLt }
def execMsgMask (c : BitVec 6) (b : Reg) : Meaning :=
  issue { srcs := [b] } do
    let x ← rd b
    requireOperand (decide (x.toNat ≤ 1))
    let s ← get
    requireOperand (s.ownsChannel c.toNat)
    update fun s => s.modTile s.cur fun t => t.modHandler c.toNat fun h => { h with mask := decide (x = 1#64) }
    pure .next

/-! ### Groups (R322, R326) -/

def Launch.group (l : Launch) (g : Nat) : BitVec 512 := l.groups.getD g 0#512
/-- Logical numbers of the members, rising. -/
def members (g : BitVec 512) : List Nat := (List.range 512).filter fun t => g.getLsbD t
def groupRank (g : BitVec 512) (t : Nat) : Nat := (members g).countP fun x => decide (x < t)
/-- The tile's logical number within its partition. -/
def State.logicalTile (s : State) : Nat := s.tileWord.toNat % 1024
/-- The tile is a member of a group of its launch; a seizing handler has no groups (R322, R378). -/
def State.member (s : State) (g : Nat) : Bool := decide (s.share ≠ 2) && (s.launch.group g).getLsbD s.logicalTile
/-- The tile of a logical number of the current partition. -/
def State.memberTile (s : State) (l : Nat) : Nat := (s.resolve ((if isReflex s.cur then 1024 else 0) + l)).getD s.cur
def memberWord (t l : Nat) : BitVec 11 := BitVec.ofNat 11 ((if isReflex t then 1024 else 0) + l)

def execGrpRank (b a : Reg) : Meaning :=
  issueValue { srcs := [b], dsts := [a] } a do
    let g ← rd b
    requireOperand (decide (g.toNat < 256))
    let s ← get
    pure (if s.member g.toNat then BitVec.ofNat 64 (groupRank (s.launch.group g.toNat) s.logicalTile) else Word.ones)
def execGrpSize (b a : Reg) : Meaning :=
  issueValue { srcs := [b], dsts := [a] } a do
    let g ← rd b
    let s ← get
    requireOperand (decide (g.toNat < 256) && s.member g.toNat)
    pure (BitVec.ofNat 64 (members (s.launch.group g.toNat)).length)
def execGrpTile (b a : Reg) : Meaning :=
  issueValue { srcs := [b], dsts := [a] } a do
    let w ← rd b
    let s ← get
    requireOperand (onlyBits w [(7, 0), (24, 16)] && s.member (wfield w 7 0))
    pure (match (members (s.launch.group (wfield w 7 0)))[wfield w 24 16]? with
      | some l => BitVec.ofNat 64 l
      | none => Word.ones)
/-- grp.send: one item; at release one message per member in increasing rank. -/
def execGrpSend (rep : Bool) (b a : Reg) : Meaning :=
  issue { srcs := [a, b] } do
    let gw ← rd a
    let pw ← rd b
    let s ← get
    requireOperand (onlyBits gw [(7, 0), (21, 16)] && s.member (wfield gw 7 0))
    let p ← payloadWord pw 0
    let body ← bodyOwn p.1 p.2
    let m := { s.newMsg with kind := 0, vnet := repNet rep, chan := wfield gw 21 16, body := body.1, pmask := body.2 }
    appendOut (16 + p.2) (.msgs ((members (s.launch.group (wfield gw 7 0))).map fun l =>
      { m with dest := memberWord s.cur l, dst := s.memberTile l }))
    pure .next
/-- bar.arr: an arrival at the group's home (R324 to R326). -/
def execBarArr (a : Reg) : Meaning :=
  issue { srcs := [a] } do
    let w ← rd a
    let s ← get
    requireOperand (onlyBits w [(7, 0), (26, 16), (37, 32)] && s.member (wfield w 7 0))
    let home := (members (s.launch.group (wfield w 7 0))).headD 0
    appendOut 32 (.msgs [{ s.newMsg with
      kind := 3, vnet := 2, chan := wfield w 37 32, dest := memberWord s.cur home, dst := s.memberTile home,
      body := wordsBody [w, 0#64] }])
    pure .next

end Sys2Proof.Machine
end

