-- ==== Sys2Proof/Machine/Matrix.lean ====
section
/-! DEFINITION. The matrix engine: command words, queues, what a command computes, and the instructions of major 30 (R250 to R280). -/

namespace Sys2Proof.Machine

/-! ### Lanes, windows and rows (R251, R253, R269) -/

/-- Lanes of an engine half, and the physical lane of its local lane 0. -/
def State.lanes (s : State) (t : Nat) (i : Fin 3) : Nat := if i ≠ 2 ∧ (s.tile t).split then 32 else 64
def State.laneBase (s : State) (t : Nat) (i : Fin 3) : Nat := if i = 0 ∧ (s.tile t).split then 32 else 0
/-- Bytes of a K-step of B: 16 KiB, or 8 KiB on a half (R261). -/
def State.stepBytes (s : State) (t : Nat) (i : Fin 3) : Nat := s.lanes t i * 256
/-- The B-store window (R269). -/
def State.bWindow (s : State) (t : Nat) (i : Fin 3) : Nat :=
  if i = 2 then 0x80000
  else if isReflex t then 0x200000
  else
    let full := if s.armed t then 0x380000 else 0x400000
    if (s.tile t).split then full / 2 else full
/-- The whole-tile offset of a window offset (R251, R269). -/
def State.bOffset (s : State) (t : Nat) (i : Fin 3) (o : Nat) : Nat :=
  if i = 2 then 0x380000 + o
  else if (s.tile t).split then
    let lane := o / 64 % 32 + s.laneBase t i
    let sb := o / 2048 * 64 + o % 64
    sb / 64 * 4096 + lane * 64 + sb % 64
  else o
def State.bKey (s : State) (t : Nat) (i : Fin 3) (o : Nat) : Nat := bstoreKey t (s.bOffset t i o)
/-- Byte q of local lane j of the step at a window offset (R251). -/
def State.bByte (s : State) (t : Nat) (i : Fin 3) (base j q : Nat) : Nat :=
  s.bKey t i (base + q / 64 * (64 * s.lanes t i) + j * 64 + q % 64)
def rowLimit (i : Fin 3) : Nat := if i = 2 then 32 else 128
/-- The physical row of a row of an engine half (R269). -/
def physRow (i : Fin 3) (r : Nat) : Nat := if i = 2 then 128 + r else r
def State.accKeyOf (s : State) (t : Nat) (i : Fin 3) (r j : Nat) : Nat := accKey t (physRow i r) (s.laneBase t i + j)
def State.accGet (s : State) (t : Nat) (i : Fin 3) (r j : Nat) : Nat := leNat (s.mem.bytes (s.accKeyOf t i r j) 4)
def State.accSet (s : State) (t : Nat) (i : Fin 3) (r j v : Nat) : State :=
  ({ s with mem := s.mem.write (s.accKeyOf t i r j) (leBytes 4 v) }).mark [s.accKeyOf t i r j / 256]
def Engine.rowPoison (e : Engine) (r : Nat) : Bool := e.accPoison.getLsbD r
def Engine.setRowPoison (e : Engine) (r : Nat) (b : Bool) : Engine :=
  { e with accPoison := if b then e.accPoison ||| (1#160 <<< r) else e.accPoison &&& ~~~ (1#160 <<< r) }

/-- A landing into the B-store clears the latch buffers whose step it overlaps (R252). -/
def Engine.clearLatch (e : Engine) (o n ks : Nat) : Engine :=
  let hurt (l : Option (Nat × Nat)) : Bool := l.any fun x => decide (x.2 < o + n) && decide (o < x.2 + ks)
  { e with
    latch0 := if hurt e.latch0 then none else e.latch0
    latchB0 := if hurt e.latch0 then [] else e.latchB0
    latch1 := if hurt e.latch1 then none else e.latch1
    latchB1 := if hurt e.latch1 then [] else e.latchB1 }
/-- Both buffers become invalid (R254, R418). -/
def Engine.dropLatches (e : Engine) : Engine := { e with latch0 := none, latchB0 := [], latch1 := none, latchB1 := [] }
/-- The valid buffer that carries a step's tag: false for buffer 0, true for buffer 1 (R252). -/
def Engine.latchHit (e : Engine) (tag : Nat × Nat) : Option Bool :=
  if e.latch0 = some tag then some false else if e.latch1 = some tag then some true else none
def Engine.latchBytes (e : Engine) (b : Bool) : List Byte := if b then e.latchB1 else e.latchB0
def Engine.latchFill (e : Engine) (b : Bool) (tag : Nat × Nat) (bs : List Byte) : Engine :=
  if b then { e with latch1 := some tag, latchB1 := bs } else { e with latch0 := some tag, latchB0 := bs }
/-- The step at a window offset as the B-store holds it: the 256 bytes of each lane in turn (R251, R252). -/
def State.stepAt (s : State) (t : Nat) (i : Fin 3) (base : Nat) : List Byte :=
  (List.range (s.lanes t i)).flatMap fun j => (List.range 256).map fun q => s.mem.get (s.bByte t i base j q)
/-- A latch load fills one buffer (R252, R266). -/
def State.latchLoad (s : State) (t : Nat) (i : Fin 3) (b : Bool) (tag : Nat × Nat) : State :=
  s.modEngine t i fun e => e.latchFill b tag (s.stepAt t i tag.2)
/-- The buffer that serves a step: the one that it hits, else the one that the step before it does not use, loaded with it; a first step that
does not hit loads buffer 0 (R252, R265; the last DEDUCED, log 71). -/
def State.latchStep (s : State) (t : Nat) (i : Fin 3) (prev : Option Bool) (tag : Nat × Nat) : State × Bool :=
  match ((s.tile t).engine i).latchHit tag with
  | some b => (s, b)
  | none => let b := (prev.map fun x => !x).getD false; (s.latchLoad t i b tag, b)
/-- The steps of a command as its latch buffers serve them, from step k on, and the buffer that the last one uses (R252, R265, R266). -/
def State.latchSteps (s : State) (t : Nat) (i : Fin 3) (tenant base : Nat) : Nat → Nat → Option Bool → State × List (List Byte) × Option Bool
  | 0, _, prev => (s, [], prev)
  | n + 1, k, prev =>
    let r := s.latchStep t i prev (tenant, base + k * s.stepBytes t i)
    let rest := r.1.latchSteps t i tenant base n (k + 1) (some r.2)
    (rest.1, ((r.1.tile t).engine i).latchBytes r.2 :: rest.2.1, rest.2.2)

/-! ### Command words (R259 to R262, R266 to R268, R271) -/

def afmtFp (c : Nat) : Option Fmt := if c = 6 then some f16 else if c = 7 then some bf16 else none
/-- Format pairs of R250. -/
def pairOk (afmt bfmt : Nat) : Bool :=
  (afmt = 2 && (bfmt = 2 || (9 ≤ bfmt && bfmt ≤ 15))) || (afmt = 6 && bfmt = 6) || (afmt = 7 && bfmt = 7)
def bfmtOk (c : Nat) : Bool := c = 2 || c = 6 || c = 7 || (9 ≤ c && c ≤ 15)
/-- Elements of a K-step and its scale groups (R250). -/
def kElems (afmt : Nat) : Nat := if afmt = 2 then 256 else 128
def kGroups (afmt : Nat) : Nat := if afmt = 2 then 2 else 1

/-- The fields of a shape word (R261). -/
def shM (b : Word) : Nat := wfield b 6 0 + 1
def shAcc0 (b : Word) : Nat := wfield b 15 8
def shNk (b : Word) : Nat := wfield b 27 16 + 1
def shAfmt (b : Word) : Nat := wfield b 31 28
def shBfmt (b : Word) : Nat := wfield b 35 32
def shAdd (b : Word) : Bool := b.getLsbD 36
def shRagged (b : Word) : Bool := b.getLsbD 37
def shGsb (b : Word) : Bool := b.getLsbD 38
def shSat (b : Word) : Bool := b.getLsbD 39
def shGs (b : Word) : Nat := wfield b 59 40
def shLayout (b : Word) : Nat := wfield b 62 60
def opBbase (a : Word) : Nat := wfield a 61 40
def opAstride (a : Word) : Nat := wfield a 39 20
def opAbase (a : Word) : Nat := wfield a 19 0

/-- The row offset that a command issued now will find: the last mx.cfg ahead of it (R264, R268). -/
def Engine.rowoffAhead (e : Engine) : Nat :=
  match ((e.queue ++ e.entering).filter fun c => decide (c.sub = 7)).getLast? with
  | some c => wfield c.a 28 20
  | none => e.rowoff

/-- The limits of an mx form that depend only on its words and on the holding (R98, R259). -/
def State.mxWordsOk (s : State) (t : Nat) (i : Fin 3) (sub : Nat) (a b : Word) : Bool :=
  let lim := rowLimit i
  let ks := s.stepBytes t i
  let g := s.lanes t i * 64
  let mma (layoutOk : Bool) : Bool :=
    layoutOk && decide (wfield a 63 62 = 0) && decide (opBbase a % g = 0) && decide (opAstride a % 256 = 0)
      && decide (opAbase a % 256 = 0) && !b.getLsbD 63 && !b.getLsbD 7 && decide (shGs b % 64 = 0)
      && pairOk (shAfmt b) (shBfmt b) && decide (shAcc0 b + shM b ≤ lim) && decide (opBbase a + shNk b * ks ≤ s.bWindow t i)
  let rows := onlyBits b [(15, 8), (6, 0)] && decide (shAcc0 b + shM b ≤ lim)
  match sub with
  | 0 => onlyBits a [(21, 0)] && decide (wfield a 21 0 % g = 0) && decide (wfield a 21 0 + ks ≤ s.bWindow t i) && decide (b = 0#64)
  | 1 => mma (decide (shLayout b = 0))
  | 2 => rows && decide (a = 0#64)
  | 3 => onlyBits a [(47, 47), (45, 0)] && decide (opAstride a % 64 = 0) && decide (opAbase a % 64 = 0)
      && onlyBits b [(27, 20), (17, 8), (6, 0)] && decide (wfield b 27 25 ≤ 4) && [0, 2, 4, 6, 7, 8].contains (wfield b 23 20)
      && decide (shAcc0 b + shM b ≤ lim) && !(a.getLsbD 47 && decide (wfield b 23 20 = 0))
      && !(a.getLsbD 47 && (s.tile t).split && (decide (32 ≤ wfield a 45 40) != decide (i = 1)))
  | 4 => onlyBits a [(39, 0)] && decide (opAstride a % 256 = 0) && decide (opAbase a % 256 = 0) && rows
  | 5 => mma (decide (shLayout b ≠ 0))
  | 7 => onlyBits a [(47, 32), (28, 0)] && decide (wfield a 19 0 % 64 = 0) && decide (b = 0#64)
  | _ => false

/-- The limits that depend on the engine and on the tile the command runs on: the rows of the slot map, and its window (R98, R264, R268). -/
def State.mxLimitsOk (s : State) (t : Nat) (i : Fin 3) (sub : Nat) (a b : Word) : Bool :=
  match sub with
  | 1 => !shRagged b || decide (((s.tile t).engine i).rowoffAhead + shM b ≤ 512)
  | 5 => !shRagged b || decide (((s.tile t).engine i).rowoffAhead + shM b ≤ 512)
  | 7 => (s.checkWindow t i 0#32 (wfield a 19 0) 2112 .load).isNone
  | _ => true

def osize (ofmt : Nat) : Nat := if ofmt = 0 ∨ ofmt = 8 then 4 else if ofmt = 2 then 1 else 2
/-- The scratchpad extents that a command reads or writes: address, bytes, and how they are checked (R261, R267, R271). -/
def State.mxExtents (s : State) (t : Nat) (i : Fin 3) (sub : Nat) (a b : Word) : List (Nat × Nat × AccKind) :=
  let c := s.lanes t i
  if sub = 1 ∨ sub = 5 then
    (opAbase a, (shNk b - 1) * opAstride a + 256 * shM b, .load) ::
      (if shGsb b then [(shGs b, 2 * shNk b * kGroups (shAfmt b) * c, .load)] else [])
  else if sub = 3 then [(opAbase a, (shM b - 1) * opAstride a + c * osize (wfield b 23 20), .engineWrite)]
  else if sub = 4 then [(opAbase a, (shM b - 1) * opAstride a + 4 * c, .load)]
  else []
/-- The first extent that fails, with its reason. -/
def State.mxExtentFault (s : State) (t : Nat) (i : Fin 3) (sub : Nat) (a b : Word) : Option (Nat × Nat) :=
  (s.mxExtents t i sub a b).findSome? fun x => (s.checkWindow t i 0#32 x.1 x.2.1 x.2.2).map fun r => (x.1, r)

/-- The prefixes of mx.mma and mx.bay, and of mx.rd (R262, R271). -/
def mmaPfx (p : BitVec 16) : Bool :=
  (decide (pfxFmt p = 0) || bfmtOk (pfxFmt p)) && decide (pfxRnd p = 0) && (decide (pfxGs p = 0) || decide (pfxGs p = 2))
def rdPfx (p : BitVec 16) : Bool := [0, 2, 4, 6, 7, 8].contains (pfxFmt p) && decide (pfxGs p = 0)
def setField (w : Word) (hi lo v : Nat) : Word := BitVec.ofNat 64 (setBits w.toNat hi lo v)
def mmaShape (p : BitVec 16) (b : Word) : Word :=
  let b1 := if pfxFmt p = 0 then b else setField b 35 32 (pfxFmt p)
  let b2 := if pfxSat p then setField b1 39 39 1 else b1
  if pfxGs p = 2 then setField b2 38 38 1 else b2
def rdShape (p : BitVec 16) (b : Word) : Word :=
  let b1 := if pfxFmt p = 0 then b else setField b 23 20 (pfxFmt p)
  let b2 := if pfxSat p then setField b1 24 24 1 else b1
  if pfxRnd p = 0 then b2 else setField b2 27 25 (pfxRnd p)

/-! ### Issue of a local command (R255, R259) -/

/-- A local command waits at issue while its half's queue is full; it enters two cycles later (R255). -/
def mxIssue (sub : Nat) (notify : Bool) (ch : Nat) (a b b0 : Word) : Exec Unit := do
  let s ← get
  requireOperand (s.mxWordsOk s.cur s.share sub a b && s.mxLimitsOk s.cur s.share sub a b)
  match s.mxExtentFault s.cur s.share sub a b with
  | some (ea, r) => spadFault ea 0 r
  | none => pure ()
  let e := (s.tile s.cur).engine s.share
  waitUntil (decide (e.queue.length + e.entering.length < 8))
  let id ← freshId
  let md := if wfield b 27 25 = 0 then RMode.ofBits s.half.frnd else RMode.ofBits (BitVec.ofNat 2 (wfield b 27 25 - 1))
  let cmd : MxCmd := {
    uid := id, sub := sub, a := a, b := b, b0 := b0, notify := if notify then some ch else none, tenant := s.act.tenant,
    launch := s.act.launch, pid := s.act.pid, act := s.act.id, prio := s.act.prio, mode := md, core := s.tileWord.toNat % 1024,
    fork := some (s.cur, s.ctx, id) }
  update fun s => s.modEngine s.cur s.share fun e => { e with entering := e.entering ++ [cmd] }
/-- With notify clear, the channel bits are 0 (R259). -/
def chanIllegal (notify : Bool) (c : BitVec 6) : Bool := !notify && decide (c ≠ 0#6)

def execMxLdb (a : Reg) : Meaning :=
  issue { srcs := [a] } (do let x ← rd a; mxIssue 0 false 0 x 0#64 0#64; pure .next)
def execMxMma (notify : Bool) (c : BitVec 6) (b a : Reg) : Meaning :=
  issue { srcs := [a, b], pfx := mmaPfx, illegal := chanIllegal notify c } do
    let x ← rd a
    let y ← rd b
    let s ← get
    mxIssue 1 notify c.toNat x (mmaShape s.half.pfx y) y
    pure .next
def execMxZero (notify : Bool) (c : BitVec 6) (b : Reg) : Meaning :=
  issue { srcs := [b], illegal := chanIllegal notify c } (do let y ← rd b; mxIssue 2 notify c.toNat 0#64 y y; pure .next)
def execMxRd (notify : Bool) (c : BitVec 6) (b a : Reg) : Meaning :=
  issue { srcs := [a, b], pfx := rdPfx, illegal := chanIllegal notify c } do
    let x ← rd a
    let y ← rd b
    let s ← get
    mxIssue 3 notify c.toNat x (rdShape s.half.pfx y) y
    pure .next
def execMxLdacc (notify : Bool) (c : BitVec 6) (b a : Reg) : Meaning :=
  issue { srcs := [a, b], illegal := chanIllegal notify c } do
    let x ← rd a
    let y ← rd b
    mxIssue 4 notify c.toNat x y y
    pure .next
def execMxCfg (a : Reg) : Meaning :=
  issue { srcs := [a] } (do let x ← rd a; mxIssue 7 false 0 x 0#64 0#64; pure .next)
/-- mx.bay is buffered and needs the whole bay; a seizing handler has none (R278, R280, R378). -/
def execMxBay (notify : Bool) (c : BitVec 6) (b a : Reg) : Meaning :=
  issue { srcs := [a, b], pfx := mmaPfx, illegal := chanIllegal notify c } do
    let x ← rd a
    let y ← rd b
    let s ← get
    let sh := mmaShape s.half.pfx y
    requireOperand (s.mxWordsOk s.cur s.share 5 x sh && s.mxLimitsOk s.cur s.share 5 x sh
      && decide (((s.tile s.cur).share s.share).bayMask = 0xFFFF#16) && decide (s.share ≠ 2))
    match s.mxExtentFault s.cur s.share 5 x sh with
    | some (ea, r) => spadFault ea 0 r
    | none => pure ()
    checkOut 64
    let id ← freshId
    appendOut 64 (.bay {
      uid := id, sub := 5, a := x, b := sh, b0 := y, notify := if notify then some c.toNat else none,
      tenant := s.act.tenant, launch := s.act.launch, pid := s.act.pid, prio := s.act.prio, core := s.tileWord.toNat % 1024,
      fork := some (s.cur, s.ctx, id) })
    pure .next
/-- Local commands of an activation that have not completed (R258). -/
def State.mxPending (s : State) (t : Nat) (act : Nat) : Bool :=
  (s.tile t).engines.toList.any fun e => (e.queue ++ e.entering).any fun c => decide (c.act = act)
/-- The engine status word (R276). -/
def Engine.status (e : Engine) : Word :=
  BitVec.ofNat 64 (e.flags.toNat + (match e.origin with | some o => 256 + o.toNat * 1024 | none => 0))
def execMxStat (b a : Reg) : Meaning :=
  issueValue { srcs := [b], dsts := [a] } a do
    let x ← rd b
    requireOperand (onlyBits x [(0, 0)])
    let s ← get
    waitUntil (!s.mxPending s.cur s.act.id) .engine
    if x = 1#64 then update fun s => s.modEngine s.cur s.share fun e => { e with flags := 0#5, origin := none }
    pure ((s.tile s.cur).engine s.share).status

/-! ### What a command computes (R263, R264, R267, R268, R272) -/

/-- What a command leaves beside its writes: flags, poison met, and the reason of an engine error. -/
structure MxResult where
  st : State
  flags : Flags := noFlags
  poison : Bool := false
  err : Option Nat := none
  /-- the latch buffer that the last step uses -/
  buf : Option Bool := none

/-- The slot map as a command reads it (R264). -/
def State.slotValid (s : State) (t : Nat) (i : Fin 3) (e : Engine) (br : Nat) : Bool :=
  decide (((s.readWin t i (e.slotMap + br / 8) 1).headD 0#8).toNat / 2 ^ (br % 8) % 2 = 1)
def State.slotLen (s : State) (t : Nat) (i : Fin 3) (e : Engine) (br : Nat) : Nat :=
  leNat (s.readWin t i (e.slotMap + 64 + 4 * br) 4)

/-- Element e of an operand block of 256 bytes. -/
def elemNum (fmt : Nat) (byte : Nat → Nat) (e : Nat) : Num :=
  match afmtFp fmt with
  | some f => numFp f (byte (2 * e) + 256 * byte (2 * e + 1))
  | none => if fmt = 2 then numInt (signedOf 8 (byte e)) else numInt (bpiValue (fmt - 7) byte e)

/-- The terms of K-step t for row i and lane j, with the B bytes that a latch buffer holds (R252, R263). -/
def State.mmaTerms (s : State) (tl : Nat) (sh : Fin 3) (e : Engine) (c : MxCmd) (step : List Byte) (t i j : Nat) : List Term :=
  let a := c.a
  let b := c.b
  let el := kElems (shAfmt b)
  let gr := kGroups (shAfmt b)
  let row := s.readWin tl sh (opAbase a + t * opAstride a + 256 * i) 256
  let abyte (q : Nat) : Nat := (row.getD q 0#8).toNat
  let bbyte (q : Nat) : Nat := (step.getD (j * 256 + q) 0#8).toNat
  let scale (g : Nat) : Num :=
    if shGsb b then numFp bf16 (leNat (s.readWin tl sh (shGs b + 2 * ((t * gr + g) * s.lanes tl sh + j)) 2)) else numInt 1
  let len := if shRagged b then s.slotLen tl sh e (e.rowoff + i) else 0
  let part := (List.range el).filter fun k => !shRagged b || decide (e.kofs * el + t * el + k < len)
  part.map fun k => term (t * el + k) (scale (k / (el / gr))) (elemNum (shAfmt b) abyte k) (elemNum (shBfmt b) bbyte k)

/-- One result element over its K-steps (R263). -/
def State.mmaElem (s : State) (tl : Nat) (sh : Fin 3) (e : Engine) (c : MxCmd) (steps : List (List Byte)) (i j : Nat) : Nat × Flags :=
  let b := c.b
  let isFp := (afmtFp (shAfmt b)).isSome || shGsb b
  let x0 := if shAdd b then s.accGet tl sh (shAcc0 b + i) j else 0
  steps.zipIdx.foldl (fun acc st =>
    let ts := s.mmaTerms tl sh e c st.1 st.2 i j
    if isFp then let r := stepFp c.core acc.1 ts; (r.1, acc.2 ||| r.2)
    else (stepInt (shSat b) acc.1 ts, acc.2)) (x0, noFlags)

/-- Rows of a command that the slot map leaves in (R263, R264). -/
def State.mmaRows (s : State) (tl : Nat) (sh : Fin 3) (e : Engine) (b : Word) : List Nat :=
  (List.range (shM b)).filter fun i => !shRagged b || s.slotValid tl sh e (e.rowoff + i)
/-- The command meets a poisoned operand sector (R275). -/
def State.mmaPoison (s : State) (tl : Nat) (sh : Fin 3) (e : Engine) (a b : Word) (rows : List Nat) : Bool :=
  let planes := if shBfmt b ≥ 9 then shBfmt b - 7 else 8
  let steps := List.range (shNk b)
  (shRagged b && s.winPoisoned tl sh e.slotMap 2112)
    || (steps.any fun t => rows.any fun i => s.winPoisoned tl sh (opAbase a + t * opAstride a + 256 * i) 256)
    || (shGsb b && !rows.isEmpty && s.winPoisoned tl sh (shGs b) (2 * shNk b * kGroups (shAfmt b) * s.lanes tl sh))
    || (!rows.isEmpty && steps.any fun t => (List.range (s.lanes tl sh)).any fun j => (List.range 4).any fun g =>
        decide (64 * g < 32 * planes) && s.sectorPoisoned (s.bByte tl sh (opBbase a + t * s.stepBytes tl sh) j (64 * g)) 64)

/-- A command reads its scratchpad operands: soft errors in them are corrected, or poison their sector (R110). -/
def State.mxSense (s : State) (tl : Nat) (sh : Fin 3) (c : MxCmd) : State :=
  let s1 := (s.mxExtents tl sh c.sub c.a c.b).foldl (fun (st : State) x => if x.2.2 = .load then st.senseWin tl sh x.1 x.2.1 else st) s
  if (c.sub = 1 ∨ c.sub = 5) ∧ shRagged c.b then s1.senseWin tl sh ((s.tile tl).engine sh).slotMap 2112 else s1
/-- mx.mma: every K-step passes through a latch buffer, and the last one leaves its buffer valid (R252, R263, R265). -/
def State.runMma (s0 : State) (tl : Nat) (sh : Fin 3) (c : MxCmd) : MxResult :=
  let ld := s0.latchSteps tl sh c.tenant (opBbase c.a) (shNk c.b) 0 none
  let s := ld.1
  let e := (s.tile tl).engine sh
  let rows := s.mmaRows tl sh e c.b
  let bad := s.mmaPoison tl sh e c.a c.b rows
  let lanes := List.range (s.lanes tl sh)
  let r := rows.foldl (fun acc i => lanes.foldl (fun acc j =>
      let x := s.mmaElem tl sh e c ld.2.1 i j
      (acc.1.accSet tl sh (shAcc0 c.b + i) j x.1, acc.2 ||| x.2)) acc) (s, noFlags)
  let pois (i : Nat) : Bool := bad || (shAdd c.b && e.rowPoison (shAcc0 c.b + i))
  let st := r.1.modEngine tl sh fun e => rows.foldl (fun e i => e.setRowPoison (shAcc0 c.b + i) (pois i)) e
  { st := st, flags := r.2, poison := bad, err := if bad then some 1 else none, buf := ld.2.2 }

/-- Conversion of one accumulator element by mx.rd: bits, flags, a narrowed NaN (R272). -/
def readOut (ofmt : Nat) (isInt sat : Bool) (md : RMode) (x : Nat) : Nat × Flags × Option Nat :=
  let toInt (n : Nat) : Nat × Flags × Option Nat :=
    if isInt then (if sat then wrapInt n (max (-(2 ^ (n - 1))) (min (2 ^ (n - 1) - 1) (signedOf 32 x))) else x % 2 ^ n, noFlags, none)
    else let r := fToInt f32 md (-(2 ^ (n - 1))) (2 ^ (n - 1) - 1) x; (wrapInt n r.1, r.2, none)
  let toFp (f : Fmt) : Nat × Flags × Option Nat :=
    if isInt then let r := intToF f md (signedOf 32 x); (r.1, r.2, none) else fConvert f32 f md x
  match ofmt with
  | 0 => (x, noFlags, none)
  | 2 => toInt 8
  | 4 => toInt 16
  | 6 => toFp f16
  | 7 => toFp bf16
  | _ => if isInt then toFp f32 else (x, noFlags, none)
def ofmtElem (ofmt : Nat) : ElemFmt :=
  match ofmt with
  | 2 => .int 8 true | 4 => .int 16 true | 6 => .fp f16 | 7 => .fp bf16 | _ => .fp f32

/-- Log the lines of an engine write for the activation that issued it (R96, R115, R117); none when the log is full. -/
def State.logEngine (s : State) (t : Nat) (i : Fin 3) (act ea n : Nat) : Option State :=
  match (s.tile t).findAct act with
  | none => some s
  | some x =>
    let new := s.linesToLog t i x.act.undo ea n
    if new = [] then some s
    else if s.undoCap t < s.undoUsed t i + new.length then none
    else
      let r := s.undoLines t i new
      some (r.1.onAct t act fun y => { y with act := { y.act with undo := r.2 ++ y.act.undo } })

/-- One 64-byte beat, or part of one, of a read-out row: bytes with the elements withheld left out. -/
def State.rdBeat (s : State) (tl : Nat) (sh : Fin 3) (act ea : Nat) (elems : List (Option (List Byte))) (esize : Nat) (bad : Bool) :
    State × Bool :=
  match s.logEngine tl sh act ea (elems.length * esize) with
  | none => (s, true)
  | some s1 =>
    let s2 := (elems.zipIdx.foldl (fun (st : State) x => match x.1 with
      | some bs => st.writeWin tl sh (ea + x.2 * esize) bs
      | none => st) s1)
    let whole := elems.all Option.isSome
    let s3 := if whole then s2.clearWin tl sh ea (elems.length * esize) else s2
    (if bad then s3.poisonSectors [s.spad tl sh ea / 64] else s3, false)
/-- Elements in beats of 64 bytes. -/
def chunk {α : Type} (n : Nat) : Nat → List α → List (List α)
  | 0, _ => []
  | k + 1, xs => if xs.isEmpty then [] else xs.take n :: chunk n k (xs.drop n)

/-- One row of mx.rd. -/
def State.rdRow (r : MxResult) (tl : Nat) (sh : Fin 3) (c : MxCmd) (i : Nat) : MxResult :=
  let s := r.st
  let ofmt := wfield c.b 23 20
  let es := osize ofmt
  let conv := (List.range (s.lanes tl sh)).map fun j =>
    readOut ofmt (c.b.getLsbD 17) (c.b.getLsbD 24) c.mode (s.accGet tl sh (shAcc0 c.b + i) j)
  let bi := wfield c.a 45 40
  let bound := (s.tile tl).bnd.get (Fin.ofNat 64 bi)
  let checked := conv.map fun x => if c.a.getLsbD 47 then bound.apply (ofmtElem ofmt) x.1 else (some x.1, false)
  let fails := checked.countP fun x => x.2
  let withheld := checked.any fun x => x.1.isNone
  let bad := ((s.tile tl).engine sh).rowPoison (shAcc0 c.b + i)
  let s1 := s.modTile tl fun t => (List.range fails).foldl (fun t _ => t.countBound bi) t
  let nan := conv.findSome? fun x => x.2.2
  let s2 := s1.modEngine tl sh fun e => match e.origin, nan with
    | none, some n => { e with origin := some (BitVec.ofNat 22 n) }
    | _, _ => e
  let beats := chunk (64 / es) 8 (checked.map fun x => x.1.map (leBytes es))
  let w := beats.zipIdx.foldl (fun (acc : State × Bool) x =>
    let y := acc.1.rdBeat tl sh c.act (opAbase c.a + i * opAstride c.a + 64 * x.2) x.1 es bad
    (y.1, acc.2 || y.2)) (s2, false)
  { st := w.1, flags := conv.foldl (fun f x => f ||| x.2.1) r.flags, poison := r.poison,
    err := match r.err with
      | some e => some e
      | none => if withheld then some 2 else if w.2 then some 6 else none }
def State.runRd (s : State) (tl : Nat) (sh : Fin 3) (c : MxCmd) : MxResult :=
  let r := (List.range (shM c.b)).foldl (fun r i => State.rdRow r tl sh c i) { st := s }
  if c.b.getLsbD 16 then
    { r with st := (List.range (shM c.b)).foldl (fun st i =>
        ((List.range (s.lanes tl sh)).foldl (fun (st : State) j => st.accSet tl sh (shAcc0 c.b + i) j 0) st).modEngine tl sh
          fun e => e.setRowPoison (shAcc0 c.b + i) false) r.st }
  else r
def State.runZero (s : State) (tl : Nat) (sh : Fin 3) (c : MxCmd) : MxResult :=
  { st := (List.range (shM c.b)).foldl (fun st i =>
      ((List.range (s.lanes tl sh)).foldl (fun (st : State) j => st.accSet tl sh (shAcc0 c.b + i) j 0) st).modEngine tl sh
        fun e => e.setRowPoison (shAcc0 c.b + i) false) s }
def State.runLdacc (s : State) (tl : Nat) (sh : Fin 3) (c : MxCmd) : MxResult :=
  let n := s.lanes tl sh
  let bad (i : Nat) : Bool := s.winPoisoned tl sh (opAbase c.a + i * opAstride c.a) (4 * n)
  let rows := List.range (shM c.b)
  { st := rows.foldl (fun st i =>
      ((List.range n).foldl (fun (st : State) j => st.accSet tl sh (shAcc0 c.b + i) j
          (leNat (s.readWin tl sh (opAbase c.a + i * opAstride c.a + 4 * j) 4))) st).modEngine tl sh
        fun e => e.setRowPoison (shAcc0 c.b + i) (bad i)) s,
    poison := rows.any bad, err := if rows.any bad then some 1 else none }
/-- mx.ldb loads the buffer that the running command's last step does not use, or buffer 0 when none is running (R266). -/
def State.runLdb (s : State) (tl : Nat) (sh : Fin 3) (c : MxCmd) : MxResult :=
  let e := (s.tile tl).engine sh
  let used := (e.queue.find? fun x => x.started && decide (x.uid ≠ c.uid) && (decide (x.sub = 1) || decide (x.sub = 5))).bind MxCmd.lastBuf
  { st := s.latchLoad tl sh ((used.map fun b => !b).getD false) (c.tenant, wfield c.a 21 0) }
/-- Perform a command (R263 to R268, R272). -/
def State.runMx (s0 : State) (tl : Nat) (sh : Fin 3) (c : MxCmd) : MxResult :=
  let s := s0.mxSense tl sh c
  match c.sub with
  | 0 => s.runLdb tl sh c
  | 1 => s.runMma tl sh c
  | 2 => s.runZero tl sh c
  | 3 => s.runRd tl sh c
  | 4 => s.runLdacc tl sh c
  | 5 => s.runMma tl sh c
  | _ => { st := s.modEngine tl sh fun e => { e with slotMap := wfield c.a 19 0, rowoff := wfield c.a 28 20, kofs := wfield c.a 47 32 } }

/-- Report an engine error (R101, R273): to the issuing activation while it runs, else to the tenant's queue. -/
def State.engineError (s : State) (t : Nat) (act tenant reason : Nat) (detail : Word) : State :=
  match (s.tile t).findAct act with
  | some _ => s.onAct t act fun x => { x with act := { x.act with engErr := some (x.act.engErr.getD (reason, detail)) } }
  | none => s.post {
      type := 4, tenant := tenant, cause := reason, info := detail.toNat, loc := detail.toNat, ptile := s.physTile t,
      ltile := (s.tileWordAt t 0).toNat }

/-- The notification of a command, on the tile it ran on (R260). -/
def State.mxNotify (s : State) (t : Nat) (i : Fin 3) (c : MxCmd) (flags : Flags) (poison : Bool) : State :=
  match c.notify with
  | none => s
  | some ch => s.inject t i {
      launch := c.launch, tenant := c.tenant, kind := 4, source := s.tileWordAt t i, vnet := 2, chan := ch,
      dest := s.tileWordAt t i, dst := t, wicket := decide (i = 2),
      body := wordsBody [c.a, c.b0, BitVec.ofNat 64 (flags.toNat + (if poison then 256 else 0) + c.sub * 2 ^ 16), 0#64] }

/-! ### Queue events (R255, R256, R258, R278 to R280) -/

/-- A half whose engine runs: not frozen by the Wicket or a halt (R270, R417). -/
def State.engineRuns (s : State) (t : Nat) (i : Fin 3) : Bool := !s.frozenShare t i
/-- The first engine share of a tile for which f holds. -/
def State.engineShare (s : State) (t : Nat) (f : Fin 3 → Engine → Bool) : Option (Fin 3) :=
  (List.finRange 3).find? fun i => s.engineRuns t i && f i ((s.tile t).engine i)
/-- A command enters its queue; a heavy one asks for leave (R255, R256, R338). -/
def State.mxEnter (s : State) (t : Nat) (i : Fin 3) : State :=
  match ((s.tile t).engine i).entering with
  | [] => s
  | c :: rest =>
    let heavy := decide (c.sub = 1) || decide (c.sub = 5)
    let cost := if i ≠ 2 ∧ (s.tile t).split then 4 else 8
    let req : LvReq := { cost := cost, prio := c.prio, cycle := s.cycle, tileIdx := bayIdx t, kind := 1, tile := t, act := c.act, key := c.uid }
    let g := if heavy then s.obtainLeave t i c.act req else (s, true, false)
    let c1 := { c with wantsLeave := !g.2.1, tokens := if heavy && g.2.1 then cost else 0, fromHold := g.2.2 }
    g.1.modEngine t i fun e => { e with entering := rest, queue := e.queue ++ [c1] }
def execMxQueueEntry (t : Nat) : Meaning := fun s =>
  event "MX_QUEUE_ENTRY" ((s.engineShare t fun _ e => decide (e.queue.length < 8) &&
    (match e.entering with | c :: _ => c.bay.isNone | [] => false)).map fun i => s.mxEnter t i)
def execMxBayMember (t : Nat) : Meaning := fun s =>
  event "MX_BAY_MEMBER" ((s.engineShare t fun _ e => decide (e.queue.length < 8) &&
    (match e.entering with | c :: _ => c.bay.isSome | [] => false)).map fun i => s.mxEnter t i)

/-- The command that may start: the head, or an mx.ldb directly behind a started head (R255, R266). -/
def Engine.startable (e : Engine) : Option MxCmd :=
  match e.queue with
  | [] => none
  | c :: rest =>
    if !c.started then (if c.wantsLeave then none else some c)
    else match rest with
      | d :: _ => if d.sub = 0 ∧ !d.started then some d else none
      | [] => none
def Engine.updateCmd (e : Engine) (uid : Nat) (f : MxCmd → MxCmd) : Engine :=
  { e with queue := e.queue.map fun c => if c.uid = uid then f c else c }
/-- A command starts and is performed (R257, R263); its errors are reported (R273). -/
def State.mxStart (s : State) (t : Nat) (i : Fin 3) (c : MxCmd) : State :=
  let r := s.runMx t i c
  let s1 := r.st.modEngine t i fun e =>
    { (e.updateCmd c.uid fun x => { x with started := true, flags := r.flags, poison := r.poison, lastBuf := r.buf }) with flags := e.flags ||| r.flags }
  match r.err with
  | some reason => s1.engineError t c.act c.tenant reason c.a
  | none => s1
/-- The latch loads of a command wait for steps that a restore has not refilled (R420). -/
def State.refillBlocks (s : State) (t : Nat) (i : Fin 3) (c : MxCmd) : Bool :=
  match (s.tile t).refill.get i with
  | none => false
  | some o =>
    if c.sub = 0 then decide (o < wfield c.a 21 0 + s.stepBytes t i)
    else if c.sub = 1 ∨ c.sub = 5 then decide (o < opBbase c.a + shNk c.b * s.stepBytes t i)
    else false
/-- K-split of a layout (R278). -/
def kSplit : Nat → Nat
  | 1 => 1 | 2 => 2 | 3 => 2 | 4 => 4 | 5 => 4 | 6 => 4 | _ => 16
/-- The issuing stream's accesses before the fork are performed, so that the command may read (R257, R291). -/
def State.mxForkReady (s : State) (c : MxCmd) : Bool :=
  match c.fork with
  | none => true
  | some (t, x, n) =>
    !(s.sliceQ.any fun o => decide (o.src.tile = t) && decide (o.src.c = x) && !o.vec && decide (o.seq < n))
      && !((s.tile t).acks.any fun a => decide (a.c = x) && decide (a.id < n))
/-- An earlier command of the queue has writes outstanding: the fold of a member of an mx.bay with kg = 0 (R257, R279). -/
def State.foldOwed (s : State) (t : Nat) (i : Fin 3) : Bool :=
  decide (i = 0) && s.bayOps.any fun o =>
    let ks := kSplit (shLayout o.cmd.b)
    decide (1 < ks) && decide (bayOf o.tile = bayOf t) && decide (bayIdx t % ks = 0) && o.done.contains t && !o.folded.contains t
/-- What keeps a command from starting. -/
def State.mxBlocks (s : State) (t : Nat) (i : Fin 3) (c : MxCmd) : Bool :=
  s.refillBlocks t i c || !s.mxForkReady c || s.foldOwed t i
def Engine.ready (e : Engine) (blocks : MxCmd → Bool) : Bool := match e.startable with | some c => !blocks c | none => false
def execMxCommandStart (t : Nat) : Meaning := fun s =>
  event "MX_COMMAND_START" ((s.engineShare t fun i e => e.ready (s.mxBlocks t i)).bind fun i =>
    ((s.tile t).engine i).startable.map fun c => s.mxStart t i c)

/-- One addition of the fold (R187, R279). A NaN that arises of two infinities has the member's number; its index along K, which the rules do not
give, is a free value. The additions raise no engine flag, of which the rules do not speak (DESIGN CHOICE, log 81). -/
def foldFp (core x p : Nat) : Nat :=
  if f32.isNaN x then x
  else if f32.isNaN p then p
  else
    let r := (fAdd f32 .rne x p).1
    if f32.isNaN r then originNaN core (Config.foldIndex x p) else r
/-- The fold of one block into its member with kg = 0 (R279). -/
def State.bayFold (s : State) (t : Nat) (c : MxCmd) : State :=
  let ks := kSplit (shLayout c.b)
  let isFp := (afmtFp (shAfmt c.b)).isSome || shGsb c.b
  let partners := (List.range (ks - 1)).map fun k => bayTile (bayOf t) (bayIdx t + k + 1)
  let add (x p : Nat) : Nat :=
    if isFp then foldFp ((s.tileWordAt t 0).toNat % 1024) x p
    else
      let v := signedOf 32 x + signedOf 32 p
      wrapInt 32 (if shSat c.b then max (-(2 ^ 31)) (min (2 ^ 31 - 1) v) else v)
  (List.range (shM c.b)).foldl (fun st i =>
    let r := shAcc0 c.b + i
    ((List.range 64).foldl (fun (st : State) j =>
      st.accSet t 0 r j (partners.foldl (fun x p => add x (st.accGet p 0 r j)) (st.accGet t 0 r j))) st).modEngine t 0
        fun e => e.setRowPoison r (e.rowPoison r || partners.any fun p => ((s.tile p).engine 0).rowPoison r)) s
/-- When the last member, and the last fold, has completed, the notification follows and the mx.bay is over (R280). -/
def State.bayFinish (s : State) (uid : Nat) : State :=
  match s.bayOps.find? fun o => o.uid = uid with
  | none => s
  | some o =>
    let ks := kSplit (shLayout o.cmd.b)
    if o.done.length = 16 ∧ (ks = 1 ∨ o.folded.length = 16 / ks) then
      let s1 := { s with bayOps := s.bayOps.filter fun x => decide (x.uid ≠ uid) }
      s1.mxNotify o.tile 0 o.cmd o.cmd.flags o.cmd.poison
    else s
def BayOp.memberDone (o : BayOp) (uid t : Nat) (c : MxCmd) : BayOp :=
  if o.uid = uid then { o with done := nInsert t o.done, cmd := { o.cmd with flags := o.cmd.flags ||| c.flags, poison := o.cmd.poison || c.poison } } else o
/-- A started command completes: its tokens return, its notification goes (R258, R260, R338). -/
def State.mxComplete (s : State) (t : Nat) (i : Fin 3) (c : MxCmd) : State :=
  let s1 := s.modEngine t i fun e => { e with queue := e.queue.filter fun x => decide (x.uid ≠ c.uid) }
  let s2 := s1.leaveReturn t i c.act c.tokens c.fromHold
  match c.bay with
  | none => s2.mxNotify t i c c.flags c.poison
  | some b => ({ s2 with bayOps := s2.bayOps.map fun o => BayOp.memberDone o b.2 t c }).bayFinish b.2
def execMxCommandComplete (t : Nat) : Meaning := fun s =>
  event "MX_COMMAND_COMPLETE" ((s.engineShare t fun _ e => e.queue.any fun c => c.started).bind fun i =>
    (((s.tile t).engine i).queue.find? fun c => c.started).map fun c => s.mxComplete t i c)
/-- The block of a member, as tiles. -/
def blockTiles (t ks : Nat) : List Nat :=
  (List.range ks).map fun k => bayTile (bayOf t) (bayIdx t / ks * ks + k)
def BayOp.foldable (o : BayOp) (t : Nat) : Bool :=
  let ks := kSplit (shLayout o.cmd.b)
  decide (1 < ks) && decide (bayOf o.tile = bayOf t) && decide (bayIdx t % ks = 0) && !o.folded.contains t
    && (blockTiles t ks).all fun x => o.done.contains x
def BayOp.foldDone (o : BayOp) (uid t : Nat) : BayOp := if o.uid = uid then { o with folded := nInsert t o.folded } else o
def execMxBayFold (t : Nat) : Meaning := fun s =>
  event "MX_BAY_FOLD" ((s.bayOps.find? fun o => o.foldable t && (blockTiles t (kSplit (shLayout o.cmd.b))).all fun x => s.engineRuns x 0).map fun o =>
    let s1 := s.bayFold t o.cmd
    ({ s1 with bayOps := s1.bayOps.map fun x => BayOp.foldDone x o.uid t }).bayFinish o.uid)

/-- The release of an mx.bay: the command reaches every member of the bay (R280). The payload of a member's NaN has the member's own number, where
R186 speaks of the issuing tile (R188's example has the numbers of the co-operating tiles; DEDUCED, log 81). -/
def State.bayRelease (s : State) (t : Nat) (c : MxCmd) : State :=
  let s1 : State := { s with bayOps := s.bayOps ++ [{ uid := c.uid, tile := t, cmd := c }], fresh := s.fresh + 17 }
  (List.range 16).foldl (fun (st : State) x =>
    let m := bayTile (bayOf t) x
    let member : MxCmd := { c with uid := s.fresh + 1 + x, fork := c.fork.map fun f => (f.1, f.2.1, s.fresh), bay := some (t, c.uid), notify := none, core := (st.tileWordAt m 0).toNat % 1024 }
    st.modEngine m 0 fun e => { e with entering := e.entering ++ [member] }) s1

end Sys2Proof.Machine
end

