-- ==== Sys2Proof/Machine/Copy.lean ====
section
/-! DEFINITION. Copies and gathers: majors 31 and 32 without cmb, the copy channels and the streamers (R85 to R106). -/

namespace Sys2Proof.Machine

/-! ### Channels (R88 to R90, R103) -/

def Tile.chan (t : Tile) (i : Fin 3) (c : Nat) : CopyChan :=
  if i = 2 then t.wchans.get (Fin.ofNat 4 c) else t.chans.get (Fin.ofNat 16 c)
def Tile.modChan (t : Tile) (i : Fin 3) (c : Nat) (f : CopyChan → CopyChan) : Tile :=
  if i = 2 then let k : Fin 4 := Fin.ofNat 4 c; { t with wchans := t.wchans.set k.val (f (t.wchans.get k)) k.isLt }
  else let k : Fin 16 := Fin.ofNat 16 c; { t with chans := t.chans.set k.val (f (t.chans.get k)) k.isLt }
def State.modChan (s : State) (t : Nat) (i : Fin 3) (c : Nat) (f : CopyChan → CopyChan) : State := s.modTile t fun x => x.modChan i c f
/-- A channel of the activation's tenant (R88). -/
def State.ownsCopyChan (s : State) (c : Nat) : Bool :=
  if s.share = 2 then decide (c < 4) else !(s.tile s.cur).split || (decide (c < 8) == decide (s.share = 0))
/-- cpdone advances over the ended prefix (R89). -/
def advanceDone : Nat → Word → List Word → Word × List Word
  | 0, d, e => (d, e)
  | n + 1, d, e => if e.contains d then advanceDone n (d + 1#64) (e.erase d) else (d, e)
def CopyChan.finish (c : CopyChan) (id : Word) (cancelled : Bool) : CopyChan :=
  let e := id :: c.ended
  let r := advanceDone e.length c.done e
  let c1 := { c with done := r.1, ended := r.2 }
  if cancelled then { c1 with crec := (id :: c1.crec).take 8, ccount := c1.ccount + 1#64 } else c1

/-! ### Forms and descriptors (R91, R92, R94) -/

inductive EndKind where
  | global | spad | bstore
deriving DecidableEq, Repr
def CpForm.src : CpForm → EndKind
  | .gl | .gb | .gg | .gxld | .gxldb => .global
  | .lg | .lb | .ls | .lsb | .pl | .gxst => .spad
def CpForm.dst : CpForm → EndKind
  | .gl | .ls | .pl | .gxld => .spad
  | .gb | .lb | .lsb | .gxldb => .bstore
  | .lg | .gg | .gxst => .global
def CpForm.gather : CpForm → Bool
  | .gxld | .gxst | .gxldb => true
  | _ => false

/-- Rows, row bytes and strides of a copy; a gather's rows are its list's (R91, R92, R105). -/
structure Extent where
  rows : Nat
  rowBytes : Nat
  srcStride : Nat
  dstStride : Nat
def cpExtent (f : CpForm) (e : Vector Word 8) : Extent :=
  if f.gather then
    let rb := wfield (e.get 3) 15 0
    { rows := wfield (e.get 2) 43 32 + 1, rowBytes := rb, srcStride := rb, dstStride := rb }
  else
    let rows := wfield (e.get 2) 47 32 + 1
    { rows := rows, rowBytes := wfield (e.get 2) 31 0,
      srcStride := if rows > 1 then wfield (e.get 3) 31 0 else 0, dstStride := if rows > 1 then wfield (e.get 3) 63 32 else 0 }
def Extent.srcLen (x : Extent) : Nat := (x.rows - 1) * x.srcStride + x.rowBytes
def Extent.dstLen (x : Extent) : Nat := (x.rows - 1) * x.dstStride + x.rowBytes
def Extent.bytes (x : Extent) : Nat := x.rows * x.rowBytes
/-- The endpoint words: a gather's table stands in e0, its local rows in e1 (R91). -/
def srcWord (f : CpForm) (e : Vector Word 8) : Word := if f = .gxst then e.get 1 else e.get 0
def dstWord (f : CpForm) (e : Vector Word 8) : Word := if f = .gxst then e.get 0 else e.get 1

/-- The limits of an endpoint word (R92). -/
def State.endpointOk (s : State) (k : EndKind) (t : Nat) (i : Fin 3) (w : Word) (len rowBytes stride : Nat) : Bool :=
  match k with
  | .global => decide (wfield w 51 48 = 0)
  | .spad => onlyBits w [(19, 0)] && !(isReflex t && decide (0x80000 ≤ w.toNat))
  | .bstore => onlyBits w [(21, 0)] && decide (w.toNat % 64 = 0) && decide (rowBytes % 64 = 0) && decide (stride % 64 = 0)
      && decide (w.toNat + len ≤ s.bWindow t i)
/-- A follow-on's words (R92, R98, R259). -/
def State.followOk (s : State) (t : Nat) (i : Fin 3) (e5 e6 e7 : Word) : Bool :=
  let sub := wfield e5 4 0
  let x7 := wfield e5 11 5
  onlyBits e5 [(11, 0)] && [0, 1, 2, 3, 4, 7].contains sub && (decide (64 ≤ x7) || decide (x7 = 0))
    && !((sub = 0 || sub = 7) && decide (x7 ≠ 0)) && s.mxWordsOk t i sub e6 e7

/-- What a transfer gets at issue beside its identifier (R95). -/
structure CpPlan where
  x : Transfer
  buffered : Bool

/-- The checks of R95 in order, up to the identifier. A gather's table has no extent of its own: it is checked here with size 0, so that it
faults only where its offset exceeds the length, and row by row later; its index list is checked before the local rows of a gx.ld (both
DEDUCED, log 66). -/
def cpCheck (f : CpForm) (c : Nat) (notify chain : Bool) (tword : Option Word) (tileIsSrc : Bool) : Exec CpPlan := do
  let s ← get
  requireOperand (s.ownsCopyChan c)
  let e := s.half.e
  let i := s.share
  let ext := cpExtent f e
  let other ← match tword with
    | none => pure s.cur
    | some w => do
      requireOperand (onlyBits w [(10, 0)])
      let t ← targetTile (wfield w 10 0)
      requireOperand (isReflex t == isReflex s.cur)
      pure t
  let srcT := if tileIsSrc then other else s.cur
  let dstT := if tileIsSrc then s.cur else other
  let sw := srcWord f e
  let dw := dstWord f e
  -- reserved bits and limits of R91 to R93
  if f.gather then
    requireOperand (onlyBits (e.get 2) [(43, 32), (19, 0)] && decide (wfield (e.get 2) 19 0 % 4 = 0) && onlyBits (e.get 3) [(47, 0)]
      && decide (ext.rowBytes % 8 = 0) && decide (8 ≤ ext.rowBytes) && decide (ext.rowBytes ≤ 4096))
  else requireOperand (onlyBits (e.get 2) [(47, 0)] && decide (1 ≤ ext.rowBytes))
  if notify then requireOperand (onlyBits (e.get 4) [(63, 32), (5, 0)])
  requireOperand (s.endpointOk f.src srcT i sw ext.srcLen ext.rowBytes ext.srcStride
    && s.endpointOk f.dst dstT i dw ext.dstLen ext.rowBytes ext.dstStride)
  let so := wfield sw 47 0
  let dofs := wfield dw 47 0
  let same := (f = .gg && wfield sw 63 52 = wfield dw 63 52) || (f.src = .spad && f.dst = .spad && srcT = dstT)
  requireOperand (!(!f.gather && same && decide (so < dofs + ext.dstLen) && decide (dofs < so + ext.srcLen)))
  if chain then requireOperand (s.followOk dstT i (e.get 5) (e.get 6) (e.get 7))
  -- resources over the whole extent; a gather's rows are checked one by one
  let sva ← if f.src = .global then do
      let r ← if f.gather then checkResource (wfield sw 63 52) so 0 1 else checkResource (wfield sw 63 52) so ext.srcLen 1
      pure (resVbase r + so, resLength r - so, r)
    else pure (0, 0, 0#512)
  let first : State → State := if f.src = .global then fun s => s.used (wfield sw 63 52) else id
  let dva ← if f.dst = .global then keeping first do
      let r ← if f.gather then checkResource (wfield dw 63 52) dofs 0 2 else checkResource (wfield dw 63 52) dofs ext.dstLen 2
      pure (resVbase r + dofs, resLength r - dofs, r)
    else pure (0, 0, 0#512)
  let both : State → State := if f.dst = .global then fun s => (first s).used (wfield dw 63 52) else first
  -- scratchpad extents and the room in the out-buffer
  if f.src = .spad then let _ ← keeping both (checkWin srcT 0 so ext.srcLen .load)
  if f.gather then let _ ← keeping both (checkWin s.cur 0 (wfield (e.get 2) 19 0) (4 * ext.rows) .load)
  if f.dst = .spad then let _ ← keeping both (checkWin dstT 0 dofs ext.dstLen .engineWrite)
  let buffered := (f.dst = .global) || (!tileIsSrc && dstT ≠ s.cur)
  if buffered then keeping both (checkOut 64)
  pure {
    buffered := buffered
    x := { form := f, e := e, chan := c, id := 0#64, notify := notify, chain := chain, tenant := s.act.tenant,
           launch := s.act.launch, pid := s.act.pid, act := if buffered then 0 else s.act.id, owner := s.act.id, ctx := s.ctx, prio := s.act.prio,
           tile := s.cur, part := i.val, srcTile := srcT, dstTile := dstT, srcVa := sva.1, dstVa := dva.1,
           tabLen := max sva.2.1 dva.2.1, srcRes := sva.2.2, dstRes := dva.2.2 } }

def Transfer.share (x : Transfer) : Fin 3 := Fin.ofNat 3 x.part
def Transfer.extent (x : Transfer) : Extent := cpExtent x.form x.e
/-- The stream's accesses before the fork are performed at device scope, so that the transfer may read (R291). A transfer released from the
out-buffer follows both streams. -/
def State.forkReady (s : State) (x : Transfer) : Bool :=
  !(s.sliceQ.any fun o => decide (o.src.tile = x.tile) && decide (o.src.c = x.ctx) && (!o.vec || decide (x.act = 0)) && decide (o.seq < x.fork))
    && !((s.tile x.tile).acks.any fun a => decide (a.c = x.ctx) && decide (a.id < x.fork))
/-- The index list is read at release, once the stream's earlier accesses are performed. A poisoned sector of it is no consumption, and its bytes
are used as they stand (R105, R291, R396; DEDUCED, log 66). -/
def State.readIndex (s : State) (x : Transfer) : Transfer :=
  if x.form.gather then
    { x with idx := (List.range x.extent.rows).map fun k => leNat (s.readWin x.tile x.share (wfield (x.e.get 2) 19 0 + 4 * k) 4) }
  else x
def State.senseIndex (s : State) (x : Transfer) : State :=
  if x.form.gather then s.senseWin x.tile x.share (wfield (x.e.get 2) 19 0) (4 * x.extent.rows) else s
/-- Release of a transfer: more than 4096 bytes ask for leave first, for the issuing activation even where the release is a flush (R87, R338,
R341, R343). -/
def State.releaseCopy (s0 : State) (x0 : Transfer) : State :=
  let x1 := { x0 with fork := s0.fresh }
  let s1 := { s0 with fresh := s0.fresh + 1 }
  let x := if s1.forkReady x1 then s1.readIndex x1 else x1
  let s := if s1.forkReady x1 then s1.senseIndex x1 else s1
  if x.extent.bytes ≤ 4096 then { s with transfers := s.transfers ++ [{ x with phase := .sent }] }
  else
    let r : LvReq := { cost := 2, prio := x.prio, cycle := s.cycle, tileIdx := bayIdx x.tile, kind := 2, tile := x.tile, act := x.owner, key := x.uid }
    let g := s.obtainLeave x.tile x.share x.owner r
    let y : Transfer := { x with phase := (if g.2.1 then .sent else .leave), tokens := (if g.2.1 then 2 else 0), fromHold := g.2.2 }
    { g.1 with transfers := g.1.transfers ++ [y] }

/-- Every form of R94: the checks, the identifier, release or the out-buffer (R95). -/
def cpForm (f : CpForm) (o : Op) (c : BitVec 4) (notify chain : Bool) (a : Reg) (tw : Option Reg) (tileIsSrc : Bool) : Meaning :=
  issueValue o a do
    let w ← match tw with
      | none => pure none
      | some r => do let v ← rd r; pure (some v)
    let p ← cpCheck f c.toNat notify chain w tileIsSrc
    let s ← get
    let id := ((s.tile s.cur).chan s.share c.toNat).nid
    let uid ← freshId
    update fun s => s.modChan s.cur s.share c.toNat fun k => { k with nid := k.nid + 1#64 }
    let x := { p.x with id := id, uid := uid }
    if p.buffered then appendOut 64 (.copy x) else update fun s => s.releaseCopy x
    pure id

def execCpGl (chain notify : Bool) (c : BitVec 4) (a : Reg) : Meaning :=
  cpForm .gl { dsts := [a], iso := true } c notify chain a none false
def execCpGb (chain notify : Bool) (c : BitVec 4) (a : Reg) : Meaning :=
  cpForm .gb { dsts := [a], iso := true } c notify chain a none false
def execCpLg (notify : Bool) (c : BitVec 4) (a : Reg) : Meaning :=
  cpForm .lg { dsts := [a], iso := true } c notify false a none false
def execCpGg (notify : Bool) (c : BitVec 4) (a : Reg) : Meaning :=
  cpForm .gg { dsts := [a], iso := true } c notify false a none false
def execCpLb (chain notify : Bool) (c : BitVec 4) (a : Reg) : Meaning :=
  cpForm .lb { dsts := [a] } c notify chain a none false
def execCpLs (chain notify : Bool) (c : BitVec 4) (b a : Reg) : Meaning :=
  cpForm .ls { srcs := [b], dsts := [a] } c notify chain a (some b) false
def execCpLsb (chain notify : Bool) (c : BitVec 4) (b a : Reg) : Meaning :=
  cpForm .lsb { srcs := [b], dsts := [a] } c notify chain a (some b) false
def execCpPl (chain notify : Bool) (c : BitVec 4) (b a : Reg) : Meaning :=
  cpForm .pl { srcs := [b], dsts := [a] } c notify chain a (some b) true
def execGxLd (chain notify : Bool) (c : BitVec 4) (a : Reg) : Meaning :=
  cpForm .gxld { dsts := [a], iso := true } c notify chain a none false
def execGxSt (notify : Bool) (c : BitVec 4) (a : Reg) : Meaning :=
  cpForm .gxst { dsts := [a], iso := true } c notify false a none false
def execGxLdb (chain notify : Bool) (c : BitVec 4) (a : Reg) : Meaning :=
  cpForm .gxldb { dsts := [a], iso := true } c notify chain a none false

/-! ### Channel control (R103, R104) -/

/-- Cancel the transfers of a channel for which p holds: buffered ones of the activation leave the out-buffer at once, released ones are
told to stop (R104). Several buffered ones enter the cancel record in the order of the out-buffer, the last of them in entry 0 (DEDUCED, log
66). -/
def OutItem.copyOf (o : OutItem) (act : Nat) (p : Transfer → Bool) : Option Transfer :=
  match o.kind with
  | .copy x => if o.act = act ∧ p x then some x else none
  | _ => none
def Transfer.cancelIf (x : Transfer) (p : Transfer → Bool) : Transfer :=
  match x.phase with
  | .ended _ => x
  | _ => if p x then { x with cancelReq := true } else x
def State.dropBuffered (s : State) (t : Nat) (i : Fin 3) (act : Nat) (p : Transfer → Bool) : State :=
  let gone := ((s.tile t).share i).out.filterMap fun o => o.copyOf act p
  let s1 := s.modShareAt t i fun x => { x with out := x.out.filter fun o => (o.copyOf act p).isNone }
  gone.foldl (fun (st : State) x => st.modChan t i x.chan fun k => k.finish x.id true) s1
def execCpCancel (c : BitVec 4) (b a : Reg) : Meaning :=
  issue { srcs := [a, b] } do
    let lo ← rd a
    let hi ← rd b
    let s ← get
    requireOperand (s.ownsCopyChan c.toNat)
    let inRange (x : Transfer) : Bool :=
      decide (x.tile = s.cur) && decide (x.part = s.share.val) && decide (x.chan = c.toNat) && decide (x.tenant = s.act.tenant)
        && decide (lo.toNat ≤ x.id.toNat) && decide (x.id.toNat ≤ hi.toNat)
    update fun s =>
      let s1 := s.dropBuffered s.cur s.share s.act.id inRange
      { s1 with transfers := s1.transfers.map fun x => Transfer.cancelIf x inRange }
    markNonReplayable
    pure .next
def execCpCfg (c : BitVec 4) (b a : Reg) : Meaning :=
  issueValue { srcs := [b], dsts := [a] } a do
    let x ← rd b
    let s ← get
    requireOperand (s.ownsCopyChan c.toNat)
    let mn := wfield x 2 0 + 1
    let mx := wfield x 6 4 + 1
    requireOperand (onlyBits x [(6, 4), (2, 0)] && decide (mn ≤ mx))
    let k := (s.tile s.cur).chan s.share c.toNat
    update fun s => s.modChan s.cur s.share c.toNat fun k => { k with min := mn, max := mx }
    pure (BitVec.ofNat 64 ((k.min - 1) + (k.max - 1) * 16))
def execCpCrec (c : BitVec 4) (b a : Reg) : Meaning :=
  issueValue { srcs := [b], dsts := [a] } a do
    let x ← rd b
    let s ← get
    requireOperand (s.ownsCopyChan c.toNat)
    requireOperand (decide (x.toNat ≤ 8))
    let k := (s.tile s.cur).chan s.share c.toNat
    pure (if x.toNat = 8 then k.ccount else k.crec.getD x.toNat Word.ones)

/-! ### The streamers (R85, R86, R93, R100, R101, R105) -/

/-- Bytes of a transfer's rows laid end to end. -/
def Transfer.total (x : Transfer) : Nat := x.extent.bytes
/-- Row and offset of a place. -/
def Transfer.row (x : Transfer) (p : Nat) : Nat := p / x.extent.rowBytes
def Transfer.off (x : Transfer) (p : Nat) : Nat := p % x.extent.rowBytes
/-- Table offset of a gather row, and whether the row lies in the table (R105). -/
def Transfer.tableRow (x : Transfer) (r : Nat) : Nat × Bool :=
  let off := x.idx.getD r 0 * wfield (x.e.get 3) 47 16
  (off, decide (off + x.extent.rowBytes ≤ x.tabLen))
def Transfer.inTable (x : Transfer) (p : Nat) : Bool := !x.form.gather || (x.tableRow (x.row p)).2
/-- The address of a place at an endpoint: virtual for a global one, of the window for a local one. -/
def Transfer.srcAt (x : Transfer) (p : Nat) : Nat :=
  if x.form = .gxld ∨ x.form = .gxldb then x.srcVa + (x.tableRow (x.row p)).1 + x.off p
  else (if x.form.src = .global then x.srcVa else wfield (srcWord x.form x.e) 47 0) + x.row p * x.extent.srcStride + x.off p
def Transfer.dstAt (x : Transfer) (p : Nat) : Nat :=
  if x.form = .gxst then x.dstVa + (x.tableRow (x.row p)).1 + x.off p
  else (if x.form.dst = .global then x.dstVa else wfield (dstWord x.form x.e) 47 0) + x.row p * x.extent.dstStride + x.off p
/-- The line at a place: what is left of the row, up to the end of the source's 256-byte line, which one streamer owns (R82, R85). -/
def Transfer.lineLen (x : Transfer) (p : Nat) : Nat := min (x.extent.rowBytes - x.off p) (256 - x.srcAt p % 256)
/-- The streamer that serves the line at a place: slice s by its physical address, or 32 + bay; none where its page is not in the TLB, or where
nothing is read (R64, R85, R105). -/
def State.streamerAt (s : State) (x : Transfer) (p : Nat) : Option Nat :=
  if x.form.src ≠ .global then some (32 + bayOf x.srcTile)
  else if !x.inTable p then none
  else (s.tlbLookup x.tile x.tenant (x.srcAt p)).map fun e => sliceOf (e.pa + (x.srcAt p - e.va))
/-- A streamer's service of a tenant is frozen, or its segment of the transfer is cancelled (R101, R394, R395). -/
def State.streamerStops (s : State) (x : Transfer) (k : Option Nat) : Bool := match k with | some k => s.strFrozen.contains (k, x.tenant) | none => false
def Transfer.dropsAt (x : Transfer) (k : Option Nat) : Bool := match k with | some k => x.dropped.contains k | none => false
/-- The bytes that a streamer takes up together at a place: the line there, or the rest of a row of gx.st that lies beyond the table (R105). -/
def Transfer.pieceLen (x : Transfer) (p : Nat) : Nat :=
  if x.form = .gxst ∧ !x.inTable p then x.extent.rowBytes - x.off p else x.lineLen p
/-- The lines from a place on, with a bound on their number. -/
def Transfer.linesFrom (x : Transfer) : Nat → Nat → List (Nat × Nat)
  | 0, _ => []
  | n + 1, p => if p < x.total then (p, x.pieceLen p) :: x.linesFrom n (p + x.pieceLen p) else []
/-- The lines still to be served: those passed over, then those from its position on. -/
def Transfer.pending (x : Transfer) : List (Nat × Nat) := x.held ++ x.linesFrom (x.total - x.pos) x.pos

/-- The parts of an endpoint's bytes: a miss or a violation is the streamer's (R65, R101); the page and the resource entry give the policy
(R55). -/
def State.endParts (s : State) (x : Transfer) (isSrc : Bool) (p n : Nat) : Except Trap GlobalPath :=
  let a := if isSrc then x.srcAt p else x.dstAt p
  (s.xlateRange x.tile x.tenant a n (if isSrc then 1 else 2)).map (pathOf x.tenant (if isSrc then x.srcRes else x.dstRes))
def State.localKeys (s : State) (x : Transfer) (isSrc : Bool) (p n : Nat) : List Nat :=
  let a := if isSrc then x.srcAt p else x.dstAt p
  let t := if isSrc then x.srcTile else x.dstTile
  match (if isSrc then x.form.src else x.form.dst) with
  | .bstore => (List.range n).map fun i => s.bKey t x.share (a + i)
  | _ => s.winKeys t x.share a n
/-- Keys of an endpoint's bytes, and the path of a global one. -/
def State.endKeys (s : State) (x : Transfer) (isSrc : Bool) (p n : Nat) : Except Trap (List Nat × GlobalPath) :=
  if (if isSrc then x.form.src else x.form.dst) = .global then (s.endParts x isSrc p n).map fun ps => (GlobalPath.keys ps, ps)
  else .ok (s.localKeys x isSrc p n, [])

/-- A landed byte of a destination sector (R100). -/
def coverByte (cov : NMap (Nat × Bool)) (k : Nat) (bad : Bool) : NMap (Nat × Bool) :=
  let c := (cov.get? (k / 64)).getD (0, false)
  cov.set (k / 64) (c.1 ||| 2 ^ (k % 64), c.2 || bad)
/-- Bytes land: lines of the shared cache, dirty bits, rewrite bits, and the poison of the destination sectors (R76, R82, R83, R100, R110). -/
def State.landCells (s : State) (cov : NMap (Nat × Bool)) (ps : GlobalPath) (cells0 : List (Nat × Byte × Bool)) :
    State × NMap (Nat × Bool) :=
  let cells := cells0.filter fun x => s.takes x.1
  let put (m : Memory) (x : Nat × Byte × Bool) : Memory := m.set x.1 x.2.1
  let keys := cells.map (·.1)
  let lines := linesOf keys
  let main := keys.filter fun k => decide (k < Config.structuresTop)
  let s0 := (linesOf main).foldl (fun (st : State) l => st.writeLine (main.any fun k => decide (lineOf k = l) && GlobalPath.ncKey ps k) l) s
  let cov1 := cells.foldl (fun c x => coverByte c x.1 x.2.2) cov
  let secs := keys.foldl (fun acc k => nInsert (k / 64) acc) []
  let bad := secs.filter fun k => ((cov1.get? k).getD (0, false)).2
  let clean := secs.filter fun k => decide ((cov1.get? k).getD (0, false) = (2 ^ 64 - 1, false))
  let s1 : State := { s0 with
      mem := cells.foldl put s0.mem,
      l2 := s0.l2.map (L2Line.wrote · (cells.map fun x => (x.1, x.2.1, 0xFF#8))),
      flips := freshWords s0.flips keys,
      dirty := (lines.filter fun l => isSpadKey (l * 256)).foldl (fun d l => nInsert l d) s0.dirty,
      sys := { s0.sys with moves := s0.sys.moves.map (Move.mark · lines) } }
  ((((s1.sense keys).clearPoison clean).poisonSectors bad).mark lines, cov1)

def State.setTransfer (s : State) (x : Transfer) : State :=
  { s with transfers := s.transfers.map fun y => if y.uid = x.uid then x else y }
/-- The stage count for a latency estimate under the limits of a channel (R86). -/
def clampStages (lo hi l : Nat) : Nat := max lo (min hi ((l + 31) / 32))
/-- What cpdepth shows (R86). -/
def CopyChan.cpdepth (k : CopyChan) : Nat := k.depth.getD (clampStages k.min k.max 40)
/-- A latency sample of a streamer is taken and the channel's stage count applied (R86). -/
def State.applyDepth (s : State) (x : Transfer) (k : Nat) : State :=
  let l := ((s.lat.get? k).getD 40 : Nat)
  let l' := ((l : Int) + ((Config.stageSample s.fresh : Int) - l).tdiv 8).toNat
  ({ s with lat := s.lat.set k l', strLast := s.strLast.set k x.pid, fresh := s.fresh + 1 }).modChan x.tile x.share
    x.chan fun y => { y with depth := some (clampStages x.lo x.hi l') }

/-- The segments of a transfer are sent under the limits its channel has then (R86, R103). -/
def State.sendSegments (s : State) (x : Transfer) : Transfer :=
  let c := (s.tile x.tile).chan x.share x.chan
  let y := if x.form.gather && decide (x.idx = []) then s.readIndex x else x
  { y with phase := .running, lo := c.min, hi := c.max, arrived := s.fresh }

/-- A streamer's miss parks the transfer; the first of a channel sends the miss message (R65). -/
def State.parkTransfer (s : State) (x : Transfer) (t : Trap) : State :=
  let c := (s.tile x.tile).chan x.share x.chan
  let s1 := { (s.setTransfer { x with phase := .parked, missVa := t.faddr, missAcc := t.access, parkedAt := s.fresh }) with fresh := s.fresh + 1 }
  if c.missSent then s1
  else
    let s2 := s1.modChan x.tile x.share x.chan fun y => { y with missSent := true }
    s2.sendMiss x.tile x.share x.tenant t.faddr.toNat t.access true x.chan x.id.toNat
/-- A violation: the streamer's service of the tenant freezes, and the line stays pending (R101, R394). -/
def State.freezeStreamer (s : State) (x : Transfer) (k : Nat) (a : Word) : State :=
  { s with strFrozen := s.strFrozen ++ [(k, x.tenant)] }.post { type := 3, tenant := x.tenant, info := k, cause := 0x30, loc := a.toNat }

/-- Where the backing of a reasoning partition's B-store window begins for a tile (R412, R420). -/
def State.backBase (s : State) (t : Nat) (i : Fin 3) : Option Nat :=
  if i = 2 ∨ 512 ≤ t then none
  else (s.part (s.pidAt t i)).map fun p =>
    resBits p.desc 319 256 + p.logical t * (if descHalf p.desc = 0 then 0x400000 else 0x200000)
/-- A landing into the B-store window of a reasoning partition is also written to its backing, at the same offset (R420). -/
def State.backB (s : State) (t : Nat) (i : Fin 3) (o : Nat) (cells : List (Nat × Byte × Bool)) : State :=
  match s.backBase t i with
  | none => s
  | some a => (s.landCells [] [] (cells.zipIdx.map fun c => (a + o + c.2, c.1.2))).1

/-- The place of a line is done: it leaves the lines passed over, or the position moves on, and the lines before it that other streamers serve are
passed over; the last line ends the transfer, as cancelled where a line of it has gone with its segment (R89, R395). -/
def Transfer.pass (x : Transfer) (p n : Nat) : Transfer :=
  let y0 := if !x.inTable p && decide (x.off p = 0) then { x with oor := x.oor + 1 } else x
  let y := if p < x.pos then { y0 with held := x.held.filter fun h => decide (h.1 ≠ p) }
    else { y0 with pos := p + n, held := x.held ++ (x.linesFrom (p - x.pos) x.pos).filter fun h => decide (h.1 < p) }
  if y.held = [] ∧ y.total ≤ y.pos then { y with phase := if y.lost then .cancelled else .ended 0 } else y
/-- Keep a range of physical bytes, joined to the last one where they meet (R93). -/
def seen (r : List (Nat × Nat)) (k n : Nat) : List (Nat × Nat) :=
  match r with
  | [] => [(k, n)]
  | x :: rest => if x.1 + x.2 = k then (x.1, x.2 + n) :: rest else (k, n) :: x :: rest
def seenKeys (r : List (Nat × Nat)) (keys : List Nat) : List (Nat × Nat) := keys.foldl (fun a k => seen a k 1) r
/-- Land a beat of a line, up to 64 bytes: its source, its poison, its destination. None where the undo log is full (R96, R117). -/
def State.landBeat (s : State) (x : Transfer) (p : Nat) (sk : List Nat) (dk : List Nat) (dps : GlobalPath) : Option (State × Transfer) :=
  let n := dk.length
  let logged := if x.form.dst = .spad ∧ x.act ≠ 0 ∧ x.dstTile = x.tile then s.logEngine x.tile x.share x.act (x.dstAt p) n else some s
  logged.map fun s1 =>
    let cells := dk.zipIdx.map fun d =>
      match sk[d.2]? with
      | some k => (d.1, s1.mem.get k, s1.sectorPoisoned k 1)
      | none => (d.1, 0#8, false)
    let l := s1.landCells x.cov dps cells
    let s2 := if x.form.dst = .bstore then
        (l.1.backB x.dstTile x.share (x.dstAt p) cells).modEngine x.dstTile x.share fun e =>
          e.clearLatch (x.dstAt p) n (s.stepBytes x.dstTile x.share)
      else l.1
    (s2, { x with landed := x.landed + n, cov := l.2, srcSeen := seenKeys x.srcSeen sk, dstSeen := seenKeys x.dstSeen dk })
/-- The beats of a line, in order. A beat that finds the undo log full is withheld, and the transfer stops there with status 3 (R101, R117). -/
def State.landBeats (s : State) (x : Transfer) (p : Nat) (sk dk : List Nat) (dps : GlobalPath) : Nat → State × Transfer × Bool
  | 0 => (s, x, true)
  | m + 1 =>
    if dk = [] then (s, x, true)
    else match s.landBeat x p (sk.take 64) (dk.take 64) dps with
      | none => (s, x, false)
      | some r => r.1.landBeats r.2 (p + 64) (sk.drop 64) (dk.drop 64) dps m
/-- A streamer reads the source of a line: through its slice or controller, or from a scratchpad (R79, R82, R110). -/
def State.readSource (s : State) (keys : List Nat) (ps : GlobalPath) : State :=
  if ps = [] then s.sense keys
  else
    let main := keys.filter fun k => decide (k < Config.structuresTop)
    (linesOf main).foldl (fun (st : State) l => st.readLine (main.any fun k => decide (lineOf k = l) && GlobalPath.ncKey ps k) l) s
/-- Serve the line of a running transfer at a place (R85, R100, R101, R105). -/
def State.servePiece (s : State) (x : Transfer) (p n : Nat) : State :=
  let k := s.streamerAt x p
  if x.dropsAt k then s.setTransfer ({ x with lost := true }.pass p n)
  else if x.form = .gxst ∧ !x.inTable p then s.setTransfer (x.pass p n)
  else
    let bad (t : Trap) : State := if t.code < 0x10 then s.parkTransfer x t else s.freezeStreamer x (k.getD 0) t.faddr
    match (if x.inTable p then s.endKeys x true p n else .ok ([], [])) with
    | .error t => bad t
    | .ok sk =>
      match s.endKeys x false p n with
      | .error t => bad t
      | .ok dk =>
        let r := (s.readSource sk.1 sk.2).landBeats x p sk.1 dk.1 dk.2 5
        let s1 := match k with | some k => r.1.applyDepth x k | none => r.1
        s1.setTransfer (if r.2.2 then r.2.1.pass p n else { r.2.1 with phase := .ended 3 })
/-- The source and the destination of a copy share a physical byte: every destination byte is unspecified (R93). -/
def Transfer.overlaps (x : Transfer) : Bool :=
  !x.form.gather && x.srcSeen.any fun a => x.dstSeen.any fun b => decide (a.1 < b.1 + b.2) && decide (b.1 < a.1 + a.2)
def State.unspecify (s : State) (x : Transfer) : State :=
  if x.overlaps then
    let keys := (x.dstSeen.flatMap fun b => (List.range b.2).map fun i => b.1 + i).filter s.takes
    { s with
      mem := keys.zipIdx.foldl (fun (m : Memory) k => m.set k.1 (Config.overlapByte (s.fresh + k.2))) s.mem, fresh := s.fresh + keys.length }
  else s

/-- Transfers of frozen work stand still (R381, R417, R427). -/
def State.transferHeld (s : State) (x : Transfer) : Bool := s.frozenShare x.tile x.share || s.frozenShare x.dstTile x.share
  || (match x.phase with | .paused => true | _ => false)
/-- The host port has accepted every earlier write before a transfer reads or writes the host window (R288, R294). -/
def State.portClear (s : State) (x : Transfer) (p n : Nat) : Bool :=
  let f (isSrc : Bool) : Bool := match s.endKeys x isSrc p n with
    | .ok k => !(k.1.any isHostKey)
    | .error _ => true
  decide ((s.fn x.tenant).outbound = []) || (f true && f false)
/-- Turns of the partitions at a streamer: how far behind the one served last (R86). -/
def rrDist (last p : Nat) : Nat := (p + 33 - last) % 17
/-- A segment of a transfer with a line still to be served is at a streamer that serves its tenant (R85, R101, R394). -/
def State.pendingAt (s : State) (x : Transfer) (k : Nat) : Bool :=
  decide (x.phase = .running) && !s.transferHeld x && !s.streamerStops x (some k) && !x.dropsAt (some k)
    && x.pending.any fun h => decide (s.streamerAt x h.1 = some k)
/-- On a seized bay the bay streamer serves the segments of rtenant first (R380). -/
def State.servesFirst (s : State) (k : Nat) (x : Transfer) : Bool :=
  decide (32 ≤ k) && (s.bay (k - 32)).seized && decide (x.share = 2)
/-- It is the transfer's turn at a streamer: of the segments there, those of rtenant on a seized bay; of those, its partition is the next in the
round robin; of its partition's, its own arrived first (R86, R380). -/
def State.streamTurn (s : State) (x : Transfer) (k : Nat) : Bool :=
  let last := (s.strLast.get? k).getD 15
  s.transfers.all fun y =>
    !s.pendingAt y k || decide (y.uid = x.uid) ||
      (if s.servesFirst k y ≠ s.servesFirst k x then s.servesFirst k x
       else if y.pid = x.pid then decide (x.arrived ≤ y.arrived)
       else decide (rrDist last x.pid < rrDist last y.pid))
/-- The line that a running transfer has served next: the first that no streamer holds back. A line whose page misses, or of which nothing is read,
waits for no turn (R85, R86, R101, R105). -/
def State.nextLine (s : State) (x : Transfer) : Option (Nat × Nat) :=
  x.pending.find? fun h => match s.streamerAt x h.1 with
    | none => true
    | some k => x.dropsAt (some k) || (!s.streamerStops x (some k) && s.streamTurn x k)
def execStreamerSegment (n : Nat) : Meaning := fun s =>
  event "STREAMER_SEGMENT" (match s.transfers[n]? with
    | some x =>
      if x.phase = .sent ∧ s.forkReady x ∧ !s.transferHeld x then
        let s1 := if x.idx = [] then s.senseIndex x else s
        some ({ s1 with fresh := s1.fresh + 1 }.setTransfer (s1.sendSegments x))
      else none
    | none => none)
def execStreamerLine (n : Nat) : Meaning := fun s =>
  event "STREAMER_LINE" (match s.transfers[n]? with
    | some x =>
      if x.phase = .running ∧ !s.transferHeld x then
        (s.nextLine x).bind fun h => if s.portClear x h.1 h.2 then some (s.servePiece x h.1 h.2) else none
      else none
    | none => none)
/-- The request for leave of a transfer that ends leaves the queue of its bay (R104, R338). -/
def State.dropCopyRequest (s : State) (x : Transfer) : State :=
  s.modBay (bayOf x.tile) fun b => { b with lvq := b.lvq.filter fun r => !(decide (r.kind = 2) && decide (r.key = x.uid)) }
def execStreamerCancel (n : Nat) : Meaning := fun s =>
  event "STREAMER_CANCEL" (match s.transfers[n]? with
    | some x => (match x.phase with
      | .ended _ => none
      | .cancelled => none
      | _ => if x.cancelReq then some ((s.setTransfer { x with phase := .cancelled }).dropCopyRequest x) else none)
    | none => none)

/-- Issue of a follow-on at the destination tile: its extents and the limits that are left are checked there (R98, R259). -/
def State.followOn (s : State) (x : Transfer) : State :=
  let e5 := x.e.get 5
  let sub := wfield e5 4 0
  let x7 := wfield e5 11 5
  match (s.mxExtentFault x.dstTile x.share sub (x.e.get 6) (x.e.get 7)).isSome
      || !s.mxLimitsOk x.dstTile x.share sub (x.e.get 6) (x.e.get 7) with
  | true => s.post { type := 4, tenant := x.tenant, cause := 5, info := (x.e.get 6).toNat, loc := (x.e.get 6).toNat }
  | false =>
    let c : MxCmd := {
      uid := s.fresh, sub := sub, a := x.e.get 6, b := x.e.get 7, b0 := x.e.get 7,
      notify := if 64 ≤ x7 then some (x7 % 64) else none, tenant := x.tenant, launch := x.launch, pid := x.pid, prio := x.prio,
      mode := (if sub = 3 ∧ wfield (x.e.get 7) 27 25 ≠ 0 then RMode.ofBits (BitVec.ofNat 2 (wfield (x.e.get 7) 27 25 - 1)) else .rne),
      core := (s.tileWordAt x.dstTile x.share).toNat % 1024 }
    ({ s with fresh := s.fresh + 1 }).modEngine x.dstTile x.share fun e => { e with entering := e.entering ++ [c] }
/-- The completion message (R97). -/
def State.cpNotify (s : State) (x : Transfer) (st : Nat) : State :=
  if x.notify then
    let tgt := if x.form.dst = .global then x.tile else x.dstTile
    let e4 := x.e.get 4
    s.inject x.tile x.share {
      launch := x.launch, tenant := x.tenant, kind := 4, source := s.tileWordAt x.tile x.share, vnet := 2,
      chan := wfield e4 5 0, dest := s.tileWordAt tgt x.share, dst := tgt, wicket := decide (x.share = 2),
      body := wordsBody [x.id, BitVec.ofNat 64 (wfield e4 63 32 * 2 ^ 32 + st * 16 + x.chan),
        BitVec.ofNat 64 x.landed, BitVec.ofNat 64 x.oor] }
  else s
/-- A transfer ends (R89, R97, R98, R101). -/
def State.endTransfer (s0 : State) (x : Transfer) (st : Nat) (cancelled : Bool) : State :=
  let s := s0.unspecify x
  let s1 := ({ s with transfers := s.transfers.filter fun y => decide (y.uid ≠ x.uid) }).modChan x.tile x.share x.chan
    fun k => k.finish x.id cancelled
  let s2 := (s1.dropCopyRequest x).leaveReturn
    x.tile x.share x.owner x.tokens x.fromHold
  if cancelled then s2
  else
    let s3 := if x.chain && decide (st = 0) then s2.followOn x else s2
    let s4 := if st = 0 then s3
      else s3.engineError x.tile x.act x.tenant (match st with | 1 => 3 | 2 => 4 | _ => 6) x.id
    s4.cpNotify x st
def execTransferEnd (n : Nat) : Meaning := fun s =>
  event "TRANSFER_END" (match s.transfers[n]? with
    | some x => (match x.phase with
      | .ended st => some (s.endTransfer x st false)
      | .cancelled => some (s.endTransfer x 0 true)
      | _ => none)
    | none => none)
/-- Transfers released at issue by an activation, not yet ended (R96). -/
def State.transfersPending (s : State) (t act : Nat) : Bool := s.transfers.any fun x => decide (x.act = act) && decide (x.tile = t)

end Sys2Proof.Machine
end

