-- ==== Sys2Proof/Machine/Shape.lean ====
section
/-! DEFINITION. Extension registers, shape registers and the slice of a broadcast record: major 36 (R158, R162 to R169). -/

namespace Sys2Proof.Machine

/-! ### Extension registers (R167) -/

def Half.setE (h : Half) (n : BitVec 3) (v : Word) : Half :=
  { h with e := h.e.set n.toNat v n.isLt }
/-- Write e[N] and push the value. -/
def extWrite (n : BitVec 3) (v : Word) : Exec Unit := update fun s => s.modHalf fun h => (h.setE n v).push v
def execExtW (n : BitVec 3) (a : Reg) : Meaning :=
  issue { srcs := [a] } (do let v ← rd a; extWrite n v; pure .next)
def execExtGet (n : BitVec 3) (a : Reg) : Meaning :=
  issueValue { dsts := [a] } a (do let s ← get; pure (s.half.e.get n.toFin))
def execExtLix (n : BitVec 3) (imm : BitVec 16) : Meaning :=
  issue {} (do extWrite n (sext imm); pure .next)
def execExtLixs (n : BitVec 3) (imm : BitVec 16) : Meaning :=
  issue {} (do let s ← get; extWrite n ((s.half.e.get n.toFin <<< 16) ||| imm.zeroExtend 64); pure .next)

/-! ### Fields of a shape record (R162) -/

/-- Lowest bit and width of a field number. -/
def shapeField (f : Nat) : Nat × Nat :=
  if f < 4 then (24 * f, 24)
  else if f < 8 then (96 + 40 * (f - 4), 40)
  else if f = 8 then (256, 4)
  else if f = 9 then (260, 2)
  else if f = 10 then (262, 2)
  else if f = 11 then (264, 40)
  else if f < 16 then (304 + 2 * (f - 12), 2)
  else if f < 20 then (312 + 10 * (f - 16), 10)
  else if f < 24 then (352 + 2 * (f - 20), 2)
  else if f < 28 then (360 + 8 * (f - 24), 8)
  else if f = 28 then (392, 1)
  else (416 + 24 * (f - 29), 24)
def shapeGet (r : Rec512) (f : Nat) : Nat := r.toNat / 2 ^ (shapeField f).1 % 2 ^ (shapeField f).2
def shapeSet (r : Rec512) (f v : Nat) : Rec512 :=
  BitVec.ofNat 512 (setBits r.toNat ((shapeField f).1 + (shapeField f).2 - 1) (shapeField f).1 v)
def shDim (r : Rec512) (i : Nat) : Nat := shapeGet r i
def shStride (r : Rec512) (i : Nat) : Nat := shapeGet r (4 + i)
def shSplit (r : Rec512) (i : Nat) : Nat := shapeGet r (12 + i)
def shParts (r : Rec512) (i : Nat) : Nat := shapeGet r (16 + i)
def shOrder (r : Rec512) (j : Nat) : Nat := shapeGet r (20 + j)
def shHalo (r : Rec512) (i : Nat) : Nat := shapeGet r (24 + i)
def shapeParts (r : Rec512) : Nat := shParts r 0 * shParts r 1 * shParts r 2 * shParts r 3

/-- Malformed records (R163). -/
def shapeMalformed (r : Rec512) : Bool :=
  decide (resBits r 415 393 ≠ 0) || decide (2 ≤ shapeGet r 10)
    || ((List.range 4).any fun i =>
      decide (shSplit r i = 3) || decide (shDim r i = 0) || decide (shParts r i = 0)
        || (decide (shSplit r i = 0) && decide (shParts r i ≠ 1))
        || (decide (shSplit r i = 2) && (decide (shHalo r i ≠ 0) || decide (2 ^ 40 ≤ shStride r i * shParts r i))))
    || !((List.range 4).all fun i => (List.range 4).any fun j => decide (shOrder r j = i))
    || decide (512 < shapeParts r) || decide (shapeGet r 28 = 1)

/-! ### The forms of R168 -/

/-- The address of a 64-byte record access. -/
def recordAddr (ea : Word) (k : AccKind) : Exec Nat := do
  requireOperand (decide (ea.toNat % 64 = 0))
  let s ← get
  checkWin s.cur 0 ea.toNat 64 k
def rec512Of (bs : List Byte) : Rec512 := BitVec.ofNat 512 (leNat bs)
def Half.setH (h : Half) (n : BitVec 4) (v : Rec512) : Half := { h with h := h.h.set n.toNat v n.isLt }
def execShpLd (n : BitVec 4) (b : Reg) : Meaning :=
  issue { srcs := [b] } do
    let ea ← rd b
    let a ← recordAddr ea .load
    let bs ← readOwn a 64
    update fun s => s.modHalf fun h => h.setH n (rec512Of bs)
    pure .next
def execShpSt (n : BitVec 4) (b : Reg) : Meaning :=
  issue { srcs := [b] } do
    let ea ← rd b
    let a ← recordAddr ea .store
    let s ← get
    storeOwn a (leBytes 64 (s.half.h.get n.toFin).toNat)
    pure .next
def execShpSet (n : BitVec 4) (f : BitVec 6) (a : Reg) : Meaning :=
  issue { srcs := [a], illegal := decide (33 ≤ f.toNat) } do
    let v ← rd a
    requireOperand (decide (v.toNat < 2 ^ (shapeField f.toNat).2))
    update fun s => s.modHalf fun h => h.setH n (shapeSet (h.h.get n.toFin) f.toNat v.toNat)
    pure .next
def execShpGet (n : BitVec 4) (f : BitVec 6) (a : Reg) : Meaning :=
  issueValue { dsts := [a], illegal := decide (33 ≤ f.toNat) } a (do let s ← get; pure (BitVec.ofNat 64 (shapeGet (s.half.h.get n.toFin) f.toNat)))

/-! ### rec.slice (R169) -/

/-- One digit of the derivation: the record so far, the rank that is left, and the offset. -/
def sliceDigit (rec : Rec512) (acc : Rec512 × Nat × Nat) (j : Nat) : Rec512 × Nat × Nat :=
  let i := shOrder rec j
  let p := shParts rec i
  let c := acc.2.1 % p
  let n := shDim rec i
  let q := n / p
  let m := n % p
  let s0 := c * q + min c m
  let e0 := s0 + q + (if c < m then 1 else 0)
  let h := shHalo rec i
  let split := shSplit rec i
  let start := if split = 1 then s0 - h else if split = 2 then c else 0
  let o1 := if split = 1 then shapeSet acc.1 i (min n (e0 + h) - start)
    else if split = 2 then
      shapeSet (shapeSet acc.1 i (if c < n then (n - c + p - 1) / p else 0)) (4 + i) (shStride rec i * p)
    else acc.1
  let o2 := shapeSet (shapeSet (shapeSet (shapeSet (shapeSet o1 (29 + i) start) (12 + i) 0) (16 + i) 1) (24 + i) 0) (20 + j) j
  (o2, acc.2.1 / p, acc.2.2 + start * shStride rec i)
/-- The slice record and the byte offset of a rank. -/
def sliceOfRank (rec : Rec512) (rank : Nat) : Rec512 × Nat :=
  let r := [0, 1, 2, 3].foldl (sliceDigit rec) (rec, rank, 0)
  (shapeSet r.1 28 1, r.2.2)
def execRecSlice (idx : BitVec 6) (b a : Reg) : Meaning :=
  issueValue { srcs := [b], dsts := [a] } a do
    let ctl := (← rd b).toNat
    requireOperand (decide (bits ctl 63 52 = 0) && decide (bits ctl 31 16 = 0) && decide (bits ctl 37 32 = 0))
    let s ← get
    let dst ← checkWin s.cur 0 (bits ctl 51 32) 64 .store
    let bs ← readOwn (64 * idx.toNat) 64
    let r0 := rec512Of bs
    if shapeMalformed r0 then stop (.trap { code := 0x21, faddr := BitVec.ofNat 64 (64 * idx.toNat), own := true })
    let rank := bits ctl 15 0
    requireOperand (decide (rank < shapeParts r0))
    let r := sliceOfRank r0 rank
    storeOwn dst (leBytes 64 r.1.toNat)
    pure (BitVec.ofNat 64 r.2)

end Sys2Proof.Machine
end

