-- ==== Sys2Proof/Machine/Defence.lean ====
section
/-! DEFINITION. Control registers, trap return and software traps, releases of freezes, error queues, bound registers, wear: majors 37
and 38 (R342 to R347, R394 to R409). -/

namespace Sys2Proof.Machine

/-! ### Control registers (R403, R404) -/

/-- Numbers that R403 lists. -/
def csrListed (n : Nat) : Bool :=
  decide (n ≤ 9) || (decide (0x10 ≤ n) && decide (n ≤ 0x13)) || (decide (0x18 ≤ n) && decide (n ≤ 0x1A))
    || (decide (0x20 ≤ n) && decide (n ≤ 0x25)) || (decide (0x30 ≤ n) && decide (n ≤ 0x33))
    || (decide (0x40 ≤ n) && decide (n ≤ 0x5F)) || decide (n = 0x3F0)
/-- The tenant's bits of bndflag on a split tile (R397, R403). -/
def State.ownBounds (s : State) : Word :=
  if !(s.tile s.cur).split || decide (s.share = 2) then Word.ones
  else if s.share = 0 then 0xFFFFFFFF#64 else 0xFFFFFFFF00000000#64
def State.wakeWord (s : State) : Word :=
  b2w s.sys.waking ||| (b2w s.sys.asleep <<< 1) ||| (b2w s.sys.waking <<< 2)
def State.readGroupSlot (s : State) (i : Nat) : Word :=
  if s.share = 2 then 0#64 else (s.tile s.cur).grpslot.get (Fin.ofNat 8 (i + if s.share = 1 then 4 else 0))
/-- The value of a control register for the current context. -/
def State.csr (s : State) (n : Nat) : Word :=
  let h := s.half
  if n = 0 then h.status
  else if n = 1 then h.cause
  else if n = 2 then h.xpc
  else if n = 3 then h.faddr
  else if n = 4 then h.msgid.zeroExtend 64
  else if n = 5 then BitVec.ofNat 64 h.chan
  else if n = 6 then h.budget
  else if n = 7 then h.trapvec
  else if n = 8 then h.tsave
  else if n = 9 then h.tlpcnt
  else if n = 0x10 then h.fflags.zeroExtend 64
  else if n = 0x11 then h.frnd.zeroExtend 64
  else if n = 0x12 then h.pfxsave.zeroExtend 64
  else if n = 0x13 then h.nanorg
  else if n = 0x18 then h.lpcnt
  else if n = 0x19 then h.lpbeg
  else if n = 0x1A then h.lpend
  else if n = 0x20 then BitVec.ofNat 64 s.act.launch
  else if n = 0x21 then BitVec.ofNat 64 s.act.tenant
  else if n = 0x22 then s.tileWord.zeroExtend 64
  else if n = 0x23 then BitVec.ofNat 64 s.dtime
  else if n = 0x24 then BitVec.ofNat 64 (s.fn s.act.tenant).wearacct
  else if n = 0x25 then (s.tile s.cur).bndflag &&& s.ownBounds
  else if n < 0x34 then s.readGroupSlot (n - 0x30)
  else if n < 0x50 then ((s.tile s.cur).chan s.share (n - 0x40)).done
  else if n < 0x60 then BitVec.ofNat 64 ((s.tile s.cur).chan s.share (n - 0x50)).cpdepth
  else s.wakeWord

/-- The writer of WAKE (R404): the system core, reflex tiles and seizing handlers of the tenant with the wake grant. -/
def State.mayWake (s : State) : Bool :=
  isSystem s.cur || (s.reflexSide && decide (s.act.tenant = s.sys.wakeTenant))
/-- A write that R407 allows: the register has an RW or W1C field and is not refused. -/
def State.csrWritable (s : State) (n : Nat) : Bool :=
  n = 0 || ((n = 2 || n = 3) && s.half.tm) || n = 7 || n = 0x10 || n = 0x11 || n = 0x13 || n = 0x25
    || (n = 0x3F0 && s.mayWake)
/-- Writing 1 to WAKE.req while asleep starts a wake (R404, R459). -/
def Sys.requestWake (y : Sys) (v : Word) : Sys := if v.getLsbD 0 && y.asleep then { y with waking := true } else y
/-- The bits of a register that software writes. -/
def maskInto (old new mask : Word) : Word := (old &&& ~~~ mask) ||| (new &&& mask)
/-- What a csr write leaves: `a` is the operand, `v` the new value of the form. -/
def State.csrWrite (s : State) (n : Nat) (a v : Word) : State :=
  if n = 0 then s.modHalf fun h => { h with status := maskInto h.status v statusDZT }
  else if n = 2 then s.modHalf fun h => { h with xpc := v }
  else if n = 3 then s.modHalf fun h => { h with faddr := v }
  else if n = 7 then s.modHalf fun h => { h with trapvec := v &&& 0x1FFFFFFFF#64 }
  else if n = 0x10 then s.modHalf fun h => { h with fflags := v.setWidth 5 }
  else if n = 0x11 then s.modHalf fun h => { h with frnd := v.setWidth 2 }
  else if n = 0x13 then s.modHalf fun h => { h with nanorg := v &&& 0x80000000003FFFFF#64 }
  else if n = 0x25 then s.modTile s.cur fun t => { t with bndflag := t.bndflag &&& ~~~ (a &&& s.ownBounds) }
  else if n = 0x3F0 then s.modSys fun y => y.requestWake v
  else s

/-- The three forms of R406 and R407. -/
def csrForm (n : BitVec 10) (a d : Reg) (writes : Bool) (f : Word → Word → Word) : Meaning :=
  issueValue { srcs := [a], dsts := [d], illegal := !csrListed n.toNat } d do
    let x ← rd a
    let k := n.toNat
    let s0 ← get
    requireOperand (!(decide (0x40 ≤ k) && decide (k < 0x60) && decide (s0.share = 2) && decide (4 ≤ k % 16)))
    if k = 0x10 ∨ k = 0x13 then vectorIdle
    let s ← get
    let old := s.csr k
    let new := f old x
    if writes then
      requireOperand (s.csrWritable k)
      requireOperand (!(decide (k = 7) && new.getLsbD 0))
      update fun s => s.csrWrite k x new
    pure old
def execCsrRw (n : BitVec 10) (a d : Reg) : Meaning := csrForm n a d true fun _ x => x
def execCsrRs (n : BitVec 10) (a d : Reg) : Meaning := csrForm n a d (decide (a ≠ .z)) fun o x => o ||| x
def execCsrRc (n : BitVec 10) (a d : Reg) : Meaning := csrForm n a d (decide (a ≠ .z)) fun o x => o &&& ~~~ x
/-- The effect of writing 1 to WAKE.req while the array is asleep (R404). -/
def execWakeReq : Meaning := fun s =>
  event "WAKE_REQ" (if s.sys.asleep && s.mayWake then some (s.modSys fun y => y.requestWake 1#64) else none)

/-! ### tret, trap.ab, trap.dead (R409) -/

def execTret : Meaning :=
  issue {} do
    let s ← get
    check s.half.tm 0x20
    requireOperand (!s.half.xpc.getLsbD 0)
    update fun s => s.modHalf fun h => { h.leaveTrap with pc := h.xpc, lastPc := h.pc }
    pure .stay
def softwareTrap (code : Nat) (a : Reg) : Meaning :=
  issue { srcs := [a] } do
    let v ← rd a
    trap code 0 v
def execTrapAb (a : Reg) : Meaning := softwareTrap 0x2C a
def execTrapDead (a : Reg) : Meaning := softwareTrap 0x2D a

/-! ### frz.rel (R395, R409) -/

/-- Restart, or abort with cause 0x30, the frozen activation of a slot. -/
def Slot.release (x : Slot) (ab : Bool) : Slot :=
  if x.phase = .frozen then
    (if ab then { x with phase := .aborting, act := { x.act with abort := some { code := 0x30, faddr := x.half.faddr } } }
     else { x with phase := .live, waiting := false })
  else x
def Slot.isFrozen (x : Slot) : Bool := match x.phase with | .frozen => true | _ => false
/-- A streamer takes up a tenant's segments again, or the segments pending there are cancelled (not those of a transfer that waits for leave or whose
command has not arrived): a transfer loses the lines that this streamer
serves, and ends as cancelled once its other lines have landed (R395). -/
def Transfer.dropSegment (x : Transfer) (k : Nat) : Transfer :=
  match x.phase with
  | .running | .parked | .paused =>
    if x.form.src = .global then { x with dropped := x.dropped ++ [k] }
    else if 32 + bayOf x.srcTile = k then x.cancelIf fun _ => true else x
  | _ => x
def State.releaseStreamer (s : State) (k tenant : Nat) (ab : Bool) : State :=
  let f (x : Transfer) : Transfer := if ab ∧ x.tenant = tenant then x.dropSegment k else x
  { s with strFrozen := s.strFrozen.filter fun y => decide (y ≠ (k, tenant)), transfers := s.transfers.map f }
/-- frz.rel on a master word: the new state and v. -/
def State.frzRel (s : State) (w : Word) (ab : Bool) : State × Nat :=
  match wfield w 1 0 with
  | 0 =>
    (match s.tileOfPhys (wfield w 31 16) with
    | none => (s, 2)
    | some t =>
      let c : Fin 8 := Fin.ofNat 8 (wfield w 6 4)
      let k := (s.tile t).ctx c
      if k.s0.isFrozen || k.s1.isFrozen then
        (s.modTile t fun x => x.setCtx c { k with s0 := k.s0.release ab, s1 := k.s1.release ab }, 0)
      else (s, 1))
  | 1 =>
    let n := wfield w 12 8
    let tn := wfield w 19 16
    let ks := if w.getLsbD 13 then [32 + n, 64 + n] else [n]
    (match s.strFrozen.find? fun y => ks.contains y.1 && decide (y.2 = tn) with
    | some y => (s.releaseStreamer y.1 tn ab, 0)
    | none => (s, 1))
  | 2 =>
    let f := wfield w 11 8
    if (s.fn f).frozen then (s.modFn f fun g => { g with frozen := false }, 0) else (s, 1)
  | _ => (s, 2)
/-- Bits that the kind of a master word leaves reserved. -/
def masterWordOk (w : Word) : Bool :=
  match wfield w 1 0 with
  | 0 => onlyBits w [(1, 0), (6, 4), (31, 16)]
  | 1 => onlyBits w [(1, 0), (13, 8), (19, 16)]
  | 2 => onlyBits w [(1, 0), (11, 8)]
  | _ => true
/-- The effect of frz.rel on words a and b, which the mailbox uses as well (R450). -/
def sysFrzRel (a b : Word) : Exec Word := do
  requireOperand (masterWordOk a && onlyBits b [(0, 0)])
  let s ← get
  let r := s.frzRel a (b.getLsbD 0)
  update fun _ => r.1
  pure (BitVec.ofNat 64 r.2)
/-- A form of the system core: privileged, operands a and b, a value. -/
def systemForm (b a d : Reg) (eff : Word → Word → Exec Word) : Meaning :=
  issueValue (opAB b a d) d do
    let x ← rd a
    let y ← rd b
    privileged isSystem
    eff x y
def execFrzRel (b a d : Reg) : Meaning := systemForm b a d sysFrzRel

/-! ### eq.pop (R401, R409) -/

/-- An entry of an error queue or of the physical log as 256 bits (R400). -/
def ErrEvent.bits (e : ErrEvent) : Nat :=
  e.type % 256 + e.cause % 256 * 2 ^ 8 + e.count % 2 ^ 16 * 2 ^ 16 + e.sev % 4 * 2 ^ 42 + e.tenant % 16 * 2 ^ 44
    + e.ptile % 2 ^ 16 * 2 ^ 48 + e.info % 2 ^ 64 * 2 ^ 64 + e.loc % 2 ^ 64 * 2 ^ 128 + e.dtime % 2 ^ 64 * 2 ^ 192
def execEqPop (b d : Reg) : Meaning :=
  issueValue { srcs := [b], dsts := [d] } d do
    let ea ← rd b
    requireOperand (decide (ea.toNat % 32 = 0))
    let s ← get
    let a ← checkWin s.cur 0 ea.toNat 32 .store
    let v ← match (s.fn s.act.tenant).eq with
      | [] => pure Word.ones
      | e :: rest => do
        storeOwn a (leBytes 32 e.bits)
        update fun s => s.modFn s.act.tenant fun f => { f with eq := rest }
        pure (BitVec.ofNat 64 rest.length)
    markNonReplayable
    pure v

/-! ### Bound registers (R397, R409) -/

/-- An index of the context's tenant. -/
def State.ownsBound (s : State) (i : Nat) : Bool :=
  !(s.tile s.cur).split || decide (s.share = 2) || (decide (i < 32) == decide (s.share = 0))
def Tile.modBound (t : Tile) (i : Nat) (f : Bound → Bound) : Tile :=
  let k : Fin 64 := Fin.ofNat 64 i
  { t with bnd := t.bnd.set k.val (f (t.bnd.get k)) k.isLt }
def Tile.clearBound (t : Tile) (i : Nat) : Tile :=
  { t.modBound i (fun b => { b with count := 0 }) with bndflag := t.bndflag &&& ~~~ (1#64 <<< (i % 64)) }
def execBndWr (b a : Reg) : Meaning :=
  issue { srcs := [a, b] } do
    let x ← rd a
    let y ← rd b
    let s ← get
    let i := wfield x 5 0
    requireOperand (onlyBits x [(5, 0), (9, 8), (12, 12)] && s.ownsBound i)
    let r : Bound := {
      count := 0, int := x.getLsbD 12, act := BitVec.ofNat 2 (wfield x 9 8), hi := BitVec.ofNat 32 (wfield y 63 32),
      lo := BitVec.ofNat 32 (wfield y 31 0) }
    update fun s => s.modTile s.cur fun t => (t.modBound i fun _ => r).clearBound i
    pure .next
def execBndRd (a d : Reg) : Meaning :=
  issueValue (opA a d) d do
    let x ← rd a
    let s ← get
    let i := wfield x 5 0
    requireOperand (onlyBits x [(5, 0), (9, 8)] && decide (wfield x 9 8 < 3) && s.ownsBound i)
    let r := (s.tile s.cur).bnd.get (Fin.ofNat 64 i)
    pure (BitVec.ofNat 64 (match wfield x 9 8 with
      | 0 => r.hi.toNat * 2 ^ 32 + r.lo.toNat
      | 1 => r.act.toNat * 2 ^ 8 + (if r.int then 2 ^ 12 else 0) + i
      | _ => r.count))
def execBndClr (a : Reg) : Meaning :=
  issue { srcs := [a] } do
    let x ← rd a
    let s ← get
    requireOperand (onlyBits x [(5, 0), (8, 8)] && s.ownsBound (wfield x 5 0))
    let is := if x.getLsbD 8 then (List.range 64).filter s.ownsBound else [wfield x 5 0]
    update fun s => s.modTile s.cur fun t => is.foldl Tile.clearBound t
    pure .next

/-! ### Wear (R342, R345 to R347) -/

/-- The record of a tile that nothing has written: stress 1, its own word (R346). -/
def lifeDefault (w : Nat) : Rec512 := BitVec.ofNat 512 (w % 2 ^ 16 * 2 ^ 96 + 2 ^ 120)
/-- The lifetime record of a physical tile word. -/
def State.life (s : State) (w : Nat) : Rec512 := (s.sys.life.get? w).getD (lifeDefault w)
def lifeStress (r : Rec512) : Nat := resBits r 123 120
def lifeState (r : Rec512) : Nat := resBits r 113 112
def setRec (r : Rec512) (hi lo v : Nat) : Rec512 := BitVec.ofNat 512 (setBits r.toNat hi lo v)
def State.setLife (s : State) (w : Nat) (r : Rec512) : State := s.modSys fun y => { y with life := y.life.set w r }
/-- Charge an activation's wear at its end: L cycles from binding (R345). -/
def State.chargeWear (s : State) (t : Nat) (c : Fin 8) (tenant cycles : Nat) : State :=
  let w := s.physTile t
  let r := s.life w
  let wu := (cycles * lifeStress r + 4095) / 4096
  ((s.setLife w (setRec r 319 256 (resBits r 319 256 + wu))).modFn tenant fun f => { f with wearacct := f.wearacct + wu }).modTile t
    fun x => let k := x.ctx c; x.setCtx c { k with wear := k.wear + wu }
def execWearRd (b d : Reg) : Meaning :=
  issueValue { srcs := [b], dsts := [d] } d do
    let k ← rd b
    requireOperand (decide (k.toNat ≤ 3))
    let s ← get
    let r := s.life (s.physTile s.cur)
    pure (BitVec.ofNat 64 (match k.toNat with
      | 0 => (s.fn s.act.tenant).wearacct
      | 1 => lifeState r
      | 2 => lifeStress r
      | _ => ((s.tile s.cur).ctx s.ctx).wear))
/-- More than 16 corrected errors of a tile in one hour (R347, R402). -/
def State.manyErrors (s : State) (w : Nat) : Bool :=
  decide (16 < ((s.sys.corrected.get? w).getD []).countP fun t => decide (s.dtime ≤ t + 3600000000000))
/-- A state change that R347 allows. -/
def State.lifeChange (s : State) (w from' to' : Nat) : Bool :=
  let r := s.life w
  let bti := resBits r 191 160
  let lim := Config.btiLimit w
  if from' = to' then true
  else if to' = 1 then decide (from' = 0) && decide (w < 2 ^ 15) && decide (8 * lim ≤ 10 * bti)
  else if to' = 2 then decide (from' ≤ 1) && (decide (lim ≤ bti) || decide (1000000 ≤ resBits r 159 128) || s.manyErrors w)
  else decide (to' = 3) && decide (from' = 2) && (s.tileOfPhys w).isNone
/-- wear.set on words a and b: the new state and its status. -/
def State.wearSet (s : State) (a b : Word) : State × Nat :=
  let w := a.toNat
  let bay := if w < 2 ^ 15 then w / 2 ^ 10 else 32 + (w - 2 ^ 15) / 2 ^ 10
  if 2 ^ 16 ≤ w ∨ w / 32 % 32 ≠ 0 ∨ 16 < w % 32 ∨ 34 ≤ bay ∨ !onlyBits b [(3, 0), (9, 8)] ∨ wfield b 3 0 = 0 ∨ 8 < wfield b 3 0 then (s, 1)
  else
    let r := s.life w
    let st := wfield b 9 8
    if !s.lifeChange w (lifeState r) st then (s, 2)
    else
      let r1 := setRec (setRec r 123 120 (wfield b 3 0)) 113 112 st
      (s.setLife w (if st = lifeState r then r1 else setRec r1 95 64 (resBits r 255 192)), 0)
def sysWearSet (a b : Word) : Exec Word := do
  let s ← get
  let r := s.wearSet a b
  update fun _ => r.1
  pure (BitVec.ofNat 64 r.2)
def execWearSet (b a d : Reg) : Meaning := systemForm b a d sysWearSet

end Sys2Proof.Machine
end

