-- ==== Sys2Proof/Machine/Activation.lean ====
section
/-! DEFINITION. The life of an activation: arrival of messages, selection and binding, done and flush, rollback, dead messages
(R302 to R318, R330 to R336, R341, R378, R388 to R393). -/

namespace Sys2Proof.Machine

/-! ### The dead-message area (R393) -/

/-- Entries of a ring, from its base register, whose [3:0] hold n from 4 to 16 modulo 16; 0 when none is placed. -/
def Fn.deadEntries (f : Fn) : Nat :=
  let n := bits f.dmbase.toNat 3 0
  if n = 0 ∧ f.dmbase ≠ 0#64 then 2 ^ 16 else if n < 4 then 0 else 2 ^ n
/-- The 64-byte record of a move. -/
def deadRecord (dtime : Nat) (m : Msg) (tileWord : BitVec 11) (reason cause : Nat) (faddr xpc : Word) (seq : Nat) : Nat :=
  seq % 2 ^ 64 + m.deliv % 256 * 2 ^ 72 + reason % 256 * 2 ^ 80 + cause % 256 * 2 ^ 88 + tileWord.toNat * 2 ^ 101
    + m.launch % 2 ^ 16 * 2 ^ 112 + xpc.toNat * 2 ^ 128 + faddr.toNat * 2 ^ 192 + dtime % 2 ^ 64 * 2 ^ 256
/-- Move a message to its tenant's dead-message area; a full ring loses it (R393). -/
def State.moveDeadAt (s : State) (t : Nat) (w : BitVec 11) (m : Msg) (reason cause : Nat) (faddr xpc : Word) : State :=
  let f := s.fn m.tenant
  let s0 := s.modLaunchOf m.pid m.launch fun l => { l with dead := l.dead + 1 }
  if f.deadEntries ≤ f.dmprod.toNat - f.dmcons.toNat then
    (s0.modFn m.tenant fun g => { g with dmlost := g.dmlost + 1#64 }).post {
      type := 14, tenant := m.tenant, info := f.dmlost.toNat + 1, cause := reason, ptile := s.physTile t, ltile := w.toNat }
  else
    let a := f.dmbase.toNat / 16 * 16 + 320 * (f.dmprod.toNat % f.deadEntries)
    let bs := leBytes 64 (deadRecord s.dtime m w reason cause faddr xpc f.dmseq) ++ leBytes 16 m.header
      ++ m.body ++ List.replicate (240 - m.body.length) 0#8
    let s1 := { s0 with mem := s0.mem.write a bs }
    (s1.modFn m.tenant fun g => { g with dmprod := g.dmprod + 1#64, dmseq := g.dmseq + 1 }).post {
      type := 2, tenant := m.tenant, info := m.msgid.toNat, cause := reason, loc := a, vloc := some faddr.toNat,
      ptile := s.physTile t, ltile := w.toNat }

/-- The move of a message from the inbox of a share of a tile. -/
def State.moveDead (s : State) (t : Nat) (i : Fin 3) (m : Msg) (reason cause : Nat) (faddr xpc : Word) : State :=
  s.moveDeadAt t (s.tileWordAt t i) m reason cause faddr xpc

/-- The move of a message that no abort moves: its record names the last abort of an activation that it has started, or none (R393). -/
def State.moveDeadLast (s : State) (t : Nat) (i : Fin 3) (m : Msg) (reason : Nat) : State :=
  s.moveDead t i m reason m.lastAbort.1.toNat m.lastAbort.2.1 m.lastAbort.2.2

/-! ### Inbox entries and arrival (R305, R306, R327) -/

/-- Messages that hold an entry: queued ones, and those of the activations they started (R305, R308). -/
def entriesOf (inbox : List Msg) (cs : Vector Ctx 8) : List Msg :=
  inbox ++ ((cs.toList.flatMap fun c => [c.s0, c.s1]).filter fun x => decide (x.phase ≠ .free)).map fun x => x.act.msg
def Tile.entries (t : Tile) : List Msg := entriesOf t.inbox t.ctxs
/-- The half of a split tile that a message's entry belongs to (R416). -/
def Msg.side (m : Msg) (split : Bool) (shareOf : Msg → Bool) : Bool := split && shareOf m
/-- Shared entries that messages hold, where so many are reserved for each of the reply, engine and system networks (R305). -/
def sharedUse (res : Nat) (es : List Msg) : Nat :=
  let occ (v : Nat) : Nat := es.countP fun x => decide (x.vnet = v)
  occ 0 + (occ 1 - res) + (occ 2 - res) + (occ 3 - res)
/-- A free entry for a message: reserved ones for the reply, engine and system networks, shared ones for all; a split tile halves them, an
armed bay sets 8 aside for seizing handlers (R305, R377, R416). -/
def entryFree (armed split : Bool) (es : List Msg) (m : Msg) : Bool :=
  let mine := es.filter fun x => decide (x.wicket = m.wicket)
  if m.wicket then decide (mine.length < 8)
  else
    let res := if split then 4 else 8
    let total := (if split then 64 else 128) - 3 * res
    let cap := if armed then (if split then total - 4 else total - 8) else total
    let occ (v : Nat) : Nat := mine.countP fun x => decide (x.vnet = v)
    decide (sharedUse res mine < cap) || (decide (m.vnet ≠ 0) && decide (occ m.vnet < res))
/-- The partition of a message still holds its launch, with this property; launch numbers are given per partition (R440). -/
def State.launchHas (s : State) (m : Msg) (f : Part → Launch → Bool) : Bool :=
  match s.parts.get? m.pid with
  | some p => (match p.launch with | some l => decide (l.num = m.launch) && f p l | none => false)
  | none => false
/-- The share of a tile that a message's launch holds (R416). -/
def State.shareFor (s : State) (t : Nat) (m : Msg) : Option (Fin 3) :=
  if m.wicket then some 2
  else [(0 : Fin 3), 1].find? fun i => decide (s.pidAt t i = some m.pid) && s.launchHas m fun _ _ => true
def State.receive (s : State) (t : Nat) (m : Msg) : State :=
  match s.shareFor t m with
  | some i => s.modShareAt t i fun x => { x with received := x.received + 1 }
  | none => s
/-- A Wicket channel's entry (R376). -/
def wchEntry (r : Rec512) (w : Nat) : Nat := resBits r (192 + 64 * w + 63) (192 + 64 * w)
def wchValid (r : Rec512) (w : Nat) : Bool := decide (bits (wchEntry r w) 63 63 = 1)
/-- What an arrival does with a message (R306, R378, R383). -/
inductive Arrival where
  | queue | dead (reason : Nat) | discard | drop
deriving DecidableEq, Repr
def savedState (n : Nat) : Bool := n = 6 || n = 7 || n = 10
/-- A message of a partition that is saved (R422). -/
def State.forSaved (s : State) (m : Msg) : Bool := s.launchHas m fun p _ => savedState p.state
/-- A message of a launch whose queue is torn down, or of a tenant that is being reset (R430, R431). -/
def State.forTorn (s : State) (m : Msg) : Bool := (s.fn m.tenant).resetting || s.launchHas m fun _ l => l.torn
/-- The checks of R306 in a handler table, and for a spawn in the spawn entries of the launch. -/
def checkArrival (hs : Vector Handler 64) (spawns : List Nat) (m : Msg) : Arrival :=
  if m.kind = 1 then (if spawns.contains (m.word 0).toNat then .queue else .dead 3)
  else
    let h := hs.get (Fin.ofNat 64 m.chan)
    if !h.valid then .dead 2 else if h.tenant ≠ m.tenant then .discard else .queue
def State.arrivalCheck (s : State) (t : Nat) (m : Msg) : Arrival :=
  if isCore t then .queue
  else if s.forTorn m then .drop
  else if s.forSaved m then .dead 2
  else if m.wicket then
    let b := s.bay (bayOf t)
    if !b.seized then .dead 4
    else if m.kind = 1 then (if (s.launchOf (s.pidAt t 2)).spawns.contains (m.word 0).toNat then .queue else .dead 3)
    else if !wchValid b.wrec (m.chan % 4) then .dead 2
    else if resBits b.wrec 7 4 ≠ m.tenant then .discard
    else .queue
  else checkArrival (s.tile t).handlers (match s.shareFor t m with | some i => (s.launchOf (s.pidAt t i)).spawns | none => []) m
/-- The side of a split tile that a message queues on. -/
def State.onB (s : State) (t : Nat) (m : Msg) : Bool :=
  (s.tile t).split && (if m.kind = 1 then decide (s.shareFor t m = some 1) else decide (32 ≤ m.chan))
/-- A message that no tile holds any more is discarded (R306). -/
def State.discard (s : State) (t : Nat) (m : Msg) : State :=
  s.post { type := 13, tenant := m.tenant, info := m.msgid.toNat, ptile := s.physTile t, ltile := m.dest.toNat }
/-- The move of a message whose launch holds no share of the tile. -/
def State.moveDeadAway (s : State) (t : Nat) (m : Msg) (reason : Nat) : State :=
  s.moveDeadAt t m.dest m reason m.lastAbort.1.toNat m.lastAbort.2.1 m.lastAbort.2.2
/-- A message takes its entry, or is discarded or moved under R306. -/
def State.arrive (s : State) (t : Nat) (m : Msg) : State :=
  let s1 := s.receive t m
  match s.arrivalCheck t m with
  | .queue => s1.modTile t fun x => { x with inbox := x.inbox ++ [{ m with arrival := s.cycle }] }
  | .dead r => (match s.shareFor t m with | some i => s1.moveDeadLast t i m r | none => s1.moveDeadAway t m r)
  | .drop => s1
  | .discard => s1.discard t m
/-- A message to a partition that is being restored enters the inbox of its tile's image, and counts as received there (R422). -/
def State.intoImage (s : State) (m : Msg) : Bool := !m.wicket && decide (m.kind ≤ 4) && s.launchHas m fun p _ => decide (p.state = 8)
def TileImage.takes (x : TileImage) (a : Arrival) (m : Msg) : TileImage :=
  { x with
    share := { x.share with received := x.share.received + 1 }
    inbox := (match a with | .queue => x.inbox ++ [m] | _ => x.inbox) }
/-- The image of the tile that a message names. -/
def Part.imageOf (p : Part) (m : Msg) : Option TileImage := p.image.find? fun x => decide (x.logical = m.dest.toNat % 1024)
def State.arriveImage (s : State) (t : Nat) (m : Msg) : State :=
  match s.parts.get? m.pid with
  | none => s
  | some p =>
    match p.imageOf m with
    | none => s.moveDeadAway t m 2
    | some x =>
      let a := checkArrival x.handlers (p.launch.getD {}).spawns m
      let s1 := s.modPart m.pid fun q =>
        { q with image := q.image.map fun y => if y.logical = x.logical then y.takes a { m with arrival := s.cycle } else y }
      match a with
      | .dead r => s1.moveDeadAway t m r
      | .discard => s1.discard t m
      | _ => s1
/-- An earlier message of the same path is still on its way (R292). -/
def pathBlocked (net : List Msg) (n : Nat) (m : Msg) : Bool :=
  (net.take n).any fun x => decide (x.src = m.src) && decide (x.dst = m.dst) && decide (x.vnet = m.vnet)
def State.dropNet (s : State) (n : Nat) : State := { s with net := s.net.eraseIdx n }
/-- An entry of the inbox for a message, on its side of a split tile (R305, R377, R416). -/
def State.inboxRoom (s : State) (t : Nat) (m : Msg) : Bool :=
  let split := (s.tile t).split
  isCore t || entryFree (s.armed t) split
    ((s.tile t).entries.filter fun x => m.wicket || !split || decide (s.onB t x = s.onB t m)) m
/-- Room for a message where it is to enter: its tile's inbox, or the image that R422 gives it to. -/
def State.entryRoom (s : State) (t : Nat) (m : Msg) : Bool :=
  if s.intoImage m then
    match (s.parts.get? m.pid).bind fun p => (p.imageOf m).map fun x => (p, x) with
    | some (p, x) => entryFree false (decide (descHalf p.desc ≠ 0)) (entriesOf x.inbox x.ctxs) m
    | none => true
  else s.inboxRoom t m
/-- Operations that a port thread performs take no inbox entry (R305, R318). -/
def Msg.toPort (m : Msg) : Bool := decide (m.kind = 2) || decide (m.kind = 3) || decide (m.kind = 5)
/-- An answer to a bay-remote access waits for no place in a queue: its issuer holds one for it (R124). -/
def Msg.isAnswer (m : Msg) : Bool := match m.remote with | some (.answer ..) => true | _ => false
/-- A message that the port thread is to perform enters its queue (R318, R327). -/
def State.arrivePort (s : State) (t : Nat) (m : Msg) : State :=
  match m.remote with
  | some o => if m.isAnswer then s.answered o else s.modTile t fun x => { x with portQ := x.portQ ++ [.remote o] }
  | none => (s.receive t m).modTile t fun x => { x with portQ := x.portQ ++ [if m.kind = 2 then .put m else .arrive m] }
/-- The arrival of a message at its tile: its inbox, which takes one tail flit of each virtual network in a cycle, in rising order; or the
queue of its port thread for the kinds that the port thread performs (R306, R318, R330, R422). -/
def State.arrival (s : State) (n : Nat) : Option State :=
  match s.net[n]? with
  | none => none
  | some m =>
    let t := m.dst
    if pathBlocked s.net n m then none
    else if m.toPort then
      (if m.isAnswer || decide ((s.tile t).portQ.length < 16) then some ((s.dropNet n).arrivePort t m) else none)
    else if !s.entryRoom t m then none
    else if s.intoImage m then some ((s.dropNet n).arriveImage t m)
    else if (s.tile t).inNet ≤ m.vnet then some (((s.dropNet n).arrive t m).modTile t fun x => { x with inNet := m.vnet + 1 })
    else none
def execMessageArrival (n : Nat) : Meaning := fun s => event "MESSAGE_ARRIVAL" (s.arrival n)

/-! ### Selection (R303, R331) -/

/-- A runnable item: its place in the inbox, its channel number, its share, and what ranks it. -/
structure RunItem where
  pos : Nat
  chan : Nat
  share : Fin 3
  prio : Nat
  arrival : Nat
  timer : Nat
  keep : BitVec 32
deriving DecidableEq, Repr

/-- Keep regions of a launch as a set; those that are activation-atomic (R114, R309). -/
def keepSet (ks : List (Nat × Nat × Bool)) (p : Bool → Bool) : BitVec 32 :=
  (ks.zipIdx.filter fun k => p k.1.2.2).foldl (fun b k => b ||| (1#32 <<< k.2)) 0#32
/-- The item a message would be, if its channel is runnable. -/
def State.itemOf (s : State) (t : Nat) (pos : Nat) (m : Msg) : Option RunItem :=
  if m.wicket then
    let r := (s.bay (bayOf t)).wrec
    if m.kind = 1 then some { pos := pos, chan := 64, share := 2, prio := 3, arrival := m.arrival, timer := 0,
                              keep := keepSet (s.keeps t 2) fun a => !a }
    else some { pos := pos, chan := m.chan % 4, share := 2, prio := bits (wchEntry r (m.chan % 4)) 57 56, arrival := m.arrival,
                timer := 0, keep := keepSet (s.keeps t 2) fun a => !a }
  else if m.kind = 1 then
    (s.shareFor t m).map fun i => {
      pos := pos, chan := 64, share := i, prio := 3, arrival := m.arrival, timer := 0, keep := keepSet (s.keeps t i) fun a => !a }
  else if m.kind = 0 ∨ m.kind = 4 ∨ m.kind = 7 then
    let h := (s.tile t).handlers.get (Fin.ofNat 64 m.chan)
    if h.valid && !h.mask then
      some { pos := pos, chan := m.chan, share := if (s.tile t).split && decide (32 ≤ m.chan) then 1 else 0, prio := h.prio,
             arrival := m.arrival, timer := m.timer, keep := h.keep }
    else none
  else none
/-- Halves of a share that hold an activation. -/
def State.liveSlots (s : State) (t : Nat) (i : Fin 3) : List Slot :=
  (List.finRange 8).flatMap fun c =>
    let k := (s.tile t).ctx c
    [k.s0, k.s1].filter fun x => decide (x.phase ≠ .free) &&
      decide ((if x.seizing then (2 : Fin 3) else if (s.tile t).split && decide (4 ≤ c.val) then 1 else 0) = i)
/-- Contexts that an item of a share may take: free ones of the tenant, in half 1 for a seizing handler (R161, R331, R378). -/
def State.freeCtxs (s : State) (t : Nat) (i : Fin 3) : List (Fin 8) :=
  (List.finRange 8).filter fun c =>
    let k := (s.tile t).ctx c
    if i = 2 then decide (k.s1.phase = .free)
    else decide (k.s0.phase = .free) && decide (k.s1.phase = .free)
      && (!(s.tile t).split || (decide (4 ≤ c.val) == decide (i = 1)))
/-- A dispatch hold (R336). -/
def State.held (s : State) (t : Nat) (i : Fin 3) : Bool :=
  ((s.tile t).share i).hold || (match s.part (s.pidAt t i) with | some p => p.hold || decide (p.state = 9) | none => false)
/-- R116: the keep set shares an activation-atomic region with a live activation. -/
def State.keepBusy (s : State) (t : Nat) (i : Fin 3) (keep : BitVec 32) : Bool :=
  let at' := keepSet (s.keeps t i) id
  (s.liveSlots t i).any fun x => decide (x.act.keep &&& keep &&& at' ≠ 0#32)
/-- An item that selection may take now. -/
def State.eligible (s : State) (t : Nat) (it : RunItem) : Bool :=
  let i := it.share
  (decide (i = 2) == (decide (t < 512) && (s.bay (bayOf t)).seized)) && !s.frozenShare t i && !s.held t i
    && !(s.freeCtxs t i).isEmpty && !s.keepBusy t i it.keep
    && !(s.launchOf (s.pidAt t i)).torn && !(s.launchOf (s.pidAt t i)).drained.contains t
/-- Channel heads: an item is offered if no earlier message of its channel is queued; timer items are offered wherever they stand
(R330, R373). -/
def isHead (inbox : List Msg) (pos : Nat) (m : Msg) : Bool :=
  decide (m.timer ≠ 0) || !((inbox.take pos).any fun x =>
    decide (x.wicket = m.wicket) && (decide (x.kind = 1) == decide (m.kind = 1))
      && (decide (m.kind = 1) || decide (if m.wicket then x.chan % 4 = m.chan % 4 else x.chan = m.chan)))
/-- The spawn queues of the two tenants of a split tile are apart; so a spawn is a head among its own tenant's. -/
def State.heads (s : State) (t : Nat) : List RunItem :=
  let ib := (s.tile t).inbox
  ib.zipIdx.filterMap fun x =>
    if isHead (ib.map fun m => if s.onB t m = s.onB t x.1 then m else { m with kind := 15 }) x.2 x.1 then s.itemOf t x.2 x.1 else none
/-- a ranks ahead of b among one tenant's items: timer items first, then priority, arrival, channel (R331, R373). -/
def RunItem.before (a b : RunItem) : Bool :=
  if decide (a.timer = 0) ≠ decide (b.timer = 0) then decide (a.timer ≠ 0)
  else if a.timer ≠ 0 ∧ a.arrival = b.arrival then decide (a.timer < b.timer)
  else if a.prio ≠ b.prio ∧ a.timer = 0 then decide (b.prio < a.prio)
  else if a.arrival ≠ b.arrival then decide (a.arrival < b.arrival)
  else decide (a.chan < b.chan)
def bestItem : List RunItem → Option RunItem
  | [] => none
  | x :: r => match bestItem r with
    | none => some x
    | some y => if y.before x then some y else some x
/-- The tenant whose turn it is, as R333 stands before the slot: true for half B. -/
def deficitPick (w0 w1 : Nat) (d0 d1 : Int) (last : Bool) : Bool :=
  let x := d0 + w0
  let y := d1 + w1
  if x = y then !last else decide (x < y)
def Tile.tenantTurn (t : Tile) : Bool :=
  deficitPick (t.share 0).weight (t.share 1).weight (t.share 0).issueD (t.share 1).issueD t.lastTenant
/-- The context an item takes: the least worn, then the lowest; a seizing handler the lowest (R331, R380). -/
def State.pickCtx (s : State) (t : Nat) (i : Fin 3) : Option (Fin 8) :=
  let cs := s.freeCtxs t i
  if i = 2 then cs.head?
  else cs.find? fun c => cs.all fun d => decide (((s.tile t).ctx c).wear < ((s.tile t).ctx d).wear)
    || (decide (((s.tile t).ctx c).wear = ((s.tile t).ctx d).wear) && decide (c ≤ d))
/-- The item and the context that a tile binds now: at most one in a cycle (R331). -/
def State.select (s : State) (t : Nat) : Option (RunItem × Fin 8) :=
  let its := if (s.tile t).didBind then [] else (s.heads t).filter (s.eligible t)
  let both := its.any (fun x => decide (x.share = 0)) && its.any (fun x => decide (x.share = 1))
  let its' := if both then its.filter fun x => decide ((x.share = 1) = ((s.tile t).tenantTurn = true)) else its
  (bestItem its').bind fun it => (s.pickCtx t it.share).map fun c => (it, c)

/-! ### Binding (R307 to R309, R152, R161) -/

/-- The half an activation starts with (R151, R152, R308). -/
def startHalf (m : Msg) (spawn : Bool) (chan budget pc : Nat) (side : Bool) : Half :=
  let arg (i : Nat) : Word := if spawn then (if i < 2 then m.word (i + 1) else 0#64) else m.word i
  let mask := if spawn then m.pmask.toNat / 2 % 4 else m.pmask.toNat
  { n := Vector.ofFn fun i => arg i.val, npoison := BitVec.ofNat 8 mask, pc := BitVec.ofNat 64 pc, lastPc := BitVec.ofNat 64 pc,
    status := if side then statusSIDE else 0#64, msgid := m.msgid, chan := chan, budget := BitVec.ofNat 64 budget }
/-- Entry pc and budget of an item (R302, R309, R376). -/
def State.entryOf (s : State) (t : Nat) (it : RunItem) (m : Msg) : Nat × Nat :=
  if it.chan = 64 then ((m.word 0).toNat, (s.launchOf (s.pidAt t it.share)).spawnBudget)
  else if it.share = 2 then
    let e := wchEntry (s.bay (bayOf t)).wrec it.chan
    (bits e 31 0, bits e 55 32 + 1)
  else
    let h := (s.tile t).handlers.get (Fin.ofNat 64 it.chan)
    (h.pc.toNat, h.budget.toNat + 1)
/-- A context starts the activation of a selected item: an acquire (R286, R307). -/
def State.bind (s : State) (t : Nat) (it : RunItem) (c : Fin 8) : State :=
  match (s.tile t).inbox[it.pos]? with
  | none => s
  | some m =>
    let e := s.entryOf t it m
    let l := s.launchOf (s.pidAt t it.share)
    let m1 := { m with deliv := m.deliv + 1 }
    let a : Act := {
      id := s.fresh, launch := (if isCore t then m.launch else l.num), pid := m.pid, tenant := m.tenant, prio := it.prio, keep := it.keep, msg := m1, bound := s.cycle }
    let h := startHalf m (decide (it.chan = 64)) it.chan e.2 e.1 (isReflex t || decide (it.share = 2))
    let sl : Slot := { phase := .live, act := a, half := h }
    ({ s with fresh := s.fresh + 1 }).modTile t fun x =>
      let k := x.ctx c
      let cur := if s.armed t then decide (it.share = 2) else k.cur
      { (x.setCtx c ({ k with cur := cur, after := s.fresh }.setSlot cur sl)) with inbox := x.inbox.eraseIdx it.pos, didBind := true }
def execBinding (t : Nat) (c : Fin 8) : Meaning := fun s =>
  event "BINDING" ((s.select t).bind fun p => if p.2 = c then some (s.bind t p.1 c) else none)

/-! ### The end of an activation (R161, R315, R345) -/

/-- The context is freed and its half cleared; the other half is the next one, except on an armed bay, where the share decides (R161). -/
def State.freeSlot (s : State) (t : Nat) (c : Fin 8) : State :=
  s.modTile t fun x =>
    let k := x.ctx c
    let k1 := k.setSlot k.cur {}
    x.setCtx c { k1 with cur := !k1.cur }
/-- Wear is charged, the hold and the requests of lv.hold go, the context is freed. -/
def State.endAct (s : State) (t : Nat) (c : Fin 8) : State :=
  let x := s.slotAt t c
  (((s.dropHold t (s.shareAt t c) x.act).cancelLeave t x.act.id).chargeWear t c x.act.tenant (s.cycle - x.act.bound)).freeSlot t c

/-! ### done and flush (R315, R316) -/

/-- A live activation, running or in done's last wait. -/
def Phase.running : Phase → Bool | .live => true | .retiring => true | _ => false

def OutKind.isHost : OutKind → Bool | .host _ => true | _ => false
/-- A host message takes a sequence number of its tile and goes to the host port (R304, R320). -/
def State.sendHost (s : State) (t : Nat) (i : Fin 3) (m : Msg) : State :=
  let s1 := s.modShareAt t i fun x => { x with seq := (x.seq + 1) % 2 ^ 21 }
  { s1 with hostq := s1.hostq ++ [{ s.stamp t i m with wicket := false }] }
/-- A publication is released (R144). -/
def State.releasePub (s : State) (p : Pub) : State := { s with pubs := s.pubs ++ [{ p with seq := s.fresh }], fresh := s.fresh + 1 }
/-- One item, or one message of an item, is injected. -/
def State.releaseItem (s : State) (t : Nat) (i : Fin 3) (k : OutKind) : State :=
  match k with
  | .msgs ms => ms.foldl (fun st m => st.inject t i m) s
  | .host m => s.sendHost t i m
  | .copy x => s.releaseCopy x
  | .pub p => s.releasePub p
  | .cmb p => ({ s with cnet := s.cnet ++ [{ p with pid := (s.pidAt t i).getD 16 }] }).modShareAt t i fun x => { x with sent := x.sent + 1 }
  | .bay c => s.bayRelease t c
  | .reqStep w => (match s.pidAt t i with
    | some pid => s.modPart pid fun p => { p with req := { p.req with ops := p.req.ops ++ [(t, .reqStep w)] } }
    | none => s)
  | .reqFault r k => (match s.pidAt t i with
    | some pid => s.modPart pid fun p => { p with req := { p.req with ops := p.req.ops ++ [(t, .reqFault r k)] } }
    | none => s)
/-- The first message of an item, and what is left of the item. -/
def OutItem.split (o : OutItem) : OutKind × Option OutItem :=
  match o.kind with
  | .msgs (m :: m2 :: rest) => (.msgs [m], some { o with kind := .msgs (m2 :: rest) })
  | k => (k, none)
/-- The oldest item of an activation in the out-buffer of a share: one message of it is injected (R312, R329). -/
def State.injectNext (s : State) (t : Nat) (i : Fin 3) (act : Nat) : Option State :=
  let out := ((s.tile t).share i).out
  (out.findIdx? fun o => decide (o.act = act)).bind fun n => out[n]?.map fun o =>
    let p := o.split
    let s1 := s.modShareAt t i fun x => { x with out := match p.2 with | some r => x.out.set n r | none => x.out.eraseIdx n }
    s1.releaseItem t i p.1
/-- A message finds no room where it goes: no inbox entry, or a full port queue (R305, R318). -/
def State.noRoom (s : State) (m : Msg) : Bool :=
  if m.toPort then !m.isAnswer && decide (16 ≤ (s.tile m.dst).portQ.length) else !s.entryRoom m.dst m
/-- The next message of an activation waits for injection: an earlier one of its tile on the same virtual network stands before a full
destination (R315, R350; log 39). -/
def State.injectHeld (s : State) (t : Nat) (i : Fin 3) (act : Nat) : Bool :=
  match ((s.tile t).share i).out.find? fun o => decide (o.act = act) with
  | some { kind := .msgs (m :: _), .. } => s.net.any fun x => decide (x.src = t) && decide (x.vnet = m.vnet) && s.noRoom x
  | _ => false
def State.itemsOf (s : State) (t : Nat) (i : Fin 3) (act : Nat) : List OutItem :=
  ((s.tile t).share i).out.filter fun o => decide (o.act = act)
def State.myItems (s : State) : List OutItem := s.itemsOf s.cur s.share s.act.id
/-- A release of another activation of the tile is still being injected. The halves of a split tile release one after the other; seizing handlers
have a buffer of their own (R312, R378); the release of a half that stands still holds the other half back no longer (R416). -/
def State.releasing (s : State) : Bool :=
  [(0 : Fin 3), 1, 2].any fun i =>
    (decide (i = 2) == decide (s.share = 2)) && (decide (i = s.share) || !s.frozenShare s.cur i) && (s.liveSlots s.cur i).any fun x =>
      x.act.released && decide (x.act.id ≠ s.act.id) && decide (s.itemsOf s.cur i x.act.id ≠ [])
/-- One release of the activation's items: they are injected from now on, in issue order, back to back (R312). -/
def State.releaseAll (s : State) : State := s.modAct fun a => { a with released := true }
/-- Step 3 of R315: the undo log is committed. -/
def commitUndo (s : State) : State := s.modAct fun a => { a with undo := [] }
/-- Steps 3 and 4 of R315: the log is committed before what follows waits. -/
def releaseOut : Exec Unit := do
  update commitUndo
  let s ← get
  if s.myItems ≠ [] then
    if !s.vectorDone then stop (.waitIn .vector commitUndo)
    match s.releaseStop true (if s.myItems.any fun o => o.kind.isHost then 4 else 3) with
    | some f => stop (.waitIn .other fun s0 => commitUndo (f s0))
    | none => do
      if s.releasing then stop (.waitIn .other commitUndo)
      update State.releaseAll
      markNonReplayable
/-- Bit i for each non-empty qi. -/
def Half.queueBits (h : Half) : Nat := (List.finRange 8).foldl (fun n i => if h.q.get i = [] then n else n + 2 ^ i.val) 0
def doneForm (len : Nat) : Meaning :=
  issue { len := len } do
    vectorIdle
    let s ← get
    check (decide (s.half.queueBits = 0)) 0x2A 0 (BitVec.ofNat 64 s.half.queueBits)
    waitUntil (!s.mxPending s.cur s.act.id && !s.transfersPending s.cur s.act.id) .commands
    match s.act.engErr with
    | some e => trap 0x2B e.1 e.2
    | none => pure ()
    releaseOut
    update fun s => s.setSlot { s.slot with phase := .retiring }
    pure .stay
/-- flush waits for the injection of what it has released, and then goes on (R316). -/
def flushForm (len : Nat) : Meaning :=
  issue { len := len } do
    let s ← get
    if s.act.released then
      waitUntil (decide (s.myItems = []))
      update fun s => s.modAct fun a => { a with released := false }
    else
      releaseOut
      let s1 ← get
      if s1.myItems ≠ [] then stop (.waitIn .other fun _ => s1)
    markNonReplayable
    pure .next
def execDone : Meaning := doneForm 4
def execCompactDone : Meaning := doneForm 2
def execFlush : Meaning := flushForm 4
def execCompactFlush : Meaning := flushForm 2
/-- Step 5 of R315: the next message of the release is injected where the network takes it; after the last one, done retires its context. -/
def State.doneRetire (s : State) (t : Nat) (c : Fin 8) : Option State :=
  let x := s.slotAt t c
  let i := s.shareAt t c
  if s.frozenShare t i || x.wfrozen || !(x.phase.running && x.act.released || decide (x.phase = .retiring))
    || s.injectHeld t i x.act.id then none
  else match s.injectNext t i x.act.id with
    | some s1 => some s1
    | none => if x.phase = .retiring then some (s.endAct t c) else none
def execDoneRetire (t : Nat) (c : Fin 8) : Meaning := fun s => event "DONE_RETIRE" (s.doneRetire t c)

/-! ### Rollback (R392, R314) -/

/-- Local commands of an activation that write activation-atomic regions (R258, R392). -/
def State.atomicWriter (s : State) (t : Nat) (i : Fin 3) (c : MxCmd) : Bool :=
  (s.mxExtents t i c.sub c.a c.b).any fun x => decide (x.2.2 = .engineWrite) && (touched (s.keeps t i) x.1 x.2.1).any fun r => r.2
def State.atomicPending (s : State) (t : Nat) (act : Nat) : Bool :=
  (List.finRange 3).any fun i =>
    let e := (s.tile t).engine i
    (e.queue ++ e.entering).any fun c => decide (c.act = act) && s.atomicWriter t i c
/-- Steps 1 to 3: queued vector entries and out-buffer items go, transfers released at issue are told to stop. -/
def State.abortBegin (s : State) (t : Nat) (c : Fin 8) : State :=
  let i := s.shareAt t c
  let id := (s.slotAt t c).act.id
  let s1 := s.dropBuffered t i id fun _ => true
  let s2 := s1.modShareAt t i fun x => { x with out := x.out.filter fun o => decide (o.act ≠ id) }
  let mine (y : Transfer) : Bool := decide (y.act = id) && decide (y.tile = t)
  let s3 := { s2 with
    transfers := s2.transfers.map fun x => Transfer.cancelIf x mine
    tmq := s2.tmq.filter fun r => decide (r.act ≠ id) }
  s3.modSlotAt t c fun x => {
    x with
    act := { x.act with abortStarted := true }
    half := { x.half with vq := [], q := Vector.replicate 8 [], qwait := [], loads := [], boundTrap := none, vparked := false, vheld := false } }
/-- Step 4: the undo log is written back, newest entry first (R115). -/
def State.undoOne (s : State) (u : UndoLine) : State :=
  let p := s.poison.filter fun k => decide (k / 4 ≠ u.line)
  ({ s with
    mem := s.mem.write (u.line * 256) u.bytes,
    dirty := if u.dirty then nInsert u.line s.dirty else nErase u.line s.dirty,
    poison := u.poison.foldl (fun p j => nInsert (4 * u.line + j) p) p,
    flips := freshWords s.flips ((List.range 256).map fun k => u.line * 256 + k) }).mark [u.line]
/-- What becomes of the triggering message (R314, R392, R423). -/
inductive Fate where
  | back (m : Msg) | dead (reason : Nat) | drop
deriving DecidableEq, Repr
def State.fateOf (s : State) (t : Nat) (c : Fin 8) (tr : Trap) : Fate :=
  let x := s.slotAt t c
  let m := x.act.msg
  let l := s.launchOf (s.pidAt t (s.shareAt t c))
  if tr.code = 0x2E ∧ (tr.reason = 1 ∨ tr.reason = 2) then .drop
  else if tr.code = 0x2E ∧ tr.reason = 3 then
    (if x.half.nr then .dead 5
     else .back { m with deliv := m.deliv - 1, lastAbort := (BitVec.ofNat 64 tr.code, x.half.faddr, x.half.xpc) })
  else if tr.code = 0x2D ∨ tr.code = 0x30 ∨ (tr.code = 0x29 ∧ tr.reason = 1) then .dead 1
  else if !m.replayable || x.half.nr || l.torn then .dead 1
  else .back { m with replayable := false, lastAbort := (BitVec.ofNat 64 tr.code, x.half.faddr, x.half.xpc) }
/-- Where the abort's entries place it: the guest and the physical address of a global consumption, the physical byte of a scratchpad one, in
the tile whose window holds it (R396, R401). -/
def State.abortPlace (s : State) (t : Nat) (c : Fin 8) (tr : Trap) : Nat × Nat :=
  let n := tr.faddr.toNat
  match tr.place with
  | some p => p
  | none => (n, if tr.code = 0x28 ∧ tr.reason = 0 then s.physOf (tr.target.getD t) (s.shareAt t c) (bits n 19 0) else n)
/-- Steps 4 to 7. -/
def State.abortEnd (s : State) (t : Nat) (c : Fin 8) (tr : Trap) : State :=
  let x := s.slotAt t c
  let i := s.shareAt t c
  let s1 := x.act.undo.foldl State.undoOne s
  let s2 := s1.post {
    type := 1, tenant := x.act.tenant, info := x.act.msg.msgid.toNat, cause := tr.code, loc := (s.abortPlace t c tr).2,
    vloc := some (s.abortPlace t c tr).1, ptile := s.physTile (tr.target.getD t), ltile := (s.tileWordAt t i).toNat }
  let s3 := match s.fateOf t c tr with
    | .back m => s2.modTile t fun y => { y with inbox := m :: y.inbox }
    | .dead r => s2.moveDead t i x.act.msg r tr.code x.half.faddr x.half.xpc
    | .drop => s2
  s3.endAct t c
def execAbort (t : Nat) (c : Fin 8) : Meaning := fun s =>
  event "ABORT" (
    let x := s.slotAt t c
    match x.phase, x.act.abort with
    | .aborting, some tr =>
      if s.frozenShare t (s.shareAt t c) then none
      else if !x.act.abortStarted then some (s.abortBegin t c)
      else if s.transfersPending t x.act.id || s.atomicPending t x.act.id then none
      else some (s.abortEnd t c tr)
    | _, _ => none)
/-- End a slot by abort from outside: kill, reset, discard, forced release (R384, R423, R430, R431). -/
def Slot.kill (x : Slot) (reason : Nat) : Slot :=
  match x.phase with
  | .free => x
  | .aborting => x
  | _ => {
    x with
    phase := .aborting
    waiting := false
    wfrozen := false
    half := x.half.record 0#64 { code := 0x2E, reason := reason, xpc := some 0#64 }
    act := { x.act with abort := some { code := 0x2E, reason := reason } } }

/-! ### Budget and leave timeouts (R335, R341) -/

def Phase.isParked : Phase → Bool | .parked _ => true | _ => false
/-- The cycles of a slot count against its budget (R335). -/
def State.budgetRuns (s : State) (t : Nat) (i : Fin 3) (x : Slot) : Bool :=
  !s.frozenShare t i && !x.wfrozen && (x.phase.running || (x.phase.isParked && s.held t i))
def execBudgetOverrun (t : Nat) (c : Fin 8) : Meaning := fun s =>
  event "BUDGET_OVERRUN" (
    let x := s.slotAt t c
    if x.half.budget = 0#64 ∧ s.budgetRuns t (s.shareAt t c) x then some (s.takeTrapAt t c x.half.pc { code := 0x29 }) else none)

def oldestReq : List LvReq → Option LvReq
  | [] => none
  | r :: rest => match oldestReq rest with
    | none => some r
    | some q => if q.cycle < r.cycle then some q else some r
/-- A context that waits on leave: its instruction cannot go on before an ungranted request of its activation is granted (R341). -/
def State.waitsOnLeave (s : State) (t : Nat) (x : Slot) : Bool :=
  decide (x.phase = .live) && (s.lvOf t x).any fun r =>
    match x.waitOn with
    | .hold => decide (r.kind = 0)
    | .engine => decide (r.kind = 1)
    | .commands => decide (r.kind = 1) || (decide (r.kind = 2) && s.transfers.any fun y => decide (y.uid = r.key) && decide (y.act = x.act.id))
    | .vector => decide (r.kind = 3)
    | .issued => false
    | .other => false
def execLeaveTimeout (t : Nat) (c : Fin 8) : Meaning := fun s =>
  event "LEAVE_TIMEOUT" (
    let x := s.slotAt t c
    match oldestReq (s.lvOf t x) with
    | some r =>
      if s.waitsOnLeave t x ∧ 4096 ≤ x.act.lvWait ∧ !s.frozenShare t (s.shareAt t c) then
        some ((s.takeTrapAt t c x.half.pc { code := 3, faddr := BitVec.ofNat 64 r.cost }).modSlotAt t c fun y =>
          { y with act := { y.act with lvWait := 0 } })
      else none
    | none => none)
def execLeaveGrant (bay : Nat) : Meaning := fun s => event "LEAVE_GRANT" (s.leaveGrant bay)

/-! ### An encoding that nothing matches (R37) -/

/-- The illegal-instruction trap at decode; a word of the table is never given to it. -/
def execIllegalInstruction (w : BitVec 32) : Meaning := fun s =>
  if !validKey s.cur then .fault .noCore
  else s.stopped 4 (.trap { code := 0x20, faddr := w.zeroExtend 64, own := true })

end Sys2Proof.Machine
end

