-- ==== Sys2Proof/Machine/LoadStore.lean ====
section
/-! DEFINITION. Scratchpad, bay-remote and global loads, stores and atomics, fences and cache control: majors 20 to 27 and the compact
loads and stores (R60, R61, R118 to R128, R297 to R300). -/

namespace Sys2Proof.Machine

/-! ### The own window (R118, R120) -/

/-- A load from the own window at base + off. -/
def loadOwn (o : Op) (t : MemType) (off : Int) (base d : Reg) : Meaning :=
  issueValue o d do
    let b ← rd base
    let s ← get
    let ea ← checkWin s.cur 0 (b.toNat + off) t.size .load
    let bs ← readOwn ea t.size
    pure (extendLoad t.size t.signed (leNat bs))
/-- A store to the own window: the source is read before the base (R34). -/
def storeOwnForm (o : Op) (t : MemType) (off : Int) (base r : Reg) : Meaning :=
  issue o do
    let v ← rd r
    let b ← rd base
    let s ← get
    let ea ← checkWin s.cur 0 (b.toNat + off) t.size .store
    storeOwn ea (leBytes t.size v.toNat)
    pure .next
def execLd (off : BitVec 9) (t : MemType) (base d : Reg) : Meaning :=
  loadOwn { srcs := [base], dsts := [d] } t (mOffset off t.size) base d
def execSt (off : BitVec 9) (t : MemType) (base r : Reg) : Meaning :=
  storeOwnForm { srcs := [r, base] } t (mOffset off t.size) base r
def execCompactLdI64 (off : BitVec 2) (b d : CReg) : Meaning :=
  loadOwn { srcs := [b.src], dsts := [d.dst], len := 2 } .i64 (off.toNat * 8 : Nat) b.src d.dst
def execCompactLdI32 (off : BitVec 2) (b d : CReg) : Meaning :=
  loadOwn { srcs := [b.src], dsts := [d.dst], len := 2 } .i32 (off.toNat * 4 : Nat) b.src d.dst
def execCompactStI64 (off : BitVec 2) (b r : CReg) : Meaning :=
  storeOwnForm { srcs := [r.src, b.src], len := 2 } .i64 (off.toNat * 8 : Nat) b.src r.src
def execCompactStI32 (off : BitVec 2) (b r : CReg) : Meaning :=
  storeOwnForm { srcs := [r.src, b.src], len := 2 } .i32 (off.toNat * 4 : Nat) b.src r.src

/-! ### Bay-remote accesses (R119, R120, R124) -/

/-- The target tile of a bay tile index, after the bay mask (R120). -/
def bayTarget (ti : Nat) (ea : Int) : Exec Nat := do
  let s ← get
  check (((s.tile s.cur).share s.share).bayMask.getLsbD ti) 0x25 1 (spadFaddr ea ti 1)
  pure (bayTile (bayOf s.cur) ti)
/-- The tile has made a bay-remote access (R125). -/
def State.markBay (s : State) : State :=
  (s.modShareAt s.cur s.share fun x => { x with mark := true }).modLaunchOf (s.pid.getD 16) s.act.launch fun l =>
    { l with bayBarriers := l.bayBarriers.filter fun b => decide (b ≠ bayOf s.cur) }
/-- A bay-remote request leaves the tile, which counts it until its reply or acknowledgement returns (R124, R125). -/
def State.toBay (s : State) (tgt : Nat) (o : RemoteOp) (id : Nat) (load : Bool) : State :=
  (s.markBay.sendPort s.cur s.share tgt 0 o).modTile s.cur fun x => { x with acks := x.acks ++ [{ c := s.ctx, sh := s.share, id := id, load := load }] }

def execLdb (off : BitVec 3) (t : MemType) (ti base d : Reg) : Meaning :=
  issue { srcs := [base, ti], dsts := [d] } do
    let b ← rd base
    let i ← rd ti
    requireOperand (decide (i.toNat ≤ 15))
    let ea : Int := b.toNat + off.toNat * t.size
    let tgt ← bayTarget i.toNat ea
    let a ← checkWin tgt i.toNat ea t.size .load
    let s ← get
    waitUntil (decide ((s.tile s.cur).loadsOut < 8))
    let id ← freshId
    update fun s => s.toBay tgt (.load s.cur s.ctx s.share id a t.size) id true
    pendingLoad { id := id, d := d, size := t.size, signed := t.signed, pc := s.half.pc, faddr := spadFaddr a i.toNat 0, target := some tgt,
                  global := false }
    pure .next
/-- A store is posted; it completes when its acknowledgement returns (R124). -/
def remoteStore (tgt ea : Nat) (bs : List Byte) : Exec Unit := do
  let s ← get
  waitUntil (decide ((s.tile s.cur).storesOut < 16))
  let id ← freshId
  update fun s => s.toBay tgt (.store s.cur s.ctx s.share id ea bs) id false
  markNonReplayable
def execStb (off : BitVec 3) (t : MemType) (ti base r : Reg) : Meaning :=
  issue { srcs := [r, base, ti] } do
    let v ← rd r
    let b ← rd base
    let i ← rd ti
    requireOperand (decide (i.toNat ≤ 15))
    let ea : Int := b.toNat + off.toNat * t.size
    let tgt ← bayTarget i.toNat ea
    let a ← checkWin tgt i.toNat ea t.size .remoteStore
    remoteStore tgt a (leBytes t.size v.toNat)
    pure .next

/-! ### Global accesses (R60 to R62) -/

/-- A store of the context to these bytes has been issued and not performed; the read cache does not serve a load of them before it
(R284, R290). -/
def State.storePending (s : State) (t : Nat) (c : Fin 8) (keys : List Nat) : Bool :=
  s.sliceQ.any fun o => decide (o.src.tile = t) && decide (o.src.c = c) && o.what.writes.any keys.contains
/-- The bytes and poison of a global access under RC that the read cache holds whole (R131). -/
def State.rdCached (s : State) (p : GlobalPath) : Option (List Byte × Bool) :=
  let t := s.cur
  let tn := s.act.tenant
  if p.all PathPart.rc && (p.keys.all fun k => (s.rdHit t tn k).isSome) && !s.storePending t s.ctx p.keys then
    some (p.keys.map fun k => ((s.rdHit t tn k).bind fun x => x.bytes[k % 256]?).getD Memory.unlisted,
          p.keys.any fun k => ((s.rdHit t tn k).map fun x => x.poison.contains (k % 256 / 64)).getD false)
  else none
/-- A hit makes the line the most recently used of its set (R131). -/
def State.rdTouch (s : State) (keys : List Nat) : State :=
  let use (rc : List RLine) (l : Nat) : List RLine :=
    match rc.find? fun y => decide (y.line = l) && decide (y.tenant = s.act.tenant) with
    | some y => rdFill rc y
    | none => rc
  s.modTile s.cur fun x => { x with rdcache := (linesOf keys).foldl use x.rdcache }
/-- Remove the tenant's lines from the read cache, as a fence of device scope or wider does (R132). -/
def invalidateMine : Exec Unit := update fun s => s.rdInvalidate s.cur s.act.tenant

/-- The guest and the physical address of an access that has been translated (R396). -/
def State.placeOf (s : State) (idx off : Nat) (p : GlobalPath) : Nat × Nat :=
  (resVbase (s.resEntry s.cur s.pid idx) + off, keyPa ((p.head?.map PathPart.key).getD 0))
/-- A global load: from the read cache at once, else outstanding until its reply. An acquire load fills no line (R131) and ends with the
acquire part of a device fence (R299). -/
def globalLoad (idx off : Nat) (t : MemType) (d : Reg) (p : GlobalPath) (acq : Bool) : Exec Unit := do
  let s ← get
  match s.rdCached p with
  | some (bs, bad) =>
    if bad then
      stop (.trapOn (fun s => s.used idx) { code := 0x28, reason := 1, faddr := resFaddr idx off, place := some (s.placeOf idx off p) })
    update fun s => s.rdTouch p.keys
    wrPush d (extendLoad t.size t.signed (leNat bs))
    if acq then invalidateMine
  | none =>
    waitUntil (decide (s.outstanding s.cur < 16))
    let id ← freshId
    sliceAccess { src := s.src, what := .load id p.keys, parts := if acq then p.map fun x => { x with rc := false } else p }
    pendingLoad { id := id, d := d, blocking := acq, acq := acq, inv := acq, size := t.size, signed := t.signed, pc := s.half.pc,
                  faddr := resFaddr idx off, place := some (s.placeOf idx off p) }
/-- Posts the cells of a store: the host-window ones at the host port, the others at their slice (R61, R294). -/
def State.postCells (s : State) (vec : Bool) (seq after : Nat) (p : GlobalPath) (cells : List (Nat × Byte × Byte)) : State :=
  let host := cells.filter fun c => isHostKey c.1
  let main := cells.filter fun c => !isHostKey c.1
  let s1 := if host = [] then s else s.modFn s.act.tenant fun f =>
    { f with outbound := f.outbound ++ [{ src := s.src, cells := host, strong := p.strong, vec := vec, seq := seq, after := after }] }
  if main = [] then s1
  else { s1 with sliceQ := s1.sliceQ ++ [{
    src := s.src, what := .store main, parts := p.filter fun x => !isHostKey x.key, vec := vec, seq := seq, after := after }] }
/-- A global store of the scalar stream. -/
def State.posts (s : State) (p : GlobalPath) (bs : List Byte) : State :=
  { s.postCells false s.fresh s.orderedFrom p ((p.keys.zip bs).map fun c => (c.1, c.2, 0xFF#8)) with fresh := s.fresh + 1 }
def globalStore (p : GlobalPath) (bs : List Byte) : Exec Unit := update fun s => s.posts p bs

def execLdg (scale : BitVec 3) (t : MemType) (o res d : Reg) : Meaning :=
  issue { srcs := [res, o], dsts := [d], iso := true } do
    let idx ← rd res
    let offr ← rd o
    let off := offr.toNat * 2 ^ scale.toNat
    let p ← globalPath idx.toNat off t.size 1
    globalLoad idx.toNat off t d p false
    pure .next
def execStg (scale : BitVec 3) (t : MemType) (o res r : Reg) : Meaning :=
  issue { srcs := [r, res, o], iso := true } do
    let v ← rd r
    let idx ← rd res
    let offr ← rd o
    let p ← globalPath idx.toNat (offr.toNat * 2 ^ scale.toNat) t.size 2
    globalStore p (leBytes t.size v.toNat)
    pure .next

/-! ### Atomics (R126 to R128) -/

/-- A space-2 address word on the reflex side (R370, R378). -/
def isolated : Exec Unit := do
  let s ← get
  check (!s.reflexSide) 0x23
/-- A check after the use of a resource entry, which stays (R58). -/
def checkUsed (idx : Nat) (ok : Bool) (code reason : Nat) (faddr : Word) : Exec Unit :=
  if ok then pure () else stop (.trapOn (fun s => s.used idx) { code := code, reason := reason, faddr := faddr })

def amoForm (op : Nat) (w64 : Bool) (b a d : Reg) : Meaning :=
  issue (opAB b a d) do
    let aw ← rd a
    let v ← rd b
    let n := amoSize w64
    let s ← get
    let cmp := s.half.e.get 0
    match addrWord aw with
    | .bad => illegalOperand
    | .loc ea => do
      let _ ← checkWin s.cur 0 ea n .store
      if ea % n ≠ 0 then spadFault ea 0 6
      logWrite ea n
      let old ← readOwn ea n
      let r := amoApply op w64 (leNat old) v.toNat cmp.toNat
      update fun s => s.writeWin s.cur s.share ea (leBytes n r.1)
      raiseFlags r.2.2
      wrPush d r.2.1
      orderHere
      pure .next
    | .bay ti ea => do
      let tgt ← bayTarget ti ea
      let _ ← checkWin tgt ti ea n .remoteStore
      if ea % n ≠ 0 then spadFault ea ti 6
      releaseWait 1
      let s ← get
      waitUntil (decide ((s.tile s.cur).storesOut < 16))
      let id ← freshId
      update fun s => s.toBay tgt (.amo s.cur s.ctx s.share id op w64 ea v cmp) id false
      pendingLoad { id := id, d := d, blocking := true, amo := true, acq := true, pc := s.half.pc, faddr := spadFaddr ea ti 0, target := some tgt,
                    global := false }
      pure .next
    | .glob idx off => do
      isolated
      let r ← checkResource idx off n 4
      checkUsed idx (decide (off % n = 0)) 0x26 7 (resFaddr idx off)
      let p ← globalPathOf r idx off n 4
      checkUsed idx (!p.keys.any isHostKey) 0x26 3 (resFaddr idx off)
      releaseWait 3
      let s ← get
      let id ← freshId
      sliceAccess { src := s.src, what := .amo id op w64 p.keys v cmp, parts := p }
      pendingLoad { id := id, d := d, blocking := true, amo := true, acq := true, pc := s.half.pc, faddr := resFaddr idx off,
                    place := some (s.placeOf idx off p) }
      pure .next

def execAmoSwap (w : AmoWidth) (b a d : Reg) : Meaning := amoForm 0 w.is64 b a d
def execAmoAdd (w : AmoWidth) (b a d : Reg) : Meaning := amoForm 1 w.is64 b a d
def execAmoAnd (w : AmoWidth) (b a d : Reg) : Meaning := amoForm 2 w.is64 b a d
def execAmoOr (w : AmoWidth) (b a d : Reg) : Meaning := amoForm 3 w.is64 b a d
def execAmoXor (w : AmoWidth) (b a d : Reg) : Meaning := amoForm 4 w.is64 b a d
def execAmoMaxI (w : AmoWidth) (b a d : Reg) : Meaning := amoForm 5 w.is64 b a d
def execAmoMinI (w : AmoWidth) (b a d : Reg) : Meaning := amoForm 6 w.is64 b a d
def execAmoMaxN (w : AmoWidth) (b a d : Reg) : Meaning := amoForm 7 w.is64 b a d
def execAmoMinN (w : AmoWidth) (b a d : Reg) : Meaning := amoForm 8 w.is64 b a d
def execAmoCas (w : AmoWidth) (b a d : Reg) : Meaning := amoForm 9 w.is64 b a d
def execAmoFadd (b a d : Reg) : Meaning := amoForm 10 false b a d

/-! ### Fences, acquire loads, release stores, read-cache control (R297 to R300) -/

def execFence (scope : Scope) (vec : Bool) (kind : FenceKind) : Meaning :=
  issue {} do
    if vec then vectorIdle
    if kind ≠ .rel then acquireWait .other
    if kind ≠ .acq then releaseWait scope.code vec .other
    if 3 ≤ scope.code then invalidateMine
    pure .next

def execLdAcq (sys : Bool) (t : MemType) (a d : Reg) : Meaning :=
  issue (opA a d) do
    let aw ← rd a
    let s ← get
    match addrWord aw with
    | .bad => illegalOperand
    | .loc ea => do
      requireOperand (!sys)
      if ea % t.size ≠ 0 then spadFault ea 0 6
      let _ ← checkWin s.cur 0 ea t.size .load
      let bs ← readOwn ea t.size
      acquireWait
      wrPush d (extendLoad t.size t.signed (leNat bs))
      pure .next
    | .bay ti ea => do
      requireOperand (!sys)
      if ea % t.size ≠ 0 then spadFault ea ti 6
      let tgt ← bayTarget ti ea
      let _ ← checkWin tgt ti ea t.size .load
      acquireWait
      let s ← get
      waitUntil (decide ((s.tile s.cur).loadsOut < 8))
      let id ← freshId
      update fun s => s.toBay tgt (.load s.cur s.ctx s.share id ea t.size) id true
      pendingLoad { id := id, d := d, blocking := true, acq := true, size := t.size, signed := t.signed, pc := s.half.pc,
                    faddr := spadFaddr ea ti 0, target := some tgt, global := false }
      pure .next
    | .glob idx off => do
      isolated
      check (decide (off % t.size = 0)) 0x26 7 (resFaddr idx off)
      let p ← globalPath idx off t.size 1
      acquireWait
      globalLoad idx off t d p true
      pure .next

def execStRel (sys : Bool) (t : MemType) (a r : Reg) : Meaning :=
  issue { srcs := [r, a] } do
    let v ← rd r
    let aw ← rd a
    let s ← get
    let bs := leBytes t.size v.toNat
    match addrWord aw with
    | .bad => illegalOperand
    | .loc ea => do
      requireOperand (!sys)
      if ea % t.size ≠ 0 then spadFault ea 0 6
      let _ ← checkWin s.cur 0 ea t.size .store
      releaseWait 0
      storeOwn ea bs
      pure .next
    | .bay ti ea => do
      requireOperand (!sys)
      if ea % t.size ≠ 0 then spadFault ea ti 6
      let tgt ← bayTarget ti ea
      let _ ← checkWin tgt ti ea t.size .remoteStore
      releaseWait 1
      remoteStore tgt ea bs
      pure .next
    | .glob idx off => do
      isolated
      check (decide (off % t.size = 0)) 0x26 7 (resFaddr idx off)
      let p ← globalPath idx off t.size 2
      releaseWait (if sys then 4 else 3)
      globalStore p bs
      invalidateMine
      pure .next

def execCinv (a : Reg) : Meaning :=
  issue { srcs := [a], iso := true } do
    let aw ← rd a
    match addrWord aw with
    | .glob idx off => do
      let p ← globalPath idx off 1 1
      update fun s => s.modTile s.cur fun x =>
        { x with rdcache := x.rdcache.filter fun y =>
            !(decide (y.tenant = s.act.tenant) && (linesOf (GlobalPath.keys p)).contains y.line) }
      pure .next
    | _ => illegalOperand
def execCinvAll : Meaning := issue { iso := true } (do invalidateMine; pure .next)

end Sys2Proof.Machine
end

