-- ==== Sys2Proof/Machine/Translation.lean ====
section
/-! DEFINITION. Translation instructions, resource entry instructions, frames, scrubs and page moves: majors 38, func6 0x10 to 0x19, and the
events of chapter 03 (R64 to R78, R483). -/

namespace Sys2Proof.Machine

/-! ### Tag and attribute words (R66) -/

def tagTenant (w : Word) : Nat := wfield w 63 60
def tagSize (w : Word) : Nat := wfield w 59 57
def tagWake (w : Word) : Bool := w.getLsbD 56
def tagTile (w : Word) : Nat := wfield w 55 52
def tagEng (w : Word) : Bool := w.getLsbD 51
def tagCtx (w : Word) : Nat := wfield w 50 48
def tagVa (w : Word) : Nat := wfield w 47 12 * 4096
def tagChan (w : Word) : Nat := wfield w 3 0
/-- A reserved value in a tag word. -/
def tagReserved (w : Word) : Bool :=
  decide (5 ≤ tagSize w) || decide (wfield w 11 4 ≠ 0) || (tagEng w && decide (tagCtx w ≠ 0)) || (!tagEng w && decide (tagChan w ≠ 0))
def attrReserved (w : Word) : Bool :=
  !w.getLsbD 63 || decide (wfield w 62 61 = 3) || decide (wfield w 60 59 = 3) || decide (wfield w 55 52 ≠ 0) || decide (wfield w 11 0 ≠ 0)
def attrFrame (w : Word) : Nat := wfield w 51 12 * 4096
def pageEntry (tag attr : Word) : TlbEntry :=
  { tenant := tagTenant tag, size := tagSize tag, va := tagVa tag, pa := attrFrame attr, kind := wfield attr 62 61,
    pol := wfield attr 60 59, pr := attr.getLsbD 58, pw := attr.getLsbD 57, pa' := attr.getLsbD 56 }
/-- Two pages overlap in virtual address. -/
def TlbEntry.overlaps (e : TlbEntry) (va bits : Nat) : Bool :=
  decide (e.va < va + 2 ^ bits) && decide (va < e.va + 2 ^ e.bits)

/-! ### TLBs (R64, R67) -/

def Tile.tlbRemove (t : Tile) (p : TlbEntry → Bool) : Tile := { t with tlb := t.tlb.map fun e => e.filter fun x => !p x }
/-- Place a page in the lowest free entry, else at the replacement pointer. -/
def Tile.tlbInstall (t : Tile) (e : TlbEntry) : Tile :=
  let t1 := t.tlbRemove fun x => decide (x.tenant = e.tenant) && x.overlaps e.va e.bits
  match (List.finRange 64).find? fun i => (t1.tlb.get i).isNone with
  | some i => { t1 with tlb := t1.tlb.set i.val (some e) i.isLt }
  | none => { t1 with tlb := t1.tlb.set t1.tlbPtr.val (some e) t1.tlbPtr.isLt, tlbPtr := t1.tlbPtr + 1 }

/-! ### Frame states (R72, R73) -/

def State.setFrame (s : State) (f v : Nat) : State := { s with frames := s.frames.set f v }
/-- A frame that a TLB may hold for a tenant. -/
def State.frameOk (s : State) (tenant pa : Nat) : Bool :=
  if Config.mainMemoryTop ≤ pa then true
  else
    let b := s.frame (pa / 4096)
    decide (b / 16 = tenant) && (decide (b % 16 = 3) || decide (b % 16 = 4))

/-! ### Parked accesses (R65, R67) -/

/-- Parked on a miss, and not saved for a checkpoint (R426). -/
def Slot.onMiss (x : Slot) : Bool :=
  (decide (x.phase = .parked 1) || decide (x.phase = .parked 2) || (x.half.vparked && decide (x.phase ≠ .aborting))) && !x.wfrozen
/-- The half of a context that is parked on a miss. -/
def Ctx.missHalf (k : Ctx) : Option Bool := if k.s0.onMiss then some false else if k.s1.onMiss then some true else none
def State.modHalfOf (s : State) (t : Nat) (c : Fin 8) (h : Bool) (f : Slot → Slot) : State :=
  s.modTile t fun x => let k := x.ctx c; x.setCtx c (k.setSlot h (f (k.slot h)))
def Slot.resumeMiss (x : Slot) : Slot := {
  x with
  phase := if x.phase = .parked 1 ∨ x.phase = .parked 2 then .live else x.phase
  waiting := false
  missSent := false
  missVec := false
  retryAt := none
  half := { x.half with vparked := false } }
/-- A transfer of a copy channel that is parked on a miss. -/
def Transfer.onMiss (x : Transfer) (t ch : Nat) : Bool :=
  decide (x.tile = t) && decide (x.part ≠ 2) && decide (x.chan = ch) && decide (x.phase = .parked)
def State.modTileChan (s : State) (t ch : Nat) (f : CopyChan → CopyChan) : State := s.modChan t 0 ch f
/-- The answer to a channel's miss: every parked transfer translates again. -/
def State.resumeChan (s : State) (t ch : Nat) : State :=
  let f (x : Transfer) : Transfer := if x.onMiss t ch then { x with phase := .running } else x
  ({ s with transfers := s.transfers.map f }).modTileChan t ch fun k => { k with missSent := false, retryAt := none }
/-- The transfer of a channel that parked first, whose miss message was sent (R65). -/
def State.firstParked (s : State) (t ch : Nat) : Option Transfer :=
  (s.transfers.filter fun x => x.onMiss t ch).foldl (fun (a : Option Transfer) x => match a with
    | some y => if x.parkedAt < y.parkedAt then some x else some y
    | none => some x) none
/-- The context or the channel that a tag word names waits for an answer. -/
def State.answerable (s : State) (t : Nat) (w : Word) : Bool :=
  if tagEng w then s.transfers.any fun x => x.onMiss t (tagChan w)
  else (((s.tile t).ctx (Fin.ofNat 8 (tagCtx w))).missHalf).isSome
/-- A wake: resumes the context or the channel. -/
def State.wakeMiss (s : State) (t : Nat) (w : Word) : State :=
  if tagEng w then s.resumeChan t (tagChan w)
  else
    let c : Fin 8 := Fin.ofNat 8 (tagCtx w)
    match ((s.tile t).ctx c).missHalf with
    | some h => s.modHalfOf t c h Slot.resumeMiss
    | none => s

/-! ### The four translation instructions (R67) -/

/-- The bays whose TLBs a core reaches: its own; the system core reaches them all (log 12). -/
def State.coreBays (s : State) : List Nat := if isSystem s.cur then List.range 34 else [s.cur - 2048]
def State.coreTile (s : State) (w : Word) : Nat := bayTile (s.coreBays.headD 0) (tagTile w)
/-- An answer that finds no parked transfer of the channel: the channel's miss is answered, and its next one sends a message (R65, R67). -/
def State.lateAnswer (s : State) (t : Nat) (w : Word) : State :=
  if tagEng w then s.modTileChan t (tagChan w) fun k => { k with missSent := false, retryAt := none } else s
/-- tlb.wr: the new state and the status. Of several refusals that hold at once the one with the lowest status is given (R67 does not say;
DESIGN CHOICE, log 67). -/
def State.tlbWr (s : State) (a b : Word) : State × Nat :=
  let e := pageEntry a b
  let t := s.coreTile a
  if tagReserved a || attrReserved b then (s, 1)
  else if e.va % 2 ^ e.bits ≠ 0 ∨ e.pa % 2 ^ e.bits ≠ 0 then (s, 2)
  else if !(mappable e.pa && mappable (e.pa + 2 ^ e.bits - 1)) then (s, 3)
  else if !(s.frameOk e.tenant e.pa && s.frameOk e.tenant (e.pa + 2 ^ e.bits - 4096)) then (s, 4)
  else if tagWake a && !s.answerable t a then (s.lateAnswer t a, 5)
  else
    let s1 := s.modTile t fun x => x.tlbInstall e
    (if tagWake a then s1.wakeMiss t a else s1, 0)
/-- The address of the instruction whose access the miss message names: that of the vector queue's head for the vector stream (R219). -/
def Slot.missPc (x : Slot) : Word := if x.missVec then (x.half.vq.head?.map VEntry.pc).getD x.half.pc else x.half.xpc
/-- A context's miss is answered. -/
def Slot.answered (x : Slot) : Slot := {
  x with missSent := false, missVec := false, retryAt := none, half := { x.half with vparked := false } }
/-- A refused translation ends a parked context: reason "unmapped", or the protection violation (R67, R389). The context's next miss sends a
message again (R395). -/
def State.refuseCtx (s : State) (t : Nat) (c : Fin 8) (h perm : Bool) : State :=
  let x := ((s.tile t).ctx c).slot h
  if perm then
    (s.modHalfOf t c h fun x => {
      x.answered with
      phase := .frozen
      half := x.answered.half.record x.missPc { code := 0x30, faddr := x.missVa } }).post {
        type := 3, tenant := x.act.tenant, info := c.val, cause := 0x30, loc := x.missVa.toNat, ptile := s.physTile t,
        ltile := (s.tileWordAt t (s.shareAt t c)).toNat }
  else s.modHalfOf t c h fun x => x.answered.beginAbort x.missPc { code := 0x26, reason := 5, faddr := x.missRes }
/-- A refused translation stops the first parked transfer of a channel; the others translate again (R67, R101). -/
def State.refuseChan (s : State) (t ch st : Nat) : State :=
  match s.firstParked t ch with
  | some x => (s.setTransfer { x with phase := .ended st }).resumeChan t ch
  | none => s
/-- tlb.nak. Reason 3, and bits of b above [1:0], are reserved values of the word that stands in the attribute word's place: status 1 (R67
names tag and attribute words only; DESIGN CHOICE, log 67). -/
def State.tlbNak (s : State) (a b : Word) : State × Nat :=
  let t := s.coreTile a
  let r := wfield b 1 0
  if tagReserved a || !onlyBits b [(1, 0)] || decide (r = 3) then (s, 1)
  else if tagVa a % 2 ^ pageBits (tagSize a) ≠ 0 then (s, 2)
  else if !tagWake a then (s, 0)
  else if !s.answerable t a then (s.lateAnswer t a, 5)
  else if tagEng a then
    (if r = 2 then s.modTileChan t (tagChan a) fun k => { k with retryAt := some (s.cycle + 256) }
     else s.refuseChan t (tagChan a) (r + 1), 0)
  else
    let c : Fin 8 := Fin.ofNat 8 (tagCtx a)
    (match ((s.tile t).ctx c).missHalf with
    | some h =>
      if r = 2 then s.modHalfOf t c h fun x => { x with retryAt := some (s.cycle + 256) } else s.refuseCtx t c h (decide (r = 1))
    | none => s, 0)
def State.bayTlbRemove (s : State) (p : TlbEntry → Bool) : State :=
  s.coreBays.foldl (fun st b => (List.range 16).foldl (fun (st : State) i => st.modTile (bayTile b i) fun x => x.tlbRemove p) st) s
/-- A frame that no TLB of the device maps. -/
def State.unmapped (s : State) (f : Nat) : Bool :=
  !(s.tiles.any fun t => t.2.tlb.toList.any fun e => match e with
    | some e => decide (e.pa < f * 4096 + 4096) && decide (f * 4096 < e.pa + 2 ^ e.bits)
    | none => false)
/-- The frame entries of a quarantined frame are released once no TLB maps the frame (R80). -/
def State.releaseQuarantine (s : State) : State :=
  s.modSys fun y => { y with quar := y.quar.filter fun f => !s.unmapped f }
def State.tlbInv (s : State) (a : Word) : State × Nat :=
  if tagReserved a then (s, 1)
  else if tagVa a % 2 ^ pageBits (tagSize a) ≠ 0 then (s, 2)
  else ((s.bayTlbRemove fun e => decide (e.tenant = tagTenant a) && e.overlaps (tagVa a) (pageBits (tagSize a))).releaseQuarantine, 0)
def State.tlbInvt (s : State) (a : Word) : State × Nat :=
  if decide (wfield a 11 4 ≠ 0) || (tagEng a && decide (tagCtx a ≠ 0)) || (!tagEng a && decide (tagChan a ≠ 0)) then (s, 1)
  else ((s.bayTlbRemove fun e => decide (e.tenant = tagTenant a)).releaseQuarantine, 0)
/-- A translation instruction: legal on the cores only (R66). -/
def translationForm (o : Op) (a d : Reg) (b : Option Reg) (f : State → Word → Word → State × Nat) : Meaning :=
  issueValue o d do
    let x ← rd a
    let y ← match b with
      | some r => rd r
      | none => pure 0#64
    privileged isCore
    let s ← get
    let r := f s x y
    update fun _ => r.1
    pure (BitVec.ofNat 64 r.2)
def execTlbWr (b a d : Reg) : Meaning := translationForm (opAB b a d) a d (some b) State.tlbWr
def execTlbNak (b a d : Reg) : Meaning := translationForm (opAB b a d) a d (some b) State.tlbNak
def execTlbInv (a d : Reg) : Meaning := translationForm (opA a d) a d none fun s x _ => s.tlbInv x
def execTlbInvt (a d : Reg) : Meaning := translationForm (opA a d) a d none fun s x _ => s.tlbInvt x

/-- A due retry sends the miss message of a context again, or of a channel of the tile (R67). -/
def State.retryCtx (s : State) (t : Nat) (c : Fin 8) : Option State :=
  match ((s.tile t).ctx c).missHalf with
  | none => none
  | some h =>
    let x := ((s.tile t).ctx c).slot h
    match x.retryAt with
    | some d =>
      if d ≤ s.cycle then
        let s1 := s.modHalfOf t c h fun y => { y with retryAt := none }
        some (s1.sendMiss t (if x.seizing then 2 else if (s.tile t).split && decide (4 ≤ c.val) then 1 else 0) x.act.tenant x.missVa.toNat x.missAcc
          false c.val 0)
      else none
    | none => none
def State.retryChan (s : State) (t ch : Nat) : Option State :=
  match ((s.tile t).chan 0 ch).retryAt, s.firstParked t ch with
  | some d, some x =>
    if d ≤ s.cycle then
      let s1 := s.modTileChan t ch fun k => { k with retryAt := none }
      some (s1.sendMiss t x.share x.tenant x.missVa.toNat x.missAcc true ch x.id.toNat)
    else none
  | _, _ => none
def execTlbMissRetry (t : Nat) (c : Fin 8) : Meaning := fun s =>
  event "TLB_MISS_RETRY" (match s.retryCtx t c with
    | some s1 => some s1
    | none => (List.range 16).findSome? fun ch => s.retryChan t ch)

/-! ### Resource entry instructions (R69 to R71) -/

/-- A local image of 64 bytes. -/
def localImage (ea : Word) (k : AccKind) : Exec Nat := recordAddr ea k
/-- R69: the entry that results, or the resource fault "rewrite". -/
def State.resMerge (s : State) (old img : Rec512) : Option Rec512 :=
  let split := (s.tile s.cur).split
  let upper := decide (s.share = 1)
  if isCore s.cur then (if resValid img && resMalformed split upper img then none else some img)
  else
    let new := setRec (setRec old 47 0 (resVbase img)) 95 48 (resLength img)
    if resValid old ∧ resTenant old = s.act.tenant ∧ resMut old ∧ new = img ∧ !resMalformed split upper img then some new else none
/-- The partition whose launch's table res.wr and res.rd address: that of the context's share; on a translation core or the system core that of the
launch of the activation's message (R69, R71, R304, R308; DEDUCED, log 67). -/
def State.tablePid (s : State) : Option Nat := if isCore s.cur then some s.act.pid else s.pid
/-- The launch whose table the instruction addresses. -/
def State.tableLaunch (s : State) : Launch := s.launchOf s.tablePid
/-- The tiles of the launch, which receive the invalidation (R69). -/
def State.launchTiles (s : State) : List Nat := match s.part s.tablePid with | some p => p.tiles | none => []
/-- The image is written over the entry of the table, which its slice has read, and the slice sends the invalidation. -/
def State.resStore (s : State) (idx : Nat) (e : Rec512) : State :=
  let pid := s.tablePid.getD 16
  let key := (s.launchOf s.tablePid).resBase + 64 * idx
  let old := s.rec512 key
  let s1 := (s.readLine false (lineOf key)).writeThrough (plainCells ((List.range 64).map fun i => key + i) (leBytes 64 e.toNat))
  s.launchTiles.foldl (fun (st : State) t => st.modTile t fun x => { x with inval := x.inval ++ [(pid, idx, old)] }) s1
/-- An invalidation of an entry has not been acknowledged by every tile of the launch (R69). -/
def State.invalOpen (s : State) (idx : Nat) : Bool :=
  s.launchTiles.any fun t => (s.tile t).inval.any fun v => decide (v.1 = s.tablePid.getD 16) && decide (v.2.1 = idx)
/-- res.wr. The entry has been stored once the instruction waits for the acknowledgements: it then holds its context until it completes (R484). -/
def execResWr (b a d : Reg) : Meaning :=
  issueValue (opAB b a d) d do
    let x ← rd a
    let ea ← rd b
    let s ← get
    match s.act.resWr with
    | some idx => do
      waitUntil (!s.invalOpen idx) .issued
      update fun s => s.modAct fun y => { y with resWr := none }
      pure 0#64
    | none => do
      let la ← localImage ea .load
      check (decide (x.toNat < s.tableLaunch.resCount)) 0x26 1 (resFaddr x.toNat 0)
      ownWait la 64
      let img := rec512Of (s.readWin s.cur s.share la 64)
      match s.resMerge (s.rec512 (s.tableLaunch.resBase + 64 * x.toNat)) img with
      | none => trap 0x26 6 (resFaddr x.toNat 0)
      | some e => stop (.waitIn .issued fun s => ((s.senseWin s.cur s.share la 64).resStore x.toNat e).modAct fun y => { y with resWr := some x.toNat })
/-- A tile frees the cached copy of an entry and acknowledges (R58, R69). -/
def State.invalidate (s : State) (t : Nat) : Option State :=
  match (s.tile t).inval with
  | [] => none
  | (pid, idx, _) :: rest =>
    let tag := s.resTag (some pid) idx
    some (s.modTile t fun x => { x with inval := rest, rcache := x.rcache.filter fun y => decide (y.1 ≠ tag) })
def execResourceInvalidation (t : Nat) : Meaning := fun s => event "RESOURCE_INVALIDATION" (s.invalidate t)
/-- res.rd: an entry of another tenant shows its valid bit only (R71). -/
def execResRd (b a : Reg) : Meaning :=
  issue { srcs := [a, b] } do
    let x ← rd a
    let ea ← rd b
    let la ← localImage ea .store
    let s ← get
    check (decide (x.toNat < s.tableLaunch.resCount)) 0x26 1 (resFaddr x.toNat 0)
    let r := s.resEntry s.cur s.tablePid x.toNat
    update fun s => s.useRes s.cur s.tablePid x.toNat
    let e : Rec512 := if resTenant r = s.act.tenant then r else BitVec.ofNat 512 (if resValid r then 2 ^ 99 else 0)
    keeping (fun s => s.useRes s.cur s.tablePid x.toNat) (storeOwn la (leBytes 64 e.toNat))
    pure .next

/-! ### Frames, scrubs, rows and page moves (R74 to R78, R483) -/

/-- The lines of a page at a physical address. -/
def pageLines (pa size : Nat) : List Nat := (List.range (size / 256)).map fun k => pa / 256 + k
def dropLines (rc : List RLine) (lines : List Nat) : List RLine := rc.filter fun y => !lines.contains y.line
/-- A scrub of a frame: zeros, no poison, no cached copy, then FREE_CLEAN (R75); its rows have been opened (R483). -/
def State.scrub (s0 : State) (f : Nat) : State :=
  let lines := pageLines (f * 4096) 4096
  let s := lines.foldl State.openRow s0
  { s with
    mem := s.mem.filter (fun c => decide (c.1 / 4096 ≠ f)),
    poison := s.poison.filter (fun k => decide (k / 64 ≠ f)),
    l2 := s.l2.filter (fun l => !lines.contains l.line),
    tiles := s.tiles.map (fun p => (p.1, { p.2 with rdcache := dropLines p.2.rdcache lines })),
    frames := s.frames.set f (s.frame f / 16 * 16 + 2),
    sys := { s.sys with scrubs := s.sys.scrubs.filter (fun g => decide (g ≠ f)), quar := nErase f s.sys.quar } }
/-- The changes of a frame's state outside a move and a quarantine (R74): a free clean frame is mapped for a tenant; a frame that no TLB maps any
more is freed; the system core posts it to a streamer; the streamer scrubs it, while the controllers accept its writes (R80). -/
def State.frameStep (s : State) (f : Nat) (k : FrameStep) : Option State :=
  let b := s.frame f
  if Config.mainMemoryTop ≤ f * 4096 then none
  else match k with
  | .map t => if b % 16 = 2 then some (s.setFrame f (t.val * 16 + 3)) else none
  | .free => if b % 16 = 3 ∧ s.unmapped f then some (s.setFrame f (b / 16 * 16)) else none
  | .post =>
    if b % 16 = 0 then some ((s.setFrame f (b / 16 * 16 + 1)).modSys fun y => { y with scrubs := y.scrubs ++ [f] }) else none
  | .clean => if b % 16 = 1 ∧ s.sys.scrubs.contains f ∧ !s.sys.uncontained then some (s.scrub f) else none
def execScrub (a : FrameAct) : Meaning := fun s => event "SCRUB" (s.frameStep a.frame a.step)
/-- A bank's open row closes after 128 ns without a request; a refresh closes every row of a controller (R483). -/
def execRowCloseTimeout (n : Nat) : Meaning := fun s =>
  event "ROW_CLOSE_TIMEOUT" ((s.rows.get? n).map fun _ => { s with rows := s.rows.erase n })
def execRefresh (n : Nat) : Meaning := fun s =>
  event "REFRESH" (if n < 16 then some { s with rows := s.rows.filter fun r => decide (r.1 / 64 ≠ n) } else none)

/-- Copy lines of a moving page with their poison, as they stand: the streamers read them through their slices (R76, R82). -/
def State.moveLines (s : State) (m : Move) (lines : List Nat) : State :=
  lines.foldl (fun (st : State) l =>
    let st1 := st.readLine false l
    let keys := (List.range 256).map fun i => l * 256 + i
    (st1.landCells [] [] (keys.map fun k => (m.dst + (k - m.src), st1.mem.get k, st1.sectorPoisoned k 1))).1) s
def State.setMove (s : State) (n : Nat) (m : Move) : State := s.modSys fun y => { y with moves := y.moves.set n m }
def State.dropMove (s : State) (n : Nat) : State := s.modSys fun y => { y with moves := y.moves.eraseIdx n }
/-- The frames of a page take a state for a tenant; a quarantined frame keeps its own (R72, R74). -/
def State.setFrames (s : State) (tenant pa size st : Nat) : State :=
  (List.range (size / 4096)).foldl (fun (x : State) k =>
    let f := pa / 4096 + k
    if x.frame f % 16 = 6 then x else x.setFrame f (tenant * 16 + st)) s
def State.framesAre (s : State) (pa size : Nat) (f : Nat → Bool) : Bool :=
  (List.range (size / 4096)).all fun k => f (s.frame (pa / 4096 + k))
/-- The start of a move (R74, R77): a mapped page of the tag word's tenant, and clean free frames for the attribute word's mapping of it. -/
def State.moveStart (s : State) (src : Nat) (tag attr : Word) : Option State :=
  let e := pageEntry tag attr
  let size := 2 ^ e.bits
  if tagReserved tag || attrReserved attr || decide (src % size ≠ 0) || decide (e.pa % size ≠ 0) || decide (e.va % size ≠ 0)
    || decide (Config.mainMemoryTop < src + size) || decide (Config.mainMemoryTop < e.pa + size)
    || !s.framesAre src size (fun b => decide (b = e.tenant * 16 + 3)) || !s.framesAre e.pa size (fun b => decide (b % 16 = 2)) then none
  else
    let m : Move := { src := src, dst := e.pa, size := size, tenant := e.tenant, entry := e, round := 0, bits := [], frozen := false }
    some (((s.setFrames e.tenant src size 4).setFrames e.tenant e.pa size 5).modSys fun y => { y with moves := y.moves ++ [m] })
/-- The end of a move's round (R77): its lines have been copied; it converges, is abandoned after round 16, or goes on. -/
def State.moveRound (s : State) (n : Nat) (m : Move) : State :=
  let s1 := s.moveLines m (if m.round = 0 then pageLines m.src m.size else m.todo)
  let m1 := ((s1.sys.moves[n]?).getD m)
  if 1 ≤ m.round ∧ m1.bits.length ≤ 64 then s1.setMove n { m1 with converged := true }
  else if 16 ≤ m.round then
    (((s1.setFrames m.tenant m.src m.size 3).setFrames m.tenant m.dst m.size 0).dropMove n).post { type := 8, info := m.round, loc := m.src }
  else s1.setMove n { m1 with round := m.round + 1, todo := m1.bits, bits := [] }
/-- A round of a move, or the start of the next one (R77). -/
def execMoveRound (a : MoveAct) : Meaning := fun s =>
  event "MOVE_ROUND" (match s.sys.moves[a.num]? with
    | some m => if m.converged then none else some (s.moveRound a.num m)
    | none => if a.num = s.sys.moves.length then s.moveStart a.src a.tag a.attr else none)
/-- Entries of a tile that map the page. -/
def Move.maps (m : Move) (e : TlbEntry) : Bool :=
  decide (e.tenant = m.tenant) &&
    ((decide (e.pa < m.src + m.size) && decide (m.src < e.pa + 2 ^ e.bits)) || e.overlaps m.entry.va m.entry.bits)
def Tile.moveEntries (t : Tile) (m : Move) : List TlbEntry := t.tlb.toList.filterMap fun e => e.filter fun x => m.maps x
/-- The start of the freeze: the page leaves every TLB, as by tlb.inv in every bay (R77, R80). -/
def State.moveFreeze (s : State) (n : Nat) (m : Move) : State :=
  let gone := s.tiles.flatMap fun p => (p.2.moveEntries m).map fun e => (p.1, e)
  let purge (p : Nat × Tile) : Nat × Tile := (p.1, p.2.tlbRemove m.maps)
  (({ s with tiles := s.tiles.map purge }).setMove n { m with frozen := true, gone := gone }).releaseQuarantine
/-- The mapping that answers a parked access of the page: the move's own, or that of another address of the page, moved to the destination. -/
def Move.answer (m : Move) (tenant va : Nat) : Option TlbEntry :=
  if m.entry.hits tenant va then some m.entry
  else (m.gone.find? fun g => g.2.hits tenant va).map fun g => { g.2 with pa := m.dst + (g.2.pa - m.src) }
/-- The parked accesses of a tile to the moved page are answered by the destination's mapping (R77). -/
def State.resumeMoved (s : State) (m : Move) (t : Nat) : State :=
  let ctxs := (List.finRange 8).foldl (fun (st : State) c =>
    match ((st.tile t).ctx c).missHalf with
    | none => st
    | some h =>
      let x := ((st.tile t).ctx c).slot h
      match m.answer x.act.tenant x.missVa.toNat with
      | some e => (st.modTile t fun y => y.tlbInstall e).modHalfOf t c h Slot.resumeMiss
      | none => st) s
  (List.range 16).foldl (fun (st : State) ch =>
    match st.firstParked t ch with
    | none => st
    | some x =>
      match m.answer x.tenant x.missVa.toNat with
      | some e => (st.modTile t fun y => y.tlbInstall e).resumeChan t ch
      | none => st) ctxs
/-- A host write that the slice has held lands on the destination (R77). -/
def Move.redirect (m : Move) (o : SliceOp) : SliceOp :=
  match o.what with
  | .host fn cells => { o with what := .host fn (cells.map fun c =>
      (if m.src ≤ c.1 ∧ c.1 < m.src + m.size then m.dst + (c.1 - m.src) else c.1, c.2)) }
  | _ => o
/-- The end of the freeze: the last lines are copied, the destination is MAPPED, held writes and parked accesses go on there (R77, R78). -/
def State.moveInstall (s : State) (n : Nat) (m : Move) : State :=
  let s1 := s.moveLines m m.bits
  let s2 := ((s1.setFrames m.tenant m.dst m.size 3).setFrames m.tenant m.src m.size 0).dropMove n
  (s2.tiles.map (·.1)).foldl (fun st t => st.resumeMoved m t) { s2 with sliceQ := s2.sliceQ.map m.redirect }
/-- No access that was translated before the freeze is under way on the page (R78). -/
def State.moveQuiet (s : State) (m : Move) : Bool :=
  !(s.sliceQ.any fun o => (o.what.keys.any fun k => decide (m.src ≤ k) && decide (k < m.src + m.size)) && (match o.what with | .host _ _ => false | _ => true))
def execMoveFreeze (n : Nat) : Meaning := fun s =>
  event "MOVE_FREEZE" (match s.sys.moves[n]? with
    | some m =>
      if !m.converged then none
      else if !m.frozen then some (s.moveFreeze n m)
      else if s.moveQuiet m then some (s.moveInstall n m) else none
    | none => none)

end Sys2Proof.Machine
end

