-- ==== Sys2Proof/Machine/MemoryEvents.lean ====
section
/-! DEFINITION. What slices, controllers, port threads and the host port do with accesses that have been issued (R61 to R63, R82 to R84,
R124, R128, R284, R293 to R296, R318, R324). -/

namespace Sys2Proof.Machine

/-! ### Order at the slices (R284 to R287, R293) -/

def SliceWhat.hostFn : SliceWhat → Option (Fin 16)
  | .host fn _ => some fn
  | _ => none
def SliceWhat.isProbe : SliceWhat → Bool
  | .probe _ => true
  | _ => false
/-- What the order of two accesses rests on: the context that issued it, the stream, whether its kind is S, its bytes, its number and the
order point of its context. -/
structure Ordered where
  src : Src
  vec : Bool
  strong : Bool
  keys : List Nat
  seq : Nat
  after : Nat
def SliceOp.ordered (o : SliceOp) : Ordered :=
  { src := o.src, vec := o.vec, strong := GlobalPath.strong o.parts, keys := o.what.keys, seq := o.seq, after := o.after }
def OutWrite.ordered (o : OutWrite) : Ordered :=
  { src := o.src, vec := o.vec, strong := o.strong, keys := o.cells.map (·.1), seq := o.seq, after := o.after }
/-- An access keeps a later one waiting. Of one context: a common byte, but that a vector access orders no later scalar one; both of kind S;
the scalar stream before the vector stream; two vector accesses, in queue order (R248, R284, R285). Of one partition: what was issued before
the order point of the later one's context (R286, R287). -/
def Ordered.holds (x y : Ordered) : Bool :=
  decide (x.seq < y.seq) &&
    ((decide (x.src.tile = y.src.tile) && decide (x.src.c = y.src.c) &&
        ((!(x.vec && !y.vec) && x.keys.any y.keys.contains) || (x.strong && y.strong) || y.vec))
      || (decide (x.src.pid = y.src.pid) && decide (x.seq < y.after)))
/-- Nothing issued earlier keeps an access waiting: neither at the slices nor at the host port; the posted writes of one function stay in
order (R293). -/
def State.unheld (s : State) (y : Ordered) : Bool :=
  !(s.sliceQ.any fun x => x.what.hostFn.isNone && !x.what.isProbe && x.ordered.holds y)
    && !(s.fns.toList.any fun f => f.outbound.any fun x => x.ordered.holds y)
/-- The port thread of a slice performs global atomics in the order in which they arrive (R318). -/
def State.amoTurn (s : State) (n : Nat) (o : SliceOp) : Bool :=
  match o.what with
  | .amo _ _ _ keys _ _ => !(s.sliceQ.take n).any fun x => match x.what with
      | .amo _ _ _ ks _ _ => decide (ks.head?.map sliceOf = keys.head?.map sliceOf)
      | _ => false
  | _ => true
def State.sliceFree (s : State) (n : Nat) (o : SliceOp) : Bool :=
  match o.what.hostFn with
  | some f => !(s.sliceQ.take n).any fun x => decide (x.what.hostFn = some f)
  | none => s.unheld o.ordered && s.amoTurn n o

/-! ### Performing an access at its slice (R54, R61, R63, R82, R128) -/

/-- The tenant of a partition identifier. -/
def State.tenantOf (s : State) (pid : Nat) : Nat := match s.parts.get? pid with | some p => descTenant p.desc | none => 0
/-- Bytes of a load that the issuing tile's read cache serves: those of a part under RC whose line it holds (R54, R131). -/
def State.fromRd (s : State) (o : SliceOp) (k : Nat) : Option RLine :=
  if GlobalPath.rcKey o.parts k then s.rdHit o.src.tile (s.tenantOf o.src.pid) k else none
/-- No posted write of the function was issued before this access (R294). -/
def State.portReady (s : State) (keys : List Nat) (seq : Nat) : Bool :=
  (keys.filter isHostKey).all fun k => (s.fn (hostFnOf k)).outbound.all fun w => decide (seq < w.seq)
/-- The frame of a byte is frozen in a move: no access but the streamer's copy is performed on it (R78). -/
def State.frozenKey (s : State) (k : Nat) : Bool :=
  s.sys.moves.any fun m => m.frozen && ((decide (m.src ≤ k) && decide (k < m.src + m.size)) || (decide (m.dst ≤ k) && decide (k < m.dst + m.size)))
/-- Every byte that a load or an atomic needs is present, and host-window reads find no posted write of the function ahead. -/
def State.accessReady (s : State) (o : SliceOp) : Bool :=
  match o.what with
  | .load _ addrs =>
    ((mainKeys addrs).all fun k => GlobalPath.ncKey o.parts k || (s.fromRd o k).isSome || s.present k) && s.portReady addrs o.seq
  | .amo _ _ _ addrs _ _ => addrs.all s.present
  | .host _ cells => !cells.any fun c => s.frozenKey c.1
  | .store _ => true
  | .probe _ => false
/-- The lines of an access, and which of them NC serves. -/
def SliceOp.lines (o : SliceOp) (keys : List Nat) : List (Nat × Bool) :=
  (linesOf keys).map fun l => (l, keys.any fun k => decide (lineOf k = l) && GlobalPath.ncKey o.parts k)
/-- Lines are read: used, or under NC served by their controller (R54, R82). -/
def State.readLines (s : State) (ls : List (Nat × Bool)) : State :=
  ls.foldl (fun (st : State) l => if l.2 then st.readLine true l.1 else st.l2Touch l.1 false) s
def State.writeLines (s : State) (ls : List (Nat × Bool)) : State := ls.foldl (fun (st : State) l => st.writeLine l.2 l.1) s
/-- An atomic under NC: the line is written back and dropped after the operation (R128). -/
def State.dropNc (s : State) (ls : List (Nat × Bool)) : State := ls.foldl (fun (st : State) l => if l.2 then st.l2Flush l.1 else st) s
/-- RC fills of the issuing tile's read cache; a line that it holds is used (R131). -/
def State.rdFillLines (s : State) (t tenant : Nat) (lines : List Nat) : State :=
  s.modTile t fun x => { x with rdcache := lines.foldl (fun rc l =>
    rdFill rc ((rc.find? fun y => decide (y.line = l) && decide (y.tenant = tenant)).getD (s.lineNow tenant l))) x.rdcache }
/-- A store under RC updates the lines that the issuing tile holds, when the slice performs it (R54; log 65). -/
def State.rdPatch (s : State) (t tenant : Nat) (cells : List (Nat × Byte × Byte)) : State :=
  s.modTile t fun x => { x with rdcache := x.rdcache.map fun y => if y.tenant = tenant then y.patch cells else y }
/-- The bytes of a load, and whether any is poisoned. -/
def State.loadBytes (s : State) (o : SliceOp) (addrs : List Nat) : List Byte :=
  addrs.map fun k => match s.fromRd o k with
    | some x => (x.bytes[k % 256]?).getD Memory.unlisted
    | none => s.mem.get k
def State.loadPoisoned (s : State) (o : SliceOp) (addrs : List Nat) : Bool :=
  addrs.any fun k => match s.fromRd o k with
    | some x => x.poison.contains (k % 256 / 64)
    | none => s.sectorPoisoned k 1
def State.performAccess (s : State) (o : SliceOp) : State :=
  let t := o.src.tile
  let tn := s.tenantOf o.src.pid
  match o.what with
  | .load id addrs =>
    let s1 := s.readLines (o.lines ((mainKeys addrs).filter fun k => (s.fromRd o k).isNone))
    let r : Reply := if s1.loadPoisoned o addrs then .poisoned 1 0#64 else .value (BitVec.ofNat 64 (leNat (s1.loadBytes o addrs)))
    (s1.rdFillLines t tn (linesOf ((mainKeys addrs).filter (GlobalPath.rcKey o.parts)))).sendReply t o.src.c id r
  | .store cells =>
    let s1 := (s.writeLines (o.lines (cells.map (·.1)))).writeCells cells
    s1.rdPatch t tn (cells.filter fun c => GlobalPath.rcKey o.parts c.1)
  | .amo id op w64 keys v cmp =>
    let ls := o.lines keys
    if s.keysPoisoned keys then ((s.readLines (ls.map fun l => (l.1, false))).dropNc ls).sendReply t o.src.c id (.poisoned 1 0#64)
    else
      let r := amoApply op w64 (leNat (s.bytesAt keys)) v.toNat cmp.toNat
      let cells := plainCells keys (leBytes (amoSize w64) r.1)
      (((s.writeLines (ls.map fun l => (l.1, false))).writeCells cells).dropNc ls).sendReply t o.src.c id (.value r.2.1 r.2.2)
  | .host _ cells => (s.writeLines (o.lines (cells.map (·.1)))).writeCells cells
  | .probe _ => s
def State.sliceStep (s : State) (n : Nat) : Option State :=
  match s.sliceQ[n]? with
  | none => none
  | some o =>
    if s.sliceFree n o && s.accessReady o then some ({ s with sliceQ := s.sliceQ.eraseIdx n }.performAccess o) else none
def execSliceAccess (n : Nat) : Meaning := fun s => event "SLICE_ACCESS" (s.sliceStep n)
/-- Bytes that an access waits for. -/
def State.missing (s : State) (o : SliceOp) : List Nat :=
  match o.what with
  | .load _ addrs => (mainKeys addrs).filter fun k => !(GlobalPath.ncKey o.parts k || (s.fromRd o k).isSome || s.present k)
  | .amo _ _ _ addrs _ _ => addrs.filter fun k => !s.present k
  | _ => []
/-- The controller fills a line that an access waits for, or that a store has allocated without its other bytes (R63, R79, R82). -/
def State.lineFill (s : State) (line : Nat) : Option State :=
  let half := match s.cached line with | some x => !x.full | none => false
  if half || s.sliceQ.any (fun o => (linesOf (s.missing o)).contains line) then some (s.l2Fill line) else none
def execLineFill (line : Nat) : Meaning := fun s => event "LINE_FILL" (s.lineFill line)

/-- A write that a partition's counter at a slice holds (R84, R296). -/
def State.countsFor (s : State) (pid slice : Nat) (o : SliceOp) : Bool :=
  (match o.what with
    | .host fn _ => decide (fn.val = s.tenantOf pid)
    | _ => decide (o.src.pid = pid)) && o.what.writes.any fun k => decide (sliceOf k = slice)
/-- A probe is answered when every write of the partition accepted before it is performed. -/
def State.probeStep (s : State) (n : Nat) : Option State :=
  (s.sliceQ[n]?).bind fun o => match o.what with
    | .probe slice =>
      if (s.sliceQ.take n).any (s.countsFor o.src.pid slice) then none else some { s with sliceQ := s.sliceQ.eraseIdx n }
    | _ => none
def execProbe (n : Nat) : Meaning := fun s => event "PROBE" (s.probeStep n)

/-! ### Replies (R62, R153, R396) -/

/-- The value of a returned load: its register or queue entry, its position among y0 to y3, its flags; an atomic marks its activation
(R128, R153). -/
def Half.landLoad (h : Half) (l : PendLoad) (v : Word) (fl : Flags) : Half :=
  let x := extendLoad l.size l.signed v.toNat
  let h1 := (if l.amo then h.setNR else h).arrive l.d l.id x
  let hit (k : Fin 4) : Bool := decide (h.ypend.get k = l.id + 1)
  { h1 with
    y := Vector.ofFn fun k => if hit k then x else h1.y.get k
    ypend := Vector.ofFn fun k => if hit k then 0 else h1.ypend.get k
    fflags := h1.fflags ||| fl
    loads := h1.loads.filter fun y => decide (y.id ≠ l.id) }
/-- An answer that ends the activation. -/
def Reply.aborts : Reply → Bool | .poisoned .. => true | .refused _ => true | _ => false
/-- The oldest answer lands. One that ends the activation waits while a protection violation freezes it: only frz.rel ends a freeze (R395). -/
def Slot.landReply (x : Slot) : Option Slot :=
  (x.half.loads.find? fun l => l.reply.isSome && !(decide (x.phase = .frozen) && (l.reply.map Reply.aborts).getD false)).bind fun l =>
    l.reply.map fun r => match r with
      | .value v fl => { x with half := x.half.landLoad l v fl }
      | .poisoned reason _ =>
        let y : Slot := { x with half := { x.half with loads := x.half.loads.filter fun z => decide (z.id ≠ l.id) } }
        if x.phase = .aborting then y
        else y.beginAbort l.pc { code := 0x28, reason := reason, faddr := l.faddr, place := l.place, target := l.target }
      | .stale v _ => { x with half := x.half.landLoad l v noFlags }
      | .refused tr =>
        let y : Slot := { x with half := { x.half with loads := x.half.loads.filter fun z => decide (z.id ≠ l.id) } }
        if x.phase = .aborting then y else y.beginAbort l.pc tr
/-- The first reply of a half is a stale version: its slot. -/
def Slot.staleReply (x : Slot) : Option Nat :=
  match (x.half.loads.find? fun l => l.reply.isSome).bind PendLoad.reply with
  | some (.stale _ k) => some k
  | _ => none
/-- The acquire of a returned value (R286, R299). -/
def State.acquired (s : State) (t : Nat) (c : Fin 8) (x : Slot) : State :=
  match x.half.loads.find? fun l => l.reply.isSome with
  | some l =>
    match l.reply with
    | some (.value _ _) | some (.stale _ _) =>
      let s1 := if l.acq then s.orderPoint t c else s
      if l.inv then s1.rdInvalidate t x.act.tenant else s1
    | _ => s
  | none => s
/-- A reply lands in its half; the staleness trap of a tm.get follows it, once the half is the current one and runs (R143). -/
def State.loadReply (s : State) (t : Nat) (c : Fin 8) (h : Bool) : Option State :=
  let k := (s.tile t).ctx c
  let x := k.slot h
  (x.landReply).bind fun y =>
    let s1 := (s.modTile t fun z => z.setCtx c (k.setSlot h y)).acquired t c x
    match x.staleReply with
    | none => some s1
    | some n =>
      if k.cur = h ∧ x.phase = .live ∧ !x.wfrozen ∧ !s.frozenShare t (s.shareAt t c) then
        some (s1.takeTrapAt t c y.half.pc { code := 0x12, faddr := BitVec.ofNat 64 n })
      else none
def execLoadReply (t : Nat) (c : Fin 8) : Meaning := fun s =>
  event "LOAD_REPLY" (match s.loadReply t c false with
    | some s1 => some s1
    | none => s.loadReply t c true)

/-! ### Port threads (R123, R124, R318, R324) -/

/-- A bay-remote load, store or atomic at the target; its reply or its acknowledgement goes back on the reply network (R124, R292). -/
def State.portAccess (s : State) (t : Nat) : RemoteOp → State
  | .load tl c sh id addr size =>
    let s1 := s.senseWin t sh addr size
    s1.sendPort t sh tl 1 (.answer tl c sh id (some
      (if s1.winPoisoned t sh addr size then .poisoned 0 0#64 else .value (BitVec.ofNat 64 (leNat (s1.readWin t sh addr size))))))
  | .store tl c sh id addr bs => (s.writeWin t sh addr bs).sendPort t sh tl 1 (.answer tl c sh id none)
  | .amo tl c sh id op w64 addr v cmp =>
    let n := amoSize w64
    let s1 := s.senseWin t sh addr n
    if s1.winPoisoned t sh addr n then s1.sendPort t sh tl 1 (.answer tl c sh id (some (.poisoned 0 0#64)))
    else
      let r := amoApply op w64 (leNat (s1.readWin t sh addr n)) v.toNat cmp.toNat
      (s1.writeWin t sh addr (leBytes n r.1)).sendPort t sh tl 1 (.answer tl c sh id (some (.value r.2.1 r.2.2)))
  | .answer .. => s
/-- The port thread's next operation, if it is of the kind asked for; the rest of the queue is left. -/
def State.portNext (s : State) (t : Nat) (f : State → PortOp → Option State) : Option State :=
  match (s.tile t).portQ with
  | [] => none
  | o :: rest => f (s.modTile t fun x => { x with portQ := rest }) o
def execPortThreadOperation (t : Nat) : Meaning := fun s =>
  event "PORT_THREAD_OPERATION" (s.portNext t fun s1 o => match o with
    | .remote r => some (s1.portAccess t r)
    | .land c sh id dst bs bad r => some ((s1.landWin t sh dst bs bad).sendReply t c id r)
    | _ => none)
/-- A put: checked as a store without a keep set; a refused one writes nothing (R318, R320). It clears the poison of the sectors that it covers
whole with clean data, which R111 does not say of puts (DESIGN CHOICE, log 84). -/
def State.performPut (s : State) (t : Nat) (m : Msg) : State :=
  let i := (s.shareFor t m).getD 0
  match s.checkWindow t i 0#32 m.addr m.body.length .put with
  | some r => s.post {
      type := 12, tenant := m.tenant, cause := r, info := m.dest.toNat + m.addr * 2 ^ 32, loc := m.addr, ptile := s.physTile t,
      ltile := m.dest.toNat }
  | none => s.landWin t i m.addr m.body ((List.range m.body.length).filter fun k => m.pmask.getLsbD (k / 8))
def execPut (t : Nat) : Meaning := fun s =>
  event "PUT" (s.portNext t fun s1 o => match o with | .put m => some (s1.performPut t m) | _ => none)
/-- The counter of a barrier number for a share. -/
def barrierKey (i : Fin 3) (b : Nat) : Nat := (if i = 1 then 2048 else 0) + b
/-- Bays whose 16 tiles are all members of a group, for R125. -/
def wholeBays (tiles : List Nat) : List Nat :=
  (List.range 34).filter fun b => (List.range 16).all fun k => tiles.contains (bayTile b k)
/-- An arrival at a barrier's home (R324). -/
def State.performArrival (s : State) (t : Nat) (m : Msg) : State :=
  let i := (s.shareFor t m).getD 0
  let w := m.word 0
  let g := wfield w 7 0
  let ch := wfield w 37 32
  let key := barrierKey i (wfield w 26 16)
  let c := ((s.tile t).barriers.get? key).getD {}
  let l := s.launchOf (s.pidAt t i)
  let ms := members (l.group g)
  if c.count ≠ 0 ∧ c.grp ≠ g then
    s.post { type := 10, tenant := m.tenant, info := w.toNat, ptile := s.physTile t, ltile := (s.tileWordAt t i).toNat }
  else if c.count + 1 = ms.length then
    let s1 := s.modTile t fun x => { x with barriers := x.barriers.set key { count := 0, gen := c.gen + 1, grp := g } }
    let p := s.part (s.pidAt t i)
    let tileOf (k : Nat) : Nat := (p.bind fun q => q.tileOf k).getD t
    let s2 := ms.foldl (fun (st : State) k => st.inject t i {
      launch := m.launch, tenant := m.tenant, kind := 4, source := s.tileWordAt t i, vnet := 2, chan := ch,
      dest := memberWord t k, dst := tileOf k,
      body := wordsBody [w, BitVec.ofNat 64 (c.gen + 1), BitVec.ofNat 64 ms.length] }) s1
    s2.modLaunchOf m.pid m.launch fun l => { l with bayBarriers := (wholeBays (ms.map tileOf)).foldl (fun a b => nInsert b a) l.bayBarriers }
  else s.modTile t fun x => { x with barriers := x.barriers.set key { c with count := c.count + 1, grp := g } }
def execBarrierArrival (t : Nat) : Meaning := fun s =>
  event "BARRIER_ARRIVAL" (s.portNext t fun s1 o => match o with | .arrive m => some (s1.performArrival t m) | _ => none)

/-! ### The host port (R293, R294, R394) -/

/-- The port accepts the oldest outbound posted write of a function, once nothing issued earlier keeps it waiting: host memory holds it
(R289, R294). -/
def State.acceptOutbound (s : State) (fn : Fin 16) : Option State :=
  match (s.fn fn.val).outbound with
  | [] => none
  | o :: rest =>
    if s.sliceQ.any fun x => x.what.hostFn.isNone && !x.what.isProbe && x.ordered.holds o.ordered then none
    else some ({ s with mem := s.mem.writeMasked o.cells }.modFn fn.val fun f => { f with outbound := rest })
def execHostPortAcceptance (fn : Fin 16) : Meaning := fun s => event "HOST_PORT_ACCEPTANCE" (s.acceptOutbound fn)
/-- A violation freezes the function (R394). -/
def State.freezeFn (s : State) (fn : Nat) (a : Nat) : State :=
  (s.modFn fn fun f => { f with frozen := true }).post { type := 3, tenant := fn, info := fn, cause := 0x30, loc := a }
/-- Requests of a frozen or resetting function are dropped (R394, R430). -/
def Fn.refuses (f : Fn) : Bool := f.frozen || f.resetting
/-- A failed boot leaves nothing but the mailbox and attestation in service (R455). -/
def State.bootFailed (s : State) : Bool := decide (0x80 ≤ s.sys.bootst)
/-- Requests of a function are not served. -/
def State.refuses (s : State) (fn : Nat) : Bool := (s.fn fn).refuses || s.bootFailed
/-- An inbound posted write to main memory: queued at its slices; outside main memory, or in a frame of another tenant, it is a violation
of the function (R52, R84, R293, R394). -/
def State.postedWrite (s : State) (fn : Fin 16) (a : Nat) (bs : List Byte) : State :=
  if s.refuses fn.val || bs.isEmpty then s
  else
    let keys := (List.range bs.length).map fun i => a + i
    if Config.mainMemoryTop < a + bs.length then s.freezeFn fn.val a
    else if fn ≠ 0 ∧ keys.any (fun k => decide (s.frame (k / 4096) / 16 ≠ fn.val)) then s.freezeFn fn.val a
    else
      let src : Src := { tile := 0, c := 0, pid := 16 }
      { s with sliceQ := s.sliceQ ++ [{ src := src, what := .host fn (plainCells keys bs), seq := s.fresh }], fresh := s.fresh + 1 }
def execHostPostedWrite (fn : Fin 16) (a : Nat) (bs : List (BitVec 8)) : Meaning := fun s =>
  event "HOST_POSTED_WRITE" (some (s.postedWrite fn a bs))

end Sys2Proof.Machine
end

