-- ==== Sys2Proof/Machine/Requests.lean ====
section
/-! DEFINITION. Requests, batches, key-value page counts and combines: majors 34 and 32 (R352 to R367). -/

namespace Sys2Proof.Machine

/-! ### Request records (R353) -/

def rqState (r : Rec512) : Nat := resBits r 38 36
def rqTenant (r : Rec512) : Nat := resBits r 35 32
def rqPrio (r : Rec512) : Nat := resBits r 41 40
def rqSibl (r : Rec512) : Nat := resBits r 44 42
def rqSibgrp (r : Rec512) : Nat := resBits r 159 144
def rqAdmseq (r : Rec512) : Nat := resBits r 447 384
def rqRow (r : Rec512) : Nat := resBits r 136 128
def rqPos (r : Rec512) : Nat := resBits r 95 64
def rqMaxpos (r : Rec512) : Nat := resBits r 127 96
def rqDeadline (r : Rec512) : Nat := resBits r 319 256
def rqSetState (r : Rec512) (st : Nat) : Rec512 := setRec r 38 36 st
/-- State and err together. -/
def rqEnd (r : Rec512) (st err : Nat) : Rec512 := setRec (rqSetState r st) 55 48 err
def ReqTable.recAt (q : ReqTable) (i : Nat) : Rec512 := (q.recs.get? i).getD 0#512
def ReqTable.putRec (q : ReqTable) (i : Nat) (r : Rec512) : ReqTable := { q with recs := q.recs.set i r }
/-- The record that holds a row. -/
def ReqTable.ofRow (q : ReqTable) (row : Nat) : Option Nat := q.held.get? row
def ReqTable.freeRow (q : ReqTable) (row : Nat) : ReqTable := { q with held := q.held.filter fun p => decide (p.1 ≠ row) }
/-- A record that has ended: retired, faulted or free. -/
def rqEnded (r : Rec512) : Bool := decide (rqState r = 0) || decide (rqState r = 4) || decide (rqState r = 5)

/-- A malformed image: a reserved bit, a group without siblings, a size above 16, or no position (R3, R353). -/
def rqMalformed (r : Rec512) : Bool :=
  decide (resBits r 511 464 ≠ 0) || decide (resBits r 383 352 ≠ 0) || decide (resBits r 335 332 ≠ 0) || decide (resBits r 143 137 ≠ 0)
    || decide (resBits r 63 60 ≠ 0) || decide (resBits r 47 45 ≠ 0) || r.getLsbD 39
    || decide (4 < rqSibl r) || (decide (rqSibl r = 0) && decide (rqSibgrp r ≠ 0)) || decide (rqMaxpos r = 0)
/-- The record that a submission makes of its image: the fields that the device owns are its own (R353). -/
def rqFill (img : Rec512) (tenant seq : Nat) : Rec512 :=
  setRec (setRec (setRec (setRec (setRec (rqSetState img 1) 447 384 seq) 191 160 0) 136 128 0) 55 48 0) 35 32 tenant
def errWord (code : Nat) : Word := BitVec.ofNat 64 (2 ^ 63 + code)
/-- req.sub: the lowest free record takes the image (R354, R363). -/
def ReqTable.submit (q : ReqTable) (img : Rec512) (tenant : Nat) : ReqTable × Word :=
  if rqMalformed img then (q, errWord 1)
  else if rqSibl img ≠ 0 ∧ q.recs.any (fun p => decide (rqState p.2 = 1) && decide (rqTenant p.2 = tenant) && decide (rqSibl p.2 ≠ 0)
      && decide (rqSibgrp p.2 = rqSibgrp img) && decide (rqSibl p.2 ≠ rqSibl img)) then (q, errWord 3)
  else match (List.range 4096).find? fun i => decide (rqState (q.recAt i) = 0) with
    | none => (q, errWord 2)
    | some i => ({ (q.putRec i (rqFill img tenant q.admseq)) with admseq := q.admseq + 1 }, BitVec.ofNat 64 i)
/-- req.cancel (R354): status 1 for a state that the table does not allow; a record that a reset has faulted is freed by the next step only. -/
def ReqTable.cancel (q : ReqTable) (i : Nat) (free : Bool) : ReqTable × Nat :=
  let r := q.recAt i
  if free then
    if (rqState r = 4 ∨ rqState r = 5) ∧ !q.resetFaults.contains i then
      let q1 := q.putRec i (rqSetState r 0)
      (if q.ofRow (rqRow r) = some i then q1.freeRow (rqRow r) else q1, 0)
    else (q, 1)
  else if rqState r = 1 then (q.putRec i (rqEnd r 4 3), 0)
  else if rqState r = 2 then (q.putRec i (rqEnd r 3 3), 0)
  else (q, 1)

/-! ### Commits and faults (R359, R360) -/

/-- The tokens of a commit in order, until one stops the request; the count taken. -/
def commitTokens (stops : Vector (List Nat) 8) : List Nat → Rec512 → Rec512 × Nat
  | [], r => (r, 0)
  | tok :: rest, r =>
    let r1 := setRec (setRec r 95 64 (rqPos r + 1)) 191 160 tok
    if r.getLsbD 59 && (stops.get (Fin.ofNat 8 (resBits r 58 56))).contains tok then (rqEnd r1 3 0, 1)
    else if rqMaxpos r1 ≤ rqPos r1 then (rqEnd r1 3 1, 1)
    else
      let x := commitTokens stops rest r1
      (x.1, x.2 + 1)
/-- The result word of req.commit. -/
def commitWord (status k : Nat) (r : Rec512) : Word :=
  BitVec.ofNat 64 (status + k * 2 ^ 8 + rqState r * 2 ^ 12 + rqPos r * 2 ^ 32)
def ReqTable.commit (q : ReqTable) (row : Nat) (toks : List Nat) (dtime : Nat) : ReqTable × Word :=
  match q.ofRow row with
  | none => (q, commitWord 1 0 0#512)
  | some i =>
    let r := q.recAt i
    if q.resetFaults.contains i then (q, commitWord 2 0 r)
    else if rqState r ≠ 2 then (q, commitWord 1 0 r)
    else if q.committed.get? row = some q.step then (q, commitWord 3 0 r)
    else
      let x := commitTokens q.stops toks r
      let r1 := if rqState x.1 = 2 ∧ rqDeadline x.1 ≠ 0 ∧ rqDeadline x.1 ≤ dtime then rqEnd x.1 3 2 else x.1
      ({ (q.putRec i r1) with committed := q.committed.set row q.step }, commitWord 0 x.2 r1)
/-- req.fault of a row (R360). -/
def ReqTable.fault (q : ReqTable) (row code : Nat) : ReqTable :=
  match q.ofRow row with
  | some i =>
    let r := q.recAt i
    if rqState r = 2 ∨ rqState r = 3 then { (q.putRec i (rqEnd r 5 (0x80 + code))) with faulted := q.faulted + 1 } else q
  | none => q
/-- Rows of a mask as its 64 bytes (R357). -/
def validBytes (v : BitVec 512) : List Byte := leBytes 64 v.toNat
/-- Bytes written whole into the image of a tile, at an offset of its scratchpad that is a multiple of 64 (R418). -/
def TileImage.write (m : TileImage) (o : Nat) (bs : List Byte) : TileImage :=
  { m with
    spad := (m.spad.filter fun c => decide (c.1 < o) || decide (o + bs.length ≤ c.1)) ++ bs.zipIdx.map fun b => (o + b.2, b.1)
    spadLines := nInsert (o / 256) m.spadLines
    spadPoison := m.spadPoison.filter fun k => decide (k ≠ o / 64) }
/-- A mask beat to a member, checked as a put: into its window, or into its tile's image while the partition is saved (R318, R360). -/
def State.maskBeat (s : State) (pid : Nat) (p : Part) (v : BitVec 512) (m : Nat × Nat) : State :=
  if savedState p.state || decide (p.state = 8) then
    let put (i : TileImage) : TileImage :=
      if p.tileOf i.logical = some m.1 then i.write ((if p.shareIdx = 1 then 0x80000 else 0) + m.2) (validBytes v) else i
    s.modPart pid fun q => { q with image := q.image.map put }
  else if s.pidAt m.1 p.shareIdx = some pid ∧ (s.checkWindow m.1 p.shareIdx 0#32 m.2 64 .put).isNone then
    s.landWin m.1 p.shareIdx m.2 (validBytes v) []
  else s
/-- A reset notice for a client tenant: its requests fault, the valid bits of all its rows are cleared, those too that req.fault has faulted since the step,
and the mask of the current slot map is written again to every member that received the map (R360). -/
def State.resetNotice (s : State) (pid tenant : Nat) : State :=
  match s.parts.get? pid with
  | none => s
  | some p =>
    let q := p.req
    let hit (r : Rec512) : Bool := decide (rqTenant r = tenant) && (decide (rqState r = 1) || decide (rqState r = 2) || decide (rqState r = 3))
    let ids := (q.recs.filter fun x => hit x.2).map fun x => x.1
    let rows := (q.held.filter fun x => decide (rqTenant (q.recAt x.2) = tenant)).map fun x => x.1
    let v := rows.foldl (fun (v : BitVec 512) k => v &&& ~~~ (1#512 <<< k)) q.valid
    let end1 (x : Nat × Rec512) : Nat × Rec512 := (x.1, if hit x.2 then rqEnd x.2 5 0xFF else x.2)
    let q1 := { q with recs := q.recs.map end1, resetFaults := ids.foldl (fun a k => nInsert k a) q.resetFaults, valid := v,
                       faulted := q.faulted + ids.length }
    let s1 := s.modPart pid fun p => { p with req := q1 }
    if ids = [] ∧ rows = [] then s1
    else q.members.foldl (fun (st : State) m => st.maskBeat pid p v m) s1

/-! ### The step (R356 to R358) -/

/-- Retirement: stopping requests, and active ones past their deadline. -/
def rqRetire (t0 : Nat) (r : Rec512) : Rec512 :=
  if rqState r = 3 then rqSetState r 4
  else if rqState r = 2 ∧ rqDeadline r ≠ 0 ∧ rqDeadline r ≤ t0 then rqEnd r 4 2
  else r
/-- Records of the same sibling group that hold rows. -/
def ReqTable.group (q : ReqTable) (i : Nat) : List (Nat × Nat) :=
  let r := q.recAt i
  if rqSibl r = 0 then q.held.filter fun x => decide (x.2 = i)
  else q.held.filter fun x => let y := q.recAt x.2; decide (rqSibl y ≠ 0) && decide (rqTenant y = rqTenant r) && decide (rqSibgrp y = rqSibgrp r)
/-- Free the rows of the groups that have ended, and the records that a reset has faulted. -/
def ReqTable.freeRows (q : ReqTable) : ReqTable :=
  let ended (q : ReqTable) (x : Nat × Nat) : ReqTable :=
    if (decide (rqState (q.recAt x.2) = 4) || decide (rqState (q.recAt x.2) = 5)) && decide (q.ofRow x.1 = some x.2)
        && (q.group x.2).all (fun y => rqEnded (q.recAt y.2)) then
      (q.group x.2).foldl (fun a y => a.freeRow y.1) q
    else q
  let drop (q : ReqTable) (i : Nat) : ReqTable :=
    let q1 := q.putRec i (rqSetState (q.recAt i) 0)
    if q.ofRow (rqRow (q.recAt i)) = some i then q1.freeRow (rqRow (q.recAt i)) else q1
  let q1 := q.held.foldl ended q
  { (q.resetFaults.foldl drop q1) with resetFaults := [] }
/-- Insertion of a unit in the order of admission. -/
def unitBefore (q : ReqTable) (a b : List Nat) : Bool :=
  let x := q.recAt (a.headD 0)
  let y := q.recAt (b.headD 0)
  if rqPrio x ≠ rqPrio y then decide (rqPrio y < rqPrio x) else decide (rqAdmseq x < rqAdmseq y)
def insertUnit (q : ReqTable) (u : List Nat) : List (List Nat) → List (List Nat)
  | [] => [u]
  | v :: r => if unitBefore q u v then u :: v :: r else v :: insertUnit q u r
def insertSeq (q : ReqTable) (i : Nat) : List Nat → List Nat
  | [] => [i]
  | j :: r => if rqAdmseq (q.recAt i) < rqAdmseq (q.recAt j) then i :: j :: r else j :: insertSeq q i r
/-- Waiting units in order of admission: single requests, and whole sibling groups in admseq order (R356). -/
def ReqTable.units (q : ReqTable) : List (List Nat) :=
  let wait := ((q.recs.filter fun p => decide (rqState p.2 = 1)).map fun p => p.1).foldr (insertSeq q) []
  let sibs (i : Nat) : List Nat :=
    let r := q.recAt i
    wait.filter fun j => decide (rqSibl (q.recAt j) ≠ 0) && decide (rqTenant (q.recAt j) = rqTenant r) && decide (rqSibgrp (q.recAt j) = rqSibgrp r)
  let unit (i : Nat) : Option (List Nat) :=
    let n := 2 ^ rqSibl (q.recAt i)
    if rqSibl (q.recAt i) = 0 then some [i]
    else if (sibs i).headD i = i ∧ n ≤ (sibs i).length then some ((sibs i).take n) else none
  (wait.filterMap unit).foldr (insertUnit q) []
/-- Place a unit at the lowest aligned block of free rows. -/
def ReqTable.place (q : ReqTable) (u : List Nat) : Option ReqTable :=
  let n := u.length
  match (List.range (q.rows / n)).find? fun k => (List.range n).all fun j => (q.ofRow (k * n + j)).isNone with
  | none => none
  | some k =>
    let put (a : ReqTable) (x : Nat × Nat) : ReqTable :=
      let row := k * n + x.2
      { (a.putRec x.1 (setRec (rqSetState (a.recAt x.1) 2) 136 128 row)) with held := a.held.set row x.1 }
    some (u.zipIdx.foldl put q)
/-- Admit units until one does not fit; the number admitted. -/
def ReqTable.admitRows (q : ReqTable) : List (List Nat) → ReqTable × Nat
  | [] => (q, 0)
  | u :: r =>
    match q.place u with
    | none => (q, 0)
    | some q1 =>
      let x := q1.admitRows r
      (x.1, x.2 + u.length)
/-- Rows that hold an active request. -/
def ReqTable.validRow (q : ReqTable) (row : Nat) : Bool :=
  decide (row < q.rows) && (match q.ofRow row with | some i => decide (rqState (q.recAt i) = 2) | none => false)
/-- The slot map's 3200 bytes (R357). -/
def ReqTable.slotMap (q : ReqTable) (v : BitVec 512) (nv : Nat) : List Byte :=
  validBytes v
    ++ (List.range 512).flatMap (fun row => leBytes 4 (if v.getLsbD row then (match q.ofRow row with | some i => rqPos (q.recAt i) | none => 0) else 0))
    ++ (List.range 512).flatMap (fun row => leBytes 2 ((q.ofRow row).getD 0xFFFF))
    ++ leBytes 8 q.step ++ leBytes 4 nv ++ List.replicate 52 0#8
/-- The table work of a step: the table, the counts n1 to n3; a step itself faults no record, so n2 counts what it retires (R358). -/
def ReqTable.stepTable (q : ReqTable) (t0 : Nat) : ReqTable × Nat × Nat × Nat :=
  let q0 := { q with step := q.step + 1, rows := q.rowsNext.getD q.rows, rowsNext := none }
  let ending := q0.held.countP fun x => decide (rqRetire t0 (q0.recAt x.2) ≠ q0.recAt x.2)
  let q1 := q0.held.foldl (fun a x => a.putRec x.2 (rqRetire t0 (a.recAt x.2))) q0
  let q2 := q1.freeRows
  let adm := q2.admitRows q2.units
  let v := (List.range 512).foldl (fun (b : BitVec 512) row => if adm.1.validRow row then b ||| (1#512 <<< row) else b) 0#512
  ({ adm.1 with valid := v, faulted := 0 }, (List.range 512).countP fun row => v.getLsbD row, ending, adm.2)

/-- A notification of kind 4 from a unit outside the tiles: it takes its sequence number at the unit's tile and counts at the unit (R304,
R327). -/
def State.injectUnit (s : State) (t : Nat) (i : Fin 3) (m : Msg) : State :=
  (s.inject t i m).modShareAt t i fun x => { x with sent := x.sent - 1 }
/-- Write the slot map to a member, checked as a put (R318, R358). -/
def State.deliverMap (s : State) (p : Part) (bs : List Byte) (a : Nat) (l : Nat) : State :=
  let t := (p.tileOf l).getD 0
  match s.checkWindow t p.shareIdx 0#32 a bs.length .put with
  | some r => s.post {
      type := 12, tenant := descTenant p.desc, cause := r, info := l + a * 2 ^ 32, loc := a, ptile := s.physTile t, ltile := l }
  | none => s.landWin t p.shareIdx a bs []
/-- A step of a partition's batch: a member whose check fails receives neither the map nor the notification (R356 to R358). -/
def State.batchStep (s : State) (pid : Nat) (w : Word) : State :=
  match s.parts.get? pid with
  | none => s
  | some p =>
    let l := p.launch.getD {}
    let x := p.req.stepTable s.dtime
    let a := wfield w 51 32
    let bs := x.1.slotMap x.1.valid x.2.1
    let all := members (l.group (wfield w 7 0))
    let ms := all.filter fun k => (s.checkWindow ((p.tileOf k).getD 0) p.shareIdx 0#32 a bs.length .put).isNone
    let tiles := ms.map fun k => ((p.tileOf k).getD 0, a)
    let s1 := s.modPart pid fun p => { p with req := { x.1 with members := tiles, sent := x.1.sent + ms.length } }
    let s2 := all.foldl (fun (st : State) k => st.deliverMap p bs a k) s1
    let home := (p.tileOf 0).getD 0
    ms.foldl (fun (st : State) k => st.injectUnit home p.shareIdx {
      launch := l.num, tenant := descTenant p.desc, kind := 4, source := st.tileWordAt home p.shareIdx, vnet := 2, chan := wfield w 21 16,
      dest := memberWord home k, dst := (p.tileOf k).getD 0,
      body := wordsBody [BitVec.ofNat 64 x.1.step, BitVec.ofNat 64 x.2.1, BitVec.ofNat 64 x.2.2.1, BitVec.ofNat 64 x.2.2.2] }) s2
/-- The oldest released operation of the partition n (R355). -/
def State.reqOperation (s : State) (pid : Nat) : Option State :=
  (s.parts.get? pid).bind fun p =>
    match p.req.ops with
    | [] => none
    | o :: rest =>
      let s1 := s.modPart pid fun p => { p with req := { p.req with ops := rest } }
      match o.2 with
      | .reqStep w => some (s1.batchStep pid w)
      | .reqFault row code => some (s1.modPart pid fun p => { p with req := p.req.fault row code })
      | _ => some s1
def execReqStepOperation (n : Nat) : Meaning := fun s => event "REQ_STEP_OPERATION" (s.reqOperation n)

/-! ### Major 34 (R363) -/

/-- The partition's table; operations of the same tile that are on their way to the unit come first (R355). -/
def reqTable : Exec (Nat × ReqTable) := do
  let s ← get
  match s.pid, s.part s.pid with
  | some pid, some p => do
    waitUntil (p.req.ops.all fun o => decide (o.1 ≠ s.cur))
    pure (pid, p.req)
  | _, _ => illegalOperand
def setTable (pid : Nat) (q : ReqTable) : Exec Unit := update fun s => s.modPart pid fun p => { p with req := q }
def reqOp (o : Op) : Op := { o with iso := true }
/-- A form that returns a value to a. -/
def reqValue (b a : Reg) (body : Word → Exec Word) : Meaning :=
  issueValue (reqOp { srcs := [b], dsts := [a] }) a (do let w ← rd b; body w)

def execReqSub (b a : Reg) : Meaning :=
  reqValue b a fun w => do
    let ea ← recordAddr w .load
    let bs ← readOwn ea 64
    let t ← reqTable
    let s ← get
    let r := t.2.submit (BitVec.ofNat 512 (leNat bs)) s.act.tenant
    setTable t.1 r.1
    markNonReplayable
    pure r.2
def execReqStep (a : Reg) : Meaning :=
  issue (reqOp { srcs := [a] }) do
    let w ← rd a
    let s ← get
    requireOperand (onlyBits w [(7, 0), (21, 16), (51, 32)] && decide (wfield w 51 32 % 64 = 0) && s.member (wfield w 7 0))
    appendOut 32 (.reqStep w)
    pure .next
def execReqRd (b a : Reg) : Meaning :=
  reqValue b a fun w => do
    requireOperand (onlyBits w [(11, 0), (51, 32)])
    let ea ← recordAddr (BitVec.ofNat 64 (wfield w 51 32)) .store
    let t ← reqTable
    storeOwn ea (leBytes 64 (t.2.recAt (wfield w 11 0)).toNat)
    pure 0#64
/-- A list of n UINT32 values in the own scratchpad. -/
def readList (a n : Nat) : Exec (List Nat) := do
  let s ← get
  let _ ← checkWin s.cur 0 a (4 * n) .load
  let bs ← readOwn a (4 * n)
  pure ((List.range n).map fun i => leNat ((bs.drop (4 * i)).take 4))
def execReqCommit (b a : Reg) : Meaning :=
  reqValue b a fun w => do
    requireOperand (onlyBits w [(8, 0), (11, 9), (51, 32)] && decide (wfield w 51 32 % 4 = 0))
    let toks ← readList (wfield w 51 32) (wfield w 11 9 + 1)
    let t ← reqTable
    let s ← get
    let r := t.2.commit (wfield w 8 0) toks s.dtime
    setTable t.1 r.1
    pure r.2
def execReqFault (a : Reg) : Meaning :=
  issue (reqOp { srcs := [a] }) do
    let w ← rd a
    requireOperand (onlyBits w [(8, 0), (22, 16)] && decide (wfield w 22 16 ≠ 0x7F))
    appendOut 32 (.reqFault (wfield w 8 0) (wfield w 22 16))
    pure .next
/-- req.cfg op 0: status 1 when a row at or beyond B is in use. -/
def execReqCfgRows (b a : Reg) : Meaning :=
  reqValue b a fun w => do
    requireOperand (onlyBits w [(9, 0)] && decide (1 ≤ w.toNat) && decide (w.toNat ≤ 512))
    let t ← reqTable
    markNonReplayable
    if t.2.held.any fun x => decide (w.toNat ≤ x.1) then pure 1#64
    else do
      setTable t.1 { t.2 with rowsNext := some w.toNat }
      pure 0#64
def execReqCfgStopset (b a : Reg) : Meaning :=
  reqValue b a fun w => do
    let n := wfield w 8 4
    requireOperand (onlyBits w [(2, 0), (8, 4), (51, 32)] && decide (n ≤ 16) && decide (wfield w 51 32 % 64 = 0))
    let toks ← readList (wfield w 51 32) n
    let t ← reqTable
    let j : Fin 8 := Fin.ofNat 8 (wfield w 2 0)
    setTable t.1 { t.2 with stops := t.2.stops.set j.val toks j.isLt }
    markNonReplayable
    pure 0#64
def execReqCancel (free : Bool) (b a : Reg) : Meaning :=
  reqValue b a fun w => do
    requireOperand (onlyBits w [(11, 0)])
    let t ← reqTable
    let r := t.2.cancel w.toNat free
    setTable t.1 r.1
    markNonReplayable
    pure (BitVec.ofNat 64 r.2)

/-! ### Key-value page counts (R361, R362) -/

def kvEvicting : Nat := 0xFFFF
def kvGet (kv : NMap Kv) (p : Nat) : Kv := (kv.get? p).getD {}
/-- The victim of an evict among the pages of a tenant with count 0: the lowest last attach, then the lowest page. Pages that no entry lists
have tenant 0 and last attach 0. -/
def kvVictim (kv : NMap Kv) (t : Nat) : Option Nat :=
  let listed := kv.filter fun x => decide (x.2.tenant = t) && decide (x.2.count = 0)
  let fresh : List (Nat × Kv) :=
    if t = 0 then (((List.range (min (kv.length + 1) (2 ^ 20))).find? fun p => (kv.get? p).isNone).map fun p => (p, ({} : Kv))).toList else []
  let less (a b : Nat × Kv) : Bool := decide (a.2.last < b.2.last) || (decide (a.2.last = b.2.last) && decide (a.1 < b.1))
  let pick (acc : Option (Nat × Kv)) (x : Nat × Kv) : Option (Nat × Kv) :=
    match acc with
    | none => some x
    | some y => if less x y then some x else some y
  ((listed ++ fresh).foldl pick none).map fun x => x.1
/-- What the slices do with an operation: the counters, the operation still to go on with, or its value. -/
def kvPerform (kv : NMap Kv) (step : Nat) (o : KvOp) : NMap Kv × (KvOp ⊕ Word) :=
  let e := kvGet kv o.page
  match o.op with
  | 0 =>
    if e.count = kvEvicting then (kv, .inr (errWord 1))
    else if e.tenant ≠ o.tenant ∧ e.count ≠ 0 then (kv, .inr (errWord 2))
    else if e.count = 0xFFFE then (kv, .inr (errWord 3))
    else (kv.set o.page { count := e.count + 1, tenant := o.tenant, last := step }, .inr (BitVec.ofNat 64 (e.count + 1)))
  | 1 =>
    if e.count = 0 ∨ e.count = kvEvicting then (kv, .inr (errWord 4))
    else (kv.set o.page { e with count := e.count - 1 }, .inr (BitVec.ofNat 64 (e.count - 1)))
  | 2 =>
    (match o.cand with
    | none =>
      (match kvVictim kv o.tenant with
      | none => (kv, .inr (errWord 5))
      | some p => (kv, .inl { o with cand := some p }))
    | some p =>
      let v := kvGet kv p
      if v.count = 0 then (kv.set p { v with count := kvEvicting }, .inr (BitVec.ofNat 64 p))
      else if 3 ≤ o.round then (kv, .inr (errWord 6))
      else (kv, .inl { o with cand := none, round := o.round + 1 }))
  | _ =>
    if e.count ≠ kvEvicting then (kv, .inr (errWord 7))
    else (kv.set o.page { e with count := 0, last := 0 }, .inr 0#64)
/-- The n-th waiting operation is performed by the port threads of the slices (R361, R362). -/
def State.kvOperation (s : State) (n : Nat) : Option State :=
  (s.kvq[n]?).bind fun o => (s.parts.get? o.pid).map fun p =>
    let r := kvPerform p.req.kv p.req.step o
    let s1 := s.modPart o.pid fun p => { p with req := { p.req with kv := r.1 } }
    match r.2 with
    | .inl o1 => { s1 with kvq := s1.kvq.set n o1 }
    | .inr v => { s1 with kvq := s1.kvq.eraseIdx n }.sendReply o.tile o.c o.id (.value v)
def execKvOperation (n : Nat) : Meaning := fun s => event "KV_OPERATION" (s.kvOperation n)
/-- req.kv: the context is held until the value returns. -/
def kvForm (op : Nat) (b a : Reg) : Meaning :=
  issue (reqOp { srcs := [b], dsts := [a] }) do
    let w ← rd b
    requireOperand (onlyBits w [(19, 0), (35, 32)])
    let s ← get
    let id ← freshId
    update fun s => { s with kvq := s.kvq ++ [{
      tile := s.cur, c := s.ctx, id := id, pid := s.pid.getD 16, op := op, page := wfield w 19 0, tenant := wfield w 35 32 }] }
    pendingLoad { id := id, d := a, blocking := true, pc := s.half.pc }
    markNonReplayable
    pure .next
def execReqKvAttach (b a : Reg) : Meaning := kvForm 0 b a
def execReqKvDetach (b a : Reg) : Meaning := kvForm 1 b a
def execReqKvEvict (b a : Reg) : Meaning := kvForm 2 b a
def execReqKvRelease (b a : Reg) : Meaning := kvForm 3 b a

/-! ### Combines (R365 to R367) -/

/-- Buffer a contribution. -/
def cmbForm (op : Nat) (i32 : Bool) (b a : Reg) : Meaning :=
  issue { srcs := [a, b] } do
    let v ← rd a
    let w ← rd b
    requireOperand (onlyBits w [(10, 0), (21, 16), (40, 32), (63, 48)])
    let t ← targetTile (wfield w 10 0)
    let s ← get
    appendOut 32 (.cmb {
      op := op, i32 := i32, value := v, owner := t, ownerWord := BitVec.ofNat 11 (wfield w 10 0), chan := wfield w 21 16
      count := wfield w 40 32 + 1, id := wfield w 63 48, tenant := s.act.tenant, launch := s.act.launch, pid := s.act.pid, src := s.cur
      wicket := decide (s.share = 2) && decide (t < 512) })
    pure .next
def execCmbMax (i32 : Bool) (b a : Reg) : Meaning := cmbForm 0 i32 b a
def execCmbMin (i32 : Bool) (b a : Reg) : Meaning := cmbForm 1 i32 b a
def execCmbAdd (b a : Reg) : Meaning := cmbForm 5 false b a
def execCmbLgc (op : LgcOp) (b a : Reg) : Meaning :=
  match op with
  | .and => cmbForm 2 false b a
  | .or => cmbForm 3 false b a
  | .xor => cmbForm 4 false b a

/-- x beats y in a maximum or minimum: by value, then by the lower index; a NaN loses to every number (R366). -/
def cmbBeats (isMax i32 : Bool) (x y : Word) : Bool :=
  let a := wfield x 31 0
  let b := wfield y 31 0
  let ka := if f32.isNaN a then none else some (f32.ordKey a)
  let kb := if f32.isNaN b then none else some (f32.ordKey b)
  let idx := decide (wfield x 63 32 < wfield y 63 32)
  if i32 then
    let m := signedOf 32 a
    let n := signedOf 32 b
    if m = n then idx else if isMax then decide (n < m) else decide (m < n)
  else match ka, kb with
    | none, none => idx
    | none, some _ => false
    | some _, none => true
    | some m, some n => if m = n then idx else if isMax then decide (n < m) else decide (m < n)
def cmbCombine (op : Nat) (i32 : Bool) (x y : Word) : Word :=
  match op with
  | 0 => if cmbBeats true i32 y x then y else x
  | 1 => if cmbBeats false i32 y x then y else x
  | 2 => x &&& y
  | 3 => x ||| y
  | 4 => x ^^^ y
  | _ => x + y
def CmbPkt.sameShape (p q : CmbPkt) : Bool :=
  decide (p.op = q.op) && decide (p.i32 = q.i32) && decide (p.chan = q.chan) && decide (p.count = q.count)
/-- The share of the owner that a contribution belongs to. -/
def State.cmbShare (s : State) (p : CmbPkt) : Fin 3 := (s.shareFor p.owner { pid := p.pid, launch := p.launch, wicket := p.wicket }).getD 0
/-- The notification of a complete combine. -/
def cmbMsg (s : State) (e : CmbEntry) (i : Fin 3) : Msg :=
  { launch := e.first.launch, tenant := e.first.tenant, kind := 4, source := s.tileWordAt e.first.owner i, vnet := 2, chan := e.first.chan,
    dest := e.first.ownerWord, dst := e.first.owner,
    body := wordsBody [e.value, BitVec.ofNat 64 (e.first.id + e.n % 2 ^ 10 * 2 ^ 16 + (if e.mismatch then 2 ^ 31 else 0)), 0#64, 0#64] }
/-- An entry that has absorbed a packet: it stays open, or it is complete and notifies its owner (R366). -/
def State.cmbStore (s : State) (e : CmbEntry) (i : Fin 3) : State :=
  let t := e.first.owner
  let others (x : Tile) : List CmbEntry := x.combine.filter fun y => !(decide (y.first.pid = e.first.pid) && decide (y.first.id = e.first.id))
  if e.n < e.first.count then s.modTile t fun x => { x with combine := others x ++ [e] }
  else (s.modTile t fun x => { x with combine := others x }).inject t i (cmbMsg s e i)
/-- A packet reaches its owner's combine unit, behind those of its path: one that finds no entry holds the later ones back. The tenants of a split tile
have their entries apart, two halves of one tenant too (R18, R366, R416). -/
def State.combineArrive (s : State) (n : Nat) : Option State :=
  (s.cnet[n]?).bind fun p =>
    let t := s.tile p.owner
    let i := s.cmbShare p
    let s1 := ({ s with cnet := s.cnet.eraseIdx n }).modShareAt p.owner i fun x => { x with received := x.received + p.n }
    if (s.cnet.take n).any fun q => decide (q.src = p.src) && decide (q.owner = p.owner) then none
    else match t.combine.find? fun e => decide (e.first.pid = p.pid) && decide (e.first.id = p.id) with
    | none =>
      let mine := if t.split then t.combine.countP fun e => decide (e.first.pid = p.pid) else t.combine.length
      if (if t.split then 32 else 64) ≤ mine then none
      else some (s1.cmbStore { first := p, value := p.value, n := p.n } i)
    | some e =>
      if e.first.sameShape p then
        some (s1.cmbStore { e with value := cmbCombine p.op p.i32 e.value p.value, n := e.n + p.n } i)
      else
        let s2 := s1.modTile p.owner fun x => { x with combine := x.combine.map fun y => if y = e then { e with mismatch := true } else y }
        some (s2.post {
          type := 11, tenant := p.tenant, info := p.id, ptile := s.physTile p.owner, ltile := p.ownerWord.toNat })
def execCombineArrival (n : Nat) : Meaning := fun s => event "COMBINE_ARRIVAL" (s.combineArrive n)

end Sys2Proof.Machine
end

