-- ==== Sys2Proof/Machine/Transom.lean ====
section
/-! DEFINITION. The Transom: major 33, the buffer rotation, the host's window and the mirror (R133 to R150). -/

namespace Sys2Proof.Machine

/-! ### Configuration (R134, R135) -/

def cfgSize (c : Rec512) : Nat := resBits c 10 0
def cfgEn (c : Rec512) : Bool := c.getLsbD 15
def cfgWriter (c : Rec512) (t : Nat) : Bool := c.getLsbD (16 + t % 16)
def cfgReader (c : Rec512) (t : Nat) : Bool := c.getLsbD (32 + t % 16)
def cfgStaleAct (c : Rec512) : Nat := resBits c 57 56
def cfgStaleLim (c : Rec512) : Nat := resBits c 127 64
def cfgMirror (c : Rec512) : Bool := c.getLsbD 159
def cfgOwner (c : Rec512) : Nat := resBits c 163 160
def cfgGrant (c : Rec512) : Nat := resBits c 191 176
/-- A get or age of a tenant on a side is permitted (R135). -/
def mayRead (c : Rec512) (tenant : Nat) (reflex : Bool) : Bool := cfgEn c && cfgReader c tenant && c.getLsbD (if reflex then 49 else 48)
/-- A publication of a tenant on a side is permitted; the host needs only its tenant bit (R135). -/
def mayWrite (c : Rec512) (tenant : Nat) (reflex host : Bool) : Bool :=
  cfgWriter c tenant && (host || (cfgEn c && c.getLsbD (if reflex then 51 else 50)))
/-- A configuration with a reserved bit, a wrong size, or staleact 3 (R134, R146). -/
def cfgMalformed (c : Rec512) : Bool :=
  decide (resBits c 511 192 ≠ 0) || decide (resBits c 175 164 ≠ 0) || decide (resBits c 158 128 ≠ 0) || decide (resBits c 63 58 ≠ 0)
    || decide (resBits c 55 52 ≠ 0) || decide (resBits c 14 11 ≠ 0) || decide (cfgStaleAct c = 3)
    || decide (cfgSize c % 8 ≠ 0) || decide (cfgSize c < 8) || decide (1024 < cfgSize c)

/-! ### Headers (R136) -/

/-- The header that a commit stamps. -/
def mkHeader (p : Pub) (version ctime : Nat) : Rec512 :=
  BitVec.ofNat 512 (version % 2 ^ 64 + ctime % 2 ^ 64 * 2 ^ 64 + p.writer.toNat * 2 ^ 128 + (if p.host then 2 ^ 140 else 0)
    + (if p.poison = [] then 0 else 2 ^ 141) + p.tenant % 16 * 2 ^ 144 + p.slot % 2 ^ 12 * 2 ^ 148 + p.payload.length % 2 ^ 16 * 2 ^ 160)
def hdrVersion (h : Rec512) : Nat := resBits h 63 0
def hdrCtime (h : Rec512) : Nat := resBits h 127 64
/-- The reader's copy: the age, and the stale bit of the flag action. -/
def hdrCopy (h : Rec512) (age : Nat) (stale : Bool) : Rec512 := setRec (setRec h 255 192 age) 143 143 (if stale then 1 else 0)

/-! ### The rotation (R137 to R139) -/

def TSlot.newest (x : TSlot) : Option (Fin 4) := (List.finRange 4).find? fun i => decide ((x.bufs.get i).role = .newest)
def TSlot.modBuf (x : TSlot) (i : Fin 4) (f : TBuf → TBuf) : TSlot := { x with bufs := x.bufs.set i.val (f (x.bufs.get i)) i.isLt }
/-- An OLD buffer without a pin becomes FREE: at the end of its last pin, and at the end of the cycle (rows 1 and 5). -/
def TBuf.settle (b : TBuf) : TBuf := if b.role = .old ∧ b.pins = 0 then { b with role := .free } else b
def TSlot.settle (x : TSlot) : TSlot := { x with bufs := x.bufs.map TBuf.settle }
/-- Bytes and poisoned sectors of a buffer's payload. -/
def State.bufBytes (s : State) (slot : Nat) (i : Fin 4) (n : Nat) : List Byte := s.mem.bytes (transomKey slot i.val 0) n
def State.bufPoison (s : State) (slot : Nat) (i : Fin 4) (n : Nat) : List Nat :=
  (List.range ((n + 63) / 64)).filter fun k => s.sectorPoisoned (transomKey slot i.val (64 * k)) 64
def State.setBuf (s : State) (slot : Nat) (i : Fin 4) (bs : List Byte) (bad : List Nat) : State :=
  let base := transomKey slot i.val 0
  { s with mem := s.mem.write base bs,
           flips := freshWords s.flips ((List.range bs.length).map fun k => base + k),
           poison := bad.foldl (fun p k => nInsert (base / 64 + k) p)
             (s.poison.filter fun k => !(decide (base / 64 ≤ k) && decide (k < base / 64 + 16))) }
/-- The Transom reads stored bytes of a slot other than its payloads: soft errors in them are corrected, or poison their sector (R110, R133). -/
def State.senseKeys (s : State) (k n : Nat) : State := s.sense ((List.range n).map fun j => k + j)
def State.senseCfg (s : State) (slot : Nat) : State := s.senseKeys (cfgKey slot) 64
/-- They are written anew; a sector that is written whole is poisoned no longer. -/
def State.freshKeys (s : State) (k n : Nat) : State :=
  { s with flips := freshWords s.flips ((List.range n).map fun j => k + j), poison := s.poison.filter fun p => decide (p ≠ k / 64) || decide (n < 64) }
/-- A publication that the Transom drops (R144). -/
def State.dropPub (s : State) (p : Pub) : State :=
  s.post { type := 9, tenant := p.tenant, info := p.slot, ltile := p.writer.toNat }
/-- Row 4: the next staged publication takes the lowest FREE buffer without a pin; one that finds the slot disabled or is no longer permitted is
dropped (R144). One whose size the slot no longer has is dropped too, with the same event: R144 does not name it (DESIGN CHOICE, log 83). -/
def State.startWriting (s : State) (slot : Nat) : List Pub → State
  | [] => s.setSlotT slot { s.slotT slot with staged := [] }
  | p :: rest =>
    let x := s.slotT slot
    if x.writing.isSome then s
    else if !cfgEn x.cfg || !mayWrite x.cfg p.tenant p.reflexSide p.host || decide (p.payload.length ≠ cfgSize x.cfg) then (s.dropPub p).startWriting slot rest
    else match (List.finRange 4).find? fun i => decide ((x.bufs.get i).role = .free) && decide ((x.bufs.get i).pins = 0) with
      | none => s.setSlotT slot { x with staged := p :: rest }
      | some i =>
        (s.setBuf slot i p.payload p.poison).setSlotT slot
          { (x.modBuf i fun b => { b with role := .writing }) with writing := some p, staged := rest }
def State.nextWriting (s : State) (slot : Nat) : State :=
  let ps := (s.slotT slot).staged
  if ps = [] then s else (s.senseCfg slot).startWriting slot ps
/-- The end of a cycle of the Transom: rows 4 and 5, for every slot. -/
def State.slotsEnd (s : State) : State :=
  s.slots.foldl (fun (st : State) x => let s1 := st.nextWriting x.1; s1.setSlotT x.1 (s1.slotT x.1).settle) s
/-- The order of publications whose staging completes in one cycle: the reflex port, which serves the reflex tiles, the reasoning ports by tile word,
seizing handlers among them, the host functions (R139, R140). -/
def Pub.rank (p : Pub) : Nat := if p.host then 4096 + p.tenant else if isReflex p.src then 0 else 1 + p.writer.toNat
/-- A publication takes its place among the staged ones of its slot. -/
def stageIn (p : Pub) : List Pub → List Pub
  | [] => [p]
  | q :: rest => if q.staged = p.staged ∧ p.rank < q.rank then p :: q :: rest else q :: stageIn p rest
/-- The staging of the n-th released publication completes; those of its sender before it come first (R139, R147). -/
def State.stagingComplete (s : State) (n : Nat) : Option State :=
  (s.pubs[n]?).bind fun p =>
    if (s.pubs.take n).any fun q => decide (q.src = p.src) then none
    else
      let x := s.slotT p.slot
      some ({ s with pubs := s.pubs.eraseIdx n }.setSlotT p.slot { x with staged := stageIn { p with staged := s.cycle } x.staged })
def execTransomStagingComplete (n : Nat) : Meaning := fun s => event "TRANSOM_STAGING_COMPLETE" (s.stagingComplete n)
/-- The share of a tile that a launch's partition holds: that of the seizing handlers where the partition is the reflex partition. -/
def State.targetShare (s : State) (t pid : Nat) : Fin 3 :=
  if s.pidAt t 1 = some pid then 1
  else if decide (t < 512) && (match s.parts.get? pid with | some p => p.isReflex | none => false) then 2 else 0
/-- The message of a commit to the slot's notification target (R145). The spec gives the Transom no tile word: source is the target's own word, and the
sequence number that of the target tile's counter (DESIGN CHOICE, log 83). -/
def State.notifyCommit (s : State) (slot : Nat) (h : Rec512) (p : Pub) : State :=
  match (s.slotT slot).arm with
  | none => s
  | some (t, ch, tenant, w, pid) =>
    let l := s.launchOf (some pid)
    let i := s.targetShare t pid
    let m : Msg := {
      launch := l.num, tenant := tenant, kind := 4, source := w, vnet := 2, chan := ch, dest := w, dst := t,
      body := wordsBody [BitVec.ofNat 64 (hdrVersion h), BitVec.ofNat 64 (hdrCtime h),
        BitVec.ofNat 64 (slot + p.writer.toNat * 2 ^ 16 + p.tenant * 2 ^ 28), 0#64] }
    let s1 := s.modShareAt t i fun x => { x with seq := (x.seq + 1) % 2 ^ 21 }
    { s1 with net := s1.net ++ [{ s.stamp t i m with pid := pid }] }.modLaunchOf pid l.num fun l => { l with transomSent := l.transomSent + 1 }
/-- Publications of a sender commit in the order of their release (R147). -/
def State.earlierPub (s : State) (p : Pub) : Bool :=
  let before (q : Pub) : Bool := decide (q.src = p.src) && decide (q.seq < p.seq)
  s.pubs.any before || s.slots.any fun x => x.2.staged.any before || (match x.2.writing with | some q => before q | none => false)
/-- Row 2: the commit of a slot's WRITING buffer. -/
def State.commitSlot (s : State) (slot : Nat) : Option State :=
  let x := s.slotT slot
  match x.writing, (List.finRange 4).find? fun i => decide ((x.bufs.get i).role = .writing) with
  | some p, some i =>
    if s.earlierPub p then none
    else
      let s0 := (((s.senseCfg slot).senseKeys (counterKey slot) 16).freshKeys (counterKey slot) 8).freshKeys (hdrKey slot i.val) 64
      let v := x.version + 1#64
      let h := mkHeader p v.toNat s.dtime
      let x1 := match x.newest with
        | some j => x.modBuf j fun b => { b with role := .old }
        | none => x
      let x2 := { (x1.modBuf i fun b => { b with role := .newest, hdr := h }) with
        version := v, writing := none, swapped := some (s.cycle, x.newest) }
      let s1 := (s0.setSlotT slot x2).notifyCommit slot h p
      some (if cfgMirror x.cfg then { s1 with mirrors := s1.mirrors ++ [(h, p.payload, p.poison)] } else s1)
  | _, _ => none
def execTransomCommit (n : Nat) : Meaning := fun s => event "TRANSOM_COMMIT" (s.commitSlot n)
/-- The buffer that was NEWEST at the start of the cycle (R138 row 3). -/
def TSlot.readable (x : TSlot) (cycle : Nat) : Option (Fin 4) :=
  match x.swapped with
  | some (k, b) => if k = cycle then b else x.newest
  | none => x.newest
/-- Row 1: the oldest pin of a slot ends, in a later cycle than that of its get. A buffer that a get of this cycle may still read stays OLD to the end
of the cycle (rows 3 and 5). -/
def State.pinEnd (s : State) (slot : Nat) : Option State :=
  let x := s.slotT slot
  match x.pinq with
  | [] => none
  | (i, k) :: rest =>
    if s.cycle ≤ k then none
    else
      let free (b : TBuf) : TBuf := if x.readable s.cycle = some i then b else b.settle
      some (s.setSlotT slot { (x.modBuf i fun b => free { b with pins := b.pins - 1 }) with pinq := rest })
def execReadPinEnd (n : Nat) : Meaning := fun s => event "READ_PIN_END" (s.pinEnd n)

/-! ### Requests (R143) -/

/-- What a request reads: the header and whether its sector is poisoned, the payload, its poisoned sectors; a get pins the buffer. Soft errors in them are
corrected, or poison their sector; a header tells of a poisoned sector of its payload (R133, R136). -/
def State.readSlot (s0 : State) (slot size : Nat) (pin : Bool) : State × Rec512 × Bool × List Byte × List Nat :=
  let x := s0.slotT slot
  match x.readable s0.cycle with
  | none => (s0, nullHeader slot, false, List.replicate size 0#8, [])
  | some i =>
    let s := (s0.senseKeys (hdrKey slot i.val) 64).sense ((List.range size).map (transomKey slot i.val))
    let bad := s.bufPoison slot i size
    let h := let h := (x.bufs.get i).hdr; if bad = [] then h else setRec h 141 141 1
    let y := x.modBuf i fun b => { b with hdr := h, pins := if pin then b.pins + 1 else b.pins }
    (s.setSlotT slot { y with pinq := if pin then x.pinq ++ [(i, s0.cycle)] else x.pinq }, h, s.sectorPoisoned (hdrKey slot i.val) 64,
      s.bufBytes slot i size, bad)
def State.ageOf (s : State) (h : Rec512) : Nat := if hdrVersion h = 0 then 2 ^ 64 - 1 else s.dtime - hdrCtime h
/-- A version is older than the slot's limit; the null version always, where there is one (R143). -/
def State.isStale (s : State) (c h : Rec512) : Bool :=
  decide (cfgStaleLim c ≠ 0) && (decide (hdrVersion h = 0) || decide (cfgStaleLim c < s.ageOf h))
/-- The window and the log of a get whose slot has a new size since its issue: they are checked for the new one (R146; DEDUCED, log 68). -/
def State.getFits (s : State) (r : TmReq) (size : Nat) : Except Nat State :=
  if size = r.size then .ok s
  else match s.checkWindow r.tile r.sh (s.slotAt r.tile r.c).act.keep r.dst (64 + size) .store with
  | some k => .error k
  | none => match s.logLines r.tile r.c r.dst (64 + size) with
    | some s1 => .ok s1
    | none => .error 7
/-- A request is accepted under the configuration that the slot has then: the data of a get go to the port thread of its tile, and its age
returns (R138 row 3, R143, R146, R318). -/
def State.acceptRequest (s : State) (n : Nat) : Option State :=
  (s.tmq[n]?).bind fun r =>
    if ((s.tmq.take n).any fun q => decide (q.tile = r.tile)) || (r.get && decide (16 ≤ (s.tile r.tile).portQ.length)) then none
    else
      let s0 := { s with tmq := s.tmq.eraseIdx n }.senseCfg r.slot
      let c := (s.slotT r.slot).cfg
      let size := cfgSize c
      if !mayRead c r.tenant r.reflexSide then
        some (s0.sendReply r.tile r.c r.id (.refused { code := 0x27, reason := 2, faddr := r.word }))
      else if r.get then
        match s0.getFits r size with
        | .error k => some (s0.sendReply r.tile r.c r.id (.refused { code := 0x25, reason := k, faddr := spadFaddr r.dst 0 k }))
        | .ok s1 =>
          let x := s1.readSlot r.slot size true
          let age := s.ageOf x.2.1
          let stale := s.isStale c x.2.1
          let flag := stale && decide (cfgStaleAct c = 1)
          let bs := leBytes 64 (hdrCopy x.2.1 age flag).toNat ++ x.2.2.2.1
          let bad := (if x.2.2.1 then List.range 64 else [])
            ++ x.2.2.2.2.flatMap fun k => (List.range (min 64 (size - 64 * k))).map fun j => 64 + 64 * k + j
          let v := BitVec.ofNat 64 (if flag then age % 2 ^ 63 + 2 ^ 63 else age)
          let rep : Reply := if stale && decide (cfgStaleAct c = 2) then .stale v r.slot else .value v
          some (x.1.modTile r.tile fun y => { y with portQ := y.portQ ++ [.land r.c r.sh r.id r.dst bs bad rep] })
      else
        let x := s0.readSlot r.slot 0 false
        some (x.1.sendReply r.tile r.c r.id (.value (BitVec.ofNat 64 (s.ageOf x.2.1))))
def execTransomRequestAccept (n : Nat) : Meaning := fun s => event "TRANSOM_REQUEST_ACCEPT" (s.acceptRequest n)

/-! ### Major 33 (R142 to R146) -/

/-- A Transom fault: the control word is its detail (R389). -/
def tmFault {α : Type} (reason : Nat) (w : Word) : Exec α := stop (.trap { code := 0x27, reason := reason, faddr := w })
def tmCheck (ok : Bool) (reason : Nat) (w : Word) : Exec Unit := if ok then pure () else tmFault reason w
/-- The control word's slot and address. -/
def tmWord (w : Word) (fields : List (Nat × Nat)) (addr : Bool) : Exec (Nat × Nat) := do
  requireOperand (onlyBits w fields)
  tmCheck (!addr || decide (wfield w 51 32 % 64 = 0)) 1 w
  pure (wfield w 11 0, wfield w 51 32)
def execTmPub (now : Bool) (b : Reg) : Meaning :=
  issue { srcs := [b] } do
    let w ← rd b
    let (slot, a) ← tmWord w [(51, 32), (11, 0)] true
    let s ← get
    let c := (s.slotT slot).cfg
    let n := cfgSize c
    let _ ← checkWin s.cur 0 a n .load
    tmCheck (mayWrite c s.act.tenant s.reflexSide false) 2 w
    tmCheck (!(cfgMirror c && decide (s.sys.role = 2))) 3 w
    ownWait a n
    update fun s => s.senseWin s.cur s.share a n
    let s ← get
    let bad := (List.range ((n + 63) / 64)).filter fun k => s.winPoisoned s.cur s.share (a + 64 * k) (min 64 (n - 64 * k))
    let p : Pub := {
      slot := slot, payload := s.readWin s.cur s.share a n, poison := bad, tenant := s.act.tenant, launch := s.act.launch, pid := s.act.pid
      writer := s.tileWord, host := false, reflexSide := s.reflexSide, src := s.cur }
    if now then
      releaseWait 3
      update fun s => s.releasePub p
      markNonReplayable
    else appendOut (16 + n) (.pub p)
    pure .next
/-- Send a request and hold the context until its value returns. -/
def tmRequest (get' : Bool) (b a : Reg) : Meaning :=
  issue { srcs := [b], dsts := [a] } do
    let w ← rd b
    let (slot, ea) ← tmWord w (if get' then [(51, 32), (11, 0)] else [(11, 0)]) get'
    let s ← get
    let c := (s.slotT slot).cfg
    let n := if get' then cfgSize c else 0
    if get' then
      let _ ← checkWin s.cur 0 ea (64 + n) .store
      ownWait ea (64 + n)
      logWrite ea (64 + n)
    tmCheck (mayRead c s.act.tenant s.reflexSide) 2 w
    let id ← freshId
    update fun s => { s with tmq := s.tmq ++ [{
      tile := s.cur, c := s.ctx, sh := s.share, act := s.act.id, tenant := s.act.tenant, reflexSide := s.reflexSide
      id := id, slot := slot, get := get', dst := ea, size := n, word := w }] }
    pendingLoad { id := id, d := a, blocking := true, acq := true, global := false, pc := s.half.pc, faddr := w }
    pure .next
def execTmGet (b a : Reg) : Meaning := tmRequest true b a
def execTmAge (b a : Reg) : Meaning := tmRequest false b a
def execTmArm (b : Reg) : Meaning :=
  issue { srcs := [b] } do
    let w ← rd b
    let (slot, _) ← tmWord w [(63, 63), (37, 32), (26, 16), (11, 0)] false
    let t ← targetTile (wfield w 26 16)
    let s ← get
    tmCheck (cfgReader (s.slotT slot).cfg s.act.tenant) 2 w
    let arm := (t, wfield w 37 32, s.act.tenant, BitVec.ofNat 11 (wfield w 26 16), s.pid.getD 16)
    update fun s => (s.freshKeys (counterKey slot + 8) 8).setSlotT slot { s.slotT slot with arm := if w.getLsbD 63 then some arm else none }
    markNonReplayable
    pure .next
/-- Readers and writers lie within the grant (R134). -/
def cfgGranted (c : Rec512) : Bool := decide ((resBits c 47 32 ||| resBits c 31 16) &&& cfgGrant c = resBits c 47 32 ||| resBits c 31 16)
/-- The status of a configuration written by a tenant, in the order of the table (R146). -/
def cfgStatus (old new : Rec512) (tenant : Nat) : Nat :=
  if cfgMalformed new then 1
  else if cfgOwner old ≠ tenant then 2
  else if resBits old 191 176 ≠ resBits new 191 176 ∨ resBits old 163 160 ≠ resBits new 163 160 ∨ cfgMirror old ≠ cfgMirror new then 3
  else if !cfgGranted new then 4
  else if cfgEn old ∧ cfgSize old ≠ cfgSize new then 5
  else 0
/-- A configuration takes effect; a new size frees the buffers, and the slot holds the null version (R146). A slot that is disabled and enabled again with
the same size keeps its version: "since it was enabled with its current size" in R137 could also mean the null version (DESIGN CHOICE, log 83). -/
def TSlot.configure (x : TSlot) (slot : Nat) (c : Rec512) : TSlot :=
  if cfgSize c = cfgSize x.cfg then { x with cfg := c }
  else { x with cfg := c, bufs := (TSlot.blank slot).bufs, writing := none, pinq := [], swapped := none }
/-- The configuration of a slot is written: a publication that a new size cuts off in its writing is dropped (R144, R146). -/
def State.configureSlot (s : State) (slot : Nat) (c : Rec512) : State :=
  let x := s.slotT slot
  let s1 := (s.freshKeys (cfgKey slot) 64).setSlotT slot (x.configure slot c)
  if cfgSize c = cfgSize x.cfg then s1 else match x.writing with | some p => s1.dropPub p | none => s1
def execTmCfg (rd' : Bool) (b a : Reg) : Meaning :=
  issueValue { srcs := [b], dsts := [a] } a do
    let w ← rd b
    let (slot, ea) ← tmWord w [(51, 32), (11, 0)] true
    let s ← get
    let x := s.slotT slot
    if rd' then do
      let _ ← checkWin s.cur 0 ea 64 .store
      update fun s => s.senseCfg slot
      storeOwn ea (leBytes 64 x.cfg.toNat)
      update fun s =>
        if s.sectorPoisoned (cfgKey slot) 64 then { s with poison := nInsert (s.spad s.cur s.share ea / 64) s.poison } else s
      pure 0#64
    else do
      let _ ← checkWin s.cur 0 ea 64 .load
      let bs ← readOwn ea 64
      update fun s => s.senseCfg slot
      let c : Rec512 := BitVec.ofNat 512 (leNat bs)
      let st := cfgStatus x.cfg c s.act.tenant
      if st = 0 then
        update fun s => s.configureSlot slot c
        markNonReplayable
      pure (BitVec.ofNat 64 st)

/-! ### The host's window and the mirror (R149, R150) -/

/-- A refused host request (R149). -/
def State.refuseHost (s : State) (fn slot : Nat) : State := s.post { type := 9, tenant := fn, info := slot, ltile := 0x7FF }
/-- A doorbell's slot number. -/
def doorSlot (v : Word) : Nat := wfield v 11 0
/-- PUBDB publishes the staged bytes into a slot. R144 gives the mirror fault to tm.pub alone; a host's request to a mirrored slot on a standby is refused
like any other (DESIGN CHOICE, log 83). -/
def State.hostPublish (s0 : State) (fn : Nat) (v : Word) : State :=
  let slot := doorSlot v
  let s := if s0.refuses fn then s0 else s0.senseCfg slot
  let c := (s.slotT slot).cfg
  if s.refuses fn then s
  else if !mayWrite c fn false true || (cfgMirror c && decide (s.sys.role = 2)) then s.refuseHost fn slot
  else
    let st := (s.fn fn).stage
    let bs := (List.range (cfgSize c)).map fun i => (st[i]?).getD 0#8
    s.releasePub { slot := slot, payload := bs, poison := [], tenant := fn, launch := 0, writer := 0x7FF#11, host := true,
                   reflexSide := false, src := 4096 + fn }
def execPubdb (fn : Fin 16) (v : BitVec 64) : Meaning := fun s => event "PUBDB" (some (s.hostPublish fn.val v))
/-- GETDB delivers the payload, and after it the header, to host memory at GETADDR. R149 calls GETADDR 64-byte aligned and gives no effect for one that is
not: the bytes are written at the address as it stands (DESIGN CHOICE, log 83). -/
def State.hostGet (s0 : State) (fn : Nat) (v : Word) : State :=
  let slot := doorSlot v
  let s := if s0.refuses fn then s0 else s0.senseCfg slot
  let c := (s.slotT slot).cfg
  let f := s.fn fn
  if s.refuses fn then s
  else if !cfgReader c fn then s.refuseHost fn slot
  else
    let x := s.readSlot slot (cfgSize c) true
    let age := s.ageOf x.2.1
    let stale := s.isStale c x.2.1 && decide (cfgStaleAct c = 1)
    let a := hostKey fn f.getaddr.toNat
    let place (k : Nat) (bs : List Byte) : OutWrite :=
      { src := { tile := 4096 + fn, c := 0, pid := 17 }, cells := bs.zipIdx.map fun b => (k + b.2, b.1, 0xFF#8), seq := x.1.fresh }
    { (x.1.modFn fn fun f => { f with outbound := f.outbound ++ [place (a + 64) x.2.2.2.1,
      place a (leBytes 64 (hdrCopy x.2.1 age stale).toNat)] }) with fresh := x.1.fresh + 1 }
def execGetdb (fn : Fin 16) (v : BitVec 64) : Meaning := fun s => event "GETDB" (some (s.hostGet fn.val v))
/-- The spare installs a mirrored version with its version and ctime, in commit order (R150). -/
def State.installMirror (s : State) (h : Rec512) (bs : List Byte) (bad : List Nat) : Option State :=
  let slot := resBits h 159 148
  let x := s.slotT slot
  if s.sys.role ≠ 2 ∨ hdrVersion h ≤ x.version.toNat then none
  else match (List.finRange 4).find? fun i => decide ((x.bufs.get i).role = .free) && decide ((x.bufs.get i).pins = 0) with
    | none => none
    | some i =>
      let x1 := match x.newest with
        | some j => x.modBuf j fun b => { b with role := .old }
        | none => x
      let x2 := { x1.modBuf i fun b => { b with role := .newest, hdr := setRec h 142 142 1 } with
        version := BitVec.ofNat 64 (hdrVersion h)
        swapped := some (s.cycle, x.newest) }
      some (((s.freshKeys (counterKey slot) 8).freshKeys (hdrKey slot i.val) 64).setBuf slot i (bs.take 1024) (bad.filter fun k => decide (k < 16)) |>.setSlotT slot x2)
def execMirrorInstall (h : BitVec 512) (d : MirrorData) : Meaning := fun s => event "MIRROR_INSTALL" (s.installMirror h d.bytes d.bad)

end Sys2Proof.Machine
end

