-- ==== Sys2Proof/Machine/Reflex.lean ====
section
/-! DEFINITION. The reflex array's timers and the Wicket: major 35, arming, seizure, release (R372 to R386). -/

namespace Sys2Proof.Machine

/-! ### Timers (R372 to R375) -/

def Tile.modTimer (t : Tile) (i : Fin 4) (f : Timer → Timer) : Tile := { t with timers := t.timers.set i.val (f (t.timers.get i)) i.isLt }
/-- The time of the next edge. -/
def Timer.edge (x : Timer) : Nat := x.phase + x.next * x.period
/-- The least n with phase + n × period ≥ now. -/
def firstEdge (phase period now : Nat) : Nat := if now ≤ phase then 0 else (now - phase + period - 1) / period
/-- Illegal at decode where there are no timers (R374). -/
def State.noTimers (s : State) : Bool := !isReflex s.cur
def execTmrSet (b a : Reg) : Meaning := fun s0 =>
  issue { srcs := [a, b], illegal := s0.noTimers } (do
    let w ← rd a
    let p ← rd b
    requireOperand (onlyBits w [(1, 0), (13, 8), (15, 15)] && decide (1000 ≤ p.toNat) && decide (p.toNat < 2 ^ 32))
    let s ← get
    let h := (s.tile s.cur).handlers.get (Fin.ofNat 64 (wfield w 13 8))
    requireOperand (h.valid && decide (h.tenant = s.act.tenant))
    let i := Fin.ofNat 4 (wfield w 1 0)
    let e0 := s.half.e[0].toNat
    let on (x : Timer) : Timer := {
      en := true, chan := wfield w 13 8, period := p.toNat, phase := e0, next := firstEdge e0 p.toNat (s.dtimeIn 4), held := x.held }
    update fun s => s.modTile s.cur fun t => t.modTimer i fun x => if w.getLsbD 15 then on x else { x with en := false }
    pure .next) s0
def execTmrRd (b a : Reg) : Meaning := fun s0 =>
  issueValue { srcs := [b], dsts := [a], illegal := s0.noTimers } a (do
    let w ← rd b
    requireOperand (onlyBits w [(3, 0)])
    let s ← get
    let x := (s.tile s.cur).timers.get (Fin.ofNat 4 (wfield w 1 0))
    pure (BitVec.ofNat 64 (match wfield w 3 2 with
      | 0 => x.period
      | 1 => x.edge
      | 2 => x.next
      | _ => x.missed))) s0

/-- An item of the timer is queued or live, or waits for an inbox entry. -/
def Tile.timerBusy (t : Tile) (i : Fin 4) : Bool :=
  (t.timers.get i).held.isSome || t.entries.any fun m => decide (m.timer = i.val + 1)
/-- The timer whose edge is due first. -/
def State.dueTimer (s : State) (t : Nat) : Option (Fin 4) :=
  let due := (List.finRange 4).filter fun i =>
    let x := (s.tile t).timers.get i
    x.en && decide (x.edge ≤ s.dtime)
  due.find? fun i => due.all fun j =>
    decide (((s.tile t).timers.get i).edge < ((s.tile t).timers.get j).edge)
      || (decide (((s.tile t).timers.get i).edge = ((s.tile t).timers.get j).edge) && decide (i ≤ j))
/-- The item of an edge (R373). -/
def State.timerItem (s : State) (t : Nat) (i : Fin 4) : Msg :=
  let x := (s.tile t).timers.get i
  let l := s.launchOf (s.pidAt t 0)
  let w := s.tileWordAt t 0
  let n2 := if x.gated = 0 then x.missed else x.gated
  { launch := l.num, tenant := l.tenant, kind := 4, source := w, vnet := 2, chan := x.chan, dest := w, dst := t, timer := i.val + 1, arrival := s.cycle
    body := wordsBody [BitVec.ofNat 64 x.edge, BitVec.ofNat 64 x.next, BitVec.ofNat 64 n2, 0#64] }
/-- An item is placed on its channel, and counts as sent and received (R373, R327). -/
def State.placeTimerItem (s : State) (t : Nat) (m : Msg) : State :=
  let m1 := s.stamp t 0 m
  s.modTile t fun y =>
    let y1 := y.modShare 0 fun z => { z with seq := (z.seq + 1) % 2 ^ 21, sent := z.sent + 1, received := z.received + 1 }
    { y1 with inbox := y1.inbox ++ [m1] }
/-- An item takes its inbox entry, or waits for one (R305, R373; log 72). -/
def State.offerTimerItem (s : State) (t : Nat) (i : Fin 4) (m : Msg) : State :=
  if s.inboxRoom t m then (s.placeTimerItem t m).modTile t fun y => y.modTimer i fun x => { x with held := none }
  else s.modTile t fun y => y.modTimer i fun x => { x with held := some m }
/-- The waiting item of a timer for which there is an entry now. -/
def State.heldTimer (s : State) (t : Nat) : Option (Fin 4 × Msg) :=
  (List.finRange 4).findSome? fun i => match ((s.tile t).timers.get i).held with
    | some m => if s.inboxRoom t m then some (i, m) else none
    | none => none
/-- Every edge of its period timer reloads the seizure budget of a bay (R384). -/
def State.reloadBudgets (s : State) (t : Nat) (i : Fin 4) : State :=
  { s with bays := s.bays.map fun b =>
      (b.1, if b.2.wrec.getLsbD 0 && decide (resBits b.2.wrec 138 128 = (s.tileWordAt t 0).toNat) && decide (resBits b.2.wrec 140 139 = i.val)
        then { b.2 with sbrem := resBits b.2.wrec 191 160 } else b.2) }
/-- The tile of the control timer. -/
def Sys.controlTile (y : Sys) : Nat := 1024 + y.ctile % 32
/-- An edge of the control timer of an attached module is a control edge, but for a suspended one (R452, R460). -/
def State.controlDue (s : State) (t : Nat) (i : Fin 4) : State :=
  if s.sys.role ≠ 0 ∧ !s.sys.suspended ∧ t = s.sys.controlTile ∧ i.val = s.sys.ctimer then
    s.modSys fun y => { y with edgesDue := y.edgesDue ++ [((s.tile t).timers.get i).next] }
  else s
/-- An edge: an item, a missed edge, or on a standby a gated one; during a suspension every edge is missed (R373, R454, R460). -/
def State.timerEdge (s : State) (t : Nat) (i : Fin 4) : State :=
  let s1 :=
    if s.sys.suspended then s.modTile t fun y => y.modTimer i fun x => { x with missed := x.missed + 1 }
    else if s.sys.role = 2 then s.modTile t fun y => y.modTimer i fun x => { x with gated := x.gated + 1 }
    else if (s.tile t).timerBusy i then s.modTile t fun y => y.modTimer i fun x => { x with missed := x.missed + 1 }
    else (s.offerTimerItem t i (s.timerItem t i)).modTile t fun y => y.modTimer i fun x => { x with gated := 0 }
  ((s1.reloadBudgets t i).controlDue t i).modTile t fun y => y.modTimer i fun x => { x with next := x.next + 1 }
/-- The next edge of a tile's timers, or the placing of an item that has waited. -/
def State.timerEvent (s : State) (t : Nat) : Option State :=
  match s.dueTimer t with
  | some i => some (s.timerEdge t i)
  | none => (s.heldTimer t).map fun h => s.offerTimerItem t h.1 h.2
def execTimerEdge (t : Nat) : Meaning := fun s => event "TIMER_EDGE" (s.timerEvent t)

/-! ### Pools of power tokens (R337, R458) -/

def State.armedBays (s : State) : Nat := s.bays.countP fun b => decide (b.1 < 32) && b.2.wrec.getLsbD 0
/-- Tokens of each bay's pool at a cap in units of 0.25 W with so many bays armed. -/
def poolOf (cap armed : Nat) : Nat := (4 * cap - 16 * (70 + 11 * armed)) / 32
/-- The system core writes every reasoning bay's pool. -/
def State.setPools (s : State) : State :=
  (List.range 32).foldl (fun (st : State) b => st.modBay b fun y => { y with pool := poolOf s.sys.cap s.armedBays }) s

/-! ### Arming (R376, R377) -/

/-- Zero a range of a store: bytes, poison and dirty bits. -/
def State.zeroRange (s : State) (key n : Nat) : State :=
  { s with
    mem := s.mem.filter fun p => !(decide (key ≤ p.1) && decide (p.1 < key + n)),
    poison := clearSectors s.poison key n,
    flips := s.flips.filter fun f => !(decide (key ≤ f.1 * 8) && decide (f.1 * 8 < key + n)),
    dirty := s.dirty.filter fun l => !(decide (key ≤ l * 256) && decide (l * 256 + 256 ≤ key + n)) }
/-- The Wicket reserve of a tile: upper quarter, B-store window, accumulator rows, engine and copy channels (R269, R378); its
sequence counter and its Sent and Received counts stay those of the reflex launch (R304, R327). -/
def State.clearReserve (s : State) (t : Nat) : State :=
  let s1 := if (s.tile t).split then (s.zeroRange (spadKey t 0x60000) 0x20000).zeroRange (spadKey t 0xE0000) 0x20000
    else s.zeroRange (spadKey t 0xC0000) 0x40000
  let s2 := (s1.zeroRange (bstoreKey t 0x380000) 0x80000).zeroRange (accKey t 128 0) (32 * 256)
  s2.modTile t fun x => {
    x with
    engines := x.engines.set 2 {}
    wchans := Vector.replicate 4 {}
    shares := x.shares.set 2 { seq := (x.share 2).seq, sent := (x.share 2).sent, received := (x.share 2).received }
    codeLen := x.codeLen.set 2 0 }
/-- A Wicket channel entry whose reserved bits or pc make it malformed (R3, R376). -/
def wchReserved (e : Nat) : Bool := decide (bits e 62 58 ≠ 0) || decide (bits e 0 0 = 1)
/-- A record that the reserved bits, the timer's tile word of an armed bay or a channel's pc make malformed (R3, R376). -/
def wrecMalformed (r : Rec512) : Bool :=
  decide (resBits r 511 448 ≠ 0) || decide (resBits r 159 141 ≠ 0) || decide (resBits r 95 8 ≠ 0) || decide (resBits r 3 1 ≠ 0)
    || (r.getLsbD 0 && (decide (resBits r 138 128 < 1024) || decide (1056 ≤ resBits r 138 128)))
    || (List.range 4).any fun w => wchReserved (wchEntry r w)
/-- The reflex partition. -/
def State.reflexPart (s : State) : Option (Nat × Part) := s.parts.find? fun p => p.2.isReflex
/-- A bay holds an upper-quarter launch. -/
def State.holdsUq (s : State) (b : Nat) : Bool :=
  (List.range 16).any fun i => let t := bayTile b i; (s.launchOf (s.pidAt t 0)).uq || (s.launchOf (s.pidAt t 1)).uq
/-- Steps 4 and 6 of arming need not wait: out-buffers fit their share, no activation occupies half 1, and the messages of the tile, or of each half
of it, hold no more shared entries than ordinary work keeps (R305, R377). -/
def State.armReady (s : State) (b : Nat) : Bool :=
  (List.range 16).all fun i =>
    let t := bayTile b i
    let x := s.tile t
    let fits (j : Fin 3) : Bool :=
      decide ((x.share j).out.length ≤ (if x.split then 12 else 24)) && decide (outBytes (x.share j).out ≤ (if x.split then 1536 else 3072))
    let spare (b : Bool) : Bool := decide (sharedUse 4 (x.entries.filter fun m => s.onB t m == b) ≤ 48)
    fits 0 && fits 1 && (List.finRange 8).all (fun c => decide ((x.ctx c).s1.phase = .free))
      && (if x.split then spare false && spare true else decide (sharedUse 8 x.entries ≤ 96))
/-- The weights that an arming writes into the reserve: the B-store sections of the reflex launch. R377 names no other source; where the launch has none,
they are what the hypervisor's arming brings (R479), a free value (DESIGN CHOICE, log 48). -/
def Launch.reserveWeights (l : Launch) (b : Nat) : List (Nat × List Byte) :=
  if l.weights = [] then (Config.armWeights b).filter fun w => decide (w.1 + w.2.length ≤ 0x80000) else l.weights
/-- What arming installs on a tile. -/
def State.armTile (s : State) (t pid : Nat) (l : Launch) : State :=
  let s1 := s.clearReserve t
  let s2 := (l.reserveWeights (bayOf t)).foldl (fun (st : State) w => { st with mem := st.mem.write (bstoreKey t (0x380000 + w.1)) w.2 }) s1
  let s3 := { s2 with mem := (s2.mem.write (codeKey t (codeOffset 2)) l.wcode).write (s2.spad t 2 0) l.wshapes }
  s3.modTile t fun x =>
    let x1 := x.modShare 2 fun y => { y with pid := some pid, bayMask := 0xFFFF#16 }
    { x1 with codeLen := x1.codeLen.set 2 l.wcode.length, ctxs := x1.ctxs.map fun c => { c with cur := false } }
/-- Arm a bay whose wait is over. -/
def State.armBay (s : State) (b : Nat) (r : Rec512) : State :=
  match s.reflexPart with
  | none => s
  | some (pid, p) =>
    let l := match p.launch with
      | some l => if l.tenant = resBits r 7 4 then l else {}
      | none => {}
    let s1 := (List.range 16).foldl (fun (st : State) i => st.armTile (bayTile b i) pid l) s
    (s1.modBay b fun y => { y with wrec := r, sbrem := resBits r 191 160, reqs := [], disarm := false, relPending := false }).setPools
/-- Disarm a bay that no seizure holds. -/
def State.disarmBay (s : State) (b : Nat) : State :=
  let s1 := (List.range 16).foldl (fun (st : State) i => st.clearReserve (bayTile b i)) s
  (s1.modBay b fun y => { y with wrec := 0#512, disarm := false, sbrem := 0 }).setPools

/-! ### Seizure (R379, R380) -/

/-- A notification of a Wicket unit to the notify channel of a seize (R379, R383). -/
def State.wicketNote (s : State) (b t ch : Nat) (ws : List Word) : State :=
  let p := (s.part (s.pidAt t 0)).getD { desc := 0#512 }
  let w := s.tileWordAt t 0
  (s.injectUnit t 0 {
    launch := (p.launch.getD {}).num, tenant := descTenant p.desc, kind := 4, source := w, vnet := 2, chan := ch, dest := w, dst := t,
    body := wordsBody ws }).modBay b fun y => { y with sent := y.sent + 1 }
/-- The status of a request (R379). -/
def State.seizeStatus (s : State) (b : Nat) (q : SeizeReq) : Nat :=
  let y := s.bay b
  let tenant := match s.part (s.pidAt q.tile 0) with | some p => descTenant p.desc | none => 16
  if !y.wrec.getLsbD 0 || y.disarm then 1
  else if !y.wrec.getLsbD (96 + q.tile % 32) || decide (tenant ≠ resBits y.wrec 7 4) || !wchValid y.wrec (wfield q.word 9 8) then 2
  else if y.seized then 3
  else if y.sbrem < 256 then 4
  else 0
/-- The go message of an accepted seizure on a tile: it takes the first of the 8 entries set aside there, since no item of the reflex tenant
is queued on a bay that is not seized (R305, R378, R380, R383). -/
def State.wicketGo (s : State) (b : Nat) (q : SeizeReq) (t : Nat) : State :=
  let l := s.launchOf (s.pidAt q.tile 0)
  let w := s.tileWordAt q.tile 0
  let sh := (s.tile q.tile).share 0
  let m : Msg := {
    msgid := BitVec.ofNat 32 (w.toNat * 2 ^ 21 + sh.seq % 2 ^ 21), launch := l.num, pid := (s.pidAt q.tile 0).getD 16
    tenant := resBits (s.bay b).wrec 7 4, kind := 0,
    source := w, vnet := 3, replayable := false, chan := wfield q.word 9 8, dest := seizeWord t, dst := t, src := q.tile, wicket := true,
    body := wordsBody [q.arg, BitVec.ofNat 64 (bayIdx t), BitVec.ofNat 64 (s.bay b).seizureNo, w.zeroExtend 64] }
  ((s.modShareAt q.tile 0 fun x => { x with seq := (x.seq + 1) % 2 ^ 21 }).modBay b fun y => { y with sent := y.sent + 1 }).arrive t m
/-- Earlier requests first; of one cycle the lowest tile word (R379). -/
def SeizeReq.before (a b : SeizeReq) : Bool := decide (a.cycle < b.cycle) || (decide (a.cycle = b.cycle) && decide (a.tile < b.tile))
def firstReq : List SeizeReq → Option SeizeReq
  | [] => none
  | x :: r => match firstReq r with
    | none => some x
    | some y => if y.before x then some y else some x
/-- The first request reaches the unit: a release has effect during a seizure only (R379, R386). -/
def State.seizeRequest (s : State) (b : Nat) : Option State :=
  (firstReq (s.bay b).reqs).map fun q =>
    let st := s.seizeStatus b q
    let s1 := s.modBay b fun y => { y with reqs := y.reqs.erase q }
    let ch := wfield q.word 21 16
    if q.rel then s1.modBay b fun y => { y with relPending := y.relPending || y.seized }
    else if st ≠ 0 then
      s1.wicketNote b q.tile ch [BitVec.ofNat 64 st, BitVec.ofNat 64 (s.bay b).seizureNo, BitVec.ofNat 64 (s.bay b).sbrem, 0#64]
    else
      let s2 := s1.modBay b fun y => {
        y with
        seized := true
        relPending := false
        seizureNo := y.seizureNo + 1
        issuer := some (q.tile, ch)
        since := s.cycle }
      let s3 := (List.range 16).foldl (fun (st : State) i => st.wicketGo b q (bayTile b i)) s2
      s3.wicketNote b q.tile ch [0#64, BitVec.ofNat 64 (s3.bay b).seizureNo, BitVec.ofNat 64 (s3.bay b).sbrem, 0#64]
def execSeizeRequest (bay : Nat) : Meaning := fun s => event "SEIZE_REQUEST" (s.seizeRequest bay)

/-! ### Release (R383, R384) -/

/-- Nothing of the seizing work remains on a tile. -/
def State.wicketIdle (s : State) (t : Nat) : Bool :=
  let x := s.tile t
  (List.finRange 8).all (fun c => decide ((x.ctx c).s1.phase = .free)) && x.inbox.all (fun m => !m.wicket) && decide ((x.share 2).out = [])
    && decide ((x.engine 2).queue = []) && decide ((x.engine 2).entering = [])
    && x.acks.all fun a => decide (a.sh ≠ 2)
def State.wicketTransfers (s : State) (b : Nat) : Bool :=
  s.transfers.any fun x => decide (x.part = 2) && decide (x.tile < 512) && decide (bayOf x.tile = b)
/-- The unfreeze: half 0 is current again, and a pending disarming takes effect (R377, R383). -/
def State.unfreeze (s : State) (b : Nat) : State :=
  let s1 := (List.range 16).foldl (fun (st : State) i => st.modTile (bayTile b i) fun x =>
    { x with ctxs := x.ctxs.map fun c => { c with cur := false, s1 := {} } }) s
  let s2 := s1.modBay b fun y => { y with seized := false, relPending := false, issuer := none }
  let y := s.bay b
  let s3 := match y.issuer with
    | some i => s2.wicketNote b i.1 i.2 [5#64, BitVec.ofNat 64 y.seizureNo, BitVec.ofNat 64 (s.cycle - y.since), 0#64]
    | none => s2
  if y.disarm then s3.disarmBay b else s3
def State.wicketRelease (s : State) (b : Nat) : Option State :=
  let y := s.bay b
  if y.seized && y.relPending && (List.range 16).all (fun i => s.wicketIdle (bayTile b i)) && !s.wicketTransfers b then some (s.unfreeze b)
  else none
def execWicketRelease (bay : Nat) : Meaning := fun s => event "WICKET_RELEASE" (s.wicketRelease bay)
/-- A seizing activation that is ended by a forced release. -/
def Slot.forceEnd (x : Slot) (no : Nat) : Slot :=
  match x.phase with
  | .free => x
  | .aborting => x
  | _ => x.beginAbort x.half.pc { code := 0x29, reason := 1, faddr := BitVec.ofNat 64 no }
/-- The queued items of a seizure that a forced release drops into the dead-message area. -/
def State.dropWicketItems (s : State) (t : Nat) : State :=
  let ms := (s.tile t).inbox.filter fun m => m.wicket
  let s1 := s.modTile t fun x => { x with inbox := x.inbox.filter fun m => !m.wicket }
  ms.foldl (fun (st : State) m => st.moveDeadLast t 2 m 4) s1
/-- Seizing work that a forced release has still to end: activations, queued items, transfers. -/
def State.seizingWork (s : State) (b : Nat) : Bool :=
  (List.range 16).any (fun i => (s.liveSlots (bayTile b i) 2).any (fun x => decide (x.phase ≠ .aborting))
      || (s.tile (bayTile b i)).inbox.any fun m => m.wicket)
    || s.transfers.any fun x => decide (x.part = 2) && decide (x.tile < 512) && decide (bayOf x.tile = b) && !x.cancelReq
      && (match x.phase with | .ended _ => false | _ => true)
/-- The counter has reached 64: with or without a wkt.rel before it, every seizing activation aborts and every transfer of theirs is cancelled
(R384). -/
def State.forcedRelease (s : State) (b : Nat) : Option State :=
  let y := s.bay b
  if y.seized && decide (y.sbrem ≤ 64) && (!y.relPending || s.seizingWork b) then
    let s1 := (List.range 16).foldl (fun (st : State) i =>
      (st.modTile (bayTile b i) fun x => { x with ctxs := x.ctxs.map fun c => { c with s1 := c.s1.forceEnd y.seizureNo } }).dropWicketItems
        (bayTile b i)) s
    let mine (x : Transfer) : Bool := decide (x.part = 2) && decide (x.tile < 512) && decide (bayOf x.tile = b)
    some (({ s1 with transfers := s1.transfers.map fun x => Transfer.cancelIf x mine }).modBay b fun y => { y with relPending := true })
  else none
def execForcedRelease (bay : Nat) : Meaning := fun s => event "FORCED_RELEASE" (s.forcedRelease bay)
/-- The seizure budgets fall by one in each cycle of a seizure (R384). -/
def State.chargeSeizures (s : State) : State :=
  { s with bays := s.bays.map fun b => (b.1, if b.2.seized then { b.2 with sbrem := b.2.sbrem - 1 } else b.2) }

/-! ### The forms of R385 -/

def execWktSeize (b a : Reg) : Meaning :=
  issue { srcs := [a, b] } do
    let w ← rd a
    let arg ← rd b
    let s ← get
    requireOperand (onlyBits w [(4, 0), (9, 8), (21, 16)] && isReflex s.cur)
    releaseWait 3
    update fun s => s.modBay (wfield w 4 0) fun y => { y with reqs := y.reqs ++ [{ tile := s.cur, word := w, arg := arg, cycle := s.cycle }] }
    markNonReplayable
    pure .next
/-- wkt.rel: illegal at decode on a reasoning tile outside a seizing handler. -/
def execWktRel (a : Reg) : Meaning := fun s0 =>
  issue { srcs := [a], illegal := !s0.reflexSide } (do
    let w ← rd a
    let s ← get
    requireOperand (onlyBits w [(4, 0)] && (isReflex s.cur || decide (w.toNat = bayOf s.cur)))
    releaseWait 3
    update fun s => s.modBay w.toNat fun y =>
      { y with reqs := y.reqs ++ [{ tile := s.cur, word := w, arg := 0#64, cycle := s.cycle, rel := true }] }
    markNonReplayable
    pure .next) s0
def wktStatWord (y : Bay) : Word :=
  b2w (y.wrec.getLsbD 0) ||| (b2w y.seized <<< 1) ||| (b2w y.relPending <<< 2) ||| (BitVec.ofNat 64 (y.sbrem % 2 ^ 32) <<< 32)
def execWktStat (b a : Reg) : Meaning :=
  issueValue { srcs := [b], dsts := [a] } a do
    let w ← rd b
    requireOperand (onlyBits w [(4, 0)])
    let s ← get
    pure (wktStatWord (s.bay w.toNat))

end Sys2Proof.Machine
end

