-- ==== Sys2Proof/Machine/Launch.lean ====
section
/-! DEFINITION. Launches: idleness, sweeps and the end of a launch; queue teardown; function reset; virtual interrupts
(R125, R327, R328, R428 to R431). -/

namespace Sys2Proof.Machine

/-! ### Virtual interrupts (R428, R429) -/

def State.postInbox (s : State) (f ty data : Nat) : State := s.modFn f fun g => g.postInbox ty data
def State.raise (s : State) (f v : Nat) : State := s.modFn f fun g => g.raise v
/-- A function whose partitions are all saved raises no vector; one is raised when that ends and its inbox is not empty. -/
def State.noteSaved (s : State) (f : Nat) : State :=
  let mine := s.parts.filter fun p => decide (descTenant p.2.desc = f % 16)
  let now := !mine.isEmpty && mine.all fun p => savedState p.2.state
  s.modFn f fun g =>
    let g1 := { g with saved := now }
    if g.saved && !now && !g.vin.isEmpty then g1.raise 0 else g1
def Fn.pause (f : Fn) : Fn := { f with paused := true }
def Fn.resume (f : Fn) : Fn :=
  let g := { f with paused := false }
  if f.paused && !f.vin.isEmpty then g.raise 0 else g

/-! ### What belongs to a launch -/

/-- A message of the launch of a partition; launch numbers are given per partition (R440). -/
def Msg.ofLaunch (m : Msg) (pid : Nat) (l : Launch) : Bool := decide (m.pid = pid) && decide (m.launch = l.num)
def PortOp.ofLaunch (o : PortOp) (pid : Nat) (l : Launch) : Bool :=
  match o with | .put m => m.ofLaunch pid l | .arrive m => m.ofLaunch pid l | _ => false
/-- The data of a tm.get of the share. -/
def PortOp.landsFor (o : PortOp) (i : Fin 3) : Bool := match o with | .land _ sh .. => decide (sh = i) | _ => false
def Transfer.ofLaunch (x : Transfer) (pid : Nat) (l : Launch) : Bool := decide (x.pid = pid) && decide (x.launch = l.num)
def Pub.ofLaunch (p : Pub) (pid : Nat) (l : Launch) : Bool := !p.host && decide (p.pid = pid) && decide (p.launch = l.num)
def CmbPkt.ofLaunch (c : CmbPkt) (pid : Nat) (l : Launch) : Bool := decide (c.pid = pid) && decide (c.launch = l.num)
/-- Idle for a launch on a share of a tile; every bay-remote access, a load too, is among the acknowledgements awaited (R125, R327). -/
def State.tileIdle (s : State) (t : Nat) (i : Fin 3) (pid : Nat) (l : Launch) : Bool :=
  let x := s.tile t
  (s.liveSlots t i).isEmpty && x.inbox.all (fun m => !m.ofLaunch pid l || decide ((m.wicket = true) ≠ (i = 2)))
    && x.portQ.all (fun o => !o.ofLaunch pid l && !o.landsFor i) && decide ((x.share i).out = [])
    && decide ((x.engine i).queue = []) && decide ((x.engine i).entering = [])
    && x.combine.all (fun e => !e.first.ofLaunch pid l || decide ((e.first.wicket = true) ≠ (i = 2)))
    && s.tmq.all (fun r => decide (r.tile ≠ t) || decide (r.sh ≠ i))
    && x.acks.all (fun a => decide (a.sh ≠ i)) && (!isReflex t || x.timers.toList.all fun z => !z.en)
/-- Tiles and shares of a partition, and for the reflex launch those of the seized bays (R327). -/
def State.holdings (s : State) (p : Part) : List (Nat × Fin 3) :=
  p.tiles.map (fun t => (t, p.shareIdx)) ++
    (if p.isReflex then (s.bays.filter fun b => decide (b.1 < 32) && b.2.seized).flatMap fun b => (List.range 16).map fun k => (bayTile b.1 k, 2) else [])
/-- The units outside the tiles are idle for a launch (R327). -/
def State.unitsIdle (s : State) (pid : Nat) (p : Part) (l : Launch) : Bool :=
  s.transfers.all (fun x => !x.ofLaunch pid l) && s.pubs.all (fun q => !q.ofLaunch pid l)
    && s.slots.all (fun x => x.2.staged.all (fun q => !q.ofLaunch pid l) && (match x.2.writing with | some q => !q.ofLaunch pid l | none => true))
    && decide (p.req.ops = []) && s.kvq.all (fun k => decide (k.pid ≠ pid)) && s.cnet.all (fun c => !c.ofLaunch pid l)
    && s.bayOps.all (fun o => decide (o.cmd.pid ≠ pid))
    && (!p.isReflex || s.bays.all fun b => !b.2.seized && decide (b.2.reqs = []))
/-- The sums of the counts (R327, R328). -/
def State.sentSum (s : State) (p : Part) (l : Launch) : Nat :=
  p.tiles.foldl (fun n t => n + ((s.tile t).share p.shareIdx).sent) (l.transomSent + p.req.sent + l.hostSent)
    + (if p.isReflex then s.bays.foldl (fun n b => n + b.2.sent) 0 + s.tiles.foldl (fun n x => n + (x.2.share 2).sent) 0 else 0)
def State.receivedSum (s : State) (p : Part) : Nat :=
  p.tiles.foldl (fun n t => n + ((s.tile t).share p.shareIdx).received) 0
    + (if p.isReflex then s.tiles.foldl (fun n x => n + (x.2.share 2).received) 0 else 0)

/-! ### The end of a launch (R125, R302, R328) -/

/-- Channels of a share. -/
def ownChannel (split : Bool) (i : Fin 3) (c : Nat) : Bool := !split || (decide (32 ≤ c) == decide (i = 1))
/-- What the end of a launch clears on a tile: handlers, barrier counters, timers, counts, marks. -/
def Tile.endLaunch (x : Tile) (i : Fin 3) (pid : Nat) (l : Launch) : Tile :=
  let h := Vector.ofFn fun c : Fin 64 => if ownChannel x.split i c.val then ({} : Handler) else x.handlers.get c
  let x1 := x.modShare i fun y => { y with seq := 0, sent := 0, received := 0, mark := false, bayMask := 0#16 }
  { x1 with
    handlers := h
    inbox := x.inbox.filter fun m => !m.ofLaunch pid l
    barriers := x.barriers.filter fun b => decide ((b.1 / 2048 = 1) ≠ (i = 1))
    timers := (if i = 0 then Vector.replicate 4 {} else x.timers) }
/-- The bays in which a bay-remote mark has met no barrier (R125). -/
def State.badBays (s : State) (p : Part) (l : Launch) : List Nat :=
  (p.tiles.filter fun t => ((s.tile t).share p.shareIdx).mark && !l.bayBarriers.contains (bayOf t)).foldl (fun a t => nInsert (bayOf t) a) []
/-- Zero a range of a window. -/
def State.zeroWin (s : State) (t : Nat) (i : Fin 3) (a n : Nat) : State := s.zeroRange (s.spad t i a) n
/-- The device zeroes the keep regions of a bay whose barrier is missing. -/
def State.zeroKeeps (s : State) (p : Part) (l : Launch) (bays : List Nat) : State :=
  (p.tiles.filter fun t => bays.contains (bayOf t)).foldl (fun (st : State) t =>
    l.keeps.foldl (fun (st : State) k => st.zeroWin t p.shareIdx k.1 k.2.1) st) s
/-- The launch-end message (R328, R447). -/
def endMessage (l : Launch) (status sent : Nat) : Msg :=
  { launch := l.num, tenant := l.tenant, kind := 0, source := 0x7FE#11, vnet := 3, replayable := false, dest := 0x7FF#11,
    body := wordsBody [BitVec.ofNat 64 (l.num % 2 ^ 16 + status * 2 ^ 16), BitVec.ofNat 64 sent, BitVec.ofNat 64 l.dead] }
/-- A partition whose state lies in its image, not on tiles. -/
def Part.away (p : Part) : Bool := savedState p.state || decide (p.state = 8)
/-- The same of the image of a tile. -/
def TileImage.endLaunch (m : TileImage) : TileImage :=
  { m with
    handlers := Vector.replicate 64 {}, inbox := [], barriers := [], combine := []
    share := { m.share with seq := 0, sent := 0, received := 0, mark := false, bayMask := 0#16 } }
/-- The tables of the launch go, and the partition holds none. -/
def State.clearLaunch (s : State) (pid : Nat) (p : Part) (l : Launch) : State :=
  let s1 := if p.away then s else p.tiles.foldl (fun (st : State) t => st.modTile t fun x => x.endLaunch p.shareIdx pid l) s
  let s2 := s1.modPart pid fun q =>
    { q with launch := none, req := { q.req with sent := 0 }, image := if p.away then q.image.map TileImage.endLaunch else q.image }
  if p.isReflex then
    let wk : Tile → Tile := fun x => x.modShare 2 fun y => { y with seq := 0, sent := 0, received := 0 }
    { s2 with bays := s2.bays.map fun b => (b.1, { b.2 with sent := 0 }), tiles := s2.tiles.map fun x => (x.1, wk x.2) }
  else s2
/-- A torn queue whose launches have all ended posts its completion (R431). -/
def State.queueDone (s : State) (f : Nat) (q : Fin 8) : State :=
  let hq := (s.fn f).queues.get q
  if hq.tearing && s.parts.all (fun p => match p.2.launch with
      | some l => decide (l.tenant ≠ f % 16) || decide (l.queue ≠ q.val)
      | none => true) then
    (s.modFn f fun g => { g with queues := g.queues.set q.val { hq with tearing := false } q.isLt }).postInbox f 7 q.val
  else s
/-- The launch ends: its vector and its event, and its message unless it is torn down (R328, R431). -/
def State.endLaunch (s : State) (pid : Nat) (p : Part) (l : Launch) : State :=
  let bad := s.badBays p l
  let status := if bad ≠ [] then 1 else if 0 < l.dead then 2 else if l.killed then 3 else 0
  let m := endMessage l status (s.sentSum p l)
  let s1 := if l.torn then s else { s with hostq := s.hostq ++ [m] }
  let s2 := (s1.postInbox l.tenant 2 (m.word 0).toNat).raise l.tenant 1
  ((s2.zeroKeeps p l bad).clearLaunch pid p l).queueDone l.tenant (Fin.ofNat 8 l.queue)
/-- A sweep of the partition n: every 4096 cycles; the second of two that find it idle with the same equal sums ends the launch (R328). A halted
or saved partition is never idle (R417). -/
def State.sweep (s : State) (pid : Nat) : Option State :=
  (s.parts.get? pid).bind fun p => p.launch.bind fun l =>
    if s.cycle < l.sweepAt + 4096 then none
    else
      let idle := !haltedState p.state && (s.holdings p).all fun x => s.tileIdle x.1 x.2 pid l
      let a := s.sentSum p l
      let b := s.receivedSum p
      let calm := idle && s.unitsIdle pid p l && decide (a = b)
      let accepted := (s.fn l.tenant).outbound.all fun o => decide (o.src.pid ≠ pid)
      let keepOn (last : Option (Nat × Nat)) : Launch := { l with lastSweep := last, sweepAt := s.cycle }
      if calm && decide (l.lastSweep = some (a, b)) then
        (if accepted then some (s.endLaunch pid p l) else some (s.modPart pid fun q => { q with launch := some (keepOn (some (a, b))) }))
      else some (s.modPart pid fun q => { q with launch := some (keepOn (if calm then some (a, b) else none)) })
def execSweep (n : Nat) : Meaning := fun s => event "SWEEP" (s.sweep n)

/-! ### Ending work from outside (R430, R431) -/

/-- Abort the activations for which p holds; those of the cores belong to no tenant. -/
def State.killActs (s : State) (p : Act → Bool) (reason : Nat) : State :=
  let f (x : Slot) : Slot := if p x.act then x.kill reason else x
  { s with tiles := s.tiles.map fun x =>
      if isCore x.1 then x else (x.1, { x.2 with ctxs := x.2.ctxs.map fun c => { c with s0 := f c.s0, s1 := f c.s1 } }) }
/-- Drop queued messages. -/
def State.dropMsgs (s : State) (p : Msg → Bool) : State :=
  { s with tiles := s.tiles.map fun x => if isCore x.1 then x else (x.1, { x.2 with inbox := x.2.inbox.filter fun m => !p m }) }
/-- An undo entry goes back into a saved image: a line that was not dirty is one that the image does not hold (R115, R418). -/
def TileImage.undoOne (m : TileImage) (u : UndoLine) : TileImage :=
  let poison := m.spadPoison.filter fun k => decide (k / 4 ≠ u.line)
  if u.dirty then
    { m with
      spad := Memory.write m.spad (u.line * 256) u.bytes
      spadLines := nInsert u.line m.spadLines
      spadPoison := u.poison.foldl (fun p j => nInsert (4 * u.line + j) p) poison }
  else
    { m with
      spad := m.spad.filter (fun c => decide (c.1 / 256 ≠ u.line)), spadLines := nErase u.line m.spadLines, spadPoison := poison }
/-- The activations that an image holds. -/
def TileImage.slots (m : TileImage) : List Slot :=
  (m.ctxs.toList.flatMap fun c => [c.s0, c.s1]).filter fun x => decide (x.phase ≠ .free)
/-- All of them end by abort: their logs are written back, newest entry first, their items and requests for leave go (R392). -/
def TileImage.abortAll (m : TileImage) : TileImage :=
  let m1 := m.slots.foldl (fun (a : TileImage) x => x.act.undo.foldl TileImage.undoOne a) m
  { m1 with
    ctxs := m1.ctxs.map fun c => { c with s0 := {}, s1 := {} }
    share := { m1.share with out := [] }
    asks := [], halves := [] }
/-- Abort the saved activations of a partition, and cancel their transfers (R430, R431): each posts its event. -/
def State.abortSaved (s : State) (pid : Nat) (p : Part) : State :=
  let s1 := p.image.foldl (fun (st : State) m => m.slots.foldl (fun (st : State) x => st.post {
    type := 1, tenant := x.act.tenant, info := x.act.msg.msgid.toNat, cause := 0x2E, vloc := some 0, ltile := m.logical }) st) s
  s1.modPart pid fun q => {
    q with image := q.image.map TileImage.abortAll, imageTransfers := q.imageTransfers.filter fun x => decide (x.act = 0) }
def State.stopTimers (s : State) (p : Part) : State :=
  if p.isReflex then p.tiles.foldl (fun (st : State) t => st.modTile t fun x => { x with timers := x.timers.map fun z => { z with en := false } }) s
  else s
/-- Messages of a launch for the host are suppressed (R431). -/
def State.dropHost (s : State) (p : Msg → Bool) : State :=
  { s with hostq := s.hostq.filter fun m => !p m, fns := s.fns.map fun f => { f with hcheld := f.hcheld.filter fun m => !p m } }
def State.tearLaunch (s : State) (pid : Nat) (p : Part) (l : Launch) (kill : Bool) : State :=
  let s1 := s.modPart pid fun q =>
    { q with launch := some { l with torn := true, killed := l.killed || kill }, image := q.image.map fun m => { m with inbox := [] } }
  let s2 := ((s1.dropMsgs fun m => m.ofLaunch pid l).dropHost fun m => m.ofLaunch pid l).stopTimers p
  if kill then (s2.killActs (fun a => decide (a.pid = pid) && decide (a.launch = l.num)) 1).abortSaved pid p else s2

/-! ### Host queues (R439, R440) -/

def HostQ.count (q : HostQ) : Nat := 2 ^ (q.size.toNat % 16)
/-- Indices of a queue run modulo the entry count. -/
def HostQ.pending (q : HostQ) : List Nat :=
  if q.size.toNat % 16 < 2 ∨ 10 < q.size.toNat % 16 then []
  else (List.range ((q.tail.toNat + q.count - q.head.toNat) % q.count)).map fun k => (q.head.toNat + k) % q.count
def State.ringKey (f : Nat) (q : HostQ) (i : Nat) : Nat := hostKey (f % 16) (q.base.toNat / 4096 * 4096 + 64 * i)
/-- Word 7 of an entry: launch number, status, done (R439). -/
def State.writeEntry (s : State) (f : Nat) (q : HostQ) (i num status : Nat) : State :=
  { s with mem := s.mem.write (State.ringKey f q i + 56) (leBytes 8 (num % 2 ^ 16 + status * 2 ^ 16 + 2 ^ 63)) }
def State.entryWord (s : State) (f : Nat) (q : HostQ) (i k : Nat) : Nat := leNat (s.mem.bytes (State.ringKey f q i + 8 * k) 8)
def State.setQueue (s : State) (f : Nat) (q : Fin 8) (x : HostQ) : State :=
  s.modFn f fun g => { g with queues := g.queues.set q.val x q.isLt }
/-- Cancel an entry of another queue that waits for a launch of the torn one (R431). -/
def State.cancelWaiter (s : State) (f : Nat) (nums : List (Nat × Nat)) (q : Fin 8) (i : Nat) : State :=
  let x := (s.fn f).queues.get q
  let w := s.entryWord f x i 1
  if bits w 47 47 = 1 ∧ nums.contains (bits w 35 32, bits w 63 48) then
    ((s.writeEntry f x i 0 6).setQueue f q { x with cancelled := nInsert i x.cancelled }).postInbox f 6 (bits w 63 48)
  else s
/-- Teardown of a queue (R431). -/
def State.teardown (s : State) (f : Nat) (q : Fin 8) (kill : Bool) : State :=
  let x := (s.fn f).queues.get q
  let s1 := x.pending.foldl (fun (st : State) i => st.writeEntry f x i 0 6) s
  let s2 := s1.setQueue f q { x with head := x.tail, tearing := true, cancelled := [] }
  let mine := s2.parts.filterMap fun p => p.2.launch.bind fun l => if l.tenant = f % 16 ∧ l.queue = q.val then some (p.1, p.2, l) else none
  let s3 := mine.foldl (fun (st : State) y => st.tearLaunch y.1 y.2.1 y.2.2 kill) s2
  let nums := mine.map fun y => (y.1, y.2.2.num)
  let s4 := (List.finRange 8).foldl (fun (st : State) k =>
    if k = q then st else ((st.fn f).queues.get k).pending.foldl (fun (st : State) i => st.cancelWaiter f nums k i) st) s3
  s4.queueDone f q

/-! ### Function reset (R430) -/

/-- What a reset does to a partition that is saved: its activations abort, its messages are dropped, its transfers and commands are gone (R430). -/
def State.resetSaved (s : State) (pid : Nat) (p : Part) : State :=
  (s.abortSaved pid p).modPart pid fun q =>
    { q with
      image := q.image.map fun m => { m with inbox := [], engine := { m.engine with queue := [] } }
      imageTransfers := [], imageBay := [] }
/-- Steps 1 and 2. -/
def State.resetBegin (s : State) (f : Nat) : State :=
  let s1 := s.modFn f fun g => { g with resetting := true }
  let mine := s1.parts.filterMap fun p => p.2.launch.bind fun l => if l.tenant = f % 16 then some (p.1, p.2, l) else none
  let s2 := mine.foldl (fun (st : State) y => st.tearLaunch y.1 y.2.1 y.2.2 false) s1
  let s3 := s2.killActs (fun a => decide (a.tenant = f % 16)) 2
  let s4 := { s3 with transfers := s3.transfers.map fun x => Transfer.cancelIf x fun y => decide (y.tenant = f % 16) }
  let s5 := (s4.parts.filter fun p => decide (descTenant p.2.desc = f % 16)).foldl (fun (st : State) p => st.resetSaved p.1 p.2) s4
  s5.parts.foldl (fun (st : State) p => st.resetNotice p.1 (f % 16)) s5
/-- Step 3: nothing of the tenant is in progress any more. -/
def State.resetDrained (s : State) (f : Nat) : Bool :=
  let slotFree (x : Slot) : Bool := decide (x.phase = .free) || decide (x.act.tenant ≠ f % 16)
  let cmds (e : Engine) : List MxCmd := e.queue ++ e.entering
  s.tiles.all (fun x => isCore x.1 || (x.2.ctxs.toList.all (fun c => slotFree c.s0 && slotFree c.s1)
      && x.2.engines.toList.all (fun e => (cmds e).all fun c => decide (c.tenant ≠ f % 16))
      && x.2.portQ.all (fun o => match o with | .put m => decide (m.tenant ≠ f % 16) | .arrive m => decide (m.tenant ≠ f % 16) | _ => true)))
    && s.transfers.all (fun x => decide (x.tenant ≠ f % 16)) && s.net.all (fun m => decide (m.tenant ≠ f % 16) || isCore m.dst)
    && s.cnet.all (fun c => decide (c.tenant ≠ f % 16)) && s.tmq.all (fun r => decide (r.tenant ≠ f % 16))
    && s.kvq.all (fun k => decide (k.tenant ≠ f % 16)) && s.bayOps.all (fun o => decide (o.cmd.tenant ≠ f % 16))
    && s.parts.all (fun p => decide (descTenant p.2.desc ≠ f % 16) || p.2.image.all fun m => m.slots.isEmpty)
/-- The tenant's lines leave every read cache (R132). -/
def State.rdForget (s : State) (tenant : Nat) : State :=
  { s with tiles := s.tiles.map fun x => (x.1, { x.2 with rdcache := x.2.rdcache.filter fun r => decide (r.tenant ≠ tenant) }) }
/-- Steps 4 and 5. -/
def State.resetEnd (s : State) (f : Nat) : State :=
  let mine := s.parts.filterMap fun p => p.2.launch.bind fun l => if l.tenant = f % 16 then some (p.1, p.2, l) else none
  let s1 := mine.foldl (fun (st : State) y => st.clearLaunch y.1 y.2.1 y.2.2) s
  let s2 := { s1 with hostq := s1.hostq.filter fun m => decide (m.tenant ≠ f % 16) }
  (s2.rdForget (f % 16)).modFn f fun g => {
    g with
    dmcons := g.dmprod
    eq := []
    eqovf := 0
    hcheld := []
    queues := g.queues.map fun q => { q with tearing := false }
    vin := []
    vilost := 0
    frozen := false
    resetting := false }
/-- An FLR begins a reset; while one is in progress, the event is its completion. -/
def execFunctionLevelReset (fn : Fin 16) : Meaning := fun s =>
  event "FUNCTION_LEVEL_RESET" (
    if !(s.fn fn.val).resetting then some (s.resetBegin fn.val)
    else if s.resetDrained fn.val then some (s.resetEnd fn.val) else none)

end Sys2Proof.Machine
end

