-- ==== Sys2Proof/Machine/Partition.lean ====
section
/-! DEFINITION. Partitions: the buddy tree, halting, saving and restoring, swaps, the shutter, and the instructions of major 38, func6 0x30 to
0x37 (R411 to R433). -/

namespace Sys2Proof.Machine

/-! ### The buddy tree (R411 to R413, R415) -/

def nodeLevel (n : Nat) : Nat := 9 - Nat.log2 n
/-- One node lies within the other. -/
def nodesMeet (a b : Nat) : Bool :=
  (List.range 10).any fun k => decide (a / 2 ^ k = b) || decide (b / 2 ^ k = a)
/-- A partition whose state lies on its tiles. -/
def Part.placed (p : Part) : Bool := !p.isReflex && !savedState p.state
/-- A node, and a half of it, may be taken by a partition, the partition numbered `but` aside. -/
def State.nodeFree (s : State) (node half : Nat) (but : Option Nat) : Bool :=
  let clear (n h : Nat) : Bool := !nodesMeet n node || (decide (n = node) && decide (half ≠ 0) && decide (h ≠ 0) && decide (h ≠ half))
  s.parts.all (fun p => decide (some p.1 = but) || !p.2.placed || clear (descNode p.2.desc) (descHalf p.2.desc))
    && s.swaps.all fun w => match w.back.bind s.parts.get? with
      | some p => clear w.node (descHalf p.desc)
      | none => true
/-- Tiles of a node. -/
def nodeTiles (node : Nat) : List Nat :=
  let (r, c, h, w) := nodeRect node
  (List.range (h * w)).map fun i => (r + i / w) * 32 + c + i % w
/-- A tile of the node holds the image of another partition in its shadow store (R419). -/
def State.shadowMet (s : State) (node : Nat) (but : List Nat) : Bool :=
  s.parts.any fun p => !but.contains p.1 && savedState p.2.state && p.2.inShadow && nodesMeet (descNode p.2.desc) node
/-- A tile of the bay beyond its spare is drained or retired (R11). -/
def State.bayDegraded (s : State) (b : Nat) : Bool :=
  (s.bay b).degraded || ((s.bay b).spared.isSome && (List.range 16).any fun i => decide (2 ≤ lifeState (s.life (s.physTile (bayTile b i)))))
def partBays (ts : List Nat) : List Nat := ts.foldl (fun a t => nInsert (bayOf t) a) []
/-- The reconfiguration: spare substitutions in the bays that no partition occupies (R11, R415). The spec does not say which tile the spare
replaces where several of a bay are drained or retired: the lowest bay tile index (DESIGN CHOICE, log 73). -/
def State.reconfigureBay (s : State) (b : Nat) : State :=
  let y := s.bay b
  let held := s.parts.any fun p => (p.2.placed || p.2.isReflex) && (partBays p.2.tiles).contains b
  if held then (if s.bayDegraded b then s.modBay b fun y => { y with degraded := true } else s)
  else match y.spared with
    | some _ => if s.bayDegraded b then s.modBay b fun y => { y with degraded := true } else s
    | none =>
      match (List.range 16).find? fun i => decide (2 ≤ lifeState (s.life (s.physTile (bayTile b i)))) with
      | some i => s.modBay b fun y => { y with spared := some i }
      | none => s
def State.reconfigure (s : State) : State := (List.range 34).foldl State.reconfigureBay s

/-! ### Zeroing and clearing a share of a tile (R113, R413) -/

/-- The part of the physical scratchpad that a share's own window covers, without a reserve (R107, R109). -/
def State.ownWindow (s : State) (t : Nat) (i : Fin 3) : Nat × Nat :=
  let top := if s.armed t then (s.upperQuarter t i).getD (s.windowTop t i) else s.windowTop t i
  (s.physOf t i 0, top)
def State.ownSpad (s : State) (t : Nat) (i : Fin 3) (k : Nat) : Bool :=
  let w := s.ownWindow t i
  decide (spadKey t w.1 ≤ k) && decide (k < spadKey t (w.1 + w.2))
def State.ownLane (s : State) (t : Nat) (i : Fin 3) (lane : Nat) : Bool :=
  decide (s.laneBase t i ≤ lane) && decide (lane < s.laneBase t i + s.lanes t i)
def State.ownAcc (s : State) (t : Nat) (i : Fin 3) (k : Nat) : Bool :=
  decide (accKey t 0 0 ≤ k) && decide (k < accKey t 128 0) && s.ownLane t i ((k - accKey t 0 0) % 256 / 4)
def State.ownB (s : State) (t : Nat) (i : Fin 3) (k : Nat) : Bool :=
  decide (bstoreKey t 0 ≤ k) && decide (k < bstoreKey t (if s.armed t then 0x380000 else 0x400000))
    && s.ownLane t i ((k - bstoreKey t 0) / 64 % 64)
def State.dropKeys (s : State) (p : Nat → Bool) : State :=
  { s with
    mem := s.mem.filter fun x => !p x.1
    poison := s.poison.filter fun k => !p (k * 64)
    dirty := s.dirty.filter fun l => !p (l * 256)
    flips := s.flips.filter fun f => !p (f.1 * 8) }
def ownCtx (split : Bool) (i : Fin 3) (c : Nat) : Bool := !split || (decide (4 ≤ c) == decide (i = 1))
/-- A context is left by its partition: half 0 is cleared, and half 1 where it is not held for the Wicket; the next activation takes the half that
the last one did not use (R161, R377). -/
def Ctx.cleared (k : Ctx) (armed : Bool) : Ctx :=
  if armed then { k with s0 := {} }
  else { k with s0 := {}, s1 := {}, cur := if (k.slot k.cur).phase = .free then k.cur else !k.cur }
/-- What a share of a tile holds beside its memories, set to nothing, its partition's resource cache tags among it, and its tenant's lines of the
read cache dropped (R58, R132, R413). -/
def State.clearTile (s : State) (t : Nat) (i : Fin 3) : State :=
  let x := s.tile t
  let sp := x.split
  let pid := (s.pidAt t i).getD 16
  let own (m : Msg) : Bool := !m.wicket && (!sp || (s.onB t m == decide (i = 1)))
  let tenant := (s.part (s.pidAt t i)).map fun p => descTenant p.desc
  let blank : Tile := {
    x with
    rdcache := x.rdcache.filter fun r => decide (some r.tenant ≠ tenant)
    rcache := x.rcache.filter fun r => decide (r.1.1 / 65536 ≠ pid)
    ctxs := Vector.ofFn fun c : Fin 8 => if ownCtx sp i c.val then (x.ctxs.get c).cleared (s.armed t) else x.ctxs.get c
    shares := x.shares.set i.val {} i.isLt
    engines := x.engines.set i.val {} i.isLt
    handlers := Vector.ofFn fun c : Fin 64 => if ownChannel sp i c.val then {} else x.handlers.get c
    inbox := x.inbox.filter fun m => !own m
    chans := Vector.ofFn fun c : Fin 16 => if !sp || (decide (8 ≤ c.val) == decide (i = 1)) then {} else x.chans.get c
    bnd := Vector.ofFn fun c : Fin 64 => if ownChannel sp i c.val then {} else x.bnd.get c
    bndflag := (if !sp then 0#64 else if i = 1 then x.bndflag &&& 0xFFFFFFFF#64 else x.bndflag &&& 0xFFFFFFFF00000000#64)
    grpslot := Vector.ofFn fun c : Fin 8 => if !sp || (decide (4 ≤ c.val) == decide (i = 1)) then 0#64 else x.grpslot.get c
    barriers := x.barriers.filter fun b => decide ((b.1 / 2048 = 1) ≠ (i = 1))
    combine := x.combine.filter fun e => decide (e.first.pid ≠ pid)
    codeLen := x.codeLen.set i.val 0 i.isLt
    refill := x.refill.set i.val none i.isLt }
  (s.dropKeys fun k => s.ownSpad t i k || s.ownAcc t i k || s.ownB t i k).setTile t blank
/-- A share of a tile passes to a partition; the tenant's lines leave its read cache (R132). -/
def State.giveTile (s : State) (t pid : Nat) (d : Rec512) : State :=
  s.modTile t fun x =>
    let i : Fin 3 := if descHalf d = 2 then 1 else 0
    let y := { x with
      split := decide (descHalf d ≠ 0), lastTenant := true, lastVTenant := true
      rdcache := x.rdcache.filter fun r => decide (r.tenant ≠ descTenant d) }
    let z := (y.modShare 0 fun h => { h with issueD := 0, vecD := 0 }).modShare 1 fun h => { h with issueD := 0, vecD := 0 }
    z.modShare i fun h => { h with pid := some pid, weight := if descHalf d = 0 then 1 else descWeight d }
/-- A share of a tile is given up: its state goes, and a tile that no half holds is whole again. -/
def State.takeTile (s : State) (t : Nat) (i : Fin 3) : State :=
  (s.clearTile t i).modTile t fun x =>
    { x with split := x.split && decide ((x.share (if i = 1 then 0 else 1)).pid ≠ none) }

/-! ### The choice of a node (R348) -/

/-- The sum of stress weight × wear units over the tiles of a node. -/
def State.nodeWear (s : State) (n : Nat) : Nat :=
  (nodeTiles n).foldl (fun a t => let r := s.life (s.physTile t); a + lifeStress r * resBits r 319 256) 0
/-- The node that the placer takes among the free ones of a level: the least worn, of equal ones that of the lowest address (R348). The hypervisor
writes it into the descriptor of a part.mk (R412; DEDUCED, log 75). -/
def State.bestNode (s : State) (level half : Nat) : Option Nat :=
  let ns := ((List.range (2 ^ (9 - level))).map fun k => 2 ^ (9 - level) + k).filter fun n =>
    s.nodeFree n half none && !(partBays (nodeTiles n)).any s.bayDegraded
  ns.find? fun n => ns.all fun m => decide (s.nodeWear n < s.nodeWear m) || (decide (s.nodeWear n = s.nodeWear m) && decide (n ≤ m))

/-! ### part.mk and part.free (R412, R413) -/

def descMalformed (d : Rec512) : Bool :=
  decide (resBits d 511 320 ≠ 0) || decide (resBits d 191 124 ≠ 0) || decide (resBits d 119 112 ≠ 0) || decide (resBits d 103 98 ≠ 0)
    || decide (resBits d 95 74 ≠ 0) || decide (resBits d 63 0 ≠ 0) || decide (descHalf d = 3) || decide (descNode d = 0)
    || decide (resBits d 319 256 % 0x200000 ≠ 0) || decide (resBits d 255 192 % 0x200000 ≠ 0)
    || (decide (descHalf d = 0) != decide (descWeight d = 0))
/-- part.mk (R412, R413). The spec gives a node on a degraded bay no status of its own: 2, as for a node that is not idle (DESIGN CHOICE,
log 73). -/
def State.partMk (s : State) (d : Rec512) : State × Nat :=
  if descMalformed d then (s, 1)
  else if (s.parts.get? (descPid d)).isSome || !s.nodeFree (descNode d) (descHalf d) none
      || (partBays (nodeTiles (descNode d))).any s.bayDegraded || s.sys.asleep then (s, 2)
  else
    let p : Part := { desc := d }
    let s1 := { s with parts := s.parts.set (descPid d) p }
    (((p.tiles.foldl (fun (st : State) t => st.giveTile t (descPid d) d) s1).reconfigure).noteSaved (descTenant d), 0)
def State.partFree (s : State) (pid : Nat) : State × Nat :=
  match s.parts.get? pid with
  | none => (s, 2)
  | some p =>
    if p.isReflex || p.launch.isSome || decide (p.image ≠ []) || savedState p.state then (s, 2)
    else if p.state = 9 ∨ p.state = 3 ∨ p.state = 5 ∨ p.state = 8 then (s, 3)
    else
      let s1 := p.tiles.foldl (fun (st : State) t => st.takeTile t p.shareIdx) s
      ({ s1 with parts := s1.parts.erase pid }.reconfigure.noteSaved (descTenant p.desc), 0)

/-! ### Holds and halts (R336, R417) -/

def State.partHold (s : State) (pid : Nat) (on : Bool) : State × Nat :=
  match s.parts.get? pid with
  | none => (s, 2)
  | some p =>
    if p.isReflex then (s, 2)
    else if p.state = 3 ∨ p.state = 5 ∨ p.state = 8 ∨ p.state = 9 then (s, 3)
    else (s.modPart pid fun p => { p with hold := on }, 0)
def State.partHalt (s : State) (pid : Nat) (on : Bool) : State × Nat :=
  match s.parts.get? pid with
  | none => (s, 2)
  | some p =>
    if p.isReflex || savedState p.state then (s, 2)
    else if p.state = 3 ∨ p.state = 5 ∨ p.state = 8 ∨ p.state = 9 then (s, 3)
    else if on then (if p.state = 1 then (s.modPart pid fun q => { q with state := 3 }, 0) else (s, 2))
    else (if p.state = 4 then (s.modPart pid fun q => { q with state := 1 }, 0) else (s, 2))
/-- The halt of the partition n completes: the physical function's partition vector (R432). -/
def execHaltComplete (n : Nat) : Meaning := fun s =>
  event "HALT_COMPLETE" (
    match s.parts.get? n with
    | some p => if p.state = 3 then some ((s.modPart n fun q => { q with state := 4 }).raise 0 2) else none
    | none => none)

/-! ### Saving a tile (R418, R427) -/

/-- Tokens that the work of a share holds outside its activations' holds, and with them. -/
def State.shareTokens (s : State) (t : Nat) (i : Fin 3) : Nat :=
  let e := (s.tile t).engine i
  (s.liveSlots t i).foldl (fun n x => n + x.act.hold) 0
    + (e.queue.foldl (fun n c => if c.fromHold then n else n + c.tokens) 0)
    + (s.transfers.foldl (fun n x => if x.tile = t ∧ x.share = i ∧ !x.fromHold then n + x.tokens else n) 0)
/-- The requests of a share leave the queue of its bay, its tokens return. -/
def State.dropTokens (s : State) (t : Nat) (i : Fin 3) : State :=
  let acts := (s.liveSlots t i).map fun x => x.act.id
  let e := (s.tile t).engine i
  let keys := acts ++ e.queue.map (fun c => c.uid) ++ (s.transfers.filter fun x => decide (x.tile = t) && decide (x.share = i)).map fun x => x.uid
  let asks := (s.bay (bayOf t)).lvq.any fun r => decide (r.kind = 3) && decide (r.tile = t) && acts.contains r.act
  (s.modBay (bayOf t) fun b =>
    { (b.give false (s.shareTokens t i)) with lvq := b.lvq.filter fun r => !(decide (r.tile = t) && keys.contains r.key) }).modTile t
    fun x => { x with burstReq := x.burstReq && !asks }
/-- A saved activation: a parked context is saved parked, and its miss message is sent again after the restore (R418, R426). -/
def Slot.forSave (x : Slot) (base : Nat) : Slot :=
  { x with
    waiting := false
    waitOn := .other
    wfrozen := false
    retryAt := (if x.missSent then some 0 else none)
    act := { x.act with undo := x.act.undo.map fun u => { u with line := u.line - base } } }
def Slot.forRestore (x : Slot) (base : Nat) : Slot :=
  { x with act := { x.act with undo := x.act.undo.map fun u => { u with line := u.line + base } } }
/-- The lines of a window that a save copies: the launch area, and those that are dirty (R418). -/
def State.savedLines (s : State) (t : Nat) (i : Fin 3) : List Nat :=
  let area := (List.range 16).map fun k => s.spad t i (256 * k) / 256
  area.foldl (fun a l => nInsert l a) (s.dirty.filter fun l => s.ownSpad t i (l * 256))
/-- The save reads them: soft errors in their words are corrected, or poison their sectors (R110). -/
def State.senseSaved (s : State) (t : Nat) (i : Fin 3) : State :=
  (s.flips.filter fun f => s.ownSpad t i (f.1 * 8) && (s.savedLines t i).contains (f.1 / 32)).foldl (fun (a : State) f => a.senseWord f.1) s
/-- A 64-bit word of the control area of a half image that several registers share (R405). -/
def Half.packed (h : Half) : Word :=
  BitVec.ofNat 64 (h.msgid.toNat + h.chan * 2 ^ 32 + h.fflags.toNat * 2 ^ 40 + h.frnd.toNat * 2 ^ 46
    + (h.ypend.toList.zipIdx.foldl (fun n x => if x.1 = 0 then n + 2 ^ x.2 else n) 0) * 2 ^ 48)
def VEntry.packed (v : VEntry) : Word :=
  BitVec.ofNat 64 (v.word.toNat + v.pfx.toNat * 2 ^ 32 + v.mode.bits.toNat * 2 ^ 48)
def padTo (n : Nat) (ws : List Word) : List Word := ws ++ List.replicate (n - ws.length) 0#64
/-- The 10 752 bytes of a register half (R160, R405). -/
def Half.image (h : Half) : List Byte :=
  wordsBody (h.g.toList ++ h.n.toList ++ h.y.toList ++ h.e.toList)
    ++ h.q.toList.map (fun q => BitVec.ofNat 8 q.length) ++ leBytes 8 h.npoison.toNat ++ List.replicate 16 0#8
    ++ wordsBody (h.q.toList.flatMap fun q => padTo 8 q) ++ wordsBody (padTo 16 (h.vq.map VEntry.packed))
    ++ wordsBody [h.status, h.cause, h.xpc, h.faddr, h.packed, h.budget, h.pfxsave.zeroExtend 64, h.nanorg, h.trapvec,
        h.lpcnt, h.lpbeg, h.lpend, h.tsave, h.tlpcnt, 0#64, 0#64]
    ++ h.k.toList.flatMap (fun k => leBytes 32 k.toNat) ++ h.h.toList.flatMap (fun r => leBytes 64 r.toNat)
    ++ h.v.toList.flatMap fun v => leBytes 256 v.toNat
/-- The word at an offset of a half image. -/
def imageWord (bs : List Byte) (o : Nat) : Word := BitVec.ofNat 64 (leNat ((bs.drop o).take 8))
/-- The half that an image restores: its registers and control registers as the bytes hold them. What the layout of R160 has no place for comes with
the structured image: the code offset, the loads' bookkeeping, and the operands of the queued vector instructions (log 51). -/
def Half.withImage (h : Half) (bs : List Byte) : Half :=
  let w := imageWord bs
  let p := (w 0x4A0).toNat
  let wide (o n : Nat) : Nat := leNat ((bs.drop o).take n)
  { h with
    g := Vector.ofFn fun i => w (8 * i.val)
    n := Vector.ofFn fun i => w (0x140 + 8 * i.val)
    y := Vector.ofFn fun i => w (0x180 + 8 * i.val)
    e := Vector.ofFn fun i => w (0x1A0 + 8 * i.val)
    q := Vector.ofFn fun i => (List.range (min 8 (wide (0x1E0 + i.val) 1))).map fun k => w (0x200 + 64 * i.val + 8 * k)
    npoison := (w 0x1E8).setWidth 8
    status := w 0x480, cause := w 0x488, xpc := w 0x490, faddr := w 0x498
    msgid := (w 0x4A0).setWidth 32, chan := bits p 38 32, fflags := BitVec.ofNat 5 (bits p 44 40), frnd := BitVec.ofNat 2 (bits p 47 46)
    budget := w 0x4A8, pfxsave := (w 0x4B0).setWidth 16, nanorg := w 0x4B8, trapvec := w 0x4C0
    lpcnt := w 0x4C8, lpbeg := w 0x4D0, lpend := w 0x4D8, tsave := w 0x4E0, tlpcnt := w 0x4E8
    k := Vector.ofFn fun i => BitVec.ofNat 256 (wide (0x500 + 32 * i.val) 32)
    h := Vector.ofFn fun i => BitVec.ofNat 512 (wide (0x600 + 64 * i.val) 64)
    v := Vector.ofFn fun i => BitVec.ofNat 2048 (wide (0xA00 + 256 * i.val) 256) }
/-- The image of a share of a tile. -/
def State.tileImage (s : State) (p : Part) (t : Nat) : TileImage :=
  let i := p.shareIdx
  let x := s.tile t
  let sp := x.split
  let base := spadKey t 0
  let lines := s.savedLines t i
  let keep (k : Nat) : Bool := lines.contains (k / 256)
  {
    logical := p.logical t
    ctxs := Vector.ofFn fun c : Fin 8 =>
      let k := x.ctxs.get c
      if ownCtx sp i c.val then { k with s0 := k.s0.forSave (base / 256), s1 := k.s1.forSave (base / 256) } else {}
    share := x.share i
    engine := (x.engine i).dropLatches
    handlers := x.handlers
    inbox := x.inbox.filter fun m => !m.wicket && (!sp || (s.onB t m == decide (i = 1)))
    chans := x.chans.map fun k => { k with missSent := false, retryAt := none }
    bnd := x.bnd
    bndflag := x.bndflag
    grpslot := x.grpslot
    barriers := x.barriers.filter fun b => decide ((b.1 / 2048 = 1) = (i = 1))
    combine := x.combine.filter fun e => decide (some e.first.pid = s.pidAt t i)
    rtags := (x.rcache.filter fun r => decide (some (r.1.1 / 65536) = s.pidAt t i)).map Prod.fst
    asks := (s.bay (bayOf t)).lvq.filter fun r =>
      decide (r.tile = t) && (decide (r.kind = 0) || decide (r.kind = 3)) && (s.liveSlots t i).any fun y => decide (y.act.id = r.act)
    halves := ((x.ctxs.toList.zipIdx.filter fun k => ownCtx sp i k.2).flatMap fun k => [k.1.s0, k.1.s1]).filterMap fun y =>
      if y.phase = .free then none else some y.half.image
    code := s.mem.bytes (codeKey t (codeOffset i)) (x.codeLen.get i)
    spad := (s.mem.filter fun c => s.ownSpad t i c.1 && keep c.1).map fun c => (c.1 - base, c.2)
    spadLines := lines.map fun l => l - base / 256
    spadPoison := (s.poison.filter fun k => s.ownSpad t i (k * 64) && keep (k * 64)).map fun k => k - base / 64
    acc := (s.mem.filter fun c => s.ownAcc t i c.1).map fun c => (c.1 - accKey t 0 0, c.2) }
/-- A transfer is paused: what is in flight has landed, and its landed lines form a prefix: lines behind one that was passed over are copied
again (R427). -/
def Transfer.pause (x : Transfer) : Transfer :=
  let first := x.held.foldl (fun m h => min m h.1) x.pos
  let y : Transfer := { x with
    phase := .paused, pos := first, held := [],
    landed := x.landed - ((x.pos - first) - x.held.foldl (fun n h => n + h.2) 0),
    oor := x.oor - ((List.range x.extent.rows).countP fun r =>
      decide (first < r * x.extent.rowBytes + 1) && decide (r * x.extent.rowBytes < x.pos) && x.form.gather && !(x.tableRow r).2) }
  match x.phase with
  | .running | .parked | .sent => y
  | _ => x
def Transfer.unpause (x : Transfer) : Transfer := match x.phase with | .paused => { x with phase := .running } | _ => x
/-- Nothing of the partition is on its way anywhere. -/
def State.saveReady (s : State) (pid : Nat) (p : Part) : Bool :=
  let l := p.launch.getD {}
  let i := p.shareIdx
  p.tiles.all (fun t =>
    let x := s.tile t
    (s.liveSlots t i).all (fun y => decide (y.half.loads = [])) && x.acks.all (fun a => decide (a.sh ≠ i))
      && x.inval.all (fun v => decide (v.1 ≠ pid)) && x.portQ.all (fun o => !o.ofLaunch pid l && !o.landsFor i)
      && decide ((x.engine i).entering = []) && (s.liveSlots t i).all (fun y => decide (y.act.id ≠ x.burstAct)) && !(decide (t < 512) && (s.bay (bayOf t)).seized))
    && s.sliceQ.all (fun o => decide (o.src.pid ≠ pid)) && s.tmq.all (fun r => !p.tiles.contains r.tile || decide (r.sh ≠ i))
    && s.net.all (fun m => !m.ofLaunch pid l || isCore m.dst) && s.cnet.all (fun c => !c.ofLaunch pid l)
    && s.kvq.all (fun k => decide (k.pid ≠ pid)) && decide (p.req.ops = [])
    && (s.fn (descTenant p.desc)).outbound.all fun o => decide (o.src.pid ≠ pid)
/-- A transfer of a share of the partition. -/
def Part.owns (p : Part) (x : Transfer) : Bool := p.tiles.contains x.tile && decide (x.share = p.shareIdx)
def Part.ownsBay (p : Part) (o : BayOp) : Bool := decide (o.cmd.pid = descPid p.desc)
def BayOp.moved (o : BayOp) (f : Nat → Nat) : BayOp := { o with tile := f o.tile, cmd := o.cmd, done := o.done.map f, folded := o.folded.map f }
/-- Where the half images of a tile stand in the save area: behind the rows of R418 that stand before them (log 51). -/
def Part.halvesBase (p : Part) (m : TileImage) : Nat := resBits p.desc 255 192 + 0x200000 * m.logical + 86016 + 256 * m.spadLines.length
/-- A save to DRAM writes them, in order of context and half (R160, R418). -/
def State.storeHalves (s : State) (p : Part) (m : TileImage) : State :=
  (s.landCells [] [] (m.halves.flatten.zipIdx.map fun b => (p.halvesBase m + b.2, b.1, false))).1
/-- The save: images and paused transfers leave the tiles (R418, R419). -/
def State.savePart (s0 : State) (pid : Nat) (p : Part) (shadow : Bool) (st : Nat) : State :=
  let s := p.tiles.foldl (fun (a : State) t => a.senseSaved t p.shareIdx) s0
  let imgs := p.tiles.map (s.tileImage p)
  let xs := (s.transfers.filter p.owns).map Transfer.pause
  let s1 := p.tiles.foldl (fun (a : State) t => a.dropTokens t p.shareIdx) s
  let s2 := { s1 with
    transfers := s1.transfers.filter fun x => !p.owns x
    bayOps := s1.bayOps.filter fun o => !p.ownsBay o }
  let s3 := p.tiles.foldl (fun (a : State) t => a.takeTile t p.shareIdx) s2
  let s4 := if shadow then s3 else imgs.foldl (fun (a : State) m => a.storeHalves p m) s3
  (s4.modPart pid fun q => { q with state := st, image := imgs, inShadow := shadow, imageTransfers := xs, imageBay := s.bayOps.filter p.ownsBay }).noteSaved (descTenant p.desc)

/-! ### Restoring (R418 to R420) -/

/-- The tile that takes the place of a tile of the partition. -/
def Part.move (p q : Part) (t : Nat) : Nat := if p.tiles.contains t then (q.tileOf (p.logical t)).getD t else t
def Msg.moved (m : Msg) (f : Nat → Nat) : Msg := { m with dst := f m.dst, src := f m.src }
/-- A key of a scratchpad or B-store byte of a tile, as the key of the same byte of the tile that takes its place. -/
def movedKey (f : Nat → Nat) (k : Nat) : Nat :=
  if isSpadKey k then let t := (k - spadKey 0 0) / 2 ^ 20; k - spadKey t 0 + spadKey (f t) 0
  else if bstoreKey 0 0 ≤ k ∧ k < accKey 0 0 0 then let t := (k - bstoreKey 0 0) / 2 ^ 22; k - bstoreKey t 0 + bstoreKey (f t) 0
  else k
def Transfer.moved (x : Transfer) (f : Nat → Nat) : Transfer :=
  { x with
    tile := f x.tile, srcTile := f x.srcTile, dstTile := f x.dstTile
    cov := x.cov.map fun c => (movedKey f (c.1 * 64) / 64, c.2)
    srcSeen := x.srcSeen.map fun c => (movedKey f c.1, c.2)
    dstSeen := x.dstSeen.map fun c => (movedKey f c.1, c.2) }
def MxCmd.moved (c : MxCmd) (f : Nat → Nat) : MxCmd := { c with bay := c.bay.map fun b => (f b.1, b.2) }
def OutKind.moved (o : OutKind) (f : Nat → Nat) : OutKind :=
  match o with
  | .msgs ms => .msgs (ms.map fun m => m.moved f)
  | .host m => .host (m.moved f)
  | .copy x => .copy (x.moved f)
  | .pub q => .pub { q with src := f q.src }
  | .cmb c => .cmb { c with owner := f c.owner, src := f c.src }
  | .bay c => .bay (c.moved f)
  | .reqStep w => .reqStep w
  | .reqFault r k => .reqFault r k
def State.writeCellsAt (s : State) (base : Nat) (cs : List Host.Cell) : State :=
  { s with mem := cs.foldl (fun (m : Memory) (c : Host.Cell) => m.set (base + c.1) c.2) s.mem }
/-- Leave is asked for again on the new bay. -/
def MxCmd.request (c : MxCmd) (s : State) (t : Nat) : Option LvReq :=
  if c.wantsLeave then some { cost := if (s.tile t).split then 4 else 8, prio := c.prio, cycle := s.cycle, tileIdx := bayIdx t, kind := 1,
                              tile := t, act := c.act, key := c.uid }
  else none
def Transfer.request (x : Transfer) (s : State) : Option LvReq :=
  match x.phase with
  | .leave => some { cost := 2, prio := x.prio, cycle := s.cycle, tileIdx := bayIdx x.tile, kind := 2, tile := x.tile, act := x.owner, key := x.uid }
  | _ => none
/-- The half images that a restore reads: those that the shadow store keeps, or those of the save area (R160, R419). -/
def State.halfImages (s : State) (p : Part) (m : TileImage) : List (List Byte) :=
  if p.inShadow then m.halves
  else (List.range m.halves.length).map fun k => s.mem.bytes (p.halvesBase m + 10752 * k) 10752
/-- The restore reads the save area through the shared cache. -/
def State.readHalves (s : State) (p : Part) (m : TileImage) : State :=
  if p.inShadow then s
  else (linesOf ((List.range (42 * m.halves.length)).map fun k => p.halvesBase m + 256 * k)).foldl (fun (st : State) l => st.readLine false l) s
/-- The activations of a context take the halves that the images hold, from the n-th on; the number of those that it has taken (R161). -/
def Slot.takeHalf (x : Slot) (hs : List (List Byte)) (n : Nat) : Slot × Nat :=
  if x.phase = .free then (x, n)
  else match hs[n]? with
    | some bs => ({ x with half := x.half.withImage bs }, n + 1)
    | none => (x, n + 1)
def Ctx.takeHalves (k : Ctx) (hs : List (List Byte)) (n : Nat) : Ctx × Nat :=
  let a := k.s0.takeHalf hs n
  let b := k.s1.takeHalf hs a.2
  ({ k with s0 := a.1, s1 := b.1 }, b.2)
/-- The contexts of an image with their halves restored. -/
def TileImage.liveCtxs (m : TileImage) (hs : List (List Byte)) : List Ctx :=
  (m.ctxs.toList.foldl (fun (a : List Ctx × Nat) k => let r := k.takeHalves hs a.2; (a.1 ++ [r.1], r.2)) ([], 0)).1
/-- A request for leave is made again on the new bay. -/
def LvReq.moved (r : LvReq) (s : State) (t : Nat) : LvReq := { r with tile := t, tileIdx := bayIdx t, cycle := s.cycle }
/-- The tile's image comes back. The spec refuses no restore of an upper-quarter launch onto a bay that has been armed meanwhile: the lines of its upper
quarter are written where the reserve of the Wicket now lies (R109; DESIGN CHOICE, log 82). -/
def State.restoreTile (s : State) (q : Part) (pid : Nat) (f : Nat → Nat) (hs : List (List Byte)) (m : TileImage) : State :=
  match q.tileOf m.logical with
  | none => s
  | some t =>
    let i := q.shareIdx
    let s1 := (s.giveTile t pid q.desc).clearTile t i
    let base := spadKey t 0
    let s2 := ((s1.writeCellsAt base m.spad).writeCellsAt (accKey t 0 0) m.acc).giveTile t pid q.desc
    let s3 := { s2 with
      mem := s2.mem.write (codeKey t (codeOffset i)) m.code
      dirty := m.spadLines.foldl (fun d l => nInsert (l + base / 256) d) s2.dirty
      poison := m.spadPoison.foldl (fun d k => nInsert (k + base / 64) d) s2.poison }
    let x := s3.tile t
    let sp := x.split
    let eng := { m.engine with queue := m.engine.queue.map fun c => c.moved f }
    let ks := m.liveCtxs hs
    let burst := m.asks.any (fun r => decide (r.kind = 3)) && !x.burstReq && x.burst.isNone
    let y : Tile := {
      x with
      ctxs := Vector.ofFn fun c : Fin 8 =>
        let k := ks.getD c.val {}
        if ownCtx sp i c.val then
          { k with s0 := k.s0.forRestore (base / 256), s1 := k.s1.forRestore (base / 256), wear := (x.ctxs.get c).wear }
        else x.ctxs.get c
      shares := x.shares.set i.val { m.share with pid := some pid, out := m.share.out.map fun o => { o with kind := o.kind.moved f } } i.isLt
      engines := x.engines.set i.val eng i.isLt
      handlers := Vector.ofFn fun c : Fin 64 => if ownChannel sp i c.val then m.handlers.get c else x.handlers.get c
      inbox := x.inbox ++ m.inbox.map fun k => k.moved f
      chans := Vector.ofFn fun c : Fin 16 => if !sp || (decide (8 ≤ c.val) == decide (i = 1)) then m.chans.get c else x.chans.get c
      bnd := Vector.ofFn fun c : Fin 64 => if ownChannel sp i c.val then m.bnd.get c else x.bnd.get c
      bndflag := (if !sp then m.bndflag
        else if i = 1 then (x.bndflag &&& 0xFFFFFFFF#64) ||| (m.bndflag &&& 0xFFFFFFFF00000000#64)
        else (x.bndflag &&& 0xFFFFFFFF00000000#64) ||| (m.bndflag &&& 0xFFFFFFFF#64))
      grpslot := Vector.ofFn fun c : Fin 8 => if !sp || (decide (4 ≤ c.val) == decide (i = 1)) then m.grpslot.get c else x.grpslot.get c
      barriers := m.barriers.foldl (fun b k => NMap.set b k.1 k.2) x.barriers
      combine := x.combine ++ m.combine.map fun e => { e with first := { e.first with owner := f e.first.owner, src := f e.first.src } }
      burstReq := x.burstReq || burst
      codeLen := x.codeLen.set i.val m.code.length i.isLt
      refill := x.refill.set i.val (some 0) i.isLt }
    let s4 := s3.setTile t y
    let reqs := eng.queue.filterMap (fun c => c.request s4 t)
      ++ ((m.asks.filter fun r => decide (r.kind ≠ 3) || burst).map fun r => r.moved s4 t)
    let s5 := s4.modBay (bayOf t) fun b => { b with lvq := b.lvq ++ reqs, used := b.used + s4.shareTokens t i }
    m.rtags.foldr (fun k st => st.useRes t (some pid) k.2) s5
/-- The restore of a partition onto a node: everything that names its tiles names the new ones; it is halted afterwards. -/
def State.restorePart (s : State) (pid : Nat) (p : Part) (node : Nat) : State :=
  let q := { p with desc := setRec p.desc 73 64 node }
  let f := p.move q
  let q1 := { q with state := 4, image := [], inShadow := false, imageTransfers := [], imageBay := [],
                     req := { p.req with members := p.req.members.map fun m => (f m.1, m.2) } }
  let xs := p.imageTransfers.map fun x => (x.moved f).unpause
  let s1 := p.image.foldl (fun (a : State) m => (a.readHalves p m).restoreTile q pid f (a.halfImages p m) m) { s with parts := s.parts.set pid q1 }
  let s2 := xs.foldl (fun (a : State) x => a.modBay (bayOf x.tile) fun b =>
    { b with lvq := b.lvq ++ (x.request a).toList, used := if x.fromHold then b.used else b.used + x.tokens }) s1
  let arm (x : TSlot) : TSlot := { x with arm := x.arm.map fun a => if a.2.2.2.2 = pid then (f a.1, a.2) else a }
  let s3 := { s2 with
    transfers := s2.transfers ++ xs
    slots := s2.slots.map fun (x : Nat × TSlot) => (x.1, arm x.2)
    bayOps := s2.bayOps ++ p.imageBay.map fun (o : BayOp) => o.moved f }
  s3.noteSaved (descTenant p.desc)
/-- The next 16 KiB of a restored window (R420). -/
def State.refillStep (s : State) (t : Nat) (i : Fin 3) (o : Nat) : State :=
  let n := min 0x4000 (s.bWindow t i - o)
  let next := if s.bWindow t i ≤ o + n then none else some (o + n)
  let s1 := match s.backBase t i with
    | some a =>
      let st := (linesOf ((List.range (n / 256)).map fun k => a + o + 256 * k)).foldl (fun (st : State) l => st.readLine false l) s
      (st.landCells [] [] ((List.range n).map fun k => (st.bKey t i (o + k), st.mem.get (a + o + k), st.sectorPoisoned (a + o + k) 1))).1
    | none => s
  s1.modTile t fun x => { x with refill := x.refill.set i.val next i.isLt }
def execBstoreRefill (t : Nat) : Meaning := fun s =>
  event "BSTORE_REFILL" (((List.finRange 3).findSome? fun i => ((s.tile t).refill.get i).map fun o => (i, o)).map fun x => s.refillStep t x.1 x.2)

/-! ### part.swap (R421, R432) -/

/-- part.swap: like part.mk it places nothing on a degraded bay, but a partition may come back to its own node (R11; DESIGN CHOICE, log 73). -/
def State.partSwap (s : State) (out : Option Nat) (toDram : Bool) (back : Option Nat) (node : Nat) : State × Nat :=
  let outSt : Nat := match out with
    | none => 0
    | some o => (match s.parts.get? o with
      | none => 2
      | some p => if p.isReflex then 2 else if p.state = 4 then 0 else if p.state = 3 ∨ p.state = 5 ∨ p.state = 8 ∨ p.state = 9 then 3 else 2)
  let inSt : Nat := match back with
    | none => 0
    | some b => (match s.parts.get? b with
      | none => 2
      | some p =>
        let nd := if node = 0 then descNode p.desc else node
        if p.isReflex then 2
        else if p.state = 3 ∨ p.state = 5 ∨ p.state = 8 ∨ p.state = 9 then 3
        else if !savedState p.state || decide (nodeLevel nd ≠ nodeLevel (descNode p.desc)) || (p.inShadow && decide (nd ≠ descNode p.desc))
          || !s.nodeFree nd (descHalf p.desc) out || (decide (nd ≠ descNode p.desc) && (partBays (nodeTiles nd)).any s.bayDegraded) then 2
        else if s.shadowMet nd [b] then 5
        else 0)
  if (out.isNone && back.isNone) || (out.isSome && decide (out = back)) then (s, 1)
  else if outSt ≠ 0 then (s, outSt)
  else if inSt ≠ 0 then (s, inSt)
  else
    let nd := if node = 0 then (match back.bind s.parts.get? with | some p => descNode p.desc | none => 0) else node
    let s1 := match out with | some o => s.modPart o fun p => { p with state := 5 } | none => s
    let s2 := match back with | some b => s1.modPart b fun p => { p with state := 8 } | none => s1
    ({ s2 with swaps := s2.swaps ++ [{ out := out, toDram := toDram, back := back, node := nd }] }, 0)
/-- The n-th swap completes, while no bay of its nodes is seized: the save, then the restore; type 5 event to the owner, partition vector to the physical function. -/
def State.swapComplete (s : State) (n : Nat) : Option State :=
  (s.swaps[n]?).bind fun w =>
    let s0 := { s with swaps := s.swaps.eraseIdx n }
    let saved : Option State := match w.out with
      | none => some s0
      | some o => (s.parts.get? o).bind fun p =>
        if s.saveReady o p then
          let shadow := !w.toDram && !s.shadowMet (descNode p.desc) (o :: w.back.toList)
          some (s0.savePart o p shadow (if shadow then 6 else 7))
        else none
    saved.bind fun s1 =>
      match w.back with
      | none => some (s1.raise 0 2)
      | some b => (s1.parts.get? b).bind fun p =>
        if (partBays (nodeTiles w.node)).any fun k => (s1.bay k).seized then none
        else some (((s1.restorePart b p w.node).postInbox (descTenant p.desc) 5 b).raise 0 2)
def execSwapComplete (n : Nat) : Meaning := fun s => event "SWAP_COMPLETE" (s.swapComplete n)

/-! ### The shutter (R423 to R426) -/

/-- A unit of a bay, as it stands at the posting: channel, largest remaining budget, executed cycles, a non-replayable
activation, and its live activations on each tile. -/
structure UnitInfo where
  chan : Nat
  r : Nat
  x : Nat
  nr : Bool
  h : List (Nat × Nat)
deriving DecidableEq, Repr

def State.unitSlots (s : State) (p : Part) (ts : List Nat) (c : Nat) : List (Nat × Slot) :=
  ts.flatMap fun t => ((s.liveSlots t p.shareIdx).filter fun x => decide (x.half.chan = c)).map fun x => (t, x)
def State.startBudget (s : State) (p : Part) (t c : Nat) : Nat :=
  if c = 64 then (p.launch.getD {}).spawnBudget else ((s.tile t).handlers.get (Fin.ofNat 64 c)).budget.toNat + 1
def State.unitInfo (s : State) (p : Part) (ts : List Nat) (c : Nat) : UnitInfo :=
  let xs := s.unitSlots p ts c
  { chan := c
    r := xs.foldl (fun n y => max n y.2.half.budget.toNat) 0
    x := xs.foldl (fun n y => n + (s.startBudget p y.1 c - y.2.half.budget.toNat)) 0
    nr := xs.any fun y => y.2.half.nr
    h := ts.map fun t => (t, xs.countP fun y => decide (y.1 = t)) }
/-- The units of a bay: the partition's channels and the spawn queue, those without live activations too (R423; log 52). -/
def State.unitsOf (s : State) (p : Part) (ts : List Nat) : List UnitInfo :=
  ((List.range 65).filter fun c => decide (c = 64) || ownChannel (decide (descHalf p.desc ≠ 0)) p.shareIdx c).map (s.unitInfo p ts)
def ceilDiv (a b : Nat) : Nat := (a + b - 1) / b
/-- What the cost of a bay rests on: f in tenths of a cycle per ns, σ, the number of bays, the save's way, dirty lines, window lines. -/
structure BayCost where
  f : Nat
  sigma : Nat
  nb : Nat
  shadow : Bool
  dirty : List (Nat × Nat)
  win : Nat
deriving DecidableEq, Repr

def State.bayCost (s : State) (p : Part) (b dl : Nat) (shadow : Bool) : BayCost :=
  let ts := p.tiles.filter fun t => decide (bayOf t = b)
  let y := s.bay b
  let tm := (s.tile (resBits y.wrec 138 128)).timers.get (Fin.ofNat 4 (resBits y.wrec 140 139))
  {
    f := if (List.range 16).any fun k => decide (lifeState (s.life (s.physTile (bayTile b k))) = 1) then 10 else 12
    sigma := if y.wrec.getLsbD 0 then resBits y.wrec 191 160 * (ceilDiv (dl - s.dtime) tm.period + 1) else 0
    nb := (partBays p.tiles).length
    shadow := shadow
    dirty := ts.map fun t => (t, s.dirty.countP fun l => s.ownSpad t p.shareIdx (l * 256))
    win := if descHalf p.desc = 0 then 4096 else 2048 }
/-- S of R424 for the bytes of each tile. -/
def BayCost.saveCycles (k : BayCost) (bs : List Nat) : Nat :=
  if k.shadow then 64 + bs.foldl (fun n b => max n (ceilDiv b 1024)) 0
  else ceilDiv (k.f * (20000 * 2400 + k.nb * bs.foldl (· + ·) 0)) 24000
/-- T of R424 for a choice of modes. -/
def BayCost.total (k : BayCost) (ms : List (UnitInfo × Nat)) : Nat :=
  let run := (ms.filter fun m => decide (m.2 = 0)).foldl (fun n m => max n m.1.r) 0
  let r := if ms.any fun m => decide (m.2 = 2) then max run 1100 else run
  let bs := k.dirty.map fun d =>
    86016 + 256 * min k.win (d.2 + 3 * run)
      + 10752 * (ms.filter fun m => decide (m.2 = 1)).foldl (fun n m => n + ((m.1.h.find? fun z => decide (z.1 = d.1)).map fun z => z.2).getD 0) 0
  r + k.saveCycles bs
/-- A of R424. -/
def BayCost.avail (k : BayCost) (span : Nat) : Int := (span * k.f / 10 : Nat) - 2048 - (k.sigma : Int)
/-- The floor of R425 in ns. -/
def BayCost.floor (k : BayCost) : Nat :=
  ceilDiv (10 * (2048 + k.sigma + 1100 + k.saveCycles (k.dirty.map fun d => 86016 + 256 * d.2))) k.f
/-- Sorted insertion by an order. -/
def insertBy {α : Type} (le : α → α → Bool) (a : α) : List α → List α
  | [] => [a]
  | b :: r => if le a b then a :: b :: r else b :: insertBy le a r
def sortBy {α : Type} (le : α → α → Bool) (l : List α) : List α := l.foldr (insertBy le) []
/-- Turn the listed channels, one after the other, into a mode while the cost exceeds what is available. -/
def BayCost.turn (k : BayCost) (a : Int) (mode : Nat) : List Nat → List (UnitInfo × Nat) → List (UnitInfo × Nat)
  | [], ms => ms
  | c :: r, ms =>
    if (k.total ms : Int) ≤ a then ms else k.turn a mode r (ms.map fun m => if m.1.chan = c then (m.1, mode) else m)
/-- The modes a bay chooses (R425). -/
def BayCost.choose (k : BayCost) (span : Nat) (us : List UnitInfo) : List (UnitInfo × Nat) :=
  let byR := sortBy (fun (a b : UnitInfo) => decide (b.r < a.r) || (decide (a.r = b.r) && decide (a.chan ≤ b.chan))) us
  let byX := sortBy (fun (a b : UnitInfo) => decide (a.x < b.x) || (decide (a.x = b.x) && (if a.nr = b.nr then decide (a.chan ≤ b.chan) else !a.nr))) us
  let m1 := k.turn (k.avail span) 1 (byR.map fun u => u.chan) (us.map fun u => (u, 0))
  k.turn (k.avail span) 2 (byX.map fun u => u.chan) m1
/-- A save of the partition may go to the shadow store (R419). -/
def State.shadowFree (s : State) (pid : Nat) (p : Part) : Bool := !s.shadowMet (descNode p.desc) [pid]
def State.partFloor (s : State) (pid : Nat) (p : Part) (dl : Nat) : Nat :=
  (partBays p.tiles).foldl (fun n b => max n (s.bayCost p b dl (s.shadowFree pid p)).floor) 0
/-- A unit's work runs on, is frozen at once, or aborted (R423); a shutter ends a frozen context by abort in every mode (R394). -/
def Slot.enterMode (x : Slot) (mode : Nat) : Slot :=
  match x.phase with
  | .free => x
  | .aborting => x
  | .frozen => x.kill 3
  | _ => if mode = 1 then { x with wfrozen := true } else if mode = 2 then x.kill 3 else x
def State.applyUnit (s : State) (p : Part) (b c mode : Nat) : State :=
  let ts := p.tiles.filter fun t => decide (bayOf t = b)
  let acts := (s.unitSlots p ts c).map fun y => y.2.act.id
  let f (x : Slot) : Slot := if acts.contains x.act.id then x.enterMode mode else x
  let s1 := ts.foldl (fun (a : State) t => a.modTile t fun x => { x with ctxs := x.ctxs.map fun k => { k with s0 := f k.s0, s1 := f k.s1 } }) s
  if mode = 1 then { s1 with transfers := s1.transfers.map fun x => if acts.contains x.act ∧ x.act ≠ 0 then x.pause else x } else s1
/-- The modes that the bays of a partition choose for a deadline (R425). -/
def State.shutUnits (s : State) (pid : Nat) (p : Part) (dl : Nat) : List ShutterUnit :=
  (partBays p.tiles).flatMap fun b =>
    ((s.bayCost p b dl (s.shadowFree pid p)).choose (dl - s.dtime) (s.unitsOf p (p.tiles.filter fun t => decide (bayOf t = b)))).map fun m =>
      { bay := b, chan := m.1.chan, mode := m.2 }
/-- The system core recomputes each bay's choice from the inputs as the posting found them, and logs a disagreement; the bay's choice stands
(R20, R425). -/
def State.recheckShutter (s s0 : State) (pid : Nat) (p : Part) (dl : Nat) (units : List ShutterUnit) : State :=
  (partBays p.tiles).foldl (fun (a : State) b =>
    if (s0.shutUnits pid p dl).filter (fun u => decide (u.bay = b)) = units.filter (fun u => decide (u.bay = b)) then a
    else a.logOnly { type := 15, tenant := descTenant p.desc, info := pid + b * 2 ^ 8 }) s
def State.shutPost (s : State) (pid dl : Nat) : State × Word :=
  match s.parts.get? pid with
  | none => (s, 2#64)
  | some p =>
    if p.state = 3 ∨ p.state = 5 ∨ p.state = 8 ∨ p.state = 9 then (s, 3#64)
    else if p.isReflex || decide (p.state ≠ 1) then (s, 2#64)
    else
      let fl := s.partFloor pid p dl
      if dl < s.dtime + fl then (s, BitVec.ofNat 64 (2 ^ 63 + fl))
      else
        let units := s.shutUnits pid p dl
        let s1 := s.modPart pid fun q => { q with state := 9, shutter := some { deadline := dl, units := units } }
        ((units.foldl (fun (a : State) u => a.applyUnit p u.bay u.chan u.mode) s1).recheckShutter s pid p dl units, 0#64)
/-- A unit has ended: a run or discarded one when no activation of it is left, a frozen one at once, when no abort of it is in progress (R423). -/
def State.unitOver (s : State) (p : Part) (u : ShutterUnit) : Bool :=
  let xs := s.unitSlots p (p.tiles.filter fun t => decide (bayOf t = u.bay)) u.chan
  !(decide (u.bay < 32) && (s.bay u.bay).seized)
    && (xs.isEmpty || (decide (u.mode = 1) && xs.all fun y => decide (y.2.phase ≠ .aborting) && decide (y.2.phase ≠ .frozen)))
/-- A context of the unit has been frozen by a protection violation (R394). -/
def State.unitFrozen (s : State) (p : Part) (u : ShutterUnit) : Bool :=
  (s.unitSlots p (p.tiles.filter fun t => decide (bayOf t = u.bay)) u.chan).any fun y => decide (y.2.phase = .frozen)
/-- The first unit of the partition n that is over ends; a context of a unit that was frozen meanwhile ends by abort (R394). -/
def State.shutterUnitEnd (s : State) (pid : Nat) : Option State :=
  (s.parts.get? pid).bind fun p => p.shutter.bind fun h =>
    if p.state ≠ 9 then none
    else match h.units.find? fun u => !u.ended && s.unitFrozen p u with
      | some u => some (s.applyUnit p u.bay u.chan 0)
      | none =>
        (h.units.find? fun u => !u.ended && s.unitOver p u).map fun u =>
          let us := h.units.map fun v => if v.bay = u.bay ∧ v.chan = u.chan then { v with ended := true } else v
          s.modPart pid fun q => { q with shutter := some { h with units := us } }
def execShutterUnitEnd (n : Nat) : Meaning := fun s => event "SHUTTER_UNIT_END" (s.shutterUnitEnd n)
/-- All units have ended: the partition is saved and becomes vacant (R423). -/
def State.shutterVacant (s : State) (pid : Nat) : Option State :=
  (s.parts.get? pid).bind fun p => p.shutter.bind fun h =>
    if p.state = 9 ∧ h.units.all (fun u => u.ended) ∧ s.saveReady pid p then
      let s1 := (s.savePart pid p (s.shadowFree pid p) 10).modPart pid fun q => { q with shutter := some { h with vacancy := s.dtime } }
      some ((s1.postInbox (descTenant p.desc) 4 pid).raise 0 2)
    else none
def execShutterVacant (n : Nat) : Meaning := fun s => event "SHUTTER_VACANT" (s.shutterVacant n)
/-- The state code that shut.stat reads. -/
def Part.code (p : Part) : Nat := if p.state = 1 ∧ p.hold then 2 else p.state
def State.shutStat (s : State) (pid sel : Nat) : Nat :=
  match s.parts.get? pid with
  | none => 0
  | some p =>
    let us := match p.shutter with | some h => h.units | none => []
    match sel with
    | 0 => p.code
    | 1 => us.countP (fun u => decide (u.mode = 0)) + us.countP (fun u => decide (u.mode = 1)) * 2 ^ 16 + us.countP (fun u => decide (u.mode = 2)) * 2 ^ 32
    | 2 => (match p.shutter with | some h => h.vacancy | none => 0)
    | _ => if p.isReflex || savedState p.state then 0
      else s.partFloor pid p (match p.shutter with | some h => h.deadline | none => s.dtime)

/-! ### vf.ctl (R429 to R431) -/

def State.vfCtl (s : State) (f op q : Nat) (kill : Bool) : State × Nat :=
  if (s.fn f).resetting then (s, 3)
  else match op with
    | 0 => (s.modFn f Fn.pause, 0)
    | 1 => (s.modFn f Fn.resume, 0)
    | 2 => (s.resetBegin f, 0)
    | _ => if 8 ≤ q then (s, 1) else (s.teardown f (Fin.ofNat 8 q) kill, 0)

/-! ### The forms of R432: the operand checks, and the status of each form on its words -/

/-- What a form of the system core does, or none for an illegal operand. -/
abbrev SysOp := State → Word → Word → Option (State × Word)
def natOut (r : State × Nat) : Option (State × Word) := some (r.1, BitVec.ofNat 64 r.2)
def sysHold : SysOp := fun s a b => if onlyBits a [(3, 0)] && decide (b.toNat ≤ 1) then natOut (s.partHold a.toNat (decide (b = 1#64))) else none
def sysHalt : SysOp := fun s a b => if onlyBits a [(3, 0)] && decide (b.toNat ≤ 1) then natOut (s.partHalt a.toNat (decide (b = 1#64))) else none
def sysFree : SysOp := fun s a _ => if onlyBits a [(3, 0)] then natOut (s.partFree a.toNat) else none
def sysSwap : SysOp := fun s a b =>
  if onlyBits a [(5, 0), (12, 8)] && onlyBits b [(9, 0)] then
    natOut (s.partSwap (if a.getLsbD 4 then some (wfield a 3 0) else none) (a.getLsbD 5)
      (if a.getLsbD 12 then some (wfield a 11 8) else none) b.toNat)
  else none
def sysShutPost : SysOp := fun s a b => if onlyBits a [(3, 0)] then some (s.shutPost a.toNat b.toNat) else none
def sysShutStat : SysOp := fun s a b => if onlyBits a [(3, 0)] && decide (b.toNat ≤ 3) then natOut (s, s.shutStat a.toNat b.toNat) else none
def sysVf (op : Word → Nat) : SysOp := fun s a b =>
  if onlyBits a [(3, 0)] && onlyBits b [(1, 0), (16, 8)] && (decide (op b = 3) || decide (wfield b 16 8 = 0)) then
    natOut (s.vfCtl a.toNat (op b) (wfield b 15 8) (b.getLsbD 16))
  else none
def runSys (f : SysOp) (a b : Word) : Exec Word := fun s =>
  match f s a b with
  | some r => .ok (r.2, r.1)
  | none => .error (.trap { code := 0x21 })
def partForm (b a d : Reg) (f : SysOp) : Meaning := systemForm b a d (runSys f)

/-- part.mk reads its descriptor in the system core's scratchpad. -/
def execPartMk (a d : Reg) : Meaning :=
  issueValue { srcs := [a], dsts := [d] } d do
    let x ← rd a
    privileged isSystem
    if x.toNat % 64 ≠ 0 then pure 1#64
    else
      let s ← get
      let ea ← checkWin s.cur 0 x.toNat 64 .load
      let bs ← readOwn ea 64
      let s ← get
      let r := s.partMk (rec512Of bs)
      update fun _ => r.1
      pure (BitVec.ofNat 64 r.2)
def execPartFree (a d : Reg) : Meaning :=
  issueValue { srcs := [a], dsts := [d] } d (do let x ← rd a; privileged isSystem; runSys sysFree x 0#64)
def execPartHold (b a d : Reg) : Meaning := partForm b a d sysHold
def execPartHalt (b a d : Reg) : Meaning := partForm b a d sysHalt
def execPartSwap (b a d : Reg) : Meaning := partForm b a d sysSwap
def execShutPost (b a d : Reg) : Meaning := partForm b a d sysShutPost
def execShutStat (b a d : Reg) : Meaning := partForm b a d sysShutStat
/-- vf.ctl: the decoder gives every word of it as the first of its four rows, and b names the op; the other three rows are the forms whose
op is theirs. -/
def execVfCtlPause (b a d : Reg) : Meaning := partForm b a d (sysVf fun w => wfield w 1 0)
def execVfCtlResume (b a d : Reg) : Meaning := partForm b a d (sysVf fun _ => 1)
def execVfCtlReset (b a d : Reg) : Meaning := partForm b a d (sysVf fun _ => 2)
def execVfCtlTeardown (b a d : Reg) : Meaning := partForm b a d (sysVf fun _ => 3)

end Sys2Proof.Machine
end

