-- ==== Sys2Proof/Machine/Shake.lean ====
section
/-! DEFINITION. SHAKE256 with 256 bits of output, as image digests and measurement registers use it (R435, R457), and the signatures over it. The permutation is the
Keccak-f[1600] of FIPS 202, which the specification names and does not repeat. -/

namespace Sys2Proof.Machine

/-- A sponge state: 25 lanes, lane (x, y) at x + 5y. -/
abbrev Lanes := List Word
def lane (a : Lanes) (x y : Nat) : Word := a.getD (x % 5 + 5 * (y % 5)) 0#64
def rotl (w : Word) (n : Nat) : Word := w.rotateLeft (n % 64)
def keccakRot : List Nat :=
  [0, 1, 62, 28, 27, 36, 44, 6, 55, 20, 3, 10, 43, 25, 39, 41, 45, 15, 21, 8, 18, 2, 61, 56, 14]
def keccakRC : List Word :=
  [0x0000000000000001#64, 0x0000000000008082#64, 0x800000000000808A#64, 0x8000000080008000#64, 0x000000000000808B#64,
   0x0000000080000001#64, 0x8000000080008081#64, 0x8000000000008009#64, 0x000000000000008A#64, 0x0000000000000088#64,
   0x0000000080008009#64, 0x000000008000000A#64, 0x000000008000808B#64, 0x800000000000008B#64, 0x8000000000008089#64,
   0x8000000000008003#64, 0x8000000000008002#64, 0x8000000000000080#64, 0x000000000000800A#64, 0x800000008000000A#64,
   0x8000000080008081#64, 0x8000000000008080#64, 0x0000000080000001#64, 0x8000000080008008#64]
def keccakTheta (a : Lanes) : Lanes :=
  let c := (List.range 5).map fun x => lane a x 0 ^^^ lane a x 1 ^^^ lane a x 2 ^^^ lane a x 3 ^^^ lane a x 4
  (List.range 25).map fun i => lane a (i % 5) (i / 5) ^^^ c.getD ((i + 4) % 5) 0#64 ^^^ rotl (c.getD ((i + 1) % 5) 0#64) 1
/-- rho and pi: lane (x, y) comes from lane (x + 3y, x). -/
def keccakRhoPi (a : Lanes) : Lanes :=
  (List.range 25).map fun i =>
    let x := i % 5
    let y := i / 5
    let sx := (x + 3 * y) % 5
    rotl (lane a sx x) (keccakRot.getD (sx + 5 * x) 0)
def keccakChi (a : Lanes) : Lanes :=
  (List.range 25).map fun i => lane a (i % 5) (i / 5) ^^^ (~~~ lane a (i % 5 + 1) (i / 5) &&& lane a (i % 5 + 2) (i / 5))
def keccakIota (rc : Word) : Lanes → Lanes
  | [] => []
  | w :: r => (w ^^^ rc) :: r
def keccakF (a : Lanes) : Lanes := keccakRC.foldl (fun s rc => keccakIota rc (keccakChi (keccakRhoPi (keccakTheta s)))) a
/-- Absorb one block of 136 bytes. -/
def absorb (a : Lanes) (block : List Byte) : Lanes :=
  keccakF (a.zipIdx.map fun l => if l.2 < 17 then l.1 ^^^ BitVec.ofNat 64 (leNat ((block.drop (8 * l.2)).take 8)) else l.1)
/-- The message with the domain bits and padding of SHAKE. -/
def shakePad (m : List Byte) : List Byte :=
  let k := 136 - m.length % 136
  if k = 1 then m ++ [0x9F#8] else m ++ 0x1F#8 :: (List.replicate (k - 2) 0#8 ++ [0x80#8])
def absorbAll : Nat → Lanes → List Byte → Lanes
  | 0, a, _ => a
  | n + 1, a, m => absorbAll n (absorb a (m.take 136)) (m.drop 136)
/-- SHAKE256 of a message: its first 32 output bytes. -/
def shake256 (m : List Byte) : List Byte :=
  let p := shakePad m
  let a := absorbAll (p.length / 136) (List.replicate 25 0#64) p
  ((a.take 4).flatMap fun w => leBytes 8 w.toNat)
/-- The measurement M extended with x: SHAKE256(M ‖ x) (R457). -/
def extendMeasure (m : BitVec 256) (x : List Byte) : BitVec 256 := BitVec.ofNat 256 (leNat (shake256 (leBytes 32 m.toNat ++ x)))

/-! ### XMSS and XMSS^MT over SHAKE256 (R20, R455, R456). The specification names the schemes and does not repeat them: their hash functions,
addresses and signatures are those of RFC 8391 (PRESUMED, log 74). -/

def be4 (n : Nat) : List Byte := (leBytes 4 n).reverse
def be8 (n : Nat) : List Byte := (leBytes 8 n).reverse
/-- One of the four keyed hashes: its number as 32 bytes, the key, the message. -/
def xmssHash (kind : Nat) (key m : List Byte) : List Byte := shake256 (List.replicate 28 0#8 ++ be4 kind ++ key ++ m)
/-- An address: layer and tree, its type and its first three words; the fourth word says which of key and masks it yields. -/
structure XmssAddr where
  kind : Nat := 0
  layer : Nat := 0
  tree : Nat := 0
  a : Nat := 0
  b : Nat := 0
  c : Nat := 0
deriving DecidableEq, Repr
def XmssAddr.key (x : XmssAddr) (seed : List Byte) (which : Nat) : List Byte :=
  xmssHash 3 seed (be4 x.layer ++ be8 x.tree ++ be4 x.kind ++ be4 x.a ++ be4 x.b ++ be4 x.c ++ be4 which)
def xorBytes (x y : List Byte) : List Byte := (x.zip y).map fun p => p.1 ^^^ p.2
/-- Steps i, i + 1, … of a chain. -/
def xmssChain (seed : List Byte) (ad : XmssAddr) : Nat → Nat → List Byte → List Byte
  | 0, _, x => x
  | n + 1, i, x =>
    let y := { ad with c := i }
    xmssChain seed ad n (i + 1) (xmssHash 0 (y.key seed 0) (xorBytes x (y.key seed 1)))
def xmssPair (seed : List Byte) (ad : XmssAddr) (l r : List Byte) : List Byte :=
  xmssHash 1 (ad.key seed 0) (xorBytes l (ad.key seed 1) ++ xorBytes r (ad.key seed 2))
/-- The 67 base-16 digits of a digest with its checksum. -/
def xmssDigits (m : List Byte) : List Nat :=
  let d := m.flatMap fun b => [b.toNat / 16, b.toNat % 16]
  let s := d.foldl (fun n x => n + (15 - x)) 0
  d ++ [s / 256 % 16, s / 16 % 16, s % 16]
/-- One level of the tree that compresses a one-time key, and the whole of it. -/
def xmssLevel (seed : List Byte) (ad : XmssAddr) (idx h : Nat) : Nat → List (List Byte) → List (List Byte)
  | i, l :: r :: rest => xmssPair seed { ad with kind := 1, a := idx, b := h, c := i } l r :: xmssLevel seed ad idx h (i + 1) rest
  | _, rest => rest
def xmssCompress (seed : List Byte) (ad : XmssAddr) (idx : Nat) : Nat → Nat → List (List Byte) → List Byte
  | 0, _, ks => ks.headD []
  | n + 1, h, ks => xmssCompress seed ad idx n (h + 1) (xmssLevel seed ad idx h 0 ks)
/-- The address of the node that stands at a height of a tree. -/
def XmssAddr.node (ad : XmssAddr) (h i : Nat) : XmssAddr := { ad with kind := 2, a := 0, b := h, c := i }
/-- Up the authentication path to the root. -/
def xmssClimb (seed : List Byte) (ad : XmssAddr) (idx : Nat) : Nat → List Byte → List (List Byte) → List Byte
  | _, x, [] => x
  | k, x, a :: rest =>
    let n := ad.node k (idx / 2 ^ (k + 1))
    xmssClimb seed ad idx (k + 1) (if idx / 2 ^ k % 2 = 0 then xmssPair seed n x a else xmssPair seed n a x) rest
/-- The chain of a one-time key. -/
def XmssAddr.chain (ad : XmssAddr) (leaf c : Nat) : XmssAddr := { ad with kind := 0, a := leaf, b := c, c := 0 }
/-- The root that the chains and the path of a signature yield for a digest. -/
def xmssRoot (seed : List Byte) (ad : XmssAddr) (leaf : Nat) (digest : List Byte) (chains path : List (List Byte)) : List Byte :=
  let ends := (chains.zip (xmssDigits digest)).zipIdx.map fun x => xmssChain seed (ad.chain leaf x.2) (15 - x.1.2) x.1.2 x.1.1
  xmssClimb seed ad leaf 0 (xmssCompress seed ad leaf 7 0 ends) path
/-- The digest of a message under a randomizer, a root and a leaf index. -/
def xmssDigest (r root : List Byte) (idx : Nat) (m : List Byte) : List Byte := xmssHash 2 (r ++ root ++ List.replicate 24 0#8 ++ be8 idx) m
/-- The 32-byte pieces of a list. -/
def pieces32 (n : Nat) (l : List Byte) : List (List Byte) := (List.range n).map fun i => (l.drop (32 * i)).take 32
/-- Bytes of a signature with one tree of height 20: index, randomizer, 67 chains, 20 siblings. -/
def xmssSigLen : Nat := 4 + 32 + 67 * 32 + 20 * 32
/-- The signature of a message under a public key, its root and its seed, is good. -/
def xmssVerify (root seed m sig : List Byte) : Bool :=
  let idx := leNat (sig.take 4).reverse
  decide (sig.length = xmssSigLen) && decide (idx < 2 ^ 20)
    && decide (xmssRoot seed {} idx (xmssDigest ((sig.drop 4).take 32) root idx m) (pieces32 67 (sig.drop 36)) (pieces32 20 (sig.drop (36 + 67 * 32)))
      = root)

/-! XMSSMT-SHAKE_40/4_256: four layers of trees of height 10. -/

/-- The tree of a layer, and the leaf in it, that leaf idx of the whole passes. -/
def mtTree (idx j : Nat) : XmssAddr := { layer := j, tree := idx / 2 ^ (10 * (j + 1)) }
def mtLeaf (idx j : Nat) : Nat := idx / 2 ^ (10 * j) % 2 ^ 10
/-- Bytes of a signature: index, randomizer, and per layer 67 chains and 10 siblings. -/
def mtSigLen : Nat := 5 + 32 + 4 * (77 * 32)
/-- The root that the layers of a signature yield, from layer j on. -/
def mtRoot (seed : List Byte) (idx : Nat) : Nat → Nat → List Byte → List Byte → List Byte
  | 0, _, x, _ => x
  | n + 1, j, x, sig =>
    mtRoot seed idx n (j + 1) (xmssRoot seed (mtTree idx j) (mtLeaf idx j) x (pieces32 67 sig) (pieces32 10 (sig.drop (67 * 32)))) (sig.drop (77 * 32))
/-- The signature of a message under a public key of the scheme is good. -/
def xmssMtVerify (root seed m sig : List Byte) : Bool :=
  let idx := leNat (sig.take 5).reverse
  decide (sig.length = mtSigLen) && decide (idx < 2 ^ 40)
    && decide (mtRoot seed idx 4 0 (xmssDigest ((sig.drop 5).take 32) root idx m) (sig.drop 37) = root)
/-- A node of a tree with the given one-time secrets, by height and index. -/
def xmssNode (seed : List Byte) (ad : XmssAddr) (sk : Nat → Nat → List Byte) : Nat → Nat → List Byte
  | 0, i => xmssCompress seed ad i 7 0 ((List.range 67).map fun c => xmssChain seed (ad.chain i c) 15 0 (sk i c))
  | h + 1, i => xmssPair seed (ad.node h i) (xmssNode seed ad sk h (2 * i)) (xmssNode seed ad sk h (2 * i + 1))
/-- The chains and the path that sign a digest with one leaf of a tree. -/
def xmssSignLeaf (seed : List Byte) (ad : XmssAddr) (sk : Nat → Nat → List Byte) (leaf : Nat) (digest : List Byte) : List Byte :=
  ((xmssDigits digest).zipIdx.flatMap fun d => xmssChain seed (ad.chain leaf d.2) d.1 0 (sk leaf d.2))
    ++ (List.range 10).flatMap fun k => xmssNode seed ad sk k (leaf / 2 ^ k ^^^ 1)
/-- The one-time secrets of a tree of the identity key, and the key's root. -/
def identityTree (ad : XmssAddr) (leaf c : Nat) : List Byte := leBytes 32 (Config.identitySecret ad.layer ad.tree leaf c).toNat
def identityNode (ad : XmssAddr) : Nat → Nat → List Byte := xmssNode (leBytes 32 Config.identitySeed.toNat) ad (identityTree ad)
def identityRoot : List Byte := identityNode (mtTree 0 3) 10 0
/-- Each layer signs the root of the tree below it. -/
def mtSign (idx : Nat) : Nat → Nat → List Byte → List Byte
  | 0, _, _ => []
  | n + 1, j, x =>
    xmssSignLeaf (leBytes 32 Config.identitySeed.toNat) (mtTree idx j) (identityTree (mtTree idx j)) (mtLeaf idx j) x
      ++ mtSign idx n (j + 1) (identityNode (mtTree idx j) 10 0)
/-- The signature of a message with a leaf of the identity key (R456). -/
def identitySign (idx : Nat) (m : List Byte) : List Byte :=
  let r := leBytes 32 (Config.identityRandom idx).toNat
  (leBytes 5 idx).reverse ++ r ++ mtSign idx 4 0 (xmssDigest r identityRoot idx m)

end Sys2Proof.Machine
end

