-- ==== Sys2Proof/Machine/Admission.lean ====
section
/-! DEFINITION. Jinum images and the admission of launches (R434 to R443). -/

namespace Sys2Proof.Machine

/-! ### The image (R434, R435) -/

/-- A field [hi:lo] of the little-endian number at a byte offset. -/
def imgBits (im : List Byte) (off hi lo : Nat) : Nat := bits (leNat ((im.drop off).take (hi / 8 + 1))) hi lo
/-- A section: its type and its bytes. -/
abbrev Sect := Nat × List Byte
/-- Cut a section into records of n bytes. -/
def records (n : Nat) : Nat → List Byte → List (List Byte)
  | 0, _ => []
  | k + 1, bs => if bs.isEmpty then [] else bs.take n :: records n k (bs.drop n)
def recordsOf (n : Nat) (bs : List Byte) : List (List Byte) := records n bs.length bs
def imgNsec (im : List Byte) : Nat := imgBits im 0 47 40
/-- Entry k of the directory: type, offset, length, and its reserved word. -/
def dirEntry (im : List Byte) (k : Nat) : Nat × Nat × Nat × Nat :=
  let o := 64 + 16 * k
  (imgBits im o 31 0, imgBits im (o + 4) 31 0, imgBits im (o + 8) 31 0, imgBits im (o + 12) 31 0)
def imgDir (im : List Byte) : List (Nat × Nat × Nat × Nat) := (List.range (imgNsec im)).map (dirEntry im)
def imgSects (im : List Byte) : List Sect := (imgDir im).map fun e => (e.1, (im.drop e.2.1).take e.2.2.1)
/-- The bytes of the sections of a type, and of the only one of a type. -/
def sectsOf (ss : List Sect) (ty : Nat) : List (List Byte) := (ss.filter fun x => decide (x.1 = ty)).map fun x => x.2
def sectOf (ss : List Sect) (ty : Nat) : List Byte := (sectsOf ss ty).headD []
def zeroBytes (bs : List Byte) : Bool := bs.all fun b => decide (b = 0#8)
/-- A handler record that its zero bytes, its entry's fixed fields or its class make malformed (R437). -/
def handlerOk (r : List Byte) : Bool :=
  let e := leNat (r.take 16)
  let w := leNat ((r.drop 16).take 8)
  zeroBytes (r.drop 24) && decide (bits e 31 0 = 0) && decide (bits e 32 32 = 1) && decide (bits e 39 36 = 0) && decide (bits e 64 64 = 0)
    && decide (bits w 63 26 = 0) && decide (bits w 15 10 = 0) && decide (bits w 7 6 = 0) && decide (bits w 9 8 ≠ 3)
/-- A shape record that holds a non-zero reserved field or a reserved value of a field (R3, R162; log 88). -/
def shapeReserved (r : Rec512) : Bool :=
  decide (resBits r 415 393 ≠ 0) || decide (2 ≤ shapeGet r 10) || (List.range 4).any fun i => decide (shSplit r i = 3)
/-- The layout of one section by its type. -/
def sectOk (ver : Nat) (reflex : Bool) (s : Sect) : Bool :=
  let n := s.2.length
  match s.1 with
  | 1 => decide (n % 2 = 0)
  | 2 => decide (n % 32 = 0) && (recordsOf 32 s.2).all handlerOk
  | 3 => decide (n % 8 = 0) && (recordsOf 8 s.2).all fun r => zeroBytes (r.drop 4)
  | 4 => decide (n % 8 = 0) && (recordsOf 8 s.2).all fun r => decide (leNat (r.drop 4) ≤ 1)
  | 5 => decide (n % 64 = 0) && (recordsOf 64 s.2).all fun r =>
      let e : Rec512 := BitVec.ofNat 512 (leNat r)
      decide (resVbase e = 0) && decide (resLength e = 0) && decide (resTenant e = 0) && resValid e
  | 6 => decide (n % 64 = 0)
  | 7 => decide (n % 64 = 0) && (recordsOf 64 s.2).all fun r => !shapeReserved (BitVec.ofNat 512 (leNat r))
  | 8 => decide (16 ≤ n) && (let p := leNat (s.2.take 16); decide (bits p 63 12 = 0) && decide (bits p 127 112 = 0))
  | 9 => decide (8 ≤ n) && decide ((n - 8) % 64 = 0) && decide (leNat (s.2.take 8) % 64 = 0) && decide (ver = 2)
  | 10 => decide (n = 32) && reflex && decide (ver = 2) && (recordsOf 8 s.2).all fun r => !wchReserved (leNat r)
  | 11 => decide (n % 2 = 0) && reflex && decide (ver = 2)
  | 12 => decide (n = 32)
  | _ => false
/-- Magic, version, layout and reserved bits (R434, R435, R443). -/
def imgOk (im : List Byte) (len : Nat) : Bool :=
  let d := imgDir im
  let ss := imgSects im
  let ver := imgBits im 0 39 32
  decide (64 ≤ im.length) && decide (imgBits im 0 31 0 = 0x4D554E4A) && (decide (ver = 1) || decide (ver = 2))
    && decide (imgBits im 0 511 176 = 0) && decide (imgBits im 0 127 120 = 0) && decide (imgBits im 0 63 50 = 0)
    && decide (imgBits im 0 95 64 = len) && decide (1 ≤ imgNsec im) && decide (imgNsec im ≤ 16) && decide (imgBits im 0 143 128 ≤ 4096)
    && decide (64 + 16 * imgNsec im ≤ len)
    && d.all (fun e => decide (1 ≤ e.1) && decide (e.1 ≤ 12) && decide (e.2.1 + e.2.2.1 ≤ len) && decide (e.2.2.2 = 0))
    && (List.range 13).all (fun ty => decide (ty = 8) || decide (ty = 9) || decide ((sectsOf ss ty).length ≤ 1))
    && decide ((d.getLast?.map fun e => e.1) = some 12)
    && ss.all (sectOk ver (imgBits im 0 48 48 = 1)) && decide (imgBits im 0 143 128 = (sectOf ss 5).length / 64)
/-- The digest: SHAKE256 of the image with the digest section's bytes zero. -/
def imgDigest (im : List Byte) : List Byte :=
  match (imgDir im).find? fun e => decide (e.1 = 12) with
  | some e => shake256 (im.take e.2.1 ++ List.replicate e.2.2.1 0#8 ++ im.drop (e.2.1 + e.2.2.1))
  | none => []

/-! ### Fit (R112, R117, R302, R322, R436, R437) -/

/-- Keep regions from 0x1000 upwards, each at a multiple of 256. -/
def layKeeps : Nat → List (List Byte) → List (Nat × Nat × Bool)
  | _, [] => []
  | a, r :: rest =>
    let n := leNat (r.take 4)
    (a, n, decide (leNat (r.drop 4) = 1)) :: layKeeps ((a + n + 255) / 256 * 256) rest
def keepTop (ks : List (Nat × Nat × Bool)) : Nat := ks.foldl (fun n k => max n (k.1 + k.2.1)) 0x1000
structure HRec where
  entry : Nat
  chan : Nat
  cls : Nat
  arg : Nat
deriving DecidableEq, Repr
def hRec (r : List Byte) : HRec :=
  let w := leNat ((r.drop 16).take 8)
  { entry := leNat (r.take 16), chan := bits w 5 0, cls := bits w 9 8, arg := bits w 25 16 }
def imgHandlers (ss : List Sect) : List HRec := (recordsOf 32 (sectOf ss 2)).map hRec
def imgGroups (ss : List Sect) : List (BitVec 512) := (recordsOf 64 (sectOf ss 6)).map fun r => BitVec.ofNat 512 (leNat r)
/-- Step 3 of R441 for a partition. -/
def State.fits (s : State) (p : Part) (im : List Byte) (ss : List Sect) : Bool :=
  let i := p.shareIdx
  let t0 := p.tiles.headD 0
  let uq := decide (imgBits im 0 49 49 = 1)
  let ks := layKeeps 0x1000 (recordsOf 8 (sectOf ss 4))
  let room := if uq then s.windowTop t0 i else (s.upperQuarter t0 i).getD (s.windowTop t0 i)
  let gs := imgGroups ss
  decide ((sectOf ss 1).length ≤ (if descHalf p.desc = 0 then 0x8000 else 0x4000)) && decide ((sectOf ss 11).length ≤ 0x2000)
    && decide (ks.length ≤ 32) && decide (keepTop ks ≤ room) && (!p.isReflex || ks.all fun k => !k.2.2)
    && decide (imgBits im 0 159 144 * 1024 ≤ room) && (!uq || (!p.isReflex && p.tiles.all fun t => !s.armed t))
    && p.tiles.all (fun t => decide (imgBits im 0 175 160 * 1024 ≤ s.bWindow t i))
    && (sectsOf ss 9).all (fun b => p.tiles.all fun t => decide (leNat (b.take 8) + (b.length - 8) ≤ s.bWindow t i))
    && decide ((sectOf ss 7).length ≤ 0x1000) && decide (gs.length ≤ 256)
    && gs.all (fun g => decide (g ≠ 0#512) && decide (g.toNat < 2 ^ p.size))
    && (List.range p.size).all (fun l => decide (gs.countP (fun g => g.getLsbD l) ≤ 4))
    && (imgHandlers ss).all fun h =>
      ownChannel (decide (descHalf p.desc ≠ 0)) i h.chan
        && (decide (h.cls = 0) || (decide (h.cls = 1) && decide (h.arg % 256 < gs.length)) || (decide (h.cls = 2) && decide (h.arg < p.size)))

/-! ### Binding (R438) -/

/-- The merged table, or none: every template bound exactly once, no binding without a template, no malformed entry. -/
def mergeTable (split upper : Bool) (tenant : Nat) (temps : List Rec512) (bs : List (Nat × Nat)) : Option (List Rec512) :=
  if bs.any fun b => decide (bits b.1 63 60 ≠ 0) || decide (bits b.2 63 48 ≠ 0) || decide (temps.length ≤ bits b.1 59 48) then none
  else temps.zipIdx.mapM fun x =>
    match bs.filter fun b => decide (bits b.1 59 48 = x.2) with
    | [b] =>
      let e := setRec (setRec (setRec x.1 47 0 (bits b.1 47 0)) 95 48 (bits b.2 47 0)) 127 124 tenant
      if resMalformed split upper e then none else some e
    | _ => none

/-! ### Writing a launch (R441 step 5) -/

/-- Where the resource table of a partition's launch lies: the placer's choice in the device structures range (R56). -/
def tableBase (pid : Nat) : Nat := Config.mainMemoryTop + pid * 0x40000
/-- The placer's translation: a TLB's page, else its own. -/
def State.placerKey (s : State) (tenant va : Nat) : Nat :=
  match s.tiles.findSome? fun t => s.tlbLookup t.1 tenant va with
  | some e => paKey tenant (e.pa + (va - e.va))
  | none => Config.placerFrame tenant (va / 4096) % (Config.mainMemoryTop / 4096) * 4096 + va % 4096
/-- A data section goes through its resource. -/
def State.writeData (s : State) (tenant : Nat) (table : List Rec512) (d : List Byte) : State :=
  let p := leNat (d.take 16)
  match table[bits p 11 0]? with
  | none => s
  | some e =>
    let va := resVbase e + bits p 111 64
    let bs := (d.drop 16).take (resLength e - bits p 111 64)
    s.writeThrough (bs.zipIdx.map fun b => (s.placerKey tenant (va + b.2), b.1, 0xFF#8))
/-- A B-store section goes into the window and its backing. -/
def State.writeBSection (s : State) (t : Nat) (i : Fin 3) (d : List Byte) : State :=
  let o := leNat (d.take 8)
  let cells := (d.drop 8).zipIdx.map fun b => (s.bKey t i (o + b.2), b.1, false)
  ((s.landCells [] [] cells).1).backB t i o cells
/-- grpslot registers of a logical tile (R323). -/
def groupSlots (gs : List (BitVec 512)) (l : Nat) : List Word :=
  (gs.zipIdx.filter fun g => g.1.getLsbD l).map fun g =>
    BitVec.ofNat 64 (2 ^ 63 + (members g.1).length * 2 ^ 32 + groupRank g.1 l * 2 ^ 16 + g.2)
def mkHandler (e tenant : Nat) : Handler :=
  { keep := BitVec.ofNat 32 (bits e 127 96), pc := BitVec.ofNat 32 (bits e 95 64), budget := BitVec.ofNat 24 (bits e 63 40), tenant := tenant,
    prio := bits e 35 34, mask := decide (bits e 33 33 = 1), valid := true }
/-- A handler record is placed on a logical tile by its class. -/
def HRec.on (h : HRec) (gs : List (BitVec 512)) (l : Nat) : Bool :=
  match h.cls with
  | 0 => true
  | 1 => (gs.getD (h.arg % 256) 0#512).getLsbD l
  | _ => decide (h.arg = l)
/-- The tiles of a bay that belong to the launch, as a mask of bay tile indices (R120). -/
def bayMaskOf (ts : List Nat) (b : Nat) : BitVec 16 :=
  (ts.filter fun t => decide (bayOf t = b)).foldl (fun m t => m ||| (1#16 <<< bayIdx t)) 0#16
/-- A tile at the start of a launch: handlers, group slots, bay mask, code length; counters, bound registers, engine state, channels and timers
as at launch start (R88, R254, R397). -/
def Tile.startLaunch (x : Tile) (t l : Nat) (p : Part) (tenant : Nat) (hs : List HRec) (gs : List (BitVec 512)) (code : Nat) : Tile :=
  let i := p.shareIdx
  let sp := x.split
  let gw := groupSlots gs l
  let hOf (c : Nat) : Handler :=
    match (hs.filter fun h => decide (h.chan = c) && h.on gs l).getLast? with
    | some h => mkHandler h.entry tenant
    | none => {}
  let x1 := x.modShare i fun y => { y with out := [], seq := 0, sent := 0, received := 0, mark := false, bayMask := bayMaskOf p.tiles (bayOf t) }
  { x1 with
    handlers := Vector.ofFn fun c : Fin 64 => if ownChannel sp i c.val then hOf c.val else x.handlers.get c
    grpslot := Vector.ofFn fun c : Fin 8 => if !sp || (decide (4 ≤ c.val) == decide (i = 1)) then gw.getD (c.val % 4) 0#64 else x.grpslot.get c
    barriers := x.barriers.filter fun b => decide ((b.1 / 2048 = 1) ≠ (i = 1))
    bnd := Vector.ofFn fun c : Fin 64 => if ownChannel sp i c.val then {} else x.bnd.get c
    bndflag := (if !sp then 0#64 else if i = 1 then x.bndflag &&& 0xFFFFFFFF#64 else x.bndflag &&& 0xFFFFFFFF00000000#64)
    engines := x.engines.set i.val {} i.isLt
    chans := Vector.ofFn fun c : Fin 16 => if !sp || (decide (8 ≤ c.val) == decide (i = 1)) then {} else x.chans.get c
    timers := (if i = 0 then Vector.replicate 4 {} else x.timers)
    codeLen := x.codeLen.set i.val code i.isLt }
/-- The start of a launch on a tile: at its end the dirty bits of the window are clear (R110, R441). -/
def State.startTile (s : State) (t : Nat) (p : Part) (tenant : Nat) (ss : List Sect) (ks : List (Nat × Nat × Bool)) : State :=
  let i := p.shareIdx
  let code := sectOf ss 1
  let s1 := ks.foldl (fun (a : State) k => a.zeroWin t i k.1 k.2.1) (s.zeroWin t i 0 0x1000)
  let s2 := s1.dropKeys fun k => s.ownAcc t i k
  let s3 := s2.storeBytes (s2.spad t i 0) (sectOf ss 7)
  let s4 := { s3 with mem := s3.mem.write (codeKey t (codeOffset i)) code }
  let s5 := (sectsOf ss 9).foldl (fun (a : State) d => a.writeBSection t i d) s4
  let s6 := { s5 with dirty := s5.dirty.filter fun k => !s5.ownSpad t i (k * 256) }
  s6.modTile t fun x => x.startLaunch t (p.logical t) p tenant (imgHandlers ss) (imgGroups ss) code.length
/-- Launch numbers run from 1 to 65535 and begin again. -/
def launchNumber (k : Nat) : Nat := (k - 1) % 65535 + 1
def admLogEntry (tenant pid num : Nat) (dig : List Byte) : List Byte := leBytes 1 tenant ++ leBytes 1 pid ++ leBytes 2 num ++ dig
/-- The launch is written and its partition holds it; the measurements are extended (R457). A version 1 image has no launch-area records (R443); the
table and the data sections go through the shared cache, a whole sector at a time (R83, R483). -/
def State.startLaunch (s : State) (pid f q : Nat) (p : Part) (im : List Byte) (ss0 : List Sect) (table : List Rec512) : State :=
  let ss := if imgBits im 0 39 32 = 1 then ss0.filter fun x => decide (x.1 ≠ 7) else ss0
  let tenant := f % 16
  let num := launchNumber p.nextLaunch
  let ks := layKeeps 0x1000 (recordsOf 8 (sectOf ss 4))
  let wk := (ks.filter fun k => decide (k.1 + k.2.1 ≤ 0x40000)).map fun k => (k.1, k.2.1, false)
  let ws := ((sectsOf ss 9).filter fun d => decide (leNat (d.take 8) + (d.length - 8) ≤ 0x80000)).map fun d => (leNat (d.take 8), d.drop 8)
  let l : Launch := {
    num := num
    tenant := tenant
    queue := q
    resBase := tableBase pid
    resCount := table.length
    spawnBudget := imgBits im 0 119 96 + 1
    spawns := (recordsOf 8 (sectOf ss 3)).map fun r => leNat (r.take 4)
    keeps := ks
    groups := imgGroups ss
    uq := decide (imgBits im 0 49 49 = 1)
    reflex := p.isReflex
    wkeeps := (if p.isReflex then wk else [])
    wshapes := (if p.isReflex then sectOf ss 7 else [])
    wcode := sectOf ss 11
    weights := (if p.isReflex then ws else [])
    drained := p.tiles.filter fun t => decide (lifeState (s.life (s.physTile t)) = 2)
    sweepAt := s.cycle }
  let s1 := s.modPart pid fun x => { x with launch := some l, nextLaunch := x.nextLaunch + 1 }
  let s2 := s1.writeThrough (plainCells ((List.range (64 * table.length)).map fun k => tableBase pid + k) (table.flatMap fun e => leBytes 64 e.toNat))
  let s3 := p.tiles.foldl (fun (a : State) t => a.startTile t p tenant ss ks) s2
  let s4 := (sectsOf ss 8).foldl (fun (a : State) d => a.writeData tenant table d) s3
  let dig := sectOf ss 12
  s4.modSys fun y =>
    let m3 := if p.isReflex then y.meas.set 3 (extendMeasure y.meas[3] dig) else y.meas
    { y with meas := m3.set 4 (extendMeasure m3[4] (admLogEntry tenant pid num dig)), admlog := y.admlog + 1 }

/-! ### The steps of an admission (R440, R441) -/

/-- The status of an entry for a partition, with the merged table when it is 0. -/
def State.admitLaunch (s : State) (f pid : Nat) (im : List Byte) (len : Nat) (bs : List (Nat × Nat)) : Nat × List Rec512 :=
  let ss := imgSects im
  if !imgOk im len then (1, [])
  else if imgDigest im ≠ sectOf ss 12 then (2, [])
  else match s.parts.get? pid with
    | none => (3, [])
    | some p =>
      if descTenant p.desc ≠ f % 16 ∨ p.isReflex ≠ decide (imgBits im 0 48 48 = 1) then (3, [])
      else if !s.fits p im ss then (4, [])
      else match mergeTable (decide (descHalf p.desc ≠ 0)) (decide (p.shareIdx = 1)) (f % 16)
          ((recordsOf 64 (sectOf ss 5)).map fun r => BitVec.ofNat 512 (leNat r)) bs with
        | none => (5, [])
        | some t => (0, t)
/-- The named launch has ended, or the entry waits for none. -/
def State.waitOver (s : State) (w1 : Nat) : Bool :=
  bits w1 47 47 = 0 || (match s.parts.get? (bits w1 35 32) with
    | none => false
    | some p =>
      let n := bits w1 63 48
      decide (1 ≤ n) && decide (n < p.nextLaunch) && decide ((p.launch.map fun l => l.num) ≠ some n))
/-- Queues whose head entry names the partition and may be taken: function, queue, and when the doorbell that submitted the entry came. -/
def State.candidates (s : State) (pid : Nat) : List (Nat × Fin 8 × Nat) :=
  (List.range 16).flatMap fun f => (List.finRange 8).filterMap fun q =>
    let x := (s.fn f).queues.get q
    match x.pending with
    | [] => none
    | i :: _ =>
      let w := s.entryWord f x i 1
      if decide (bits w 35 32 = pid) && !(s.fn f).resetting && (s.waitOver w || x.cancelled.contains i) then some (f, q, (x.bells.get? i).getD 0) else none
def earliest : List (Nat × Fin 8 × Nat) → Option (Nat × Fin 8 × Nat)
  | [] => none
  | x :: r => match earliest r with
    | none => some x
    | some y => if y.2.2 < x.2.2 then some y else some x
def HostQ.take (x : HostQ) (i : Nat) : HostQ :=
  { x with head := BitVec.ofNat 64 ((i + 1) % x.count), cancelled := nErase i x.cancelled, bells := x.bells.erase i }
/-- The placer takes the next entry for the partition n, which holds no launch. -/
def State.admission (s : State) (pid : Nat) : Option State :=
  let free := match s.parts.get? pid with
    | some p => p.launch.isNone && decide (p.state = 1)
    | none => decide (pid < 16)
  if !free || s.sys.asleep || s.sys.suspended || decide (s.sys.bootst ≠ 6) then none
  else (earliest (s.candidates pid)).bind fun c =>
    let f := c.1
    let x := (s.fn f).queues.get c.2.1
    match x.pending with
    | [] => none
    | i :: _ =>
      let s0 := s.setQueue f c.2.1 (x.take i)
      if x.cancelled.contains i then some s0
      else
        let len := bits (s.entryWord f x i 1) 31 0
        let im := s.mem.bytes (hostKey f (s.entryWord f x i 0)) len
        let at' := s.entryWord f x i 2
        let bs := (List.range (bits (s.entryWord f x i 3) 15 0)).map fun k =>
          (leNat (s.mem.bytes (hostKey f (at' + 16 * k)) 8), leNat (s.mem.bytes (hostKey f (at' + 16 * k + 8)) 8))
        let zero := (List.range 3).all (fun k => decide (s.entryWord f x i (4 + k) = 0)) && decide (bits (s.entryWord f x i 1) 46 36 = 0)
          && decide (bits (s.entryWord f x i 3) 63 16 = 0)
        let r := s.admitLaunch f pid im len bs
        let st := if zero then r.1 else 1
        if st ≠ 0 then some (s0.writeEntry f x i 0 st)
        else match s.parts.get? pid with
          | none => none
          | some p => some ((s0.startLaunch pid f c.2.1.val p im (imgSects im) r.2).writeEntry f x i (launchNumber p.nextLaunch) 0)
def execAdmission (n : Nat) : Meaning := fun s => event "ADMISSION" (s.admission n)

end Sys2Proof.Machine
end

