-- ==== Sys2Proof/Machine/Control.lean ====
section
/-! DEFINITION. Branches, jumps, the hardware loop and the prefix: majors 11 to 19 and their compact aliases
(R206 to R212, R43 to R45). -/

namespace Sys2Proof.Machine

/-- The address of the instruction that issues. -/
def address : Exec Word := do let s ← get; pure s.half.pc

/-- A branch: both fields are sources, a at the lower bit position (R206). -/
def branch (d : Word) (b a : Reg) (cond : Word → Word → Bool) : Meaning :=
  issue { srcs := [a, b] } do
    let x ← rd a
    let y ← rd b
    let pc ← address
    pure (if cond x y then .jump (pc + d) else .next)
def execBEq (imm : BitVec 12) (b a : Reg) : Meaning := branch (disp imm) b a fun x y => decide (x = y)
def execBNe (imm : BitVec 12) (b a : Reg) : Meaning := branch (disp imm) b a fun x y => decide (x ≠ y)
def execBLt (imm : BitVec 12) (b a : Reg) : Meaning := branch (disp imm) b a fun x y => x.slt y
def execBGe (imm : BitVec 12) (b a : Reg) : Meaning := branch (disp imm) b a fun x y => !x.slt y
def execBLtn (imm : BitVec 12) (b a : Reg) : Meaning := branch (disp imm) b a fun x y => x.ult y
def execBGen (imm : BitVec 12) (b a : Reg) : Meaning := branch (disp imm) b a fun x y => !x.ult y

def compactBranch (imm : BitVec 6) (a : CReg) (cond : Word → Bool) : Meaning :=
  issue { srcs := [a.src], len := 2 } do
    let x ← rd a.src
    let pc ← address
    pure (if cond x then .jump (pc + disp imm) else .next)
def execCompactBEq (imm : BitVec 6) (a : CReg) : Meaning := compactBranch imm a fun x => decide (x = 0#64)
def execCompactBNe (imm : BitVec 6) (a : CReg) : Meaning := compactBranch imm a fun x => decide (x ≠ 0#64)

def execJ (imm : BitVec 24) : Meaning := issue {} (do let pc ← address; pure (.jump (pc + disp imm)))
def execCompactJ (imm : BitVec 10) : Meaning :=
  issue { len := 2 } (do let pc ← address; pure (.jump (pc + disp imm)))
/-- jal writes lk, which is g39, and pushes it (R207). -/
def execJal (imm : BitVec 24) : Meaning :=
  issue {  dsts := [.g 39] } do
    let pc ← address
    wrPush (.g 39) (pc + 4#64)
    pure (.jump (pc + disp imm))
def execNop : Meaning := issue {} (pure .next)
def execCompactNop : Meaning := issue { len := 2 } (pure .next)

/-- A jump to a register; an odd target is an illegal operand and nothing changes (R208). -/
def jumpReg (len : Nat) (a : Reg) : Meaning :=
  issue { srcs := [a], len := len } do
    let t ← rd a
    requireOperand (!t.getLsbD 0)
    pure (.jump t)
def execJr (a : Reg) : Meaning := jumpReg 4 a
def execCompactJrLk : Meaning := jumpReg 2 (.g 39)
def execJalr (a d : Reg) : Meaning :=
  issue (opA a d) do
    let t ← rd a
    requireOperand (!t.getLsbD 0)
    let pc ← address
    wrPush d (pc + 4#64)
    pure (.jump t)

/-- The hardware loop; an empty body and a loop within a loop are illegal before the count is read (R211). -/
def execLp (len : BitVec 12) (a : Reg) : Meaning := fun s =>
  s |> issue { srcs := [a], badCode := decide (len = 0#12) || decide (s.half.lpcnt ≠ 0#64) } do
    let n ← rd a
    let pc ← address
    let beg := pc + 4#64
    let fin := beg + BitVec.ofNat 64 (2 * len.toNat)
    if n = 0#64 then pure (.jump fin)
    else do
      update fun s => s.modHalf fun h => { h with lpbeg := beg, lpend := fin, lpcnt := n }
      pure .next
def execPca (d : Reg) : Meaning := issueValue { dsts := [d] } d (do let pc ← address; pure (pc + 4#64))

/-- The parcel of a prefix (R44). -/
def pfxParcel (fmt : BitVec 4) (rnd : BitVec 3) (sat : Bool) (gs : BitVec 2) : BitVec 16 :=
  BitVec.ofNat 16 (fmt.toNat * 2 ^ 12 + rnd.toNat * 2 ^ 9 + (if sat then 2 ^ 8 else 0) + gs.toNat * 2 ^ 6 + 0x26)
/-- pfx sets status.pp and keeps the parcel (R45); a pending prefix in front of it is an illegal prefix. -/
def execPfx (fmt : BitVec 4) (rnd : BitVec 3) (sat : Bool) (gs : BitVec 2) : Meaning :=
  issue { len := 2, isPfx := true } do
    update fun s => s.modHalf fun h => { h.setPP true with pfxsave := pfxParcel fmt rnd sat gs }
    pure .next

end Sys2Proof.Machine
end

