-- ==== Sys2Proof/Machine/Host.lean ====
section
/-! DEFINITION. The host port: BAR registers and their reads, the inbox, request and error windows, the host channel and host queues (R439, R445 to R449). -/

namespace Sys2Proof.Machine

/-! ### The inbox window (R446) -/

def Fn.sendStatus (f : Fn) (st : Nat) : Fn :=
  let n := f.sendst.toNat / 2 ^ 32 % 2 ^ 32
  { f with sendst := BitVec.ofNat 64 (st + (if st = 0 then n else (n + 1) % 2 ^ 32) * 2 ^ 32) }
/-- A partition of the tenant holds a launch of this number. -/
def State.hasLaunch (s : State) (tenant num : Nat) : Bool :=
  s.parts.any fun p => match p.2.launch with | some l => decide (l.tenant = tenant) && decide (l.num = num) | none => false
/-- The partition of a tenant that holds a launch number and the tile that a tile word names: the lowest such partition (R446; DESIGN CHOICE, log 89). -/
def State.launchPart (s : State) (tenant num w : Nat) : Option (Nat × Part × Launch) :=
  s.parts.findSome? fun p => p.2.launch.bind fun l =>
    if l.tenant = tenant ∧ l.num = num ∧ p.2.isReflex = decide (1024 ≤ w) ∧ (p.2.tileOf (w % 1024)).isSome then some (p.1, p.2, l) else none
/-- The refusal of a send, in the order of R446's conditions: asleep, reserved bit or length, launch, destination. -/
def State.sendRefusal (s : State) (f : Fn) (fn : Nat) : Nat :=
  let c := f.sendctl
  let n := wfield c 31 24
  let w := wfield c 10 0
  if s.sys.asleep && decide (w < 1024) then 4
  else if !onlyBits c [(10, 0), (21, 16), (32, 24), (63, 48)] || decide (n % 8 ≠ 0) || decide (240 < n)
      || (c.getLsbD 32 && decide (n ≠ 24)) then 3
  else if !s.hasLaunch fn (wfield c 63 48) then 1
  else if (s.launchPart fn (wfield c 63 48) w).isNone then 2
  else 0
/-- SENDDB: the message takes effect after every earlier posted write of the function; a spawn's channel field is 0 (R293, R304, R446). -/
def State.senddb (s : State) (fn : Fin 16) : Option State :=
  let f := s.fn fn.val
  if s.refuses fn.val then some s
  else if s.sliceQ.any fun o => decide (o.what.hostFn = some fn) then none
  else
    let c := f.sendctl
    let st := s.sendRefusal f fn.val
    let s1 := s.modFn fn.val fun g => g.sendStatus st
    if st ≠ 0 then some s1
    else (s.launchPart fn.val (wfield c 63 48) (wfield c 10 0)).bind fun p => (p.2.1.tileOf (wfield c 10 0 % 1024)).map fun t =>
      let spawn := c.getLsbD 32
      let m : Msg := {
        msgid := BitVec.ofNat 32 (0x7FF * 2 ^ 21 + f.seq % 2 ^ 21), launch := p.2.2.num, tenant := fn.val, kind := if spawn then 1 else 0,
        source := 0x7FF#11, vnet := 0, chan := if spawn then 0 else wfield c 21 16, dest := BitVec.ofNat 11 (wfield c 10 0), dst := t, src := 4096 + fn.val,
        pid := p.1
        body := (List.range (wfield c 31 24)).map fun i => (f.payload[i]?).getD 0#8 }
      let s2 := s1.modFn fn.val fun g => { g with seq := (g.seq + 1) % 2 ^ 21 }
      let s3 := s2.modPart p.1 fun q => { q with launch := q.launch.map fun l => { l with hostSent := l.hostSent + 1 } }
      if savedState p.2.1.state then
        ((s3.modPart p.1 fun q => { q with launch := q.launch.map fun l => { l with hostSent := l.hostSent - 1 } }).moveDeadAt
          t m.dest m 2 0 0#64 0#64)
      else { s3 with net := s3.net ++ [m] }
def execSenddb (fn : Fin 16) : Meaning := fun s => event "SENDDB" (s.senddb fn)

/-! ### The host channel (R447) -/

def Fn.ringSize (f : Fn) : Nat := let n := f.hcsize.toNat % 16; if 4 ≤ n ∧ n ≤ 12 then 2 ^ n else 0
def Fn.ringRoom (f : Fn) : Bool := decide (f.hcprod.toNat - f.hccons.toNat < f.ringSize)
/-- An entry is written, then HCPROD rises, then the type 1 event is posted. -/
def State.writeRing (s : State) (fn : Nat) (m : Msg) : State :=
  let f := s.fn fn
  let i := f.hcprod.toNat % f.ringSize
  let a := hostKey (fn % 16) (f.hcbase.toNat / 4096 * 4096 + 256 * i)
  let bs := leBytes 16 m.header ++ m.body ++ List.replicate (240 - m.body.length) 0#8
  ({ s with mem := s.mem.write a bs }.modFn fn fun g => { g with hcprod := g.hcprod + 1#64 }).postInbox fn 1 i
/-- A message meets the ring: into it, held, or lost. -/
def State.hostMessage (s : State) (m : Msg) : State :=
  let f := s.fn m.tenant
  if f.hcheld = [] ∧ f.ringRoom then s.writeRing m.tenant m
  else if f.hcheld.length < 16 then s.modFn m.tenant fun g => { g with hcheld := g.hcheld ++ [m] }
  else s.modFn m.tenant fun g => { g with hclost := g.hclost + 1#64 }
def State.torn (s : State) (m : Msg) : Bool := s.parts.any fun p => match p.2.launch with | some l => m.ofLaunch p.1 l && l.torn | none => false
/-- The n-th message on its way to the host; beyond those, the oldest held message of function n − length. Earlier messages of the function, and
its outbound writes, come first (R294). -/
def State.hostChannelWrite (s : State) (n : Nat) : Option State :=
  match s.hostq[n]? with
  | some m =>
    if (s.hostq.take n).any (fun x => decide (x.tenant = m.tenant)) || decide ((s.fn m.tenant).outbound ≠ []) then none
    else
      let s1 := { s with hostq := s.hostq.eraseIdx n }
      some (if s.torn m then s1 else s1.hostMessage m)
  | none =>
    let fn := n - s.hostq.length
    match (s.fn fn).hcheld with
    | m :: rest =>
      if fn < 16 ∧ (s.fn fn).ringRoom then some ((s.modFn fn fun g => { g with hcheld := rest }).writeRing fn m) else none
    | [] => none
def execHostChannelWrite (n : Nat) : Meaning := fun s => event "HOST_CHANNEL_WRITE" (s.hostChannelWrite n)

/-! ### The error window (R448) -/

def State.eqPopHost (s : State) (fn : Fin 16) : State :=
  let f := s.fn fn.val
  if s.refuses fn.val then s
  else match f.eq with
    | [] => s.modFn fn.val fun g => { g with eqdata := 0#256 }
    | e :: rest => s.modFn fn.val fun g => { g with eq := rest, eqdata := BitVec.ofNat 256 e.bits }
def execEqpop (fn : Fin 16) : Meaning := fun s => event "EQPOP" (some (s.eqPopHost fn))
/-- The oldest entry leaves the physical log; the oldest entry of the overflow region takes a place on die (R400). -/
def Sys.dropLog (y : Sys) : Sys :=
  match y.plog with
  | _ :: rest => { y with plog := rest ++ y.plogOvf.take 1, plogOvf := y.plogOvf.drop 1, plogCons := (y.plogCons + 1) % 2 ^ 64 }
  | [] => y
/-- The physical log's window on the physical function: a pop moves the oldest entry into the data register and removes it (R448). -/
def Sys.popLog (y : Sys) : Sys :=
  { y.dropLog with plogData := match y.plog with | e :: _ => BitVec.ofNat 256 e.bits | [] => 0#256 }
/-- A consumer index that the hypervisor writes: the entries before it have been read (R448; DESIGN CHOICE, log 87). -/
def Sys.consumeLog (y : Sys) (v : Word) : Sys :=
  let n := min ((v.toNat + 2 ^ 64 - y.plogCons % 2 ^ 64) % 2 ^ 64) (y.plog.length + y.plogOvf.length)
  { (List.range n).foldl (fun (z : Sys) _ => z.dropLog) y with plogCons := v.toNat }

/-! ### The request window (R449) -/

/-- A request doorbell: one batch-former operation on the table of pid [19:16]; code 4 where there is none, and while asleep. -/
def State.requestDoor (s : State) (fn : Fin 16) (v : Word) (op : State → Nat → ReqTable → State × Word) : State :=
  if s.refuses fn.val then s
  else
    let none4 := (s, errWord 4)
    let r := if s.sys.asleep then none4
      else match s.parts.get? (wfield v 19 16) with
        | some p => op s (wfield v 19 16) p.req
        | none => none4
    r.1.modFn fn.val fun g => { g with rqres := r.2 }
def setReq (s : State) (pid : Nat) (q : ReqTable) : State := s.modPart pid fun p => { p with req := q }
def ownRecord (q : ReqTable) (fn i : Nat) : Bool := decide (rqState (q.recAt i) ≠ 0) && decide (rqTenant (q.recAt i) = fn)
def execRqsub (fn : Fin 16) (v : BitVec 64) : Meaning := fun s =>
  event "RQSUB" (some (s.requestDoor fn v fun s pid q =>
    let r := q.submit (s.fn fn.val).rqstage fn.val
    (setReq s pid r.1, r.2)))
def execRqrd (fn : Fin 16) (v : BitVec 64) : Meaning := fun s =>
  event "RQRD" (some (s.requestDoor fn v fun s _ q =>
    let i := wfield v 11 0
    if ownRecord q fn.val i then (s.modFn fn.val fun g => { g with rqstage := q.recAt i }, 0#64) else (s, errWord 4)))
def execRqcan (fn : Fin 16) (v : BitVec 64) : Meaning := fun s =>
  event "RQCAN" (some (s.requestDoor fn v fun s pid q =>
    let i := wfield v 11 0
    if ownRecord q fn.val i then
      let r := q.cancel i (v.getLsbD 12)
      (setReq s pid r.1, BitVec.ofNat 64 r.2)
    else (s, errWord 4)))

/-! ### Host queues (R439) -/

/-- A write of the tail submits the entries from the old tail on; each remembers when (R439, R440). -/
def HostQ.submit (x : HostQ) (v : Word) (now : Nat) : HostQ :=
  let y := { x with tail := v }
  { y with bells := (y.pending.filter fun i => !x.pending.contains i).foldl (fun b i => b.set i now) x.bells }
def execQtail (fn : Fin 16) (q : Fin 8) (v : BitVec 64) : Meaning := fun s =>
  event "QTAIL" (some (if s.refuses fn.val then s
    else s.setQueue fn.val q (((s.fn fn.val).queues.get q).submit v s.cycle)))

/-! ### Writes to registers (R445) -/

/-- A list of n bytes with eight of them replaced. -/
def putWord (bs : List Byte) (n off : Nat) (v : Word) : List Byte :=
  let full := (List.range n).map fun i => (bs[i]?).getD 0#8
  full.take off ++ leBytes 8 v.toNat ++ full.drop (off + 8)
def recWord (r : Rec512) (off : Nat) (v : Word) : Rec512 := setRec r (8 * off + 63) (8 * off) v.toNat
def HostQ.writeReg (q : HostQ) (r : Nat) (v : Word) : HostQ :=
  if q.head ≠ q.tail then q
  else if r = 0 then { q with base := v }
  else if r = 8 then { q with size := v &&& 0xF#64 }
  else q
/-- The entries that a virtual inbox has delivered (R428). -/
def Fn.consumeInbox (f : Fn) (v : Word) : Fn := { f with vin := f.vin.drop (v - f.vicons).toNat, vicons := v }
def queueOff (off : Nat) : Bool := decide (0x5100 ≤ off) && decide (off < 0x5200)
/-- The registers of every function. -/
def Fn.writeReg (f : Fn) (off : Nat) (v : Word) : Fn :=
  if decide (0x1000 ≤ off) && decide (off < 0x10F0) then { f with payload := putWord f.payload 240 (off - 0x1000) v }
  else if off = 0x10F0 then { f with sendctl := v }
  else if decide (0x2000 ≤ off) && decide (off < 0x2400) then { f with stage := putWord f.stage 1024 (off - 0x2000) v }
  else if off = 0x2408 then { f with getaddr := v }
  else if off = 0x3010 then { f with dmcons := v }
  else if decide (0x4000 ≤ off) && decide (off < 0x4040) then { f with rqstage := recWord f.rqstage (off - 0x4000) v }
  else if off = 0x5000 then (if f.hcprod = f.hccons then { f with hcbase := v } else f)
  else if off = 0x5008 then (if f.hcprod = f.hccons then { f with hcsize := v &&& 0xF#64 } else f)
  else if off = 0x5018 then { f with hccons := v }
  else if queueOff off then
    let q : Fin 8 := Fin.ofNat 8 ((off - 0x5100) / 32)
    { f with queues := f.queues.set q.val ((f.queues.get q).writeReg ((off - 0x5100) % 32) v) q.isLt }
  else if off = 0x6400 then f.consumeInbox v
  else f
def Sys.mbWord (y : Sys) (k : Nat) : Nat := leNat ((((List.range 128).map fun i => (y.mbreq[i]?).getD 0#8).drop (8 * k)).take 8)
def Sys.mbImage (y : Sys) : Rec512 := BitVec.ofNat 512 (leNat (((List.range 128).map fun i => (y.mbreq[i]?).getD 0#8).drop 64))
def Sys.mbBusy (y : Sys) : Bool := y.mbst.getLsbD 0
def Sys.mbDone (y : Sys) (st : Nat) : Sys := { y with mbst := BitVec.ofNat 64 (st * 256) }
/-- The mailbox's doorbell: an unknown op, and before stage 6 or after a failed boot any op but 9, end at once (R450, R455). -/
def State.mailboxDoor (s : State) : State :=
  let y := s.sys
  if y.mbBusy then s
  else if y.mbWord 0 = 0 ∨ 9 < y.mbWord 0 then (s.modSys fun y => y.mbDone 1).raise 0 4
  else if y.bootst ≠ 6 ∧ y.mbWord 0 ≠ 9 then (s.modSys fun y => y.mbDone 3).raise 0 4
  else s.modSys fun y => { y with mbst := 1#64 }
/-- The registers of the physical function alone. -/
def State.writePf (s : State) (off : Nat) (v : Word) : State :=
  if off < 0x8080 then (if s.sys.mbBusy then s else s.modSys fun y => { y with mbreq := putWord y.mbreq 128 (off - 0x8000) v })
  else if off = 0x8080 then s.mailboxDoor
  else if off = 0x9010 then s.modSys fun y => y.consumeLog v
  else if off = 0x9020 then s.modSys Sys.popLog
  else s
/-! ### Reads of registers (R394, R445) -/

/-- Eight bytes of a list. -/
def getWord (bs : List Byte) (off : Nat) : Word :=
  BitVec.ofNat 64 (leNat ((List.range 8).map fun i => (bs[off + i]?).getD 0#8))
def recRead (r : Rec512) (off : Nat) : Word := BitVec.ofNat 64 (resBits r (8 * off + 63) (8 * off))
def HostQ.readReg (q : HostQ) (r : Nat) : Word :=
  match r with
  | 0 => q.base
  | 8 => q.size
  | 16 => q.tail
  | _ => q.head
/-- The virtual inbox as a ring of 64 entries: the oldest entry stands at VICONS (R428). -/
def Fn.inboxWord (f : Fn) (off : Nat) : Word :=
  match f.vin[(off / 16 + 64 - f.vicons.toNat % 64) % 64]? with
  | some e => if off % 16 = 0 then BitVec.ofNat 64 (e.1 % 256 + e.2.1 * 2 ^ 16) else BitVec.ofNat 64 e.2.2
  | none => 0#64
/-- The registers of a function below 0x8000, the identity window aside; doorbells read 0. -/
def Fn.readReg (f : Fn) (off : Nat) : Word :=
  if decide (0x1000 ≤ off) && decide (off < 0x10F0) then getWord f.payload (off - 0x1000)
  else if off = 0x10F0 then f.sendctl
  else if off = 0x1100 then f.sendst
  else if decide (0x2000 ≤ off) && decide (off < 0x2400) then getWord f.stage (off - 0x2000)
  else if off = 0x2408 then f.getaddr
  else if off = 0x3000 then f.dmbase
  else if off = 0x3008 then f.dmprod
  else if off = 0x3010 then f.dmcons
  else if off = 0x3018 then f.dmlost
  else if off = 0x3028 then BitVec.ofNat 64 (f.eq.length + f.eqovf % 2 ^ 32 * 2 ^ 32)
  else if decide (0x3040 ≤ off) && decide (off < 0x3060) then BitVec.ofNat 64 (f.eqdata.toNat / 2 ^ (8 * (off - 0x3040)))
  else if decide (0x4000 ≤ off) && decide (off < 0x4040) then recRead f.rqstage (off - 0x4000)
  else if off = 0x4048 then f.rqres
  else if off = 0x5000 then f.hcbase
  else if off = 0x5008 then f.hcsize
  else if off = 0x5010 then f.hcprod
  else if off = 0x5018 then f.hccons
  else if off = 0x5020 then f.hclost
  else if queueOff off then (f.queues.get (Fin.ofNat 8 ((off - 0x5100) / 32))).readReg ((off - 0x5100) % 32)
  else if decide (0x6000 ≤ off) && decide (off < 0x6400) then f.inboxWord (off - 0x6000)
  else if off = 0x6400 then f.vicons
  else 0#64
/-- Role, epoch, misses, torn or overfull periods: R452 places the last two; role in [1:0] and epoch in [39:8] are a DESIGN CHOICE (log 76). -/
def Sys.peerStatus (y : Sys) : Word :=
  BitVec.ofNat 64 (y.role + y.epoch % 2 ^ 32 * 2 ^ 8 + y.misses % 256 * 2 ^ 40 + y.torn % 2 ^ 16 * 2 ^ 48)
/-- The registers of the physical function alone (R448, R450); the log stands on die, so the base at 0x9000 reads 0 (log 87). -/
def Sys.readPf (y : Sys) (off : Nat) : Word :=
  if decide (0x8000 ≤ off) && decide (off < 0x8080) then getWord y.mbreq (off - 0x8000)
  else if off = 0x8088 then y.mbst
  else if decide (0x8090 ≤ off) && decide (off < 0x80D0) then recRead y.mbres (off - 0x8090)
  else if off = 0x9008 then BitVec.ofNat 64 y.plogProd
  else if off = 0x9010 then BitVec.ofNat 64 y.plogCons
  else if off = 0x9018 then BitVec.ofNat 64 y.plogLost
  else if off = 0x9028 then BitVec.ofNat 64 (y.plog.length % 256 + y.plogLost % 2 ^ 32 * 2 ^ 32)
  else if decide (0x9040 ≤ off) && decide (off < 0x9060) then BitVec.ofNat 64 (y.plogData.toNat / 2 ^ (8 * (off - 0x9040)))
  else 0#64
def State.readReg (s : State) (fn : Fin 16) (off : Nat) : Word :=
  if off = 0 then BitVec.ofNat 64 (fn.val + fn.val * 2 ^ 4)
  else if off = 8 then BitVec.ofNat 64 s.sys.bootst
  else if off = 0x10 then s.sys.peerStatus
  else if off < 0x8000 then (s.fn fn.val).readReg off
  else if fn = 0 then s.sys.readPf off
  else 0#64
/-- A read completes: with the value, or with Unsupported Request. -/
def State.complete (s : State) (fn : Nat) (v : Option Word) : State := s.modFn fn fun f => { f with reads := v :: f.reads }
/-- Doorbells have their own events. -/
def isDoorbell (off : Nat) : Bool :=
  [0x10F8, 0x2400, 0x2410, 0x3020, 0x4040, 0x4050, 0x4058].contains off || (queueOff off && decide ((off - 0x5100) % 32 = 16))
/-- The mailbox's registers (R450), and those whose reads name the function and the stage of boot (R445, R455). -/
def mailboxOff (off : Nat) : Bool := decide (0x8000 ≤ off) && decide (off < 0x80D0)
/-- What a read or a write of a register meets: a function that refuses requests, or after a failed boot any register but the mailbox's; reads of
0x00 to 0x17, where BOOTST stands, are served then too (R455; DEDUCED, log 86). -/
def State.doorClosed (s : State) (fn : Fin 16) (off : Nat) (read : Bool) : Bool :=
  (s.fn fn.val).refuses || (s.bootFailed && !(decide (fn = 0) && mailboxOff off) && !(read && decide (off < 0x18)))
/-- A non-posted read: a function that refuses requests, or that this access freezes, gets Unsupported Request (R394, R430, R445). -/
def State.registerRead (s : State) (fn : Fin 16) (off n : Nat) : State :=
  if s.doorClosed fn off true then s.complete fn.val none
  else if off % 8 ≠ 0 ∨ 0x10000 ≤ off ∨ n ≠ 8 then (s.freezeFn fn.val off).complete fn.val none
  else s.complete fn.val (some (s.readReg fn off))
def State.registerWrite (s : State) (fn : Fin 16) (off : Nat) (v : Word) (n : Nat) : Option State :=
  if s.doorClosed fn off false then some s
  else if off % 8 ≠ 0 ∨ 0x10000 ≤ off ∨ n ≠ 8 then some (s.freezeFn fn.val off)
  else if isDoorbell off then none
  else if 0x8000 ≤ off then some (if fn = 0 then s.writePf off v else s)
  else some (s.modFn fn.val fun f => f.writeReg off v)
def execRegisterWrite (fn : Fin 16) (off : Nat) (a : BarAccess) : Meaning := fun s =>
  event "REGISTER_WRITE" (match a with
    | .write v n => s.registerWrite fn off v n
    | .read n => some (s.registerRead fn off n))

end Sys2Proof.Machine
end

