-- ==== Sys2Proof/Machine/ScalarFp.lean ====
section
/-! DEFINITION. Scalar FP32: major 10 (R202 to R205). -/

namespace Sys2Proof.Machine

/-- An FP32 operand: bits [31:0], the rest ignored (R202). -/
def fp32 (x : Word) : Nat := x.toNat % 2 ^ 32

/-- A form of major 10: its flags go to fflags when it completes (R182, R203). -/
def fpForm (o : Op) (d : Reg) (body : RMode → Exec (Nat × Flags)) : Meaning :=
  issueValue { o with pfx := onlyRnd } d do
    let s ← get
    let r ← body s.half.mode
    raiseFlags r.2
    pure (BitVec.ofNat 64 r.1)
def fpBinary (b a d : Reg) (f : RMode → Nat → Nat → Nat × Flags) : Meaning :=
  fpForm (opAB b a d) d fun md => do let x ← rd a; let y ← rd b; pure (f md (fp32 x) (fp32 y))
def fpUnary (a d : Reg) (f : RMode → Word → Nat × Flags) : Meaning :=
  fpForm (opA a d) d fun md => do let x ← rd a; pure (f md x)
/-- The fused forms read d, which names g0–g39 or n0–n7 (R202). -/
def fpFused (b a d : Reg) (f : RMode → Nat → Nat → Nat → Nat × Flags) : Meaning :=
  fpForm { srcs := [d, a, b], dsts := [d], badCode := !d.dstGN } d fun md => do
    let z ← rd d
    let x ← rd a
    let y ← rd b
    pure (f md (fp32 x) (fp32 y) (fp32 z))
def boolResult (r : Bool × Flags) : Nat × Flags := (if r.1 then 1 else 0, r.2)
def intResult (r : Int × Flags) : Nat × Flags := (wrapInt 64 r.1, r.2)

def execFadd (b a d : Reg) : Meaning := fpBinary b a d (fAdd f32)
def execFsub (b a d : Reg) : Meaning := fpBinary b a d (fSub f32)
def execFmul (b a d : Reg) : Meaning := fpBinary b a d (fMul f32)
def execFdiv (b a d : Reg) : Meaning := fpBinary b a d (fDiv f32)
def execFsqrt (a d : Reg) : Meaning := fpUnary a d fun md x => fSqrt f32 md (fp32 x)
def execFmin (b a d : Reg) : Meaning := fpBinary b a d fun _ => fMinMax f32 false
def execFmax (b a d : Reg) : Meaning := fpBinary b a d fun _ => fMinMax f32 true
def execFmadd (b a d : Reg) : Meaning := fpFused b a d (fFma f32)
def execFmsub (b a d : Reg) : Meaning := fpFused b a d (fFms f32)
def execFnmadd (b a d : Reg) : Meaning := fpFused b a d (fFnma f32)
def execFeq (b a d : Reg) : Meaning := fpBinary b a d fun _ x y => boolResult (fCompare f32 .eq x y)
def execFlt (b a d : Reg) : Meaning := fpBinary b a d fun _ x y => boolResult (fCompare f32 .lt x y)
def execFle (b a d : Reg) : Meaning := fpBinary b a d fun _ x y => boolResult (fCompare f32 .le x y)
def execFclass (a d : Reg) : Meaning := fpUnary a d fun _ x => (fClass (fp32 x), noFlags)
def execFneg (a d : Reg) : Meaning := fpUnary a d fun _ x => (fNeg f32 (fp32 x), noFlags)
def execFabs (a d : Reg) : Meaning := fpUnary a d fun _ x => (fp32 x % 2 ^ 31, noFlags)
def execFcvtI64F32 (a d : Reg) : Meaning :=
  fpUnary a d fun md x => intResult (fToInt f32 md (-2 ^ 63) (2 ^ 63 - 1) (fp32 x))
def execFcvtN64F32 (a d : Reg) : Meaning :=
  fpUnary a d fun md x => intResult (fToInt f32 md 0 (2 ^ 64 - 1) (fp32 x))
def execFcvtI32F32 (a d : Reg) : Meaning :=
  fpUnary a d fun md x => intResult (fToInt f32 md (-2 ^ 31) (2 ^ 31 - 1) (fp32 x))
def execFcvtN32F32 (a d : Reg) : Meaning :=
  fpUnary a d fun md x => intResult (fToInt f32 md 0 (2 ^ 32 - 1) (fp32 x))
def execFcvtF32I64 (a d : Reg) : Meaning := fpUnary a d fun md x => intToF f32 md x.toInt
def execFcvtF32N64 (a d : Reg) : Meaning := fpUnary a d fun md x => intToF f32 md x.toNat
/-- A narrowing: a NaN becomes canonical and is recorded in nanorg (R188, R205). -/
def fpNarrow (a d : Reg) (dst : Fmt) : Meaning :=
  fpForm (opA a d) d fun md => do
    let x ← rd a
    let r := fConvert f32 dst md (fp32 x)
    update fun s => s.modHalf fun h => h.recordNaN r.2.2
    pure (r.1, r.2.1)
def execFcvtBf16F32 (a d : Reg) : Meaning := fpNarrow a d bf16
def execFcvtF16F32 (a d : Reg) : Meaning := fpNarrow a d f16
def fpWiden (src : Fmt) (md : RMode) (x : Word) : Nat × Flags :=
  let r := fConvert src f32 md (x.toNat % 2 ^ 16)
  (r.1, r.2.1)
def execFcvtF32Bf16 (a d : Reg) : Meaning := fpUnary a d (fpWiden bf16)
def execFcvtF32F16 (a d : Reg) : Meaning := fpUnary a d (fpWiden f16)

end Sys2Proof.Machine
end

