-- ==== Sys2Proof/Machine/System.lean ====
section
/-! DEFINITION. The system core's own events: the mailbox, sleep and suspend, the spare, boot, time, monitors and attestation (R6, R345, R450
to R460). -/

namespace Sys2Proof.Machine

/-! ### The mailbox (R450) -/

/-- One operand word of the request. -/
def State.mbOp (s : State) (k : Nat) : Word := BitVec.ofNat 64 (s.sys.mbWord k)
/-- A served request: its effect and status, the completion vector (R450, R451). -/
def mailbox (op : Nat) (f : State → Option (State × Nat)) (s : State) : Option State :=
  if s.sys.mbBusy && decide (s.sys.mbWord 0 = op) then (f s).map fun r => (r.1.modSys fun y => y.mbDone r.2).raise 0 4 else none
def State.setResult (s : State) (r : Rec512) : State := s.modSys fun y => { y with mbres := r }
/-- Measurement register i is extended with x (R457). -/
def State.measure (s : State) (i : Fin 8) (x : List Byte) : State :=
  s.modSys fun y => { y with meas := y.meas.set i.val (extendMeasure (y.meas.get i) x) i.isLt }
/-- The request as 128 bytes, with which ops 2, 3 and 8 extend register 5. -/
def Sys.mbBytes (y : Sys) : List Byte := (List.range 128).map fun i => (y.mbreq[i]?).getD 0#8
def State.measureOp (s : State) : State := s.measure 5 s.sys.mbBytes
def sysFrz : SysOp := fun s a b => if masterWordOk a && onlyBits b [(0, 0)] then natOut (s.frzRel a (b.getLsbD 0)) else none
def sysLvShare : SysOp := fun s a b =>
  let st := lvShareStatus a b
  natOut (if st = 0 then s.modBay a.toNat fun k => { k with pool := b.toNat } else s, st)
def sysWear : SysOp := fun s a b => natOut (s.wearSet a b)
/-- part.mk names the image of the request. -/
def sysMk : SysOp := fun s _ _ => natOut (s.partMk s.sys.mbImage)
/-- The forms of major 38 that op 1 executes, by func6. -/
def mailboxForm (func6 : Nat) : Option SysOp :=
  match func6 with
  | 0x03 => some sysFrz
  | 0x2C => some sysLvShare
  | 0x2D => some sysWear
  | 0x30 => some sysMk
  | 0x31 => some sysFree
  | 0x32 => some sysHold
  | 0x33 => some sysHalt
  | 0x34 => some sysSwap
  | 0x35 => some sysShutPost
  | 0x36 => some sysShutStat
  | 0x37 => some (sysVf fun b => wfield b 1 0)
  | _ => none
/-- Op 1: an unlisted func6 or an operand that would trap is malformed. -/
def State.mbExec (s : State) : State × Nat :=
  match (mailboxForm (s.sys.mbWord 1)).bind fun f => f s (s.mbOp 2) (s.mbOp 3) with
  | some r => (r.1.setResult (r.2.zeroExtend 512), 0)
  | none => (s, 2)
def execMbExecSystemInstruction : Meaning := fun s => event "MB_EXEC_SYSTEM_INSTRUCTION" (mailbox 1 (fun s => some s.mbExec) s)
/-- Op 2: every field of a slot's configuration; an image whose readers or writers lie outside its grant is malformed (R134; DEDUCED, log 91). -/
def State.mbSlot (s : State) : State × Nat :=
  let k := s.sys.mbWord 1
  if Config.transomSlots ≤ k ∨ cfgMalformed s.sys.mbImage ∨ !cfgGranted s.sys.mbImage then (s, 2)
  else (s.configureSlot k s.sys.mbImage, 0)
def execMbSlotConfig : Meaning := fun s => event "MB_SLOT_CONFIG" (mailbox 2 (fun s => some (s.measureOp.mbSlot)) s)
/-- Op 3: arming waits until the bay is ready; disarming waits for a seizure's release (R377). -/
def State.mbArm (s : State) : Option (State × Nat) :=
  let b := s.sys.mbWord 1
  let r := s.sys.mbImage
  if 32 ≤ b ∨ wrecMalformed r then some (s, 2)
  else if r.getLsbD 0 then
    (if s.holdsUq b || decide (poolOf s.sys.cap (s.armedBays + if (s.bay b).wrec.getLsbD 0 then 0 else 1) < 10) || (s.bay b).seized
        || (s.bay b).disarm || s.reflexPart.isNone || s.sys.asleep then some (s, 3)
      else if s.armReady b then some (s.armBay b r, 0) else none)
  else if !(s.bay b).wrec.getLsbD 0 then some (s, 0)
  else if (s.bay b).seized then some (s.modBay b fun y => { y with disarm := true }, 0)
  else some (s.disarmBay b, 0)
def execMbWicketArm : Meaning := fun s => event "MB_WICKET_ARM" (mailbox 3 (fun s => s.mbArm.map fun r => (r.1.measureOp, r.2)) s)
/-- Op 4: a dead-message area with 2^n entries, n from 4 to 16, or n 0 for none, and function 0's overflow region (R393, R400). -/
def State.mbArea (s : State) : State × Nat :=
  let f := s.sys.mbWord 1
  let base := s.sys.mbWord 2
  let size := s.sys.mbWord 3
  if 16 ≤ f ∨ (base % 16 ≠ 0 ∧ base % 16 < 4) ∨ (f ≠ 0 ∧ size ≠ 0) then (s, 2)
  else if f = 0 ∧ s.sys.plogOvf ≠ [] then (s, 3)
  else
    let s1 := s.modFn f fun g => { g with dmbase := BitVec.ofNat 64 base, dmprod := 0#64, dmcons := 0#64, dmlost := 0#64 }
    (if f = 0 then s1.modSys fun y => { y with plogOvfSize := size } else s1, 0)
def execMbErrorArea : Meaning := fun s => event "MB_ERROR_AREA" (mailbox 4 (fun s => some s.mbArea) s)
/-- Op 5: the cap, from 90 W to 320 W; a pool below the least of R337 refuses it (R458). -/
def State.mbCap (s : State) : State × Nat :=
  let c := s.sys.mbWord 1
  if c < 360 ∨ 1280 < c then (s, 2)
  else if poolOf c s.armedBays < 10 then (s, 3)
  else ((s.modSys fun y => { y with cap := c }).setPools, 0)
def execMbPowerCap : Meaning := fun s => event "MB_POWER_CAP" (mailbox 5 (fun s => some s.mbCap) s)

/-! ### Sleep and wake (R459), suspend and resume (R460) -/

/-- Sleep is allowed: no launch, no image in the shadow store, no bay armed. -/
def State.maySleep (s : State) : Bool :=
  s.parts.all (fun p => p.2.isReflex || (p.2.launch.isNone && !(p.2.inShadow && savedState p.2.state))) && decide (s.armedBays = 0)
/-- A key of a store that lies in the reasoning array. -/
def reasoningKey (k : Nat) : Bool :=
  (decide (codeKey 0 0 ≤ k) && decide (k < codeKey 512 0)) || (decide (spadKey 0 0 ≤ k) && decide (k < spadKey 512 0))
    || (decide (bstoreKey 0 0 ≤ k) && decide (k < bstoreKey 512 0)) || (decide (accKey 0 0 0 ≤ k) && decide (k < accKey 512 0 0))
/-- A tile that loses its power keeps what the system core writes again: its holders and their weights. -/
def Tile.powerOff (x : Tile) : Tile :=
  { split := x.split
    shares := x.shares.map fun h => ({ pid := h.pid, weight := h.weight } : Share) }
def State.enterSleep (s : State) : State :=
  let s1 := ((s.l2.map L2Line.line).foldl State.l2Flush s).dropKeys reasoningKey
  { s1 with
    tiles := s1.tiles.map fun (x : Nat × Tile) => (x.1, if x.1 < 512 then x.2.powerOff else x.2)
    l2 := []
    rows := []
    sys := { s1.sys with asleep := true } }
/-- Op 6: word 1 names sleep or wake; the two are two rows, and the first serves a word that is neither. -/
def State.mbSleep (s : State) : Option (State × Nat) :=
  match s.sys.mbWord 1 with
  | 0 => some (if s.maySleep then s.enterSleep else s, if s.maySleep then 0 else 3)
  | 1 => none
  | _ => some (s, 2)
def execMbSleep : Meaning := fun s => event "MB_SLEEP" (mailbox 6 State.mbSleep s)
def State.mbWake (s : State) : Option (State × Nat) :=
  if s.sys.mbWord 1 = 1 then some (s.modSys fun y => y.requestWake 1#64, 0) else none
def execMbWake : Meaning := fun s => event "MB_WAKE" (mailbox 6 State.mbWake s)
/-- The array is awake. -/
def State.wakeComplete (s : State) : Option State :=
  if s.sys.waking then some ((s.modSys fun y => { y with asleep := false, waking := false }).setPools) else none
def execWakeComplete : Meaning := fun s => event "WAKE_COMPLETE" s.wakeComplete
/-- Op 7: suspend leaves every piece of state as it stands and stops everything but the timers' edges, which are missed. -/
def State.mbSuspend (s : State) : Option (State × Nat) :=
  match s.sys.mbWord 1 with
  | 0 => some (if s.sys.role = 1 ∨ s.sys.suspended then (s, 3) else (s.modSys fun y => { y with suspended := true }, 0))
  | 1 => none
  | _ => some (s, 2)
def execMbSuspend : Meaning := fun s => event "MB_SUSPEND" (mailbox 7 State.mbSuspend s)
def State.mbResume (s : State) : Option (State × Nat) :=
  if s.sys.mbWord 1 = 1 then some (if s.sys.suspended then (s.modSys fun y => { y with suspended := false }, 0) else (s, 3)) else none
def execMbResume : Meaning := fun s => event "MB_RESUME" (mailbox 7 State.mbResume s)

/-! ### The spare (R452 to R454) -/

/-- Halt or unhalt the reflex partition. -/
def State.holdReflex (s : State) (on : Bool) : State :=
  match s.reflexPart with
  | some (pid, _) => s.modPart pid fun p => { p with state := if on then 4 else 1 }
  | none => s
/-- Op 8: the peer word of R452. -/
def State.mbPeer (s : State) : State × Nat :=
  let w := s.mbOp 1
  let role := wfield w 1 0
  let tile := wfield w 14 4
  if !onlyBits w [(3, 0), (14, 4), (63, 32)] || decide (role = 3) || !(decide (1024 ≤ tile) && decide (tile < 1056)) then (s, 2)
  else
    let old := s.sys.role
    let s1 := s.modSys fun y => { y with role := role, ctimer := wfield w 3 2, ctile := tile, epoch := wfield w 63 32, misses := 0, beat := false }
    let s2 := { (s1.modSys fun y => { y with edgesDue := [], deltas := [] }) with marks := [], forwards := [] }
    let s3 := if role = 2 then s2.holdReflex true else if old = 2 then s2.holdReflex false else s2
    (if role = old then s3 else s3.raise 0 5, 0)
def execMbPeerWord : Meaning := fun s => event "MB_PEER_WORD" (mailbox 8 (fun s => some s.measureOp.mbPeer) s)
/-- Op 9: a tile's lifetime record. -/
def State.mbLife (s : State) : State × Nat :=
  let w := s.sys.mbWord 1
  let bay := if w < 2 ^ 15 then w / 2 ^ 10 else 32 + (w - 2 ^ 15) / 2 ^ 10
  if 2 ^ 16 ≤ w ∨ w / 32 % 32 ≠ 0 ∨ 16 < w % 32 ∨ 34 ≤ bay then (s, 2) else (s.setResult (s.life w), 0)
def execMbLifetimeRecord : Meaning := fun s => event "MB_LIFETIME_RECORD" (mailbox 9 (fun s => some s.mbLife) s)

/-- Lines of one tile's scratchpad or accumulators among marked ones. -/
def linesOfTile (ls : List Nat) (t : Nat) : Nat :=
  ls.countP fun l => (decide (spadKey t 0 ≤ l * 256) && decide (l * 256 < spadKey (t + 1) 0))
    || (decide (accKey t 0 0 ≤ l * 256) && decide (l * 256 < accKey (t + 1) 0 0))
def reflexTilesList : List Nat := (List.range 32).map (· + 1024)
/-- The lines of a delta: those marked since the last committed delta, with those of the deltas not yet committed (R453). -/
def State.sealLines (s : State) : List Nat := s.sys.deltas.foldl (fun a d => d.lines.foldl (fun a l => nInsert l.1 a) a) s.marks
/-- The delta sealed at an edge; torn where an activation of the reflex launch is live (R453). -/
def State.seal (s : State) : Delta :=
  let reflex := match s.reflexPart with | some p => p.1 | none => 16
  {
    torn := reflexTilesList.any fun t => decide (s.pidAt t 0 = some reflex) && !(s.liveSlots t 0).isEmpty
    overfull := reflexTilesList.any fun t => decide (256 < linesOfTile s.sealLines t)
    lines := s.sealLines.map s.lineImage
    timers := reflexTilesList.map fun t => (t, (s.tile t).timers)
    inbox := reflexTilesList.map fun t => (t, (s.tile t).inbox) }
/-- A standby takes over (R454). -/
def State.takeOver (s : State) : State :=
  ((s.modSys fun y => { y with role := 1, epoch := (y.peerEpoch + 1) % 2 ^ 32, misses := 0, deltas := [] }).holdReflex false).raise 0 5
/-- Every third consecutive miss raises the peer's vector. -/
def State.countMiss (s : State) : State :=
  if s.sys.beat then s.modSys fun y => { y with misses := 0, beat := false }
  else
    let s1 := s.modSys fun y => { y with misses := y.misses + 1 }
    if s1.sys.misses % 3 = 0 then s1.raise 0 5 else s1
/-- The primary's seal reads the lines of its delta, so soft errors in their words are corrected, or poison their sectors (R110, R453). -/
def State.sealEdge (s : State) : State :=
  let s1 := s.sense (s.sealLines.flatMap fun l => (List.range 256).map fun i => l * 256 + i)
  let d := s1.seal
  let bad := if d.torn || d.overfull then 1 else 0
  { (s1.modSys fun y => { y with deltas := y.deltas ++ [d], torn := (y.torn + bad) % 2 ^ 16 }) with marks := [] }
/-- The control edge that the control timer's edge has made due: a heartbeat, a seal on the primary, the count of misses, the takeover at the third
(R452 to R454). -/
def State.controlEdge (s : State) : Option State :=
  match s.sys.edgesDue with
  | [] => none
  | k :: rest =>
    let s1 := s.modSys fun y => { y with edgesDue := rest, beatsOut := y.beatsOut ++ [(y.role, y.epoch, k, s.dtime)] }
    let s2 := (if s.sys.role = 1 then s1.sealEdge else s1).countMiss
    some (if s.sys.role = 2 ∧ s2.sys.misses = 3 then s2.takeOver else s2)
def execControlEdge : Meaning := fun s => event "CONTROL_EDGE" s.controlEdge
/-- A heartbeat of the peer arrives; a standby waits for those of a primary. -/
def State.heartbeat (s : State) (role epoch : Nat) : Option State :=
  if s.sys.role = 0 ∨ 3 ≤ role then none
  else some (s.modSys fun y => { y with peerRole := role, peerEpoch := epoch % 2 ^ 32, beat := y.beat || decide (y.role = 1) || decide (role = 1) })
def execHeartbeat (role epoch _edge _dt : Nat) : Meaning := fun s => event "HEARTBEAT" (s.heartbeat role epoch)
/-- A message from its header and payload (R304). -/
def msgOfHeader (t : Nat) (h : BitVec 128) (body : List Byte) : Msg :=
  let n := h.toNat
  {
    msgid := BitVec.ofNat 32 (bits n 127 96), launch := bits n 95 80, tenant := bits n 71 68, kind := bits n 67 64,
    source := BitVec.ofNat 11 (bits n 63 53), vnet := bits n 52 50, replayable := decide (bits n 48 48 = 1), chan := bits n 47 42,
    dest := BitVec.ofNat 11 (bits n 41 31), pmask := BitVec.ofNat 30 (bits n 29 0), body := body, dst := t, src := t }
/-- A queued message of a delta (R453). -/
def queuedMsg (q : QueuedMsg) (pid : Nat) : Msg :=
  { msgOfHeader (1024 + q.tile) q.header q.body with timer := q.timer, deliv := q.deliv, lastAbort := q.lastAbort, pid := pid }
/-- A timer state of a delta: tile, timer, enable, channel, period, phase, missed count, next edge. The standby's own timers have run on: the edges that
have fallen since the seal are gated (R454). -/
def State.applyTimer (s : State) (x : List Nat) : State :=
  match x with
  | [t, i, en, ch, p, ph, ms, nx] =>
    if t < 32 then s.modTile (1024 + t) fun y => y.modTimer (Fin.ofNat 4 i) fun old =>
      let nx1 := if old.en ∧ old.period = p ∧ old.phase = ph then max nx old.next else nx
      { en := decide (en = 1), chan := ch % 64, period := p, phase := ph, missed := ms, next := nx1, gated := nx1 - nx }
    else s
  | _ => s
/-- A line of a delta, or a forwarded landing: its bytes and its poison. -/
def State.applyLine (s : State) (l : Nat × List Byte × List Nat) : State :=
  if (isReflexLine l.1 ∨ isLockedLine l.1) ∧ l.2.1.length = 256 then
    { s with
      mem := s.mem.write (l.1 * 256) l.2.1
      dirty := if isSpadKey (l.1 * 256) then nInsert l.1 s.dirty else s.dirty
      poison := (l.2.2.filter (· < 4)).foldl (fun p j => nInsert (4 * l.1 + j) p) (clearSectors s.poison (l.1 * 256) 256)
      flips := s.flips.filter fun f => decide (f.1 / 32 ≠ l.1) }
  else s
/-- A queued message goes into the inbox of its tile; a timer's item that finds no entry waits for one (log 72). -/
def State.applyMsg (s : State) (q : QueuedMsg) : State :=
  let t := 1024 + q.tile
  let m := queuedMsg q (match s.reflexPart with | some p => p.1 | none => 16)
  if 32 ≤ q.tile then s
  else if q.timer = 0 ∨ 4 < q.timer ∨ s.inboxRoom t m then s.modTile t fun x => { x with inbox := x.inbox ++ [m] }
  else s.modTile t fun x => x.modTimer (Fin.ofNat 4 (q.timer - 1)) fun y => { y with held := some m }
/-- A whole delta takes the place of the state it was sealed from. -/
def State.applyDelta (s : State) (lines : List (Nat × List Byte × List Nat)) (timers : List (List Nat)) (msgs : List QueuedMsg) : State :=
  let s1 := timers.foldl State.applyTimer (lines.foldl State.applyLine s)
  let s2 := reflexTilesList.foldl (fun (a : State) t => a.modTile t fun x => { x with inbox := [] }) s1
  msgs.foldl State.applyMsg s2
/-- A delta's fate (R453). On the primary, what its peer has answered: the oldest sealed delta is committed, or its lines stay marked. On the
standby, a delta that arrives whole, neither torn nor overfull, is applied; another is not, but for the landings in locked SRAM, which come as they
land (R453; DESIGN CHOICE, log 92). -/
def State.deltaCommit (s : State) (complete torn overfull : Bool) (lines : List (Nat × List Byte × List Nat)) (timers : List (List Nat))
    (msgs : List QueuedMsg) : Option State :=
  let good := complete && !torn && !overfull
  if s.sys.role = 1 then
    (match s.sys.deltas with
    | [] => none
    | d :: r =>
      let s1 := s.modSys fun y => { y with deltas := r }
      some (if good && !d.torn && !d.overfull then s1
        else { s1 with marks := d.lines.foldl (fun m l => nInsert l.1 m) s1.marks }))
  else if s.sys.role = 2 then
    (if good then some (s.applyDelta lines timers msgs)
    else some (((lines.filter fun l => isLockedLine l.1).foldl State.applyLine s).modSys fun y =>
      { y with torn := (y.torn + if torn || overfull then 1 else 0) % 2 ^ 16 }))
  else none
def execDeltaCommit (complete torn overfull : Bool) (lines : List (Nat × List (BitVec 8) × List Nat)) (timers : List (List Nat))
    (msgs : List QueuedMsg) : Meaning := fun s =>
  event "DELTA_COMMIT" (s.deltaCommit complete torn overfull lines timers msgs)

/-! ### Boot (R455), time (R6), monitors (R345), attestation (R457) -/

/-- The reflex partition that boot makes. -/
def reflexDesc (tenant : Nat) : Rec512 := setRec 0#512 111 108 tenant
def State.makeReflex (s : State) (tenant grant : Nat) : State :=
  let d := reflexDesc tenant
  let p : Part := { desc := d }
  let s1 := (p.tiles.foldl (fun (a : State) t => a.giveTile t 0 d) { s with parts := s.parts.set 0 p }).modSys fun y => { y with wakeTenant := grant }
  [32, 33].foldl (fun (a : State) b => a.modTile (2048 + b) fun x => { x with bounds := some (1024, 32) }) s1
/-- The firmware that stage 2 has read behind its signature is signed under the fused root (R20, R455). -/
def firmwareGood (read : List Byte) : Bool :=
  xmssVerify Config.fusedRoot Config.fusedSeed (read.drop xmssSigLen) (read.take xmssSigLen)
/-- A boot burns a fuse, which reserves the next block of leaf indices; with every fuse burnt it has none (R456; log 90). -/
def Sys.burnFuse (y : Sys) : Sys := { y with fuses := min (y.fuses + 1) 4096, leaf := y.fuses * 2 ^ 28 }
/-- One stage of boot ends, well or not; `measured` is what the stage has read: in stage 2 the firmware behind its signature. A boot is no
partition reconfiguration, so the bays' maps stand as they are (R415). The translation cores of the reflex bays get the bounds of the reflex
partition (R19; DESIGN CHOICE, log 69). -/
def State.boot (s : State) (ok : Bool) (measured : List Byte) (tenant grant : Nat) (record : Bool) : Option State :=
  let k := s.sys.bootst
  if k = 0 ∨ 6 ≤ k then none
  else
  let s := if k = 1 then s.modSys Sys.burnFuse else s
  if !ok || (decide (k = 2) && !firmwareGood measured) then some (s.modSys fun y => { y with bootst := 0x80 + k })
  else
    let s1 := match k with
      | 1 => s.measure 0 measured
      | 2 => s.measure 1 (measured.drop xmssSigLen)
      | 3 => (s.measure 2 measured).modSys fun y => { y with recordMode := record }
      | 4 => s
      | _ => s.makeReflex tenant grant
    some (s1.modSys fun y => { y with bootst := k + 1 })
def execBoot (ok : Bool) (measured : List (BitVec 8)) (tenant grant : BitVec 4) (record : Bool) : Meaning := fun s =>
  event "BOOT" (s.boot ok measured tenant.toNat grant.toNat record)
/-- A time exchange brings device time in step with the given time: forward at once, or it stands still until the count has reached it, for the spec
gives no rate of slew (R6, R372; DESIGN CHOICE, log 85). -/
def execPtmExchange (time : Nat) : Meaning := fun s =>
  event "PTM_EXCHANGE" (some { s with dtimeBase := (time % 2 ^ 64 + 2 ^ 64 - s.cycle * 5 / 6 % 2 ^ 64) % 2 ^ 64, dtimeHold := s.dtime })
/-- The monitors of a physical tile are sampled: a powered millisecond, the largest shift seen, the index (R345, R346). -/
def State.monitorSample (s : State) (w bti em : Nat) : Option State :=
  let bay := if w < 2 ^ 15 then w / 2 ^ 10 else 32 + (w - 2 ^ 15) / 2 ^ 10
  if 2 ^ 16 ≤ w ∨ w / 32 % 32 ≠ 0 ∨ 16 < w % 32 ∨ 34 ≤ bay then none
  else
    let r := s.life w
    some (s.setLife w (setRec (setRec (setRec r 255 192 (resBits r 255 192 + 1)) 191 160 (max (resBits r 191 160) (bti % 2 ^ 32))) 159 128 (em % 2 ^ 32)))
def execMonitorSample (w bti em : Nat) : Meaning := fun s => event "MONITOR_SAMPLE" (s.monitorSample w bti em)
/-- What a reply holds before its signature: registers, length of the admission log, nonce, leaf index, as little-endian bytes (DESIGN CHOICE,
log 90). -/
def quoteBytes (regs : List (BitVec 256)) (len : Nat) (nonce : BitVec 256) (leaf : Nat) : List Byte :=
  regs.flatMap (fun r => leBytes 32 r.toNat) ++ leBytes 8 len ++ leBytes 32 nonce.toNat ++ leBytes 8 leaf
/-- A reply to a quote request takes a leaf of the identity key; a block whose leaves are used up gives none (R456, R457; log 90). -/
def State.quote (s : State) (nonce : BitVec 256) (mask : BitVec 8) : Option State :=
  if s.sys.bootst = 6 ∨ s.bootFailed then
    some (if s.sys.leaf < s.sys.fuses * 2 ^ 28 then s.modSys fun y =>
      let regs := ((List.finRange 8).filter fun i => mask.getLsbD i.val).map fun i => y.meas.get i
      let sig := identitySign y.leaf (quoteBytes regs y.admlog nonce y.leaf)
      { y with quotes := y.quotes ++ [(regs, y.admlog, nonce, y.leaf, sig)], leaf := y.leaf + 1 }
    else s)
  else none
def execQuoteRequest (nonce : BitVec 256) (mask : BitVec 8) : Meaning := fun s => event "QUOTE_REQUEST" (s.quote nonce mask)

end Sys2Proof.Machine
end

