-- ==== Sys2Proof/Machine/VectorOps.lean ====
section
/-! DEFINITION. What the vector operations of majors 39 to 46 compute from a register half (R217, R221 to R243). -/

namespace Sys2Proof

def EltSize.bits : EltSize → Nat
  | .b8 => 8 | .b16 => 16 | .b32 => 32 | .b64 => 64
/-- The format of a floating-point type of major 45, and the width of every type. -/
def RedType.fmt : RedType → Option Machine.Fmt
  | .f32 => some Machine.f32 | .bf16 => some Machine.bf16 | .f16 => some Machine.f16
  | .i8 | .i16 | .i32 | .i64 => none
def RedType.bits : RedType → Nat
  | .f32 => 32 | .bf16 => 16 | .f16 => 16 | .i8 => 8 | .i16 => 16 | .i32 => 32 | .i64 => 64
def OrdType.bits : OrdType → Nat
  | .f32 => 32 | .f16 => 16 | .i8 => 8 | .i16 => 16 | .i32 => 32 | .i64 => 64
def OrdType.isFp : OrdType → Bool
  | .f32 | .f16 => true
  | .i8 | .i16 | .i32 | .i64 => false

end Sys2Proof

namespace Sys2Proof.Machine

/-! ### Elements (R159) -/

/-- Element i of width w bits. -/
def vel (w : Nat) (v : VecVal) (i : Nat) : Nat := v.toNat / 2 ^ (w * i) % 2 ^ w
/-- The register with the given elements of width w. -/
def packElems (w : Nat) (xs : List Nat) : VecVal := BitVec.ofNat 2048 (xs.foldr (fun x acc => x % 2 ^ w + acc * 2 ^ w) 0)
/-- The scalar of a vector-scalar form in every position (R217). -/
def splat (w : Nat) (x : Word) : VecVal := packElems w (List.replicate (2048 / w) x.toNat)
/-- Element i is active under a mask field (R35, R159). -/
def Half.active (h : Half) (km : Km) (i : Nat) : Bool := decide (km = 0) || (h.k.get km).getLsbD i

/-- What an operation delivers: a vector, a mask, queue entries, flags, the first narrowed NaN. -/
structure VOut where
  vd : Option VecVal := none
  kd : Option MaskVal := none
  out : List Word := []
  fl : Flags := noFlags
  nan : Option Nat := none
deriving DecidableEq, Repr

/-- The result of an element: its bits, its flags, a narrowed NaN. -/
abbrev Elem := Nat × Flags × Option Nat
def orFlags (fs : List Flags) : Flags := fs.foldl (· ||| ·) noFlags
/-- Active elements receive f, the others keep their value (R159). -/
def vmap (w : Nat) (act : Nat → Bool) (old : VecVal) (f : Nat → Elem) : VOut :=
  let rs : List Elem := (List.range (2048 / w)).map fun i => if act i then f i else (vel w old i, noFlags, none)
  { vd := some (packElems w (rs.map fun r => r.1)),
    fl := orFlags (rs.map fun r => r.2.1),
    nan := rs.findSome? fun r => r.2.2 }
def vmapN (w : Nat) (act : Nat → Bool) (old : VecVal) (f : Nat → Nat) : VOut := vmap w act old fun i => (f i, noFlags, none)
def plain (r : Nat × Flags) : Elem := (r.1, r.2, none)

/-! ### Major 39 (R221, R222) -/

def fpOp (op : Fin 8) (f : Fmt) (md : RMode) (a b d : Nat) : Nat × Flags :=
  match op with
  | 0 => fAdd f md a b
  | 1 => fSub f md a b
  | 2 => fMul f md a b
  | 3 => fFma f md a b d
  | 4 => fFnma f md a b d
  | 5 => fMinMax f false a b
  | 6 => fMinMax f true a b
  | _ => fDiv f md a b

/-! ### Majors 40 and 41 (R223, R224) -/

/-- The exact value of an element, signed or not. -/
def intVal (w : Nat) (uns : Bool) (x : Nat) : Int := if uns then (x % 2 ^ w : Nat) else signedOf w x
/-- Wrap, or saturate to the signed or unsigned range. -/
def narrowInt (w : Nat) (sat uns : Bool) (n : Int) : Nat :=
  if !sat then wrapInt w n
  else if uns then wrapInt w (max 0 (min (2 ^ w - 1) n))
  else wrapInt w (max (-(2 ^ (w - 1))) (min (2 ^ (w - 1) - 1) n))
/-- Operands count as unsigned where the prefix selects unsigned saturation (DEDUCED, log 13). -/
def intOp (op : Fin 8) (w : Nat) (sat uns : Bool) (a b d : Nat) : Nat :=
  let u := sat && uns
  let x := intVal w u a
  let y := intVal w u b
  match op with
  | 0 => narrowInt w sat uns (x + y)
  | 1 => narrowInt w sat uns (x - y)
  | 2 => narrowInt w sat uns (x * y)
  | 3 => narrowInt w sat uns (intVal w u d + x * y)
  | 4 => if signedOf w b < signedOf w a then b else a
  | 5 => if signedOf w a < signedOf w b then b else a
  | 6 => min a b
  | _ => max a b
def logicOp (op : Fin 8) (w a b : Nat) : Nat :=
  match op with
  | 0 => a &&& b
  | 1 => a ||| b
  | 2 => a ^^^ b
  | 3 => a &&& (2 ^ w - 1 - b % 2 ^ w)
  | 4 => shiftL w a b
  | 5 => shiftR w a b
  | 6 => shiftA w a b
  | _ => b

/-! ### Major 42 (R225 to R227) -/

def intPred (p : Fin 5) (w a b : Nat) : Bool :=
  match p with
  | 0 => decide (a = b)
  | 1 => decide (signedOf w a < signedOf w b)
  | 2 => decide (signedOf w b ≤ signedOf w a)
  | 3 => decide (a < b)
  | 4 => decide (b ≤ a)
/-- The mask of a list of bits, the first one lowest. -/
def packBits (bs : List Bool) : MaskVal := BitVec.ofNat 256 (bs.foldr (fun b acc => (if b then 1 else 0) + 2 * acc) 0)
def vcompare (w : Nat) (act : Nat → Bool) (f : Nat → Bool × Flags) : VOut :=
  let rs : List (Bool × Flags) := (List.range (2048 / w)).map fun i => if act i then f i else (false, noFlags)
  { kd := some (packBits (rs.map fun r => r.1)), fl := orFlags (rs.map fun r => r.2) }
def maskOp (op : Fin 4) (a b : MaskVal) : MaskVal :=
  match op with
  | 0 => a &&& b
  | 1 => a ||| b
  | 2 => a ^^^ b
  | 3 => a &&& ~~~ b
def maskCount (m : MaskVal) : Nat := (List.range 256).countP fun i => m.getLsbD i
def maskLow (m : MaskVal) : Nat := ((List.range 256).find? fun i => m.getLsbD i).getD 256
def maskWords (m : MaskVal) : List Word := (List.range 4).map fun i => BitVec.ofNat 64 (m.toNat / 2 ^ (64 * i))
/-- klo: bits below min(n, 256). -/
def lowMask (n : Word) : MaskVal := BitVec.ofNat 256 (2 ^ min n.toNat 256 - 1)
/-- kset: four words, the oldest lowest. -/
def wordsMask (ws : List Word) : MaskVal := BitVec.ofNat 256 (ws.foldr (fun w acc => w.toNat + acc * 2 ^ 64) 0)

/-! ### Major 43 (R228 to R230) -/

/-- Element i of va followed by vb, of width w. -/
def vel2 (w : Nat) (va vb : VecVal) (i : Nat) : Nat :=
  let n := 2048 / w
  if i < n then vel w va i else vel w vb (i - n)
def cvtOut (f : Fin 9) (md : RMode) (act : Nat → Bool) (old va vb : VecVal) (h : Nat) : VOut :=
  match f with
  | 0 => vmap 32 act old fun i => plain (let r := fConvert bf16 f32 md (vel 16 va (64 * h + i)); (r.1, r.2.1))
  | 1 => vmap 32 act old fun i => plain (let r := fConvert f16 f32 md (vel 16 va (64 * h + i)); (r.1, r.2.1))
  | 2 => vmap 16 act old fun i => fConvert f32 bf16 md (vel2 32 va vb i)
  | 3 => vmap 16 act old fun i => fConvert f32 f16 md (vel2 32 va vb i)
  | 4 => vmap 16 act old fun i => fConvert bf16 f16 md (vel 16 va i)
  | 5 => vmap 16 act old fun i => fConvert f16 bf16 md (vel 16 va i)
  | 6 => vmap 32 act old fun i => plain (intToF f32 md (signedOf 32 (vel 32 va i)))
  | 7 => vmap 32 act old fun i => plain (let r := fToInt f32 md (-2 ^ 31) (2 ^ 31 - 1) (vel 32 va i); (wrapInt 32 r.1, r.2))
  | 8 => vmap 32 act old fun i => plain (intToF f32 md (signedOf 8 (vel 8 va (64 * h + i))))
def widOut (f : Fin 4) (act : Nat → Bool) (old va : VecVal) (h : Nat) : VOut :=
  let w := if f = 0 ∨ f = 2 then 8 else 16
  let n := 2048 / (2 * w)
  vmapN (2 * w) act old fun i =>
    let x := vel w va (n * h + i)
    if f.val < 2 then wrapInt (2 * w) (signedOf w x) else x
def narOut (f : Fin 2) (sat uns : Bool) (act : Nat → Bool) (old va vb : VecVal) : VOut :=
  let w := if f = 0 then 8 else 16
  vmapN w act old fun i => narrowInt w sat uns (signedOf (2 * w) (vel2 (2 * w) va vb i))
def gscOut (hi : Bool) (md : RMode) (act : Nat → Bool) (old va vb : VecVal) : VOut :=
  vmap 32 act old fun i =>
    let sc := fConvert bf16 f32 md (vel 16 vb (if hi then 64 + i else i))
    let r := fMul f32 md (vel 32 va i) sc.1
    (r.1, r.2 ||| sc.2.1, none)
def unpkOut (act : Nat → Bool) (old va : VecVal) (h : Nat) : VOut :=
  vmapN 8 act old fun i => wrapInt 8 (signedOf 4 (vel 4 va (256 * h + i)))
/-- The nibble of an element: its low four bits, or saturated to −8..7. -/
def nibbleOf (sat : Bool) (x : Nat) : Nat := narrowInt 4 sat false (signedOf 8 x)
def pkOut (sat : Bool) (act : Nat → Bool) (old va vb : VecVal) : VOut :=
  vmapN 8 act old fun j => nibbleOf sat (vel2 8 va vb (2 * j)) + 16 * nibbleOf sat (vel2 8 va vb (2 * j + 1))

/-! ### Major 44 (R231, R232) -/

def compOut (w : Nat) (act : Nat → Bool) (va : VecVal) : VOut :=
  let n := 2048 / w
  let xs := ((List.range n).filter act).map (vel w va)
  { vd := some (packElems w (xs ++ List.replicate (n - xs.length) 0)) }

/-! ### Major 45 (R193, R233 to R236) -/

/-- One level of the tree of R193. -/
def pairUp {α : Type} (f : α → α → α) : List (Option α) → List (Option α)
  | a :: b :: r =>
    (match a, b with
      | some x, some y => some (f x y)
      | some x, none => some x
      | none, y => y) :: pairUp f r
  | l => l
/-- n levels of the tree; 8 levels reduce every register to its root. -/
def treeFold {α : Type} (f : α → α → α) : Nat → List (Option α) → Option α
  | 0, l => l.headD none
  | n + 1, l => treeFold f n (pairUp f l)
/-- An element as FP32, with the flags of its exact widening. -/
def widen (f : Fmt) (x : Nat) : Nat × Flags := if f = f32 then (x, noFlags) else let r := fConvert f f32 .rne x; (r.1, r.2.1)
/-- The leaves of a reduction. -/
def leaves {α : Type} (n : Nat) (act : Nat → Bool) (g : Nat → α) : List (Option α) :=
  (List.range n).map fun i => if act i then some (g i) else none
def flagged (f : Nat → Nat → Nat × Flags) (a b : Nat × Flags) : Nat × Flags :=
  let r := f a.1 b.1
  (r.1, a.2 ||| b.2 ||| r.2)
def redMin (w : Nat) : Int := -(2 ^ (w - 1))
def redMax (w : Nat) : Int := 2 ^ (w - 1) - 1
def rsumOut (t : RedType) (sat : Bool) (act : Nat → Bool) (va : VecVal) : VOut :=
  let w := t.bits
  let n := 2048 / w
  match t.fmt with
  | some f =>
    let r := (treeFold (flagged (fAdd f32 .rne)) 8 (leaves n act fun i => widen f (vel w va i))).getD (0, noFlags)
    { out := [BitVec.ofNat 64 r.1], fl := r.2 }
  | none =>
    let add (a b : Int) : Int := if w = 64 then signedOf 64 (narrowInt 64 sat false (a + b)) else a + b
    let r := (treeFold add 8 (leaves n act fun i => signedOf w (vel w va i))).getD 0
    { out := [BitVec.ofNat 64 (wrapInt 64 r)] }
/-- The value of a fully inactive maximum or minimum. -/
def extEmpty (isMax : Bool) (t : RedType) : Nat :=
  match t.fmt with
  | some _ => f32.inf isMax
  | none => wrapInt 64 (if isMax then redMin t.bits else redMax t.bits)
def rextOut (isMax : Bool) (t : RedType) (act : Nat → Bool) (va : VecVal) : VOut :=
  let w := t.bits
  let n := 2048 / w
  match t.fmt with
  | some f =>
    let r := (treeFold (flagged (fMinMax f32 isMax)) 8 (leaves n act fun i => widen f (vel w va i))).getD (extEmpty isMax t, noFlags)
    { out := [BitVec.ofNat 64 r.1], fl := r.2 }
  | none =>
    let pick (a b : Int) : Int := if isMax then max a b else min a b
    match treeFold pick 8 (leaves n act fun i => signedOf w (vel w va i)) with
    | some r => { out := [BitVec.ofNat 64 (wrapInt 64 r)] }
    | none => { out := [BitVec.ofNat 64 (extEmpty isMax t)] }
/-- The entry of vramax and vramin. -/
def raEntry (idx v : Nat) : Word := BitVec.ofNat 64 (idx % 2 ^ 16 * 2 ^ 48 + v % 2 ^ 32)
/-- A value that a combination delivers: a NaN is quieted (R185). -/
def fpDelivered (v : Nat) : Nat := if f32.isNaN v then f32.quiet v else v
/-- A combination of two operands of which one is a signalling NaN is invalid (R182, R185). -/
def fpSignals (a b : Nat) : Flags := if f32.isSNaN a || f32.isSNaN b then flagNV else noFlags
/-- b beats a, a having the lower index: a NaN loses to every number (R234). -/
def fpBeats (isMax : Bool) (a b : Nat) : Bool :=
  if f32.isNaN b then false
  else if f32.isNaN a then true
  else if isMax then decide (f32.ordKey a < f32.ordKey b) else decide (f32.ordKey b < f32.ordKey a)
def raextOut (isMax : Bool) (t : RedType) (act : Nat → Bool) (va : VecVal) : VOut :=
  let w := t.bits
  let n := 2048 / w
  match t.fmt with
  | some f =>
    let pick (a b : Nat × Nat × Flags) : Nat × Nat × Flags :=
      let x := if fpBeats isMax a.2.1 b.2.1 then b else a
      (x.1, fpDelivered x.2.1, a.2.2 ||| b.2.2 ||| fpSignals a.2.1 b.2.1)
    let r := (treeFold pick 8 (leaves n act fun i => (i, widen f (vel w va i)))).getD (0xFFFF, extEmpty isMax t, noFlags)
    { out := [raEntry r.1 r.2.1], fl := r.2.2 }
  | none =>
    let beats (a b : Int) : Bool := if isMax then decide (a < b) else decide (b < a)
    let pick (a b : Nat × Int) : Nat × Int := if beats a.2 b.2 then b else a
    match treeFold pick 8 (leaves n act fun i => (i, signedOf w (vel w va i))) with
    | some r => { out := [raEntry r.1 (wrapInt 32 r.2)] }
    | none => { out := [raEntry 0xFFFF (extEmpty isMax t)] }

/-- The left fold of vscan: the results of the elements, from the accumulator on. -/
def scanFold {α : Type} (comb : α → Nat → α) (start : Nat → α) : List (Nat × Bool) → Option α → List (Option α)
  | [], _ => []
  | (x, on) :: r, acc =>
    if on then
      let a := match acc with
        | none => start x
        | some y => comb y x
      some a :: scanFold comb start r (some a)
    else none :: scanFold comb start r acc
def scanOut (t : RedType) (md : RMode) (sat : Bool) (act : Nat → Bool) (old va : VecVal) : VOut :=
  let w := t.bits
  let xs : List (Nat × Bool) := (List.range (2048 / w)).map fun i => (vel w va i, act i)
  match t.fmt with
  | some f =>
    let comb (a : Nat × Flags) (x : Nat) : Nat × Flags := flagged (fAdd f32 md) a (widen f x)
    let rs := scanFold comb (widen f) xs none
    vmap w act old fun i =>
      match (rs[i]?).getD none with
      | some a =>
        if f = f32 then (a.1, a.2, none)
        else
          let c := fConvert f32 f md a.1
          (c.1, a.2 ||| c.2.1, c.2.2)
      | none => (0, noFlags, none)
  | none =>
    let comb (a x : Nat) : Nat := narrowInt w sat false (signedOf w a + signedOf w x)
    let rs := scanFold comb id xs none
    vmapN w act old fun i => ((rs[i]?).getD none).getD 0
def histOut (t : RedType) (n : Nat) (act : Nat → Bool) (old va : VecVal) : VOut :=
  let w := t.bits
  let digits := ((List.range (2048 / w)).filter act).map fun i => vel w va i / 2 ^ (4 * n) % 16
  vmapN 32 (fun _ => true) old fun d => if d < 16 then vel 32 old d + digits.count d else vel 32 old d

/-! ### Major 46 (R237 to R243) -/

/-- T of R238, first and second half: 2^(j/64), rounded to nearest even. -/
def exp2Table0 : List Nat := [
  0x3F800000, 0x3F8164D2, 0x3F82CD87, 0x3F843A29, 0x3F85AAC3, 0x3F871F62, 0x3F88980F, 0x3F8A14D5,
  0x3F8B95C2, 0x3F8D1ADF, 0x3F8EA43A, 0x3F9031DC, 0x3F91C3D3, 0x3F935A2B, 0x3F94F4F0, 0x3F96942D,
  0x3F9837F0, 0x3F99E046, 0x3F9B8D3A, 0x3F9D3EDA, 0x3F9EF532, 0x3FA0B051, 0x3FA27043, 0x3FA43516,
  0x3FA5FED7, 0x3FA7CD94, 0x3FA9A15B, 0x3FAB7A3A, 0x3FAD583F, 0x3FAF3B79, 0x3FB123F6, 0x3FB311C4]
def exp2Table1 : List Nat := [
  0x3FB504F3, 0x3FB6FD92, 0x3FB8FBAF, 0x3FBAFF5B, 0x3FBD08A4, 0x3FBF179A, 0x3FC12C4D, 0x3FC346CD,
  0x3FC5672A, 0x3FC78D75, 0x3FC9B9BE, 0x3FCBEC15, 0x3FCE248C, 0x3FD06334, 0x3FD2A81E, 0x3FD4F35B,
  0x3FD744FD, 0x3FD99D16, 0x3FDBFBB8, 0x3FDE60F5, 0x3FE0CCDF, 0x3FE33F89, 0x3FE5B907, 0x3FE8396A,
  0x3FEAC0C7, 0x3FED4F30, 0x3FEFE4BA, 0x3FF28177, 0x3FF5257D, 0x3FF7D0DF, 0x3FFA83B3, 0x3FFD3E0C]
def exp2T (j : Nat) : Nat := ((exp2Table0 ++ exp2Table1)[j]?).getD 0
/-- L of R239: log2(1 + j/64), rounded to nearest even. -/
def log2Table0 : List Nat := [
  0x00000000, 0x3CB73CB4, 0x3D35D69C, 0x3D8759C5, 0x3DB31FB8, 0x3DDE4212, 0x3E0462C4, 0x3E19574F,
  0x3E2E00D2, 0x3E42615F, 0x3E567AF1, 0x3E6A4F72, 0x3E7DE0B6, 0x3E88983F, 0x3E92203D, 0x3E9B8926,
  0x3EA4D3C2, 0x3EAE00D2, 0x3EB7110E, 0x3EC0052B, 0x3EC8DDD4, 0x3ED19BB0, 0x3EDA3F60, 0x3EE2C97D,
  0x3EEB3A9F, 0x3EF39355, 0x3EFBD42B, 0x3F01FED4, 0x3F060828, 0x3F0A0650, 0x3F0DF989, 0x3F11E20F]
def log2Table1 : List Nat := [
  0x3F15C01A, 0x3F1993E3, 0x3F1D5DA0, 0x3F211D84, 0x3F24D3C2, 0x3F28808C, 0x3F2C2411, 0x3F2FBE80,
  0x3F335004, 0x3F36D8CB, 0x3F3A58FF, 0x3F3DD0C8, 0x3F41404F, 0x3F44A7BA, 0x3F480731, 0x3F4B5ED7,
  0x3F4EAED0, 0x3F51F740, 0x3F553848, 0x3F587209, 0x3F5BA4A4, 0x3F5ED039, 0x3F61F4E5, 0x3F6512C7,
  0x3F6829FB, 0x3F6B3A9F, 0x3F6E44CD, 0x3F7148A1, 0x3F744636, 0x3F773DA4, 0x3F7A2F04, 0x3F7D1A71]
def log2L (j : Nat) : Nat := ((log2Table0 ++ log2Table1)[j]?).getD 0
def fmaNear (a b c : Nat) : Nat := (fFma f32 .rne a b c).1
def mulNear (a b : Nat) : Nat := (fMul f32 .rne a b).1
def addNear (a b : Nat) : Nat := (fAdd f32 .rne a b).1
/-- An exact value scaled by 2^k. -/
def Dy.scale (d : Dy) (k : Int) : Dy := ⟨d.m, d.e + k⟩
def exp2 (x : Nat) : Nat × Flags :=
  if f32.isNaN x then nanResult f32 [x]
  else if f32.isInf x then (if f32.isNeg x then 0 else f32.inf false, noFlags)
  else
    let v := f32.value x
    if !v.lt (Dy.ofInt 128) then (f32.inf false, flagOF ||| flagNX)
    else if v.lt (Dy.ofInt (-150)) then (0, flagUF ||| flagNX)
    else
      let n := (roundToInt .rne (v.scale 6)).1
      let r := (roundDy f32 .rne false (((v.scale 6).add (Dy.ofInt (-n))).scale (-6))).1
      let j := (n % 64).toNat
      let m := n / 64
      let p1 := fmaNear 0x3D635847 r 0x3E75FDF0
      let p2 := fmaNear p1 r 0x3F317218
      let p := mulNear p2 r
      let y := fmaNear (exp2T j) p (exp2T j)
      let res := roundDy f32 .rne false ((f32.value y).scale m)
      (res.1, res.2 ||| (if (roundToInt .rne v).2 then flagNX else noFlags))
def log2Fp (x : Nat) : Nat × Flags :=
  if f32.isNaN x then nanResult f32 [x]
  else if f32.isZero x then (f32.inf true, flagDZ)
  else if f32.isNeg x then invalid f32
  else if f32.isInf x then (x, noFlags)
  else
    let v := f32.value x
    let m0 := v.m.natAbs
    let sh := 23 - Nat.log2 m0
    let mt := m0 * 2 ^ sh
    let e : Int := v.e - sh + 23
    let j := mt / 2 ^ 17 - 64
    let num := 64 * mt - (64 + j) * 2 ^ 23
    let k : Nat := 60
    let t := (roundTo f32 .rne false (num * 2 ^ k / (64 + j)) (-23 - (k : Int)) (decide (num * 2 ^ k % (64 + j) ≠ 0))).1
    let q1 := fmaNear 0xBEB8AA3B t 0x3EF6384F
    let q2 := fmaNear q1 t 0xBF38AA3B
    let q3 := fmaNear q2 t 0x3FB8AA3B
    let q := mulNear q3 t
    let s := addNear (log2L j) q
    (addNear (intToF f32 .rne e).1 s, if mt = 2 ^ 23 then noFlags else flagNX)
def oneF32 : Nat := 0x3F800000
/-- The generator of R242. -/
def rngRound (z : Nat) : Nat := (z ^^^ (z / 2 ^ 29)) * 0xBF58476D1CE4E5B9 % 2 ^ 64
def rng (key0 key1 c : Nat) : Nat :=
  let z0 := key0 ^^^ ((key1 + 1) * 0x9E3779B97F4A7C15 % 2 ^ 64)
  let z1 := (z0 + (c + 1) * 0xD1B54A32D192ED03) % 2 ^ 64
  let z2 := rngRound (rngRound (rngRound z1))
  z2 ^^^ (z2 / 2 ^ 32)
def rngOut (fp : Bool) (act : Nat → Bool) (old va vb : VecVal) : VOut :=
  vmapN 32 act old fun i =>
    let z := rng (vel 64 vb 0) (vel 64 vb 1) (vel 32 va i) % 2 ^ 32
    if fp then (roundDy f32 .rne false ⟨(z / 2 ^ 8 : Nat), -24⟩).1 else z
def ordElem (inv : Bool) (t : OrdType) (x : Nat) : Nat :=
  let w := t.bits
  let s := 2 ^ (w - 1)
  if !t.isFp then x ^^^ s
  else if inv then (if s ≤ x then x ^^^ s else 2 ^ w - 1 - x)
  else (if s ≤ x then 2 ^ w - 1 - x else x ^^^ s)

/-! ### All operations but those of memory and of the scalar masks -/

def entrySat (x : VEntry) : Bool := pfxSat x.pfx
/-- Unsigned saturation is selected (R218). -/
def entryUns (x : VEntry) : Bool := decide (pfxFmt x.pfx = 3) || decide (pfxFmt x.pfx = 5)
/-- The element width that a scalar operand is taken at (R217). -/
def VOp.width : VOp → Nat
  | .fp _ t => t.fmt.width
  | .cmpFp _ t => t.fmt.width
  | .int _ z | .logic _ z | .cmpInt _ z => z.bits
  | _ => 64
/-- What the operation of a queue entry computes, vb given (R217 to R243). -/
def VEntry.compute (x : VEntry) (h : Half) (vb : VecVal) : VOut :=
  let va := h.v.get x.va
  let old := h.v.get x.vd
  let act := h.active x.km
  let ka := h.k.get (Fin.ofNat 8 x.va.val)
  let kb := h.k.get (Fin.ofNat 8 x.vb.val)
  let sel := x.vb.val
  match x.op with
  | .fp op t =>
    let w := t.fmt.width
    vmap w act old fun i => plain (fpOp op t.fmt x.mode (vel w va i) (vel w vb i) (vel w old i))
  | .int op z => vmapN z.bits act old fun i =>
      intOp op z.bits (entrySat x) (entryUns x) (vel z.bits va i) (vel z.bits vb i) (vel z.bits old i)
  | .logic op z => vmapN z.bits act old fun i => logicOp op z.bits (vel z.bits va i) (vel z.bits vb i)
  | .cmpInt p z => vcompare z.bits act fun i => (intPred p z.bits (vel z.bits va i) (vel z.bits vb i), noFlags)
  | .cmpFp k t => vcompare t.fmt.width act fun i => fCompare t.fmt k (vel t.fmt.width va i) (vel t.fmt.width vb i)
  | .maskBin op => { kd := some (maskOp op ka kb) }
  | .maskNot => { kd := some (~~~ ka) }
  | .maskPop => { out := [BitVec.ofNat 64 (maskCount ka)] }
  | .maskFirst => { out := [BitVec.ofNat 64 (maskLow ka)] }
  | .maskWord => { out := maskWords ka }
  | .cvt f => cvtOut f x.mode act old va vb sel
  | .wid f => widOut f act old va sel
  | .nar f => narOut f (entrySat x) (entryUns x) act old va vb
  | .gsc hi => gscOut hi x.mode act old va vb
  | .unpk => unpkOut act old va sel
  | .pk => pkOut (entrySat x) act old va vb
  | .perm => vmapN 8 act old fun i => vel 8 va (vel 8 vb i)
  | .nib hi => vmapN 8 act old fun i => vel 8 va (if hi then vel 8 vb i / 16 else vel 8 vb i % 16)
  | .bcast z => vmapN z.bits act old fun _ => vel z.bits va sel
  | .slup z => vmapN z.bits act old fun i => if sel ≤ i then vel z.bits va (i - sel) else vel z.bits old i
  | .sldn z => vmapN z.bits act old fun i => if i + sel < 2048 / z.bits then vel z.bits va (i + sel) else 0
  | .comp z => compOut z.bits act va
  | .idx z => vmapN z.bits act old id
  | .mvq z => { out := [BitVec.ofNat 64 (vel z.bits va sel)] }
  | .rsum t => rsumOut t (entrySat x) act va
  | .rext isMax t => rextOut isMax t act va
  | .raext isMax t => raextOut isMax t act va
  | .scan t => scanOut t x.mode (entrySat x) act old va
  | .hist t => histOut t sel act old va
  | .exp2 => vmap 32 act old fun i => plain (exp2 (vel 32 va i))
  | .log2 => vmap 32 act old fun i => plain (log2Fp (vel 32 va i))
  | .rcp => vmap 32 act old fun i => plain (fDiv f32 x.mode oneF32 (vel 32 va i))
  | .rsqrt => vmap 32 act old fun i => plain (fRsqrt f32 x.mode (vel 32 va i))
  | .sqrt => vmap 32 act old fun i => plain (fSqrt f32 x.mode (vel 32 va i))
  | .rng fp => rngOut fp act old va vb
  | .ord inv t => vmapN t.bits act old fun i => ordElem inv t (vel t.bits va i)
  | .maskLo | .maskSet | .vld | .vst | .vlds | .vsts | .vldg | .vstg | .vldb => {}
/-- Write what an operation delivers: vd, kd, entries of q4 to q7, flags and nanorg (R154, R182, R188). -/
def Half.deliver (h : Half) (x : VEntry) (o : VOut) : Half :=
  let qi : Fin 8 := Fin.ofNat 8 (4 + x.vd.val)
  let h1 : Half := {
    h with
    v := (match o.vd with | some v => h.v.set x.vd.val v x.vd.isLt | none => h.v)
    k := (match o.kd with | some k => h.k.set (x.vd.val % 8) k (Nat.mod_lt _ (by decide)) | none => h.k)
    q := (if o.out = [] then h.q else h.q.set qi.val (h.q.get qi ++ o.out) qi.isLt)
    fflags := h.fflags ||| o.fl }
  h1.recordNaN o.nan

end Sys2Proof.Machine
end

