-- ==== Sys2Proof/Machine/Vector.lean ====
section
/-! DEFINITION. Vector instructions, majors 39 to 47: the handover to the vector queue, and what the vector unit does when it starts an entry
(R215 to R249, R484). -/

namespace Sys2Proof.Machine

/-! ### Handover (R155, R215, R218) -/

/-- The payload fields that a prefix may set. -/
def pfxOnly (fmt : Nat → Bool) (rnd sat : Bool) (p : BitVec 16) : Bool :=
  (decide (pfxFmt p = 0) || fmt (pfxFmt p)) && (rnd || decide (pfxRnd p = 0)) && (sat || !pfxSat p) && decide (pfxGs p = 0)
def noFmt : Nat → Bool := fun _ => false
/-- The unsigned formats of a size (R218). -/
def unsFmt (z : EltSize) : Nat → Bool := fun f =>
  match z with
  | .b8 => decide (f = 3)
  | .b16 => decide (f = 5)
  | .b32 | .b64 => false
/-- Hand an instruction over with its prefix and its effective rounding mode (R155, R184). -/
def handover (x : VEntry) (accepts : BitVec 16 → Bool) (bad iso : Bool) : Meaning :=
  issue { pfx := accepts, badCode := bad, iso := iso } do
    let s ← get
    let h := s.half
    waitUntil (decide (h.vq.length < 16)) .vector
    let id ← freshId
    update fun s => s.modHalf fun h => { h with vq := h.vq ++ [{
      x with pfx := h.pfx, word := BitVec.ofNat 32 (s.wordAtPc 4).toNat, mode := h.mode, pc := h.pc, seq := id, after := s.orderedFrom }] }
    pure .next
/-- A form whose vb may name a queue of a scalar operand: q0 to q3 (R35). -/
def vsForm (op : VOp) (vs : Bool) (km : Km) (vb va vd : VReg) (accepts : BitVec 16 → Bool) : Meaning :=
  handover { op := op, vs := vs, km := km, vb := vb, va := va, vd := vd } accepts (vs && decide (4 ≤ vb.val)) false
/-- A form of vector registers alone. -/
def vForm (op : VOp) (km : Km) (vb va vd : VReg) (accepts : BitVec 16 → Bool) : Meaning :=
  handover { op := op, km := km, vb := vb, va := va, vd := vd } accepts false false
/-- A form whose vd names one of q4 to q7 (R227, R233). -/
def vqForm (op : VOp) (km : Km) (vb va vd : VReg) (accepts : BitVec 16 → Bool) : Meaning :=
  handover { op := op, km := km, vb := vb, va := va, vd := vd } accepts (decide (4 ≤ vd.val)) false
/-- Operands that name k0 to k7 (R225, R227). -/
def isMaskReg (v : VReg) : Bool := decide (v.val < 8)
/-- A base or stride: q0 to q3 or z (R245). -/
def isVBase : Reg → Bool
  | .q i => decide (i.val < 4)
  | .z => true
  | .g _ | .n _ | .y _ | .rsv _ => false
def memForm (op : VOp) (km : Km) (stride base : Reg) (v : VReg) (i4 iso : Bool) : Meaning :=
  handover { op := op, km := km, base := base, stride := stride, vd := v }
    (pfxOnly (fun f => decide (f ≤ 8) && (i4 || decide (f ≠ 1))) false true) (!(isVBase base && isVBase stride)) iso

/-! ### Major 39 (R221) -/

def execVfadd (vs : Bool) (t : FpType) (km : Km) (vb va vd : VReg) : Meaning :=
  vsForm (.fp 0 t) vs km vb va vd (pfxOnly noFmt true false)
def execVfsub (vs : Bool) (t : FpType) (km : Km) (vb va vd : VReg) : Meaning :=
  vsForm (.fp 1 t) vs km vb va vd (pfxOnly noFmt true false)
def execVfmul (vs : Bool) (t : FpType) (km : Km) (vb va vd : VReg) : Meaning :=
  vsForm (.fp 2 t) vs km vb va vd (pfxOnly noFmt true false)
def execVfma (vs : Bool) (t : FpType) (km : Km) (vb va vd : VReg) : Meaning :=
  vsForm (.fp 3 t) vs km vb va vd (pfxOnly noFmt true false)
def execVfnma (vs : Bool) (t : FpType) (km : Km) (vb va vd : VReg) : Meaning :=
  vsForm (.fp 4 t) vs km vb va vd (pfxOnly noFmt true false)
def execVfmin (vs : Bool) (t : FpType) (km : Km) (vb va vd : VReg) : Meaning :=
  vsForm (.fp 5 t) vs km vb va vd (pfxOnly noFmt true false)
def execVfmax (vs : Bool) (t : FpType) (km : Km) (vb va vd : VReg) : Meaning :=
  vsForm (.fp 6 t) vs km vb va vd (pfxOnly noFmt true false)
def execVfdiv (vs : Bool) (t : FpType) (km : Km) (vb va vd : VReg) : Meaning :=
  vsForm (.fp 7 t) vs km vb va vd (pfxOnly noFmt true false)

/-! ### Majors 40 and 41 (R223, R224) -/

def execVadd (vs : Bool) (z : EltSize) (km : Km) (vb va vd : VReg) : Meaning :=
  vsForm (.int 0 z) vs km vb va vd (pfxOnly (unsFmt z) false true)
def execVsub (vs : Bool) (z : EltSize) (km : Km) (vb va vd : VReg) : Meaning :=
  vsForm (.int 1 z) vs km vb va vd (pfxOnly (unsFmt z) false true)
def execVmul (vs : Bool) (z : EltSize) (km : Km) (vb va vd : VReg) : Meaning :=
  vsForm (.int 2 z) vs km vb va vd (pfxOnly (unsFmt z) false true)
def execVmac (vs : Bool) (z : EltSize) (km : Km) (vb va vd : VReg) : Meaning :=
  vsForm (.int 3 z) vs km vb va vd (pfxOnly (unsFmt z) false true)
def execVminI (vs : Bool) (z : EltSize) (km : Km) (vb va vd : VReg) : Meaning :=
  vsForm (.int 4 z) vs km vb va vd (pfxOnly (unsFmt z) false true)
def execVmaxI (vs : Bool) (z : EltSize) (km : Km) (vb va vd : VReg) : Meaning :=
  vsForm (.int 5 z) vs km vb va vd (pfxOnly (unsFmt z) false true)
def execVminN (vs : Bool) (z : EltSize) (km : Km) (vb va vd : VReg) : Meaning :=
  vsForm (.int 6 z) vs km vb va vd (pfxOnly (unsFmt z) false true)
def execVmaxN (vs : Bool) (z : EltSize) (km : Km) (vb va vd : VReg) : Meaning :=
  vsForm (.int 7 z) vs km vb va vd (pfxOnly (unsFmt z) false true)
def execVand (vs : Bool) (z : EltSize) (km : Km) (vb va vd : VReg) : Meaning :=
  vsForm (.logic 0 z) vs km vb va vd (pfxOnly (unsFmt z) false true)
def execVor (vs : Bool) (z : EltSize) (km : Km) (vb va vd : VReg) : Meaning :=
  vsForm (.logic 1 z) vs km vb va vd (pfxOnly (unsFmt z) false true)
def execVxor (vs : Bool) (z : EltSize) (km : Km) (vb va vd : VReg) : Meaning :=
  vsForm (.logic 2 z) vs km vb va vd (pfxOnly (unsFmt z) false true)
def execVandn (vs : Bool) (z : EltSize) (km : Km) (vb va vd : VReg) : Meaning :=
  vsForm (.logic 3 z) vs km vb va vd (pfxOnly (unsFmt z) false true)
def execVsll (vs : Bool) (z : EltSize) (km : Km) (vb va vd : VReg) : Meaning :=
  vsForm (.logic 4 z) vs km vb va vd (pfxOnly (unsFmt z) false true)
def execVsrl (vs : Bool) (z : EltSize) (km : Km) (vb va vd : VReg) : Meaning :=
  vsForm (.logic 5 z) vs km vb va vd (pfxOnly (unsFmt z) false true)
def execVsra (vs : Bool) (z : EltSize) (km : Km) (vb va vd : VReg) : Meaning :=
  vsForm (.logic 6 z) vs km vb va vd (pfxOnly (unsFmt z) false true)
def execVmov (vs : Bool) (z : EltSize) (km : Km) (vb vd : VReg) : Meaning :=
  vsForm (.logic 7 z) vs km vb 0 vd (pfxOnly (unsFmt z) false true)

/-! ### Major 42 (R225 to R227) -/

/-- A compare: vd names a mask register. -/
def cmpForm (op : VOp) (vs : Bool) (km : Km) (vb va vd : VReg) : Meaning :=
  handover { op := op, vs := vs, km := km, vb := vb, va := va, vd := vd } (pfxOnly noFmt false false)
    ((vs && decide (4 ≤ vb.val)) || !isMaskReg vd) false
def execVceq (vs : Bool) (z : EltSize) (km : Km) (vb va vd : VReg) : Meaning := cmpForm (.cmpInt 0 z) vs km vb va vd
def execVclt (vs : Bool) (z : EltSize) (km : Km) (vb va vd : VReg) : Meaning := cmpForm (.cmpInt 1 z) vs km vb va vd
def execVcge (vs : Bool) (z : EltSize) (km : Km) (vb va vd : VReg) : Meaning := cmpForm (.cmpInt 2 z) vs km vb va vd
def execVcltn (vs : Bool) (z : EltSize) (km : Km) (vb va vd : VReg) : Meaning := cmpForm (.cmpInt 3 z) vs km vb va vd
def execVcgen (vs : Bool) (z : EltSize) (km : Km) (vb va vd : VReg) : Meaning := cmpForm (.cmpInt 4 z) vs km vb va vd
def execVfeq (vs : Bool) (t : FpType) (km : Km) (vb va vd : VReg) : Meaning := cmpForm (.cmpFp .eq t) vs km vb va vd
def execVflt (vs : Bool) (t : FpType) (km : Km) (vb va vd : VReg) : Meaning := cmpForm (.cmpFp .lt t) vs km vb va vd
def execVfle (vs : Bool) (t : FpType) (km : Km) (vb va vd : VReg) : Meaning := cmpForm (.cmpFp .le t) vs km vb va vd
/-- A mask operation, of k0 to k7 alone, without a governing mask. -/
def maskForm (op : VOp) (vb va vd : VReg) (ok : Bool) : Meaning :=
  handover { op := op, vb := vb, va := va, vd := vd } (pfxOnly noFmt false false) (!ok) false
def execKand (vb va vd : VReg) : Meaning := maskForm (.maskBin 0) vb va vd (isMaskReg vb && isMaskReg va && isMaskReg vd)
def execKor (vb va vd : VReg) : Meaning := maskForm (.maskBin 1) vb va vd (isMaskReg vb && isMaskReg va && isMaskReg vd)
def execKxor (vb va vd : VReg) : Meaning := maskForm (.maskBin 2) vb va vd (isMaskReg vb && isMaskReg va && isMaskReg vd)
def execKandn (vb va vd : VReg) : Meaning := maskForm (.maskBin 3) vb va vd (isMaskReg vb && isMaskReg va && isMaskReg vd)
def execKnot (va vd : VReg) : Meaning := maskForm .maskNot 0 va vd (isMaskReg va && isMaskReg vd)
def execKpop (va vd : VReg) : Meaning := maskForm .maskPop 0 va vd (isMaskReg va && decide (vd.val < 4))
def execKfirst (va vd : VReg) : Meaning := maskForm .maskFirst 0 va vd (isMaskReg va && decide (vd.val < 4))
def execKword (va vd : VReg) : Meaning := maskForm .maskWord 0 va vd (isMaskReg va && decide (vd.val < 4))
def execKlo (vb vd : VReg) : Meaning := maskForm .maskLo vb 0 vd (decide (vb.val < 4) && isMaskReg vd)
def execKset (vb vd : VReg) : Meaning := maskForm .maskSet vb 0 vd (decide (vb.val < 4) && isMaskReg vd)

/-! ### Major 43 (R228 to R230) -/

def execVcvtF32Bf16 (km : Km) (part va vd : VReg) : Meaning := vForm (.cvt 0) km part va vd (pfxOnly noFmt true true)
def execVcvtF32F16 (km : Km) (part va vd : VReg) : Meaning := vForm (.cvt 1) km part va vd (pfxOnly noFmt true true)
def execVcvtBf16F32 (km : Km) (vb va vd : VReg) : Meaning := vForm (.cvt 2) km vb va vd (pfxOnly noFmt true true)
def execVcvtF16F32 (km : Km) (vb va vd : VReg) : Meaning := vForm (.cvt 3) km vb va vd (pfxOnly noFmt true true)
def execVcvtF16Bf16 (km : Km) (va vd : VReg) : Meaning := vForm (.cvt 4) km 0 va vd (pfxOnly noFmt true true)
def execVcvtBf16F16 (km : Km) (va vd : VReg) : Meaning := vForm (.cvt 5) km 0 va vd (pfxOnly noFmt true true)
def execVcvtF32I32 (km : Km) (va vd : VReg) : Meaning := vForm (.cvt 6) km 0 va vd (pfxOnly noFmt true true)
def execVcvtI32F32 (km : Km) (va vd : VReg) : Meaning := vForm (.cvt 7) km 0 va vd (pfxOnly noFmt true true)
def execVcvtF32I8 (km : Km) (part va vd : VReg) : Meaning := vForm (.cvt 8) km part va vd (pfxOnly noFmt true true)
def execVwidI16I8 (km : Km) (part va vd : VReg) : Meaning := vForm (.wid 0) km part va vd (pfxOnly noFmt true true)
def execVwidI32I16 (km : Km) (part va vd : VReg) : Meaning := vForm (.wid 1) km part va vd (pfxOnly noFmt true true)
def execVwidN16N8 (km : Km) (part va vd : VReg) : Meaning := vForm (.wid 2) km part va vd (pfxOnly noFmt true true)
def execVwidN32N16 (km : Km) (part va vd : VReg) : Meaning := vForm (.wid 3) km part va vd (pfxOnly noFmt true true)
def execVnarI8I16 (km : Km) (vb va vd : VReg) : Meaning := vForm (.nar 0) km vb va vd (pfxOnly (unsFmt .b8) true true)
def execVnarI16I32 (km : Km) (vb va vd : VReg) : Meaning := vForm (.nar 1) km vb va vd (pfxOnly (unsFmt .b16) true true)
def execVgscLo (km : Km) (vb va vd : VReg) : Meaning := vForm (.gsc false) km vb va vd (pfxOnly noFmt true true)
def execVgscHi (km : Km) (vb va vd : VReg) : Meaning := vForm (.gsc true) km vb va vd (pfxOnly noFmt true true)
def execVunpkI8I4 (km : Km) (part va vd : VReg) : Meaning := vForm .unpk km part va vd (pfxOnly noFmt true true)
def execVpkI4I8 (km : Km) (vb va vd : VReg) : Meaning := vForm .pk km vb va vd (pfxOnly noFmt true true)

/-! ### Major 44 (R231, R232) -/

def execVpermB (km : Km) (vb va vd : VReg) : Meaning := vForm .perm km vb va vd (pfxOnly noFmt false false)
def execVnibLo (km : Km) (vb va vd : VReg) : Meaning := vForm (.nib false) km vb va vd (pfxOnly noFmt false false)
def execVnibHi (km : Km) (vb va vd : VReg) : Meaning := vForm (.nib true) km vb va vd (pfxOnly noFmt false false)
def execVbcast (z : EltSize) (km : Km) (el va vd : VReg) : Meaning := vForm (.bcast z) km el va vd (pfxOnly noFmt false false)
def execVslup (z : EltSize) (km : Km) (cnt va vd : VReg) : Meaning := vForm (.slup z) km cnt va vd (pfxOnly noFmt false false)
def execVsldn (z : EltSize) (km : Km) (cnt va vd : VReg) : Meaning := vForm (.sldn z) km cnt va vd (pfxOnly noFmt false false)
def execVcomp (z : EltSize) (km : Km) (va vd : VReg) : Meaning := vForm (.comp z) km 0 va vd (pfxOnly noFmt false false)
def execVidx (z : EltSize) (km : Km) (vd : VReg) : Meaning := vForm (.idx z) km 0 0 vd (pfxOnly noFmt false false)
def execVmvq (z : EltSize) (el va vd : VReg) : Meaning := vqForm (.mvq z) 0 el va vd (pfxOnly noFmt false false)

/-! ### Major 45 (R233 to R236) -/

def execVrsum (t : RedType) (km : Km) (va vd : VReg) : Meaning :=
  vqForm (.rsum t) km 0 va vd (pfxOnly noFmt false t.fmt.isNone)
def execVrmax (t : RedType) (km : Km) (va vd : VReg) : Meaning := vqForm (.rext true t) km 0 va vd (pfxOnly noFmt false false)
def execVrmin (t : RedType) (km : Km) (va vd : VReg) : Meaning := vqForm (.rext false t) km 0 va vd (pfxOnly noFmt false false)
def execVramax (t : RedType) (km : Km) (va vd : VReg) : Meaning := vqForm (.raext true t) km 0 va vd (pfxOnly noFmt false false)
def execVramin (t : RedType) (km : Km) (va vd : VReg) : Meaning := vqForm (.raext false t) km 0 va vd (pfxOnly noFmt false false)
def execVscan (t : RedType) (km : Km) (va vd : VReg) : Meaning :=
  vForm (.scan t) km 0 va vd (pfxOnly noFmt true t.fmt.isNone)
def execVhist (t : RedType) (km : Km) (cnt va vd : VReg) : Meaning := vForm (.hist t) km cnt va vd (pfxOnly noFmt false false)

/-! ### Major 46 (R237 to R243) -/

def execVexp2 (km : Km) (va vd : VReg) : Meaning := vForm .exp2 km 0 va vd (pfxOnly noFmt false false)
def execVlog2 (km : Km) (va vd : VReg) : Meaning := vForm .log2 km 0 va vd (pfxOnly noFmt false false)
def execVrcp (km : Km) (va vd : VReg) : Meaning := vForm .rcp km 0 va vd (pfxOnly noFmt true false)
def execVrsqrt (km : Km) (va vd : VReg) : Meaning := vForm .rsqrt km 0 va vd (pfxOnly noFmt true false)
def execVsqrt (km : Km) (va vd : VReg) : Meaning := vForm .sqrt km 0 va vd (pfxOnly noFmt true false)
def execVrngN32 (km : Km) (vb va vd : VReg) : Meaning := vForm (.rng false) km vb va vd (pfxOnly noFmt false false)
def execVrngF32 (km : Km) (vb va vd : VReg) : Meaning := vForm (.rng true) km vb va vd (pfxOnly noFmt false false)
def execVord (t : OrdType) (km : Km) (va vd : VReg) : Meaning := vForm (.ord false t) km 0 va vd (pfxOnly noFmt false false)
def execVordi (t : OrdType) (km : Km) (va vd : VReg) : Meaning := vForm (.ord true t) km 0 va vd (pfxOnly noFmt false false)

/-! ### Major 47 (R245) -/

def execVld (km : Km) (base : Reg) (v : VReg) : Meaning := memForm .vld km .z base v true false
def execVst (km : Km) (base : Reg) (v : VReg) : Meaning := memForm .vst km .z base v true false
def execVlds (km : Km) (stride base : Reg) (v : VReg) : Meaning := memForm .vlds km stride base v false false
def execVsts (km : Km) (stride base : Reg) (v : VReg) : Meaning := memForm .vsts km stride base v false false
def execVldg (km : Km) (base : Reg) (v : VReg) : Meaning := memForm .vldg km .z base v true true
def execVstg (km : Km) (base : Reg) (v : VReg) : Meaning := memForm .vstg km .z base v true true
def execVldb (km : Km) (base : Reg) (v : VReg) : Meaning := memForm .vldb km .z base v false false

/-! ### Formats and addresses of major 47 (R246, R247) -/

/-- Bytes of an element under a format code; 1 is i4, whose elements share bytes. -/
def vfmtBytes (f : Nat) : Nat := if f ≤ 3 then 1 else if f ≤ 7 then 2 else 4
/-- The element format of R247, for the bound check of vstg. -/
def vfmtElem (f : Nat) : ElemFmt :=
  match f with
  | 1 => .int 4 true
  | 2 => .int 8 true
  | 4 => .int 16 true
  | 5 => .int 16 false
  | 6 => .fp f16
  | 7 => .fp bf16
  | 8 => .fp f32
  | _ => .int 8 false
/-- A resource's fmt, where a prefix states none; bit planes count as bytes. -/
def vfmtOf (p resource : Nat) : Nat := if p ≠ 0 then p else if resource ≤ 8 then resource else 0
/-- Byte offset of element i from the base. -/
def vOffset (op : VOp) (f : Nat) (stride : Int) (i : Nat) : Int :=
  match op with
  | .vlds | .vsts => stride * i
  | .vldb => 0
  | _ => if f = 1 then i / 2 else i * vfmtBytes f
/-- Active elements of a memory instruction. -/
def Half.activeElems (h : Half) (km : Km) (f : Nat) : List Nat := (List.range (256 / vfmtBytes f)).filter (h.active km)
/-- The value that a store gives element i: the element, or its nibble (R247). -/
def VEntry.stored (x : VEntry) (h : Half) (f i : Nat) : Nat :=
  if f = 1 then nibbleOf (entrySat x) (vel 8 (h.v.get x.vd) i) else vel (8 * vfmtBytes f) (h.v.get x.vd) i
/-- The register after a load of element values. -/
def VEntry.loaded (x : VEntry) (h : Half) (f : Nat) (acts : List Nat) (val : Nat → Nat) : Half :=
  let o := vmapN (8 * vfmtBytes f) (fun i => acts.contains i) (h.v.get x.vd) fun i => if f = 1 then wrapInt 8 (signedOf 4 (val i)) else val i
  h.deliver x o
/-- Masked cells of element i stored at keys: whole bytes, or one nibble. -/
def nibbleCells (f i v : Nat) (keys : List Nat) : List (Nat × Byte × Byte) :=
  if f = 1 then keys.map fun k => if i % 2 = 0 then (k, BitVec.ofNat 8 v, 0x0F#8) else (k, BitVec.ofNat 8 (16 * v), 0xF0#8)
  else plainCells keys (leBytes (vfmtBytes f) v)
/-- Cells of one byte become one access to it (R247). -/
def joinCells (cells : List (Nat × Byte × Byte)) : List (Nat × Byte × Byte) :=
  let join (acc : List (Nat × Byte × Byte)) (c : Nat × Byte × Byte) : List (Nat × Byte × Byte) :=
    match acc with
    | (k, b, m) :: r => if k = c.1 then (k, (b &&& ~~~ c.2.2) ||| (c.2.1 &&& c.2.2), m ||| c.2.2) :: r else c :: acc
    | [] => [c]
  (cells.foldl join []).reverse
/-- The nibble or element at a byte value. -/
def pickElem (f i v : Nat) : Nat := if f = 1 then (if i % 2 = 0 then v % 16 else v / 16 % 16) else v

/-- The address word and the stride, base first (R245). -/
def vAddress (x : VEntry) : Exec (Word × Int) := do
  let aw ← rd x.base
  match x.op with
  | .vlds | .vsts => do
    let st ← rd x.stride
    pure (aw, st.toInt)
  | _ => pure (aw, 0)
/-- A reserved bit of an address word (R219). -/
def vReserved (ok : Bool) (aw : Word) : Exec Unit :=
  if ok then pure () else stop (.trap { code := 0x21, faddr := aw, own := true })

/-! ### The local forms (R246, R247) -/

/-- An element's address, checked with its alignment. -/
def vElemAddr (ea : Int) (n : Nat) (k : AccKind) : Exec Nat := do
  let s ← get
  let a ← checkWin s.cur 0 ea n k
  if a % n ≠ 0 then spadFault ea 0 6
  pure a
/-- Accesses that an entry's own waits for: the scalar stream's before it and the vector stream's before it, at the slices, at the host port
and bay-remote (R248, R285). -/
def State.vectorClear (s : State) (x : VEntry) (strong : Bool) (keys : List Nat) : Bool :=
  s.unheld { src := s.src, vec := true, strong := strong, keys := keys, seq := x.seq, after := x.after }
    && !((s.tile s.cur).acks.any fun a => decide (a.c = s.ctx) && decide (a.sh = s.share) && decide (a.id < x.seq))
def vectorTurnComes (x : VEntry) : Exec Unit := do
  let s ← get
  waitUntil (s.vectorClear x false [])
/-- Where a local form reads or writes: the address word's checks done, its format, its active elements and their addresses. -/
structure VLocal where
  fmt : Nat
  acts : List Nat
  ea : Nat → Int
def vLocalPlace (x : VEntry) : Exec VLocal := do
  let (aw, st) ← vAddress x
  vReserved (decide (aw.toNat < 2 ^ 20)) aw
  let s ← get
  let f := vfmtOf (pfxFmt x.pfx) 0
  pure { fmt := f, acts := s.half.activeElems x.km f, ea := fun i => aw.toNat + vOffset x.op f st i }
def vLocalLoad (x : VEntry) : Exec Unit := do
  let p ← vLocalPlace x
  let n := vfmtBytes p.fmt
  let reads := match x.op with | .vldb => p.acts.take 1 | _ => p.acts
  reads.forM fun i => do
    let _ ← vElemAddr (p.ea i) n .load
    pure ()
  vectorTurnComes x
  let s ← get
  let at' (i : Nat) : Nat := (p.ea i).toNat
  let look (s : State) : State := s.sense (reads.flatMap fun i => s.winKeys s.cur s.share (at' i) n)
  let s1 := look s
  match reads.find? fun i => s1.winPoisoned s.cur s.share (at' i) n with
  | some i => stop (.trapOn look { code := 0x28, faddr := spadFaddr (at' i) 0 0 })
  | none =>
    update fun s =>
      (look s).modHalf fun h => x.loaded h p.fmt p.acts fun i => pickElem p.fmt i (leNat (s.readWin s.cur s.share (at' i) n))
def vLocalStore (x : VEntry) : Exec Unit := do
  let p ← vLocalPlace x
  let n := vfmtBytes p.fmt
  p.acts.forM fun i => do
    let a ← vElemAddr (p.ea i) n .store
    logWrite a n
  vectorTurnComes x
  let s ← get
  let cells := joinCells (p.acts.flatMap fun i =>
    nibbleCells p.fmt i (x.stored s.half p.fmt i) (s.winKeys s.cur s.share (p.ea i).toNat n))
  let lines := linesOf (cells.map (·.1))
  let whole := match x.op with | .vst => wholeSectors cells | _ => []
  update fun s => ({ s with
    mem := s.mem.writeMasked cells
    flips := freshWords s.flips ((cells.filter fun (c : Nat × Byte × Byte) => decide (c.2.2 = 0xFF#8)).map fun (c : Nat × Byte × Byte) => c.1)
    dirty := lines.foldl (fun d l => nInsert l d) s.dirty
    poison := s.poison.filter fun k => !whole.contains k }).mark lines

/-! ### The global forms (R246, R247, R285, R398, R399) -/

/-- Where a global form reads or writes. -/
structure VGlobal where
  idx : Nat
  off : Nat
  fmt : Nat
  acts : List Nat
  /-- the translated parts, each with its offset within the extent; every part follows its own page (R55) -/
  parts : List (Nat × PathPart)
  /-- the guest address of the extent (R396) -/
  va : Nat
  bound : Option Nat
def VGlobal.path (g : VGlobal) : GlobalPath := g.parts.map (·.2)
def VGlobal.keyAt (g : VGlobal) (o : Nat) : Option Nat :=
  (g.parts.find? fun p => decide (p.1 ≤ o) && decide (o < p.1 + p.2.n)).map fun p => p.2.key + (o - p.1)
def VGlobal.elemKeys (g : VGlobal) (i : Nat) : List Nat :=
  let o := (vOffset .vldg g.fmt 0 i).toNat
  (List.range (vfmtBytes g.fmt)).filterMap fun j => g.keyAt (o + j)
/-- Check and translate an extent of 256 bytes; only pages of active bytes are translated (R217). -/
def vGlobalPath (x : VEntry) (acc : Nat) : Exec (Option VGlobal) := do
  let (aw, _) ← vAddress x
  vReserved (decide (bits aw.toNat 51 48 = 0)) aw
  let idx := bits aw.toNat 63 52
  let off := bits aw.toNat 47 0
  let s ← get
  let f := vfmtOf (pfxFmt x.pfx) (resFmt (s.resEntry s.cur s.pid idx))
  let acts := s.half.activeElems x.km f
  if acts = [] then pure none
  else do
    let r ← checkResource idx off 256 acc
    let va := resVbase r + off
    checkUsed idx (decide (va % vfmtBytes f = 0)) 0x26 7 (resFaddr idx off)
    let s ← get
    let offs := acts.map fun i => (vOffset .vldg f 0 i).toNat
    let pages := (pageParts va 256).filter fun p => offs.any fun o => decide (p.1 ≤ va + o) && decide (va + o < p.1 + p.2)
    match pages.mapM fun p => (s.xlate s.cur s.act.tenant p.1 acc).map fun y => (p.1 - va, partOf s.act.tenant r (y.1, p.2, y.2)) with
    | .ok ps => pure (some { idx := idx, off := off, fmt := f, acts := acts, parts := ps, va := va,
                             bound := if resBndEn r then some (resBndIdx r) else none })
    | .error t => stop (.trapOn (fun s => s.used idx) { t with res := resFaddr idx off })
/-- The access of a vldg, as the slices see a load. -/
def State.vAccess (s : State) (x : VEntry) (g : VGlobal) : SliceOp :=
  { src := s.src, what := .load 0 (g.acts.flatMap g.elemKeys), parts := g.path, vec := true, seq := x.seq, after := x.after }
/-- Its lines are read: from the slices, or by their controllers; those that the read cache holds stay there (R54, R63, R131). -/
def State.vRead (s : State) (o : SliceOp) : State :=
  (o.lines ((mainKeys o.what.keys).filter fun k => (s.fromRd o k).isNone)).foldl (fun (st : State) l => st.readLine l.2 l.1) s
/-- The loads of the vector stream are performed at their start. -/
def vGlobalLoad (x : VEntry) : Exec Unit := do
  match ← vGlobalPath x 1 with
  | none => pure ()
  | some g => do
    let s ← get
    let o := s.vAccess x g
    let keys := o.what.keys
    waitUntil (s.vectorClear x (GlobalPath.strong o.parts) keys && s.portReady keys x.seq)
    let s1 := s.vRead o
    if s1.loadPoisoned o keys then
      stop (.trapOn (fun s => (s.used g.idx).vRead o) {
        code := 0x28, reason := 1, faddr := resFaddr g.idx g.off, place := some (g.va, keyPa ((keys.find? fun k => s1.loadPoisoned o [k]).getD 0)) })
    update fun _ =>
      let s2 := s1.rdFillLines s.cur s.act.tenant (linesOf ((mainKeys keys).filter (GlobalPath.rcKey o.parts)))
      s2.modHalf fun h => x.loaded h g.fmt g.acts fun i => pickElem g.fmt i (leNat (s1.loadBytes o (g.elemKeys i)))
/-- The elements of a vstg after the bound check: the values written, the tile's counts, and whether the trap action withheld one (R398). -/
def boundElems (b : Option Bound) (i : Nat) (f : Nat) : List (Nat × Nat) → Tile → List (Nat × Nat) × Tile × Bool
  | [], t => ([], t, false)
  | e :: r, t =>
    match b with
    | none => (e :: r, t, false)
    | some q =>
      let y := q.apply (vfmtElem f) e.2
      let rest := boundElems b i f r (if y.2 then t.countBound i else t)
      match y.1 with
      | some v => ((e.1, v) :: rest.1, rest.2.1, rest.2.2)
      | none => (rest.1, rest.2.1, true)
def vGlobalStore (x : VEntry) : Exec Unit := do
  match ← vGlobalPath x 2 with
  | none => pure ()
  | some g => do
    let s ← get
    let vals := g.acts.map fun i => (i, x.stored s.half g.fmt i)
    let bnd := g.bound.map fun i => (s.tile s.cur).bnd.get (Fin.ofNat 64 i)
    let r := boundElems bnd (g.bound.getD 0) g.fmt vals (s.tile s.cur)
    let cells := joinCells (r.1.flatMap fun e => nibbleCells g.fmt e.1 e.2 (g.elemKeys e.1))
    waitUntil (!((s.tile s.cur).acks.any fun a => decide (a.c = s.ctx) && decide (a.sh = s.share) && decide (a.id < x.seq)))
    update fun s => (s.setTile s.cur r.2.1).postCells true x.seq x.after g.path cells
    if r.2.2 then update fun s => s.modHalf fun h => { h with boundTrap := some (g.bound.getD 0, x.pc) }

/-! ### Starting an entry (R216, R219, R244) -/

/-- The queue entries that an entry removes, and appends (R154, R217, R227, R245). -/
def VEntry.queues (x : VEntry) : Op :=
  let qb : Reg := .q (Fin.ofNat 8 (x.vb.val % 4))
  let qd : Reg := .q (Fin.ofNat 8 (4 + x.vd.val % 4))
  match x.op with
  | .maskLo => { srcs := [qb] }
  | .maskSet => { srcs := [qb, qb, qb, qb] }
  | .maskPop | .maskFirst | .mvq _ | .rsum _ | .rext _ _ | .raext _ _ => { dsts := [qd] }
  | .maskWord => { dsts := [qd, qd, qd, qd] }
  | .vlds | .vsts => { srcs := [x.base, x.stride] }
  | .vld | .vst | .vldg | .vstg | .vldb => { srcs := [x.base] }
  | _ => if x.vs then { srcs := [qb] } else {}
/-- An entry's effect (R217 to R247). -/
def vectorBody (x : VEntry) : Exec Unit := do
  let qb : Reg := .q (Fin.ofNat 8 (x.vb.val % 4))
  match x.op with
  | .vld | .vlds | .vldb => vLocalLoad x
  | .vst | .vsts => vLocalStore x
  | .vldg => vGlobalLoad x
  | .vstg => vGlobalStore x
  | .maskLo => do
    let n ← rd qb
    update fun s => s.modHalf fun h => h.deliver x { kd := some (lowMask n) }
  | .maskSet => do
    let w0 ← rd qb
    let w1 ← rd qb
    let w2 ← rd qb
    let w3 ← rd qb
    update fun s => s.modHalf fun h => h.deliver x { kd := some (wordsMask [w0, w1, w2, w3]) }
  | _ => do
    if x.vs then
      let w ← rd qb
      update fun s => s.modHalf fun h => h.deliver x (x.compute h (splat x.op.width w))
    else update fun s => s.modHalf fun h => h.deliver x (x.compute h (h.v.get x.vb))
/-- The stream of a context may start an entry: its activation is live or parked, and nothing stops the stream (R157, R219, R220, R484). -/
def State.streamRuns (s : State) (t : Nat) (c : Fin 8) : Bool :=
  let x := s.slotAt t c
  (decide (x.phase = .live) || x.phase.isParked) && !x.wfrozen && !x.half.vparked && !x.half.vheld && x.half.boundTrap.isNone
    && !s.frozenShare t (s.shareAt t c)
/-- The vector stream parks on a miss: cause, xpc and faddr are written as for every parking trap (R219, R389). -/
def State.parkVector (s : State) (t : Nat) (c : Fin 8) (pc : Word) (tr : Trap) : State :=
  let x := s.slotAt t c
  let y : Slot := { x with half := { (x.half.record pc tr) with vparked := true } }
  if x.missSent then s.setSlotAt t c y
  else
    let s1 := s.setSlotAt t c { y with missSent := true, missVec := true, missVa := tr.faddr, missRes := tr.res, missAcc := tr.access }
    s1.sendMiss t (s.shareAt t c) x.act.tenant tr.faddr.toNat tr.access false c.val 0
/-- Start the head entry of a context: none when it is not ready. -/
def State.vectorTry (s : State) (t : Nat) (c : Fin 8) : Option State :=
  let h := (s.slotAt t c).half
  match h.vq with
  | [] => none
  | x :: rest =>
    if !(s.streamRuns t c && h.queuesReady x.queues) then none
    else
      let body : Exec Unit := do
        vectorBody x
        update fun s => s.modHalf fun h => { h with vq := rest }
      let s0 : State := { s with cur := t, ctx := c }
      let back (s1 : State) : State := { s1 with cur := s.cur, ctx := s.ctx }
      let trapped (s1 : State) (tr : Trap) : State := if tr.code < 0x10 then s1.parkVector t c x.pc tr else s1.takeTrapAt t c x.pc tr
      match body s0 with
      | .ok (_, s1) => some (back s1)
      | .error (.trap tr) => some (trapped s tr)
      | .error (.trapOn f tr) => some (trapped (back (f s0)) tr)
      | .error _ => none
/-- The burst that a share of a tile holds leave for: the cycle of its last transcendental start. Seizing handlers have their own, on reserved
tokens (R244, R340). -/
def Tile.burstOf (x : Tile) (i : Fin 3) : Option Nat := if i = 2 then x.rburst.map Prod.fst else x.burst
/-- The head entry waits for the leave of a burst (R244). -/
def State.needsBurst (s : State) (t : Nat) (c : Fin 8) : Bool :=
  (s.slotAt t c).headBurst && (match (s.tile t).burstOf (s.shareAt t c) with | some l => decide (l + 64 < s.cycle) | none => true)
/-- A burst draws one token from the hold of its activation, from the reserve, or asks its leave controller for it (R244, R340, R343). -/
def State.askBurst (s : State) (t : Nat) (c : Fin 8) : Option State :=
  let x := s.tile t
  let i := s.shareAt t c
  if (decide (i ≠ 2) && x.burstReq) || (x.burstOf i).isSome || !s.streamRuns t c then none
  else
    let a := (s.slotAt t c).act
    let r : LvReq := { cost := 1, prio := a.prio, cycle := s.cycle, tileIdx := bayIdx t, kind := 3, tile := t, act := a.id, key := a.id }
    let g := s.obtainLeave t i a.id r
    let lender := if g.2.2 then a.id else 0
    some (g.1.modTile t fun y =>
      if i = 2 then { y with rburst := some (s.cycle, lender) }
      else { y with burst := (if g.2.1 then some s.cycle else none), burstReq := !g.2.1, burstRes := isReflex t, burstAct := lender })
/-- The rule of R333 for one pair of deficits, both tenants being ready or one of them; the second component is the tenant that takes the
slot, true for half B. -/
def deficitRule (w0 w1 : Nat) (d0 d1 : Int) (last r0 r1 : Bool) : Int × Int × Bool × Bool :=
  if r0 && r1 then
    let t := deficitPick w0 w1 d0 d1 last
    let w : Int := w0 + w1
    (d0 + w0 - (if t then 0 else w), d1 + w1 - (if t then w else 0), t, t)
  else if r0 then (0, min d1 0, false, last)
  else if r1 then (min d0 0, 0, true, last)
  else (min d0 0, min d1 0, false, last)
/-- Contexts after the one that started last, in round robin order. -/
def roundRobin (last : Fin 8) : List (Fin 8) := (List.range 8).map fun i => Fin.ofNat 8 (last.val + 1 + i)
/-- Contexts with a ready queue head, in round robin order (R216, R334). -/
def State.vectorReady (s : State) (t : Nat) : List (Fin 8) :=
  (roundRobin (s.tile t).vlast).filter fun c => !s.needsBurst t c && (s.vectorTry t c).isSome
/-- The rule of R333 on the vector deficits, for the tenants with a ready queue head (R334). -/
def State.vectorRule (s : State) (t : Nat) : Int × Int × Bool × Bool :=
  let x := s.tile t
  let has (i : Fin 3) : Bool := (s.vectorReady t).any fun c => decide (s.shareAt t c = i)
  deficitRule (x.share 0).weight (x.share 1).weight (x.share 0).vecD (x.share 1).vecD x.lastVTenant (has 0) (has 1)
/-- The context whose entry the unit starts next, if any is ready (R216, R334). -/
def State.vectorPick (s : State) (t : Nat) : Option (Fin 8) :=
  let ready := s.vectorReady t
  let both := ready.any (fun c => decide (s.shareAt t c = 0)) && ready.any fun c => decide (s.shareAt t c = 1)
  if (s.tile t).split && both then ready.find? fun c => decide ((s.shareAt t c = 1) = ((s.vectorRule t).2.2.1 = true))
  else ready.head?
/-- The counters after a start. -/
def State.vectorTurn (s : State) (t : Nat) (c : Fin 8) : State :=
  let x := s.tile t
  let d := s.vectorRule t
  let x1 : Tile := { x with vlast := c, vslotUsed := true }
  if x.split && decide (s.shareAt t c ≠ 2) then
    s.setTile t { ((x1.modShare 0 fun y => { y with vecD := d.1 }).modShare 1 fun y => { y with vecD := d.2.1 }) with lastVTenant := d.2.2.2 }
  else s.setTile t x1
def Tile.noteBurst (x : Tile) (i : Fin 3) (on : Bool) (cycle : Nat) : Tile :=
  if !on then x else if i = 2 then { x with rburst := x.rburst.map fun b => (cycle, b.2) } else { x with burst := some cycle }
/-- The unit starts the head entry of a context, or asks for the leave of its burst. -/
def State.vectorStart (s : State) (t : Nat) (c : Fin 8) : Option State :=
  if s.needsBurst t c then s.askBurst t c
  else if s.vectorPick t = some c then
    let tr := (s.slotAt t c).headBurst
    ((s.vectorTurn t c).modTile t fun x => x.noteBurst (s.shareAt t c) tr s.cycle).vectorTry t c
  else none
def execVectorStart (t : Nat) (c : Fin 8) : Meaning := fun s => event "VECTOR_START" (s.vectorStart t c)
/-- The token of a burst goes back: to the hold that lent it, or to the reserve or the pool of the bay (R244, R343). -/
def State.burstToken (s : State) (t lender : Nat) (res : Bool) : State :=
  if lender = 0 then s.modBay (bayOf t) fun b => b.give res 1
  else s.onAct t lender fun x => { x with act := { x.act with lent := x.act.lent - 1 } }
/-- A burst is over: 64 cycles have passed without a transcendental (R244). -/
def burstOver (cycle : Nat) (b : Option Nat) : Bool := match b with | some l => decide (l + 64 < cycle) | none => false
/-- A burst ends when 64 cycles have passed without a transcendental (R244). -/
def State.burstEnd (s : State) (t : Nat) : Option State :=
  let y := s.tile t
  if burstOver s.cycle y.burst then
    some ((s.burstToken t y.burstAct y.burstRes).modTile t fun x => { x with burst := none, burstRes := false, burstAct := 0 })
  else match y.rburst with
    | some b => if b.1 + 64 < s.cycle then some ((s.burstToken t b.2 true).modTile t fun x => { x with rburst := none }) else none
    | none => none
def execTranscendentalBurstEnd (t : Nat) : Meaning := fun s => event "TRANSCENDENTAL_BURST_END" (s.burstEnd t)
/-- An instruction that has issued holds the context until it completes (R484): a load that blocks it, the wait of a release or an acquire,
the wait of lv.hold for its grant. -/
def Slot.holds (x : Slot) : Bool :=
  decide (x.waitOn = .issued) || decide (x.waitOn = .hold) || x.half.loads.any fun l => l.blocking
/-- The scalar stream takes the bound trap of a vstg: at the instruction where it waits, or after the one that it has completed (R484). The
vector stream goes on with the first instruction of trap code. -/
def State.takeBoundTrap (s : State) (t : Nat) (c : Fin 8) : Option State :=
  let x := s.slotAt t c
  match x.half.boundTrap with
  | some b =>
    if x.phase = .live ∧ !x.wfrozen ∧ !s.frozenShare t (s.shareAt t c) ∧ !x.holds then
      let s1 := s.setSlotAt t c { x with half := { x.half with boundTrap := none, vheld := true } }
      some (s1.takeTrapAt t c x.half.pc { code := 0x11, reason := b.1, faddr := b.2 })
    else none
  | none => none
def execBoundTrap (t : Nat) (c : Fin 8) : Meaning := fun s => event "BOUND_TRAP" (s.takeBoundTrap t c)

end Sys2Proof.Machine
end

