-- ==== Sys2Proof/Machine/Dispatch.lean ====
section
/-! DEFINITION. One arm per instruction or event, each a direct call of its meaning. -/

namespace Sys2Proof.Machine

open Sys2Proof

def exec (i : Instr) (s : State) : Host.Outcome State Fault Refusal :=
  match i with
  | .add b a d => Sys2Proof.Machine.execAdd b a d s
  | .sub b a d => Sys2Proof.Machine.execSub b a d s
  | .and b a d => Sys2Proof.Machine.execAnd b a d s
  | .or b a d => Sys2Proof.Machine.execOr b a d s
  | .xor b a d => Sys2Proof.Machine.execXor b a d s
  | .andn b a d => Sys2Proof.Machine.execAndn b a d s
  | .orn b a d => Sys2Proof.Machine.execOrn b a d s
  | .sll b a d => Sys2Proof.Machine.execSll b a d s
  | .srl b a d => Sys2Proof.Machine.execSrl b a d s
  | .sra b a d => Sys2Proof.Machine.execSra b a d s
  | .slt b a d => Sys2Proof.Machine.execSlt b a d s
  | .sltn b a d => Sys2Proof.Machine.execSltn b a d s
  | .min b a d => Sys2Proof.Machine.execMin b a d s
  | .max b a d => Sys2Proof.Machine.execMax b a d s
  | .minn b a d => Sys2Proof.Machine.execMinn b a d s
  | .maxn b a d => Sys2Proof.Machine.execMaxn b a d s
  | .mul b a d => Sys2Proof.Machine.execMul b a d s
  | .mulh b a d => Sys2Proof.Machine.execMulh b a d s
  | .mulhn b a d => Sys2Proof.Machine.execMulhn b a d s
  | .div b a d => Sys2Proof.Machine.execDiv b a d s
  | .divn b a d => Sys2Proof.Machine.execDivn b a d s
  | .rem b a d => Sys2Proof.Machine.execRem b a d s
  | .remn b a d => Sys2Proof.Machine.execRemn b a d s
  | .addw b a d => Sys2Proof.Machine.execAddw b a d s
  | .subw b a d => Sys2Proof.Machine.execSubw b a d s
  | .sllw b a d => Sys2Proof.Machine.execSllw b a d s
  | .srlw b a d => Sys2Proof.Machine.execSrlw b a d s
  | .sraw b a d => Sys2Proof.Machine.execSraw b a d s
  | .mulw b a d => Sys2Proof.Machine.execMulw b a d s
  | .clz a d => Sys2Proof.Machine.execClz a d s
  | .ctz a d => Sys2Proof.Machine.execCtz a d s
  | .popc a d => Sys2Proof.Machine.execPopc a d s
  | .bswap a d => Sys2Proof.Machine.execBswap a d s
  | .addi imm a d => Sys2Proof.Machine.execAddi imm a d s
  | .andi imm a d => Sys2Proof.Machine.execAndi imm a d s
  | .ori imm a d => Sys2Proof.Machine.execOri imm a d s
  | .xori imm a d => Sys2Proof.Machine.execXori imm a d s
  | .slli sh a d => Sys2Proof.Machine.execSlli sh a d s
  | .srli sh a d => Sys2Proof.Machine.execSrli sh a d s
  | .srai sh a d => Sys2Proof.Machine.execSrai sh a d s
  | .rori sh a d => Sys2Proof.Machine.execRori sh a d s
  | .slliw sh a d => Sys2Proof.Machine.execSlliw sh a d s
  | .srliw sh a d => Sys2Proof.Machine.execSrliw sh a d s
  | .sraiw sh a d => Sys2Proof.Machine.execSraiw sh a d s
  | .roriw sh a d => Sys2Proof.Machine.execRoriw sh a d s
  | .slti imm a d => Sys2Proof.Machine.execSlti imm a d s
  | .lix imm d => Sys2Proof.Machine.execLix imm d s
  | .lixs imm d => Sys2Proof.Machine.execLixs imm d s
  | .fadd b a d => Sys2Proof.Machine.execFadd b a d s
  | .fsub b a d => Sys2Proof.Machine.execFsub b a d s
  | .fmul b a d => Sys2Proof.Machine.execFmul b a d s
  | .fdiv b a d => Sys2Proof.Machine.execFdiv b a d s
  | .fsqrt a d => Sys2Proof.Machine.execFsqrt a d s
  | .fmin b a d => Sys2Proof.Machine.execFmin b a d s
  | .fmax b a d => Sys2Proof.Machine.execFmax b a d s
  | .fmadd b a d => Sys2Proof.Machine.execFmadd b a d s
  | .fmsub b a d => Sys2Proof.Machine.execFmsub b a d s
  | .fnmadd b a d => Sys2Proof.Machine.execFnmadd b a d s
  | .feq b a d => Sys2Proof.Machine.execFeq b a d s
  | .flt b a d => Sys2Proof.Machine.execFlt b a d s
  | .fle b a d => Sys2Proof.Machine.execFle b a d s
  | .fclass a d => Sys2Proof.Machine.execFclass a d s
  | .fneg a d => Sys2Proof.Machine.execFneg a d s
  | .fabs a d => Sys2Proof.Machine.execFabs a d s
  | .fcvtI64F32 a d => Sys2Proof.Machine.execFcvtI64F32 a d s
  | .fcvtN64F32 a d => Sys2Proof.Machine.execFcvtN64F32 a d s
  | .fcvtI32F32 a d => Sys2Proof.Machine.execFcvtI32F32 a d s
  | .fcvtN32F32 a d => Sys2Proof.Machine.execFcvtN32F32 a d s
  | .fcvtF32I64 a d => Sys2Proof.Machine.execFcvtF32I64 a d s
  | .fcvtF32N64 a d => Sys2Proof.Machine.execFcvtF32N64 a d s
  | .fcvtBf16F32 a d => Sys2Proof.Machine.execFcvtBf16F32 a d s
  | .fcvtF16F32 a d => Sys2Proof.Machine.execFcvtF16F32 a d s
  | .fcvtF32Bf16 a d => Sys2Proof.Machine.execFcvtF32Bf16 a d s
  | .fcvtF32F16 a d => Sys2Proof.Machine.execFcvtF32F16 a d s
  | .bEq imm b a => Sys2Proof.Machine.execBEq imm b a s
  | .bNe imm b a => Sys2Proof.Machine.execBNe imm b a s
  | .bLt imm b a => Sys2Proof.Machine.execBLt imm b a s
  | .bGe imm b a => Sys2Proof.Machine.execBGe imm b a s
  | .bLtn imm b a => Sys2Proof.Machine.execBLtn imm b a s
  | .bGen imm b a => Sys2Proof.Machine.execBGen imm b a s
  | .j imm => Sys2Proof.Machine.execJ imm s
  | .jal imm => Sys2Proof.Machine.execJal imm s
  | .nop => Sys2Proof.Machine.execNop s
  | .jr a => Sys2Proof.Machine.execJr a s
  | .jalr a d => Sys2Proof.Machine.execJalr a d s
  | .lp len a => Sys2Proof.Machine.execLp len a s
  | .pca d => Sys2Proof.Machine.execPca d s
  | .done => Sys2Proof.Machine.execDone s
  | .flush => Sys2Proof.Machine.execFlush s
  | .ld off t base d => Sys2Proof.Machine.execLd off t base d s
  | .st off t base r => Sys2Proof.Machine.execSt off t base r s
  | .ldb off t ti base d => Sys2Proof.Machine.execLdb off t ti base d s
  | .stb off t ti base r => Sys2Proof.Machine.execStb off t ti base r s
  | .ldg scale t o res d => Sys2Proof.Machine.execLdg scale t o res d s
  | .stg scale t o res d => Sys2Proof.Machine.execStg scale t o res d s
  | .amoSwap w b a d => Sys2Proof.Machine.execAmoSwap w b a d s
  | .amoAdd w b a d => Sys2Proof.Machine.execAmoAdd w b a d s
  | .amoAnd w b a d => Sys2Proof.Machine.execAmoAnd w b a d s
  | .amoOr w b a d => Sys2Proof.Machine.execAmoOr w b a d s
  | .amoXor w b a d => Sys2Proof.Machine.execAmoXor w b a d s
  | .amoMaxI w b a d => Sys2Proof.Machine.execAmoMaxI w b a d s
  | .amoMinI w b a d => Sys2Proof.Machine.execAmoMinI w b a d s
  | .amoMaxN w b a d => Sys2Proof.Machine.execAmoMaxN w b a d s
  | .amoMinN w b a d => Sys2Proof.Machine.execAmoMinN w b a d s
  | .amoCas w b a d => Sys2Proof.Machine.execAmoCas w b a d s
  | .amoFadd b a d => Sys2Proof.Machine.execAmoFadd b a d s
  | .fence scope vec kind => Sys2Proof.Machine.execFence scope vec kind s
  | .ldAcq sys t a d => Sys2Proof.Machine.execLdAcq sys t a d s
  | .stRel sys t a r => Sys2Proof.Machine.execStRel sys t a r s
  | .cinv a => Sys2Proof.Machine.execCinv a s
  | .cinvAll => Sys2Proof.Machine.execCinvAll s
  | .msgSend rep b a => Sys2Proof.Machine.execMsgSend rep b a s
  | .msgSendn k rep a => Sys2Proof.Machine.execMsgSendn k rep a s
  | .msgSpawn a => Sys2Proof.Machine.execMsgSpawn a s
  | .msgHost b => Sys2Proof.Machine.execMsgHost b s
  | .msgPut rep b a => Sys2Proof.Machine.execMsgPut rep b a s
  | .msgArg b a => Sys2Proof.Machine.execMsgArg b a s
  | .msgHdr b a => Sys2Proof.Machine.execMsgHdr b a s
  | .msgMask c b => Sys2Proof.Machine.execMsgMask c b s
  | .barArr a => Sys2Proof.Machine.execBarArr a s
  | .grpRank b a => Sys2Proof.Machine.execGrpRank b a s
  | .grpSize b a => Sys2Proof.Machine.execGrpSize b a s
  | .grpTile b a => Sys2Proof.Machine.execGrpTile b a s
  | .grpSend rep b a => Sys2Proof.Machine.execGrpSend rep b a s
  | .mxLdb a => Sys2Proof.Machine.execMxLdb a s
  | .mxMma notify c b a => Sys2Proof.Machine.execMxMma notify c b a s
  | .mxZero notify c b => Sys2Proof.Machine.execMxZero notify c b s
  | .mxRd notify c b a => Sys2Proof.Machine.execMxRd notify c b a s
  | .mxLdacc notify c b a => Sys2Proof.Machine.execMxLdacc notify c b a s
  | .mxBay notify c b a => Sys2Proof.Machine.execMxBay notify c b a s
  | .mxStat b a => Sys2Proof.Machine.execMxStat b a s
  | .mxCfg a => Sys2Proof.Machine.execMxCfg a s
  | .cpGl chain notify c a => Sys2Proof.Machine.execCpGl chain notify c a s
  | .cpGb chain notify c a => Sys2Proof.Machine.execCpGb chain notify c a s
  | .cpLg notify c a => Sys2Proof.Machine.execCpLg notify c a s
  | .cpGg notify c a => Sys2Proof.Machine.execCpGg notify c a s
  | .cpLb chain notify c a => Sys2Proof.Machine.execCpLb chain notify c a s
  | .cpLs chain notify c b a => Sys2Proof.Machine.execCpLs chain notify c b a s
  | .cpLsb chain notify c b a => Sys2Proof.Machine.execCpLsb chain notify c b a s
  | .cpPl chain notify c b a => Sys2Proof.Machine.execCpPl chain notify c b a s
  | .cpCancel c b a => Sys2Proof.Machine.execCpCancel c b a s
  | .cpCfg c b a => Sys2Proof.Machine.execCpCfg c b a s
  | .cpCrec c b a => Sys2Proof.Machine.execCpCrec c b a s
  | .gxLd chain notify c a => Sys2Proof.Machine.execGxLd chain notify c a s
  | .gxSt notify c a => Sys2Proof.Machine.execGxSt notify c a s
  | .gxLdb chain notify c a => Sys2Proof.Machine.execGxLdb chain notify c a s
  | .cmbMax i32 b a => Sys2Proof.Machine.execCmbMax i32 b a s
  | .cmbMin i32 b a => Sys2Proof.Machine.execCmbMin i32 b a s
  | .cmbLgc op b a => Sys2Proof.Machine.execCmbLgc op b a s
  | .cmbAdd b a => Sys2Proof.Machine.execCmbAdd b a s
  | .tmPub now b => Sys2Proof.Machine.execTmPub now b s
  | .tmGet b a => Sys2Proof.Machine.execTmGet b a s
  | .tmAge b a => Sys2Proof.Machine.execTmAge b a s
  | .tmArm b => Sys2Proof.Machine.execTmArm b s
  | .tmCfg rd b a => Sys2Proof.Machine.execTmCfg rd b a s
  | .reqSub b a => Sys2Proof.Machine.execReqSub b a s
  | .reqStep a => Sys2Proof.Machine.execReqStep a s
  | .reqRd b a => Sys2Proof.Machine.execReqRd b a s
  | .reqCommit b a => Sys2Proof.Machine.execReqCommit b a s
  | .reqFault a => Sys2Proof.Machine.execReqFault a s
  | .reqCfgRows b a => Sys2Proof.Machine.execReqCfgRows b a s
  | .reqCfgStopset b a => Sys2Proof.Machine.execReqCfgStopset b a s
  | .reqCancel free b a => Sys2Proof.Machine.execReqCancel free b a s
  | .reqKvAttach b a => Sys2Proof.Machine.execReqKvAttach b a s
  | .reqKvDetach b a => Sys2Proof.Machine.execReqKvDetach b a s
  | .reqKvEvict b a => Sys2Proof.Machine.execReqKvEvict b a s
  | .reqKvRelease b a => Sys2Proof.Machine.execReqKvRelease b a s
  | .tmrSet b a => Sys2Proof.Machine.execTmrSet b a s
  | .tmrRd b a => Sys2Proof.Machine.execTmrRd b a s
  | .wktSeize b a => Sys2Proof.Machine.execWktSeize b a s
  | .wktRel a => Sys2Proof.Machine.execWktRel a s
  | .wktStat b a => Sys2Proof.Machine.execWktStat b a s
  | .extW n a => Sys2Proof.Machine.execExtW n a s
  | .extGet n a => Sys2Proof.Machine.execExtGet n a s
  | .extLix n imm => Sys2Proof.Machine.execExtLix n imm s
  | .extLixs n imm => Sys2Proof.Machine.execExtLixs n imm s
  | .shpLd n b => Sys2Proof.Machine.execShpLd n b s
  | .shpSt n b => Sys2Proof.Machine.execShpSt n b s
  | .shpSet n f a => Sys2Proof.Machine.execShpSet n f a s
  | .shpGet n f a => Sys2Proof.Machine.execShpGet n f a s
  | .recSlice idx b a => Sys2Proof.Machine.execRecSlice idx b a s
  | .csrRw n a d => Sys2Proof.Machine.execCsrRw n a d s
  | .csrRs n a d => Sys2Proof.Machine.execCsrRs n a d s
  | .csrRc n a d => Sys2Proof.Machine.execCsrRc n a d s
  | .wakeReq => Sys2Proof.Machine.execWakeReq s
  | .tret => Sys2Proof.Machine.execTret s
  | .trapAb a => Sys2Proof.Machine.execTrapAb a s
  | .trapDead a => Sys2Proof.Machine.execTrapDead a s
  | .frzRel b a d => Sys2Proof.Machine.execFrzRel b a d s
  | .eqPop b d => Sys2Proof.Machine.execEqPop b d s
  | .tlbWr b a d => Sys2Proof.Machine.execTlbWr b a d s
  | .tlbNak b a d => Sys2Proof.Machine.execTlbNak b a d s
  | .tlbInv a d => Sys2Proof.Machine.execTlbInv a d s
  | .tlbInvt a d => Sys2Proof.Machine.execTlbInvt a d s
  | .resWr b a d => Sys2Proof.Machine.execResWr b a d s
  | .resRd b a => Sys2Proof.Machine.execResRd b a s
  | .bndWr b a => Sys2Proof.Machine.execBndWr b a s
  | .bndRd a d => Sys2Proof.Machine.execBndRd a d s
  | .bndClr a => Sys2Proof.Machine.execBndClr a s
  | .wearRd b d => Sys2Proof.Machine.execWearRd b d s
  | .lvHold a => Sys2Proof.Machine.execLvHold a s
  | .lvDrop => Sys2Proof.Machine.execLvDrop s
  | .lvStat b d => Sys2Proof.Machine.execLvStat b d s
  | .lvShare b a d => Sys2Proof.Machine.execLvShare b a d s
  | .wearSet b a d => Sys2Proof.Machine.execWearSet b a d s
  | .partMk a d => Sys2Proof.Machine.execPartMk a d s
  | .partFree a d => Sys2Proof.Machine.execPartFree a d s
  | .partHold b a d => Sys2Proof.Machine.execPartHold b a d s
  | .partHalt b a d => Sys2Proof.Machine.execPartHalt b a d s
  | .partSwap b a d => Sys2Proof.Machine.execPartSwap b a d s
  | .shutPost b a d => Sys2Proof.Machine.execShutPost b a d s
  | .shutStat b a d => Sys2Proof.Machine.execShutStat b a d s
  | .vfCtlPause b a d => Sys2Proof.Machine.execVfCtlPause b a d s
  | .vfCtlResume b a d => Sys2Proof.Machine.execVfCtlResume b a d s
  | .vfCtlReset b a d => Sys2Proof.Machine.execVfCtlReset b a d s
  | .vfCtlTeardown b a d => Sys2Proof.Machine.execVfCtlTeardown b a d s
  | .vfadd vs t km vb va vd => Sys2Proof.Machine.execVfadd vs t km vb va vd s
  | .vfsub vs t km vb va vd => Sys2Proof.Machine.execVfsub vs t km vb va vd s
  | .vfmul vs t km vb va vd => Sys2Proof.Machine.execVfmul vs t km vb va vd s
  | .vfma vs t km vb va vd => Sys2Proof.Machine.execVfma vs t km vb va vd s
  | .vfnma vs t km vb va vd => Sys2Proof.Machine.execVfnma vs t km vb va vd s
  | .vfmin vs t km vb va vd => Sys2Proof.Machine.execVfmin vs t km vb va vd s
  | .vfmax vs t km vb va vd => Sys2Proof.Machine.execVfmax vs t km vb va vd s
  | .vfdiv vs t km vb va vd => Sys2Proof.Machine.execVfdiv vs t km vb va vd s
  | .vadd vs z km vb va vd => Sys2Proof.Machine.execVadd vs z km vb va vd s
  | .vsub vs z km vb va vd => Sys2Proof.Machine.execVsub vs z km vb va vd s
  | .vmul vs z km vb va vd => Sys2Proof.Machine.execVmul vs z km vb va vd s
  | .vmac vs z km vb va vd => Sys2Proof.Machine.execVmac vs z km vb va vd s
  | .vminI vs z km vb va vd => Sys2Proof.Machine.execVminI vs z km vb va vd s
  | .vmaxI vs z km vb va vd => Sys2Proof.Machine.execVmaxI vs z km vb va vd s
  | .vminN vs z km vb va vd => Sys2Proof.Machine.execVminN vs z km vb va vd s
  | .vmaxN vs z km vb va vd => Sys2Proof.Machine.execVmaxN vs z km vb va vd s
  | .vand vs z km vb va vd => Sys2Proof.Machine.execVand vs z km vb va vd s
  | .vor vs z km vb va vd => Sys2Proof.Machine.execVor vs z km vb va vd s
  | .vxor vs z km vb va vd => Sys2Proof.Machine.execVxor vs z km vb va vd s
  | .vandn vs z km vb va vd => Sys2Proof.Machine.execVandn vs z km vb va vd s
  | .vsll vs z km vb va vd => Sys2Proof.Machine.execVsll vs z km vb va vd s
  | .vsrl vs z km vb va vd => Sys2Proof.Machine.execVsrl vs z km vb va vd s
  | .vsra vs z km vb va vd => Sys2Proof.Machine.execVsra vs z km vb va vd s
  | .vmov vs z km vb vd => Sys2Proof.Machine.execVmov vs z km vb vd s
  | .vceq vs z km vb va vd => Sys2Proof.Machine.execVceq vs z km vb va vd s
  | .vclt vs z km vb va vd => Sys2Proof.Machine.execVclt vs z km vb va vd s
  | .vcge vs z km vb va vd => Sys2Proof.Machine.execVcge vs z km vb va vd s
  | .vcltn vs z km vb va vd => Sys2Proof.Machine.execVcltn vs z km vb va vd s
  | .vcgen vs z km vb va vd => Sys2Proof.Machine.execVcgen vs z km vb va vd s
  | .vfeq vs t km vb va vd => Sys2Proof.Machine.execVfeq vs t km vb va vd s
  | .vflt vs t km vb va vd => Sys2Proof.Machine.execVflt vs t km vb va vd s
  | .vfle vs t km vb va vd => Sys2Proof.Machine.execVfle vs t km vb va vd s
  | .kand vb va vd => Sys2Proof.Machine.execKand vb va vd s
  | .kor vb va vd => Sys2Proof.Machine.execKor vb va vd s
  | .kxor vb va vd => Sys2Proof.Machine.execKxor vb va vd s
  | .kandn vb va vd => Sys2Proof.Machine.execKandn vb va vd s
  | .knot va vd => Sys2Proof.Machine.execKnot va vd s
  | .kpop va vd => Sys2Proof.Machine.execKpop va vd s
  | .kfirst va vd => Sys2Proof.Machine.execKfirst va vd s
  | .kword va vd => Sys2Proof.Machine.execKword va vd s
  | .klo vb vd => Sys2Proof.Machine.execKlo vb vd s
  | .kset vb vd => Sys2Proof.Machine.execKset vb vd s
  | .vcvtF32Bf16 km part va vd => Sys2Proof.Machine.execVcvtF32Bf16 km part va vd s
  | .vcvtF32F16 km part va vd => Sys2Proof.Machine.execVcvtF32F16 km part va vd s
  | .vcvtBf16F32 km vb va vd => Sys2Proof.Machine.execVcvtBf16F32 km vb va vd s
  | .vcvtF16F32 km vb va vd => Sys2Proof.Machine.execVcvtF16F32 km vb va vd s
  | .vcvtF16Bf16 km va vd => Sys2Proof.Machine.execVcvtF16Bf16 km va vd s
  | .vcvtBf16F16 km va vd => Sys2Proof.Machine.execVcvtBf16F16 km va vd s
  | .vcvtF32I32 km va vd => Sys2Proof.Machine.execVcvtF32I32 km va vd s
  | .vcvtI32F32 km va vd => Sys2Proof.Machine.execVcvtI32F32 km va vd s
  | .vcvtF32I8 km part va vd => Sys2Proof.Machine.execVcvtF32I8 km part va vd s
  | .vwidI16I8 km part va vd => Sys2Proof.Machine.execVwidI16I8 km part va vd s
  | .vwidI32I16 km part va vd => Sys2Proof.Machine.execVwidI32I16 km part va vd s
  | .vwidN16N8 km part va vd => Sys2Proof.Machine.execVwidN16N8 km part va vd s
  | .vwidN32N16 km part va vd => Sys2Proof.Machine.execVwidN32N16 km part va vd s
  | .vnarI8I16 km vb va vd => Sys2Proof.Machine.execVnarI8I16 km vb va vd s
  | .vnarI16I32 km vb va vd => Sys2Proof.Machine.execVnarI16I32 km vb va vd s
  | .vgscLo km vb va vd => Sys2Proof.Machine.execVgscLo km vb va vd s
  | .vgscHi km vb va vd => Sys2Proof.Machine.execVgscHi km vb va vd s
  | .vunpkI8I4 km part va vd => Sys2Proof.Machine.execVunpkI8I4 km part va vd s
  | .vpkI4I8 km vb va vd => Sys2Proof.Machine.execVpkI4I8 km vb va vd s
  | .vpermB km vb va vd => Sys2Proof.Machine.execVpermB km vb va vd s
  | .vnibLo km vb va vd => Sys2Proof.Machine.execVnibLo km vb va vd s
  | .vnibHi km vb va vd => Sys2Proof.Machine.execVnibHi km vb va vd s
  | .vbcast z km el va vd => Sys2Proof.Machine.execVbcast z km el va vd s
  | .vslup z km cnt va vd => Sys2Proof.Machine.execVslup z km cnt va vd s
  | .vsldn z km cnt va vd => Sys2Proof.Machine.execVsldn z km cnt va vd s
  | .vcomp z km va vd => Sys2Proof.Machine.execVcomp z km va vd s
  | .vidx z km vd => Sys2Proof.Machine.execVidx z km vd s
  | .vmvq z el va vd => Sys2Proof.Machine.execVmvq z el va vd s
  | .vrsum t km va vd => Sys2Proof.Machine.execVrsum t km va vd s
  | .vrmax t km va vd => Sys2Proof.Machine.execVrmax t km va vd s
  | .vrmin t km va vd => Sys2Proof.Machine.execVrmin t km va vd s
  | .vramax t km va vd => Sys2Proof.Machine.execVramax t km va vd s
  | .vramin t km va vd => Sys2Proof.Machine.execVramin t km va vd s
  | .vscan t km va vd => Sys2Proof.Machine.execVscan t km va vd s
  | .vhist t km cnt va vd => Sys2Proof.Machine.execVhist t km cnt va vd s
  | .vexp2 km va vd => Sys2Proof.Machine.execVexp2 km va vd s
  | .vlog2 km va vd => Sys2Proof.Machine.execVlog2 km va vd s
  | .vrcp km va vd => Sys2Proof.Machine.execVrcp km va vd s
  | .vrsqrt km va vd => Sys2Proof.Machine.execVrsqrt km va vd s
  | .vsqrt km va vd => Sys2Proof.Machine.execVsqrt km va vd s
  | .vrngN32 km vb va vd => Sys2Proof.Machine.execVrngN32 km vb va vd s
  | .vrngF32 km vb va vd => Sys2Proof.Machine.execVrngF32 km vb va vd s
  | .vord t km va vd => Sys2Proof.Machine.execVord t km va vd s
  | .vordi t km va vd => Sys2Proof.Machine.execVordi t km va vd s
  | .vld km base v => Sys2Proof.Machine.execVld km base v s
  | .vst km base v => Sys2Proof.Machine.execVst km base v s
  | .vlds km stride base v => Sys2Proof.Machine.execVlds km stride base v s
  | .vsts km stride base v => Sys2Proof.Machine.execVsts km stride base v s
  | .vldg km base v => Sys2Proof.Machine.execVldg km base v s
  | .vstg km base v => Sys2Proof.Machine.execVstg km base v s
  | .vldb km base v => Sys2Proof.Machine.execVldb km base v s
  | .compactAdd b d => Sys2Proof.Machine.execCompactAdd b d s
  | .compactSub b d => Sys2Proof.Machine.execCompactSub b d s
  | .compactAnd b d => Sys2Proof.Machine.execCompactAnd b d s
  | .compactOr b d => Sys2Proof.Machine.execCompactOr b d s
  | .compactXor b d => Sys2Proof.Machine.execCompactXor b d s
  | .compactSll b d => Sys2Proof.Machine.execCompactSll b d s
  | .compactSrl b d => Sys2Proof.Machine.execCompactSrl b d s
  | .compactSra b d => Sys2Proof.Machine.execCompactSra b d s
  | .compactMul b d => Sys2Proof.Machine.execCompactMul b d s
  | .compactMove b d => Sys2Proof.Machine.execCompactMove b d s
  | .compactAddi imm d => Sys2Proof.Machine.execCompactAddi imm d s
  | .compactLix imm d => Sys2Proof.Machine.execCompactLix imm d s
  | .compactAndi imm d => Sys2Proof.Machine.execCompactAndi imm d s
  | .compactSlli imm d => Sys2Proof.Machine.execCompactSlli imm d s
  | .compactSrli imm d => Sys2Proof.Machine.execCompactSrli imm d s
  | .compactSrai imm d => Sys2Proof.Machine.execCompactSrai imm d s
  | .compactLdI64 off b d => Sys2Proof.Machine.execCompactLdI64 off b d s
  | .compactStI64 off b r => Sys2Proof.Machine.execCompactStI64 off b r s
  | .compactLdI32 off b d => Sys2Proof.Machine.execCompactLdI32 off b d s
  | .compactStI32 off b r => Sys2Proof.Machine.execCompactStI32 off b r s
  | .compactBEq imm a => Sys2Proof.Machine.execCompactBEq imm a s
  | .compactBNe imm a => Sys2Proof.Machine.execCompactBNe imm a s
  | .compactJ imm => Sys2Proof.Machine.execCompactJ imm s
  | .compactNop => Sys2Proof.Machine.execCompactNop s
  | .compactDone => Sys2Proof.Machine.execCompactDone s
  | .compactFlush => Sys2Proof.Machine.execCompactFlush s
  | .compactJrLk => Sys2Proof.Machine.execCompactJrLk s
  | .pfx fmt rnd sat gs => Sys2Proof.Machine.execPfx fmt rnd sat gs s
  | .messageArrival n => Sys2Proof.Machine.execMessageArrival n s
  | .binding t c => Sys2Proof.Machine.execBinding t c s
  | .vectorStart t c => Sys2Proof.Machine.execVectorStart t c s
  | .boundTrap t c => Sys2Proof.Machine.execBoundTrap t c s
  | .tlbMissRetry t c => Sys2Proof.Machine.execTlbMissRetry t c s
  | .abort t c => Sys2Proof.Machine.execAbort t c s
  | .budgetOverrun t c => Sys2Proof.Machine.execBudgetOverrun t c s
  | .leaveGrant bay => Sys2Proof.Machine.execLeaveGrant bay s
  | .leaveTimeout t c => Sys2Proof.Machine.execLeaveTimeout t c s
  | .doneRetire t c => Sys2Proof.Machine.execDoneRetire t c s
  | .sliceAccess n => Sys2Proof.Machine.execSliceAccess n s
  | .lineFill n => Sys2Proof.Machine.execLineFill n s
  | .loadReply t c => Sys2Proof.Machine.execLoadReply t c s
  | .portThreadOperation t => Sys2Proof.Machine.execPortThreadOperation t s
  | .put t => Sys2Proof.Machine.execPut t s
  | .barrierArrival t => Sys2Proof.Machine.execBarrierArrival t s
  | .probe n => Sys2Proof.Machine.execProbe n s
  | .resourceInvalidation t => Sys2Proof.Machine.execResourceInvalidation t s
  | .streamerSegment n => Sys2Proof.Machine.execStreamerSegment n s
  | .streamerLine n => Sys2Proof.Machine.execStreamerLine n s
  | .transferEnd n => Sys2Proof.Machine.execTransferEnd n s
  | .streamerCancel n => Sys2Proof.Machine.execStreamerCancel n s
  | .mxQueueEntry t => Sys2Proof.Machine.execMxQueueEntry t s
  | .mxCommandStart t => Sys2Proof.Machine.execMxCommandStart t s
  | .mxCommandComplete t => Sys2Proof.Machine.execMxCommandComplete t s
  | .mxBayMember t => Sys2Proof.Machine.execMxBayMember t s
  | .mxBayFold t => Sys2Proof.Machine.execMxBayFold t s
  | .transomRequestAccept n => Sys2Proof.Machine.execTransomRequestAccept n s
  | .transomStagingComplete n => Sys2Proof.Machine.execTransomStagingComplete n s
  | .transomCommit n => Sys2Proof.Machine.execTransomCommit n s
  | .readPinEnd n => Sys2Proof.Machine.execReadPinEnd n s
  | .mirrorInstall h data => Sys2Proof.Machine.execMirrorInstall h data s
  | .pubdb fn v => Sys2Proof.Machine.execPubdb fn v s
  | .getdb fn v => Sys2Proof.Machine.execGetdb fn v s
  | .hostPostedWrite fn addr data => Sys2Proof.Machine.execHostPostedWrite fn addr data s
  | .senddb fn => Sys2Proof.Machine.execSenddb fn s
  | .hostChannelWrite n => Sys2Proof.Machine.execHostChannelWrite n s
  | .eqpop fn => Sys2Proof.Machine.execEqpop fn s
  | .rqsub fn v => Sys2Proof.Machine.execRqsub fn v s
  | .rqrd fn v => Sys2Proof.Machine.execRqrd fn v s
  | .rqcan fn v => Sys2Proof.Machine.execRqcan fn v s
  | .qtail fn q v => Sys2Proof.Machine.execQtail fn q v s
  | .admission n => Sys2Proof.Machine.execAdmission n s
  | .mbExecSystemInstruction => Sys2Proof.Machine.execMbExecSystemInstruction s
  | .mbSlotConfig => Sys2Proof.Machine.execMbSlotConfig s
  | .mbWicketArm => Sys2Proof.Machine.execMbWicketArm s
  | .mbErrorArea => Sys2Proof.Machine.execMbErrorArea s
  | .mbPowerCap => Sys2Proof.Machine.execMbPowerCap s
  | .mbSleep => Sys2Proof.Machine.execMbSleep s
  | .mbWake => Sys2Proof.Machine.execMbWake s
  | .wakeComplete => Sys2Proof.Machine.execWakeComplete s
  | .mbSuspend => Sys2Proof.Machine.execMbSuspend s
  | .mbResume => Sys2Proof.Machine.execMbResume s
  | .mbPeerWord => Sys2Proof.Machine.execMbPeerWord s
  | .mbLifetimeRecord => Sys2Proof.Machine.execMbLifetimeRecord s
  | .registerWrite fn off a => Sys2Proof.Machine.execRegisterWrite fn off a s
  | .functionLevelReset fn => Sys2Proof.Machine.execFunctionLevelReset fn s
  | .boot ok measured tenant grant record => Sys2Proof.Machine.execBoot ok measured tenant grant record s
  | .timerEdge t => Sys2Proof.Machine.execTimerEdge t s
  | .controlEdge => Sys2Proof.Machine.execControlEdge s
  | .deltaCommit complete torn overfull lines timers msgs => Sys2Proof.Machine.execDeltaCommit complete torn overfull lines timers msgs s
  | .sweep n => Sys2Proof.Machine.execSweep n s
  | .seizeRequest bay => Sys2Proof.Machine.execSeizeRequest bay s
  | .wicketRelease bay => Sys2Proof.Machine.execWicketRelease bay s
  | .forcedRelease bay => Sys2Proof.Machine.execForcedRelease bay s
  | .reqStepOperation n => Sys2Proof.Machine.execReqStepOperation n s
  | .kvOperation n => Sys2Proof.Machine.execKvOperation n s
  | .combineArrival n => Sys2Proof.Machine.execCombineArrival n s
  | .haltComplete n => Sys2Proof.Machine.execHaltComplete n s
  | .swapComplete n => Sys2Proof.Machine.execSwapComplete n s
  | .bstoreRefill t => Sys2Proof.Machine.execBstoreRefill t s
  | .shutterUnitEnd n => Sys2Proof.Machine.execShutterUnitEnd n s
  | .shutterVacant n => Sys2Proof.Machine.execShutterVacant n s
  | .moveRound a => Sys2Proof.Machine.execMoveRound a s
  | .moveFreeze n => Sys2Proof.Machine.execMoveFreeze n s
  | .scrub a => Sys2Proof.Machine.execScrub a s
  | .rowCloseTimeout n => Sys2Proof.Machine.execRowCloseTimeout n s
  | .refresh n => Sys2Proof.Machine.execRefresh n s
  | .monitorSample w bti em => Sys2Proof.Machine.execMonitorSample w bti em s
  | .illegalInstruction w => Sys2Proof.Machine.execIllegalInstruction w s
  | .transcendentalBurstEnd t => Sys2Proof.Machine.execTranscendentalBurstEnd t s
  | .heartbeat role epoch edge dt => Sys2Proof.Machine.execHeartbeat role epoch edge dt s
  | .ptmExchange time => Sys2Proof.Machine.execPtmExchange time s
  | .quoteRequest nonce mask => Sys2Proof.Machine.execQuoteRequest nonce mask s
  | .hostPortAcceptance fn => Sys2Proof.Machine.execHostPortAcceptance fn s

end Sys2Proof.Machine
end

