-- ==== Sys2Proof/Machine/Schedule.lean ====
section
/-! DEFINITION. What a step does around one instruction or event: the context that issues next (R333), its fetch (R25 to R27, R209), the
cycle count and what it drives (R5, R335, R341, R384), and the order in which the model takes the device's own events (log 5). -/

namespace Sys2Proof.Machine

/-! ### The issue slot (R333) -/

/-- A context that is able to issue. -/
def State.able (s : State) (t : Nat) (c : Fin 8) : Bool :=
  let x := s.slotAt t c
  (match x.phase with | .live => true | _ => false) && !x.waiting && !x.wfrozen && !s.frozenShare t (s.shareAt t c)
def State.seizedTile (s : State) (t : Nat) : Bool := decide (t < 512) && (s.bay (bayOf t)).seized
/-- Contexts of half A or of half B of a split tile. -/
def sideOf (c : Fin 8) : Bool := decide (4 ≤ c.val)
/-- The state of the rule of R333 in this slot: both deficits, the tenant that takes the slot, the memory of the last tie. -/
def State.turnOf (s : State) (t : Nat) : Int × Int × Bool × Bool :=
  let x := s.tile t
  let r0 := (List.finRange 8).any fun c => s.able t c && !sideOf c
  let r1 := (List.finRange 8).any fun c => s.able t c && sideOf c
  deficitRule (x.share 0).weight (x.share 1).weight (x.share 0).issueD (x.share 1).issueD x.lastTenant r0 r1
/-- The tile and the context that the meanings act for. -/
def State.at (s : State) (t : Nat) (c : Fin 8) : State := { s with cur := t, ctx := c }
/-- The instruction of a context would wait: what the budget or a bound trap takes in its place does not (R333). -/
def State.wouldWait (run : Meaning) (s : State) (t : Nat) (c : Fin 8) : Bool :=
  let s0 := s.at t c
  decide (s0.half.budget ≠ 0#64) && (s0.takeBoundTrap t c).isNone
    && (match run s0 with | .next s1 => (s1.slotAt t c).waiting | _ => false)
/-- The context that issues on a tile, if one is able to. On a split tile a context whose instruction only begins to wait comes first: it takes
no slot, and R then holds the tenants that are able to issue, no other. -/
def State.issuePick (run : Meaning) (s : State) (t : Nat) : Option (Fin 8) :=
  let x := s.tile t
  if x.split && !s.seizedTile t then
    match (List.finRange 8).find? fun c => s.able t c && s.wouldWait run t c with
    | some c => some c
    | none =>
      let b := (s.turnOf t).2.2.1
      (roundRobin (x.share (if b then 1 else 0)).last).find? fun c => s.able t c && (sideOf c == b)
  else (roundRobin (x.share (if s.seizedTile t then 2 else 0)).last).find? (s.able t)
/-- The deficits and the round robin after an issue. -/
def State.issueTurn (s : State) (t : Nat) (c : Fin 8) (d : Int × Int × Bool × Bool) : State :=
  s.modTile t fun x0 =>
    let x := { x0 with slotUsed := true }
    if x.split && !s.seizedTile t then
      let x1 := (x.modShare 0 fun y => { y with issueD := d.1 }).modShare 1 fun y => { y with issueD := d.2.1 }
      { (x1.modShare (if sideOf c then 1 else 0) fun y => { y with last := c }) with lastTenant := d.2.2.2 }
    else x.modShare (if s.seizedTile t then 2 else 0) fun y => { y with last := c }
/-- The next tile, from the one whose turn it is, with a context able to issue, and that context. -/
def State.pick (run : Meaning) (s : State) : Option (Nat × Fin 8) :=
  s.tiles.findSome? fun (x : Nat × Tile) => if x.1 < s.cur then none else (s.issuePick run x.1).map fun c => (x.1, c)

/-! ### Fetch (R25 to R27, R209) -/

/-- What lies at the pc. -/
inductive Fetched where
  | instr (i : Instr)
  /-- no encoding matches (R37) -/
  | undefined (w : BitVec 32)
  /-- the pc, or the second parcel of its word, lies beyond the end of the code (R209) -/
  | beyond

noncomputable def State.fetch (s : State) : Fetched :=
  let pc := s.half.pc.toNat
  let p0 := s.parcelAt pc
  let p1 := s.parcelAt (pc + 2)
  if s.codeLen < pc + (if p0 % 4 = 3 then 4 else 2) then .beyond
  else match decodeParcels p0 (some p1) with
    | .ok r => .instr r.instr
    | .error _ => .undefined (BitVec.ofNat 32 (if p0 % 4 = 3 then p0 + 65536 * p1 else p0))
/-- The fetch-fault abort: xpc holds the target, faddr the instruction before it (R209, R389). -/
def State.fetchFault (s : State) : State := s.takeTrap s.half.pc { code := 0x24, faddr := s.half.lastPc }

/-! ### The clock -/

def Half.countCycle (h : Half) : Half := if h.budget = 0#64 then h else { h with budget := h.budget - 1#64 }
/-- A cycle of a slot: its budget (R335) and its wait on leave (R341). -/
def State.slotCycle (s : State) (t : Nat) (c : Fin 8) (x : Slot) : Slot :=
  match x.phase with
  | .free => x
  | _ =>
    let i : Fin 3 := if x.seizing then 2 else if (s.tile t).split && sideOf c then 1 else 0
    let x1 := if s.budgetRuns t i x then { x with half := x.half.countCycle } else x
    if x.wfrozen || s.frozenShare t i then x1
    else { x1 with act := { x1.act with lvWait := if s.waitsOnLeave t x then x.act.lvWait + 1 else 0 } }
/-- The deficits of a split tile after a cycle in which no context was able to issue, and of its vector unit after one in which nothing started and no
queue head was ready, and the marks of the new cycle (R330, R331, R333, R334); a seizure holds the deficits unchanged (R381). -/
def Tile.endCycle (x : Tile) (seized ready : Bool) : Tile :=
  let low (y : Share) : Share :=
    { y with issueD := (if x.slotUsed then y.issueD else min y.issueD 0), vecD := (if x.vslotUsed || ready then y.vecD else min y.vecD 0) }
  let x1 := if x.split && !seized then (x.modShare 0 low).modShare 1 low else x
  { x1 with inNet := 0, slotUsed := false, vslotUsed := false, didBind := false }
/-- One cycle passes (R5). -/
def State.tick (s : State) : State :=
  let row (x : Nat × Tile) : Nat × Tile :=
    (x.1, { x.2.endCycle (s.seizedTile x.1) (x.2.split && !(s.vectorReady x.1).isEmpty) with ctxs := Vector.ofFn fun c : Fin 8 =>
      let k := x.2.ctxs.get c
      { k with s0 := s.slotCycle x.1 c k.s0, s1 := s.slotCycle x.1 c k.s1 } })
  let s1 := s.slotsEnd.chargeSeizures.strike
  { s1 with
    cycle := s.cycle + 1, tiles := s1.tiles.map row
    dtimeHold := if s.dtimeHold ≤ (s.dtimeBase + (s.cycle + 1) * 5 / 6) % 2 ^ 64 then 0 else s.dtimeHold }

/-! ### One instruction -/

def Tile.wake (x : Tile) : Tile :=
  { x with ctxs := x.ctxs.map fun k => { k with s0 := { k.s0 with waiting := false }, s1 := { k.s1 with waiting := false } } }
/-- What waits looks again. -/
def State.wake (s : State) : State := { s with tiles := s.tiles.map fun (x : Nat × Tile) => (x.1, x.2.wake) }
/-- After an instruction of context c of tile t: one that waits has taken no slot, and the tile's other contexts may still issue; after one that has
completed, the tile's others look again, and the next tile has its turn. -/
def State.afterIssue (s : State) (t : Nat) (c : Fin 8) (d : Int × Int × Bool × Bool) : State :=
  if (s.slotAt t c).waiting then { s with evTurn := true, cur := t }
  else { (s.issueTurn t c d).modTile t Tile.wake with evTurn := true, cur := t + 1 }
/-- Before an instruction issues, an empty budget or a bound trap that waits is taken in its place (R335, R484). -/
def State.issueOn (run : Meaning) (s : State) (t : Nat) (c : Fin 8) : Host.Outcome State Fault Refusal :=
  let d := s.turnOf t
  let s0 := s.at t c
  if s0.half.budget = 0#64 then .next ((s0.takeTrap s0.half.pc { code := 0x29 }).afterIssue t c d)
  else match s0.takeBoundTrap t c with
    | some s1 => .next (s1.afterIssue t c d)
    | none =>
      match run s0 with
      | .next s1 => .next (s1.afterIssue t c d)
      | .fault f => .fault f
      | .refused r => .refused r

/-! ### The device's own events -/

/-- Events of one context, in the model's order. -/
def ctxEvents (t : Nat) (c : Fin 8) : List Meaning :=
  [execAbort t c, execDoneRetire t c, execLoadReply t c, execBudgetOverrun t c, execLeaveTimeout t c, execTlbMissRetry t c, execVectorStart t c]
def tileEvents (t : Nat) : List Meaning :=
  ((List.finRange 8).flatMap fun c => ctxEvents t c) ++
  [execPortThreadOperation t, execPut t, execBarrierArrival t, execResourceInvalidation t, execMxQueueEntry t, execMxBayMember t,
   execMxCommandStart t, execMxCommandComplete t, execMxBayFold t, execTranscendentalBurstEnd t, execBstoreRefill t] ++
  (List.finRange 8).map fun c => execBinding t c
def upTo (n : Nat) (f : Nat → Meaning) : List Meaning := (List.range n).map f
/-- Lines that an access waits for, and lines that a store has allocated without their other bytes (R63). -/
def State.openLines (s : State) : List Nat :=
  (s.sliceQ.flatMap fun o => linesOf (s.missing o)) ++ (s.l2.filter fun x => !x.full).map L2Line.line
/-- Every internal event that might be possible, in the order in which the model tries them (log 5); a control edge comes before the bindings of the
edge's own items, which it seals as queued (R453). -/
def State.candidateEvents (s : State) : List Meaning :=
  [execControlEdge] ++ (s.tiles.flatMap fun (x : Nat × Tile) => tileEvents x.1)
  ++ upTo s.sliceQ.length execSliceAccess ++ upTo s.sliceQ.length execProbe ++ s.openLines.map execLineFill
  ++ upTo s.net.length execMessageArrival
  ++ (s.bays.map fun (b : Nat × Bay) => execLeaveGrant b.1)
  ++ upTo s.transfers.length execStreamerSegment ++ upTo s.transfers.length execStreamerCancel
  ++ upTo s.transfers.length execStreamerLine ++ upTo s.transfers.length execTransferEnd
  ++ (s.slots.map fun (x : Nat × TSlot) => execReadPinEnd x.1) ++ (s.slots.map fun (x : Nat × TSlot) => execTransomCommit x.1)
  ++ upTo s.tmq.length execTransomRequestAccept ++ upTo s.pubs.length execTransomStagingComplete
  ++ (s.parts.map fun (p : Nat × Part) => execReqStepOperation p.1) ++ upTo s.kvq.length execKvOperation
  ++ upTo s.cnet.length execCombineArrival
  ++ ((List.finRange 16).map fun f => execHostPortAcceptance f) ++ upTo (s.hostq.length + 16) execHostChannelWrite
  ++ (s.tiles.map fun (x : Nat × Tile) => execTimerEdge x.1)
  ++ (s.bays.map fun (b : Nat × Bay) => execSeizeRequest b.1) ++ (s.bays.map fun (b : Nat × Bay) => execForcedRelease b.1)
  ++ (s.bays.map fun (b : Nat × Bay) => execWicketRelease b.1)
  ++ [execMbExecSystemInstruction, execMbSlotConfig, execMbWicketArm, execMbErrorArea, execMbPowerCap, execMbSleep, execMbWake, execMbSuspend,
      execMbResume, execMbPeerWord, execMbLifetimeRecord, execWakeComplete]
  ++ (s.parts.map fun (p : Nat × Part) => execHaltComplete p.1) ++ upTo s.swaps.length execSwapComplete
  ++ (s.parts.map fun (p : Nat × Part) => execShutterUnitEnd p.1) ++ (s.parts.map fun (p : Nat × Part) => execShutterVacant p.1)
  ++ ((List.finRange 16).map fun f => fun (s : State) =>
       if (s.fn f.val).resetting then execFunctionLevelReset f s else .refused (.noSuchEvent "FUNCTION_LEVEL_RESET"))
  ++ upTo 16 execAdmission ++ (s.parts.map fun (p : Nat × Part) => execSweep p.1)
  ++ (s.sys.scrubs.map fun f => execScrub { frame := f, step := .clean }) ++ upTo s.sys.moves.length (fun n => execMoveRound { num := n }) ++ upTo s.sys.moves.length execMoveFreeze
/-- The first of them that is possible. -/
def State.nextEvent (s : State) : Option State :=
  s.candidateEvents.findSome? fun e => match e s with | .next s1 => some s1 | _ => none
def State.afterEvent (s : State) : State := { s.wake with evTurn := false }

/-! ### Events from outside -/

/-- What the world outside the device does to it, and what no state of the model decides: the host's accesses, resets, the peer, time, the
monitors, boot, memory's own housekeeping, and what the system core's firmware and the hypervisor decide about frames and moves. -/
def fromOutside (i : Instr) : Bool :=
  match i with
  | .hostPostedWrite .. | .registerWrite .. | .pubdb .. | .getdb .. | .senddb .. | .eqpop .. | .rqsub .. | .rqrd .. | .rqcan .. | .qtail ..
  | .functionLevelReset .. | .boot .. | .heartbeat .. | .deltaCommit .. | .mirrorInstall .. | .ptmExchange .. | .monitorSample ..
  | .quoteRequest .. | .rowCloseTimeout .. | .refresh .. | .moveRound .. | .scrub .. => true
  | _ => false

/-! ### A step without an input -/

/-- The device goes on by itself: an event of its own when it is the events' turn and one is possible; else the next instruction; else a cycle
passes. -/
def State.proceed (run : Meaning) (s : State) : Host.Outcome State Fault Refusal :=
  match (if s.evTurn then s.nextEvent else none) with
  | some s1 => .next s1.afterEvent
  | none =>
    match s.pick run with
    | some (t, c) => s.issueOn run t c
    | none => .next { s.tick with cur := 0, evTurn := true }

end Sys2Proof.Machine
end

