-- ==== Sys2Proof/Machine/Step.lean ====
section
/-! DEFINITION. One step of the device. -/

namespace Sys2Proof.Machine

/-- Run what the current context has fetched. -/
noncomputable def runFetched : Meaning := fun s =>
  match s.fetch with
  | .instr i => exec i s
  | .undefined w => exec (.illegalInstruction w) s
  | .beyond => .next s.fetchFault

/-- One step: the next event from outside, if it is possible now; else the device goes on by itself. -/
noncomputable def step (s : State) : Host.Outcome State Fault Refusal :=
  match s.inputs with
  | [] => s.proceed runFetched
  | e :: rest =>
    if fromOutside e then
      match exec e { s with inputs := rest } with
      | .next s1 => .next s1.afterEvent
      | _ => s.proceed runFetched
    else .next { s with inputs := rest }

/-- The tile on which `State.withFetchWord` places its instruction. -/
def fetchTile (s : State) (bytes : List Byte) : Tile :=
  let x := s.tile 0
  let half : Half := { (x.ctxs.get 0).s0.half with pc := 0#64, lpcnt := 0#64, budget := 1000000#64 }
  let slot : Slot := { phase := .live, act := { (x.ctxs.get 0).s0.act with id := 1 }, half := half }
  { x with
    ctxs := x.ctxs.set 0 { s0 := slot, s1 := {}, cur := false }
    codeLen := x.codeLen.set 0 bytes.length }
/-- The state with an instruction placed where the next step fetches: offset 0 of tile 0's code, run by context 0 (log 8). -/
def State.withFetchWord (s : State) (nbits w : Nat) : State :=
  let bytes := wordBytes (max (nbits / 8) 4) (w % 2 ^ nbits)
  { s with
    mem := s.mem.write (codeKey 0 0) bytes
    tiles := s.tiles.set 0 (fetchTile s bytes)
    inputs := []
    evTurn := false
    cur := 0
    ctx := 0 }

end Sys2Proof.Machine
end

