-- ==== Sys2Proof/Safety.lean ====
section
/-! DEFINITION. What counts as a safe state and a safe step, and the words in which the statements speak of an instruction: the values
of its sources, the state after they are read, the state with its result, and when it issues. -/

namespace Sys2Proof.Machine

/-- The memory keeps its canonical form (log 2). -/
def State.Safe (s : State) : Prop := Memory.wf s.mem

/-- A step neither faults nor refuses. -/
def State.Goes (s : State) : Prop := ∃ t, step s = .next t

/-- The value of a source operand of the current context (R32 to R34). -/
def State.val (s : State) (r : Reg) : Word := (s.half.read r).1
/-- The state after it is read: an entry has left a queue, nothing else has changed (R34, R154). -/
def State.after (s : State) (r : Reg) : State := s.setHalf (s.half.read r).2
/-- The state with a result written to d and pushed as y0 (R33, R153). -/
def State.give (s : State) (d : Reg) (v : Word) : State := s.modHalf fun h => (h.write d v).push v
/-- An instruction with these specifiers issues: the current key names a tile or core, no check of R38 stops it, its operands are there
(R34) and no near register it reads is poisoned (R152). -/
def State.Ready (s : State) (o : Op) : Prop := validKey s.cur = true ∧ issueStop o s = none

/-! ### Instructions that compute one value -/

/-- `i d, a, b` completes with f of its sources in d; a is read before b (R34, R195). -/
def Yields2 (i : Reg → Reg → Reg → Instr) (f : Word → Word → Word) : Prop :=
  ∀ (s : State) (b a d : Reg), s.Ready (opAB b a d) →
    exec (i b a d) s = .next ((((s.after a).after b).give d (f (s.val a) ((s.after a).val b))).retire (opAB b a d) .next)
/-- A division `i d, a, b` completes with f of its sources in d, unless status.dzt is set and b is zero (R198). -/
def YieldsDiv (i : Reg → Reg → Reg → Instr) (f : Word → Word → Word) : Prop :=
  ∀ (s : State) (b a d : Reg), s.Ready (opAB b a d) → ((s.after a).val b ≠ 0#64 ∨ s.half.dzt = false) →
    exec (i b a d) s = .next ((((s.after a).after b).give d (f (s.val a) ((s.after a).val b))).retire (opAB b a d) .next)
/-- `i d, a` completes with f of its source in d. -/
def Yields1 (i : Reg → Reg → Instr) (f : Word → Word) : Prop :=
  ∀ (s : State) (a d : Reg), s.Ready (opA a d) →
    exec (i a d) s = .next (((s.after a).give d (f (s.val a))).retire (opA a d) .next)
/-- The compact form that reads and writes ds (R41). -/
def YieldsC2 (i : CReg → CReg → Instr) (f : Word → Word → Word) : Prop :=
  ∀ (s : State) (b d : CReg), s.Ready (opCC b d) →
    exec (i b d) s =
      .next ((((s.after d.dst).after b.src).give d.dst (f (s.val d.dst) ((s.after d.dst).val b.src))).retire (opCC b d) .next)
def YieldsC1 (i : BitVec 6 → CReg → Instr) (f : BitVec 6 → Word → Word) : Prop :=
  ∀ (s : State) (m : BitVec 6) (d : CReg), s.Ready (opCI d) →
    exec (i m d) s = .next (((s.after d.dst).give d.dst (f m (s.val d.dst))).retire (opCI d) .next)
/-! ### Floating point -/

/-- The state with flags ORed into fflags (R182). -/
def State.flag (s : State) (f : Flags) : State := s.modHalf fun h => { h with fflags := h.fflags ||| f }
/-- The state with the first narrowed NaN recorded (R188). -/
def State.noteNaN (s : State) (x : Option Nat) : State := s.modHalf fun h => h.recordNaN x
/-- A form of major 10 with two sources: f of the effective mode and the low 32 bits of its sources gives the result and its flags
(R202, R203). -/
def YieldsFp2 (i : Reg → Reg → Reg → Instr) (f : RMode → Nat → Nat → Nat × Flags) : Prop :=
  ∀ (s : State) (b a d : Reg), s.Ready { opAB b a d with pfx := onlyRnd } →
    let r := f s.half.mode ((s.val a).toNat % 2 ^ 32) (((s.after a).val b).toNat % 2 ^ 32)
    exec (i b a d) s = .next (((((s.after a).after b).flag r.2).give d (BitVec.ofNat 64 r.1)).retire (opAB b a d) .next)
/-- A form of major 10 with one source, read whole. -/
def YieldsFp1 (i : Reg → Reg → Instr) (f : RMode → Word → Nat × Flags) : Prop :=
  ∀ (s : State) (a d : Reg), s.Ready { opA a d with pfx := onlyRnd } →
    let r := f s.half.mode (s.val a)
    exec (i a d) s = .next ((((s.after a).flag r.2).give d (BitVec.ofNat 64 r.1)).retire (opA a d) .next)
/-- A fused form: d is its third operand, and names a general or near register (R202). -/
def YieldsFp3 (i : Reg → Reg → Reg → Instr) (f : RMode → Nat → Nat → Nat → Nat × Flags) : Prop :=
  ∀ (s : State) (b a d : Reg), s.Ready { srcs := [d, a, b], dsts := [d], pfx := onlyRnd, badCode := !d.dstGN } →
    let r := f s.half.mode ((s.val a).toNat % 2 ^ 32) (((s.after a).val b).toNat % 2 ^ 32) ((s.val d).toNat % 2 ^ 32)
    exec (i b a d) s = .next (((((s.after a).after b).flag r.2).give d (BitVec.ofNat 64 r.1)).retire (opAB b a d) .next)

/-! ### Control -/

/-- A branch with two sources: taken where the condition holds (R206). -/
def BranchesOn (i : BitVec 12 → Reg → Reg → Instr) (cond : Word → Word → Prop) : Prop :=
  ∀ (s : State) (m : BitVec 12) (b a : Reg), s.Ready { srcs := [a, b] } →
    let t := (s.after a).after b
    (cond (s.val a) ((s.after a).val b) →
      exec (i m b a) s = .next (t.retire { srcs := [a, b] } (.jump (s.half.pc + m.signExtend 64 * 2#64))))
    ∧ (¬ cond (s.val a) ((s.after a).val b) → exec (i m b a) s = .next (t.retire { srcs := [a, b] } .next))

/-! ### Memory -/

/-- The window check of the current context on tile t's window passes (R121). -/
def State.inWindow (s : State) (t : Nat) (ea : Int) (n : Nat) (k : AccKind) : Prop := s.checkWindow t s.share s.act.keep ea n k = none
/-- No byte of the range of the own window is poisoned (R111). -/
def State.cleanOwn (s : State) (ea n : Nat) : Prop := s.winPoisoned s.cur s.share ea n = false
/-- The state after the words of a range of the own window are read: soft errors in them are corrected or have poisoned (R110). -/
def State.reads (s : State) (ea n : Nat) : State := s.senseWin s.cur s.share ea n
/-- A range of the own window is read clean: nothing earlier of the context is on its way to it (R284), and no byte of it is poisoned. -/
def State.readable (s : State) (ea n : Nat) : Prop := s.ownClear ea n = true ∧ (s.reads ea n).cleanOwn ea n
/-- What the context issues from now on follows every earlier access of its partition (R286; log 5). -/
def State.ordered (s : State) : State := s.orderPoint s.cur s.ctx
/-- Nothing of the current context is on its way: no load, no entry of the vector queue, no access at the slices, at the host port or on the way
to its own tile, and the tile awaits no acknowledgement of a store (R123, R124, R294, R296, R298). -/
def State.calm (s : State) : Prop :=
  s.half.loads = [] ∧ s.half.vq = [] ∧ s.half.boundTrap = none ∧ (∀ o ∈ s.sliceQ, o.src.tile = s.cur → o.src.c ≠ s.ctx)
  ∧ s.toSelf s.cur s.ctx = [] ∧ s.loadsAway s.cur s.ctx = false ∧ (s.tile s.cur).storesOut = 0
  ∧ ∀ w ∈ (s.fn s.act.tenant).outbound, w.src.tile = s.cur → w.src.c ≠ s.ctx
/-- The little-endian number in a range of the own window (R4). -/
def State.ownNat (s : State) (ea n : Nat) : Nat := leNat (s.readWin s.cur s.share ea n)
/-- A number of n bytes as a register holds it after a load of this type (R30, R120). -/
def loaded (t : MemType) (v : Nat) : Word :=
  if t.signed then (BitVec.ofNat (8 * t.size) v).signExtend 64 else BitVec.ofNat 64 v
/-- The state after the lines of a write are logged, where there is room (R115, R117). -/
def State.logs (s : State) (ea n : Nat) (t : State) : Prop := s.logLines s.cur s.ctx ea n = some t
/-- The state with bytes stored in the own window (R110). -/
def State.storeAt (s : State) (ea : Nat) (bs : List Byte) : State := s.writeWin s.cur s.share ea bs
/-- The bay tile index belongs to the launch (R120). -/
def State.bayOpen (s : State) (ti : Nat) : Prop := ((s.tile s.cur).share s.share).bayMask.getLsbD ti = true
/-- The next number of the model's count. -/
def State.bump (s : State) : State := { s with fresh := s.fresh + 1 }
/-- A load or atomic is outstanding: its destination, or the queue entry that it has appended, and y0 wait for it (R34, R62, R124, R153). -/
def State.pend (s : State) (l : PendLoad) : State :=
  s.modHalf fun h => { ((h.reserve l.d l.id).pushPending l.id) with loads := h.loads ++ [l] }
/-- The activation cannot be redelivered (R313). -/
def State.spent (s : State) : State := s.modHalf Half.setNR
/-- A global access is on its way to its slice (R63). -/
def State.toSlice (s : State) (op : SliceOp) : State :=
  { s with sliceQ := s.sliceQ ++ [{ op with seq := s.fresh, after := s.orderedFrom }], fresh := s.fresh + 1 }
/-- The resource entry of an index as the current context sees it; the checks of R59 pass for an access. -/
def State.resourceOk (s : State) (idx off size acc : Nat) (r : Rec512) : Prop := s.checkRes s.cur s.share s.act.tenant idx off size acc = .ok r
/-- The parts into which the translation of an access falls, every page present and permitting it (R61, R64). -/
def State.translates (s : State) (va n acc : Nat) (ps : List Part') : Prop := s.xlateRange s.cur s.act.tenant va n acc = .ok ps
/-- What an atomic operation makes of the old value and its operands: the new value, the value returned and the flags (R126). -/
abbrev AmoRule := Nat → Nat → Nat → Nat × Word × Flags
/-- An atomic of this width in the own window: the word is read, replaced and returned in one step, its lines logged (R127, R128). -/
def AmoOwn (i : Reg → Reg → Reg → Instr) (n : Nat) (f : AmoRule) : Prop :=
  ∀ (s u : State) (b a d : Reg) (ea : Nat), s.Ready (opAB b a d) → addrWord (s.val a) = .loc ea →
    let s2 := (s.after a).after b
    let r := f (u.ownNat ea n) ((s.after a).val b).toNat (s.half.e.get 0).toNat
    s2.inWindow s.cur ea n .store → ea % n = 0 → s2.logs ea n u → u.readable ea n →
      exec (i b a d) s =
        .next (((((u.reads ea n).storeAt ea (leBytes n r.1)).flag r.2.2).give d r.2.1).ordered.retire (opAB b a d) .next)
/-- An atomic of this operation and width on a tile of the bay: it goes to the port thread there, after its release part, and holds the
context until its value returns (R127, R128). -/
def AmoBay (i : Reg → Reg → Reg → Instr) (op : Nat) (w64 : Bool) : Prop :=
  ∀ (s : State) (b a d : Reg) (ti ea : Nat), s.Ready (opAB b a d) → addrWord (s.val a) = .bay ti ea →
    let s2 := (s.after a).after b
    let tgt := bayTile (bayOf s.cur) ti
    s2.bayOpen ti → s2.inWindow tgt ea (amoSize w64) .remoteStore → ea % amoSize w64 = 0 →
    s2.releaseStop false 1 = none → (s2.tile s.cur).storesOut < 16 →
      exec (i b a d) s = .next (((s2.ordered.bump.toBay tgt
        (.amo s.cur s.ctx s.share s.fresh op w64 ea ((s.after a).val b) (s.half.e.get 0)) s.fresh false).pend
          { id := s.fresh, d := d, blocking := true, amo := true, acq := true, pc := s.half.pc, faddr := spadFaddr ea ti 0,
            target := some tgt, global := false }).retire (opAB b a d) .next)
/-- An atomic of this operation and width in main memory: it goes to its slice after its release part, and holds the context until its
value returns; it is an acquire and a release at device scope (R59, R127, R128). -/
def AmoGlobal (i : Reg → Reg → Reg → Instr) (op : Nat) (w64 : Bool) : Prop :=
  ∀ (s : State) (b a d : Reg) (idx off : Nat) (r : Rec512) (ps : List Part'), s.Ready (opAB b a d) → addrWord (s.val a) = .glob idx off →
    let s2 := (s.after a).after b
    let n := amoSize w64
    let s3 := s2.used idx
    let p := pathOf s.act.tenant r ps
    s.reflexSide = false → s2.resourceOk idx off n 4 r → off % n = 0 → s3.translates (resVbase r + off) n 4 ps →
    p.keys.any isHostKey = false → s3.releaseStop false 3 = none →
      exec (i b a d) s = .next (((s3.ordered.bump.toSlice
        { src := s3.src, what := .amo s3.fresh op w64 p.keys ((s.after a).val b) (s.half.e.get 0), parts := p }).pend
        { id := s3.fresh, d := d, blocking := true, amo := true, acq := true, pc := s.half.pc, faddr := resFaddr idx off,
          place := some (s3.placeOf idx off p) }).retire (opAB b a d) .next)
/-- The three spaces of one atomic (R126 to R128). -/
def AmoCompletes (i : AmoWidth → Reg → Reg → Reg → Instr) (op : Nat) (f32 f64 : AmoRule) : Prop :=
  (AmoOwn (i .w32) 4 f32 ∧ AmoBay (i .w32) op false ∧ AmoGlobal (i .w32) op false)
  ∧ AmoOwn (i .w64) 8 f64 ∧ AmoBay (i .w64) op true ∧ AmoGlobal (i .w64) op true
/-- The rule of an atomic on bit vectors, with its result sign- or zero-extended (R126). -/
def amoBits (w : Nat) (sgn : Bool) (f : BitVec w → BitVec w → BitVec w → BitVec w) : AmoRule := fun old v cmp =>
  ((f (BitVec.ofNat w old) (BitVec.ofNat w v) (BitVec.ofNat w cmp)).toNat,
    if sgn then (BitVec.ofNat w old).signExtend 64 else (BitVec.ofNat w old).setWidth 64, 0#5)
/-- A rule of the same shape at both widths. -/
def AmoUniform (i : AmoWidth → Reg → Reg → Reg → Instr) (op : Nat) (sgn : Bool) (f : ∀ w, BitVec w → BitVec w → BitVec w → BitVec w) : Prop :=
  AmoCompletes i op (amoBits 32 sgn (f 32)) (amoBits 64 sgn (f 64))

/-- The eleven atomics at a width; amo.fadd has one (R126). -/
def AmoForm (w : AmoWidth) (i : Reg → Reg → Reg → Instr) : Prop :=
  i ∈ [Instr.amoSwap w, .amoAdd w, .amoAnd w, .amoOr w, .amoXor w, .amoMaxI w, .amoMinI w, .amoMaxN w, .amoMinN w, .amoCas w]
  ∨ (w = .w32 ∧ i = .amoFadd)

/-! ### Messages -/

/-- The state with an item of n bytes in the current share's out-buffer (R311). -/
def State.items (s : State) (n : Nat) (k : OutKind) : State :=
  s.modShareAt s.cur s.share fun x => { x with out := x.out ++ [{ act := s.act.id, bytes := n, kind := k }] }
/-- A payload word that R319 allows: its source address and length are multiples of 8, at least the least length and at most 240. -/
def PayloadOk (w : Word) (least : Nat) : Prop :=
  onlyBits w [(19, 0), (39, 32)] = true ∧ wfield w 19 0 % 8 = 0 ∧ wfield w 39 32 % 8 = 0 ∧ least ≤ wfield w 39 32 ∧ wfield w 39 32 ≤ 240
/-- The body of a message from the own window, and the words of it that hold a poisoned byte (R320). -/
def State.body (s : State) (w : Word) : List Byte := s.readWin s.cur s.share (wfield w 19 0) (wfield w 39 32)
def State.bodyMask (s : State) (w : Word) : BitVec 30 :=
  BitVec.ofNat 30 (((List.range (wfield w 39 32 / 8)).filter fun k => s.winPoisoned s.cur s.share (wfield w 19 0 + 8 * k) 8).foldl
    (fun acc k => acc + 2 ^ k) 0)
/-- A payload word of which the body is readable in the own window, nothing earlier of the context being on its way to it (R284). -/
def State.bodyOk (s : State) (w : Word) (least : Nat) : Prop :=
  PayloadOk w least ∧ s.inWindow s.cur (wfield w 19 0) (wfield w 39 32) .load ∧ s.ownClear (wfield w 19 0) (wfield w 39 32) = true
/-- The state after the words of a body are read (R110). -/
def State.bodyRead (s : State) (w : Word) : State := s.reads (wfield w 19 0) (wfield w 39 32)

/-! ### The engine and copies -/

/-- The command that an mx form of the current context becomes at issue (R255, R259). -/
def State.command (s : State) (sub : Nat) (notify : Bool) (ch : Nat) (a b b0 : Word) : MxCmd :=
  { uid := s.fresh, sub := sub, a := a, b := b, b0 := b0, notify := if notify then some ch else none, tenant := s.act.tenant,
    launch := s.act.launch, pid := s.act.pid, act := s.act.id, prio := s.act.prio, core := s.tileWord.toNat % 1024,
    fork := some (s.cur, s.ctx, s.fresh),
    mode := if wfield b 27 25 = 0 then RMode.ofBits s.half.frnd else RMode.ofBits (BitVec.ofNat 2 (wfield b 27 25 - 1)) }
/-- The command is within its limits, its extents lie in the window, and its half's queue has room (R255, R259, R261). -/
def State.commandOk (s : State) (sub : Nat) (a b : Word) : Prop :=
  s.mxWordsOk s.cur s.share sub a b = true ∧ s.mxLimitsOk s.cur s.share sub a b = true ∧ s.mxExtentFault s.cur s.share sub a b = none
  ∧ ((s.tile s.cur).engine s.share).queue.length + ((s.tile s.cur).engine s.share).entering.length < 8
/-- The command is on its way into the queue (R255). -/
def State.commands (s : State) (sub : Nat) (notify : Bool) (ch : Nat) (a b b0 : Word) : State :=
  s.bump.modEngine s.cur s.share fun e => { e with entering := e.entering ++ [s.command sub notify ch a b b0] }

/-- The state after the resources of a copy's global endpoints are checked (R58, R95). -/
def State.copyUsed (s : State) (f : CpForm) : State :=
  let s1 := if f.src = .global then s.used (wfield (srcWord f s.half.e) 63 52) else s
  if f.dst = .global then s1.used (wfield (dstWord f s.half.e) 63 52) else s1
/-- The checks of R95 pass for a form on channel c with the descriptor in e0 to e7, the local endpoints lying on these tiles and r1, r2
being the entries of its global endpoints. -/
def State.copyPasses (s : State) (f : CpForm) (c : Nat) (notify chain : Bool) (srcT dstT : Nat) (r1 r2 : Rec512) : Prop :=
  let e := s.half.e
  let ext := cpExtent f e
  let sw := srcWord f e
  let dw := dstWord f e
  let so := wfield sw 47 0
  let dofs := wfield dw 47 0
  let same := (f = .gg ∧ wfield sw 63 52 = wfield dw 63 52) ∨ (f.src = .spad ∧ f.dst = .spad ∧ srcT = dstT)
  let s1 := if f.src = .global then s.used (wfield sw 63 52) else s
  let s2 := s.copyUsed f
  s.ownsCopyChan c = true ∧ isReflex srcT = isReflex s.cur ∧ isReflex dstT = isReflex s.cur
  ∧ (f.gather = true → onlyBits (e.get 2) [(43, 32), (19, 0)] = true ∧ wfield (e.get 2) 19 0 % 4 = 0 ∧ onlyBits (e.get 3) [(47, 0)] = true
      ∧ ext.rowBytes % 8 = 0 ∧ 8 ≤ ext.rowBytes ∧ ext.rowBytes ≤ 4096)
  ∧ (f.gather = false → onlyBits (e.get 2) [(47, 0)] = true ∧ 1 ≤ ext.rowBytes
      ∧ ¬ (same ∧ so < dofs + ext.dstLen ∧ dofs < so + ext.srcLen))
  ∧ (notify = true → onlyBits (e.get 4) [(63, 32), (5, 0)] = true)
  ∧ s.endpointOk f.src srcT s.share sw ext.srcLen ext.rowBytes ext.srcStride = true
  ∧ s.endpointOk f.dst dstT s.share dw ext.dstLen ext.rowBytes ext.dstStride = true
  ∧ (chain = true → s.followOk dstT s.share (e.get 5) (e.get 6) (e.get 7) = true)
  ∧ (f.src = .global → s.resourceOk (wfield sw 63 52) so (if f.gather then 0 else ext.srcLen) 1 r1)
  ∧ (f.dst = .global → s1.resourceOk (wfield dw 63 52) dofs (if f.gather then 0 else ext.dstLen) 2 r2)
  ∧ (f.src = .spad → s2.inWindow srcT so ext.srcLen .load)
  ∧ (f.gather = true → s2.inWindow s.cur (wfield (e.get 2) 19 0) ((4 * ext.rows : Nat)) .load)
  ∧ (f.dst = .spad → s2.inWindow dstT dofs ext.dstLen .engineWrite)
/-- A form is buffered when it writes main memory or, not being a pull, another tile (R96). -/
def copyBuffered (f : CpForm) (cur dstT : Nat) : Bool := decide (f.dst = .global) || (decide (f ≠ .pl) && decide (dstT ≠ cur))
/-- The transfer that a form becomes, with the channel's next identifier (R88, R95). -/
def State.transfer (s : State) (f : CpForm) (c : Nat) (notify chain : Bool) (srcT dstT : Nat) (r1 r2 : Rec512) : Transfer :=
  let e := s.half.e
  let so := wfield (srcWord f e) 47 0
  let dofs := wfield (dstWord f e) 47 0
  { uid := s.fresh, id := ((s.tile s.cur).chan s.share c).nid, form := f, e := e, chan := c, notify := notify, chain := chain,
    tenant := s.act.tenant, launch := s.act.launch, pid := s.act.pid, act := if copyBuffered f s.cur dstT then 0 else s.act.id, owner := s.act.id, ctx := s.ctx,
    prio := s.act.prio, tile := s.cur, part := s.share.val, srcTile := srcT, dstTile := dstT,
    srcRes := if f.src = .global then r1 else 0#512, dstRes := if f.dst = .global then r2 else 0#512,
    srcVa := if f.src = .global then resVbase r1 + so else 0,
    dstVa := if f.dst = .global then resVbase r2 + dofs else 0,
    tabLen := max (if f.src = .global then resLength r1 - so else 0) (if f.dst = .global then resLength r2 - dofs else 0) }
/-- The state with the identifier taken and the transfer in the out-buffer or released (R88, R95, R96). -/
def State.copyIssued (s : State) (f : CpForm) (c : Nat) (notify chain : Bool) (srcT dstT : Nat) (r1 r2 : Rec512) : State :=
  let s2 := s.copyUsed f
  let x := s2.transfer f c notify chain srcT dstT r1 r2
  let s3 := s2.bump.modChan s.cur s2.share c fun k => { k with nid := k.nid + 1#64 }
  if copyBuffered f s.cur dstT then s3.items 64 (.copy x) else s3.releaseCopy x
/-- A copy or gather form completes with the transfer's identifier in a; s1 is the state after its operands are read. -/
def CopyIssues (i : Instr) (o : Op) (f : CpForm) (c : BitVec 4) (notify chain : Bool) (a : Reg) (s s1 : State) (srcT dstT : Nat) : Prop :=
  ∀ r1 r2, s.Ready o → s1.copyPasses f c.toNat notify chain srcT dstT r1 r2 →
    (copyBuffered f s.cur dstT = true → s1.outRoom 64 = true) →
      exec i s = .next (((s1.copyIssued f c.toNat notify chain srcT dstT r1 r2).give a ((s1.tile s.cur).chan s1.share c.toNat).nid).retire o .next)

/-! ### Requests -/

/-- The request table of the current context's partition p, number pid, with no operation of this tile on its way to it (R355). -/
def State.tableIs (s : State) (pid : Nat) (p : Part) : Prop :=
  s.pid = some pid ∧ s.parts.get? pid = some p ∧ ∀ o ∈ p.req.ops, o.1 ≠ s.cur
/-- The state with the table of a partition replaced. -/
def State.putTable (s : State) (pid : Nat) (q : ReqTable) : State := s.modPart pid fun p => { p with req := q }
/-- The n UINT32 values at an address of the own window. -/
def State.ownList (s : State) (ea n : Nat) : List Nat :=
  (List.range n).map fun i => leNat (((s.readWin s.cur s.share ea (4 * n)).drop (4 * i)).take 4)
/-- A form of major 34 that returns a value (R363, R370). -/
def opReq (b a : Reg) : Op := { srcs := [b], dsts := [a], iso := true }

/-! ### The vector stream -/

/-- A vector instruction completes when the vector queue has room: its entry joins the queue with its prefix, the effective rounding mode and
its address (R155, R215). -/
def HandsOver (i : Instr) (x : VEntry) (o : Op) : Prop :=
  ∀ s : State, s.Ready o → s.half.vq.length < 16 →
    exec i s = .next ((s.bump.modHalf fun h => { h with
      vq := h.vq ++ [{ x with pfx := h.pfx, word := BitVec.ofNat 32 (s.wordAtPc 4).toNat, mode := h.mode, pc := h.pc, seq := s.fresh,
                              after := s.orderedFrom }] }).retire {} .next)
/-- A form that has a vector-scalar variant: vb names one of q0 to q3 there (R35, R217). -/
def HandsVs (i : Bool → Km → VReg → VReg → VReg → Instr) (op : VOp) (accepts : BitVec 16 → Bool) : Prop :=
  ∀ vs km vb va vd, HandsOver (i vs km vb va vd) { op := op, vs := vs, km := km, vb := vb, va := va, vd := vd }
    { pfx := accepts, badCode := vs && decide (4 ≤ vb.val) }
/-- A compare: as HandsVs, with a mask register for its destination (R225). -/
def HandsCmp (i : Bool → Km → VReg → VReg → VReg → Instr) (op : VOp) : Prop :=
  ∀ vs km vb va vd, HandsOver (i vs km vb va vd) { op := op, vs := vs, km := km, vb := vb, va := va, vd := vd }
    { pfx := pfxOnly noFmt false false, badCode := (vs && decide (4 ≤ vb.val)) || !isMaskReg vd }
/-- A form of three vector fields. -/
def Hands3 (i : Km → VReg → VReg → VReg → Instr) (op : VOp) (accepts : BitVec 16 → Bool) : Prop :=
  ∀ km vb va vd, HandsOver (i km vb va vd) { op := op, km := km, vb := vb, va := va, vd := vd } { pfx := accepts }
def Hands2 (i : Km → VReg → VReg → Instr) (op : VOp) (accepts : BitVec 16 → Bool) : Prop :=
  ∀ km va vd, HandsOver (i km va vd) { op := op, km := km, va := va, vd := vd } { pfx := accepts }
/-- A reduction, whose destination names one of q4 to q7 (R233). -/
def HandsQ (i : Km → VReg → VReg → Instr) (op : VOp) (accepts : BitVec 16 → Bool) : Prop :=
  ∀ km va vd, HandsOver (i km va vd) { op := op, km := km, va := va, vd := vd } { pfx := accepts, badCode := decide (4 ≤ vd.val) }
/-- A memory form: base and stride name q0 to q3 or z (R245). -/
def HandsMem (i : Km → Reg → Reg → VReg → Instr) (op : VOp) (i4 iso : Bool) : Prop :=
  ∀ km stride base v, HandsOver (i km stride base v) { op := op, km := km, base := base, stride := stride, vd := v }
    { pfx := pfxOnly (fun f => decide (f ≤ 8) && (i4 || decide (f ≠ 1))) false true, badCode := !(isVBase base && isVBase stride), iso := iso }

/-! ### The system core -/

/-- A form of the system core completes there with the state and the value of f on its operand words, or is an illegal operand where f
has none (R66, R432); elsewhere it is a protection violation. -/
def SystemYields (i : Reg → Reg → Reg → Instr) (f : SysOp) : Prop :=
  ∀ (s : State) (b a d : Reg), s.Ready (opAB b a d) →
    let r := f ((s.after a).after b) (s.val a) ((s.after a).val b)
    (s.cur = 3072 → ∀ t v, r = some (t, v) → exec (i b a d) s = .next ((t.give d v).retire (opAB b a d) .next))
    ∧ (s.cur = 3072 → r = none → exec (i b a d) s = .next (s.takeTrap s.half.pc { code := 0x21, faddr := s.wordAtPc 4 }))
    ∧ (s.cur ≠ 3072 → exec (i b a d) s = .next (s.takeTrap s.half.pc { code := 0x30 }))
/-- A translation form completes on a core with the state and status of f; elsewhere it is a protection violation (R66). -/
def CoreYields (i : Reg → Reg → Reg → Instr) (f : State → Word → Word → State × Nat) : Prop :=
  ∀ (s : State) (b a d : Reg), s.Ready (opAB b a d) →
    let r := f ((s.after a).after b) (s.val a) ((s.after a).val b)
    (isCore s.cur = true → exec (i b a d) s = .next ((r.1.give d (BitVec.ofNat 64 r.2)).retire (opAB b a d) .next))
    ∧ (isCore s.cur = false → exec (i b a d) s = .next (s.takeTrap s.half.pc { code := 0x30 }))

/-- What stops the issue of an instruction with these specifiers stops it: a wait, or the trap (R38, R388). -/
def StopsBy (i : Instr) (o : Op) : Prop :=
  ∀ (s : State) (x : Stop), validKey s.cur = true → issueStop o s = some x → exec i s = s.stopped o.len x

/-! ### What an instruction leaves alone -/

/-- Registers and special registers that an instruction with these sources and destinations leaves alone: every general and near register that is
no destination, every queue that is neither read nor written, the extension, vector, mask and shape registers, the vector queue, every
special register, and the status but for the prefix bit, which a completed instruction clears (R45). -/
def Half.keeps (h u : Half) (srcs dsts : List Reg) : Prop :=
  (∀ i, .g i ∉ dsts → u.g.get i = h.g.get i)
  ∧ (∀ i, .n i ∉ dsts → u.n.get i = h.n.get i ∧ u.npoison.getLsbD i.val = h.npoison.getLsbD i.val)
  ∧ (∀ i, .q i ∉ srcs → .q i ∉ dsts → u.q.get i = h.q.get i)
  ∧ u.e = h.e ∧ u.v = h.v ∧ u.k = h.k ∧ u.h = h.h ∧ u.vq = h.vq ∧ u.loads = h.loads
  ∧ u.status = h.status &&& ~~~ 1#64 ∧ u.cause = h.cause ∧ u.xpc = h.xpc ∧ u.faddr = h.faddr ∧ u.msgid = h.msgid ∧ u.chan = h.chan
  ∧ u.budget = h.budget ∧ u.trapvec = h.trapvec ∧ u.tsave = h.tsave ∧ u.tlpcnt = h.tlpcnt ∧ u.frnd = h.frnd ∧ u.pfxsave = h.pfxsave
  ∧ u.nanorg = h.nanorg ∧ u.boundTrap = h.boundTrap
/-- Nothing but the running half of the current context differs: no byte of memory, no other register half, context or tile, no unit. -/
def State.onlyHalf (s t : State) : Prop :=
  (∀ k, t.mem.get k = s.mem.get k) ∧ t = s.setSlot { s.slot with waiting := false, waitOn := .other, half := t.half }
/-- The frame of an instruction that computes in registers. -/
def State.regFrame (s t : State) (srcs dsts : List Reg) : Prop := s.onlyHalf t ∧ s.half.keeps t.half srcs dsts
/-- The frame, with the flags and the push registers too. -/
def State.quietFrame (s t : State) (srcs : List Reg) : Prop :=
  s.regFrame t srcs [] ∧ t.half.fflags = s.half.fflags ∧ t.half.y = s.half.y ∧ t.half.ypend = s.half.ypend
/-- The frame of a trap of the current context that it catches or that aborts it: no byte of memory, nothing outside its slot, and of the half
nothing but what R388 to R391 write. -/
def State.trapFrame (s t : State) : Prop :=
  (∀ k, t.mem.get k = s.mem.get k) ∧ t = s.setSlot t.slot
  ∧ t.half = { s.half with
      cause := t.half.cause, xpc := t.half.xpc, faddr := t.half.faddr, status := t.half.status, tsave := t.half.tsave, tlpcnt := t.half.tlpcnt,
      lpcnt := t.half.lpcnt, lastPc := t.half.lastPc, pc := t.half.pc }
/-- What an instruction leaves alone that hands work over: memory, the other tiles, contexts and halves of the tile, what is on the networks, and
of the half every register but the queues it reads. -/
def State.handsFrame (s t : State) (srcs : List Reg) : Prop :=
  (∀ k, t.mem.get k = s.mem.get k) ∧ (∀ x, x ≠ s.cur → t.tile x = s.tile x) ∧ (∀ c, c ≠ s.ctx → (t.tile s.cur).ctx c = (s.tile s.cur).ctx c)
  ∧ t.net = s.net ∧ t.transfers = s.transfers ∧ s.half.keeps t.half srcs [] ∧ t.half.fflags = s.half.fflags ∧ t.half.y = s.half.y
/-- The frame of a sending form: of the tile, nothing but the out-buffer of its share. -/
def State.sendFrame (s t : State) (srcs : List Reg) : Prop :=
  s.handsFrame t srcs ∧ (∀ i, i ≠ s.share → (t.tile s.cur).share i = (s.tile s.cur).share i)
  ∧ (∀ i, (t.tile s.cur).engine i = (s.tile s.cur).engine i)
  ∧ (t.tile s.cur).share s.share = { (s.tile s.cur).share s.share with out := ((t.tile s.cur).share s.share).out }
/-- The frame of an engine command: of the tile, nothing but the engine of its share. -/
def State.engineFrame (s t : State) (srcs : List Reg) : Prop :=
  s.handsFrame t srcs ∧ (∀ i, (t.tile s.cur).share i = (s.tile s.cur).share i)
  ∧ ∀ i, i ≠ s.share → (t.tile s.cur).engine i = (s.tile s.cur).engine i
/-- The frame of a form of control register k: that register aside, nothing but its destination (R403 to R407). -/
def State.csrFrame (s t : State) (k : Nat) (a d : Reg) : Prop :=
  (∀ x, t.mem.get x = s.mem.get x) ∧ (∀ x, x ≠ s.cur → t.tile x = s.tile x) ∧ (∀ c, c ≠ s.ctx → (t.tile s.cur).ctx c = (s.tile s.cur).ctx c)
  ∧ (∀ i, (t.tile s.cur).share i = (s.tile s.cur).share i ∧ (t.tile s.cur).engine i = (s.tile s.cur).engine i)
  ∧ (k ≠ 0x25 → (t.tile s.cur).bndflag = (s.tile s.cur).bndflag) ∧ (k ≠ 0x3F0 → t.sys = s.sys)
  ∧ s.half.keeps { t.half with
      status := if k = 0 then s.half.status &&& ~~~ 1#64 else t.half.status, xpc := if k = 2 then s.half.xpc else t.half.xpc
      faddr := if k = 3 then s.half.faddr else t.half.faddr, trapvec := if k = 7 then s.half.trapvec else t.half.trapvec
      frnd := if k = 0x11 then s.half.frnd else t.half.frnd, nanorg := if k = 0x13 then s.half.nanorg else t.half.nanorg } [a] [d]
  ∧ (k ≠ 0x10 → t.half.fflags = s.half.fflags)
  ∧ (k = 0 → t.half.status &&& ~~~ 9#64 = s.half.status &&& ~~~ 9#64)

end Sys2Proof.Machine
end

