-- ==== Sys2Proof/Certificates/Slice0/Obligations.lean ====
section
/-! DEFINITION. The statements for the provers. Each docstring names the rules of spec/ whose behaviour its statement formalises. -/

open Sys2Proof Sys2Proof.Machine

/-- R4, R25 to R45: every well-formed instruction that has an encoding is read back from its bytes, whatever follows them, with every
operand; those that have none are events, and the three second names of VF.CTL's word. -/
def Obligations.RoundTrip : Prop :=  (∀ (i : Instr) (bs rest : List Byte), i.wellFormed = true → encodeBytes i = some bs → decode (bs ++ rest) = .ok (i, rest))
  ∧ ∀ (i : Instr) (n w : Nat), encode i = some (n, w) → n = 16 ∨ n = 32

/-- R28 to R45: words that the spec writes out in its examples decode to the instructions that they stand for, one of each format; a word of the
reserved major 58 decodes to none. -/
def Obligations.DecodeWords : Prop :=  decodeTableWord 32 0x58718507 = some (.div (.g 7) (.g 6) (.g 5))
  ∧ decodeTableWord 32 0x012A0453 = some (.ld 2#9 .i32 (.n 0) (.g 4))
  ∧ decodeTableWord 32 0x48578463 = some (.ldg 2#3 .i32 (.g 5) (.g 30) (.g 4))
  ∧ decodeTableWord 32 0x9211447B = some (.mxMma true 9#6 (.g 5) (.g 4))
  ∧ decodeTableWord 32 0x0D08239F = some (.vfma false .f32 2 2 1 3)
  ∧ decodeTableWord 32 0xD440C29B = some (.shutPost (.g 4) (.g 3) (.g 2))
  ∧ decodeTableWord 16 0x0405 = some (.compactAddi 1#6 0)
  ∧ decodeTableWord 16 0xB526 = some (.pfx 11#4 2#3 true 0#2)
  ∧ decodeTableWord 32 0x000000EB = none

/-- R25, R27, R36, R37, R40: the low two bits of the first parcel give the length; what decodes is well formed; the parcel of zeros, a word that is
cut short and the reserved majors are refused by name,
and executing what is refused raises the illegal-instruction trap. -/
def Obligations.ReservedEncodings : Prop :=  (∀ (p0 : Nat) (p1 : Option Nat) (r : Decoded), decodeParcels p0 p1 = .ok r →
    r.instr.wellFormed = true ∧ (p0 % 4 = 3 → r.len = 4) ∧ (p0 % 4 ≠ 3 → r.len = 2))
  ∧ (∀ p1, decodeParcels 0 p1 = .error .zeroParcel)
  ∧ (∀ p0 : Nat, p0 % 4 = 3 → decodeParcels p0 none = .error .tooShort)
  ∧ (∀ p0 p1 : Nat, p0 % 4 = 3 → (p0 / 4 % 64 = 0 ∨ 48 ≤ p0 / 4 % 64) →
      decodeParcels p0 (some p1) = .error (.reservedMajor (p0 / 4 % 64)))
  ∧ (∀ (s : State) (w : BitVec 32), validKey s.cur = true →
      exec (.illegalInstruction w) s = .next (s.takeTrap s.half.pc { code := 0x20, faddr := w.zeroExtend 64, own := true }))

/-- R25 to R27, R37, R209, R333, R335, R484: with no input and no event of its own to take, a step runs for the context whose turn it is the
instruction that the bytes at its pc decode to, or the illegal-instruction trap where they decode to none, or the fetch fault beyond
the end of the code; then the turn goes on, and neither memory nor a register half changes. An empty budget, or a bound trap that waits,
is taken in its place.
The model's choices: the order in which contexts and events take their turns (log 5), and the fetch fault of a word that crosses the end
of the code (log 60). -/
def Obligations.StepRunsDecoded : Prop :=  (∀ (s : State) (t : Nat) (c : Fin 8), s.inputs = [] → (s.evTurn = true → s.nextEvent = none) → s.pick runFetched = some (t, c) →
    let s0 := s.at t c
    let pc := s0.half.pc.toNat
    let p0 := s0.parcelAt pc
    let p1 := s0.parcelAt (pc + 2)
    let n := if p0 % 4 = 3 then 4 else 2
    let d := s.turnOf t
    (s0.half.budget ≠ 0#64 → s0.takeBoundTrap t c = none →
      (s0.codeLen < pc + n → step s = .next (s0.fetchFault.afterIssue t c d))
      ∧ (pc + n ≤ s0.codeLen → ∀ r, decodeParcels p0 (some p1) = .ok r →
          (∀ u, exec r.instr s0 = .next u → step s = .next (u.afterIssue t c d)) ∧ (∀ f, exec r.instr s0 = .fault f → step s = .fault f)
          ∧ ∀ x, exec r.instr s0 = .refused x → step s = .refused x)
      ∧ (pc + n ≤ s0.codeLen → ∀ e, decodeParcels p0 (some p1) = .error e → ∀ u,
          exec (.illegalInstruction (BitVec.ofNat 32 (if p0 % 4 = 3 then p0 + 65536 * p1 else p0))) s0 = .next u →
            step s = .next (u.afterIssue t c d)))
    ∧ (s0.half.budget = 0#64 → step s = .next ((s0.takeTrap s0.half.pc { code := 0x29 }).afterIssue t c d))
    ∧ (∀ u, s0.half.budget ≠ 0#64 → s0.takeBoundTrap t c = some u → step s = .next (u.afterIssue t c d)))
  ∧ (∀ (u : State) (t : Nat) (c : Fin 8) (d : Int × Int × Bool × Bool),
    (u.afterIssue t c d).mem = u.mem ∧ ∀ t' c' h, ((((u.afterIssue t c d).tile t').ctx c').slot h).half = (((u.tile t').ctx c').slot h).half)

/-- The memory keeps its canonical form in every step (log 2): addresses strictly rising, no entry equal to what an unlisted address reads as. -/
def Obligations.StepKeepsMemory : Prop := ∀ s t : State, s.Safe → step s = .next t → t.Safe

/-- R5, R12, R151, R182, R333, R339, R403, R404, R455: the state after reset: cycle 0, memory canonical and empty, nothing poisoned, nothing on its way, no
partition, boot at stage 1, and of every context the registers, queues, status and special registers at 0 and no activation. The values
that no rule gives are those of logs 3 and 4. -/
def Obligations.ResetState : Prop :=  let s := State.reset
  s.Safe ∧ (∀ k, s.mem.get k = 0#8) ∧ s.cycle = 0 ∧ s.poison = [] ∧ s.dirty = [] ∧ s.net = [] ∧ s.sliceQ = [] ∧ s.l2 = [] ∧ s.parts = []
  ∧ s.transfers = [] ∧ s.sys.bootst = 1 ∧ s.sys.asleep = false ∧ s.sys.suspended = false ∧ s.sys.plog = []
  ∧ (∀ t c h, let x := ((s.tile t).ctx c).slot h
      x.phase = .free ∧ (∀ i, x.half.g.get i = 0#64) ∧ (∀ i, x.half.n.get i = 0#64) ∧ (∀ i, x.half.y.get i = 0#64) ∧ (∀ i, x.half.e.get i = 0#64)
      ∧ (∀ i, x.half.q.get i = []) ∧ (∀ i, x.half.v.get i = 0#2048) ∧ x.half.npoison = 0#8 ∧ x.half.status = 0#64 ∧ x.half.cause = 0#64
      ∧ x.half.trapvec = 0#64 ∧ x.half.fflags = 0#5 ∧ x.half.frnd = 0#2 ∧ x.half.lpcnt = 0#64 ∧ x.half.loads = [])
  ∧ (∀ f : Nat, (s.fn f).hcprod = 0#64 ∧ (s.fn f).eq = [] ∧ (s.fn f).frozen = false)

/-- R32, R33, R151 to R154: what the 64 codes name, which of them an instruction may not read or write, and what reading and writing one does: z
reads as zero and takes no write; a written near register is clean; a queue gives its oldest entry and takes a new one last; a value produced
moves y0 to y2 up by one. -/
def Obligations.RegisterRules : Prop :=  (∀ c : Nat, (∀ h : c < 40, Reg.ofCode c = .g ⟨c, h⟩) ∧ (∀ h : c < 8, Reg.ofCode (40 + c) = .n ⟨c, h⟩)
    ∧ (∀ h : c < 4, Reg.ofCode (48 + c) = .y ⟨c, h⟩) ∧ (∀ h : c < 8, Reg.ofCode (52 + c) = .q ⟨c, h⟩) ∧ ∀ h : c < 3, Reg.ofCode (61 + c) = .rsv ⟨c, h⟩)
  ∧ Reg.ofCode 60 = .z
  ∧ (∀ (s : State) (o : Op) (r : Reg), o.illegal = false → o.iso = false → s.half.pp = false →
    (r ∈ o.srcs ∧ ((∃ i : Fin 8, i.val < 4 ∧ r = .q i) ∨ ∃ i, r = .rsv i))
      ∨ (r ∈ o.dsts ∧ ((∃ i, r = .y i) ∨ (∃ i : Fin 8, 4 ≤ i.val ∧ r = .q i) ∨ ∃ i, r = .rsv i)) →
        issueStop o s = some (.trap { code := 0x21 }))
  ∧ ∀ (h : Half) (v : Word),
    (h.read .z).1 = 0#64 ∧ (h.read .z).2 = h ∧ h.write .z v = h
    ∧ (∀ i, (h.read (.g i)) = (h.g.get i, h) ∧ (h.write (.g i) v).g.get i = v ∧ ∀ j, j ≠ i → (h.write (.g i) v).g.get j = h.g.get j)
    ∧ (∀ i, (h.read (.n i)).1 = h.n.get i ∧ (h.write (.n i) v).n.get i = v ∧ (h.write (.n i) v).npoison.getLsbD i.val = false)
    ∧ (∀ i x rest, h.q.get i = x :: rest → (h.read (.q i)).1 = x ∧ (h.read (.q i)).2.q.get i = rest)
    ∧ (∀ i, (h.write (.q i) v).q.get i = h.q.get i ++ [v])
    ∧ (∀ i, (h.read (.y i)) = (h.y.get i, h))
    ∧ (h.push v).y.get 0 = v ∧ (h.push v).y.get 1 = h.y.get 0 ∧ (h.push v).y.get 2 = h.y.get 1 ∧ (h.push v).y.get 3 = h.y.get 2

/-- R34, R38, R39, R45, R62, R152, R370: what stops an instruction before it has an effect, in the order of R38: an isolated one on the reflex side, a
prefix that it does not take, a forbidden register code; then it waits where a queue lacks entries or room, or a load is outstanding that holds the
context, whose destination it names, or whose value is due in a push register that it reads; then a poisoned near register that it reads stops it,
the lowest one's number in faddr; else it issues. The forms of a few shapes stand for all. A compact code names n0 to n7, then, as a source, y0 to
y3 and q4 to q7, and as a destination nothing and q0 to q3. -/
def Obligations.IssueStops : Prop :=  (∀ b a d, StopsBy (.add b a d) (opAB b a d) ∧ StopsBy (.fadd b a d) { opAB b a d with pfx := onlyRnd } ∧ StopsBy (.lvShare b a d) (opAB b a d))
  ∧ (∀ s : State, ∀ o : Op,
    (o.illegal = true → issueStop o s = some (.trap { code := 0x20 }))
    ∧ (o.illegal = false → o.iso = true → s.reflexSide = true → issueStop o s = some (.trap { code := 0x23 }))
    ∧ (o.illegal = false → o.iso = false → s.half.pp = true → o.pfx s.half.pfxsave = false →
        ∃ t, issueStop o s = some (.trap t) ∧ t.code = 0x22)
    ∧ (let h := s.half
       o.illegal = false → (o.iso = true → s.reflexSide = false) → (h.pp = true → o.pfx h.pfxsave = true) →
       (∀ r ∈ o.srcs, r.srcOk = true) → (∀ r ∈ o.dsts, r.dstOk = true) → o.badCode = false →
       (h.lpcnt = 0#64 ∨ h.lpend.toNat ≤ h.pc.toNat ∨ h.pc.toNat + o.len ≤ h.lpend.toNat) →
         (∀ i : Fin 8, (h.q.get i).length < countReg o.srcs (.q i)
             ∨ (0 < countReg o.dsts (.q i) ∧ 8 < (h.q.get i).length + countReg o.dsts (.q i))
             ∨ (∃ w ∈ h.qwait, w.1 = i.val ∧ w.2.1 < countReg o.srcs (.q i)) →
           issueStop o s = some (.wait (h.operandWait o)))
         ∧ (∀ l ∈ h.loads, l.blocking = true ∨ (l.d ≠ .z ∧ l.d ∈ o.srcs) ∨ (l.d.held = true ∧ l.d ∈ o.dsts) →
             issueStop o s = some (.wait (h.operandWait o)))
         ∧ (∀ k : Fin 4, h.ypend.get k ≠ 0 → .y k ∈ o.srcs → issueStop o s = some (.wait (h.operandWait o)))
         ∧ (h.queuesReady o = true → h.loadsReady o = true →
             (∀ i : Fin 8, o.readsPoison = false → h.npoison.getLsbD i.val = true → .n i ∈ o.srcs →
               (∀ j : Fin 8, j < i → h.npoison.getLsbD j.val = true → .n j ∉ o.srcs) →
                 issueStop o s = some (.trap { code := 0x28, reason := 2, faddr := BitVec.ofNat 64 i.val }))
             ∧ ((∀ i : Fin 8, h.npoison.getLsbD i.val = true → .n i ∉ o.srcs) → issueStop o s = none))))
  ∧ (∀ c : CReg, (∀ h : c.val < 8, c.src = .n ⟨c.val, h⟩ ∧ c.dst = .n ⟨c.val, h⟩)
    ∧ (8 ≤ c.val → c.val < 12 → c.src = .y (Fin.ofNat 4 (c.val - 8)) ∧ ∀ (s : State) (o : Op), o.illegal = false → o.iso = false → s.half.pp = false →
        c.dst ∈ o.dsts → issueStop o s = some (.trap { code := 0x21 }))
    ∧ (12 ≤ c.val → c.src = .q (Fin.ofNat 8 (c.val - 8)) ∧ c.dst = .q (Fin.ofNat 8 (c.val - 12))))

/-- R196, R197: every two-source integer form of major 1 but the divisions writes its stated result to d, pushes it, and goes on.
R196, R197: the w forms work on bits [31:0] and sign-extend; a shift amount of 32 or more gives 0, or the sign.
R196: the one-source forms of major 1. ctz and popc count by bits; the leading zeros of A are those of its reversal's end.
R41, R42: the compact aliases have the results of their 32-bit forms, with ds read and written. -/
def Obligations.IntegerRegisterResults : Prop :=
  (Yields2 .add (fun x y => x + y) ∧ Yields2 .sub (fun x y => x - y) ∧ Yields2 .and (fun x y => x &&& y)
   ∧ Yields2 .or (fun x y => x ||| y) ∧ Yields2 .xor (fun x y => x ^^^ y) ∧ Yields2 .andn (fun x y => x &&& ~~~ y)
   ∧ Yields2 .orn (fun x y => x ||| ~~~ y)
   ∧ Yields2 .sll (fun x y => x <<< y.toNat) ∧ Yields2 .srl (fun x y => x >>> y.toNat)
   ∧ Yields2 .sra (fun x y => x.sshiftRight y.toNat)
   ∧ Yields2 .slt (fun x y => if x.toInt < y.toInt then 1#64 else 0#64)
   ∧ Yields2 .sltn (fun x y => if x.toNat < y.toNat then 1#64 else 0#64)
   ∧ Yields2 .min (fun x y => BitVec.ofInt 64 (min x.toInt y.toInt)) ∧ Yields2 .max (fun x y => BitVec.ofInt 64 (max x.toInt y.toInt))
   ∧ Yields2 .minn (fun x y => BitVec.ofNat 64 (min x.toNat y.toNat)) ∧ Yields2 .maxn (fun x y => BitVec.ofNat 64 (max x.toNat y.toNat))
   ∧ Yields2 .mul (fun x y => x * y)
   ∧ Yields2 .mulh (fun x y => BitVec.ofInt 64 (x.toInt * y.toInt / 2 ^ 64))
   ∧ Yields2 .mulhn (fun x y => BitVec.ofNat 64 (x.toNat * y.toNat / 2 ^ 64)))
  ∧
  (Yields2 .addw (fun x y => ((x + y).truncate 32).signExtend 64) ∧ Yields2 .subw (fun x y => ((x - y).truncate 32).signExtend 64)
   ∧ Yields2 .mulw (fun x y => ((x * y).truncate 32).signExtend 64)
   ∧ Yields2 .sllw (fun x y => ((x.truncate 32) <<< y.toNat).signExtend 64)
   ∧ Yields2 .srlw (fun x y => ((x.truncate 32) >>> y.toNat).signExtend 64)
   ∧ Yields2 .sraw (fun x y => ((x.truncate 32).sshiftRight y.toNat).signExtend 64))
  ∧
  ((∀ (s : State) (a d : Reg), s.Ready (opA a d) → ∃ v : Word,
     exec (.clz a d) s = .next (((s.after a).give d v).retire (opA a d) .next) ∧
       v.toNat ≤ 64 ∧ (∀ i, 64 - v.toNat ≤ i → (s.val a).getLsbD i = false) ∧ (v.toNat < 64 → (s.val a).getLsbD (63 - v.toNat) = true))
   ∧ (∀ (s : State) (a d : Reg), s.Ready (opA a d) → ∃ v : Word,
     exec (.ctz a d) s = .next (((s.after a).give d v).retire (opA a d) .next) ∧
       v.toNat ≤ 64 ∧ (∀ i, i < v.toNat → (s.val a).getLsbD i = false) ∧ (v.toNat < 64 → (s.val a).getLsbD v.toNat = true))
   ∧ Yields1 .popc (fun x => BitVec.ofNat 64 ((List.range 64).countP fun i => x.getLsbD i))
   ∧ (∀ (s : State) (a d : Reg), s.Ready (opA a d) → ∃ v : Word,
     exec (.bswap a d) s = .next (((s.after a).give d v).retire (opA a d) .next) ∧
       ∀ k i, k < 8 → i < 8 → v.getLsbD (8 * k + i) = (s.val a).getLsbD (8 * (7 - k) + i)))
  ∧
  (YieldsC2 .compactAdd (fun x y => x + y) ∧ YieldsC2 .compactSub (fun x y => x - y) ∧ YieldsC2 .compactAnd (fun x y => x &&& y)
   ∧ YieldsC2 .compactOr (fun x y => x ||| y) ∧ YieldsC2 .compactXor (fun x y => x ^^^ y)
   ∧ YieldsC2 .compactSll (fun x y => x <<< y.toNat) ∧ YieldsC2 .compactSrl (fun x y => x >>> y.toNat)
   ∧ YieldsC2 .compactSra (fun x y => x.sshiftRight y.toNat) ∧ YieldsC2 .compactMul (fun x y => x * y)
   ∧ YieldsC1 .compactAddi (fun m x => x + m.signExtend 64) ∧ YieldsC1 .compactAndi (fun m x => x &&& m.signExtend 64)
   ∧ YieldsC1 .compactSlli (fun m x => x <<< m.toNat) ∧ YieldsC1 .compactSrli (fun m x => x >>> m.toNat)
   ∧ YieldsC1 .compactSrai (fun m x => x.sshiftRight m.toNat)
   ∧ (∀ (s : State) (b d : CReg), s.Ready { srcs := [b.src], dsts := [d.dst], len := 2 } →
       exec (.compactMove b d) s = .next (((s.after b.src).give d.dst (s.val b.src)).retire { srcs := [b.src], dsts := [d.dst], len := 2 } .next))
   ∧ (∀ (s : State) (m : BitVec 6) (d : CReg), s.Ready { dsts := [d.dst], len := 2 } →
       exec (.compactLix m d) s = .next ((s.give d.dst (m.signExtend 64)).retire { dsts := [d.dst], len := 2 } .next)))

/-- R198: quotients truncate toward zero, remainders take the dividend's sign; a zero divisor gives the defined results where status.dzt
is clear; the most negative dividend by −1 gives itself and 0.
R198: with status.dzt set a zero divisor takes the catchable trap 0x13 at the instruction, faddr holding the defined result; d is
not written and nothing is pushed or removed from a queue. -/
def Obligations.DivisionResults : Prop :=
  (YieldsDiv .div (fun x y => if y = 0#64 then BitVec.allOnes 64 else BitVec.ofInt 64 (x.toInt.tdiv y.toInt))
   ∧ YieldsDiv .divn (fun x y => if y = 0#64 then BitVec.allOnes 64 else x / y)
   ∧ YieldsDiv .rem (fun x y => if y = 0#64 then x else BitVec.ofInt 64 (x.toInt.tmod y.toInt))
   ∧ YieldsDiv .remn (fun x y => if y = 0#64 then x else x % y))
  ∧
  (∀ (s : State) (b a d : Reg), s.Ready (opAB b a d) → (s.after a).val b = 0#64 → s.half.dzt = true →
     exec (.div b a d) s = .next (s.takeTrap s.half.pc { code := 0x13, faddr := BitVec.allOnes 64 })
     ∧ exec (.divn b a d) s = .next (s.takeTrap s.half.pc { code := 0x13, faddr := BitVec.allOnes 64 })
     ∧ exec (.rem b a d) s = .next (s.takeTrap s.half.pc { code := 0x13, faddr := s.val a })
     ∧ exec (.remn b a d) s = .next (s.takeTrap s.half.pc { code := 0x13, faddr := s.val a }))

/-- R199 to R201: the immediate forms and the constants. -/
def Obligations.ImmediateResults : Prop :=  (∀ m, Yields1 (.addi m) fun x => x + m.signExtend 64) ∧ (∀ m, Yields1 (.andi m) fun x => x &&& m.signExtend 64)
  ∧ (∀ m, Yields1 (.ori m) fun x => x ||| m.signExtend 64) ∧ (∀ m, Yields1 (.xori m) fun x => x ^^^ m.signExtend 64)
  ∧ (∀ m, Yields1 (.slti m) fun x => if x.toInt < m.toInt then 1#64 else 0#64)
  ∧ (∀ n, Yields1 (.slli n) fun x => x <<< n.toNat) ∧ (∀ n, Yields1 (.srli n) fun x => x >>> n.toNat)
  ∧ (∀ n, Yields1 (.srai n) fun x => x.sshiftRight n.toNat) ∧ (∀ n, Yields1 (.rori n) fun x => x.rotateRight n.toNat)
  ∧ (∀ n : BitVec 6, n.toNat < 32 → Yields1 (.slliw n) fun x => ((x.truncate 32) <<< n.toNat).signExtend 64)
  ∧ (∀ n : BitVec 6, n.toNat < 32 → Yields1 (.srliw n) fun x => ((x.truncate 32) >>> n.toNat).signExtend 64)
  ∧ (∀ n : BitVec 6, n.toNat < 32 → Yields1 (.sraiw n) fun x => ((x.truncate 32).sshiftRight n.toNat).signExtend 64)
  ∧ (∀ n : BitVec 6, n.toNat < 32 → Yields1 (.roriw n) fun x => ((x.truncate 32).rotateRight n.toNat).signExtend 64)
  ∧ (∀ (s : State) (m : BitVec 18) (d : Reg), s.Ready { dsts := [d] } →
      exec (.lix m d) s = .next ((s.give d (m.signExtend 64)).retire { dsts := [d] } .next))
  ∧ (∀ (s : State) (m : BitVec 18) (d : Reg), s.Ready { srcs := [d], dsts := [d], badCode := !d.dstGN } →
      exec (.lixs m d) s = .next ((s.give d ((s.val d) <<< 18 ||| m.zeroExtend 64)).retire { srcs := [d], dsts := [d] } .next))

/-- R202 to R205: every form of major 10 computes from the low 32 bits of its sources (the conversions from 64-bit integers from all
64), under the effective rounding mode, writes the result zero-extended (INT conversions to 64 bits sign-extended), and ORs its flags into
fflags.
R205: the conversions of major 10; a conversion to an integer saturates, a narrowing of a NaN gives the canonical NaN and is recorded
in nanorg. -/
def Obligations.ScalarFpResults : Prop :=
  (YieldsFp2 .fadd (fAdd f32) ∧ YieldsFp2 .fsub (fSub f32) ∧ YieldsFp2 .fmul (fMul f32) ∧ YieldsFp2 .fdiv (fDiv f32)
   ∧ YieldsFp2 .fmin (fun _ => fMinMax f32 false) ∧ YieldsFp2 .fmax (fun _ => fMinMax f32 true)
   ∧ YieldsFp2 .feq (fun _ x y => ((fCompare f32 .eq x y).1.toNat, (fCompare f32 .eq x y).2))
   ∧ YieldsFp2 .flt (fun _ x y => ((fCompare f32 .lt x y).1.toNat, (fCompare f32 .lt x y).2))
   ∧ YieldsFp2 .fle (fun _ x y => ((fCompare f32 .le x y).1.toNat, (fCompare f32 .le x y).2))
   ∧ YieldsFp3 .fmadd (fFma f32) ∧ YieldsFp3 .fmsub (fFms f32) ∧ YieldsFp3 .fnmadd (fFnma f32)
   ∧ YieldsFp1 .fsqrt (fun m x => fSqrt f32 m (x.toNat % 2 ^ 32))
   ∧ YieldsFp1 .fclass (fun _ x => (fClass (x.toNat % 2 ^ 32), 0#5))
   ∧ YieldsFp1 .fneg (fun _ x => (((x.truncate 32) ^^^ 0x80000000#32).toNat, 0#5))
   ∧ YieldsFp1 .fabs (fun _ x => (((x.truncate 32) &&& 0x7FFFFFFF#32).toNat, 0#5)))
  ∧
  (YieldsFp1 .fcvtI64F32 (fun m x => let r := fToInt f32 m (-2 ^ 63) (2 ^ 63 - 1) (x.toNat % 2 ^ 32); ((BitVec.ofInt 64 r.1).toNat, r.2))
   ∧ YieldsFp1 .fcvtN64F32 (fun m x => let r := fToInt f32 m 0 (2 ^ 64 - 1) (x.toNat % 2 ^ 32); ((BitVec.ofInt 64 r.1).toNat, r.2))
   ∧ YieldsFp1 .fcvtI32F32 (fun m x => let r := fToInt f32 m (-2 ^ 31) (2 ^ 31 - 1) (x.toNat % 2 ^ 32); ((BitVec.ofInt 64 r.1).toNat, r.2))
   ∧ YieldsFp1 .fcvtN32F32 (fun m x => let r := fToInt f32 m 0 (2 ^ 32 - 1) (x.toNat % 2 ^ 32); ((BitVec.ofInt 64 r.1).toNat, r.2))
   ∧ YieldsFp1 .fcvtF32I64 (fun m x => intToF f32 m x.toInt) ∧ YieldsFp1 .fcvtF32N64 (fun m x => intToF f32 m x.toNat)
   ∧ YieldsFp1 .fcvtF32Bf16 (fun m x => let r := fConvert bf16 f32 m (x.toNat % 2 ^ 16); (r.1, r.2.1))
   ∧ YieldsFp1 .fcvtF32F16 (fun m x => let r := fConvert f16 f32 m (x.toNat % 2 ^ 16); (r.1, r.2.1))
   ∧ (∀ (s : State) (a d : Reg), s.Ready { opA a d with pfx := onlyRnd } →
       let r := fConvert f32 bf16 s.half.mode ((s.val a).toNat % 2 ^ 32)
       exec (.fcvtBf16F32 a d) s =
         .next (((((s.after a).noteNaN r.2.2).flag r.2.1).give d (BitVec.ofNat 64 r.1)).retire (opA a d) .next))
   ∧ (∀ (s : State) (a d : Reg), s.Ready { opA a d with pfx := onlyRnd } →
       let r := fConvert f32 f16 s.half.mode ((s.val a).toNat % 2 ^ 32)
       exec (.fcvtF16F32 a d) s =
         .next (((((s.after a).noteNaN r.2.2).flag r.2.1).give d (BitVec.ofNat 64 r.1)).retire (opA a d) .next)))

/-- R182: an FP32 operation of the scalar stream with a NaN result sets no flag other than nv.
R185, R203: the special cases of the scalar FP32 forms: a NaN operand gives the first NaN, quieted; 0/0, ∞ − ∞, 0 × ∞ and the root of a
negative give the canonical NaN and nv; a finite non-zero value over zero gives an infinity of the quotient's sign and dz; √−0 is −0;
min and max order −0 below +0 and pass over one NaN operand. -/
def Obligations.ScalarFpSpecialCases : Prop :=
  (∀ (m : RMode) (a b c : Nat), a < 2 ^ 32 → b < 2 ^ 32 → c < 2 ^ 32 →
     ∀ r ∈ [fAdd f32 m a b, fSub f32 m a b, fMul f32 m a b, fDiv f32 m a b, fSqrt f32 m a, fMinMax f32 false a b, fMinMax f32 true a b,
            fFma f32 m a b c, fFms f32 m a b c, fFnma f32 m a b c],
       f32.isNaN r.1 = true → r.2 &&& 0xF#5 = 0#5)
  ∧
  (∀ (m : RMode) (a b c : Nat), a < 2 ^ 32 → b < 2 ^ 32 → c < 2 ^ 32 →
     (f32.isNaN a = true → (fAdd f32 m a b).1 = (a ||| 0x400000) ∧ (fMul f32 m a b).1 = (a ||| 0x400000) ∧ (fFma f32 m a b c).1 = (a ||| 0x400000))
     ∧ (f32.isNaN a = false → f32.isNaN b = true → (fSub f32 m a b).1 = (b ||| 0x400000) ∧ (fDiv f32 m a b).1 = (b ||| 0x400000))
     ∧ (f32.isZero a = true → f32.isZero b = true → fDiv f32 m a b = (0x7FC00000, 0x10#5))
     ∧ (f32.isInf a = true → f32.isInf b = true → a ≠ b → fAdd f32 m a b = (0x7FC00000, 0x10#5))
     ∧ (f32.isZero a = true → f32.isInf b = true → fMul f32 m a b = (0x7FC00000, 0x10#5) ∧ fFma f32 m a b c = (0x7FC00000, 0x10#5))
     ∧ (f32.isNaN a = false → f32.isZero a = false → 2 ^ 31 ≤ a → fSqrt f32 m a = (0x7FC00000, 0x10#5))
     ∧ (f32.isNaN a = false → f32.isInf a = false → f32.isZero a = false → f32.isZero b = true →
         fDiv f32 m a b = (0x7F800000 + (if (2 ^ 31 ≤ a) = (2 ^ 31 ≤ b) then 0 else 2 ^ 31), 0x08#5))
     ∧ fSqrt f32 m 0x80000000 = (0x80000000, 0#5)
     ∧ fMinMax f32 false 0 0x80000000 = (0x80000000, 0#5) ∧ fMinMax f32 true 0x80000000 0 = (0, 0#5)
     ∧ (f32.isNaN a = true → f32.isNaN b = false → (fMinMax f32 false a b).1 = b ∧ (fMinMax f32 true b a).1 = b))

/-- R206: the branches; both fields are sources, and a queue entry leaves whether or not the branch is taken.
R207, R208, R43: jumps, jump and link, the register jumps with an even target, pca, nop and the prefix; a target outside an active loop
leaves it (R212), which `State.retire` does. -/
def Obligations.ControlFlowResults : Prop :=
  (BranchesOn .bEq (fun x y => x = y) ∧ BranchesOn .bNe (fun x y => x ≠ y)
   ∧ BranchesOn .bLt (fun x y => x.toInt < y.toInt) ∧ BranchesOn .bGe (fun x y => y.toInt ≤ x.toInt)
   ∧ BranchesOn .bLtn (fun x y => x.toNat < y.toNat) ∧ BranchesOn .bGen (fun x y => y.toNat ≤ x.toNat)
   ∧ (∀ (s : State) (m : BitVec 6) (a : CReg), s.Ready { srcs := [a.src], len := 2 } →
       exec (.compactBEq m a) s = .next ((s.after a.src).retire { srcs := [a.src], len := 2 }
         (if s.val a.src = 0#64 then .jump (s.half.pc + m.signExtend 64 * 2#64) else .next))
       ∧ exec (.compactBNe m a) s = .next ((s.after a.src).retire { srcs := [a.src], len := 2 }
         (if s.val a.src = 0#64 then .next else .jump (s.half.pc + m.signExtend 64 * 2#64)))))
  ∧
  ((∀ (s : State) (m : BitVec 24), s.Ready {} →
     exec (.j m) s = .next (s.retire {} (.jump (s.half.pc + m.signExtend 64 * 2#64))))
   ∧ (∀ (s : State) (m : BitVec 10), s.Ready { len := 2 } →
     exec (.compactJ m) s = .next (s.retire { len := 2 } (.jump (s.half.pc + m.signExtend 64 * 2#64))))
   ∧ (∀ (s : State) (m : BitVec 24), s.Ready { dsts := [.g 39] } →
     exec (.jal m) s =
       .next ((s.give (.g 39) (s.half.pc + 4#64)).retire { dsts := [.g 39] } (.jump (s.half.pc + m.signExtend 64 * 2#64))))
   ∧ (∀ (s : State) (a : Reg), s.Ready { srcs := [a] } → (s.val a).getLsbD 0 = false →
     exec (.jr a) s = .next ((s.after a).retire { srcs := [a] } (.jump (s.val a))))
   ∧ (∀ s : State, s.Ready { srcs := [.g 39], len := 2 } → (s.val (.g 39)).getLsbD 0 = false →
     exec .compactJrLk s = .next ((s.after (.g 39)).retire { srcs := [.g 39], len := 2 } (.jump (s.val (.g 39)))))
   ∧ (∀ (s : State) (a d : Reg), s.Ready (opA a d) → (s.val a).getLsbD 0 = false →
     exec (.jalr a d) s = .next (((s.after a).give d (s.half.pc + 4#64)).retire (opA a d) (.jump (s.val a))))
   ∧ (∀ (s : State) (d : Reg), s.Ready { dsts := [d] } →
     exec (.pca d) s = .next ((s.give d (s.half.pc + 4#64)).retire { dsts := [d] } .next))
   ∧ (∀ s : State, s.Ready {} → exec .nop s = .next (s.retire {} .next))
   ∧ (∀ s : State, s.Ready { len := 2 } → exec .compactNop s = .next (s.retire { len := 2 } .next))
   ∧ (∀ (s : State) (f : BitVec 4) (r : BitVec 3) (x : Bool) (g : BitVec 2), s.Ready { len := 2, isPfx := true } →
     exec (.pfx f r x g) s = .next ((s.modHalf fun h => { h.setPP true with
         pfxsave := f ++ r ++ (if x then 1#1 else 0#1) ++ g ++ 0x26#6 }).retire { len := 2, isPfx := true } .next)))

/-- R211: lp with a length and no active loop: a count of zero skips the body, else the loop registers hold the body and the count.
R211, R212: what follows an instruction: an odd word in sequence with the loop's end goes back to its beginning while the count is
above 1 and falls through with count 0 at 1; a jump inside [lpbeg, lpend) keeps the loop, one outside it clears the count.
R208, R211: a jump to an odd register target, lp of no length and lp inside a loop are illegal operands: the trap 0x21 with the
instruction's word in faddr, and nothing else has changed; lp is one before it reads its count. -/
def Obligations.LoopResults : Prop :=
  (∀ (s : State) (len : BitVec 12) (a : Reg), s.Ready { srcs := [a] } → len ≠ 0#12 → s.half.lpcnt = 0#64 →
     let body := s.half.pc + 4#64
     let fin := body + len.zeroExtend 64 * 2#64
     (s.val a = 0#64 → exec (.lp len a) s = .next ((s.after a).retire { srcs := [a] } (.jump fin)))
     ∧ (s.val a ≠ 0#64 → exec (.lp len a) s =
         .next (((s.after a).modHalf fun h => { h with lpbeg := body, lpend := fin, lpcnt := s.val a }).retire { srcs := [a] } .next)))
  ∧
  (∀ (h : Half) (len : Nat) (t : Word),
     (h.lpcnt = 0#64 → (h.advance len .next).pc = h.pc + BitVec.ofNat 64 len ∧ (h.advance len .next).lpcnt = 0#64)
     ∧ (h.pc + BitVec.ofNat 64 len ≠ h.lpend →
         (h.advance len .next).pc = h.pc + BitVec.ofNat 64 len ∧ (h.advance len .next).lpcnt = h.lpcnt)
     ∧ (h.pc + BitVec.ofNat 64 len = h.lpend → 1 < h.lpcnt.toNat →
         (h.advance len .next).pc = h.lpbeg ∧ (h.advance len .next).lpcnt = h.lpcnt - 1#64)
     ∧ (h.pc + BitVec.ofNat 64 len = h.lpend → h.lpcnt = 1#64 → (h.advance len .next).pc = h.lpend ∧ (h.advance len .next).lpcnt = 0#64)
     ∧ (h.advance len (.jump t)).pc = t
     ∧ (h.lpbeg.toNat ≤ t.toNat → t.toNat < h.lpend.toNat → (h.advance len (.jump t)).lpcnt = h.lpcnt)
     ∧ ((t.toNat < h.lpbeg.toNat ∨ h.lpend.toNat ≤ t.toNat) → (h.advance len (.jump t)).lpcnt = 0#64))
  ∧
  ((∀ (s : State) (a : Reg), s.Ready { srcs := [a] } → (s.val a).getLsbD 0 = true →
     exec (.jr a) s = .next (s.takeTrap s.half.pc { code := 0x21, faddr := s.wordAtPc 4 }))
   ∧ (∀ (s : State) (a d : Reg), s.Ready (opA a d) → (s.val a).getLsbD 0 = true →
     exec (.jalr a d) s = .next (s.takeTrap s.half.pc { code := 0x21, faddr := s.wordAtPc 4 }))
   ∧ (∀ s : State, s.Ready { srcs := [.g 39], len := 2 } → (s.val (.g 39)).getLsbD 0 = true →
     exec .compactJrLk s = .next (s.takeTrap s.half.pc { code := 0x21, faddr := s.wordAtPc 2 }))
   ∧ (∀ (s : State) (len : BitVec 12) (a : Reg), validKey s.cur = true → s.half.pp = false → (len = 0#12 ∨ s.half.lpcnt ≠ 0#64) →
     exec (.lp len a) s = .next (s.takeTrap s.half.pc { code := 0x21, faddr := s.wordAtPc 4 })))

/-- R118, R120: ld and its compact forms load from the own window at reg(base) + offset, extended by its type, in a window check that
passes and from clean sectors, where no bay-remote access of the context to its own tile is on its way to the bytes (R284); the words are read, so
that their soft errors are corrected (R110).
R118, R120, R115: st and its compact forms store the low bytes of their source, little-endian, after the lines they touch are logged;
they produce no value. -/
def Obligations.OwnAccesses : Prop :=
  ((∀ (s : State) (off : BitVec 9) (t : MemType) (base d : Reg), s.Ready { srcs := [base], dsts := [d] } →
     let s1 := s.after base
     let ea : Int := (s.val base).toNat + off.toInt * t.size
     s1.inWindow s.cur ea t.size .load → s1.readable ea.toNat t.size →
       exec (.ld off t base d) s =
         .next (((s1.reads ea.toNat t.size).give d (loaded t (s1.ownNat ea.toNat t.size))).retire { srcs := [base], dsts := [d] } .next))
   ∧ (∀ (s : State) (off : BitVec 2) (b d : CReg), s.Ready { srcs := [b.src], dsts := [d.dst], len := 2 } →
     let s1 := s.after b.src
     let ea : Int := (s.val b.src).toNat + off.toNat * 8
     s1.inWindow s.cur ea 8 .load → s1.readable ea.toNat 8 →
       exec (.compactLdI64 off b d) s =
         .next (((s1.reads ea.toNat 8).give d.dst (loaded .i64 (s1.ownNat ea.toNat 8))).retire { srcs := [b.src], dsts := [d.dst], len := 2 } .next))
   ∧ (∀ (s : State) (off : BitVec 2) (b d : CReg), s.Ready { srcs := [b.src], dsts := [d.dst], len := 2 } →
     let s1 := s.after b.src
     let ea : Int := (s.val b.src).toNat + off.toNat * 4
     s1.inWindow s.cur ea 4 .load → s1.readable ea.toNat 4 →
       exec (.compactLdI32 off b d) s =
         .next (((s1.reads ea.toNat 4).give d.dst (loaded .i32 (s1.ownNat ea.toNat 4))).retire { srcs := [b.src], dsts := [d.dst], len := 2 } .next)))
  ∧
  ((∀ (s u : State) (off : BitVec 9) (t : MemType) (base r : Reg), s.Ready { srcs := [r, base] } →
     let s2 := (s.after r).after base
     let ea : Int := ((s.after r).val base).toNat + off.toInt * t.size
     s2.inWindow s.cur ea t.size .store → s2.ownClear ea.toNat t.size = true → s2.logs ea.toNat t.size u →
       exec (.st off t base r) s = .next ((u.storeAt ea.toNat (leBytes t.size (s.val r).toNat)).retire { srcs := [r, base] } .next))
   ∧ (∀ (s u : State) (off : BitVec 2) (b r : CReg), s.Ready { srcs := [r.src, b.src], len := 2 } →
     let s2 := (s.after r.src).after b.src
     let ea : Int := ((s.after r.src).val b.src).toNat + off.toNat * 8
     s2.inWindow s.cur ea 8 .store → s2.ownClear ea.toNat 8 = true → s2.logs ea.toNat 8 u →
       exec (.compactStI64 off b r) s = .next ((u.storeAt ea.toNat (leBytes 8 (s.val r.src).toNat)).retire { srcs := [r.src, b.src], len := 2 } .next))
   ∧ (∀ (s u : State) (off : BitVec 2) (b r : CReg), s.Ready { srcs := [r.src, b.src], len := 2 } →
     let s2 := (s.after r.src).after b.src
     let ea : Int := ((s.after r.src).val b.src).toNat + off.toNat * 4
     s2.inWindow s.cur ea 4 .store → s2.ownClear ea.toNat 4 = true → s2.logs ea.toNat 4 u →
       exec (.compactStI32 off b r) s = .next ((u.storeAt ea.toNat (leBytes 4 (s.val r.src).toNat)).retire { srcs := [r.src, b.src], len := 2 } .next)))

/-- R121: where the window check of ld or st fails, the scratchpad fault with its reason, the address in faddr, and no other effect; a
poisoned load consumes poison (R111); a full undo log is reason 7.
R107, R108, R109, R112, R121: the reasons of the window check on a whole reasoning tile, in their order: beyond the 1 MiB window, the
upper quarter where it is withheld, a store to the launch area, a store to a keep region outside the handler's set. -/
def Obligations.OwnAccessFaults : Prop :=
  ((∀ (s : State) (off : BitVec 9) (t : MemType) (base d : Reg) (reason : Nat), s.Ready { srcs := [base], dsts := [d] } →
     let ea : Int := (s.val base).toNat + off.toInt * t.size
     (s.after base).checkWindow s.cur s.share s.act.keep ea t.size .load = some reason →
       exec (.ld off t base d) s = .next (s.takeTrap s.half.pc { code := 0x25, reason := reason, faddr := spadFaddr ea 0 reason }))
   ∧ (∀ (s : State) (off : BitVec 9) (t : MemType) (base d : Reg), s.Ready { srcs := [base], dsts := [d] } →
     let ea : Int := (s.val base).toNat + off.toInt * t.size
     (s.after base).inWindow s.cur ea t.size .load → (s.after base).ownClear ea.toNat t.size = true →
     ¬ ((s.after base).reads ea.toNat t.size).cleanOwn ea.toNat t.size →
       exec (.ld off t base d) s = .next ((s.reads ea.toNat t.size).takeTrap s.half.pc { code := 0x28, faddr := spadFaddr ea.toNat 0 0 }))
   ∧ (∀ (s : State) (off : BitVec 9) (t : MemType) (base r : Reg) (reason : Nat), s.Ready { srcs := [r, base] } →
     let s2 := (s.after r).after base
     let ea : Int := ((s.after r).val base).toNat + off.toInt * t.size
     s2.checkWindow s.cur s.share s.act.keep ea t.size .store = some reason →
       exec (.st off t base r) s = .next (s.takeTrap s.half.pc { code := 0x25, reason := reason, faddr := spadFaddr ea 0 reason }))
   ∧ (∀ (s : State) (off : BitVec 9) (t : MemType) (base r : Reg), s.Ready { srcs := [r, base] } →
     let s2 := (s.after r).after base
     let ea : Int := ((s.after r).val base).toNat + off.toInt * t.size
     s2.inWindow s.cur ea t.size .store → s2.ownClear ea.toNat t.size = true → s2.logLines s.cur s.ctx ea.toNat t.size = none →
       exec (.st off t base r) s = .next (s.takeTrap s.half.pc { code := 0x25, reason := 7, faddr := spadFaddr ea.toNat 0 7 })))
  ∧
  (∀ (s : State) (t : Nat) (keep : BitVec 32) (ea : Int) (n : Nat), t < 512 → (s.tile t).split = false → 0 < n →
     let l := s.launchOf (s.pidAt t 0)
     ((ea < 0 ∨ 0x100000 < ea + n) → ∀ k, s.checkWindow t 0 keep ea n k = some 2)
     ∧ (0 ≤ ea → ea + n ≤ 0x100000 →
         (0xC0000 < ea + n → (l.uq = false ∨ s.armed t = true) → ∀ k, s.checkWindow t 0 keep ea n k = some 3)
         ∧ (ea + n ≤ 0xC0000 → s.checkWindow t 0 keep ea n .load = none)
         ∧ (ea + n ≤ 0xC0000 → ea < 0x1000 → s.checkWindow t 0 keep ea n .store = some 4)
         ∧ (ea + n ≤ 0xC0000 → 0x1000 ≤ ea →
             (s.checkWindow t 0 keep ea n .store = some 5 ↔ ∃ k, keep.getLsbD k = false ∧ k < l.keeps.length ∧
               ∃ b z f, l.keeps[k]? = some (b, z, f) ∧ (b : Int) < ea + n ∧ ea < (b : Int) + z))))

/-- R119, R120, R124, R125: ldb and stb of a bay tile index that belongs to the launch, in a window check that passes and below the tile's
limits of 8 loads and 16 stores, send their access into the request network to the target's port thread and set the bay-remote mark; the tile counts
it until it is answered; the load's value is outstanding, the store makes the activation non-replayable.
The model's choice: what the message of kind 5 that takes the access to its port thread carries (log 10). -/
def Obligations.BayRemoteAccesses : Prop :=  (∀ (s : State) (off : BitVec 3) (t : MemType) (ti base d : Reg), s.Ready { srcs := [base, ti], dsts := [d] } →
    let s2 := (s.after base).after ti
    let i := ((s.after base).val ti).toNat
    let ea := (s.val base).toNat + off.toNat * t.size
    let tgt := bayTile (bayOf s.cur) i
    i ≤ 15 → s2.bayOpen i → s2.inWindow tgt ea t.size .load → (s2.tile s.cur).loadsOut < 8 →
      exec (.ldb off t ti base d) s = .next (((s2.bump.toBay tgt (.load s.cur s.ctx s.share s.fresh ea t.size) s.fresh true).pend
        { id := s.fresh, d := d, size := t.size, signed := t.signed, pc := s.half.pc, faddr := spadFaddr ea i 0, target := some tgt,
          global := false }).retire
          { srcs := [base, ti], dsts := [d] } .next))
  ∧ (∀ (s : State) (off : BitVec 3) (t : MemType) (ti base r : Reg), s.Ready { srcs := [r, base, ti] } →
    let s3 := ((s.after r).after base).after ti
    let i := (((s.after r).after base).val ti).toNat
    let ea := ((s.after r).val base).toNat + off.toNat * t.size
    let tgt := bayTile (bayOf s.cur) i
    i ≤ 15 → s3.bayOpen i → s3.inWindow tgt ea t.size .remoteStore → (s3.tile s.cur).storesOut < 16 →
      exec (.stb off t ti base r) s = .next ((s3.bump.toBay tgt
        (.store s.cur s.ctx s.share s.fresh ea (leBytes t.size (s.val r).toNat)) s.fresh false).spent.retire { srcs := [r, base, ti] } .next))

/-- R60 to R63, R131: ldg and stg check their resource, translate every page, and go to their slice; a load that the tile's read cache
holds clean completes at once, one that it holds poisoned consumes the poison, another is outstanding; a store is posted and pushes nothing.
The model's choices: that the use of the resource entry stays where a later check stops (log 63), and that no load of the context is
served from the read cache before its store is performed (log 65). -/
def Obligations.GlobalAccesses : Prop :=  (∀ (s : State) (scale : BitVec 3) (t : MemType) (o res d : Reg) (r : Rec512) (ps : List Part'),
    s.Ready { srcs := [res, o], dsts := [d], iso := true } →
    let s2 := (s.after res).after o
    let idx := (s.val res).toNat
    let off := ((s.after res).val o).toNat * 2 ^ scale.toNat
    let s3 := s2.used idx
    s2.resourceOk idx off t.size 1 r → s3.translates (resVbase r + off) t.size 1 ps →
    let p := pathOf s.act.tenant r ps
    let op : Op := { srcs := [res, o], dsts := [d], iso := true }
    (∀ bs, s3.rdCached p = some (bs, false) →
      exec (.ldg scale t o res d) s = .next (((s3.rdTouch p.keys).give d (loaded t (leNat bs))).retire op .next))
    ∧ (∀ bs, s3.rdCached p = some (bs, true) →
      exec (.ldg scale t o res d) s = .next ((s.used idx).takeTrap s.half.pc
        { code := 0x28, reason := 1, faddr := resFaddr idx off, place := some (s3.placeOf idx off p) }))
    ∧ (s3.rdCached p = none → s3.outstanding s.cur < 16 →
      exec (.ldg scale t o res d) s = .next (((s3.bump.toSlice { src := s3.src, what := .load s3.fresh p.keys, parts := p }).pend
        { id := s3.fresh, d := d, size := t.size, signed := t.signed, pc := s.half.pc, faddr := resFaddr idx off,
          place := some (s3.placeOf idx off p) }).retire op .next)))
  ∧ (∀ (s : State) (scale : BitVec 3) (t : MemType) (o res x : Reg) (r : Rec512) (ps : List Part'),
    s.Ready { srcs := [x, res, o], iso := true } →
    let s3 := ((s.after x).after res).after o
    let idx := ((s.after x).val res).toNat
    let off := (((s.after x).after res).val o).toNat * 2 ^ scale.toNat
    let s4 := s3.used idx
    s3.resourceOk idx off t.size 2 r → s4.translates (resVbase r + off) t.size 2 ps →
      exec (.stg scale t o res x) s =
        .next ((s4.posts (pathOf s.act.tenant r ps) (leBytes t.size (s.val x).toNat)).retire { srcs := [x, res, o], iso := true } .next))

/-- R126 to R128: every atomic, at both widths and in all three spaces of its address word.
The model's choice: what the message of kind 5 of a bay-remote atomic carries (log 10), and what follows an atomic is ordered behind all
earlier accesses of the partition (log 5). -/
def Obligations.AtomicResults : Prop :=  AmoUniform .amoSwap 0 true (fun _ _ v _ => v) ∧ AmoUniform .amoAdd 1 true (fun _ o v _ => o + v)
  ∧ AmoUniform .amoAnd 2 true (fun _ o v _ => o &&& v) ∧ AmoUniform .amoOr 3 true (fun _ o v _ => o ||| v)
  ∧ AmoUniform .amoXor 4 true (fun _ o v _ => o ^^^ v)
  ∧ AmoUniform .amoMaxI 5 true (fun _ o v _ => if o.toInt < v.toInt then v else o)
  ∧ AmoUniform .amoMinI 6 true (fun _ o v _ => if v.toInt < o.toInt then v else o)
  ∧ AmoUniform .amoMaxN 7 false (fun _ o v _ => if o.toNat < v.toNat then v else o)
  ∧ AmoUniform .amoMinN 8 false (fun _ o v _ => if v.toNat < o.toNat then v else o)
  ∧ AmoUniform .amoCas 9 true (fun _ o v c => if o = c then v else o)
  ∧ AmoOwn .amoFadd 4 (fun old v _ =>
      let r := fAdd f32 .rne (old % 2 ^ 32) (v % 2 ^ 32)
      (if f32.isNaN r.1 then 0x7FC00000 else r.1, BitVec.ofNat 64 (old % 2 ^ 32), r.2))
  ∧ AmoBay .amoFadd 10 false ∧ AmoGlobal .amoFadd 10 false

/-- R127, R128: each of the eleven atomics is an illegal operand where its address word is malformed, and faults where it is not aligned to its size:
with reason 6 in the own window and in that of another tile of the bay, with reason 7 in main memory.
R127: the three spaces of an address word and the bits each requires to be zero; every other word is malformed. -/
def Obligations.AtomicFaults : Prop :=
  (∀ (s : State) (w : AmoWidth) (i : Reg → Reg → Reg → Instr) (b a d : Reg), AmoForm w i → s.Ready (opAB b a d) →
     let s2 := (s.after a).after b
     let n := amoSize w.is64
     (addrWord (s.val a) = .bad → exec (i b a d) s = .next (s.takeTrap s.half.pc { code := 0x21, faddr := s.wordAtPc 4 }))
     ∧ (∀ ea, addrWord (s.val a) = .loc ea → s2.inWindow s.cur ea n .store → ea % n ≠ 0 →
       exec (i b a d) s = .next (s.takeTrap s.half.pc { code := 0x25, reason := 6, faddr := spadFaddr ea 0 6 }))
     ∧ (∀ ti ea, addrWord (s.val a) = .bay ti ea → s2.bayOpen ti → s2.inWindow (bayTile (bayOf s.cur) ti) ea n .remoteStore → ea % n ≠ 0 →
       exec (i b a d) s = .next (s.takeTrap s.half.pc { code := 0x25, reason := 6, faddr := spadFaddr ea ti 6 }))
     ∧ (∀ idx off r, addrWord (s.val a) = .glob idx off → s.reflexSide = false → s2.resourceOk idx off n 4 r → off % n ≠ 0 →
       exec (i b a d) s = .next ((s.used idx).takeTrap s.half.pc { code := 0x26, reason := 7, faddr := resFaddr idx off })))
  ∧
  (∀ (ea ti idx off : Nat), ea < 2 ^ 20 → ti < 16 → idx < 2 ^ 12 → off < 2 ^ 48 →
     addrWord (BitVec.ofNat 64 ea) = .loc ea
     ∧ addrWord (BitVec.ofNat 64 (2 ^ 62 + ti * 2 ^ 52 + ea)) = .bay ti ea
     ∧ addrWord (BitVec.ofNat 64 (2 ^ 63 + idx * 2 ^ 50 + off)) = .glob idx off
     ∧ ∀ w : Word, addrWord w ≠ .bad → (∃ e, e < 2 ^ 20 ∧ w = BitVec.ofNat 64 e)
         ∨ (∃ t e, t < 16 ∧ e < 2 ^ 20 ∧ w = BitVec.ofNat 64 (2 ^ 62 + t * 2 ^ 52 + e))
         ∨ (∃ i o, i < 2 ^ 12 ∧ o < 2 ^ 48 ∧ w = BitVec.ofNat 64 (2 ^ 63 + i * 2 ^ 50 + o)))

/-- R297, R298, R300, R132: a fence completes when its vector part is idle, its loads have returned (acquire) and its stores are performed
at the scope (release); what follows it is ordered behind it; of device scope or wider it removes the tenant's lines from the read cache. cinv removes
the lines of its access, cinv.all every line of the tenant.
R298: a fence that must wait, for the vector stream, for loads or for stores, takes no effect but its wait (and, at device scope, the
probes it sends).
R299, R127: ld.acq and st.rel in the three spaces: aligned, within the window, loads returned (acquire) or stores performed
(release); sys outside space 2, a malformed address word, and cinv outside space 2 are illegal operands.
The model's choices: an order point puts what follows behind every earlier access of the partition (log 5), and a wait leaves the effects
that its rule gives before it (log 14). -/
def Obligations.Fences : Prop :=
  ((∀ (s : State) (scope : Scope) (vec : Bool) (kind : FenceKind), s.Ready {} →
     (vec = true → s.half.vq = [] ∧ s.half.boundTrap = none) → (kind ≠ .rel → s.half.loads = []) →
     (kind ≠ .acq → s.releaseStop vec scope.code = none) →
       exec (.fence scope vec kind) s =
         .next ((if 3 ≤ scope.code then s.ordered.rdInvalidate s.cur s.act.tenant else s.ordered).retire {} .next))
   ∧ (∀ s : State, s.Ready { iso := true } → exec .cinvAll s = .next ((s.rdInvalidate s.cur s.act.tenant).retire { iso := true } .next))
   ∧ (∀ (s : State) (a : Reg) (idx off : Nat) (r : Rec512) (ps : List Part'), s.Ready { srcs := [a], iso := true } →
       addrWord (s.val a) = .glob idx off →
       let s2 := (s.after a).used idx
       (s.after a).resourceOk idx off 1 1 r → s2.translates (resVbase r + off) 1 1 ps →
         exec (.cinv a) s = .next ((s2.modTile s.cur fun x => { x with rdcache := x.rdcache.filter fun y =>
           !(decide (y.tenant = s.act.tenant) && (linesOf (pathOf s.act.tenant r ps).keys).contains y.line) }).retire
             { srcs := [a], iso := true } .next)))
  ∧
  (∀ (s : State) (scope : Scope) (vec : Bool) (kind : FenceKind), s.Ready {} →
     (vec = true → s.half.vq ≠ [] → exec (.fence scope vec kind) s = .next (s.setSlot { s.slot with waiting := true, waitOn := .vector }))
     ∧ ((vec = true → s.half.vq = [] ∧ s.half.boundTrap = none) →
       (kind ≠ .rel → s.half.loads ≠ [] →
         exec (.fence scope vec kind) s = .next (s.setSlot { s.slot with waiting := true, waitOn := .other }))
       ∧ (∀ f, kind ≠ .acq → (kind ≠ .rel → s.half.loads = []) → s.releaseStop vec scope.code = some f →
         exec (.fence scope vec kind) s = .next ((f s).setSlot { (f s).slot with waiting := true, waitOn := .other }))))
  ∧
  (∀ (s : State) (t : MemType) (sys : Bool) (a r : Reg),
     let illegal (u : State) : State := u.takeTrap u.half.pc { code := 0x21, faddr := u.wordAtPc 4 }
     let near (w : Word) : Prop := (∃ ea, addrWord w = .loc ea) ∨ ∃ ti ea, addrWord w = .bay ti ea
     (s.Ready (opA a r) → addrWord (s.val a) = .bad ∨ (sys = true ∧ near (s.val a)) → exec (.ldAcq sys t a r) s = .next (illegal s))
     ∧ (s.Ready { srcs := [r, a] } → addrWord ((s.after r).val a) = .bad ∨ (sys = true ∧ near ((s.after r).val a)) →
         exec (.stRel sys t a r) s = .next (illegal s))
     ∧ (s.Ready { srcs := [a], iso := true } → addrWord (s.val a) = .bad ∨ near (s.val a) → exec (.cinv a) s = .next (illegal s)))
  ∧
  ((∀ (s : State) (t : MemType) (a d : Reg) (ea : Nat), s.Ready (opA a d) → addrWord (s.val a) = .loc ea → ea % t.size = 0 →
     let s1 := s.after a
     s1.inWindow s.cur ea t.size .load → s1.readable ea t.size → s.half.loads = [] →
       exec (.ldAcq false t a d) s =
         .next (((s1.reads ea t.size).ordered.give d (loaded t (s1.ownNat ea t.size))).retire (opA a d) .next))
   ∧ (∀ (s : State) (t : MemType) (a d : Reg) (ti ea : Nat), s.Ready (opA a d) → addrWord (s.val a) = .bay ti ea → ea % t.size = 0 →
     let s1 := s.after a
     let tgt := bayTile (bayOf s.cur) ti
     s1.bayOpen ti → s1.inWindow tgt ea t.size .load → s.half.loads = [] → (s1.tile s.cur).loadsOut < 8 →
       exec (.ldAcq false t a d) s = .next (((s1.ordered.bump.toBay tgt (.load s.cur s.ctx s.share s.fresh ea t.size) s.fresh true).pend
         { id := s.fresh, d := d, blocking := true, acq := true, size := t.size, signed := t.signed, pc := s.half.pc, faddr := spadFaddr ea ti 0,
           target := some tgt, global := false }).retire (opA a d) .next))
   ∧ (∀ (s : State) (sys : Bool) (t : MemType) (a d : Reg) (idx off : Nat) (r : Rec512) (ps : List Part'), s.Ready (opA a d) →
     addrWord (s.val a) = .glob idx off → s.reflexSide = false → off % t.size = 0 →
     let s2 := (s.after a).used idx
     let p := pathOf s.act.tenant r ps
     (s.after a).resourceOk idx off t.size 1 r → s2.translates (resVbase r + off) t.size 1 ps → s.half.loads = [] →
     (∀ bs, s2.ordered.rdCached p = some (bs, false) →
       exec (.ldAcq sys t a d) s =
         .next ((((s2.ordered.rdTouch p.keys).give d (loaded t (leNat bs))).rdInvalidate s.cur s.act.tenant).retire (opA a d) .next))
     ∧ (s2.ordered.rdCached p = none → s2.ordered.outstanding s.cur < 16 →
       exec (.ldAcq sys t a d) s = .next (((s2.ordered.bump.toSlice
         { src := s2.src, what := .load s2.fresh p.keys, parts := p.map fun x => { x with rc := false } }).pend
         { id := s2.fresh, d := d, blocking := true, acq := true, inv := true, size := t.size, signed := t.signed, pc := s.half.pc,
           faddr := resFaddr idx off, place := some (s2.ordered.placeOf idx off p) }).retire (opA a d) .next)))
   ∧ (∀ (s u : State) (t : MemType) (a r : Reg) (ea : Nat), s.Ready { srcs := [r, a] } → addrWord ((s.after r).val a) = .loc ea →
     ea % t.size = 0 →
     let s2 := (s.after r).after a
     s2.inWindow s.cur ea t.size .store → s2.releaseStop false 0 = none → s2.ordered.ownClear ea t.size = true → s2.ordered.logs ea t.size u →
       exec (.stRel false t a r) s = .next ((u.storeAt ea (leBytes t.size (s.val r).toNat)).retire { srcs := [r, a] } .next))
   ∧ (∀ (s : State) (t : MemType) (a r : Reg) (ti ea : Nat), s.Ready { srcs := [r, a] } → addrWord ((s.after r).val a) = .bay ti ea →
     ea % t.size = 0 →
     let s2 := (s.after r).after a
     let tgt := bayTile (bayOf s.cur) ti
     s2.bayOpen ti → s2.inWindow tgt ea t.size .remoteStore → s2.releaseStop false 1 = none →
       exec (.stRel false t a r) s = .next ((s2.ordered.bump.toBay tgt
         (.store s.cur s.ctx s.share s.fresh ea (leBytes t.size (s.val r).toNat)) s.fresh false).spent.retire { srcs := [r, a] } .next))
   ∧ (∀ (s : State) (sys : Bool) (t : MemType) (a x : Reg) (idx off : Nat) (r : Rec512) (ps : List Part'), s.Ready { srcs := [x, a] } →
     addrWord ((s.after x).val a) = .glob idx off → s.reflexSide = false → off % t.size = 0 →
     let s2 := (s.after x).after a
     let s3 := s2.used idx
     s2.resourceOk idx off t.size 2 r → s3.translates (resVbase r + off) t.size 2 ps → s3.releaseStop false (if sys then 4 else 3) = none →
       exec (.stRel sys t a x) s = .next (((s3.ordered.posts (pathOf s.act.tenant r ps) (leBytes t.size (s.val x).toNat)).rdInvalidate
         s.cur s.act.tenant).retire { srcs := [x, a] } .next)))

/-- R319, R320: the sending forms append one item to the out-buffer where it has room: the header of R304 with the sender's tile word,
tenant and launch, the body with its poison mask; reading a poisoned body consumes nothing.
R311, R389: a sending form that finds no room takes the catchable trap 0x10, whose faddr holds the bytes that its item needs. -/
def Obligations.MessageSends : Prop :=
  ((∀ (s : State) (rep : Bool) (b a : Reg) (t : Nat), s.Ready { srcs := [a, b] } →
     let s2 := (s.after a).after b
     let tw := s.val a
     let pw := (s.after a).val b
     onlyBits tw [(10, 0), (21, 16)] = true → s2.bodyOk pw 0 → s2.resolve (wfield tw 10 0) = some t → s2.outRoom (16 + wfield pw 39 32) = true →
       exec (.msgSend rep b a) s = .next (((s2.bodyRead pw).items (16 + wfield pw 39 32) (.msgs [{ s2.newMsg with
         kind := 0, vnet := if rep then 1 else 0, chan := wfield tw 21 16, dest := BitVec.ofNat 11 (wfield tw 10 0), dst := t,
         body := s2.body pw, pmask := (s2.bodyRead pw).bodyMask pw }])).retire { srcs := [a, b] } .next))
   ∧ (∀ (s : State) (k : BitVec 3) (rep : Bool) (a : Reg) (t : Nat), s.Ready { srcs := [a] } →
     let s1 := s.after a
     let tw := s.val a
     let n := k.toNat + 1
     onlyBits tw [(10, 0), (21, 16)] = true → s1.resolve (wfield tw 10 0) = some t → s1.outRoom (16 + 8 * n) = true →
       exec (.msgSendn k rep a) s = .next ((s1.items (16 + 8 * n) (.msgs [{ s1.newMsg with
         kind := 0, vnet := if rep then 1 else 0, chan := wfield tw 21 16, dest := BitVec.ofNat 11 (wfield tw 10 0), dst := t,
         body := wordsBody (s1.half.n.toList.take n), pmask := BitVec.ofNat 30 (s1.half.npoison.toNat % 2 ^ n) }])).retire { srcs := [a] } .next))
   ∧ (∀ (s : State) (a : Reg) (t : Nat), s.Ready { srcs := [a] } →
     let s1 := s.after a
     let tw := s.val a
     onlyBits tw [(10, 0)] = true → s1.resolve (wfield tw 10 0) = some t → s1.outRoom 32 = true →
       exec (.msgSpawn a) s = .next ((s1.items 32 (.msgs [{ s1.newMsg with
         kind := 1, vnet := 0, dest := BitVec.ofNat 11 (wfield tw 10 0), dst := t,
         body := wordsBody [s1.half.e.get 0, s1.half.e.get 1, s1.half.e.get 2] }])).retire { srcs := [a] } .next))
   ∧ (∀ (s : State) (b : Reg), s.Ready { srcs := [b] } →
     let s1 := s.after b
     let pw := s.val b
     s1.bodyOk pw 0 → s1.outRoom (16 + wfield pw 39 32) = true →
       exec (.msgHost b) s = .next (((s1.bodyRead pw).items (16 + wfield pw 39 32) (.host { s1.newMsg with
         kind := 0, vnet := 3, dest := 0x7FF#11, body := s1.body pw, pmask := (s1.bodyRead pw).bodyMask pw })).retire { srcs := [b] } .next))
   ∧ (∀ (s : State) (rep : Bool) (b a : Reg) (t : Nat), s.Ready { srcs := [a, b] } →
     let s2 := (s.after a).after b
     let tw := s.val a
     let pw := (s.after a).val b
     onlyBits tw [(10, 0), (51, 32)] = true → wfield tw 51 32 % 8 = 0 → s2.bodyOk pw 8 → s2.resolve (wfield tw 10 0) = some t →
     s2.outRoom (16 + wfield pw 39 32) = true →
       exec (.msgPut rep b a) s = .next (((s2.bodyRead pw).items (16 + wfield pw 39 32) (.msgs [{ s2.newMsg with
         kind := 2, vnet := if rep then 1 else 0, dest := BitVec.ofNat 11 (wfield tw 10 0), dst := t, addr := wfield tw 51 32,
         body := s2.body pw, pmask := (s2.bodyRead pw).bodyMask pw }])).retire { srcs := [a, b] } .next)))
  ∧
  (∀ (s : State) (rep : Bool) (b a : Reg) (t : Nat),
     let full (n : Nat) : Host.Outcome State Fault Refusal := .next (s.takeTrap s.half.pc { code := 0x10, faddr := BitVec.ofNat 64 n })
     let s1 := s.after a
     let s2 := s1.after b
     let tw := s.val a
     let pw := s1.val b
     let n := 16 + wfield pw 39 32
     (s.Ready { srcs := [a, b] } → s2.resolve (wfield tw 10 0) = some t → s2.outRoom n = false →
       (onlyBits tw [(10, 0), (21, 16)] = true → s2.bodyOk pw 0 → exec (.msgSend rep b a) s = full n)
       ∧ (onlyBits tw [(10, 0), (51, 32)] = true → wfield tw 51 32 % 8 = 0 → s2.bodyOk pw 8 → exec (.msgPut rep b a) s = full n))
     ∧ (s.Ready { srcs := [a] } → s1.resolve (wfield tw 10 0) = some t →
       (∀ k : BitVec 3, onlyBits tw [(10, 0), (21, 16)] = true → s1.outRoom (16 + 8 * (k.toNat + 1)) = false →
         exec (.msgSendn k rep a) s = full (16 + 8 * (k.toNat + 1)))
       ∧ (onlyBits tw [(10, 0)] = true → s1.outRoom 32 = false → exec (.msgSpawn a) s = full 32))
     ∧ (s.Ready { srcs := [a] } → s1.bodyOk tw 0 → s1.outRoom (16 + wfield tw 39 32) = false →
       exec (.msgHost a) s = full (16 + wfield tw 39 32)))

/-- R321: msg.arg reads a clean payload word, zero beyond the body, and consumes a poisoned one; msg.hdr reads the header's two words;
msg.mask sets or clears the mask of a channel of the activation's tenant.
R322, R326, R378: rank, size and members of a group of the launch, of which a seizing handler is none.
R324 to R326: grp.send appends one item with a message for each member in increasing rank; bar.arr appends an arrival of 32 bytes to
the group's home.
The model's choice: the second word of a barrier arrival's body is zero (log 21). -/
def Obligations.MessagesAndGroups : Prop :=
  ((∀ (s : State) (b a : Reg), s.Ready { srcs := [b], dsts := [a] } → (s.val b).toNat ≤ 29 →
     let i := (s.val b).toNat
     (s.act.msg.pmask.getLsbD i = false → exec (.msgArg b a) s =
       .next (((s.after b).give a (if 8 * i + 8 ≤ s.act.msg.body.length then
         BitVec.ofNat 64 (leNat ((s.act.msg.body.drop (8 * i)).take 8)) else 0#64)).retire { srcs := [b], dsts := [a] } .next))
     ∧ (s.act.msg.pmask.getLsbD i = true → exec (.msgArg b a) s =
       .next (s.takeTrap s.half.pc { code := 0x28, reason := 2, faddr := s.val b })))
   ∧ (∀ (s : State) (b a : Reg), s.Ready { srcs := [b], dsts := [a] } → (s.val b).toNat ≤ 1 →
       exec (.msgHdr b a) s = .next (((s.after b).give a
         (BitVec.ofNat 64 (s.act.msg.header / 2 ^ (64 * (s.val b).toNat)))).retire { srcs := [b], dsts := [a] } .next))
   ∧ (∀ (s : State) (c : BitVec 6) (b : Reg), s.Ready { srcs := [b] } → (s.val b).toNat ≤ 1 → (s.after b).ownsChannel c.toNat = true →
       exec (.msgMask c b) s = .next (((s.after b).modTile s.cur fun t => { t with
         handlers := t.handlers.set c.toNat { t.handlers.get c.toFin with mask := decide (s.val b = 1#64) } c.isLt }).retire { srcs := [b] } .next)))
  ∧
  ((∀ (s : State) (b a : Reg), s.Ready { srcs := [b], dsts := [a] } → (s.val b).toNat < 256 →
     let s1 := s.after b
     let g := s1.launch.group (s.val b).toNat
     let mine := s.share ≠ 2 ∧ g.getLsbD s1.logicalTile = true
     (mine → exec (.grpRank b a) s = .next ((s1.give a
         (BitVec.ofNat 64 ((List.range 512).countP fun x => g.getLsbD x && decide (x < s1.logicalTile)))).retire { srcs := [b], dsts := [a] } .next))
     ∧ (¬ mine → exec (.grpRank b a) s = .next ((s1.give a (BitVec.allOnes 64)).retire { srcs := [b], dsts := [a] } .next))
     ∧ (mine → exec (.grpSize b a) s =
         .next ((s1.give a (BitVec.ofNat 64 ((List.range 512).countP fun x => g.getLsbD x))).retire { srcs := [b], dsts := [a] } .next))
     ∧ (¬ mine → exec (.grpSize b a) s = .next (s.takeTrap s.half.pc { code := 0x21, faddr := s.wordAtPc 4 })))
   ∧ (∀ (s : State) (b a : Reg), s.Ready { srcs := [b], dsts := [a] } →
     let s1 := s.after b
     let w := s.val b
     onlyBits w [(7, 0), (24, 16)] = true → s1.member (wfield w 7 0) = true →
       exec (.grpTile b a) s = .next ((s1.give a (match (members (s1.launch.group (wfield w 7 0)))[wfield w 24 16]? with
         | some l => BitVec.ofNat 64 l
         | none => BitVec.allOnes 64)).retire { srcs := [b], dsts := [a] } .next)))
  ∧
  ((∀ (s : State) (rep : Bool) (b a : Reg), s.Ready { srcs := [a, b] } →
     let s2 := (s.after a).after b
     let gw := s.val a
     let pw := (s.after a).val b
     onlyBits gw [(7, 0), (21, 16)] = true → s2.member (wfield gw 7 0) = true → s2.bodyOk pw 0 → s2.outRoom (16 + wfield pw 39 32) = true →
       exec (.grpSend rep b a) s = .next (((s2.bodyRead pw).items (16 + wfield pw 39 32) (.msgs ((members (s2.launch.group (wfield gw 7 0))).map fun l =>
         { s2.newMsg with
           kind := 0, vnet := if rep then 1 else 0, chan := wfield gw 21 16, body := s2.body pw, pmask := (s2.bodyRead pw).bodyMask pw,
           dest := memberWord s.cur l, dst := s2.memberTile l }))).retire { srcs := [a, b] } .next))
   ∧ (∀ (s : State) (a : Reg), s.Ready { srcs := [a] } →
     let s1 := s.after a
     let w := s.val a
     let home := (members (s1.launch.group (wfield w 7 0))).headD 0
     onlyBits w [(7, 0), (26, 16), (37, 32)] = true → s1.member (wfield w 7 0) = true → s1.outRoom 32 = true →
       exec (.barArr a) s = .next ((s1.items 32 (.msgs [{ s1.newMsg with
         kind := 3, vnet := 2, chan := wfield w 37 32, dest := memberWord s.cur home, dst := s1.memberTile home,
         body := wordsBody [w, 0#64] }])).retire { srcs := [a] } .next)))

/-- R255, R259, R262, R271: an mx form within its limits takes its place among the commands of its half, with the shape that a prefix has
changed and the rounding mode captured.
R276, R278, R280: mx.stat waits for the activation's commands, reads flags and origin, and clears them where bit 0 asks it; mx.bay
needs the whole bay and is buffered. -/
def Obligations.EngineForms : Prop :=
  ((∀ (s : State) (a : Reg), s.Ready { srcs := [a] } → (s.after a).commandOk 0 (s.val a) 0#64 →
     exec (.mxLdb a) s = .next (((s.after a).commands 0 false 0 (s.val a) 0#64 0#64).retire { srcs := [a] } .next))
   ∧ (∀ (s : State) (nt : Bool) (c : BitVec 6) (b a : Reg), s.Ready { srcs := [a, b], pfx := mmaPfx, illegal := chanIllegal nt c } →
     let s2 := (s.after a).after b
     let y := (s.after a).val b
     s2.commandOk 1 (s.val a) (mmaShape s.half.pfx y) →
       exec (.mxMma nt c b a) s = .next ((s2.commands 1 nt c.toNat (s.val a) (mmaShape s.half.pfx y) y).retire { srcs := [a, b] } .next))
   ∧ (∀ (s : State) (nt : Bool) (c : BitVec 6) (b : Reg), s.Ready { srcs := [b], illegal := chanIllegal nt c } →
     (s.after b).commandOk 2 0#64 (s.val b) →
       exec (.mxZero nt c b) s = .next (((s.after b).commands 2 nt c.toNat 0#64 (s.val b) (s.val b)).retire { srcs := [b] } .next))
   ∧ (∀ (s : State) (nt : Bool) (c : BitVec 6) (b a : Reg), s.Ready { srcs := [a, b], pfx := rdPfx, illegal := chanIllegal nt c } →
     let s2 := (s.after a).after b
     let y := (s.after a).val b
     s2.commandOk 3 (s.val a) (rdShape s.half.pfx y) →
       exec (.mxRd nt c b a) s = .next ((s2.commands 3 nt c.toNat (s.val a) (rdShape s.half.pfx y) y).retire { srcs := [a, b] } .next))
   ∧ (∀ (s : State) (nt : Bool) (c : BitVec 6) (b a : Reg), s.Ready { srcs := [a, b], illegal := chanIllegal nt c } →
     let s2 := (s.after a).after b
     let y := (s.after a).val b
     s2.commandOk 4 (s.val a) y →
       exec (.mxLdacc nt c b a) s = .next ((s2.commands 4 nt c.toNat (s.val a) y y).retire { srcs := [a, b] } .next))
   ∧ (∀ (s : State) (a : Reg), s.Ready { srcs := [a] } → (s.after a).commandOk 7 (s.val a) 0#64 →
     exec (.mxCfg a) s = .next (((s.after a).commands 7 false 0 (s.val a) 0#64 0#64).retire { srcs := [a] } .next)))
  ∧
  ((∀ (s : State) (b a : Reg), s.Ready { srcs := [b], dsts := [a] } → onlyBits (s.val b) [(0, 0)] = true →
     let s1 := s.after b
     let e := (s.tile s.cur).engine s1.share
     let w := BitVec.ofNat 64 (e.flags.toNat + (match e.origin with | some x => 256 + x.toNat * 1024 | none => 0))
     s1.mxPending s.cur s.act.id = false →
       (s.val b = 0#64 → exec (.mxStat b a) s = .next ((s1.give a w).retire { srcs := [b], dsts := [a] } .next))
       ∧ (s.val b = 1#64 → exec (.mxStat b a) s =
           .next (((s1.modEngine s.cur s1.share fun e => { e with flags := 0#5, origin := none }).give a w).retire { srcs := [b], dsts := [a] } .next)))
   ∧ (∀ (s : State) (nt : Bool) (c : BitVec 6) (b a : Reg), s.Ready { srcs := [a, b], pfx := mmaPfx, illegal := chanIllegal nt c } →
     let s2 := (s.after a).after b
     let y := (s.after a).val b
     let sh := mmaShape s.half.pfx y
     s2.mxWordsOk s.cur s2.share 5 (s.val a) sh = true → s2.mxLimitsOk s.cur s2.share 5 (s.val a) sh = true → s2.share ≠ 2 →
     ((s2.tile s.cur).share s2.share).bayMask = 0xFFFF#16 →
     s2.mxExtentFault s.cur s2.share 5 (s.val a) sh = none → s2.outRoom 64 = true →
       exec (.mxBay nt c b a) s = .next ((s2.bump.items 64 (.bay {
         uid := s.fresh, sub := 5, a := s.val a, b := sh, b0 := y, notify := if nt then some c.toNat else none, tenant := s.act.tenant,
         launch := s.act.launch, pid := s.act.pid, prio := s.act.prio, core := s2.tileWord.toNat % 1024,
         fork := some (s.cur, s.ctx, s.fresh) })).retire { srcs := [a, b] } .next)))

/-- R88, R94 to R96, R105: every copy and gather form whose checks pass takes its channel's identifier, which it writes and pushes, and is
released or, where it writes main memory or another tile, buffered.
R90, R103, R104: cp.cfg sets the stage limits of an own channel and answers the old ones, cp.crec reads the cancel record, cp.cancel
takes the activation's buffered transfers of the range out of the out-buffer and tells the released ones to stop.
The model's choices: reserved bits of a notification or follow-on word, and strides, are looked at only where they are used (log 20); a
gather's table is checked with size 0, the index list's window before the local rows', and several cancelled transfers enter the cancel
record in the out-buffer's order (log 66). -/
def Obligations.CopyForms : Prop :=
  (∀ (s : State) (chain nt : Bool) (c : BitVec 4) (b a : Reg),
     CopyIssues (.cpGl chain nt c a) { dsts := [a], iso := true } .gl c nt chain a s s s.cur s.cur
     ∧ CopyIssues (.cpGb chain nt c a) { dsts := [a], iso := true } .gb c nt chain a s s s.cur s.cur
     ∧ CopyIssues (.cpLg nt c a) { dsts := [a], iso := true } .lg c nt false a s s s.cur s.cur
     ∧ CopyIssues (.cpGg nt c a) { dsts := [a], iso := true } .gg c nt false a s s s.cur s.cur
     ∧ CopyIssues (.cpLb chain nt c a) { dsts := [a] } .lb c nt chain a s s s.cur s.cur
     ∧ CopyIssues (.gxLd chain nt c a) { dsts := [a], iso := true } .gxld c nt chain a s s s.cur s.cur
     ∧ CopyIssues (.gxSt nt c a) { dsts := [a], iso := true } .gxst c nt false a s s s.cur s.cur
     ∧ CopyIssues (.gxLdb chain nt c a) { dsts := [a], iso := true } .gxldb c nt chain a s s s.cur s.cur
     ∧ (∀ t, onlyBits (s.val b) [(10, 0)] = true → (s.after b).resolve (wfield (s.val b) 10 0) = some t →
         CopyIssues (.cpLs chain nt c b a) { srcs := [b], dsts := [a] } .ls c nt chain a s (s.after b) s.cur t
         ∧ CopyIssues (.cpLsb chain nt c b a) { srcs := [b], dsts := [a] } .lsb c nt chain a s (s.after b) s.cur t
         ∧ CopyIssues (.cpPl chain nt c b a) { srcs := [b], dsts := [a] } .pl c nt chain a s (s.after b) t s.cur))
  ∧
  ((∀ (s : State) (c : BitVec 4) (b a : Reg), s.Ready { srcs := [b], dsts := [a] } →
     let s1 := s.after b
     let x := s.val b
     let k := (s.tile s.cur).chan s1.share c.toNat
     s1.ownsCopyChan c.toNat = true →
     (onlyBits x [(6, 4), (2, 0)] = true → wfield x 2 0 ≤ wfield x 6 4 →
       exec (.cpCfg c b a) s = .next (((s1.modChan s.cur s1.share c.toNat fun k => { k with min := wfield x 2 0 + 1, max := wfield x 6 4 + 1 }).give a
         (BitVec.ofNat 64 (k.min - 1 + (k.max - 1) * 16))).retire { srcs := [b], dsts := [a] } .next))
     ∧ (x.toNat ≤ 8 → exec (.cpCrec c b a) s =
         .next ((s1.give a (if x.toNat = 8 then k.ccount else k.crec.getD x.toNat (BitVec.allOnes 64))).retire { srcs := [b], dsts := [a] } .next)))
   ∧ (∀ (s : State) (c : BitVec 4) (b a : Reg), s.Ready { srcs := [a, b] } →
     let s2 := (s.after a).after b
     let lo := (s.val a).toNat
     let hi := ((s.after a).val b).toNat
     let inRange (x : Transfer) : Bool :=
       decide (x.tile = s.cur) && decide (x.part = s2.share.val) && decide (x.chan = c.toNat) && decide (x.tenant = s.act.tenant)
         && decide (lo ≤ x.id.toNat) && decide (x.id.toNat ≤ hi)
     let s3 := s2.dropBuffered s.cur s2.share s.act.id inRange
     s2.ownsCopyChan c.toNat = true →
       exec (.cpCancel c b a) s =
         .next (({ s3 with transfers := s3.transfers.map fun x => Transfer.cancelIf x inRange }).spent.retire { srcs := [a, b] } .next)))

/-- R142 to R146: a publication is released after its release part, or buffered; a get whose lines are logged and an age hold the context
until their value returns; an arm sets or clears the slot's notification target; a configuration is read, or answered with its status and
written where that is 0.
R135, R142 to R146: the Transom faults of tm.pub: reason 1 for a misaligned address, 2 for a slot whose masks do not permit the
publication, 3 for a mirrored slot on the spare; the control word stands in faddr and nothing else happens.
The model's choices: tm.pub waits as a release before it is buffered, and tm.cfg reads a slot of any tenant (log 37). -/
def Obligations.TransomForms : Prop :=
  ((∀ (s : State) (b : Reg), s.Ready { srcs := [b] } →
     let s1 := s.after b
     let w := s.val b
     let slot := wfield w 11 0
     let a := wfield w 51 32
     let c := (s.slotT slot).cfg
     let n := cfgSize c
     let s2 := s1.reads a n
     let p : Pub := {
       slot := slot, payload := s1.readWin s.cur s1.share a n,
       poison := (List.range ((n + 63) / 64)).filter fun k => s2.winPoisoned s.cur s1.share (a + 64 * k) (min 64 (n - 64 * k)),
       tenant := s1.act.tenant, launch := s1.act.launch, pid := s1.act.pid, writer := s1.tileWord, host := false,
       reflexSide := s1.reflexSide, src := s.cur }
     onlyBits w [(51, 32), (11, 0)] = true → a % 64 = 0 → s1.inWindow s.cur a n .load → mayWrite c s1.act.tenant s1.reflexSide false = true →
     ¬ (cfgMirror c = true ∧ s.sys.role = 2) → s1.ownClear a n = true →
       (s2.outRoom (16 + n) = true → exec (.tmPub false b) s = .next ((s2.items (16 + n) (.pub p)).retire { srcs := [b] } .next))
       ∧ (s2.releaseStop false 3 = none → exec (.tmPub true b) s = .next ((s2.ordered.releasePub p).spent.retire { srcs := [b] } .next)))
   ∧ (∀ (s u : State) (b a : Reg), s.Ready { srcs := [b], dsts := [a] } →
     let s1 := s.after b
     let w := s.val b
     let slot := wfield w 11 0
     let ea := wfield w 51 32
     let c := (s.slotT slot).cfg
     let n := cfgSize c
     onlyBits w [(51, 32), (11, 0)] = true → ea % 64 = 0 → s1.inWindow s.cur ea ((64 + n : Nat)) .store → s1.ownClear ea (64 + n) = true →
     s1.logs ea (64 + n) u → mayRead c s1.act.tenant s1.reflexSide = true →
       exec (.tmGet b a) s = .next ((({ u.bump with tmq := u.tmq ++ [{
         tile := u.cur, c := u.ctx, sh := u.share, act := u.act.id, tenant := u.act.tenant, reflexSide := u.reflexSide,
         id := u.fresh, slot := slot, get := true, dst := ea, size := n, word := w }] } : State).pend
           { id := u.fresh, d := a, blocking := true, acq := true, global := false, pc := s.half.pc, faddr := w }).retire { srcs := [b], dsts := [a] } .next))
   ∧ (∀ (s : State) (b a : Reg), s.Ready { srcs := [b], dsts := [a] } →
     let s1 := s.after b
     let w := s.val b
     onlyBits w [(11, 0)] = true → mayRead (s.slotT (wfield w 11 0)).cfg s1.act.tenant s1.reflexSide = true →
       exec (.tmAge b a) s = .next ((({ s1.bump with tmq := s.tmq ++ [{
         tile := s.cur, c := s.ctx, sh := s1.share, act := s1.act.id, tenant := s1.act.tenant, reflexSide := s1.reflexSide,
         id := s.fresh, slot := wfield w 11 0, get := false, dst := wfield w 51 32, size := 0, word := w }] } : State).pend
           { id := s.fresh, d := a, blocking := true, acq := true, global := false, pc := s.half.pc, faddr := w }).retire { srcs := [b], dsts := [a] } .next))
   ∧ (∀ (s : State) (b : Reg) (t : Nat), s.Ready { srcs := [b] } →
     let s1 := s.after b
     let w := s.val b
     let x := s.slotT (wfield w 11 0)
     onlyBits w [(63, 63), (37, 32), (26, 16), (11, 0)] = true → s1.resolve (wfield w 26 16) = some t →
     cfgReader x.cfg s1.act.tenant = true →
       exec (.tmArm b) s = .next (((s1.freshKeys (counterKey (wfield w 11 0) + 8) 8).setSlotT (wfield w 11 0) { x with
         arm := if w.getLsbD 63 then some (t, wfield w 37 32, s1.act.tenant, BitVec.ofNat 11 (wfield w 26 16), s1.pid.getD 16)
           else none }).spent.retire { srcs := [b] } .next))
   ∧ (∀ (s u : State) (b a : Reg), s.Ready { srcs := [b], dsts := [a] } →
     let s1 := s.after b
     let w := s.val b
     let ea := wfield w 51 32
     let s2 := s1.senseCfg (wfield w 11 0)
     let v := u.storeAt ea (leBytes 64 (s.slotT (wfield w 11 0)).cfg.toNat)
     let bad := v.sectorPoisoned (cfgKey (wfield w 11 0)) 64
     onlyBits w [(51, 32), (11, 0)] = true → ea % 64 = 0 → s1.inWindow s.cur ea 64 .store → s2.ownClear ea 64 = true → s2.logs ea 64 u →
       (bad = false → exec (.tmCfg true b a) s = .next ((v.give a 0#64).retire { srcs := [b], dsts := [a] } .next))
       ∧ (bad = true → exec (.tmCfg true b a) s = .next ((({ v with poison := nInsert (v.spad v.cur v.share ea / 64) v.poison } : State).give
           a 0#64).retire { srcs := [b], dsts := [a] } .next)))
   ∧ (∀ (s : State) (b a : Reg), s.Ready { srcs := [b], dsts := [a] } →
     let s1 := s.after b
     let w := s.val b
     let ea := wfield w 51 32
     let x := s.slotT (wfield w 11 0)
     let new : Rec512 := BitVec.ofNat 512 (s1.ownNat ea 64)
     let st := cfgStatus x.cfg new s1.act.tenant
     let s2 := (s1.reads ea 64).senseCfg (wfield w 11 0)
     onlyBits w [(51, 32), (11, 0)] = true → ea % 64 = 0 → s1.inWindow s.cur ea 64 .load → s1.readable ea 64 →
       (st = 0 → exec (.tmCfg false b a) s =
         .next (((s2.configureSlot (wfield w 11 0) new).spent.give a 0#64).retire { srcs := [b], dsts := [a] } .next))
       ∧ (st ≠ 0 → exec (.tmCfg false b a) s = .next ((s2.give a (BitVec.ofNat 64 st)).retire { srcs := [b], dsts := [a] } .next))))
  ∧
  (∀ (s : State) (now : Bool) (b : Reg), s.Ready { srcs := [b] } →
     let s1 := s.after b
     let w := s.val b
     let c := (s.slotT (wfield w 11 0)).cfg
     onlyBits w [(51, 32), (11, 0)] = true →
       (wfield w 51 32 % 64 ≠ 0 → exec (.tmPub now b) s = .next (s.takeTrap s.half.pc { code := 0x27, reason := 1, faddr := w }))
       ∧ (wfield w 51 32 % 64 = 0 → s1.inWindow s.cur (wfield w 51 32) (cfgSize c) .load →
           (mayWrite c s1.act.tenant s1.reflexSide false = false →
             exec (.tmPub now b) s = .next (s.takeTrap s.half.pc { code := 0x27, reason := 2, faddr := w }))
           ∧ (mayWrite c s1.act.tenant s1.reflexSide false = true → cfgMirror c = true → s.sys.role = 2 →
             exec (.tmPub now b) s = .next (s.takeTrap s.half.pc { code := 0x27, reason := 3, faddr := w }))))

/-- R137 to R139, R143, R147, R149, R150: the staging of a publication that no earlier one of its sender precedes completes, and it takes its place
behind those staged before it, but ahead of those of its cycle that rank after it; a commit makes the WRITING buffer the NEWEST with the next version;
the end of a pin; an age request; the host's doorbells, of which GETDB reads under a pin; the mirror's install.
The model's choices: the stale bit is set under the flag action only (log 19); a GETDB reads under a pin, and the publications of one
sender commit in the order of their release (log 37); what the Transom does with a slot or a request that R137, R144, R145 and R149 leave
open is log 83. -/
def Obligations.TransomEvents : Prop :=  (∀ (s : State) (n : Nat) (p : Pub), s.pubs[n]? = some p → (∀ q ∈ s.pubs.take n, q.src ≠ p.src) →
    ∃ t, exec (.transomStagingComplete n) s = .next t ∧ t.pubs = s.pubs.eraseIdx n ∧ (t.slotT p.slot).version = (s.slotT p.slot).version
      ∧ ((∀ q ∈ (s.slotT p.slot).staged, q.staged = s.cycle → q.rank ≤ p.rank) →
          (t.slotT p.slot).staged = (s.slotT p.slot).staged ++ [{ p with staged := s.cycle }])
      ∧ (∀ q rest, (s.slotT p.slot).staged = q :: rest → q.staged = s.cycle → p.rank < q.rank →
          (t.slotT p.slot).staged = { p with staged := s.cycle } :: q :: rest))
  ∧ (∀ (s : State) (n : Nat) (p : Pub) (i : Fin 4), (s.slotT n).writing = some p → ((s.slotT n).bufs.get i).role = .writing →
    (∀ k, k < i → ((s.slotT n).bufs.get k).role ≠ .writing) → s.earlierPub p = false →
      ∃ t, exec (.transomCommit n) s = .next t ∧ (t.slotT n).version = (s.slotT n).version + 1#64
        ∧ ((t.slotT n).bufs.get i).role = .newest
        ∧ ((t.slotT n).bufs.get i).hdr = mkHeader p ((s.slotT n).version + 1#64).toNat s.dtime)
  ∧ (∀ (s : State) (n k : Nat) (i : Fin 4) (rest : List (Fin 4 × Nat)), (s.slotT n).pinq = (i, k) :: rest → k < s.cycle →
    ∃ t, exec (.readPinEnd n) s = .next t ∧ ((t.slotT n).bufs.get i).pins = ((s.slotT n).bufs.get i).pins - 1 ∧ (t.slotT n).pinq = rest)
  ∧ (∀ (s : State) (n : Nat) (r : TmReq), s.tmq[n]? = some r → (∀ q ∈ s.tmq.take n, q.tile ≠ r.tile) → r.get = false →
    let s0 := ({ s with tmq := s.tmq.eraseIdx n } : State).senseCfg r.slot
    let x := s.slotT r.slot
    (mayRead x.cfg r.tenant r.reflexSide = false → exec (.transomRequestAccept n) s =
      .next (s0.sendReply r.tile r.c r.id (.refused { code := 0x27, reason := 2, faddr := r.word })))
    ∧ (mayRead x.cfg r.tenant r.reflexSide = true →
      (x.readable s.cycle = none → exec (.transomRequestAccept n) s = .next (s0.sendReply r.tile r.c r.id (.value (BitVec.allOnes 64))))
      ∧ (∀ i, x.readable s.cycle = some i → hdrVersion (x.bufs.get i).hdr ≠ 0 → exec (.transomRequestAccept n) s =
          .next ((s0.readSlot r.slot 0 false).1.sendReply r.tile r.c r.id (.value (BitVec.ofNat 64 (s.dtime - hdrCtime (x.bufs.get i).hdr)))))))
  ∧ (∀ (s : State) (f : Fin 16) (v : Word), s.refuses f = false →
    let slot := wfield v 11 0
    let c := (s.slotT slot).cfg
    let s1 := s.senseCfg slot
    (mayWrite c f false true = true → ¬ (cfgMirror c = true ∧ s.sys.role = 2) →
      exec (.pubdb f v) s = .next (s1.releasePub {
        slot := slot, payload := (List.range (cfgSize c)).map fun i => ((s.fn f).stage[i]?).getD 0#8, poison := [], tenant := f, launch := 0,
        writer := 0x7FF#11, host := true, reflexSide := false, src := 4096 + f }))
    ∧ (cfgReader c f = true → ∀ i, (s.slotT slot).readable s.cycle = some i →
      let s2 := (s1.senseKeys (hdrKey slot i.val) 64).sense ((List.range (cfgSize c)).map (transomKey slot i.val))
      let h0 := ((s.slotT slot).bufs.get i).hdr
      let h := if s2.bufPoison slot i (cfgSize c) = [] then h0 else setRec h0 141 141 1
      let age := s.ageOf h
      let stale := s.isStale c h && decide (cfgStaleAct c = 1)
      let a := hostKey f (s.fn f).getaddr.toNat
      let place (k : Nat) (bs : List Byte) : OutWrite :=
        { src := { tile := 4096 + f, c := 0, pid := 17 }, cells := bs.zipIdx.map fun b => (k + b.2, b.1, 0xFF#8), seq := s.fresh }
      ∃ t, exec (.getdb f v) s = .next t
        ∧ (t.fn f).outbound = (s.fn f).outbound ++
          [place (a + 64) (s.bufBytes slot i (cfgSize c)), place a (leBytes 64 (hdrCopy h age stale).toNat)]
        ∧ ((t.slotT slot).bufs.get i).pins = ((s.slotT slot).bufs.get i).pins + 1 ∧ (t.slotT slot).pinq = (s.slotT slot).pinq ++ [(i, s.cycle)]
        ∧ ∀ k, t.mem.get k = s.mem.get k)
    ∧ (cfgWriter c f = false → exec (.pubdb f v) s = .next (s1.post { type := 9, tenant := f, info := slot, ltile := 0x7FF }))
    ∧ (cfgReader c f = false → exec (.getdb f v) s = .next (s1.post { type := 9, tenant := f, info := slot, ltile := 0x7FF })))
  ∧ (∀ (s : State) (h : BitVec 512) (bs : List (BitVec 8)) (bad : List Nat) (i : Fin 4),
    let x := s.slotT (resBits h 159 148)
    s.sys.role = 2 → x.version.toNat < hdrVersion h → (x.bufs.get i).role = .free → (x.bufs.get i).pins = 0 →
      ∃ t, exec (.mirrorInstall h { bytes := bs, bad := bad }) s = .next t ∧ (t.slotT (resBits h 159 148)).version.toNat = hdrVersion h)

/-- R353, R354, R359, R361, R363: the forms of major 34 that read or change the partition's request table at once, and answer a value.
R311, R355, R358, R360, R361, R365: a step and a fault of a row are buffered; an operation on a key-value page goes to the slices and
holds the context until its value returns; a contribution to a combine is buffered.
The model's choice: the forms act on the table at issue, and a submission takes the lowest free record (log 33). -/
def Obligations.RequestForms : Prop :=
  (∀ (s : State) (b a : Reg) (pid : Nat) (p : Part), s.Ready (opReq b a) →
     let s1 := s.after b
     let w := s.val b
     let ea := wfield w 51 32
     s1.tableIs pid p →
       -- req.sub: the lowest free record takes the image
       (w.toNat % 64 = 0 → s1.inWindow s.cur w.toNat 64 .load → s1.readable w.toNat 64 →
         let r := p.req.submit (BitVec.ofNat 512 (s1.ownNat w.toNat 64)) s1.act.tenant
         exec (.reqSub b a) s = .next ((((s1.reads w.toNat 64).putTable pid r.1).spent.give a r.2).retire (opReq b a) .next))
       -- req.rd: a record is stored in the own window
       ∧ (∀ u, onlyBits w [(11, 0), (51, 32)] = true → ea % 64 = 0 → s1.inWindow s.cur ea 64 .store → s1.ownClear ea 64 = true → s1.logs ea 64 u →
         exec (.reqRd b a) s =
           .next (((u.storeAt ea (leBytes 64 (p.req.recAt (wfield w 11 0)).toNat)).give a 0#64).retire (opReq b a) .next))
       -- req.commit: one to eight tokens for a row (R359)
       ∧ (let n := wfield w 11 9 + 1
         onlyBits w [(8, 0), (11, 9), (51, 32)] = true → ea % 4 = 0 → s1.inWindow s.cur ea (4 * n) .load → s1.readable ea (4 * n) →
         let r := p.req.commit (wfield w 8 0) (s1.ownList ea n) s.dtime
         exec (.reqCommit b a) s = .next ((((s1.reads ea (4 * n)).putTable pid r.1).give a r.2).retire (opReq b a) .next))
       -- req.cfg rows: status 1 where a row at or beyond the new count is held, else from the next step
       ∧ (onlyBits w [(9, 0)] = true → 1 ≤ w.toNat → w.toNat ≤ 512 →
         ((∃ x ∈ p.req.held, w.toNat ≤ x.1) → exec (.reqCfgRows b a) s = .next ((s1.spent.give a 1#64).retire (opReq b a) .next))
         ∧ ((∀ x ∈ p.req.held, x.1 < w.toNat) → exec (.reqCfgRows b a) s =
             .next (((s1.spent.putTable pid { p.req with rowsNext := some w.toNat }).give a 0#64).retire (opReq b a) .next)))
       -- req.cfg stop set
       ∧ (let n := wfield w 8 4
         onlyBits w [(2, 0), (8, 4), (51, 32)] = true → n ≤ 16 → ea % 64 = 0 → s1.inWindow s.cur ea (4 * n) .load →
         s1.readable ea (4 * n) →
         exec (.reqCfgStopset b a) s = .next ((((s1.reads ea (4 * n)).putTable pid { p.req with
           stops := p.req.stops.set (wfield w 2 0 % 8) (s1.ownList ea n) (Nat.mod_lt _ (by decide)) }).spent.give a 0#64).retire
             (opReq b a) .next))
       -- req.cancel, and the free form
       ∧ (∀ free, onlyBits w [(11, 0)] = true →
         let r := p.req.cancel w.toNat free
         exec (.reqCancel free b a) s = .next (((s1.putTable pid r.1).spent.give a (BitVec.ofNat 64 r.2)).retire (opReq b a) .next)))
  ∧
  ((∀ (s : State) (a : Reg), s.Ready { srcs := [a], iso := true } →
     let s1 := s.after a
     let w := s.val a
     (onlyBits w [(7, 0), (21, 16), (51, 32)] = true → wfield w 51 32 % 64 = 0 → s1.member (wfield w 7 0) = true → s1.outRoom 32 = true →
       exec (.reqStep a) s = .next ((s1.items 32 (.reqStep w)).retire { srcs := [a], iso := true } .next))
     ∧ (onlyBits w [(8, 0), (22, 16)] = true → wfield w 22 16 ≠ 0x7F → s1.outRoom 32 = true →
       exec (.reqFault a) s = .next ((s1.items 32 (.reqFault (wfield w 8 0) (wfield w 22 16))).retire { srcs := [a], iso := true } .next)))
   ∧ (∀ (s : State) (b a : Reg), s.Ready (opReq b a) →
     let s1 := s.after b
     let w := s.val b
     let goes (op : Nat) : State := (({ s1.bump with kvq := s.kvq ++ [{
       tile := s.cur, c := s.ctx, id := s.fresh, pid := s1.pid.getD 16, op := op, page := wfield w 19 0, tenant := wfield w 35 32 }] } : State).pend
         { id := s.fresh, d := a, blocking := true, pc := s.half.pc }).spent.retire (opReq b a) .next
     onlyBits w [(19, 0), (35, 32)] = true →
       exec (.reqKvAttach b a) s = .next (goes 0) ∧ exec (.reqKvDetach b a) s = .next (goes 1)
       ∧ exec (.reqKvEvict b a) s = .next (goes 2) ∧ exec (.reqKvRelease b a) s = .next (goes 3))
   ∧ (∀ (s : State) (b a : Reg) (t : Nat), s.Ready { srcs := [a, b] } →
     let s2 := (s.after a).after b
     let w := (s.after a).val b
     let goes (op : Nat) (i32 : Bool) : State := (s2.items 32 (.cmb {
       op := op, i32 := i32, value := s.val a, owner := t, ownerWord := BitVec.ofNat 11 (wfield w 10 0), chan := wfield w 21 16,
       count := wfield w 40 32 + 1, id := wfield w 63 48, tenant := s2.act.tenant, launch := s2.act.launch, pid := s2.act.pid, src := s.cur,
       wicket := decide (s2.share = 2) && decide (t < 512) })).retire { srcs := [a, b] } .next
     onlyBits w [(10, 0), (21, 16), (40, 32), (63, 48)] = true → s2.resolve (wfield w 10 0) = some t → s2.outRoom 32 = true →
       (∀ i32, exec (.cmbMax i32 b a) s = .next (goes 0 i32) ∧ exec (.cmbMin i32 b a) s = .next (goes 1 i32))
       ∧ exec (.cmbLgc .and b a) s = .next (goes 2 false) ∧ exec (.cmbLgc .or b a) s = .next (goes 3 false)
       ∧ exec (.cmbLgc .xor b a) s = .next (goes 4 false) ∧ exec (.cmbAdd b a) s = .next (goes 5 false)))

/-- R353, R354, R359, R363: what the table does: a submission takes the lowest free record as waiting with the next admission number; a
cancel ends a waiting request at once and an active one at the next step; a commit advances the position by one for each token and stops
at the stop set or the last position.
The model's choice: which free record a submission takes, the lowest (log 33); R363 names none. -/
def Obligations.RequestTableRules : Prop :=  (∀ (q : ReqTable) (img : Rec512) (tenant i : Nat), rqMalformed img = false → rqSibl img = 0 → i < 4096 → rqState (q.recAt i) = 0 →
    (∀ k, k < i → rqState (q.recAt k) ≠ 0) →
      (q.submit img tenant).2 = BitVec.ofNat 64 i ∧ rqState ((q.submit img tenant).1.recAt i) = 1
        ∧ (q.submit img tenant).1.admseq = q.admseq + 1)
  ∧ (∀ (q : ReqTable) (i : Nat),
    (rqState (q.recAt i) = 1 → rqState ((q.cancel i false).1.recAt i) = 4 ∧ (q.cancel i false).2 = 0)
    ∧ (rqState (q.recAt i) = 2 → rqState ((q.cancel i false).1.recAt i) = 3 ∧ (q.cancel i false).2 = 0)
    ∧ (rqState (q.recAt i) ≠ 1 → rqState (q.recAt i) ≠ 2 → q.cancel i false = (q, 1)))
  ∧ (∀ (stops : Vector (List Nat) 8) (tok : Nat) (rest : List Nat) (r : Rec512),
    let r1 := setRec (setRec r 95 64 (rqPos r + 1)) 191 160 tok
    let stop := r.getLsbD 59 = true ∧ tok ∈ stops.get (Fin.ofNat 8 (resBits r 58 56))
    (stop → commitTokens stops (tok :: rest) r = (rqEnd r1 3 0, 1))
    ∧ (¬ stop → rqMaxpos r1 ≤ rqPos r1 → commitTokens stops (tok :: rest) r = (rqEnd r1 3 1, 1))
    ∧ (¬ stop → rqPos r1 < rqMaxpos r1 → (commitTokens stops (tok :: rest) r).1 = (commitTokens stops rest r1).1
        ∧ (commitTokens stops (tok :: rest) r).2 = (commitTokens stops rest r1).2 + 1))

/-- R355, R360 to R362, R366: a released operation reaches its table; a page count's attach, detach and release answer their counts; a
contribution opens a combine, joins it, or as the last one completes it.
The model's choices: a page that no operation has named belongs to tenant 0 (log 36), and what a combine packet counts as (log 35). -/
def Obligations.RequestEvents : Prop :=  (∀ (s : State) (pid : Nat) (p : Part) (t row code : Nat) (rest : List (Nat × OutKind)), s.parts.get? pid = some p →
    p.req.ops = (t, .reqFault row code) :: rest →
      ∃ u, exec (.reqStepOperation pid) s = .next u ∧ (u.parts.get? pid).map (·.req) = some ({ p.req with ops := rest }.fault row code))
  ∧ (∀ (s : State) (pid : Nat) (p : Part) (t : Nat) (w : Word) (rest : List (Nat × OutKind)), s.parts.get? pid = some p →
    p.req.ops = (t, .reqStep w) :: rest →
      ∃ u, exec (.reqStepOperation pid) s = .next u ∧ (u.parts.get? pid).map (fun x => (x.req.step, x.req.ops)) = some (p.req.step + 1, rest))
  ∧ (∀ (s : State) (n : Nat) (o : KvOp) (p : Part), s.kvq[n]? = some o → s.parts.get? o.pid = some p →
    let e := kvGet p.req.kv o.page
    let done (kv : NMap Kv) (v : Word) : State :=
      ({ (s.modPart o.pid fun p => { p with req := { p.req with kv := kv } }) with kvq := s.kvq.eraseIdx n } : State).sendReply o.tile o.c o.id (.value v)
    (o.op = 0 → e.count < 0xFFFE → e.count = 0 ∨ e.tenant = o.tenant →
      exec (.kvOperation n) s = .next (done (p.req.kv.set o.page { count := e.count + 1, tenant := o.tenant, last := p.req.step })
        (BitVec.ofNat 64 (e.count + 1))))
    ∧ (o.op = 1 → 0 < e.count → e.count < 0xFFFF →
      exec (.kvOperation n) s = .next (done (p.req.kv.set o.page { e with count := e.count - 1 }) (BitVec.ofNat 64 (e.count - 1))))
    ∧ (o.op = 3 → e.count = 0xFFFF →
      exec (.kvOperation n) s = .next (done (p.req.kv.set o.page { e with count := 0, last := 0 }) 0#64)))
  ∧ (∀ (s : State) (n : Nat) (p : CmbPkt), s.cnet[n]? = some p → (s.tile p.owner).split = false →
    (∀ e ∈ (s.tile p.owner).combine, ¬ (e.first.pid = p.pid ∧ e.first.id = p.id)) → (s.tile p.owner).combine.length < 64 →
    (∀ q ∈ s.cnet.take n, ¬ (q.src = p.src ∧ q.owner = p.owner)) →
      ∃ u, exec (.combineArrival n) s = .next u ∧ u.cnet = s.cnet.eraseIdx n
        ∧ (p.n < p.count → (u.tile p.owner).combine = (s.tile p.owner).combine ++ [{ first := p, value := p.value, n := p.n }])
        ∧ (p.count ≤ p.n → (u.tile p.owner).combine = (s.tile p.owner).combine ∧ u.net.length = s.net.length + 1))

/-- R162, R163, R167, R168: the extension registers are written and pushed, or read; a shape register is loaded, stored, and read and written
field by field.
R169: rec.slice writes the slice record of a rank and answers its byte offset; a malformed record stops it with the record's address. -/
def Obligations.ExtensionAndShapeRegisters : Prop :=
  ((∀ (s : State) (n : BitVec 3) (a : Reg), s.Ready { srcs := [a] } →
     exec (.extW n a) s = .next (((s.after a).modHalf fun h => (h.setE n (s.val a)).push (s.val a)).retire { srcs := [a] } .next))
   ∧ (∀ (s : State) (n : BitVec 3) (a : Reg), s.Ready { dsts := [a] } →
     exec (.extGet n a) s = .next ((s.give a (s.half.e.get n.toFin)).retire { dsts := [a] } .next))
   ∧ (∀ (s : State) (n : BitVec 3) (imm : BitVec 16), s.Ready {} →
     exec (.extLix n imm) s = .next ((s.modHalf fun h => (h.setE n (imm.signExtend 64)).push (imm.signExtend 64)).retire {} .next)
     ∧ (let v := s.half.e.get n.toFin * 65536#64 ||| imm.setWidth 64
       exec (.extLixs n imm) s = .next ((s.modHalf fun h => (h.setE n v).push v).retire {} .next)))
   ∧ (∀ (s : State) (n : BitVec 4) (b : Reg), s.Ready { srcs := [b] } →
     let s1 := s.after b
     let ea := (s.val b).toNat
     ea % 64 = 0 →
       (s1.inWindow s.cur ea 64 .load → s1.readable ea 64 → exec (.shpLd n b) s =
         .next (((s1.reads ea 64).modHalf fun h => h.setH n (BitVec.ofNat 512 (s1.ownNat ea 64))).retire { srcs := [b] } .next))
       ∧ (∀ u, s1.inWindow s.cur ea 64 .store → s1.ownClear ea 64 = true → s1.logs ea 64 u → exec (.shpSt n b) s =
         .next ((u.storeAt ea (leBytes 64 (s1.half.h.get n.toFin).toNat)).retire { srcs := [b] } .next)))
   ∧ (∀ (s : State) (n : BitVec 4) (f : BitVec 6) (a : Reg), f.toNat < 33 →
     (s.Ready { srcs := [a] } → (s.val a).toNat < 2 ^ (shapeField f.toNat).2 →
       exec (.shpSet n f a) s = .next (((s.after a).modHalf fun h => h.setH n (shapeSet (h.h.get n.toFin) f.toNat (s.val a).toNat)).retire
         { srcs := [a] } .next))
     ∧ (s.Ready { dsts := [a] } →
       exec (.shpGet n f a) s = .next ((s.give a (BitVec.ofNat 64 (shapeGet (s.half.h.get n.toFin) f.toNat))).retire { dsts := [a] } .next))))
  ∧
  (∀ (s u : State) (idx : BitVec 6) (b a : Reg), s.Ready { srcs := [b], dsts := [a] } →
     let s1 := s.after b
     let w := s.val b
     let src := 64 * idx.toNat
     let r0 : Rec512 := BitVec.ofNat 512 (s1.ownNat src 64)
     wfield w 63 52 = 0 → wfield w 31 16 = 0 → wfield w 37 32 = 0 → s1.inWindow s.cur (wfield w 51 32) 64 .store → s1.readable src 64 →
       (shapeMalformed r0 = true → exec (.recSlice idx b a) s =
         .next (s.takeTrap s.half.pc { code := 0x21, faddr := BitVec.ofNat 64 src, own := true }))
       ∧ (shapeMalformed r0 = false → wfield w 15 0 < shapeParts r0 → s1.ownClear (wfield w 51 32) 64 = true →
         (s1.reads src 64).logs (wfield w 51 32) 64 u →
         let r := sliceOfRank r0 (wfield w 15 0)
         exec (.recSlice idx b a) s =
           .next (((u.storeAt (wfield w 51 32) (leBytes 64 r.1.toNat)).give a (BitVec.ofNat 64 r.2)).retire { srcs := [b], dsts := [a] } .next)))

/-- R372, R374, R375, R379, R383, R385: tmr.set starts a timer from its phase, 4 cycles after issue, or stops it; tmr.rd reads it;
wkt.seize and wkt.rel, which reach the bay's unit in their order, after their release part; wkt.stat.
R374, R385: outside the reflex array tmr.set and tmr.rd are illegal at decode, and so is wkt.rel outside a seizing handler.
The model's choices: tmr.set checks its channel and period whether it enables or disables (log 17); wkt.stat completes on every reasoning
tile (log 18); wkt.seize and wkt.rel make a release part and reach the unit in their order (log 46). -/
def Obligations.TimerAndWicketForms : Prop :=
  ((∀ (s : State) (b a : Reg), isReflex s.cur = true → s.Ready { srcs := [a, b] } →
     let s2 := (s.after a).after b
     let w := s.val a
     let p := ((s.after a).val b).toNat
     let i : Fin 4 := Fin.ofNat 4 (wfield w 1 0)
     let hd := (s2.tile s.cur).handlers.get (Fin.ofNat 64 (wfield w 13 8))
     onlyBits w [(1, 0), (13, 8), (15, 15)] = true → 1000 ≤ p → p < 2 ^ 32 → hd.valid = true → hd.tenant = s2.act.tenant →
       (w.getLsbD 15 = true → exec (.tmrSet b a) s = .next ((s2.modTile s.cur fun t => t.modTimer i fun x => {
         en := true, chan := wfield w 13 8, period := p, phase := (s.half.e.get 0).toNat,
         next := firstEdge (s.half.e.get 0).toNat p (s.dtimeIn 4), held := x.held }).retire { srcs := [a, b] } .next))
       ∧ (w.getLsbD 15 = false → exec (.tmrSet b a) s =
         .next ((s2.modTile s.cur fun t => t.modTimer i fun x => { x with en := false }).retire { srcs := [a, b] } .next)))
   ∧ (∀ (s : State) (b a : Reg), isReflex s.cur = true → s.Ready { srcs := [b], dsts := [a] } →
     let w := s.val b
     let x := (s.tile s.cur).timers.get (Fin.ofNat 4 (wfield w 1 0))
     let k := wfield w 3 2
     onlyBits w [(3, 0)] = true → exec (.tmrRd b a) s = .next (((s.after b).give a (BitVec.ofNat 64
       (if k = 0 then x.period else if k = 1 then x.phase + x.next * x.period else if k = 2 then x.next else x.missed))).retire
         { srcs := [b], dsts := [a] } .next))
   ∧ (∀ (s : State) (b a : Reg), isReflex s.cur = true → s.Ready { srcs := [a, b] } →
     let s2 := (s.after a).after b
     let w := s.val a
     onlyBits w [(4, 0), (9, 8), (21, 16)] = true → s2.releaseStop false 3 = none →
       exec (.wktSeize b a) s = .next ((s2.ordered.modBay (wfield w 4 0) fun y => { y with
         reqs := y.reqs ++ [{ tile := s.cur, word := w, arg := (s.after a).val b, cycle := s.cycle }] }).spent.retire { srcs := [a, b] } .next))
   ∧ (∀ (s : State) (a : Reg), s.reflexSide = true → s.Ready { srcs := [a] } →
     let s1 := s.after a
     let w := s.val a
     onlyBits w [(4, 0)] = true → isReflex s.cur = true ∨ w.toNat = bayOf s.cur → s1.releaseStop false 3 = none →
       exec (.wktRel a) s = .next ((s1.ordered.modBay w.toNat fun y => { y with
         reqs := y.reqs ++ [{ tile := s.cur, word := w, arg := 0#64, cycle := s.cycle, rel := true }] }).spent.retire { srcs := [a] } .next))
   ∧ (∀ (s : State) (b a : Reg), s.Ready { srcs := [b], dsts := [a] } → onlyBits (s.val b) [(4, 0)] = true →
     exec (.wktStat b a) s = .next (((s.after b).give a (wktStatWord (s.bay (s.val b).toNat))).retire { srcs := [b], dsts := [a] } .next)))
  ∧
  (∀ (s : State) (b a : Reg), validKey s.cur = true →
     (isReflex s.cur = false →
       exec (.tmrSet b a) s = .next (s.takeTrap s.half.pc { code := 0x20, faddr := s.wordAtPc 4 })
       ∧ exec (.tmrRd b a) s = .next (s.takeTrap s.half.pc { code := 0x20, faddr := s.wordAtPc 4 }))
     ∧ (s.reflexSide = false → exec (.wktRel a) s = .next (s.takeTrap s.half.pc { code := 0x20, faddr := s.wordAtPc 4 })))

/-- R372, R373, R379, R380, R383, R384, R386: the edge that is due comes, as an item or as a missed edge; a release that reaches its unit is pending during a
seizure only; a seizure is refused with its status, or holds its bay; a bay whose seizing work has ended is released; a spent budget forces the release.
The model's choices: the numbers and the network of the Wicket's messages and when they stand in the inboxes (log 46); what a forced
release does with queued items (log 47); an edge's item waits for an inbox entry (log 72). -/
def Obligations.TimerAndWicketEvents : Prop :=  (∀ (s : State) (t : Nat) (i : Fin 4), s.dueTimer t = some i → s.sys.role ≠ 2 → s.sys.suspended = false →
    let x := (s.tile t).timers.get i
    ∃ u, exec (.timerEdge t) s = .next u ∧ ((u.tile t).timers.get i).next = x.next + 1
      ∧ ((s.tile t).timerBusy i = true → ((u.tile t).timers.get i).missed = x.missed + 1 ∧ (u.tile t).inbox = (s.tile t).inbox)
      ∧ ((s.tile t).timerBusy i = false → s.inboxRoom t (s.timerItem t i) = true →
          (u.tile t).inbox.length = (s.tile t).inbox.length + 1 ∧ ((u.tile t).timers.get i).held = none)
      ∧ ((s.tile t).timerBusy i = false → s.inboxRoom t (s.timerItem t i) = false →
          (u.tile t).inbox = (s.tile t).inbox ∧ ((u.tile t).timers.get i).held = some (s.timerItem t i)))
  ∧ (∀ (s : State) (b : Nat) (q : SeizeReq), (s.bay b).reqs = [q] → q.rel = true →
    ∃ u, exec (.seizeRequest b) s = .next u ∧ (u.bay b).seized = (s.bay b).seized ∧ (u.bay b).reqs = []
      ∧ (u.bay b).relPending = ((s.bay b).relPending || (s.bay b).seized))
  ∧ (∀ (s : State) (b : Nat) (q : SeizeReq), (s.bay b).reqs = [q] → q.rel = false →
    (s.seizeStatus b q = 0 → ∃ u, exec (.seizeRequest b) s = .next u ∧ (u.bay b).seized = true
      ∧ (u.bay b).seizureNo = (s.bay b).seizureNo + 1 ∧ (u.bay b).reqs = [])
    ∧ (s.seizeStatus b q ≠ 0 → ∃ u, exec (.seizeRequest b) s = .next u ∧ (u.bay b).seized = (s.bay b).seized
      ∧ (u.bay b).seizureNo = (s.bay b).seizureNo ∧ (u.bay b).reqs = []))
  ∧ (∀ (s : State) (b : Nat), (s.bay b).seized = true → (s.bay b).relPending = true →
    (∀ i, i < 16 → s.wicketIdle (bayTile b i) = true) → s.wicketTransfers b = false →
      ∃ u, exec (.wicketRelease b) s = .next u ∧ (u.bay b).seized = false ∧ (u.bay b).relPending = false)
  ∧ (∀ (s : State) (b : Nat), (s.bay b).seized = true → (s.bay b).sbrem ≤ 64 → (s.bay b).relPending = false →
    ∃ u, exec (.forcedRelease b) s = .next u ∧ (u.bay b).relPending = true)

/-- R403 to R407: csr.rw, csr.rs and csr.rc answer the old value of a listed register and write the new one; with z as its source csr.rs and
csr.rc only read; a write that R407 does not allow is an illegal operand, and a number that R403 does not list an illegal instruction.
The model's choice: which of the two traps a form takes (log 28). -/
def Obligations.ControlRegisterForms : Prop :=  (∀ (s : State) (n : BitVec 10) (a d : Reg), csrListed n.toNat = true → s.Ready { srcs := [a], dsts := [d] } →
    let s1 := s.after a
    let x := s.val a
    let old := s1.csr n.toNat
    let done (new : Word) : State := ((s1.csrWrite n.toNat x new).give d old).retire { srcs := [a], dsts := [d] } .next
    let bad : State := s.takeTrap s.half.pc { code := 0x21, faddr := s.wordAtPc 4 }
    (s.share = 2 → ¬ (0x40 ≤ n.toNat ∧ n.toNat < 0x60 ∧ 4 ≤ n.toNat % 16)) →
    (n.toNat = 0x10 ∨ n.toNat = 0x13 → s1.half.vq = [] ∧ s1.half.boundTrap = none) →
      (s1.csrWritable n.toNat = true →
        (n.toNat ≠ 7 →
          exec (.csrRw n a d) s = .next (done x)
          ∧ (a ≠ .z → exec (.csrRs n a d) s = .next (done (old ||| x)) ∧ exec (.csrRc n a d) s = .next (done (old &&& ~~~ x))))
        ∧ (n.toNat = 7 → x.getLsbD 0 = false → exec (.csrRw n a d) s = .next (done x)))
      ∧ (s1.csrWritable n.toNat = false → exec (.csrRw n a d) s = .next bad
          ∧ (a ≠ .z → exec (.csrRs n a d) s = .next bad ∧ exec (.csrRc n a d) s = .next bad))
      ∧ (a = .z → exec (.csrRs n a d) s = .next ((s1.give d old).retire { srcs := [a], dsts := [d] } .next)
          ∧ exec (.csrRc n a d) s = .next ((s1.give d old).retire { srcs := [a], dsts := [d] } .next)))
  ∧ (∀ (s : State) (n : BitVec 10) (a d : Reg), validKey s.cur = true → csrListed n.toNat = false →
    exec (.csrRw n a d) s = .next (s.takeTrap s.half.pc { code := 0x20, faddr := s.wordAtPc 4 }))

/-- R388 to R391: what taking a trap leaves in the context: a parked one goes on later, a catchable one enters trap code where trapvec
allows it and no trap code runs, else it aborts; the codes from 0x30 freeze. Cause, xpc and faddr are written by each.
R391, R409: tret goes on at xpc with what the trap saved; outside trap code it is an illegal instruction. A return restores the loop, the
prefix and status.tm that the entry saved.
R409: trap.ab and trap.dead take their trap with the operand in faddr. -/
def Obligations.TrapEntryAndReturn : Prop :=
  (∀ (s : State) (xpc : Word) (t : Trap), t.xpc = none →
     let h := s.half
     let u := (s.takeTrap xpc t).slot
     u.half.cause = BitVec.ofNat 64 (t.reason % 256 * 256 + t.code % 256) ∧ u.half.xpc = xpc ∧ u.half.faddr = t.faddr
     ∧ (t.code < 0x10 → u.phase = .parked t.code ∧ u.half.pc = h.pc)
     ∧ (0x10 ≤ t.code → t.code < 0x20 → h.trapvec.getLsbD 32 = true → h.status.getLsbD 1 = false →
         u.half.pc = h.trapvec &&& 0xFFFFFFFF#64 ∧ u.half.status.getLsbD 0 = false ∧ u.half.status.getLsbD 1 = true
         ∧ u.half.tlpcnt = h.lpcnt ∧ u.half.lpcnt = 0#64 ∧ u.phase = s.slot.phase)
     ∧ (0x10 ≤ t.code → t.code < 0x20 → (h.trapvec.getLsbD 32 = false ∨ h.status.getLsbD 1 = true) → u.phase = .aborting)
     ∧ (0x20 ≤ t.code → t.code < 0x30 → u.phase = .aborting)
     ∧ (0x30 ≤ t.code → u.phase = .frozen))
  ∧
  ((∀ s : State, s.Ready {} →
     (s.half.status.getLsbD 1 = true → s.half.xpc.getLsbD 0 = false →
       exec .tret s = .next ((s.modHalf fun h => { h.leaveTrap with pc := h.xpc, lastPc := h.pc }).retire {} .stay))
     ∧ (s.half.status.getLsbD 1 = true → s.half.xpc.getLsbD 0 = true →
       exec .tret s = .next (s.takeTrap s.half.pc { code := 0x21, faddr := s.wordAtPc 4 }))
     ∧ (s.half.status.getLsbD 1 = false → exec .tret s = .next (s.takeTrap s.half.pc { code := 0x20, faddr := s.wordAtPc 4 })))
   ∧ (∀ (h : Half) (xpc : Word) (t : Trap), h.status.getLsbD 1 = false → h.lpbeg.toNat < 2 ^ 32 →
     (∃ k : Nat, k < 2 ^ 12 ∧ h.lpend = h.lpbeg + BitVec.ofNat 64 (2 * k)) →
       let r := (h.enterTrap xpc t).leaveTrap
       r.lpbeg = h.lpbeg ∧ r.lpend = h.lpend ∧ r.lpcnt = h.lpcnt ∧ r.pfxsave = h.pfxsave ∧ r.status = h.status))
  ∧
  (∀ (s : State) (a : Reg), s.Ready { srcs := [a] } →
     exec (.trapAb a) s = .next (s.takeTrap s.half.pc { code := 0x2C, faddr := s.val a })
     ∧ exec (.trapDead a) s = .next (s.takeTrap s.half.pc { code := 0x2D, faddr := s.val a }))

/-- R345 to R347, R395, R397, R401, R404, R409: the forms on frozen contexts, error queues, bound registers and wear, and the wake.
The model's choices: fault detail 0 of a protection violation (log 16), the statuses of frz.rel and its reserved bits (log 26), the
misaligned address of eq.pop (log 27), and who owns a bound register (log 32). -/
def Obligations.DefenceForms : Prop :=  (∀ (s : State) (b d : Reg), s.Ready { srcs := [b], dsts := [d] } →
    let s1 := s.after b
    let ea := (s.val b).toNat
    ea % 32 = 0 → s1.inWindow s.cur ea 32 .store → s1.ownClear ea 32 = true →
      ((s1.fn s1.act.tenant).eq = [] →
        exec (.eqPop b d) s = .next ((s1.spent.give d (BitVec.allOnes 64)).retire { srcs := [b], dsts := [d] } .next))
      ∧ (∀ e rest u, (s1.fn s1.act.tenant).eq = e :: rest → s1.logs ea 32 u →
        exec (.eqPop b d) s = .next (((((u.storeAt ea (leBytes 32 e.bits)).modFn s1.act.tenant fun f => { f with eq := rest }).spent).give d
          (BitVec.ofNat 64 rest.length)).retire { srcs := [b], dsts := [d] } .next)))
  ∧ (∀ (s : State) (b a : Reg), s.Ready { srcs := [a, b] } →
    let s2 := (s.after a).after b
    let x := s.val a
    let y := (s.after a).val b
    onlyBits x [(5, 0), (9, 8), (12, 12)] = true → s2.ownsBound (wfield x 5 0) = true →
      exec (.bndWr b a) s = .next ((s2.modTile s.cur fun t => (t.modBound (wfield x 5 0) fun _ => {
        count := 0, int := x.getLsbD 12, act := BitVec.ofNat 2 (wfield x 9 8), hi := BitVec.ofNat 32 (wfield y 63 32),
        lo := BitVec.ofNat 32 (wfield y 31 0) }).clearBound (wfield x 5 0)).retire { srcs := [a, b] } .next))
  ∧ (∀ (s : State) (a d : Reg), s.Ready (opA a d) →
    let s1 := s.after a
    let x := s.val a
    let i := wfield x 5 0
    let r := (s1.tile s.cur).bnd.get (Fin.ofNat 64 i)
    let k := wfield x 9 8
    onlyBits x [(5, 0), (9, 8)] = true → k < 3 → s1.ownsBound i = true →
      exec (.bndRd a d) s = .next ((s1.give d (BitVec.ofNat 64 (if k = 0 then r.hi.toNat * 2 ^ 32 + r.lo.toNat
        else if k = 1 then r.act.toNat * 2 ^ 8 + (if r.int then 2 ^ 12 else 0) + i else r.count))).retire (opA a d) .next))
  ∧ (∀ (s : State) (a : Reg), s.Ready { srcs := [a] } →
    let s1 := s.after a
    let x := s.val a
    let i := wfield x 5 0
    onlyBits x [(5, 0), (8, 8)] = true → s1.ownsBound i = true →
      (x.getLsbD 8 = false → exec (.bndClr a) s = .next ((s1.modTile s.cur fun t => t.clearBound i).retire { srcs := [a] } .next))
      ∧ (x.getLsbD 8 = true → exec (.bndClr a) s = .next ((s1.modTile s.cur fun t =>
          ((List.range 64).filter s1.ownsBound).foldl Tile.clearBound t).retire { srcs := [a] } .next)))
  ∧ (∀ (s : State) (b d : Reg), s.Ready { srcs := [b], dsts := [d] } →
    let s1 := s.after b
    let k := (s.val b).toNat
    let r := s1.life (s1.physTile s.cur)
    k ≤ 3 → exec (.wearRd b d) s = .next ((s1.give d (BitVec.ofNat 64 (if k = 0 then (s1.fn s1.act.tenant).wearacct
      else if k = 1 then lifeState r else if k = 2 then lifeStress r else ((s1.tile s.cur).ctx s.ctx).wear))).retire
        { srcs := [b], dsts := [d] } .next))
  ∧ SystemYields .wearSet (fun s a b => some ((s.wearSet a b).1, BitVec.ofNat 64 (s.wearSet a b).2))
  ∧ SystemYields .frzRel (fun s a b => if masterWordOk a && onlyBits b [(0, 0)] then
      some ((s.frzRel a (b.getLsbD 0)).1, BitVec.ofNat 64 (s.frzRel a (b.getLsbD 0)).2) else none)
  ∧ (∀ s : State, s.sys.asleep = true → s.mayWake = true → exec .wakeReq s = .next (s.modSys fun y => { y with waking := true }))

/-- R338 to R343: lv.hold of a reserve takes its tokens at once, elsewhere it waits with its request queued and goes on after the grant;
lv.drop returns them; lv.stat reads; lv.share is the system core's.
R339, R341: the head of a bay's queue is granted when the free tokens cover it, and none before; a context that has waited 4096 cycles
for leave is parked with cause 3.
The model's choices: fault detail 0 of the violation of lv.share (log 16); lv.drop keeps lent tokens out (log 24); a grant that is not due
is refused as noSuchEvent (log 62); what counts as a wait on leave (log 58). -/
def Obligations.Leave : Prop :=
  ((∀ (s : State) (a : Reg), s.Ready { srcs := [a] } →
     let s1 := s.after a
     let n := s.val a
     let r : LvReq := { cost := n.toNat, prio := s1.act.prio, cycle := s.cycle, tileIdx := bayIdx s.cur, kind := 0, tile := s.cur,
                        act := s1.act.id, key := s1.act.id }
     (s1.act.lvReq = 2 → exec (.lvHold a) s = .next ((s1.modAct fun x => { x with lvReq := 3 }).retire { srcs := [a] } .next))
     ∧ (s1.act.lvReq = 1 → exec (.lvHold a) s = .next (s.setSlot { s.slot with waiting := true, waitOn := .hold }))
     ∧ (s1.act.lvReq ≠ 1 → s1.act.lvReq ≠ 2 → n ≠ 0#64 → n.toNat ≤ s1.holdLimit → s1.act.hold = 0 →
         (usesReserve s.cur s1.share = true → exec (.lvHold a) s =
           .next (((s1.modBay (bayOf s.cur) fun y => { y with resUsed := y.resUsed + n.toNat }).modAct fun x =>
             { x with hold := n.toNat, lent := 0, lvReq := 3 }).retire { srcs := [a] } .next))
         ∧ (usesReserve s.cur s.share = false →
             let s3 := (s.modBay (bayOf s.cur) fun y => { y with lvq := y.lvq ++ [r] }).modAct fun x => { x with lvReq := 1 }
             exec (.lvHold a) s = .next (s3.setSlot { s3.slot with waiting := true, waitOn := .hold }))))
   ∧ (∀ s : State, s.Ready {} →
     (s.act.hold = 0 → exec .lvDrop s = .next (s.retire {} .next))
     ∧ (s.act.hold ≠ 0 → exec .lvDrop s = .next ((s.dropHold s.cur s.share s.act).retire {} .next)))
   ∧ (∀ (s : State) (b d : Reg), s.Ready { srcs := [b], dsts := [d] } →
     let s1 := s.after b
     let k := (s.val b).toNat
     let y := s.bay (bayOf s.cur)
     k ≤ 3 →
       (usesReserve s.cur s1.share = false → exec (.lvStat b d) s = .next ((s1.give d (BitVec.ofNat 64
         (if k = 0 then y.pool - y.used else if k = 1 then y.pool else if k = 2 then y.lvq.length else s1.act.hold - s1.act.lent))).retire
           { srcs := [b], dsts := [d] } .next))
       ∧ (usesReserve s.cur s1.share = true → exec (.lvStat b d) s = .next ((s1.give d (BitVec.ofNat 64
         (if k = 0 then 176 - y.resUsed else if k = 1 then 176 else if k = 2 then 0 else s1.act.hold - s1.act.lent))).retire
           { srcs := [b], dsts := [d] } .next)))
   ∧ SystemYields .lvShare (fun s a b =>
       if a.toNat < 34 ∧ 10 ≤ b.toNat ∧ b.toNat ≤ 4095 then some (s.modBay a.toNat fun y => { y with pool := b.toNat }, 0#64) else some (s, 1#64)))
  ∧
  ((∀ (s : State) (b : Nat) (r : LvReq), lvHead (s.bay b).lvq = some r →
     (r.cost ≤ (s.bay b).pool - (s.bay b).used → ∃ u, exec (.leaveGrant b) s = .next u ∧ (u.bay b).used = (s.bay b).used + r.cost
       ∧ (u.bay b).lvq = (s.bay b).lvq.erase r)
     ∧ ((s.bay b).pool - (s.bay b).used < r.cost → exec (.leaveGrant b) s = .refused (.noSuchEvent "LEAVE_GRANT")))
   ∧ (∀ (s : State) (t : Nat) (c : Fin 8) (r : LvReq), oldestReq (s.lvOf t (s.slotAt t c)) = some r → s.waitsOnLeave t (s.slotAt t c) = true →
     4096 ≤ (s.slotAt t c).act.lvWait → s.frozenShare t (s.shareAt t c) = false →
       ∃ u, exec (.leaveTimeout t c) s = .next u ∧ (u.slotAt t c).phase = .parked 3 ∧ (u.slotAt t c).half.faddr = BitVec.ofNat 64 r.cost
         ∧ (u.slotAt t c).act.lvWait = 0))

/-- R66, R67: the four translation instructions on a core; elsewhere they are protection violations.
R64, R66, R67: the statuses of tlb.wr in their order, a refused frame state among them, and what a page that it has placed leaves in the TLB: the
page, and no other of its tenant that overlaps it.
R58, R69 to R71: res.wr replaces an entry and, where the launch has tiles, waits for their invalidations; it completes when each has
acknowledged; res.rd stores an entry, of another tenant's only its valid bit.
The model's choices: the bays of the system core (log 12); fault detail 0 of a protection violation (log 16); res.wr reads its image
without consuming poison, and its result (log 29); a tlb.nak that wakes nobody (log 30); the lowest status where several hold, and
tlb.nak's status 1 (log 67). -/
def Obligations.TranslationForms : Prop :=
  (CoreYields .tlbWr State.tlbWr ∧ CoreYields .tlbNak State.tlbNak
   ∧ (∀ (s : State) (a d : Reg), s.Ready (opA a d) →
     let s1 := s.after a
     let w := s.val a
     (isCore s.cur = true →
       exec (.tlbInv a d) s = .next (((s1.tlbInv w).1.give d (BitVec.ofNat 64 (s1.tlbInv w).2)).retire (opA a d) .next)
       ∧ exec (.tlbInvt a d) s = .next (((s1.tlbInvt w).1.give d (BitVec.ofNat 64 (s1.tlbInvt w).2)).retire (opA a d) .next))
     ∧ (isCore s.cur = false → exec (.tlbInv a d) s = .next (s.takeTrap s.half.pc { code := 0x30 })
       ∧ exec (.tlbInvt a d) s = .next (s.takeTrap s.half.pc { code := 0x30 }))))
  ∧
  (∀ (s : State) (a b : Word),
     let e := pageEntry a b
     let t := s.coreTile a
     (tagReserved a = true ∨ attrReserved b = true → (s.tlbWr a b).2 = 1)
     ∧ (tagReserved a = false → attrReserved b = false →
         ((e.va % 2 ^ e.bits ≠ 0 ∨ e.pa % 2 ^ e.bits ≠ 0) → (s.tlbWr a b).2 = 2)
         ∧ (e.va % 2 ^ e.bits = 0 → e.pa % 2 ^ e.bits = 0 →
             (mappable e.pa = false ∨ mappable (e.pa + 2 ^ e.bits - 1) = false → (s.tlbWr a b).2 = 3)
             ∧ (mappable e.pa = true → mappable (e.pa + 2 ^ e.bits - 1) = true →
                 s.frameOk e.tenant e.pa = false ∨ s.frameOk e.tenant (e.pa + 2 ^ e.bits - 4096) = false → (s.tlbWr a b).2 = 4)
             ∧ (mappable e.pa = true → mappable (e.pa + 2 ^ e.bits - 1) = true → s.frameOk e.tenant e.pa = true →
                 s.frameOk e.tenant (e.pa + 2 ^ e.bits - 4096) = true → tagWake a = true → s.answerable t a = false → (s.tlbWr a b).2 = 5)
             ∧ (mappable e.pa = true → mappable (e.pa + 2 ^ e.bits - 1) = true → s.frameOk e.tenant e.pa = true →
                 s.frameOk e.tenant (e.pa + 2 ^ e.bits - 4096) = true → tagWake a = false →
                   (s.tlbWr a b).2 = 0 ∧ some e ∈ ((s.tlbWr a b).1.tile t).tlb.toList
                     ∧ ∀ x, some x ∈ ((s.tlbWr a b).1.tile t).tlb.toList → x = e ∨ x.tenant ≠ e.tenant ∨ x.overlaps e.va e.bits = false))))
  ∧
  ((∀ (s : State) (b a d : Reg) (idx : Nat), s.Ready (opAB b a d) →
     let s2 := (s.after a).after b
     s2.act.resWr = some idx → (∀ t ∈ s2.launchTiles, ∀ v ∈ (s2.tile t).inval, ¬ (v.1 = s2.tablePid.getD 16 ∧ v.2.1 = idx)) →
       exec (.resWr b a d) s = .next (((s2.modAct fun y => { y with resWr := none }).give d 0#64).retire (opAB b a d) .next))
   ∧ (∀ (s : State) (b a d : Reg) (e : Rec512), s.Ready (opAB b a d) →
     let s2 := (s.after a).after b
     let idx := (s.val a).toNat
     let ea := ((s.after a).val b).toNat
     s2.act.resWr = none → ea % 64 = 0 → s2.inWindow s.cur ea 64 .load → idx < s2.tableLaunch.resCount →
     s2.ownClear ea 64 = true → s2.resMerge (s2.rec512 (s2.tableLaunch.resBase + 64 * idx)) (BitVec.ofNat 512 (s2.ownNat ea 64)) = some e →
       let s3 := ((s.reads ea 64).resStore idx e).modAct fun y => { y with resWr := some idx }
       exec (.resWr b a d) s = .next (s3.setSlot { s3.slot with waiting := true, waitOn := .issued }))
   ∧ (∀ (s u : State) (b a : Reg), s.Ready { srcs := [a, b] } →
     let s2 := (s.after a).after b
     let idx := (s.val a).toNat
     let ea := ((s.after a).val b).toNat
     let r := s2.resEntry s.cur s2.tablePid idx
     let s3 := s2.useRes s.cur s2.tablePid idx
     let e : Rec512 := if resTenant r = s2.act.tenant then r else BitVec.ofNat 512 (if resValid r then 2 ^ 99 else 0)
     ea % 64 = 0 → s2.inWindow s.cur ea 64 .store → idx < s2.tableLaunch.resCount → s3.ownClear ea 64 = true → s3.logs ea 64 u →
       exec (.resRd b a) s = .next ((u.storeAt ea (leBytes 64 e.toNat)).retire { srcs := [a, b] } .next)))

/-- R58, R65, R67, R69, R74 to R77, R483: a tile frees its copy of a rewritten entry; a retry that is due sends the miss message again; the changes of
a frame's state outside a move, of which the scrub leaves zeros, and no poison; the rounds and the freeze of a move; the closing of rows.
The model's choices: the changes of a frame and the start of a move come as events from outside (log 78); the miss message's kind and
channel (log 79). -/
def Obligations.TranslationEvents : Prop :=
  (∀ (s : State) (t pid idx : Nat) (old : Rec512) (rest : List (Nat × Nat × Rec512)), (s.tile t).inval = (pid, idx, old) :: rest →
    ∃ u, exec (.resourceInvalidation t) s = .next u ∧ (u.tile t).inval = rest ∧ ∀ x ∈ (u.tile t).rcache, x.1 ≠ s.resTag (some pid) idx)
  ∧ (∀ (s : State) (t : Nat) (c : Fin 8) (h : Bool) (k : Nat), ((s.tile t).ctx c).missHalf = some h →
    (((s.tile t).ctx c).slot h).retryAt = some k → k ≤ s.cycle →
      let x := ((s.tile t).ctx c).slot h
      exec (.tlbMissRetry t c) s = .next ((s.modHalfOf t c h fun y => { y with retryAt := none }).sendMiss t
        (if x.seizing then 2 else if (s.tile t).split ∧ 4 ≤ c.val then 1 else 0) x.act.tenant x.missVa.toNat x.missAcc false c.val 0))
  ∧ (∀ (s : State) (f : Nat), f * 4096 < Config.mainMemoryTop →
    (∀ t : Fin 16, s.frame f % 16 = 2 → exec (.scrub { frame := f, step := .map t }) s = .next (s.setFrame f (t.val * 16 + 3)))
    ∧ (s.frame f % 16 = 3 → s.unmapped f = true → exec (.scrub { frame := f, step := .free }) s = .next (s.setFrame f (s.frame f / 16 * 16)))
    ∧ (s.frame f % 16 = 0 → ∃ u, exec (.scrub { frame := f, step := .post }) s = .next u ∧ u.frame f = s.frame f / 16 * 16 + 1 ∧ f ∈ u.sys.scrubs)
    ∧ (s.Safe → f ∈ s.sys.scrubs → s.frame f % 16 = 1 → s.sys.uncontained = false →
      ∃ u, exec (.scrub { frame := f, step := .clean }) s = .next u ∧ u.frame f % 16 = 2 ∧ (∀ k, k / 4096 = f → u.mem.get k = 0#8)
        ∧ (∀ k, k / 4096 ≠ f → u.mem.get k = s.mem.get k) ∧ ∀ p ∈ u.poison, p / 64 ≠ f))
  ∧ (∀ (s : State) (n : Nat) (m : Move), s.sys.moves[n]? = some m →
    (m.converged = false → ∀ a : MoveAct, a.num = n → exec (.moveRound a) s = .next (s.moveRound n m))
    ∧ (m.converged = true → m.frozen = false → exec (.moveFreeze n) s = .next (s.moveFreeze n m))
    ∧ (m.converged = true → m.frozen = true → s.moveQuiet m = true → exec (.moveFreeze n) s = .next (s.moveInstall n m)))
  ∧ (∀ (s : State) (n r : Nat), s.rows.get? n = some r → exec (.rowCloseTimeout n) s = .next { s with rows := s.rows.erase n })
  ∧ (∀ (s : State) (n : Nat), n < 16 → exec (.refresh n) s = .next { s with rows := s.rows.filter fun r => decide (r.1 / 64 ≠ n) })

/-- R412, R413, R417, R421, R424, R429 to R432: the forms of the system core on partitions and virtual functions.
R336, R412, R413, R417, R421: what the forms on partitions answer and leave: a malformed descriptor is status 1; a node that is not free
is status 2; a partition made is in state 1 with its descriptor; a halt begins from state 1 and ends by a release from state 4.
The model's choices: fault detail 0 of a protection violation (log 16); vf.ctl by constructor (log 22); status 1 of a misaligned
descriptor address and of a swap with neither side (log 50); what a degraded bay refuses (log 73). -/
def Obligations.PartitionForms : Prop :=
  ((∀ (s : State) (a d : Reg), s.Ready { srcs := [a], dsts := [d] } →
     let s1 := s.after a
     let x := s.val a
     (s.cur = 3072 → x.toNat % 64 = 0 → s1.inWindow 3072 x.toNat 64 .load → s1.readable x.toNat 64 →
       let r := (s1.reads x.toNat 64).partMk (BitVec.ofNat 512 (s1.ownNat x.toNat 64))
       exec (.partMk a d) s = .next ((r.1.give d (BitVec.ofNat 64 r.2)).retire { srcs := [a], dsts := [d] } .next))
     ∧ (s.cur = 3072 → x.toNat % 64 ≠ 0 → exec (.partMk a d) s = .next ((s1.give d 1#64).retire { srcs := [a], dsts := [d] } .next))
     ∧ (s.cur = 3072 → onlyBits x [(3, 0)] = true →
         exec (.partFree a d) s =
           .next (((s1.partFree x.toNat).1.give d (BitVec.ofNat 64 (s1.partFree x.toNat).2)).retire { srcs := [a], dsts := [d] } .next))
     ∧ (s.cur ≠ 3072 → exec (.partMk a d) s = .next (s.takeTrap s.half.pc { code := 0x30 })
         ∧ exec (.partFree a d) s = .next (s.takeTrap s.half.pc { code := 0x30 })))
   ∧ SystemYields .partHold sysHold ∧ SystemYields .partHalt sysHalt ∧ SystemYields .partSwap sysSwap
   ∧ SystemYields .shutPost sysShutPost ∧ SystemYields .shutStat sysShutStat
   ∧ SystemYields .vfCtlPause (sysVf fun w => wfield w 1 0) ∧ SystemYields .vfCtlResume (sysVf fun _ => 1)
   ∧ SystemYields .vfCtlReset (sysVf fun _ => 2) ∧ SystemYields .vfCtlTeardown (sysVf fun _ => 3))
  ∧
  ((∀ (s : State) (d : Rec512),
     (descMalformed d = true → s.partMk d = (s, 1))
     ∧ (descMalformed d = false → (s.parts.get? (descPid d)).isSome = true → s.partMk d = (s, 2))
     ∧ (descMalformed d = false → s.nodeFree (descNode d) (descHalf d) none = false → s.partMk d = (s, 2))
     ∧ ((s.partMk d).2 = 0 → ∃ p, (s.partMk d).1.parts.get? (descPid d) = some p ∧ p.desc = d ∧ p.state = 1))
   ∧ (∀ (s : State) (pid : Nat), s.parts.get? pid = none →
     (s.partFree pid).2 = 2 ∧ (s.partHold pid true).2 = 2 ∧ (s.partHalt pid true).2 = 2)
   ∧ (∀ (s : State) (pid : Nat) (p : Part), s.parts.get? pid = some p → p.isReflex = false →
     (p.state = 1 → (s.partHalt pid true).2 = 0 ∧ ((s.partHalt pid true).1.parts.get? pid).map (·.state) = some 3)
     ∧ (p.state = 4 → (s.partHalt pid false).2 = 0 ∧ ((s.partHalt pid false).1.parts.get? pid).map (·.state) = some 1)
     ∧ (p.state = 3 → ∃ u, exec (.haltComplete pid) s = .next u ∧ (u.parts.get? pid).map (·.state) = some 4)))

/-- R420, R421, R423, R430, R432: a swap completes when its partition has nothing on its way; a unit of a shutter ends; the partition becomes
vacant; the first 16 KiB of a restored window are filled again.
The model's choices: a save waits until the partition is drained, and the image is kept as data beside the bytes of the save area (log
51); the units of a shutter (log 52). -/
def Obligations.PartitionEvents : Prop :=  (∀ (s : State) (n : Nat) (w : Swap) (o : Nat) (p : Part), s.swaps[n]? = some w → w.out = some o → w.back = none → s.parts.get? o = some p →
    s.saveReady o p = true → w.toDram = true →
      ∃ u, exec (.swapComplete n) s = .next u ∧ u.swaps = s.swaps.eraseIdx n ∧ (u.parts.get? o).map (·.state) = some 7)
  ∧ (∀ (s : State) (pid : Nat) (p : Part) (h : Shutter) (x : ShutterUnit), s.parts.get? pid = some p → p.shutter = some h → p.state = 9 →
    h.units = [x] → x.ended = false → s.unitOver p x = true →
      ∃ u, exec (.shutterUnitEnd pid) s = .next u
        ∧ ((u.parts.get? pid).bind (·.shutter)).map (·.units) = some [{ x with ended := true }])
  ∧ (∀ (s : State) (pid : Nat) (p : Part) (h : Shutter), s.parts.get? pid = some p → p.shutter = some h → p.state = 9 →
    (∀ x ∈ h.units, x.ended = true) → s.saveReady pid p = true →
      ∃ u, exec (.shutterVacant pid) s = .next u ∧ (u.parts.get? pid).map (·.state) = some 10)
  ∧ (∀ (s : State) (t o : Nat), (s.tile t).refill.get 0 = some o →
    ∃ u, exec (.bstoreRefill t) s = .next u
      ∧ (u.tile t).refill.get 0 = if s.bWindow t 0 ≤ o + min 0x4000 (s.bWindow t 0 - o) then none else some (o + min 0x4000 (s.bWindow t 0 - o)))

/-- R155, R215, R217, R221, R223, R224: the arithmetic, logic and shift forms of the vector stream hand their entry over; a floating-point form accepts
a rounding mode, an integer form saturation and the unsigned formats of its size. -/
def Obligations.VectorArithmeticHandsOver : Prop :=  (∀ t : FpType, HandsVs (fun vs => .vfadd vs t) (.fp 0 t) (pfxOnly noFmt true false))
  ∧ (∀ t : FpType, HandsVs (fun vs => .vfsub vs t) (.fp 1 t) (pfxOnly noFmt true false))
  ∧ (∀ t : FpType, HandsVs (fun vs => .vfmul vs t) (.fp 2 t) (pfxOnly noFmt true false))
  ∧ (∀ t : FpType, HandsVs (fun vs => .vfma vs t) (.fp 3 t) (pfxOnly noFmt true false))
  ∧ (∀ t : FpType, HandsVs (fun vs => .vfnma vs t) (.fp 4 t) (pfxOnly noFmt true false))
  ∧ (∀ t : FpType, HandsVs (fun vs => .vfmin vs t) (.fp 5 t) (pfxOnly noFmt true false))
  ∧ (∀ t : FpType, HandsVs (fun vs => .vfmax vs t) (.fp 6 t) (pfxOnly noFmt true false))
  ∧ (∀ t : FpType, HandsVs (fun vs => .vfdiv vs t) (.fp 7 t) (pfxOnly noFmt true false))
  ∧ (∀ z : EltSize, HandsVs (fun vs => .vadd vs z) (.int 0 z) (pfxOnly (unsFmt z) false true))
  ∧ (∀ z : EltSize, HandsVs (fun vs => .vsub vs z) (.int 1 z) (pfxOnly (unsFmt z) false true))
  ∧ (∀ z : EltSize, HandsVs (fun vs => .vmul vs z) (.int 2 z) (pfxOnly (unsFmt z) false true))
  ∧ (∀ z : EltSize, HandsVs (fun vs => .vmac vs z) (.int 3 z) (pfxOnly (unsFmt z) false true))
  ∧ (∀ z : EltSize, HandsVs (fun vs => .vminI vs z) (.int 4 z) (pfxOnly (unsFmt z) false true))
  ∧ (∀ z : EltSize, HandsVs (fun vs => .vmaxI vs z) (.int 5 z) (pfxOnly (unsFmt z) false true))
  ∧ (∀ z : EltSize, HandsVs (fun vs => .vminN vs z) (.int 6 z) (pfxOnly (unsFmt z) false true))
  ∧ (∀ z : EltSize, HandsVs (fun vs => .vmaxN vs z) (.int 7 z) (pfxOnly (unsFmt z) false true))
  ∧ (∀ z : EltSize, HandsVs (fun vs => .vand vs z) (.logic 0 z) (pfxOnly (unsFmt z) false true))
  ∧ (∀ z : EltSize, HandsVs (fun vs => .vor vs z) (.logic 1 z) (pfxOnly (unsFmt z) false true))
  ∧ (∀ z : EltSize, HandsVs (fun vs => .vxor vs z) (.logic 2 z) (pfxOnly (unsFmt z) false true))
  ∧ (∀ z : EltSize, HandsVs (fun vs => .vandn vs z) (.logic 3 z) (pfxOnly (unsFmt z) false true))
  ∧ (∀ z : EltSize, HandsVs (fun vs => .vsll vs z) (.logic 4 z) (pfxOnly (unsFmt z) false true))
  ∧ (∀ z : EltSize, HandsVs (fun vs => .vsrl vs z) (.logic 5 z) (pfxOnly (unsFmt z) false true))
  ∧ (∀ z : EltSize, HandsVs (fun vs => .vsra vs z) (.logic 6 z) (pfxOnly (unsFmt z) false true))
  ∧ (∀ vs (z : EltSize) km vb vd, HandsOver (.vmov vs z km vb vd) { op := (.logic 7 z), vs := vs, km := km, vb := vb, vd := vd }
    { pfx := pfxOnly (unsFmt z) false true, badCode := vs && decide (4 ≤ vb.val) })

/-- R155, R215, R225 to R230: the compares, which write a mask register, the mask operations and the conversions hand their entry over.
R155, R215, R231 to R246: permutes, reductions, the special functions and the memory forms hand their entry over; a reduction names one of q4
to q7, a memory form takes its base and stride from q0 to q3 or z, and a global one is isolated on the reflex side. -/
def Obligations.VectorOthersHandOver : Prop :=
  ((∀ z : EltSize, HandsCmp (fun vs => .vceq vs z) (.cmpInt 0 z))
   ∧ (∀ z : EltSize, HandsCmp (fun vs => .vclt vs z) (.cmpInt 1 z))
   ∧ (∀ z : EltSize, HandsCmp (fun vs => .vcge vs z) (.cmpInt 2 z))
   ∧ (∀ z : EltSize, HandsCmp (fun vs => .vcltn vs z) (.cmpInt 3 z))
   ∧ (∀ z : EltSize, HandsCmp (fun vs => .vcgen vs z) (.cmpInt 4 z))
   ∧ (∀ t : FpType, HandsCmp (fun vs => .vfeq vs t) (.cmpFp .eq t))
   ∧ (∀ t : FpType, HandsCmp (fun vs => .vflt vs t) (.cmpFp .lt t))
   ∧ (∀ t : FpType, HandsCmp (fun vs => .vfle vs t) (.cmpFp .le t))
   ∧ (∀ vb va vd, HandsOver (.kand vb va vd) { op := (.maskBin 0), vb := vb, va := va, vd := vd } { pfx := pfxOnly noFmt false false, badCode := !(isMaskReg vb && isMaskReg va && isMaskReg vd) })
   ∧ (∀ vb va vd, HandsOver (.kor vb va vd) { op := (.maskBin 1), vb := vb, va := va, vd := vd } { pfx := pfxOnly noFmt false false, badCode := !(isMaskReg vb && isMaskReg va && isMaskReg vd) })
   ∧ (∀ vb va vd, HandsOver (.kxor vb va vd) { op := (.maskBin 2), vb := vb, va := va, vd := vd } { pfx := pfxOnly noFmt false false, badCode := !(isMaskReg vb && isMaskReg va && isMaskReg vd) })
   ∧ (∀ vb va vd, HandsOver (.kandn vb va vd) { op := (.maskBin 3), vb := vb, va := va, vd := vd } { pfx := pfxOnly noFmt false false, badCode := !(isMaskReg vb && isMaskReg va && isMaskReg vd) })
   ∧ (∀ va vd, HandsOver (.knot va vd) { op := .maskNot, va := va, vd := vd } { pfx := pfxOnly noFmt false false, badCode := !(isMaskReg va && isMaskReg vd) })
   ∧ (∀ va vd, HandsOver (.kpop va vd) { op := .maskPop, va := va, vd := vd } { pfx := pfxOnly noFmt false false, badCode := !(isMaskReg va && decide (vd.val < 4)) })
   ∧ (∀ va vd, HandsOver (.kfirst va vd) { op := .maskFirst, va := va, vd := vd } { pfx := pfxOnly noFmt false false, badCode := !(isMaskReg va && decide (vd.val < 4)) })
   ∧ (∀ va vd, HandsOver (.kword va vd) { op := .maskWord, va := va, vd := vd } { pfx := pfxOnly noFmt false false, badCode := !(isMaskReg va && decide (vd.val < 4)) })
   ∧ (∀ vb vd, HandsOver (.klo vb vd) { op := .maskLo, vb := vb, vd := vd } { pfx := pfxOnly noFmt false false, badCode := !(decide (vb.val < 4) && isMaskReg vd) })
   ∧ (∀ vb vd, HandsOver (.kset vb vd) { op := .maskSet, vb := vb, vd := vd } { pfx := pfxOnly noFmt false false, badCode := !(decide (vb.val < 4) && isMaskReg vd) })
   ∧ Hands3 .vcvtF32Bf16 (.cvt 0) (pfxOnly noFmt true true)
   ∧ Hands3 .vcvtF32F16 (.cvt 1) (pfxOnly noFmt true true)
   ∧ Hands3 .vcvtBf16F32 (.cvt 2) (pfxOnly noFmt true true)
   ∧ Hands3 .vcvtF16F32 (.cvt 3) (pfxOnly noFmt true true)
   ∧ Hands2 .vcvtF16Bf16 (.cvt 4) (pfxOnly noFmt true true)
   ∧ Hands2 .vcvtBf16F16 (.cvt 5) (pfxOnly noFmt true true)
   ∧ Hands2 .vcvtF32I32 (.cvt 6) (pfxOnly noFmt true true)
   ∧ Hands2 .vcvtI32F32 (.cvt 7) (pfxOnly noFmt true true)
   ∧ Hands3 .vcvtF32I8 (.cvt 8) (pfxOnly noFmt true true)
   ∧ Hands3 .vwidI16I8 (.wid 0) (pfxOnly noFmt true true)
   ∧ Hands3 .vwidI32I16 (.wid 1) (pfxOnly noFmt true true)
   ∧ Hands3 .vwidN16N8 (.wid 2) (pfxOnly noFmt true true)
   ∧ Hands3 .vwidN32N16 (.wid 3) (pfxOnly noFmt true true)
   ∧ Hands3 .vnarI8I16 (.nar 0) (pfxOnly (unsFmt .b8) true true)
   ∧ Hands3 .vnarI16I32 (.nar 1) (pfxOnly (unsFmt .b16) true true)
   ∧ Hands3 .vgscLo (.gsc false) (pfxOnly noFmt true true)
   ∧ Hands3 .vgscHi (.gsc true) (pfxOnly noFmt true true)
   ∧ Hands3 .vunpkI8I4 .unpk (pfxOnly noFmt true true)
   ∧ Hands3 .vpkI4I8 .pk (pfxOnly noFmt true true))
  ∧
  (Hands3 .vpermB .perm (pfxOnly noFmt false false)
   ∧ Hands3 .vnibLo (.nib false) (pfxOnly noFmt false false)
   ∧ Hands3 .vnibHi (.nib true) (pfxOnly noFmt false false)
   ∧ (∀ z : EltSize, Hands3 (.vbcast z) (.bcast z) (pfxOnly noFmt false false))
   ∧ (∀ z : EltSize, Hands3 (.vslup z) (.slup z) (pfxOnly noFmt false false))
   ∧ (∀ z : EltSize, Hands3 (.vsldn z) (.sldn z) (pfxOnly noFmt false false))
   ∧ (∀ z : EltSize, Hands2 (.vcomp z) (.comp z) (pfxOnly noFmt false false))
   ∧ (∀ (z : EltSize) km vd, HandsOver (.vidx z km vd) { op := (.idx z), km := km, vd := vd } { pfx := pfxOnly noFmt false false })
   ∧ (∀ (z : EltSize) el va vd, HandsOver (.vmvq z el va vd) { op := (.mvq z), vb := el, va := va, vd := vd }
     { pfx := pfxOnly noFmt false false, badCode := decide (4 ≤ vd.val) })
   ∧ (∀ t : RedType, HandsQ (.vrsum t) (.rsum t) (pfxOnly noFmt false t.fmt.isNone))
   ∧ (∀ t : RedType, HandsQ (.vrmax t) (.rext true t) (pfxOnly noFmt false false))
   ∧ (∀ t : RedType, HandsQ (.vrmin t) (.rext false t) (pfxOnly noFmt false false))
   ∧ (∀ t : RedType, HandsQ (.vramax t) (.raext true t) (pfxOnly noFmt false false))
   ∧ (∀ t : RedType, HandsQ (.vramin t) (.raext false t) (pfxOnly noFmt false false))
   ∧ (∀ t : RedType, Hands2 (.vscan t) (.scan t) (pfxOnly noFmt true t.fmt.isNone))
   ∧ (∀ t : RedType, Hands3 (.vhist t) (.hist t) (pfxOnly noFmt false false))
   ∧ Hands2 .vexp2 .exp2 (pfxOnly noFmt false false)
   ∧ Hands2 .vlog2 .log2 (pfxOnly noFmt false false)
   ∧ Hands2 .vrcp .rcp (pfxOnly noFmt true false)
   ∧ Hands2 .vrsqrt .rsqrt (pfxOnly noFmt true false)
   ∧ Hands2 .vsqrt .sqrt (pfxOnly noFmt true false)
   ∧ Hands3 .vrngN32 (.rng false) (pfxOnly noFmt false false)
   ∧ Hands3 .vrngF32 (.rng true) (pfxOnly noFmt false false)
   ∧ (∀ t : OrdType, Hands2 (.vord t) (.ord false t) (pfxOnly noFmt false false))
   ∧ (∀ t : OrdType, Hands2 (.vordi t) (.ord true t) (pfxOnly noFmt false false))
   ∧ (∀ km base v, HandsOver (.vld km base v) { op := .vld, km := km, base := base, vd := v }
     { pfx := pfxOnly (fun f => decide (f ≤ 8) && (true || decide (f ≠ 1))) false true, badCode := !isVBase base, iso := false })
   ∧ (∀ km base v, HandsOver (.vst km base v) { op := .vst, km := km, base := base, vd := v }
     { pfx := pfxOnly (fun f => decide (f ≤ 8) && (true || decide (f ≠ 1))) false true, badCode := !isVBase base, iso := false })
   ∧ HandsMem .vlds .vlds false false
   ∧ HandsMem .vsts .vsts false false
   ∧ (∀ km base v, HandsOver (.vldg km base v) { op := .vldg, km := km, base := base, vd := v }
     { pfx := pfxOnly (fun f => decide (f ≤ 8) && (true || decide (f ≠ 1))) false true, badCode := !isVBase base, iso := true })
   ∧ (∀ km base v, HandsOver (.vstg km base v) { op := .vstg, km := km, base := base, vd := v }
     { pfx := pfxOnly (fun f => decide (f ≤ 8) && (true || decide (f ≠ 1))) false true, badCode := !isVBase base, iso := true })
   ∧ (∀ km base v, HandsOver (.vldb km base v) { op := .vldb, km := km, base := base, vd := v }
     { pfx := pfxOnly (fun f => decide (f ≤ 8) && (false || decide (f ≠ 1))) false true, badCode := !isVBase base, iso := false }))

/-- R35, R159, R217, R221, R223 to R226, R232: element by element: an active position holds the operation of the sources' elements, an inactive one what
it held; integer sums and differences without saturation wrap; a compare leaves 0 in the mask bit of an inactive position; vbcast copies one element. -/
def Obligations.VectorElementResults : Prop :=  ∀ (x : VEntry) (h : Half) (vb : VecVal) (i : Nat),
    let va := h.v.get x.va
    let old := h.v.get x.vd
    (∀ (op : Fin 8) (t : FpType), x.op = .fp op t → i < 2048 / t.fmt.width →
      ∃ v, (x.compute h vb).vd = some v ∧ vel t.fmt.width v i =
        (if h.active x.km i then (fpOp op t.fmt x.mode (vel t.fmt.width va i) (vel t.fmt.width vb i) (vel t.fmt.width old i)).1 % 2 ^ t.fmt.width
          else vel t.fmt.width old i))
    ∧ (∀ z : EltSize, i < 2048 / z.bits → pfxSat x.pfx = false →
        (x.op = .int 0 z → ∃ v, (x.compute h vb).vd = some v ∧
          vel z.bits v i = if h.active x.km i then (vel z.bits va i + vel z.bits vb i) % 2 ^ z.bits else vel z.bits old i)
        ∧ (x.op = .int 1 z → ∃ v, (x.compute h vb).vd = some v ∧
          vel z.bits v i = if h.active x.km i then (vel z.bits va i + (2 ^ z.bits - vel z.bits vb i)) % 2 ^ z.bits else vel z.bits old i)
        ∧ (x.op = .logic 0 z → ∃ v, (x.compute h vb).vd = some v ∧
          vel z.bits v i = if h.active x.km i then vel z.bits va i &&& vel z.bits vb i else vel z.bits old i)
        ∧ (x.op = .cmpInt 0 z → ∃ k, (x.compute h vb).kd = some k ∧
          k.getLsbD i = (h.active x.km i && decide (vel z.bits va i = vel z.bits vb i)))
        ∧ (x.op = .bcast z → ∃ v, (x.compute h vb).vd = some v ∧
          vel z.bits v i = if h.active x.km i then vel z.bits va x.vb.val else vel z.bits old i))

/-- R216, R217, R219, R244, R484: the vector unit starts the head entry of the context whose turn it is, and writes what its operation delivers; a
burst that is over returns its token; the scalar stream takes a pending bound trap.
The model's choice: where a burst takes its token (log 38). -/
def Obligations.VectorStreamEvents : Prop :=  (∀ (s : State) (t : Nat) (c : Fin 8) (x : VEntry) (rest : List VEntry),
    let h := (s.slotAt t c).half
    h.vq = x :: rest → s.needsBurst t c = false → s.vectorPick t = some c → s.streamRuns t c = true → h.queuesReady x.queues = true →
    x.vs = false → (∃ z op, x.op = .int op z ∨ x.op = .logic op z) ∨ (∃ op f, x.op = .fp op f) →
      ∃ u, exec (.vectorStart t c) s = .next u ∧ (u.slotAt t c).half = { h.deliver x (x.compute h (h.v.get x.vb)) with vq := rest })
  ∧ (∀ (s : State) (t : Nat) (l : Nat), (s.tile t).burst = some l → l + 64 < s.cycle → (s.tile t).burstAct = 0 →
    ∃ u, exec (.transcendentalBurstEnd t) s = .next u ∧ (u.tile t).burst = none
      ∧ u.bay (bayOf t) = (s.bay (bayOf t)).give (s.tile t).burstRes 1)
  ∧ (∀ (s : State) (t : Nat) (c : Fin 8) (b : Nat × Word), (s.slotAt t c).half.boundTrap = some b → (s.slotAt t c).phase = .live →
    (s.slotAt t c).wfrozen = false → s.frozenShare t (s.shareAt t c) = false → (s.slotAt t c).holds = false →
      ∃ u, exec (.boundTrap t c) s = .next u ∧ (u.slotAt t c).half.boundTrap = none
        ∧ (u.slotAt t c).half.cause = BitVec.ofNat 64 (b.1 % 256 * 256 + 0x11) ∧ (u.slotAt t c).half.faddr = b.2)

/-- R311, R312, R315, R316: done ends the activation when its commands, transfers and vector stream have ended and its queues are empty, after
the release part of its items, which are then injected one by one; flush releases them and goes on when they are injected.
R154, R315, R389: done with an entry left in a queue takes the trap 0x2A with a bit for each such queue, and with an error of its engine
work the trap 0x2B.
The model's choices: done without items waits for no store (log 23); a release's messages are injected one by one, in issue order, and a
second release of the tile waits for the first (log 39). -/
def Obligations.DoneAndFlush : Prop :=
  ((∀ s : State, s.half.vq = [] → s.half.boundTrap = none → (∀ i, s.half.q.get i = []) → s.mxPending s.cur s.act.id = false →
     s.transfersPending s.cur s.act.id = false → s.act.engErr = none →
       let s1 := commitUndo s
       let ends (u : State) (n : Nat) : State := (u.setSlot { u.slot with phase := .retiring }).retire { len := n } .stay
       (s1.myItems = [] → (s.Ready {} → exec .done s = .next (ends s1 4)) ∧ (s.Ready { len := 2 } → exec .compactDone s = .next (ends s1 2)))
       ∧ (s1.myItems ≠ [] → s1.releaseStop true (if s1.myItems.any fun o => o.kind.isHost then 4 else 3) = none → s1.releasing = false →
           (s.Ready {} → exec .done s = .next (ends s1.releaseAll.spent 4))
           ∧ (s.Ready { len := 2 } → exec .compactDone s = .next (ends s1.releaseAll.spent 2))))
   ∧ (∀ s : State,
       let s1 := commitUndo s
       let held (u : State) : State := u.setSlot { u.slot with waiting := true, waitOn := .other }
       (s.act.released = false → s.myItems = [] → (s.Ready {} → exec .flush s = .next (s1.spent.retire {} .next))
         ∧ (s.Ready { len := 2 } → exec .compactFlush s = .next (s1.spent.retire { len := 2 } .next)))
       ∧ (s.act.released = false → s.myItems ≠ [] → s.half.vq = [] → s.half.boundTrap = none →
           s1.releaseStop true (if s1.myItems.any fun o => o.kind.isHost then 4 else 3) = none → s1.releasing = false →
             (s.Ready {} → exec .flush s = .next (held s1.releaseAll.spent))
             ∧ (s.Ready { len := 2 } → exec .compactFlush s = .next (held s1.releaseAll.spent)))
       ∧ (s.act.released = true →
           let s2 := (s.modAct fun a => { a with released := false }).spent
           (s.Ready {} → exec .flush s = .next (if s.myItems = [] then s2.retire {} .next else held s))
           ∧ (s.Ready { len := 2 } → exec .compactFlush s = .next (if s.myItems = [] then s2.retire { len := 2 } .next else held s)))))
  ∧
  (∀ s : State, s.Ready {} → s.half.vq = [] → s.half.boundTrap = none →
     ((∃ i, s.half.q.get i ≠ []) → exec .done s = .next (s.takeTrap s.half.pc { code := 0x2A, faddr := BitVec.ofNat 64 s.half.queueBits }))
     ∧ (∀ i, s.half.queueBits.testBit i = true ↔ ∃ k : Fin 8, k.val = i ∧ s.half.q.get k ≠ [])
     ∧ (∀ r f, (∀ i, s.half.q.get i = []) → s.mxPending s.cur s.act.id = false → s.transfersPending s.cur s.act.id = false →
         s.act.engErr = some (r, f) → exec .done s = .next (s.takeTrap s.half.pc { code := 0x2B, reason := r, faddr := f })))

/-- R305, R306, R318, R331, R308, R313 to R315, R335, R392: the events in the life of an activation: a message takes its inbox entry, an item binds,
the items of an activation that retires are injected one message at a time, and after the last one its context is freed, an abort begins and ends, a spent budget is a trap.
The model's choices: the messages of a release are injected one by one (log 39); a tile takes one message of each network in a cycle, and
what the messages of a bay-remote access carry (log 10); the context and the half that bind (log 11). -/
def Obligations.ActivationEvents : Prop :=  (∀ (s : State) (n : Nat) (m : Msg), s.net[n]? = some m → pathBlocked s.net n m = false →
    (m.kind ≠ 2 → m.kind ≠ 3 → m.kind ≠ 5 → s.intoImage m = false → (s.tile m.dst).inNet ≤ m.vnet → s.inboxRoom m.dst m = true →
      (s.dropNet n).arrivalCheck m.dst m = .queue →
        ∃ u, exec (.messageArrival n) s = .next u ∧ u.net = s.net.eraseIdx n
          ∧ (u.tile m.dst).inbox = (s.tile m.dst).inbox ++ [{ m with arrival := s.cycle }])
    ∧ (m.kind ≤ 4 → m.kind ≠ 2 → m.kind ≠ 3 → s.intoImage m = true → s.entryRoom m.dst m = true →
        exec (.messageArrival n) s = .next ((s.dropNet n).arriveImage m.dst m))
    ∧ ((s.tile m.dst).portQ.length < 16 → ∀ o,
        (m.kind = 2 ∧ m.remote = none ∧ o = .put m) ∨ (m.kind = 3 ∧ m.remote = none ∧ o = .arrive m)
          ∨ (m.kind = 5 ∧ m.isAnswer = false ∧ ∃ r, m.remote = some r ∧ o = .remote r) →
          ∃ u, exec (.messageArrival n) s = .next u ∧ u.net = s.net.eraseIdx n ∧ (u.tile m.dst).portQ = (s.tile m.dst).portQ ++ [o])
    ∧ (∀ r, m.kind = 5 → m.isAnswer = true → m.remote = some r → exec (.messageArrival n) s = .next ((s.dropNet n).answered r)))
  ∧ (∀ (s : State) (t : Nat) (it : RunItem) (c : Fin 8) (m : Msg), s.select t = some (it, c) → (s.tile t).inbox[it.pos]? = some m →
    ∃ u, exec (.binding t c) s = .next u ∧ (u.slotAt t c).phase = .live ∧ (u.slotAt t c).act.tenant = m.tenant
      ∧ (u.slotAt t c).half.pc = BitVec.ofNat 64 (s.entryOf t it m).1 ∧ (u.slotAt t c).half.budget = BitVec.ofNat 64 (s.entryOf t it m).2
      ∧ (u.tile t).inbox = (s.tile t).inbox.eraseIdx it.pos)
  ∧ (∀ (s : State) (t : Nat) (c : Fin 8), (s.slotAt t c).phase = .retiring → (s.slotAt t c).wfrozen = false → s.frozenShare t (s.shareAt t c) = false →
    (∀ s1, s.injectHeld t (s.shareAt t c) (s.slotAt t c).act.id = false → s.injectNext t (s.shareAt t c) (s.slotAt t c).act.id = some s1 →
      exec (.doneRetire t c) s = .next s1)
    ∧ (s.itemsOf t (s.shareAt t c) (s.slotAt t c).act.id = [] →
        exec (.doneRetire t c) s = .next (s.endAct t c) ∧ (((s.endAct t c).tile t).ctx c).slot ((s.tile t).ctx c).cur = {}))
  ∧ (∀ (s : State) (t : Nat) (c : Fin 8) (tr : Trap), (s.slotAt t c).phase = .aborting → (s.slotAt t c).act.abort = some tr →
    s.frozenShare t (s.shareAt t c) = false →
      ((s.slotAt t c).act.abortStarted = false → ∃ u, exec (.abort t c) s = .next u ∧ (u.slotAt t c).act.abortStarted = true
        ∧ (u.slotAt t c).half.vq = [] ∧ (u.slotAt t c).half.loads = [])
      ∧ ((s.slotAt t c).act.abortStarted = true → s.transfersPending t (s.slotAt t c).act.id = false →
          s.atomicPending t (s.slotAt t c).act.id = false →
            exec (.abort t c) s = .next (s.abortEnd t c tr) ∧ (((s.abortEnd t c tr).tile t).ctx c).slot ((s.tile t).ctx c).cur = {}))
  ∧ (∀ (s : State) (t : Nat) (c : Fin 8), (s.slotAt t c).half.budget = 0#64 → s.budgetRuns t (s.shareAt t c) (s.slotAt t c) = true →
    exec (.budgetOverrun t c) s = .next (s.takeTrapAt t c (s.slotAt t c).half.pc { code := 0x29 }))
  ∧ (∀ (s : State) (w : BitVec 32), validKey s.cur = true →
    exec (.illegalInstruction w) s = .next (s.takeTrap s.half.pc { code := 0x20, faddr := w.setWidth 64, own := true }))

/-- R54, R61, R63, R82, R128, R284: an access that nothing holds back is performed at its slice: a load answers its context with the
little-endian value of its bytes, or as poisoned; a store replaces the masked bits; an atomic replaces its word and answers; an inbound write of
the host lands; no other byte changes. A load takes the bytes of a part under RC from a line of the issuing tile's read cache that holds them. A
controller fills a line that an access waits for, or that a store has allocated without its other bytes.
The model's choices: an access is held behind the order point of its context (log 5), and a store updates the read cache when it is
performed (log 65). -/
def Obligations.SliceAccesses : Prop :=  (∀ (s : State) (n : Nat) (o : SliceOp), s.sliceQ[n]? = some o → s.sliceFree n o = true → s.accessReady o = true →
    let s0 : State := { s with sliceQ := s.sliceQ.eraseIdx n }
    let keys := o.what.keys
    let answers (u : State) (id : Nat) (r : Reply) : Prop :=
      ∀ h, ((u.tile o.src.tile).ctx o.src.c).slot h = (((s.tile o.src.tile).ctx o.src.c).slot h).answer id r
    ∃ u, exec (.sliceAccess n) s = .next u ∧ u.sliceQ = s.sliceQ.eraseIdx n
      ∧ (s.Safe → ∀ k, k ∉ keys → u.mem.get k = s.mem.get k)
      ∧ (∀ id addrs, o.what = .load id addrs → u.mem = s.mem ∧
          let s1 := s0.readLines (o.lines ((mainKeys addrs).filter fun k => (s0.fromRd o k).isNone))
          answers u id (if s1.loadPoisoned o addrs then .poisoned 1 0#64 else .value (BitVec.ofNat 64 (leNat (s.loadBytes o addrs)))))
      ∧ (s.Safe → (s0.writeLines (o.lines keys)).sys.uncontained = false →
          ∀ cells, (o.what = .store cells ∨ ∃ f, o.what = .host f cells) → (cells.map (·.1)).Nodup →
            ∀ c ∈ cells, u.mem.get c.1 = (s.mem.get c.1 &&& ~~~ c.2.2) ||| (c.2.1 &&& c.2.2))
      ∧ (∀ id op w64 ks v cmp, o.what = .amo id op w64 ks v cmp →
          let r := amoApply op w64 (leNat (s.bytesAt ks)) v.toNat cmp.toNat
          (s.keysPoisoned ks = true → u.mem = s.mem ∧ answers u id (.poisoned 1 0#64))
          ∧ (s.keysPoisoned ks = false → answers u id (.value r.2.1 r.2.2)
            ∧ (s.Safe → (s0.writeLines ((o.lines ks).map fun l => (l.1, false))).sys.uncontained = false → ks.Nodup →
                ks.length = amoSize w64 → u.bytesAt ks = leBytes (amoSize w64) r.1))))
  ∧ (∀ (s : State) (line : Nat), line * 256 < Config.structuresTop →
    (∃ o ∈ s.sliceQ, line ∈ linesOf (s.missing o)) ∨ (∃ x, s.cached line = some x ∧ x.full = false) →
      ∃ u, exec (.lineFill line) s = .next u ∧ u.mem = s.mem ∧ u.sliceQ = s.sliceQ ∧ ∃ x, u.cached line = some x ∧ x.full = true)
  ∧ (∀ (s : State) (n slice : Nat) (o : SliceOp), s.sliceQ[n]? = some o → o.what = .probe slice →
    (∀ x ∈ s.sliceQ.take n, s.countsFor o.src.pid slice x = false) →
      exec (.probe n) s = .next { s with sliceQ := s.sliceQ.eraseIdx n })

/-- R30, R62, R124, R128, R153, R396: a reply lands in its half: the value, extended as its load says, in the destination and in its place among
y0 to y3, with its flags; a poisoned one begins the abort of the activation, cause 0x28, unless a protection violation freezes it.
R123, R124, R128, R318, R320, R324: a tile's port thread takes the next operation of its queue: a load, store or atomic of another tile
of the bay; the data of a tm.get, which land with their poison and answer it; a put, which is written where the window check passes, with its poison mask, and else is an event of type 12; an arrival at a barrier,
which counts, or as the last one sends every member its notification and begins the next generation.
The model's choices: what the messages of a bay-remote access carry (log 10), and what a landing put makes of the poison of the sectors
that it covers (log 84). -/
def Obligations.RepliesAndPortThreads : Prop :=
  ((∀ (s : State) (t : Nat) (c : Fin 8) (h : Bool) (l : PendLoad),
     let k := (s.tile t).ctx c
     let x := k.slot h
     let lands (y : Slot) : State := s.modTile t fun z => z.setCtx c (k.setSlot h y)
     (x.half.loads.find? fun l => l.reply.isSome) = some l → (h = true → ∀ l ∈ (k.slot false).half.loads, l.reply = none) →
       (∀ v fl, l.reply = some (.value v fl) →
         let u := lands { x with half := x.half.landLoad l v fl }
         let u1 := if l.acq then u.orderPoint t c else u
         exec (.loadReply t c) s = .next (if l.inv then u1.rdInvalidate t x.act.tenant else u1))
       ∧ (∀ reason w, x.phase ≠ .frozen → l.reply = some (.poisoned reason w) →
         let y : Slot := { x with half := { x.half with loads := x.half.loads.filter fun z => decide (z.id ≠ l.id) } }
         exec (.loadReply t c) s = .next (lands (if x.phase = .aborting then y
           else y.beginAbort l.pc { code := 0x28, reason := reason, faddr := l.faddr, place := l.place, target := l.target }))))
   ∧ (∀ (h : Half) (l : PendLoad) (v : Word) (fl : Flags),
     let u := h.landLoad l v fl
     let x := extendLoad l.size l.signed v.toNat
     u.fflags = h.fflags ||| fl ∧ (∀ y ∈ u.loads, y.id ≠ l.id) ∧ (∀ i, l.d = .g i → u.g.get i = x)
       ∧ ∀ k : Fin 4, (h.ypend.get k = l.id + 1 → u.y.get k = x ∧ u.ypend.get k = 0)))
  ∧
  (∀ (s : State) (t : Nat) (rest : List PortOp),
     let s1 := s.modTile t fun x => { x with portQ := rest }
     (∀ tl c sh id addr size, (s.tile t).portQ = .remote (.load tl c sh id addr size) :: rest →
       let s2 := s1.senseWin t sh addr size
       exec (.portThreadOperation t) s = .next (s2.sendPort t sh tl 1 (.answer tl c sh id (some
         (if s2.winPoisoned t sh addr size then .poisoned 0 0#64 else .value (BitVec.ofNat 64 (leNat (s2.readWin t sh addr size))))))))
     ∧ (∀ tl c sh id addr bs, (s.tile t).portQ = .remote (.store tl c sh id addr bs) :: rest →
       exec (.portThreadOperation t) s = .next ((s1.writeWin t sh addr bs).sendPort t sh tl 1 (.answer tl c sh id none)))
     ∧ (∀ tl c sh id op w64 addr v cmp, (s.tile t).portQ = .remote (.amo tl c sh id op w64 addr v cmp) :: rest →
       let s2 := s1.senseWin t sh addr (amoSize w64)
       let r := amoApply op w64 (leNat (s2.readWin t sh addr (amoSize w64))) v.toNat cmp.toNat
       let answers (u : State) (x : Reply) : State := u.sendPort t sh tl 1 (.answer tl c sh id (some x))
       (s2.winPoisoned t sh addr (amoSize w64) = true → exec (.portThreadOperation t) s = .next (answers s2 (.poisoned 0 0#64)))
       ∧ (s2.winPoisoned t sh addr (amoSize w64) = false → exec (.portThreadOperation t) s =
           .next (answers (s2.writeWin t sh addr (leBytes (amoSize w64) r.1)) (.value r.2.1 r.2.2))))
     ∧ (∀ c sh id dst bs bad r, (s.tile t).portQ = .land c sh id dst bs bad r :: rest →
       exec (.portThreadOperation t) s = .next ((s1.landWin t sh dst bs bad).sendReply t c id r))
     ∧ (∀ m i, (s.tile t).portQ = .put m :: rest → s1.shareFor t m = some i →
       (s1.checkWindow t i 0#32 m.addr m.body.length .put = none → exec (.put t) s =
         .next (s1.landWin t i m.addr m.body ((List.range m.body.length).filter fun k => m.pmask.getLsbD (k / 8))))
       ∧ (∀ r, s1.checkWindow t i 0#32 m.addr m.body.length .put = some r → exec (.put t) s = .next (s1.post {
           type := 12, tenant := m.tenant, cause := r, info := m.dest.toNat + m.addr * 2 ^ 32, loc := m.addr, ptile := s1.physTile t,
           ltile := m.dest.toNat })))
     ∧ (∀ m i, (s.tile t).portQ = .arrive m :: rest → s1.shareFor t m = some i →
       let w := m.word 0
       let key := barrierKey i (wfield w 26 16)
       let b := ((s1.tile t).barriers.get? key).getD {}
       let n := (members ((s1.launchOf (s1.pidAt t i)).group (wfield w 7 0))).length
       b.count = 0 ∨ b.grp = wfield w 7 0 →
         ∃ u, exec (.barrierArrival t) s = .next u
           ∧ (b.count + 1 ≠ n → (u.tile t).barriers.get? key = some { count := b.count + 1, gen := b.gen, grp := wfield w 7 0 } ∧ u.net = s.net)
           ∧ (b.count + 1 = n → (u.tile t).barriers.get? key = some { count := 0, gen := b.gen + 1, grp := wfield w 7 0 }
               ∧ u.net.length = s.net.length + n)))

/-- R52, R293, R294, R394: the host port accepts the oldest outbound write of a function once no access issued before it keeps it waiting, and it is then in host
memory; an inbound posted write to
the function's frames of main memory joins its slices' queue; one beyond main memory freezes the function.
R304, R446: SENDDB sends the staged payload to a tile of a launch of the function, with a header of source 0x7FF and the function's next
sequence number, after the function's posted writes, and SENDST counts nothing; a refused send leaves its status and counts. R447: a message
for the host is written as a whole entry of the ring and HCPROD rises by one. R448: EQPOP reads the oldest event of the function's
queue and takes it out.
The model's choices: ring indices that run freely (log 25), which posted writes are violations (log 31), the order of a send's refusals
(log 54), and the partition that a send means where several hold its launch number (log 89). -/
def Obligations.HostPort : Prop :=
  ((∀ (s : State) (f : Fin 16) (o : OutWrite) (rest : List OutWrite), (s.fn f.val).outbound = o :: rest →
     (∀ x ∈ s.sliceQ, x.what.hostFn = none → x.what.isProbe = false → x.ordered.holds o.ordered = false) →
       ∃ u, exec (.hostPortAcceptance f) s = .next u ∧ (u.fn f.val).outbound = rest
         ∧ (s.Safe → (o.cells.map (·.1)).Nodup → (∀ c ∈ o.cells, u.mem.get c.1 = (s.mem.get c.1 &&& ~~~ c.2.2) ||| (c.2.1 &&& c.2.2))
             ∧ ∀ k, k ∉ o.cells.map (·.1) → u.mem.get k = s.mem.get k))
   ∧ (∀ (s : State) (f : Fin 16) (a : Nat) (bs : List Byte), s.refuses f.val = false → bs ≠ [] →
     let keys := (List.range bs.length).map fun i => a + i
     (a + bs.length ≤ Config.mainMemoryTop → (f = 0 ∨ ∀ k ∈ keys, s.frame (k / 4096) / 16 = f.val) →
       exec (.hostPostedWrite f a bs) s = .next { s with
         fresh := s.fresh + 1
         sliceQ := s.sliceQ ++ [{ src := { tile := 0, c := 0, pid := 16 }, what := .host f (plainCells keys bs), seq := s.fresh }] })
     ∧ (Config.mainMemoryTop < a + bs.length → ∃ u, exec (.hostPostedWrite f a bs) s = .next u ∧ (u.fn f.val).frozen = true ∧ u.mem = s.mem)))
  ∧
  ((∀ (s : State) (f : Fin 16), s.refuses f.val = false → (∀ o ∈ s.sliceQ, o.what.hostFn ≠ some f) →
     let g := s.fn f.val
     let c := g.sendctl
     (s.sendRefusal g f.val ≠ 0 → ∃ u, exec (.senddb f) s = .next u ∧ u.net = s.net ∧
         (u.fn f.val).sendst.toNat = s.sendRefusal g f.val + (g.sendst.toNat / 2 ^ 32 + 1) % 2 ^ 32 * 2 ^ 32)
     ∧ (∀ pid p l t, s.sendRefusal g f.val = 0 → s.launchPart f.val (wfield c 63 48) (wfield c 10 0) = some (pid, p, l) →
         p.tileOf (wfield c 10 0 % 1024) = some t → savedState p.state = false →
           ∃ u, exec (.senddb f) s = .next u ∧ (u.fn f.val).seq = (g.seq + 1) % 2 ^ 21
             ∧ (u.fn f.val).sendst.toNat = g.sendst.toNat / 2 ^ 32 % 2 ^ 32 * 2 ^ 32
             ∧ u.net = s.net ++ [{
                 msgid := BitVec.ofNat 32 (0x7FF * 2 ^ 21 + g.seq % 2 ^ 21), launch := l.num, tenant := f.val,
                 kind := if c.getLsbD 32 then 1 else 0, source := 0x7FF#11, vnet := 0,
                 chan := if c.getLsbD 32 then 0 else wfield c 21 16,
                 dest := BitVec.ofNat 11 (wfield c 10 0), dst := t, src := 4096 + f.val, pid := pid,
                 body := (List.range (wfield c 31 24)).map fun i => (g.payload[i]?).getD 0#8 }]))
   ∧ (∀ (s : State) (n : Nat) (m : Msg), s.hostq[n]? = some m → (∀ x ∈ s.hostq.take n, x.tenant ≠ m.tenant) → m.tenant < 16 →
     (s.fn m.tenant).outbound = [] → s.torn m = false → (s.fn m.tenant).hcheld = [] → (s.fn m.tenant).ringRoom = true →
       let g := s.fn m.tenant
       let a := hostKey m.tenant (g.hcbase.toNat / 4096 * 4096 + 256 * (g.hcprod.toNat % g.ringSize))
       ∃ u, exec (.hostChannelWrite n) s = .next u ∧ u.hostq = s.hostq.eraseIdx n ∧ (u.fn m.tenant).hcprod = g.hcprod + 1#64
         ∧ u.mem = s.mem.write a (leBytes 16 m.header ++ m.body ++ List.replicate (240 - m.body.length) 0#8))
   ∧ (∀ (s : State) (f : Fin 16), s.refuses f.val = false →
     (∀ e rest, (s.fn f.val).eq = e :: rest → exec (.eqpop f) s =
       .next (s.modFn f.val fun g => { g with eq := rest, eqdata := BitVec.ofNat 256 e.bits }))
     ∧ ((s.fn f.val).eq = [] → exec (.eqpop f) s = .next (s.modFn f.val fun g => { g with eqdata := 0#256 }))))

/-- R255 to R257, R263, R280: a command enters its queue when there is room, a heavy one that gets no leave waiting for it; the first that is
not started is performed; one that is complete leaves the queue.
R85, R86, R89, R90, R97, R100, R101, R103, R291: a transfer's segments are sent under the channel's limits; its next line is served in its turn;
a cancelled one stops; one that has ended frees its place, records its identifier and sends what its form asks for.
The model's choices: what a line of a transfer is (log 66), and the order in which events come (log 5). -/
def Obligations.EngineAndStreamerSteps : Prop :=
  ((∀ (s : State) (t : Nat) (i : Fin 3) (c : MxCmd) (rest : List MxCmd),
     let f (_ : Fin 3) (e : Engine) : Bool := decide (e.queue.length < 8) && (match e.entering with | x :: _ => x.bay.isNone | [] => false)
     let g (_ : Fin 3) (e : Engine) : Bool := decide (e.queue.length < 8) && (match e.entering with | x :: _ => x.bay.isSome | [] => false)
     ((s.tile t).engine i).entering = c :: rest →
       (s.engineShare t f = some i → exec (.mxQueueEntry t) s = .next (s.mxEnter t i))
       ∧ (s.engineShare t g = some i → exec (.mxBayMember t) s = .next (s.mxEnter t i))
       ∧ (((s.mxEnter t i).tile t).engine i).entering = rest
       ∧ ∃ c1, (((s.mxEnter t i).tile t).engine i).queue = ((s.tile t).engine i).queue ++ [c1] ∧ c1.uid = c.uid ∧ c1.a = c.a ∧ c1.b = c.b
           ∧ (c.sub ≠ 1 → c.sub ≠ 5 → c1.wantsLeave = false))
   ∧ (∀ (s : State) (t : Nat) (i : Fin 3) (c : MxCmd), s.engineShare t (fun i e => e.ready (s.mxBlocks t i)) = some i →
     ((s.tile t).engine i).startable = some c →
       let r := s.runMx t i c
       let s1 := r.st.modEngine t i fun e =>
         { (e.updateCmd c.uid fun x => { x with started := true, flags := r.flags, poison := r.poison, lastBuf := r.buf }) with flags := e.flags ||| r.flags }
       (r.err = none → exec (.mxCommandStart t) s = .next s1)
       ∧ (∀ reason, r.err = some reason → exec (.mxCommandStart t) s = .next (s1.engineError t c.act c.tenant reason c.a)))
   ∧ (∀ (s : State) (t : Nat) (i : Fin 3) (c : MxCmd), s.engineShare t (fun _ e => e.queue.any fun c => c.started) = some i →
     (((s.tile t).engine i).queue.find? fun c => c.started) = some c →
       let s2 := (s.modEngine t i fun e => { e with queue := e.queue.filter fun x => decide (x.uid ≠ c.uid) }).leaveReturn t i c.act c.tokens c.fromHold
       (c.bay = none → exec (.mxCommandComplete t) s = .next (s2.mxNotify t i c c.flags c.poison))
       ∧ (∀ b, c.bay = some b → exec (.mxCommandComplete t) s =
           .next (({ s2 with bayOps := s2.bayOps.map fun o => BayOp.memberDone o b.2 t c }).bayFinish b.2)))
   ∧ (∀ (s : State) (t : Nat) (o : BayOp), (s.bayOps.find? fun o => o.foldable t && (blockTiles t (kSplit (shLayout o.cmd.b))).all fun x => s.engineRuns x 0) = some o →
       let s1 := s.bayFold t o.cmd
       exec (.mxBayFold t) s = .next (({ s1 with bayOps := s1.bayOps.map fun x => BayOp.foldDone x o.uid t }).bayFinish o.uid)))
  ∧
  (∀ (s : State) (n : Nat) (x : Transfer), s.transfers[n]? = some x →
     (x.phase = .sent → s.forkReady x = true → s.transferHeld x = false →
       let c := (s.tile x.tile).chan x.share x.chan
       let s1 := if x.idx = [] then s.senseIndex x else s
       let y := s1.sendSegments x
       exec (.streamerSegment n) s = .next ({ s1 with fresh := s1.fresh + 1 }.setTransfer y) ∧ y.phase = .running ∧ y.arrived = s1.fresh
         ∧ ((x.form.gather = false ∨ x.idx ≠ []) → s1 = s → y = { x with phase := .running, lo := c.min, hi := c.max, arrived := s.fresh }))
     ∧ (∀ p k, x.phase = .running → s.transferHeld x = false → s.nextLine x = some (p, k) → s.portClear x p k = true →
       exec (.streamerLine n) s = .next (s.servePiece x p k))
     ∧ (x.cancelReq = true → x.phase ≠ .cancelled → (∀ st, x.phase ≠ .ended st) →
       exec (.streamerCancel n) s = .next ((s.setTransfer { x with phase := .cancelled }).dropCopyRequest x))
     ∧ (∀ st, x.phase = .ended st → exec (.transferEnd n) s = .next (s.endTransfer x st false))
     ∧ (x.phase = .cancelled → exec (.transferEnd n) s = .next (s.endTransfer x 0 true))
     ∧ ∀ st b, ∀ y ∈ (s.endTransfer x st b).transfers, y.uid ≠ x.uid)

/-- R354, R449: the request doorbells act on the table of the partition that their value names and leave their result in RQRES: RQSUB
submits the staged record, RQRD stages an own record, RQCAN cancels or frees one; code 4 where the record is not the function's, the
partition does not exist or the array is asleep.
R394, R430, R439, R445: a queue's tail takes a doorbell's value; a write to a register that is not a doorbell has its register's
effect, and a read is answered with the register's value; one that is not aligned freezes the function, and a function that refuses requests
answers a read with Unsupported Request; a function level reset begins, and once nothing of the tenant is in progress ends with the
function's queues empty and the function running.
The model's choices: what RQRD leaves in RQRES and what an access of another size meets (log 57), what a reset takes over (log 53), and
which reads are served after a failed boot (log 86). -/
def Obligations.HostRegisters : Prop :=
  (∀ (s : State) (f : Fin 16) (v : BitVec 64), s.refuses f.val = false →
     let pid := wfield v 19 16
     let i := wfield v 11 0
     let answer (u : State) (w : Word) : State := u.modFn f.val fun g => { g with rqres := w }
     (s.sys.asleep = true ∨ s.parts.get? pid = none →
       exec (.rqsub f v) s = .next (answer s (errWord 4)) ∧ exec (.rqrd f v) s = .next (answer s (errWord 4))
       ∧ exec (.rqcan f v) s = .next (answer s (errWord 4)))
     ∧ (∀ p, s.sys.asleep = false → s.parts.get? pid = some p →
       exec (.rqsub f v) s = .next (answer (s.putTable pid (p.req.submit (s.fn f.val).rqstage f.val).1) (p.req.submit (s.fn f.val).rqstage f.val).2)
       ∧ (ownRecord p.req f.val i = true →
           exec (.rqrd f v) s = .next (answer (s.modFn f.val fun g => { g with rqstage := p.req.recAt i }) 0#64)
           ∧ exec (.rqcan f v) s = .next (answer (s.putTable pid (p.req.cancel i (v.getLsbD 12)).1)
               (BitVec.ofNat 64 (p.req.cancel i (v.getLsbD 12)).2)))
       ∧ (ownRecord p.req f.val i = false →
           exec (.rqrd f v) s = .next (answer s (errWord 4)) ∧ exec (.rqcan f v) s = .next (answer s (errWord 4)))))
  ∧
  ((∀ (s : State) (f : Fin 16) (q : Fin 8) (v : BitVec 64), s.refuses f.val = false →
     ∃ u, exec (.qtail f q v) s = .next u ∧ ((u.fn f.val).queues.get q).tail = v ∧ ((u.fn f.val).queues.get q).head = ((s.fn f.val).queues.get q).head
       ∧ ∀ p, p ≠ q → (u.fn f.val).queues.get p = (s.fn f.val).queues.get p)
   ∧ (∀ (s : State) (f : Fin 16) (off : Nat) (v : BitVec 64), s.refuses f.val = false → off < 0x10000 →
     (off % 8 ≠ 0 → (∃ u, exec (.registerWrite f off (.write v)) s = .next u ∧ (u.fn f.val).frozen = true)
       ∧ ∃ u, exec (.registerWrite f off (.read)) s = .next u ∧ (u.fn f.val).frozen = true ∧ (u.fn f.val).reads = none :: (s.fn f.val).reads)
     ∧ (∀ n, n ≠ 8 → ∃ u, exec (.registerWrite f off (.write v n)) s = .next u ∧ (u.fn f.val).frozen = true)
     ∧ (off % 8 = 0 → isDoorbell off = false →
         (off < 0x8000 → exec (.registerWrite f off (.write v)) s = .next (s.modFn f.val fun g => g.writeReg off v))
         ∧ (0x8000 ≤ off → f ≠ 0 → exec (.registerWrite f off (.write v)) s = .next s)
         ∧ (0x8000 ≤ off → f = 0 → exec (.registerWrite f off (.write v)) s = .next (s.writePf off v)))
     ∧ (off % 8 = 0 → exec (.registerWrite f off (.read)) s =
         .next (s.modFn f.val fun g => { g with reads := some (s.readReg f off) :: g.reads })))
   ∧ (∀ (s : State) (f : Fin 16) (off n : Nat), (s.fn f.val).refuses = true →
     exec (.registerWrite f off (.read n)) s = .next (s.modFn f.val fun g => { g with reads := none :: g.reads }))
   ∧ (∀ (s : State) (f : Fin 16) (off : Nat), (s.fn f.val).refuses = false → 0x80 ≤ s.sys.bootst →
     (f ≠ 0 ∨ off < 0x8000 ∨ 0x80D0 ≤ off →
       (∀ v n, exec (.registerWrite f off (.write v n)) s = .next s)
       ∧ (0x18 ≤ off → ∀ n, exec (.registerWrite f off (.read n)) s = .next (s.modFn f.val fun g => { g with reads := none :: g.reads })))
     ∧ (f = 0 → 0x8000 ≤ off → off < 0x80D0 → off % 8 = 0 → ∀ v, exec (.registerWrite f off (.write v)) s = .next (s.writePf off v)))
   ∧ (∀ (g : Fn) (v : Word), (g.writeReg 0x10F0 v).sendctl = v ∧ (g.writeReg 0x2408 v).getaddr = v ∧ (g.writeReg 0x3010 v).dmcons = v
       ∧ (g.writeReg 0x5018 v).hccons = v ∧ (g.hcprod = g.hccons → (g.writeReg 0x5000 v).hcbase = v)
       ∧ (g.hcprod ≠ g.hccons → (g.writeReg 0x5000 v).hcbase = g.hcbase))
   ∧ (∀ (s : State) (f : Fin 16),
     ((s.fn f.val).resetting = false → exec (.functionLevelReset f) s = .next (s.resetBegin f.val))
     ∧ ((s.fn f.val).resetting = true → s.resetDrained f.val = true →
         exec (.functionLevelReset f) s = .next (s.resetEnd f.val)
         ∧ ((s.resetEnd f.val).fn f.val).resetting = false ∧ ((s.resetEnd f.val).fn f.val).frozen = false
         ∧ ((s.resetEnd f.val).fn f.val).eq = [] ∧ ((s.resetEnd f.val).fn f.val).vin = [])))

/-- R328, R439 to R441, R431: the placer takes the entry whose doorbell came first among the queues' heads that name a free partition: one that its
checks refuse gets their status, and one that they let pass begins its launch with the partition's next number; a cancelled one is passed
over. Every 4096 cycles a sweep looks at a launch; the second in a row that finds it idle with the same equal counts ends it, with a message to the host unless its queue is torn down.
The model's choices: which entries wait and the meaning of reserved words, and where the resource table lies (log 55); when a sweep comes,
and that the end of a launch waits for outbound writes (log 56). -/
def Obligations.LaunchLife : Prop :=  (∀ (s : State) (pid f : Nat) (q : Fin 8) (bell i : Nat) (more : List Nat),
    s.sys.asleep = false → s.sys.suspended = false → s.sys.bootst = 6 → earliest (s.candidates pid) = some (f, q, bell) →
    ((s.fn f).queues.get q).pending = i :: more →
      let x := (s.fn f).queues.get q
      let s0 := s.setQueue f q (x.take i)
      let w (k : Nat) : Nat := s.entryWord f x i k
      let len := bits (w 1) 31 0
      let im := s.mem.bytes (hostKey f (w 0)) len
      let bs := (List.range (bits (w 3) 15 0)).map fun k =>
        (leNat (s.mem.bytes (hostKey f (w 2 + 16 * k)) 8), leNat (s.mem.bytes (hostKey f (w 2 + 16 * k + 8)) 8))
      let reserved := w 4 ≠ 0 ∨ w 5 ≠ 0 ∨ w 6 ≠ 0 ∨ bits (w 1) 46 36 ≠ 0 ∨ bits (w 3) 63 16 ≠ 0
      let r := s.admitLaunch f pid im len bs
      (∀ p, s.parts.get? pid = some p → p.launch = none → p.state = 1 →
        (i ∈ x.cancelled → exec (.admission pid) s = .next s0)
        ∧ (i ∉ x.cancelled → reserved → exec (.admission pid) s = .next (s0.writeEntry f x i 0 1))
        ∧ (i ∉ x.cancelled → ¬ reserved → r.1 ≠ 0 → exec (.admission pid) s = .next (s0.writeEntry f x i 0 r.1))
        ∧ (i ∉ x.cancelled → ¬ reserved → r.1 = 0 → exec (.admission pid) s =
            .next ((s0.startLaunch pid f q.val p im (imgSects im) r.2).writeEntry f x i (launchNumber p.nextLaunch) 0))))
  ∧ (∀ (s : State) (pid : Nat) (p : Part) (l : Launch), s.parts.get? pid = some p → p.launch = some l → l.sweepAt + 4096 ≤ s.cycle →
    let a := s.sentSum p l
    let b := s.receivedSum p
    let calm := !haltedState p.state && ((s.holdings p).all fun x => s.tileIdle x.1 x.2 pid l) && s.unitsIdle pid p l && decide (a = b)
    let keepOn (last : Option (Nat × Nat)) : State := s.modPart pid fun q => { q with launch := some { l with lastSweep := last, sweepAt := s.cycle } }
    (calm = false → exec (.sweep pid) s = .next (keepOn none))
    ∧ (calm = true → l.lastSweep ≠ some (a, b) → exec (.sweep pid) s = .next (keepOn (some (a, b))))
    ∧ (calm = true → l.lastSweep = some (a, b) → (∀ o ∈ (s.fn l.tenant).outbound, o.src.pid ≠ pid) →
        exec (.sweep pid) s = .next (s.endLaunch pid p l) ∧ ((s.endLaunch pid p l).parts.get? pid).map (·.launch) = some none
        ∧ (l.torn = true → (s.endLaunch pid p l).hostq = s.hostq)
        ∧ (l.torn = false → ∃ m, (s.endLaunch pid p l).hostq = s.hostq ++ [m] ∧ m.source = 0x7FE#11 ∧ m.launch = l.num ∧ m.tenant = l.tenant)))

/-- R450, R452, R453, R457 to R460: the mailbox serves the request that its first word names: the operation's effect, its status in MBST, its result
in MBRES where it has one, and vector 4 of the physical function.
The model's choices: the places of the operands (log 40); the statuses of refused operations and what extends register 5 (log 41); sleep,
wake and suspend (log 42); a slot configuration outside its grant (log 91). -/
def Obligations.Mailbox : Prop :=  ∀ s : State, s.sys.mbBusy = true →
    let ends (r : State × Nat) : State := (r.1.modSys fun y => y.mbDone r.2).raise 0 4
    let op (n : Nat) : Prop := s.sys.mbWord 0 = n
    (op 1 → exec .mbExecSystemInstruction s = .next (ends s.mbExec))
    ∧ (op 2 → exec .mbSlotConfig s = .next (ends s.measureOp.mbSlot))
    ∧ (op 3 → ∀ r, s.mbArm = some r → exec .mbWicketArm s = .next (ends (r.1.measureOp, r.2)))
    ∧ (op 4 → exec .mbErrorArea s = .next (ends s.mbArea))
    ∧ (op 5 → exec .mbPowerCap s = .next (ends s.mbCap))
    ∧ (op 6 → (s.sys.mbWord 1 = 0 → s.maySleep = true → exec .mbSleep s = .next (ends (s.enterSleep, 0)) ∧ s.enterSleep.sys.asleep = true)
        ∧ (s.sys.mbWord 1 = 0 → s.maySleep = false → exec .mbSleep s = .next (ends (s, 3)))
        ∧ (s.sys.mbWord 1 = 1 → exec .mbWake s = .next (ends (s.modSys fun y => y.requestWake 1#64, 0)))
        ∧ (1 < s.sys.mbWord 1 → exec .mbSleep s = .next (ends (s, 2))))
    ∧ (op 7 → (s.sys.mbWord 1 = 0 → s.sys.role ≠ 1 → s.sys.suspended = false →
          exec .mbSuspend s = .next (ends (s.modSys fun y => { y with suspended := true }, 0)))
        ∧ (s.sys.mbWord 1 = 1 → s.sys.suspended = true → exec .mbResume s = .next (ends (s.modSys fun y => { y with suspended := false }, 0))))
    ∧ (op 8 → exec .mbPeerWord s = .next (ends s.measureOp.mbPeer))
    ∧ (op 9 → exec .mbLifetimeRecord s = .next (ends s.mbLife))
    ∧ (s.sys.mbWord 1 < 360 ∨ 1280 < s.sys.mbWord 1 → s.mbCap = (s, 2))
    ∧ ∀ r, (ends r).sys.mbst = BitVec.ofNat 64 (r.2 * 256)

/-- R6, R345, R346, R455, R457, R459: the array is awake once a wake that was asked for is complete; boot goes on stage by stage, or stops at the
stage that fails, the second when the firmware's signature does not verify; an exchange brings device time in step and never turns it back; a sample counts a millisecond; a quote takes a leaf of the identity key, of which the boot reserves a block.
R452 to R454: a heartbeat of the peer is noted; at a control edge each side sends its own, the primary seals a delta, and a standby that has
missed three in a row becomes the primary with the next epoch; a delta is committed whole or not at all.
The model's choices: roles, heartbeats and the answer for a delta (log 43); a boot of one stage an event (log 44) whose signature is XMSS
(log 74); a monitor sample (log 45); the reflex partition's number and node (log 49); an exchange that goes forward at once or stands
still (log 85); the bytes of a quote and a block that is used up (log 90); landings in locked SRAM with a delta (log 92). -/
def Obligations.SystemEvents : Prop :=
  ((∀ s : State, s.sys.waking = true → ∃ u, exec .wakeComplete s = .next u ∧ u.sys.asleep = false ∧ u.sys.waking = false)
   ∧ (∀ (s : State) (m : List Byte) (tn gr : BitVec 4) (rc : Bool), 1 ≤ s.sys.bootst → s.sys.bootst ≤ 5 →
     (∃ u, exec (.boot false m tn gr rc) s = .next u ∧ u.sys.bootst = 0x80 + s.sys.bootst)
     ∧ (s.sys.bootst = 2 → firmwareGood m = false → ∃ u, exec (.boot true m tn gr rc) s = .next u ∧ u.sys.bootst = 0x82)
     ∧ ((s.sys.bootst = 2 → firmwareGood m = true) → ∃ u, exec (.boot true m tn gr rc) s = .next u ∧ u.sys.bootst = s.sys.bootst + 1
         ∧ (∀ i : Fin 8, s.sys.bootst = i.val + 1 → i.val < 3 →
             u.sys.meas.get i = extendMeasure (s.sys.meas.get i) (if i.val = 1 then m.drop xmssSigLen else m))
         ∧ (s.sys.bootst = 3 → u.sys.recordMode = rc)
         ∧ (s.sys.bootst = 5 → u.sys.wakeTenant = gr.toNat ∧ (u.parts.get? 0).map (·.desc) = some (reflexDesc tn.toNat))))
   ∧ (∀ (s : State) (n : Nat), ∃ u, exec (.ptmExchange n) s = .next u ∧ u.dtime = max (n % 2 ^ 64) s.dtime)
   ∧ (∀ (s : State) (w bti em : Nat), w < 2 ^ 15 → w / 32 % 32 = 0 → w % 32 ≤ 16 → ∃ u, exec (.monitorSample w bti em) s = .next u
       ∧ resBits (u.life w) 255 192 = (resBits (s.life w) 255 192 + 1) % 2 ^ 64 ∧ resBits (u.life w) 159 128 = em % 2 ^ 32)
   ∧ (∀ (s : State) (nonce : BitVec 256) (mask : BitVec 8), s.sys.bootst = 6 →
     let regs := ((List.finRange 8).filter fun i => mask.getLsbD i.val).map fun i => s.sys.meas.get i
     let sig := identitySign s.sys.leaf (quoteBytes regs s.sys.admlog nonce s.sys.leaf)
     (s.sys.leaf < s.sys.fuses * 2 ^ 28 → exec (.quoteRequest nonce mask) s = .next (s.modSys fun y => { y with
       leaf := y.leaf + 1, quotes := y.quotes ++ [(regs, y.admlog, nonce, y.leaf, sig)] }))
     ∧ (s.sys.fuses * 2 ^ 28 ≤ s.sys.leaf → exec (.quoteRequest nonce mask) s = .next s)))
  ∧
  ((∀ (s : State) (role epoch edge dt : Nat), s.sys.role ≠ 0 → role < 3 → ∃ u, exec (.heartbeat role epoch edge dt) s = .next u
     ∧ u.sys.peerRole = role ∧ u.sys.peerEpoch = epoch % 2 ^ 32 ∧ (role = 1 → u.sys.beat = true))
   ∧ (∀ (s : State) (k : Nat) (rest : List Nat), s.sys.edgesDue = k :: rest → ∃ u, exec .controlEdge s = .next u
     ∧ u.sys.edgesDue = rest ∧ u.sys.beatsOut = s.sys.beatsOut ++ [(s.sys.role, s.sys.epoch, k, s.dtime)]
     ∧ (s.sys.role = 1 → u.sys.deltas.length = s.sys.deltas.length + 1 ∧ u.marks = [])
     ∧ (s.sys.beat = true → u.sys.misses = 0 ∧ u.sys.role = s.sys.role)
     ∧ (s.sys.role = 2 → s.sys.beat = false → s.sys.misses = 2 → u.sys.role = 1 ∧ u.sys.epoch = (s.sys.peerEpoch + 1) % 2 ^ 32))
   ∧ (∀ (s : State) (torn full : Bool) (ls : List (Nat × List Byte × List Nat)) (ts : List (List Nat)) (ms : List QueuedMsg),
     (∀ d rest, s.sys.role = 1 → s.sys.deltas = d :: rest → d.torn = false → d.overfull = false →
       exec (.deltaCommit true false false ls ts ms) s = .next (s.modSys fun y => { y with deltas := rest }))
     ∧ (s.sys.role = 2 → ∃ u, exec (.deltaCommit true false false [] [] ms) s = .next u ∧ u.mem = s.mem)
     ∧ (s.sys.role = 2 → torn = true ∨ full = true → exec (.deltaCommit true torn full ls ts ms) s =
         .next (((ls.filter fun l => isLockedLine l.1).foldl State.applyLine s).modSys fun y => { y with torn := (y.torn + 1) % 2 ^ 16 }))))

/-- R33, R34, R45, R153, R182, R195 to R203: what the computing forms leave alone: every register but d, the queues read and the push registers; the
flags, but for the floating-point forms; every special register (nanorg, where a conversion narrows); every byte of memory; everything outside the
running half. A division that traps leaves alone all but what the trap writes. -/
def Obligations.RegisterFrames : Prop :=  (∀ (s t : State) (b a d : Reg), s.Ready (opAB b a d) →
    (∀ i ∈ [Instr.add, .sub, .and, .or, .xor, .andn, .orn, .sll, .srl, .sra, .slt, .sltn, .min, .max, .minn, .maxn, .mul, .mulh, .mulhn,
        .addw, .subw, .sllw, .srlw, .sraw, .mulw], exec (i b a d) s = .next t → s.regFrame t [a, b] [d] ∧ t.half.fflags = s.half.fflags)
    ∧ (∀ i ∈ [Instr.div, .divn, .rem, .remn], s.half.dzt = false → exec (i b a d) s = .next t →
        s.regFrame t [a, b] [d] ∧ t.half.fflags = s.half.fflags)
    ∧ (∀ i ∈ [Instr.div, .divn, .rem, .remn], s.half.dzt = true → (s.after a).val b = 0#64 → exec (i b a d) s = .next t → s.trapFrame t))
  ∧ (∀ (s t : State) (a d : Reg), s.Ready (opA a d) →
    (∀ i ∈ [Instr.clz, .ctz, .popc, .bswap], exec (i a d) s = .next t → s.regFrame t [a] [d] ∧ t.half.fflags = s.half.fflags)
    ∧ (∀ m, ∀ i ∈ [Instr.addi, .andi, .ori, .xori, .slti], exec (i m a d) s = .next t → s.regFrame t [a] [d] ∧ t.half.fflags = s.half.fflags)
    ∧ (∀ n, ∀ i ∈ [Instr.slli, .srli, .srai, .rori, .slliw, .srliw, .sraiw, .roriw], exec (i n a d) s = .next t → s.regFrame t [a] [d] ∧ t.half.fflags = s.half.fflags))
  ∧ (∀ (s t : State) (b a d : Reg), s.Ready { opAB b a d with pfx := onlyRnd } →
    ∀ i ∈ [Instr.fadd, .fsub, .fmul, .fdiv, .fmin, .fmax, .feq, .flt, .fle], exec (i b a d) s = .next t → s.regFrame t [a, b] [d])
  ∧ (∀ (s t : State) (b a d : Reg), s.Ready { srcs := [d, a, b], dsts := [d], pfx := onlyRnd, badCode := !d.dstGN } →
    ∀ i ∈ [Instr.fmadd, .fmsub, .fnmadd], exec (i b a d) s = .next t → s.regFrame t [d, a, b] [d])
  ∧ (∀ (s t : State) (a d : Reg), s.Ready { opA a d with pfx := onlyRnd } →
    (∀ i ∈ [Instr.fsqrt, .fcvtI64F32, .fcvtN64F32, .fcvtI32F32, .fcvtN32F32, .fcvtF32I64, .fcvtF32N64, .fcvtF32Bf16, .fcvtF32F16],
      exec (i a d) s = .next t → s.regFrame t [a] [d])
    ∧ (∀ i ∈ [Instr.fclass, .fneg, .fabs], exec (i a d) s = .next t → s.regFrame t [a] [d] ∧ t.half.fflags = s.half.fflags)
    ∧ (∀ i ∈ [Instr.fcvtBf16F32, .fcvtF16F32], exec (i a d) s = .next t →
        s.onlyHalf t ∧ s.half.keeps { t.half with nanorg := s.half.nanorg } [a] [d]))
  ∧ (∀ (s t : State) (m : BitVec 18) (d : Reg),
    (s.Ready { dsts := [d] } → exec (.lix m d) s = .next t → s.regFrame t [] [d] ∧ t.half.fflags = s.half.fflags)
    ∧ (s.Ready { srcs := [d], dsts := [d], badCode := !d.dstGN } → exec (.lixs m d) s = .next t →
        s.regFrame t [d] [d] ∧ t.half.fflags = s.half.fflags))
  ∧ (∀ (s t : State) (b d : CReg), s.Ready (opCC b d) →
    ∀ i ∈ [Instr.compactAdd, .compactSub, .compactAnd, .compactOr, .compactXor, .compactSll, .compactSrl, .compactSra, .compactMul],
      exec (i b d) s = .next t → s.regFrame t [d.dst, b.src] [d.dst] ∧ t.half.fflags = s.half.fflags)
  ∧ (∀ (s t : State) (m : BitVec 6) (b d : CReg),
    (s.Ready { srcs := [b.src], dsts := [d.dst], len := 2 } → exec (.compactMove b d) s = .next t →
      s.regFrame t [b.src] [d.dst] ∧ t.half.fflags = s.half.fflags)
    ∧ (s.Ready { dsts := [d.dst], len := 2 } → exec (.compactLix m d) s = .next t → s.regFrame t [] [d.dst] ∧ t.half.fflags = s.half.fflags)
    ∧ (s.Ready (opCI d) → ∀ i ∈ [Instr.compactAddi, .compactAndi, .compactSlli, .compactSrli, .compactSrai], exec (i m d) s = .next t →
      s.regFrame t [d.dst] [d.dst] ∧ t.half.fflags = s.half.fflags))
  ∧ (∀ (s t : State) (off : BitVec 9) (y : MemType) (base d : Reg), s.Ready { srcs := [base], dsts := [d] } →
    let ea : Int := (s.val base).toNat + off.toInt * y.size
    (s.after base).inWindow s.cur ea y.size .load → (s.after base).readable ea.toNat y.size →
      exec (.ld off y base d) s = .next t → ((s.after base).reads ea.toNat y.size).onlyHalf t ∧ (∀ k, t.mem.get k = s.mem.get k)
        ∧ s.half.keeps t.half [base] [d] ∧ t.half.fflags = s.half.fflags)

/-- R118, R120, R126, R168: the storing forms, shp.st among them, change no byte of memory but those at the address that they compute, in the own window, for their width, and no
register but the queues that they read (an atomic: its destination, the push registers and its flags too). -/
def Obligations.StoreFrames : Prop :=  (∀ (s u t : State) (off : BitVec 9) (y : MemType) (base r : Reg), s.Safe → s.Ready { srcs := [r, base] } →
    let s2 := (s.after r).after base
    let ea : Int := ((s.after r).val base).toNat + off.toInt * y.size
    s2.inWindow s.cur ea y.size .store → s2.ownClear ea.toNat y.size = true → s2.logs ea.toNat y.size u → exec (.st off y base r) s = .next t →
      (∀ k, k ∉ s.winKeys s.cur s.share ea.toNat y.size → t.mem.get k = s.mem.get k)
      ∧ s.half.keeps t.half [r, base] [] ∧ t.half.fflags = s.half.fflags ∧ t.half.y = s.half.y)
  ∧ (∀ (s u t : State) (off : BitVec 2) (b r : CReg) (n : Nat) (i : BitVec 2 → CReg → CReg → Instr), s.Safe → s.Ready { srcs := [r.src, b.src], len := 2 } →
    (i = .compactStI64 ∧ n = 8) ∨ (i = .compactStI32 ∧ n = 4) →
    let s2 := (s.after r.src).after b.src
    let ea : Int := ((s.after r.src).val b.src).toNat + off.toNat * n
    s2.inWindow s.cur ea n .store → s2.ownClear ea.toNat n = true → s2.logs ea.toNat n u → exec (i off b r) s = .next t →
      (∀ k, k ∉ s.winKeys s.cur s.share ea.toNat n → t.mem.get k = s.mem.get k)
      ∧ s.half.keeps t.half [r.src, b.src] [] ∧ t.half.fflags = s.half.fflags ∧ t.half.y = s.half.y)
  ∧ (∀ (s u t : State) (w : AmoWidth) (b a d : Reg) (ea : Nat), s.Safe → s.Ready (opAB b a d) → addrWord (s.val a) = .loc ea →
    let s2 := (s.after a).after b
    let n := match w with | .w32 => 4 | .w64 => 8
    s2.inWindow s.cur ea n .store → ea % n = 0 → s2.logs ea n u → u.readable ea n →
      ∀ i ∈ [Instr.amoSwap, .amoAdd, .amoAnd, .amoOr, .amoXor, .amoMaxI, .amoMinI, .amoMaxN, .amoMinN, .amoCas], exec (i w b a d) s = .next t →
        (∀ k, k ∉ s.winKeys s.cur s.share ea n → t.mem.get k = s.mem.get k) ∧ s.half.keeps t.half [a, b] [d] ∧ t.half.fflags = s.half.fflags)
  ∧ (∀ (s u t : State) (n : BitVec 4) (b : Reg), s.Safe → s.Ready { srcs := [b] } →
    let s1 := s.after b
    let ea := (s.val b).toNat
    ea % 64 = 0 → s1.inWindow s.cur ea 64 .store → s1.ownClear ea 64 = true → s1.logs ea 64 u → exec (.shpSt n b) s = .next t →
      (∀ k, k ∉ s.winKeys s.cur s.share ea 64 → t.mem.get k = s.mem.get k)
      ∧ s.half.keeps t.half [b] [] ∧ t.half.fflags = s.half.fflags ∧ t.half.y = s.half.y)

/-- R44, R167, R168, R206 to R208, R211, R255, R276, R319, R324, R403 to R407: what the branches and jumps, the hardware loop, the prefix, the sending
forms, the engine commands, mx.stat and mx.bay, the extension and shape register forms and the control register forms leave alone: memory and
everything outside the running half (a sending form and mx.bay: all but the out-buffer of its share; a command: all but its engine), and of the half
every register but what the form names (a control register form: its register and its destination). -/
def Obligations.EffectFrames : Prop :=  (∀ (s t : State) (m : BitVec 12) (b a : Reg), s.Ready { srcs := [a, b] } → ∀ i ∈ [Instr.bEq, .bNe, .bLt, .bGe, .bLtn, .bGen],
    exec (i m b a) s = .next t → s.quietFrame t [a, b] ∧ t.half.lpbeg = s.half.lpbeg ∧ t.half.lpend = s.half.lpend)
  ∧ (∀ (s t : State) (m : BitVec 6) (a : CReg), s.Ready { srcs := [a.src], len := 2 } → ∀ i ∈ [Instr.compactBEq, .compactBNe],
    exec (i m a) s = .next t → s.quietFrame t [a.src] ∧ t.half.lpbeg = s.half.lpbeg ∧ t.half.lpend = s.half.lpend)
  ∧ (∀ (s t : State) (m : BitVec 24) (n : BitVec 10),
    (s.Ready {} → ∀ i ∈ [Instr.j m, .nop], exec i s = .next t → s.quietFrame t [])
    ∧ (s.Ready { len := 2 } → ∀ i ∈ [Instr.compactJ n, .compactNop], exec i s = .next t → s.quietFrame t [])
    ∧ (s.Ready { dsts := [.g 39] } → exec (.jal m) s = .next t → s.regFrame t [] [.g 39] ∧ t.half.fflags = s.half.fflags))
  ∧ (∀ (s t : State) (a d : Reg),
    ((s.val a).getLsbD 0 = false → (s.Ready { srcs := [a] } → exec (.jr a) s = .next t → s.quietFrame t [a])
      ∧ (s.Ready (opA a d) → exec (.jalr a d) s = .next t → s.regFrame t [a] [d] ∧ t.half.fflags = s.half.fflags))
    ∧ ((s.val (.g 39)).getLsbD 0 = false → s.Ready { srcs := [.g 39], len := 2 } → exec .compactJrLk s = .next t → s.quietFrame t [.g 39])
    ∧ (s.Ready { dsts := [d] } → exec (.pca d) s = .next t → s.regFrame t [] [d] ∧ t.half.fflags = s.half.fflags)
    ∧ (∀ len : BitVec 12, s.Ready { srcs := [a] } → len ≠ 0#12 → s.half.lpcnt = 0#64 → exec (.lp len a) s = .next t → s.quietFrame t [a]))
  ∧ (∀ (s t : State) (f : BitVec 4) (r : BitVec 3) (x : Bool) (g : BitVec 2), s.Ready { len := 2, isPfx := true } →
    exec (.pfx f r x g) s = .next t → s.onlyHalf t ∧ t.half = { s.half with
      status := s.half.status ||| 1#64, pfxsave := t.half.pfxsave, pc := t.half.pc, lpcnt := t.half.lpcnt, lastPc := s.half.pc, vheld := false })
  ∧ (∀ (s t : State) (rep : Bool) (b a : Reg),
      let s1 := s.after a
      let s2 := s1.after b
      let tw := s.val a
      let pw := s1.val b
      (s.Ready { srcs := [a, b] } → s2.outRoom (16 + wfield pw 39 32) = true →
        (∀ d, s2.resolve (wfield tw 10 0) = some d →
          (onlyBits tw [(10, 0), (21, 16)] = true → s2.bodyOk pw 0 → exec (.msgSend rep b a) s = .next t → s.sendFrame t [a, b])
          ∧ (onlyBits tw [(10, 0), (51, 32)] = true → wfield tw 51 32 % 8 = 0 → s2.bodyOk pw 8 → exec (.msgPut rep b a) s = .next t →
              s.sendFrame t [a, b]))
        ∧ (onlyBits tw [(7, 0), (21, 16)] = true → s2.member (wfield tw 7 0) = true → s2.bodyOk pw 0 → exec (.grpSend rep b a) s = .next t →
            s.sendFrame t [a, b]))
      ∧ (s.Ready { srcs := [a] } →
        (s1.bodyOk tw 0 → s1.outRoom (16 + wfield tw 39 32) = true → exec (.msgHost a) s = .next t → s.sendFrame t [a])
        ∧ (onlyBits tw [(7, 0), (26, 16), (37, 32)] = true → s1.member (wfield tw 7 0) = true → s1.outRoom 32 = true →
            exec (.barArr a) s = .next t → s.sendFrame t [a])
        ∧ (∀ d, s1.resolve (wfield tw 10 0) = some d →
          (∀ k : BitVec 3, onlyBits tw [(10, 0), (21, 16)] = true → s1.outRoom (16 + 8 * (k.toNat + 1)) = true →
            exec (.msgSendn k rep a) s = .next t → s.sendFrame t [a])
          ∧ (onlyBits tw [(10, 0)] = true → s1.outRoom 32 = true → exec (.msgSpawn a) s = .next t → s.sendFrame t [a]))))
  ∧ (∀ (s t : State) (nt : Bool) (c : BitVec 6) (b a : Reg),
      let s1 := s.after a
      let s2 := s1.after b
      let x := s.val a
      let y := s1.val b
      (s.Ready { srcs := [a] } →
        (s1.commandOk 0 x 0#64 → exec (.mxLdb a) s = .next t → s.engineFrame t [a])
        ∧ (s1.commandOk 7 x 0#64 → exec (.mxCfg a) s = .next t → s.engineFrame t [a]))
      ∧ (s.Ready { srcs := [a], illegal := chanIllegal nt c } → s1.commandOk 2 0#64 x → exec (.mxZero nt c a) s = .next t → s.engineFrame t [a])
      ∧ (s.Ready { srcs := [a, b], illegal := chanIllegal nt c } → s2.commandOk 4 x y → exec (.mxLdacc nt c b a) s = .next t →
          s.engineFrame t [a, b])
      ∧ (s.Ready { srcs := [a, b], pfx := rdPfx, illegal := chanIllegal nt c } → s2.commandOk 3 x (rdShape s.half.pfx y) →
          exec (.mxRd nt c b a) s = .next t → s.engineFrame t [a, b])
      ∧ (s.Ready { srcs := [a, b], pfx := mmaPfx, illegal := chanIllegal nt c } →
        let sh := mmaShape s.half.pfx y
        (s2.commandOk 1 x sh → exec (.mxMma nt c b a) s = .next t → s.engineFrame t [a, b])
        ∧ (s2.mxWordsOk s.cur s2.share 5 x sh = true → s2.mxLimitsOk s.cur s2.share 5 x sh = true → s2.share ≠ 2 →
            ((s2.tile s.cur).share s2.share).bayMask = 0xFFFF#16 → s2.mxExtentFault s.cur s2.share 5 x sh = none → s2.outRoom 64 = true →
              exec (.mxBay nt c b a) s = .next t → s.sendFrame t [a, b]))
      ∧ (s.Ready { srcs := [b], dsts := [a] } → onlyBits (s.val b) [(0, 0)] = true → (s.after b).mxPending s.cur s.act.id = false →
          exec (.mxStat b a) s = .next t →
            (∀ k, t.mem.get k = s.mem.get k) ∧ s.half.keeps t.half [b] [a] ∧ t.half.fflags = s.half.fflags ∧ t.net = s.net
            ∧ (∀ z, z ≠ s.cur → t.tile z = s.tile z) ∧ (∀ i, i ≠ s.share → (t.tile s.cur).engine i = (s.tile s.cur).engine i)
            ∧ let e := (t.tile s.cur).engine s.share
              e = { (s.tile s.cur).engine s.share with flags := e.flags, origin := e.origin }))
  ∧ (∀ (s t : State) (n : BitVec 3) (m : BitVec 16) (a : Reg),
    let frame (srcs : List Reg) : Prop := s.onlyHalf t ∧ (∀ i, i ≠ n.toFin → t.half.e.get i = s.half.e.get i)
      ∧ s.half.keeps { t.half with e := s.half.e } srcs [] ∧ t.half.fflags = s.half.fflags
    (s.Ready { srcs := [a] } → exec (.extW n a) s = .next t → frame [a])
    ∧ (s.Ready {} → ∀ i ∈ [Instr.extLix n m, .extLixs n m], exec i s = .next t → frame [])
    ∧ (s.Ready { dsts := [a] } → exec (.extGet n a) s = .next t → s.regFrame t [] [a] ∧ t.half.fflags = s.half.fflags))
  ∧ (∀ (s t : State) (n : BitVec 4) (f : BitVec 6) (a : Reg), f.toNat < 33 →
    let frame (u : State) (srcs : List Reg) : Prop := u.onlyHalf t ∧ (∀ k, t.mem.get k = s.mem.get k)
      ∧ (∀ i, i ≠ n.toFin → t.half.h.get i = s.half.h.get i) ∧ s.half.keeps { t.half with h := s.half.h } srcs [] ∧ t.half.fflags = s.half.fflags
      ∧ t.half.y = s.half.y
    (s.Ready { srcs := [a] } → (s.val a).toNat < 2 ^ (shapeField f.toNat).2 → exec (.shpSet n f a) s = .next t → frame s [a])
    ∧ (s.Ready { dsts := [a] } → exec (.shpGet n f a) s = .next t → s.regFrame t [] [a] ∧ t.half.fflags = s.half.fflags)
    ∧ (s.Ready { srcs := [a] } → (s.val a).toNat % 64 = 0 → (s.after a).inWindow s.cur (s.val a).toNat 64 .load →
        (s.after a).readable (s.val a).toNat 64 → exec (.shpLd n a) s = .next t → frame ((s.after a).reads (s.val a).toNat 64) [a]))
  ∧ (∀ (s t : State) (n : BitVec 10) (a d : Reg), s.Ready { srcs := [a], dsts := [d] } → csrListed n.toNat = true →
    let k := n.toNat
    let s1 := s.after a
    let old := s1.csr k
    let writes (new : Word) : Prop := s1.csrWritable k = true ∧ (k = 7 → new.getLsbD 0 = false)
    (s.share = 2 → ¬ (0x40 ≤ k ∧ k < 0x60 ∧ 4 ≤ k % 16)) → (k = 0x10 ∨ k = 0x13 → s.half.vq = [] ∧ s.half.boundTrap = none) →
    (exec (.csrRw n a d) s = .next t ∧ writes (s.val a)) ∨ (exec (.csrRs n a d) s = .next t ∧ (a = .z ∨ writes (old ||| s.val a)))
      ∨ (exec (.csrRc n a d) s = .next t ∧ (a = .z ∨ writes (old &&& ~~~ s.val a))) → s.csrFrame t k a d)

/-- R132, R298 to R300, R319, R320, R336, R412, R413, R417, R421, R424, R429 to R432: where these forms complete. With nothing of the context on its
way a fence completes whatever its scope and kind, and so do ld.acq and st.rel on the own window; cinv and cinv.all remove their lines; a
sending form of a share whose out-buffer is empty appends its item; the system core makes, frees, holds, halts, swaps and shuts a partition
that stands as the form asks (a hold of the reflex partition or during an operation is refused), reads a shutter, and pauses, resumes, resets and tears down a function that is not being reset; a halt completes.
The model's choices: vf.ctl by constructor (log 22); what part.mk and part.swap check (logs 50, 73); the image of a saved partition (log
51); the units and the floor of a shutter (log 52). -/
def Obligations.OrderedSendingAndPartitionFormsComplete : Prop :=
  ((∀ (s : State) (scope : Scope) (vec : Bool) (kind : FenceKind), s.Ready {} → s.calm →
      exec (.fence scope vec kind) s =
        .next ((if 3 ≤ scope.code then s.ordered.rdInvalidate s.cur s.act.tenant else s.ordered).retire {} .next))
   ∧ (∀ s : State, s.Ready { iso := true } → ∃ u, exec .cinvAll s = .next u ∧ ∀ x ∈ (u.tile s.cur).rdcache, x.tenant ≠ s.act.tenant)
   ∧ (∀ (s : State) (a : Reg) (idx off : Nat) (r : Rec512) (ps : List Part'), s.Ready { srcs := [a], iso := true } →
       addrWord (s.val a) = .glob idx off → (s.after a).resourceOk idx off 1 1 r → ((s.after a).used idx).translates (resVbase r + off) 1 1 ps →
         ∃ u, exec (.cinv a) s = .next u
           ∧ ∀ x ∈ (u.tile s.cur).rdcache, x.tenant = s.act.tenant → x.line ∉ linesOf (pathOf s.act.tenant r ps).keys)
   ∧ (∀ (s : State) (t : MemType) (a d : Reg) (ea : Nat), s.Ready (opA a d) → addrWord (s.val a) = .loc ea → ea % t.size = 0 →
       let s1 := s.after a
       s1.calm → s1.inWindow s.cur ea t.size .load → s1.flips = [] → s1.cleanOwn ea t.size →
         exec (.ldAcq false t a d) s = .next ((s1.ordered.give d (loaded t (s1.ownNat ea t.size))).retire (opA a d) .next))
   ∧ (∀ (s u : State) (t : MemType) (a r : Reg) (ea : Nat), s.Ready { srcs := [r, a] } → addrWord ((s.after r).val a) = .loc ea →
       ea % t.size = 0 →
       let s2 := (s.after r).after a
       s2.calm → s2.inWindow s.cur ea t.size .store → s2.ordered.logs ea t.size u →
         exec (.stRel false t a r) s = .next ((u.storeAt ea (leBytes t.size (s.val r).toNat)).retire { srcs := [r, a] } .next)))
  ∧ (∀ (s : State) (b a : Reg) (t : Nat),
      let s1 := s.after a
      let s2 := s1.after b
      let tw := s.val a
      let pw := s1.val b
      let item (u : State) (n : Nat) (k : OutKind) : Prop :=
        ((u.tile s.cur).share s.share).out = [{ act := s.act.id, bytes := n, kind := k }]
      let body (v : State) (w : Word) (least : Nat) : Prop :=
        PayloadOk w least ∧ v.inWindow s.cur (wfield w 19 0) (wfield w 39 32) .load ∧ v.toSelf s.cur s.ctx = []
      ((s.tile s.cur).share s.share).out = [] →
      (s.Ready { srcs := [a, b] } → s2.resolve (wfield tw 10 0) = some t → ∀ rep,
        (onlyBits tw [(10, 0), (21, 16)] = true → body s2 pw 0 → ∃ u m, exec (.msgSend rep b a) s = .next u
          ∧ item u (16 + wfield pw 39 32) (.msgs [m]) ∧ m.kind = 0 ∧ m.dst = t ∧ m.chan = wfield tw 21 16 ∧ m.body = s2.body pw)
        ∧ (onlyBits tw [(10, 0), (51, 32)] = true → wfield tw 51 32 % 8 = 0 → body s2 pw 8 → ∃ u m, exec (.msgPut rep b a) s = .next u
          ∧ item u (16 + wfield pw 39 32) (.msgs [m]) ∧ m.kind = 2 ∧ m.dst = t ∧ m.addr = wfield tw 51 32 ∧ m.body = s2.body pw))
      ∧ (s.Ready { srcs := [a] } → s1.resolve (wfield tw 10 0) = some t →
        (∀ (k : BitVec 3) rep, onlyBits tw [(10, 0), (21, 16)] = true → ∃ u m, exec (.msgSendn k rep a) s = .next u
          ∧ item u (16 + 8 * (k.toNat + 1)) (.msgs [m]) ∧ m.kind = 0 ∧ m.dst = t ∧ m.body = wordsBody (s1.half.n.toList.take (k.toNat + 1)))
        ∧ (onlyBits tw [(10, 0)] = true → ∃ u m, exec (.msgSpawn a) s = .next u
          ∧ item u 32 (.msgs [m]) ∧ m.kind = 1 ∧ m.dst = t ∧ m.body = wordsBody [s1.half.e.get 0, s1.half.e.get 1, s1.half.e.get 2]))
      ∧ (s.Ready { srcs := [a] } → body s1 tw 0 → ∃ u m, exec (.msgHost a) s = .next u
          ∧ item u (16 + wfield tw 39 32) (.host m) ∧ m.dest = 0x7FF#11 ∧ m.body = s1.body tw))
  ∧ (∀ (s : State) (a d : Reg), s.cur = 3072 → s.Ready { srcs := [a], dsts := [d] } →
      let s1 := s.after a
      let x := s.val a
      let ends (u : State) : Host.Outcome State Fault Refusal := .next ((u.give d 0#64).retire { srcs := [a], dsts := [d] } .next)
      (let r := BitVec.ofNat 512 (s1.ownNat x.toNat 64)
       x.toNat % 64 = 0 → s1.inWindow 3072 x.toNat 64 .load → s1.calm → s1.flips = [] → s1.cleanOwn x.toNat 64 →
       descMalformed r = false → s.parts.get? (descPid r) = none → s1.nodeFree (descNode r) (descHalf r) none = true →
       (∀ b ∈ partBays (nodeTiles (descNode r)), s1.bayDegraded b = false) → s.sys.asleep = false →
         ∃ u, exec (.partMk a d) s = ends u ∧ u.parts.get? (descPid r) = some { desc := r })
      ∧ (∀ p, x.toNat < 16 → s.parts.get? x.toNat = some p → p.isReflex = false → p.launch = none → p.image = [] → p.state = 1 ∨ p.state = 4 →
          ∃ u, exec (.partFree a d) s = ends u ∧ u.parts = s.parts.erase x.toNat))
  ∧ (∀ (s : State) (b a d : Reg) (p : Part), s.cur = 3072 → s.Ready (opAB b a d) →
      let s2 := (s.after a).after b
      let x := s.val a
      let y := (s.after a).val b
      let ends (u : State) (v : Word) : Host.Outcome State Fault Refusal := .next ((u.give d v).retire (opAB b a d) .next)
      let becomes (u : State) (k n : Nat) : Prop := (u.parts.get? k).map (·.state) = some n
      (x.toNat < 16 → s.parts.get? x.toNat = some p →
        (∀ on : Bool, y = (if on then 1#64 else 0#64) →
          (p.isReflex = true → exec (.partHold b a d) s = ends s2 2#64)
          ∧ (p.isReflex = false → p.state ∈ [3, 5, 8, 9] → exec (.partHold b a d) s = ends s2 3#64)
          ∧ (p.isReflex = false → p.state ∉ [3, 5, 8, 9] →
              exec (.partHold b a d) s = ends (s2.modPart x.toNat fun q => { q with hold := on }) 0#64))
        ∧ (p.isReflex = false → p.state = 1 → y = 1#64 → ∃ u, exec (.partHalt b a d) s = ends u 0#64 ∧ becomes u x.toNat 3)
        ∧ (p.isReflex = false → p.state = 4 → y = 0#64 → ∃ u, exec (.partHalt b a d) s = ends u 0#64 ∧ becomes u x.toNat 1)
        ∧ (p.isReflex = false → p.state = 1 → s2.dtime + s2.partFloor x.toNat p y.toNat ≤ y.toNat →
            ∃ u, exec (.shutPost b a d) s = ends u 0#64 ∧ becomes u x.toNat 9)
        ∧ (y.toNat ≤ 3 → exec (.shutStat b a d) s = ends s2 (BitVec.ofNat 64 (s2.shutStat x.toNat y.toNat))))
      ∧ (∀ k : Fin 16, s.parts.get? k.val = some p → p.isReflex = false → y = 0#64 →
        (p.state = 4 → x = BitVec.ofNat 64 (16 + k.val) → ∃ u, exec (.partSwap b a d) s = ends u 0#64 ∧ becomes u k.val 5
          ∧ u.swaps = s.swaps ++ [{ out := some k.val, toDram := false, back := none, node := 0 }])
        ∧ (p.state = 7 → p.inShadow = false → s2.nodeFree (descNode p.desc) (descHalf p.desc) none = true →
            s2.shadowMet (descNode p.desc) [k.val] = false → x = BitVec.ofNat 64 (4096 + 256 * k.val) →
              ∃ u, exec (.partSwap b a d) s = ends u 0#64 ∧ becomes u k.val 8
                ∧ u.swaps = s.swaps ++ [{ out := none, toDram := false, back := some k.val, node := descNode p.desc }]))
      ∧ (∀ f : Fin 16, x = BitVec.ofNat 64 f.val → (s.fn f.val).resetting = false →
        (y = 0#64 → exec (.vfCtlPause b a d) s = ends (s2.modFn f.val Fn.pause) 0#64)
        ∧ (∀ i ∈ [Instr.vfCtlPause b a d, .vfCtlResume b a d], y = 1#64 → exec i s = ends (s2.modFn f.val Fn.resume) 0#64)
        ∧ (∀ i ∈ [Instr.vfCtlPause b a d, .vfCtlReset b a d], y = 2#64 → exec i s = ends (s2.resetBegin f.val) 0#64)
        ∧ (∀ (q : Fin 8) (kill : Bool), y = BitVec.ofNat 64 (3 + q.val * 256 + if kill then 65536 else 0) →
            ∀ i ∈ [Instr.vfCtlPause b a d, .vfCtlTeardown b a d], exec i s = ends (s2.teardown f.val q kill) 0#64)))
  ∧ (∀ (s : State) (n : Nat) (p : Part), s.parts.get? n = some p → p.state = 3 →
      ∃ u, exec (.haltComplete n) s = .next u ∧ (u.parts.get? n).map (·.state) = some 4)
end

