-- ==== Sys2Proof/Laws/Arith.lean ====
section
/-! SUPPORT. The shifts, extensions and extremes of the model as the library's bit-vector operations. -/

namespace Sys2Proof.Machine

open Sys2Proof

theorem sll_eq (w x n : Nat) : (shiftL w x n) = (BitVec.ofNat w x <<< n).toNat := by
  unfold shiftL
  by_cases h : n < w
  · simp [h, Nat.shiftLeft_eq]
  · have : w ≤ n := by omega
    simp only [h, if_false, BitVec.toNat_shiftLeft, BitVec.toNat_ofNat, Nat.shiftLeft_eq]
    obtain ⟨k, rfl⟩ := Nat.exists_eq_add_of_le this
    rw [Nat.pow_add, ← Nat.mul_assoc, Nat.mul_right_comm, Nat.mul_mod_left]
theorem srl_eq (w x n : Nat) : (shiftR w x n) = (BitVec.ofNat w x >>> n).toNat := by
  unfold shiftR
  by_cases h : n < w
  · simp [h, Nat.shiftRight_eq_div_pow]
  · have : w ≤ n := by omega
    simp only [h, if_false, BitVec.toNat_ushiftRight, BitVec.toNat_ofNat, Nat.shiftRight_eq_div_pow]
    rw [Nat.div_eq_of_lt]
    exact Nat.lt_of_lt_of_le (Nat.mod_lt _ (by positivity)) (Nat.pow_le_pow_right (by decide) this)
theorem signedOf_eq (w x : Nat) (hw : 0 < w) : signedOf w x = (BitVec.ofNat w x).toInt := by
  unfold signedOf
  rw [BitVec.toInt_eq_toNat_cond]
  have : 2 ^ w = 2 * 2 ^ (w - 1) := by rw [← Nat.pow_succ']; congr 1; omega
  simp only [BitVec.toNat_ofNat]
  split <;> split <;> first | rfl | omega
theorem wrapInt_eq (w : Nat) (x : Int) : wrapInt w x = (BitVec.ofInt w x).toNat := by
  simp [wrapInt, BitVec.toNat_ofInt]
theorem sra_eq (w x n : Nat) (hw : 0 < w) : shiftA w x n = ((BitVec.ofNat w x).sshiftRight n).toNat := by
  unfold shiftA
  rw [wrapInt_eq, signedOf_eq _ _ hw]
  congr 1
  apply BitVec.eq_of_toInt_eq
  rw [BitVec.toInt_sshiftRight, BitVec.toInt_ofInt]
  generalize hy : BitVec.ofNat w x = y
  have h1 : -(2 ^ (w-1) : Int) ≤ y.toInt := by have := BitVec.le_toInt y; exact_mod_cast this
  have h2 : y.toInt < (2 ^ (w-1) : Int) := by have := BitVec.toInt_lt (x := y); exact_mod_cast this
  rw [Int.shiftRight_eq_div_pow]
  have key : y.toInt / ((2 ^ (min n (w - 1)) : Nat) : Int) = y.toInt / ((2 ^ n : Nat) : Int) := by
    by_cases hn : n ≤ w - 1
    · rw [Nat.min_eq_left hn]
    · rw [Nat.min_eq_right (by omega)]
      have hp : (2:Int) ^ (w-1) ≤ 2 ^ n := by exact_mod_cast Nat.pow_le_pow_right (by decide) (by omega)
      have hpos : (0:Int) < 2 ^ (w-1) := by positivity
      push_cast
      rcases lt_or_ge y.toInt 0 with hneg | hnn
      · rw [Int.ediv_eq_neg_one_of_neg_of_le hneg (by omega), Int.ediv_eq_neg_one_of_neg_of_le hneg (by omega)]
      · rw [Int.ediv_eq_zero_of_lt hnn h2, Int.ediv_eq_zero_of_lt hnn (by omega)]
  rw [key]
  have hpn : (0:Int) < ((2 ^ n : Nat) : Int) := by positivity
  have hge1 : (1:Int) ≤ ((2 ^ n : Nat) : Int) := by omega
  have hw2 : (2:Int) ^ w = 2 * 2 ^ (w-1) := by rw [← pow_succ']; congr 1; omega
  have b1 : -(2 ^ (w-1) : Int) ≤ y.toInt / ((2 ^ n : Nat) : Int) := by
    rw [Int.le_ediv_iff_mul_le hpn]; nlinarith [pow_pos (show (0:Int) < 2 by decide) (w-1)]
  have b2 : y.toInt / ((2 ^ n : Nat) : Int) < (2 ^ (w-1) : Int) := by
    rw [Int.ediv_lt_iff_lt_mul hpn]; nlinarith [pow_pos (show (0:Int) < 2 by decide) (w-1)]
  have e1 : ((2 ^ w : Nat) : Int) = 2 * 2 ^ (w-1) := by push_cast; exact hw2
  generalize hq : y.toInt / ((2 ^ n : Nat) : Int) = q at b1 b2 ⊢
  rw [Int.bmod_eq_of_le] <;> (try rw [e1]) <;> omega

theorem word32_eq (n : Nat) : word32 n = (BitVec.ofNat 32 n).signExtend 64 := by
  unfold word32 sextN
  rw [signedOf_eq _ _ (by decide), wrapInt_eq, BitVec.ofNat_toNat, BitVec.setWidth_eq]
  rfl
theorem ofNat_toNat_trunc (x : Word) : BitVec.ofNat 32 x.toNat = x.truncate 32 := by
  apply BitVec.eq_of_toNat_eq; simp
theorem toInt_min (x y : Word) : BitVec.ofInt 64 (min x.toInt y.toInt) = if y.slt x then y else x := by
  simp only [BitVec.slt, decide_eq_true_eq]
  split
  · rw [min_eq_right (by omega)]; simp
  · rw [min_eq_left (by omega)]; simp
theorem toInt_max (x y : Word) : BitVec.ofInt 64 (max x.toInt y.toInt) = if x.slt y then y else x := by
  simp only [BitVec.slt, decide_eq_true_eq]
  split
  · rw [max_eq_right (by omega)]; simp
  · rw [max_eq_left (by omega)]; simp
theorem toNat_min (x y : Word) : BitVec.ofNat 64 (min x.toNat y.toNat) = if y.ult x then y else x := by
  simp only [BitVec.ult, decide_eq_true_eq]
  split
  · rw [min_eq_right (by omega)]; simp
  · rw [min_eq_left (by omega)]; simp
theorem toNat_max (x y : Word) : BitVec.ofNat 64 (max x.toNat y.toNat) = if x.ult y then y else x := by
  simp only [BitVec.ult, decide_eq_true_eq]
  split
  · rw [max_eq_right (by omega)]; simp
  · rw [max_eq_left (by omega)]; simp

theorem slt_ite (x y : Word) : b2w (x.slt y) = if x.toInt < y.toInt then 1#64 else 0#64 := by simp [b2w, BitVec.slt]
theorem ult_ite (x y : Word) : b2w (x.ult y) = if x.toNat < y.toNat then 1#64 else 0#64 := by simp [b2w, BitVec.ult]
theorem aluSll_eq (x y : Word) : aluSll x y = x <<< y.toNat := by rw [aluSll, sll_eq, BitVec.ofNat_toNat, BitVec.setWidth_eq, BitVec.ofNat_toNat, BitVec.setWidth_eq]
theorem aluSrl_eq (x y : Word) : aluSrl x y = x >>> y.toNat := by rw [aluSrl, srl_eq, BitVec.ofNat_toNat, BitVec.setWidth_eq, BitVec.ofNat_toNat, BitVec.setWidth_eq]
theorem aluSra_eq (x y : Word) : aluSra x y = x.sshiftRight y.toNat := by rw [aluSra, sra_eq _ _ _ (by decide), BitVec.ofNat_toNat, BitVec.setWidth_eq, BitVec.ofNat_toNat, BitVec.setWidth_eq]
theorem sll64 (x : Word) (n : Nat) : BitVec.ofNat 64 (shiftL 64 x.toNat n) = x <<< n := by rw [sll_eq, BitVec.ofNat_toNat, BitVec.setWidth_eq, BitVec.ofNat_toNat, BitVec.setWidth_eq]
theorem srl64 (x : Word) (n : Nat) : BitVec.ofNat 64 (shiftR 64 x.toNat n) = x >>> n := by rw [srl_eq, BitVec.ofNat_toNat, BitVec.setWidth_eq, BitVec.ofNat_toNat, BitVec.setWidth_eq]
theorem sra64 (x : Word) (n : Nat) : BitVec.ofNat 64 (shiftA 64 x.toNat n) = x.sshiftRight n := by rw [sra_eq _ _ _ (by decide), BitVec.ofNat_toNat, BitVec.setWidth_eq, BitVec.ofNat_toNat, BitVec.setWidth_eq]
theorem sll32 (x : Word) (n : Nat) : word32 (shiftL 32 x.toNat n) = ((x.truncate 32) <<< n).signExtend 64 := by
  rw [word32_eq, sll_eq, BitVec.ofNat_toNat, BitVec.setWidth_eq, ofNat_toNat_trunc]
theorem srl32 (x : Word) (n : Nat) : word32 (shiftR 32 x.toNat n) = ((x.truncate 32) >>> n).signExtend 64 := by
  rw [word32_eq, srl_eq, BitVec.ofNat_toNat, BitVec.setWidth_eq, ofNat_toNat_trunc]
theorem sra32 (x : Word) (n : Nat) : word32 (shiftA 32 x.toNat n) = ((x.truncate 32).sshiftRight n).signExtend 64 := by
  rw [word32_eq, sra_eq _ _ _ (by decide), BitVec.ofNat_toNat, BitVec.setWidth_eq, ofNat_toNat_trunc]
theorem trunc32 (x : Word) : word32 x.toNat = (x.truncate 32).signExtend 64 := by rw [word32_eq, ofNat_toNat_trunc]
theorem aluMulh_eq (x y : Word) : aluMulh x y = BitVec.ofInt 64 (x.toInt * y.toInt / 2 ^ 64) := by
  unfold aluMulh; rw [wrapInt_eq, BitVec.ofNat_toNat, BitVec.setWidth_eq]
theorem aluDiv_eq (x y : Word) : aluDiv x y = if y = 0#64 then BitVec.allOnes 64 else BitVec.ofInt 64 (x.toInt.tdiv y.toInt) := by
  unfold aluDiv; rw [wrapInt_eq, BitVec.ofNat_toNat, BitVec.setWidth_eq]; rfl
theorem aluRem_eq (x y : Word) : aluRem x y = if y = 0#64 then x else BitVec.ofInt 64 (x.toInt.tmod y.toInt) := by
  unfold aluRem; rw [wrapInt_eq, BitVec.ofNat_toNat, BitVec.setWidth_eq]
theorem aluDivn_eq (x y : Word) : aluDivn x y = if y = 0#64 then BitVec.allOnes 64 else x / y := by
  unfold aluDivn; split
  · rfl
  · apply BitVec.eq_of_toNat_eq
    rw [BitVec.toNat_ofNat, BitVec.toNat_udiv, Nat.mod_eq_of_lt (lt_of_le_of_lt (Nat.div_le_self _ _) x.isLt)]
theorem aluRemn_eq (x y : Word) : aluRemn x y = if y = 0#64 then x else x % y := by
  unfold aluRemn; split
  · rfl
  · apply BitVec.eq_of_toNat_eq
    rw [BitVec.toNat_ofNat, BitVec.toNat_umod, Nat.mod_eq_of_lt (lt_of_le_of_lt (Nat.mod_le _ _) x.isLt)]
theorem ror_eq (w : Nat) (x : BitVec w) (n : Nat) (h : n < w) : BitVec.ofNat w (rotR w x.toNat n) = x.rotateRight n := by
  unfold rotR
  apply BitVec.eq_of_toNat_eq
  rw [BitVec.toNat_rotateRight, Nat.mod_eq_of_lt h, Nat.mod_eq_of_lt x.isLt, BitVec.toNat_ofNat]
  have h1 : x.toNat / 2 ^ n < 2 ^ (w - n) := by
    rw [Nat.div_lt_iff_lt_mul (by positivity), ← Nat.pow_add, show w - n + n = w by omega]; exact x.isLt
  have h2 : x.toNat * 2 ^ (w - n) % 2 ^ w = (x.toNat % 2 ^ n) * 2 ^ (w - n) := by
    have : 2 ^ w = 2 ^ n * 2 ^ (w - n) := by rw [← Nat.pow_add]; congr 1; omega
    rw [this, Nat.mul_mod_mul_right]
  rw [Nat.add_mod, h2, Nat.shiftRight_eq_div_pow, Nat.shiftLeft_eq, h2, Nat.lor_comm, ← Nat.shiftLeft_eq,
    ← Nat.shiftLeft_add_eq_or_of_lt h1, Nat.shiftLeft_eq]
  have h3 : x.toNat % 2 ^ n * 2 ^ (w - n) + x.toNat / 2 ^ n < 2 ^ w := by
    have hm : x.toNat % 2 ^ n < 2 ^ n := Nat.mod_lt _ (by positivity)
    have : 2 ^ w = 2 ^ n * 2 ^ (w - n) := by rw [← Nat.pow_add]; congr 1; omega
    have h6 := Nat.mul_le_mul_right (2 ^ (w - n)) hm
    rw [Nat.succ_mul] at h6
    omega
  have h4 : x.toNat / 2 ^ n < 2 ^ w := lt_of_le_of_lt (Nat.div_le_self _ _) x.isLt
  have h5 : x.toNat % 2 ^ n * 2 ^ (w - n) < 2 ^ w := by omega
  rw [Nat.mod_eq_of_lt h4, Nat.mod_mod, Nat.add_comm, Nat.mod_eq_of_lt h3]
theorem ror64 (x : Word) (n : BitVec 6) : BitVec.ofNat 64 (rotR 64 x.toNat n.toNat) = x.rotateRight n.toNat := ror_eq 64 x _ n.isLt
theorem ror32 (x : Word) {n : Nat} (h : n < 32) : word32 (rotR 32 x.toNat n) = ((x.truncate 32).rotateRight n).signExtend 64 := by
  rw [word32_eq, ← ror_eq 32 _ n h]
  unfold rotR
  simp

/-- What a load of this type gives a register (R30, R120). -/
theorem extendLoad_eq (t : MemType) (v : Nat) : extendLoad t.size t.signed v = loaded t v := by
  have h : 0 < 8 * t.size ∧ 8 * t.size ≤ 64 := by cases t <;> decide
  unfold extendLoad loaded sextN
  rw [wrapInt_eq, signedOf_eq _ _ h.1, BitVec.ofNat_toNat, BitVec.setWidth_eq, ← BitVec.toInt_signExtend_of_le h.2, BitVec.ofInt_toInt]

end Sys2Proof.Machine
end

