-- ==== Sys2Proof/Laws/Arms.lean ====
section
/-! SUPPORT. What `exec` calls for each instruction, one lemma per arm: no later proof unfolds `exec`. -/

namespace Sys2Proof.Machine

open Sys2Proof

@[simp] theorem exec_add (b : Reg) (a : Reg) (d : Reg) (s : State) : exec (.add b a d) s = execAdd b a d s := rfl
@[simp] theorem exec_sub (b : Reg) (a : Reg) (d : Reg) (s : State) : exec (.sub b a d) s = execSub b a d s := rfl
@[simp] theorem exec_and (b : Reg) (a : Reg) (d : Reg) (s : State) : exec (.and b a d) s = execAnd b a d s := rfl
@[simp] theorem exec_or (b : Reg) (a : Reg) (d : Reg) (s : State) : exec (.or b a d) s = execOr b a d s := rfl
@[simp] theorem exec_xor (b : Reg) (a : Reg) (d : Reg) (s : State) : exec (.xor b a d) s = execXor b a d s := rfl
@[simp] theorem exec_andn (b : Reg) (a : Reg) (d : Reg) (s : State) : exec (.andn b a d) s = execAndn b a d s := rfl
@[simp] theorem exec_orn (b : Reg) (a : Reg) (d : Reg) (s : State) : exec (.orn b a d) s = execOrn b a d s := rfl
@[simp] theorem exec_sll (b : Reg) (a : Reg) (d : Reg) (s : State) : exec (.sll b a d) s = execSll b a d s := rfl
@[simp] theorem exec_srl (b : Reg) (a : Reg) (d : Reg) (s : State) : exec (.srl b a d) s = execSrl b a d s := rfl
@[simp] theorem exec_sra (b : Reg) (a : Reg) (d : Reg) (s : State) : exec (.sra b a d) s = execSra b a d s := rfl
@[simp] theorem exec_slt (b : Reg) (a : Reg) (d : Reg) (s : State) : exec (.slt b a d) s = execSlt b a d s := rfl
@[simp] theorem exec_sltn (b : Reg) (a : Reg) (d : Reg) (s : State) : exec (.sltn b a d) s = execSltn b a d s := rfl
@[simp] theorem exec_min (b : Reg) (a : Reg) (d : Reg) (s : State) : exec (.min b a d) s = execMin b a d s := rfl
@[simp] theorem exec_max (b : Reg) (a : Reg) (d : Reg) (s : State) : exec (.max b a d) s = execMax b a d s := rfl
@[simp] theorem exec_minn (b : Reg) (a : Reg) (d : Reg) (s : State) : exec (.minn b a d) s = execMinn b a d s := rfl
@[simp] theorem exec_maxn (b : Reg) (a : Reg) (d : Reg) (s : State) : exec (.maxn b a d) s = execMaxn b a d s := rfl
@[simp] theorem exec_mul (b : Reg) (a : Reg) (d : Reg) (s : State) : exec (.mul b a d) s = execMul b a d s := rfl
@[simp] theorem exec_mulh (b : Reg) (a : Reg) (d : Reg) (s : State) : exec (.mulh b a d) s = execMulh b a d s := rfl
@[simp] theorem exec_mulhn (b : Reg) (a : Reg) (d : Reg) (s : State) : exec (.mulhn b a d) s = execMulhn b a d s := rfl
@[simp] theorem exec_div (b : Reg) (a : Reg) (d : Reg) (s : State) : exec (.div b a d) s = execDiv b a d s := rfl
@[simp] theorem exec_divn (b : Reg) (a : Reg) (d : Reg) (s : State) : exec (.divn b a d) s = execDivn b a d s := rfl
@[simp] theorem exec_rem (b : Reg) (a : Reg) (d : Reg) (s : State) : exec (.rem b a d) s = execRem b a d s := rfl
@[simp] theorem exec_remn (b : Reg) (a : Reg) (d : Reg) (s : State) : exec (.remn b a d) s = execRemn b a d s := rfl
@[simp] theorem exec_addw (b : Reg) (a : Reg) (d : Reg) (s : State) : exec (.addw b a d) s = execAddw b a d s := rfl
@[simp] theorem exec_subw (b : Reg) (a : Reg) (d : Reg) (s : State) : exec (.subw b a d) s = execSubw b a d s := rfl
@[simp] theorem exec_sllw (b : Reg) (a : Reg) (d : Reg) (s : State) : exec (.sllw b a d) s = execSllw b a d s := rfl
@[simp] theorem exec_srlw (b : Reg) (a : Reg) (d : Reg) (s : State) : exec (.srlw b a d) s = execSrlw b a d s := rfl
@[simp] theorem exec_sraw (b : Reg) (a : Reg) (d : Reg) (s : State) : exec (.sraw b a d) s = execSraw b a d s := rfl
@[simp] theorem exec_mulw (b : Reg) (a : Reg) (d : Reg) (s : State) : exec (.mulw b a d) s = execMulw b a d s := rfl
@[simp] theorem exec_clz (a : Reg) (d : Reg) (s : State) : exec (.clz a d) s = execClz a d s := rfl
@[simp] theorem exec_ctz (a : Reg) (d : Reg) (s : State) : exec (.ctz a d) s = execCtz a d s := rfl
@[simp] theorem exec_popc (a : Reg) (d : Reg) (s : State) : exec (.popc a d) s = execPopc a d s := rfl
@[simp] theorem exec_bswap (a : Reg) (d : Reg) (s : State) : exec (.bswap a d) s = execBswap a d s := rfl
@[simp] theorem exec_addi (imm : BitVec 12) (a : Reg) (d : Reg) (s : State) : exec (.addi imm a d) s = execAddi imm a d s := rfl
@[simp] theorem exec_andi (imm : BitVec 12) (a : Reg) (d : Reg) (s : State) : exec (.andi imm a d) s = execAndi imm a d s := rfl
@[simp] theorem exec_ori (imm : BitVec 12) (a : Reg) (d : Reg) (s : State) : exec (.ori imm a d) s = execOri imm a d s := rfl
@[simp] theorem exec_xori (imm : BitVec 12) (a : Reg) (d : Reg) (s : State) : exec (.xori imm a d) s = execXori imm a d s := rfl
@[simp] theorem exec_slli (sh : BitVec 6) (a : Reg) (d : Reg) (s : State) : exec (.slli sh a d) s = execSlli sh a d s := rfl
@[simp] theorem exec_srli (sh : BitVec 6) (a : Reg) (d : Reg) (s : State) : exec (.srli sh a d) s = execSrli sh a d s := rfl
@[simp] theorem exec_srai (sh : BitVec 6) (a : Reg) (d : Reg) (s : State) : exec (.srai sh a d) s = execSrai sh a d s := rfl
@[simp] theorem exec_rori (sh : BitVec 6) (a : Reg) (d : Reg) (s : State) : exec (.rori sh a d) s = execRori sh a d s := rfl
@[simp] theorem exec_slliw (sh : BitVec 6) (a : Reg) (d : Reg) (s : State) : exec (.slliw sh a d) s = execSlliw sh a d s := rfl
@[simp] theorem exec_srliw (sh : BitVec 6) (a : Reg) (d : Reg) (s : State) : exec (.srliw sh a d) s = execSrliw sh a d s := rfl
@[simp] theorem exec_sraiw (sh : BitVec 6) (a : Reg) (d : Reg) (s : State) : exec (.sraiw sh a d) s = execSraiw sh a d s := rfl
@[simp] theorem exec_roriw (sh : BitVec 6) (a : Reg) (d : Reg) (s : State) : exec (.roriw sh a d) s = execRoriw sh a d s := rfl
@[simp] theorem exec_slti (imm : BitVec 12) (a : Reg) (d : Reg) (s : State) : exec (.slti imm a d) s = execSlti imm a d s := rfl
@[simp] theorem exec_lix (imm : BitVec 18) (d : Reg) (s : State) : exec (.lix imm d) s = execLix imm d s := rfl
@[simp] theorem exec_lixs (imm : BitVec 18) (d : Reg) (s : State) : exec (.lixs imm d) s = execLixs imm d s := rfl
@[simp] theorem exec_fadd (b : Reg) (a : Reg) (d : Reg) (s : State) : exec (.fadd b a d) s = execFadd b a d s := rfl
@[simp] theorem exec_fsub (b : Reg) (a : Reg) (d : Reg) (s : State) : exec (.fsub b a d) s = execFsub b a d s := rfl
@[simp] theorem exec_fmul (b : Reg) (a : Reg) (d : Reg) (s : State) : exec (.fmul b a d) s = execFmul b a d s := rfl
@[simp] theorem exec_fdiv (b : Reg) (a : Reg) (d : Reg) (s : State) : exec (.fdiv b a d) s = execFdiv b a d s := rfl
@[simp] theorem exec_fsqrt (a : Reg) (d : Reg) (s : State) : exec (.fsqrt a d) s = execFsqrt a d s := rfl
@[simp] theorem exec_fmin (b : Reg) (a : Reg) (d : Reg) (s : State) : exec (.fmin b a d) s = execFmin b a d s := rfl
@[simp] theorem exec_fmax (b : Reg) (a : Reg) (d : Reg) (s : State) : exec (.fmax b a d) s = execFmax b a d s := rfl
@[simp] theorem exec_fmadd (b : Reg) (a : Reg) (d : Reg) (s : State) : exec (.fmadd b a d) s = execFmadd b a d s := rfl
@[simp] theorem exec_fmsub (b : Reg) (a : Reg) (d : Reg) (s : State) : exec (.fmsub b a d) s = execFmsub b a d s := rfl
@[simp] theorem exec_fnmadd (b : Reg) (a : Reg) (d : Reg) (s : State) : exec (.fnmadd b a d) s = execFnmadd b a d s := rfl
@[simp] theorem exec_feq (b : Reg) (a : Reg) (d : Reg) (s : State) : exec (.feq b a d) s = execFeq b a d s := rfl
@[simp] theorem exec_flt (b : Reg) (a : Reg) (d : Reg) (s : State) : exec (.flt b a d) s = execFlt b a d s := rfl
@[simp] theorem exec_fle (b : Reg) (a : Reg) (d : Reg) (s : State) : exec (.fle b a d) s = execFle b a d s := rfl
@[simp] theorem exec_fclass (a : Reg) (d : Reg) (s : State) : exec (.fclass a d) s = execFclass a d s := rfl
@[simp] theorem exec_fneg (a : Reg) (d : Reg) (s : State) : exec (.fneg a d) s = execFneg a d s := rfl
@[simp] theorem exec_fabs (a : Reg) (d : Reg) (s : State) : exec (.fabs a d) s = execFabs a d s := rfl
@[simp] theorem exec_fcvtI64F32 (a : Reg) (d : Reg) (s : State) : exec (.fcvtI64F32 a d) s = execFcvtI64F32 a d s := rfl
@[simp] theorem exec_fcvtN64F32 (a : Reg) (d : Reg) (s : State) : exec (.fcvtN64F32 a d) s = execFcvtN64F32 a d s := rfl
@[simp] theorem exec_fcvtI32F32 (a : Reg) (d : Reg) (s : State) : exec (.fcvtI32F32 a d) s = execFcvtI32F32 a d s := rfl
@[simp] theorem exec_fcvtN32F32 (a : Reg) (d : Reg) (s : State) : exec (.fcvtN32F32 a d) s = execFcvtN32F32 a d s := rfl
@[simp] theorem exec_fcvtF32I64 (a : Reg) (d : Reg) (s : State) : exec (.fcvtF32I64 a d) s = execFcvtF32I64 a d s := rfl
@[simp] theorem exec_fcvtF32N64 (a : Reg) (d : Reg) (s : State) : exec (.fcvtF32N64 a d) s = execFcvtF32N64 a d s := rfl
@[simp] theorem exec_fcvtBf16F32 (a : Reg) (d : Reg) (s : State) : exec (.fcvtBf16F32 a d) s = execFcvtBf16F32 a d s := rfl
@[simp] theorem exec_fcvtF16F32 (a : Reg) (d : Reg) (s : State) : exec (.fcvtF16F32 a d) s = execFcvtF16F32 a d s := rfl
@[simp] theorem exec_fcvtF32Bf16 (a : Reg) (d : Reg) (s : State) : exec (.fcvtF32Bf16 a d) s = execFcvtF32Bf16 a d s := rfl
@[simp] theorem exec_fcvtF32F16 (a : Reg) (d : Reg) (s : State) : exec (.fcvtF32F16 a d) s = execFcvtF32F16 a d s := rfl
@[simp] theorem exec_bEq (imm : BitVec 12) (b : Reg) (a : Reg) (s : State) : exec (.bEq imm b a) s = execBEq imm b a s := rfl
@[simp] theorem exec_bNe (imm : BitVec 12) (b : Reg) (a : Reg) (s : State) : exec (.bNe imm b a) s = execBNe imm b a s := rfl
@[simp] theorem exec_bLt (imm : BitVec 12) (b : Reg) (a : Reg) (s : State) : exec (.bLt imm b a) s = execBLt imm b a s := rfl
@[simp] theorem exec_bGe (imm : BitVec 12) (b : Reg) (a : Reg) (s : State) : exec (.bGe imm b a) s = execBGe imm b a s := rfl
@[simp] theorem exec_bLtn (imm : BitVec 12) (b : Reg) (a : Reg) (s : State) : exec (.bLtn imm b a) s = execBLtn imm b a s := rfl
@[simp] theorem exec_bGen (imm : BitVec 12) (b : Reg) (a : Reg) (s : State) : exec (.bGen imm b a) s = execBGen imm b a s := rfl
@[simp] theorem exec_j (imm : BitVec 24) (s : State) : exec (.j imm) s = execJ imm s := rfl
@[simp] theorem exec_jal (imm : BitVec 24) (s : State) : exec (.jal imm) s = execJal imm s := rfl
@[simp] theorem exec_nop (s : State) : exec (.nop) s = execNop s := rfl
@[simp] theorem exec_jr (a : Reg) (s : State) : exec (.jr a) s = execJr a s := rfl
@[simp] theorem exec_jalr (a : Reg) (d : Reg) (s : State) : exec (.jalr a d) s = execJalr a d s := rfl
@[simp] theorem exec_lp (len : BitVec 12) (a : Reg) (s : State) : exec (.lp len a) s = execLp len a s := rfl
@[simp] theorem exec_pca (d : Reg) (s : State) : exec (.pca d) s = execPca d s := rfl
@[simp] theorem exec_done (s : State) : exec (.done) s = execDone s := rfl
@[simp] theorem exec_flush (s : State) : exec (.flush) s = execFlush s := rfl
@[simp] theorem exec_ld (off : BitVec 9) (t : MemType) (base : Reg) (d : Reg) (s : State) : exec (.ld off t base d) s = execLd off t base d s := rfl
@[simp] theorem exec_st (off : BitVec 9) (t : MemType) (base : Reg) (r : Reg) (s : State) : exec (.st off t base r) s = execSt off t base r s := rfl
@[simp] theorem exec_ldb (off : BitVec 3) (t : MemType) (ti : Reg) (base : Reg) (d : Reg) (s : State) : exec (.ldb off t ti base d) s = execLdb off t ti base d s := rfl
@[simp] theorem exec_stb (off : BitVec 3) (t : MemType) (ti : Reg) (base : Reg) (r : Reg) (s : State) : exec (.stb off t ti base r) s = execStb off t ti base r s := rfl
@[simp] theorem exec_ldg (scale : BitVec 3) (t : MemType) (o : Reg) (res : Reg) (d : Reg) (s : State) : exec (.ldg scale t o res d) s = execLdg scale t o res d s := rfl
@[simp] theorem exec_stg (scale : BitVec 3) (t : MemType) (o : Reg) (res : Reg) (d : Reg) (s : State) : exec (.stg scale t o res d) s = execStg scale t o res d s := rfl
@[simp] theorem exec_amoSwap (w : AmoWidth) (b : Reg) (a : Reg) (d : Reg) (s : State) : exec (.amoSwap w b a d) s = execAmoSwap w b a d s := rfl
@[simp] theorem exec_amoAdd (w : AmoWidth) (b : Reg) (a : Reg) (d : Reg) (s : State) : exec (.amoAdd w b a d) s = execAmoAdd w b a d s := rfl
@[simp] theorem exec_amoAnd (w : AmoWidth) (b : Reg) (a : Reg) (d : Reg) (s : State) : exec (.amoAnd w b a d) s = execAmoAnd w b a d s := rfl
@[simp] theorem exec_amoOr (w : AmoWidth) (b : Reg) (a : Reg) (d : Reg) (s : State) : exec (.amoOr w b a d) s = execAmoOr w b a d s := rfl
@[simp] theorem exec_amoXor (w : AmoWidth) (b : Reg) (a : Reg) (d : Reg) (s : State) : exec (.amoXor w b a d) s = execAmoXor w b a d s := rfl
@[simp] theorem exec_amoMaxI (w : AmoWidth) (b : Reg) (a : Reg) (d : Reg) (s : State) : exec (.amoMaxI w b a d) s = execAmoMaxI w b a d s := rfl
@[simp] theorem exec_amoMinI (w : AmoWidth) (b : Reg) (a : Reg) (d : Reg) (s : State) : exec (.amoMinI w b a d) s = execAmoMinI w b a d s := rfl
@[simp] theorem exec_amoMaxN (w : AmoWidth) (b : Reg) (a : Reg) (d : Reg) (s : State) : exec (.amoMaxN w b a d) s = execAmoMaxN w b a d s := rfl
@[simp] theorem exec_amoMinN (w : AmoWidth) (b : Reg) (a : Reg) (d : Reg) (s : State) : exec (.amoMinN w b a d) s = execAmoMinN w b a d s := rfl
@[simp] theorem exec_amoCas (w : AmoWidth) (b : Reg) (a : Reg) (d : Reg) (s : State) : exec (.amoCas w b a d) s = execAmoCas w b a d s := rfl
@[simp] theorem exec_amoFadd (b : Reg) (a : Reg) (d : Reg) (s : State) : exec (.amoFadd b a d) s = execAmoFadd b a d s := rfl
@[simp] theorem exec_fence (scope : Scope) (vec : Bool) (kind : FenceKind) (s : State) : exec (.fence scope vec kind) s = execFence scope vec kind s := rfl
@[simp] theorem exec_ldAcq (sys : Bool) (t : MemType) (a : Reg) (d : Reg) (s : State) : exec (.ldAcq sys t a d) s = execLdAcq sys t a d s := rfl
@[simp] theorem exec_stRel (sys : Bool) (t : MemType) (a : Reg) (r : Reg) (s : State) : exec (.stRel sys t a r) s = execStRel sys t a r s := rfl
@[simp] theorem exec_cinv (a : Reg) (s : State) : exec (.cinv a) s = execCinv a s := rfl
@[simp] theorem exec_cinvAll (s : State) : exec (.cinvAll) s = execCinvAll s := rfl
@[simp] theorem exec_msgSend (rep : Bool) (b : Reg) (a : Reg) (s : State) : exec (.msgSend rep b a) s = execMsgSend rep b a s := rfl
@[simp] theorem exec_msgSendn (k : BitVec 3) (rep : Bool) (a : Reg) (s : State) : exec (.msgSendn k rep a) s = execMsgSendn k rep a s := rfl
@[simp] theorem exec_msgSpawn (a : Reg) (s : State) : exec (.msgSpawn a) s = execMsgSpawn a s := rfl
@[simp] theorem exec_msgHost (b : Reg) (s : State) : exec (.msgHost b) s = execMsgHost b s := rfl
@[simp] theorem exec_msgPut (rep : Bool) (b : Reg) (a : Reg) (s : State) : exec (.msgPut rep b a) s = execMsgPut rep b a s := rfl
@[simp] theorem exec_msgArg (b : Reg) (a : Reg) (s : State) : exec (.msgArg b a) s = execMsgArg b a s := rfl
@[simp] theorem exec_msgHdr (b : Reg) (a : Reg) (s : State) : exec (.msgHdr b a) s = execMsgHdr b a s := rfl
@[simp] theorem exec_msgMask (c : BitVec 6) (b : Reg) (s : State) : exec (.msgMask c b) s = execMsgMask c b s := rfl
@[simp] theorem exec_barArr (a : Reg) (s : State) : exec (.barArr a) s = execBarArr a s := rfl
@[simp] theorem exec_grpRank (b : Reg) (a : Reg) (s : State) : exec (.grpRank b a) s = execGrpRank b a s := rfl
@[simp] theorem exec_grpSize (b : Reg) (a : Reg) (s : State) : exec (.grpSize b a) s = execGrpSize b a s := rfl
@[simp] theorem exec_grpTile (b : Reg) (a : Reg) (s : State) : exec (.grpTile b a) s = execGrpTile b a s := rfl
@[simp] theorem exec_grpSend (rep : Bool) (b : Reg) (a : Reg) (s : State) : exec (.grpSend rep b a) s = execGrpSend rep b a s := rfl
@[simp] theorem exec_mxLdb (a : Reg) (s : State) : exec (.mxLdb a) s = execMxLdb a s := rfl
@[simp] theorem exec_mxMma (notify : Bool) (c : BitVec 6) (b : Reg) (a : Reg) (s : State) : exec (.mxMma notify c b a) s = execMxMma notify c b a s := rfl
@[simp] theorem exec_mxZero (notify : Bool) (c : BitVec 6) (b : Reg) (s : State) : exec (.mxZero notify c b) s = execMxZero notify c b s := rfl
@[simp] theorem exec_mxRd (notify : Bool) (c : BitVec 6) (b : Reg) (a : Reg) (s : State) : exec (.mxRd notify c b a) s = execMxRd notify c b a s := rfl
@[simp] theorem exec_mxLdacc (notify : Bool) (c : BitVec 6) (b : Reg) (a : Reg) (s : State) : exec (.mxLdacc notify c b a) s = execMxLdacc notify c b a s := rfl
@[simp] theorem exec_mxBay (notify : Bool) (c : BitVec 6) (b : Reg) (a : Reg) (s : State) : exec (.mxBay notify c b a) s = execMxBay notify c b a s := rfl
@[simp] theorem exec_mxStat (b : Reg) (a : Reg) (s : State) : exec (.mxStat b a) s = execMxStat b a s := rfl
@[simp] theorem exec_mxCfg (a : Reg) (s : State) : exec (.mxCfg a) s = execMxCfg a s := rfl
@[simp] theorem exec_cpGl (chain : Bool) (notify : Bool) (c : BitVec 4) (a : Reg) (s : State) : exec (.cpGl chain notify c a) s = execCpGl chain notify c a s := rfl
@[simp] theorem exec_cpGb (chain : Bool) (notify : Bool) (c : BitVec 4) (a : Reg) (s : State) : exec (.cpGb chain notify c a) s = execCpGb chain notify c a s := rfl
@[simp] theorem exec_cpLg (notify : Bool) (c : BitVec 4) (a : Reg) (s : State) : exec (.cpLg notify c a) s = execCpLg notify c a s := rfl
@[simp] theorem exec_cpGg (notify : Bool) (c : BitVec 4) (a : Reg) (s : State) : exec (.cpGg notify c a) s = execCpGg notify c a s := rfl
@[simp] theorem exec_cpLb (chain : Bool) (notify : Bool) (c : BitVec 4) (a : Reg) (s : State) : exec (.cpLb chain notify c a) s = execCpLb chain notify c a s := rfl
@[simp] theorem exec_cpLs (chain : Bool) (notify : Bool) (c : BitVec 4) (b : Reg) (a : Reg) (s : State) : exec (.cpLs chain notify c b a) s = execCpLs chain notify c b a s := rfl
@[simp] theorem exec_cpLsb (chain : Bool) (notify : Bool) (c : BitVec 4) (b : Reg) (a : Reg) (s : State) : exec (.cpLsb chain notify c b a) s = execCpLsb chain notify c b a s := rfl
@[simp] theorem exec_cpPl (chain : Bool) (notify : Bool) (c : BitVec 4) (b : Reg) (a : Reg) (s : State) : exec (.cpPl chain notify c b a) s = execCpPl chain notify c b a s := rfl
@[simp] theorem exec_cpCancel (c : BitVec 4) (b : Reg) (a : Reg) (s : State) : exec (.cpCancel c b a) s = execCpCancel c b a s := rfl
@[simp] theorem exec_cpCfg (c : BitVec 4) (b : Reg) (a : Reg) (s : State) : exec (.cpCfg c b a) s = execCpCfg c b a s := rfl
@[simp] theorem exec_cpCrec (c : BitVec 4) (b : Reg) (a : Reg) (s : State) : exec (.cpCrec c b a) s = execCpCrec c b a s := rfl
@[simp] theorem exec_gxLd (chain : Bool) (notify : Bool) (c : BitVec 4) (a : Reg) (s : State) : exec (.gxLd chain notify c a) s = execGxLd chain notify c a s := rfl
@[simp] theorem exec_gxSt (notify : Bool) (c : BitVec 4) (a : Reg) (s : State) : exec (.gxSt notify c a) s = execGxSt notify c a s := rfl
@[simp] theorem exec_gxLdb (chain : Bool) (notify : Bool) (c : BitVec 4) (a : Reg) (s : State) : exec (.gxLdb chain notify c a) s = execGxLdb chain notify c a s := rfl
@[simp] theorem exec_cmbMax (i32 : Bool) (b : Reg) (a : Reg) (s : State) : exec (.cmbMax i32 b a) s = execCmbMax i32 b a s := rfl
@[simp] theorem exec_cmbMin (i32 : Bool) (b : Reg) (a : Reg) (s : State) : exec (.cmbMin i32 b a) s = execCmbMin i32 b a s := rfl
@[simp] theorem exec_cmbLgc (op : LgcOp) (b : Reg) (a : Reg) (s : State) : exec (.cmbLgc op b a) s = execCmbLgc op b a s := rfl
@[simp] theorem exec_cmbAdd (b : Reg) (a : Reg) (s : State) : exec (.cmbAdd b a) s = execCmbAdd b a s := rfl
@[simp] theorem exec_tmPub (now : Bool) (b : Reg) (s : State) : exec (.tmPub now b) s = execTmPub now b s := rfl
@[simp] theorem exec_tmGet (b : Reg) (a : Reg) (s : State) : exec (.tmGet b a) s = execTmGet b a s := rfl
@[simp] theorem exec_tmAge (b : Reg) (a : Reg) (s : State) : exec (.tmAge b a) s = execTmAge b a s := rfl
@[simp] theorem exec_tmArm (b : Reg) (s : State) : exec (.tmArm b) s = execTmArm b s := rfl
@[simp] theorem exec_tmCfg (rd : Bool) (b : Reg) (a : Reg) (s : State) : exec (.tmCfg rd b a) s = execTmCfg rd b a s := rfl
@[simp] theorem exec_reqSub (b : Reg) (a : Reg) (s : State) : exec (.reqSub b a) s = execReqSub b a s := rfl
@[simp] theorem exec_reqStep (a : Reg) (s : State) : exec (.reqStep a) s = execReqStep a s := rfl
@[simp] theorem exec_reqRd (b : Reg) (a : Reg) (s : State) : exec (.reqRd b a) s = execReqRd b a s := rfl
@[simp] theorem exec_reqCommit (b : Reg) (a : Reg) (s : State) : exec (.reqCommit b a) s = execReqCommit b a s := rfl
@[simp] theorem exec_reqFault (a : Reg) (s : State) : exec (.reqFault a) s = execReqFault a s := rfl
@[simp] theorem exec_reqCfgRows (b : Reg) (a : Reg) (s : State) : exec (.reqCfgRows b a) s = execReqCfgRows b a s := rfl
@[simp] theorem exec_reqCfgStopset (b : Reg) (a : Reg) (s : State) : exec (.reqCfgStopset b a) s = execReqCfgStopset b a s := rfl
@[simp] theorem exec_reqCancel (free : Bool) (b : Reg) (a : Reg) (s : State) : exec (.reqCancel free b a) s = execReqCancel free b a s := rfl
@[simp] theorem exec_reqKvAttach (b : Reg) (a : Reg) (s : State) : exec (.reqKvAttach b a) s = execReqKvAttach b a s := rfl
@[simp] theorem exec_reqKvDetach (b : Reg) (a : Reg) (s : State) : exec (.reqKvDetach b a) s = execReqKvDetach b a s := rfl
@[simp] theorem exec_reqKvEvict (b : Reg) (a : Reg) (s : State) : exec (.reqKvEvict b a) s = execReqKvEvict b a s := rfl
@[simp] theorem exec_reqKvRelease (b : Reg) (a : Reg) (s : State) : exec (.reqKvRelease b a) s = execReqKvRelease b a s := rfl
@[simp] theorem exec_tmrSet (b : Reg) (a : Reg) (s : State) : exec (.tmrSet b a) s = execTmrSet b a s := rfl
@[simp] theorem exec_tmrRd (b : Reg) (a : Reg) (s : State) : exec (.tmrRd b a) s = execTmrRd b a s := rfl
@[simp] theorem exec_wktSeize (b : Reg) (a : Reg) (s : State) : exec (.wktSeize b a) s = execWktSeize b a s := rfl
@[simp] theorem exec_wktRel (a : Reg) (s : State) : exec (.wktRel a) s = execWktRel a s := rfl
@[simp] theorem exec_wktStat (b : Reg) (a : Reg) (s : State) : exec (.wktStat b a) s = execWktStat b a s := rfl
@[simp] theorem exec_extW (n : BitVec 3) (a : Reg) (s : State) : exec (.extW n a) s = execExtW n a s := rfl
@[simp] theorem exec_extGet (n : BitVec 3) (a : Reg) (s : State) : exec (.extGet n a) s = execExtGet n a s := rfl
@[simp] theorem exec_extLix (n : BitVec 3) (imm : BitVec 16) (s : State) : exec (.extLix n imm) s = execExtLix n imm s := rfl
@[simp] theorem exec_extLixs (n : BitVec 3) (imm : BitVec 16) (s : State) : exec (.extLixs n imm) s = execExtLixs n imm s := rfl
@[simp] theorem exec_shpLd (n : BitVec 4) (b : Reg) (s : State) : exec (.shpLd n b) s = execShpLd n b s := rfl
@[simp] theorem exec_shpSt (n : BitVec 4) (b : Reg) (s : State) : exec (.shpSt n b) s = execShpSt n b s := rfl
@[simp] theorem exec_shpSet (n : BitVec 4) (f : BitVec 6) (a : Reg) (s : State) : exec (.shpSet n f a) s = execShpSet n f a s := rfl
@[simp] theorem exec_shpGet (n : BitVec 4) (f : BitVec 6) (a : Reg) (s : State) : exec (.shpGet n f a) s = execShpGet n f a s := rfl
@[simp] theorem exec_recSlice (idx : BitVec 6) (b : Reg) (a : Reg) (s : State) : exec (.recSlice idx b a) s = execRecSlice idx b a s := rfl
@[simp] theorem exec_csrRw (n : BitVec 10) (a : Reg) (d : Reg) (s : State) : exec (.csrRw n a d) s = execCsrRw n a d s := rfl
@[simp] theorem exec_csrRs (n : BitVec 10) (a : Reg) (d : Reg) (s : State) : exec (.csrRs n a d) s = execCsrRs n a d s := rfl
@[simp] theorem exec_csrRc (n : BitVec 10) (a : Reg) (d : Reg) (s : State) : exec (.csrRc n a d) s = execCsrRc n a d s := rfl
@[simp] theorem exec_wakeReq (s : State) : exec (.wakeReq) s = execWakeReq s := rfl
@[simp] theorem exec_tret (s : State) : exec (.tret) s = execTret s := rfl
@[simp] theorem exec_trapAb (a : Reg) (s : State) : exec (.trapAb a) s = execTrapAb a s := rfl
@[simp] theorem exec_trapDead (a : Reg) (s : State) : exec (.trapDead a) s = execTrapDead a s := rfl
@[simp] theorem exec_frzRel (b : Reg) (a : Reg) (d : Reg) (s : State) : exec (.frzRel b a d) s = execFrzRel b a d s := rfl
@[simp] theorem exec_eqPop (b : Reg) (d : Reg) (s : State) : exec (.eqPop b d) s = execEqPop b d s := rfl
@[simp] theorem exec_tlbWr (b : Reg) (a : Reg) (d : Reg) (s : State) : exec (.tlbWr b a d) s = execTlbWr b a d s := rfl
@[simp] theorem exec_tlbNak (b : Reg) (a : Reg) (d : Reg) (s : State) : exec (.tlbNak b a d) s = execTlbNak b a d s := rfl
@[simp] theorem exec_tlbInv (a : Reg) (d : Reg) (s : State) : exec (.tlbInv a d) s = execTlbInv a d s := rfl
@[simp] theorem exec_tlbInvt (a : Reg) (d : Reg) (s : State) : exec (.tlbInvt a d) s = execTlbInvt a d s := rfl
@[simp] theorem exec_resWr (b : Reg) (a : Reg) (d : Reg) (s : State) : exec (.resWr b a d) s = execResWr b a d s := rfl
@[simp] theorem exec_resRd (b : Reg) (a : Reg) (s : State) : exec (.resRd b a) s = execResRd b a s := rfl
@[simp] theorem exec_bndWr (b : Reg) (a : Reg) (s : State) : exec (.bndWr b a) s = execBndWr b a s := rfl
@[simp] theorem exec_bndRd (a : Reg) (d : Reg) (s : State) : exec (.bndRd a d) s = execBndRd a d s := rfl
@[simp] theorem exec_bndClr (a : Reg) (s : State) : exec (.bndClr a) s = execBndClr a s := rfl
@[simp] theorem exec_wearRd (b : Reg) (d : Reg) (s : State) : exec (.wearRd b d) s = execWearRd b d s := rfl
@[simp] theorem exec_lvHold (a : Reg) (s : State) : exec (.lvHold a) s = execLvHold a s := rfl
@[simp] theorem exec_lvDrop (s : State) : exec (.lvDrop) s = execLvDrop s := rfl
@[simp] theorem exec_lvStat (b : Reg) (d : Reg) (s : State) : exec (.lvStat b d) s = execLvStat b d s := rfl
@[simp] theorem exec_lvShare (b : Reg) (a : Reg) (d : Reg) (s : State) : exec (.lvShare b a d) s = execLvShare b a d s := rfl
@[simp] theorem exec_wearSet (b : Reg) (a : Reg) (d : Reg) (s : State) : exec (.wearSet b a d) s = execWearSet b a d s := rfl
@[simp] theorem exec_partMk (a : Reg) (d : Reg) (s : State) : exec (.partMk a d) s = execPartMk a d s := rfl
@[simp] theorem exec_partFree (a : Reg) (d : Reg) (s : State) : exec (.partFree a d) s = execPartFree a d s := rfl
@[simp] theorem exec_partHold (b : Reg) (a : Reg) (d : Reg) (s : State) : exec (.partHold b a d) s = execPartHold b a d s := rfl
@[simp] theorem exec_partHalt (b : Reg) (a : Reg) (d : Reg) (s : State) : exec (.partHalt b a d) s = execPartHalt b a d s := rfl
@[simp] theorem exec_partSwap (b : Reg) (a : Reg) (d : Reg) (s : State) : exec (.partSwap b a d) s = execPartSwap b a d s := rfl
@[simp] theorem exec_shutPost (b : Reg) (a : Reg) (d : Reg) (s : State) : exec (.shutPost b a d) s = execShutPost b a d s := rfl
@[simp] theorem exec_shutStat (b : Reg) (a : Reg) (d : Reg) (s : State) : exec (.shutStat b a d) s = execShutStat b a d s := rfl
@[simp] theorem exec_vfCtlPause (b : Reg) (a : Reg) (d : Reg) (s : State) : exec (.vfCtlPause b a d) s = execVfCtlPause b a d s := rfl
@[simp] theorem exec_vfCtlResume (b : Reg) (a : Reg) (d : Reg) (s : State) : exec (.vfCtlResume b a d) s = execVfCtlResume b a d s := rfl
@[simp] theorem exec_vfCtlReset (b : Reg) (a : Reg) (d : Reg) (s : State) : exec (.vfCtlReset b a d) s = execVfCtlReset b a d s := rfl
@[simp] theorem exec_vfCtlTeardown (b : Reg) (a : Reg) (d : Reg) (s : State) : exec (.vfCtlTeardown b a d) s = execVfCtlTeardown b a d s := rfl
@[simp] theorem exec_vfadd (vs : Bool) (t : FpType) (km : Km) (vb : VReg) (va : VReg) (vd : VReg) (s : State) : exec (.vfadd vs t km vb va vd) s = execVfadd vs t km vb va vd s := rfl
@[simp] theorem exec_vfsub (vs : Bool) (t : FpType) (km : Km) (vb : VReg) (va : VReg) (vd : VReg) (s : State) : exec (.vfsub vs t km vb va vd) s = execVfsub vs t km vb va vd s := rfl
@[simp] theorem exec_vfmul (vs : Bool) (t : FpType) (km : Km) (vb : VReg) (va : VReg) (vd : VReg) (s : State) : exec (.vfmul vs t km vb va vd) s = execVfmul vs t km vb va vd s := rfl
@[simp] theorem exec_vfma (vs : Bool) (t : FpType) (km : Km) (vb : VReg) (va : VReg) (vd : VReg) (s : State) : exec (.vfma vs t km vb va vd) s = execVfma vs t km vb va vd s := rfl
@[simp] theorem exec_vfnma (vs : Bool) (t : FpType) (km : Km) (vb : VReg) (va : VReg) (vd : VReg) (s : State) : exec (.vfnma vs t km vb va vd) s = execVfnma vs t km vb va vd s := rfl
@[simp] theorem exec_vfmin (vs : Bool) (t : FpType) (km : Km) (vb : VReg) (va : VReg) (vd : VReg) (s : State) : exec (.vfmin vs t km vb va vd) s = execVfmin vs t km vb va vd s := rfl
@[simp] theorem exec_vfmax (vs : Bool) (t : FpType) (km : Km) (vb : VReg) (va : VReg) (vd : VReg) (s : State) : exec (.vfmax vs t km vb va vd) s = execVfmax vs t km vb va vd s := rfl
@[simp] theorem exec_vfdiv (vs : Bool) (t : FpType) (km : Km) (vb : VReg) (va : VReg) (vd : VReg) (s : State) : exec (.vfdiv vs t km vb va vd) s = execVfdiv vs t km vb va vd s := rfl
@[simp] theorem exec_vadd (vs : Bool) (z : EltSize) (km : Km) (vb : VReg) (va : VReg) (vd : VReg) (s : State) : exec (.vadd vs z km vb va vd) s = execVadd vs z km vb va vd s := rfl
@[simp] theorem exec_vsub (vs : Bool) (z : EltSize) (km : Km) (vb : VReg) (va : VReg) (vd : VReg) (s : State) : exec (.vsub vs z km vb va vd) s = execVsub vs z km vb va vd s := rfl
@[simp] theorem exec_vmul (vs : Bool) (z : EltSize) (km : Km) (vb : VReg) (va : VReg) (vd : VReg) (s : State) : exec (.vmul vs z km vb va vd) s = execVmul vs z km vb va vd s := rfl
@[simp] theorem exec_vmac (vs : Bool) (z : EltSize) (km : Km) (vb : VReg) (va : VReg) (vd : VReg) (s : State) : exec (.vmac vs z km vb va vd) s = execVmac vs z km vb va vd s := rfl
@[simp] theorem exec_vminI (vs : Bool) (z : EltSize) (km : Km) (vb : VReg) (va : VReg) (vd : VReg) (s : State) : exec (.vminI vs z km vb va vd) s = execVminI vs z km vb va vd s := rfl
@[simp] theorem exec_vmaxI (vs : Bool) (z : EltSize) (km : Km) (vb : VReg) (va : VReg) (vd : VReg) (s : State) : exec (.vmaxI vs z km vb va vd) s = execVmaxI vs z km vb va vd s := rfl
@[simp] theorem exec_vminN (vs : Bool) (z : EltSize) (km : Km) (vb : VReg) (va : VReg) (vd : VReg) (s : State) : exec (.vminN vs z km vb va vd) s = execVminN vs z km vb va vd s := rfl
@[simp] theorem exec_vmaxN (vs : Bool) (z : EltSize) (km : Km) (vb : VReg) (va : VReg) (vd : VReg) (s : State) : exec (.vmaxN vs z km vb va vd) s = execVmaxN vs z km vb va vd s := rfl
@[simp] theorem exec_vand (vs : Bool) (z : EltSize) (km : Km) (vb : VReg) (va : VReg) (vd : VReg) (s : State) : exec (.vand vs z km vb va vd) s = execVand vs z km vb va vd s := rfl
@[simp] theorem exec_vor (vs : Bool) (z : EltSize) (km : Km) (vb : VReg) (va : VReg) (vd : VReg) (s : State) : exec (.vor vs z km vb va vd) s = execVor vs z km vb va vd s := rfl
@[simp] theorem exec_vxor (vs : Bool) (z : EltSize) (km : Km) (vb : VReg) (va : VReg) (vd : VReg) (s : State) : exec (.vxor vs z km vb va vd) s = execVxor vs z km vb va vd s := rfl
@[simp] theorem exec_vandn (vs : Bool) (z : EltSize) (km : Km) (vb : VReg) (va : VReg) (vd : VReg) (s : State) : exec (.vandn vs z km vb va vd) s = execVandn vs z km vb va vd s := rfl
@[simp] theorem exec_vsll (vs : Bool) (z : EltSize) (km : Km) (vb : VReg) (va : VReg) (vd : VReg) (s : State) : exec (.vsll vs z km vb va vd) s = execVsll vs z km vb va vd s := rfl
@[simp] theorem exec_vsrl (vs : Bool) (z : EltSize) (km : Km) (vb : VReg) (va : VReg) (vd : VReg) (s : State) : exec (.vsrl vs z km vb va vd) s = execVsrl vs z km vb va vd s := rfl
@[simp] theorem exec_vsra (vs : Bool) (z : EltSize) (km : Km) (vb : VReg) (va : VReg) (vd : VReg) (s : State) : exec (.vsra vs z km vb va vd) s = execVsra vs z km vb va vd s := rfl
@[simp] theorem exec_vmov (vs : Bool) (z : EltSize) (km : Km) (vb : VReg) (vd : VReg) (s : State) : exec (.vmov vs z km vb vd) s = execVmov vs z km vb vd s := rfl
@[simp] theorem exec_vceq (vs : Bool) (z : EltSize) (km : Km) (vb : VReg) (va : VReg) (vd : VReg) (s : State) : exec (.vceq vs z km vb va vd) s = execVceq vs z km vb va vd s := rfl
@[simp] theorem exec_vclt (vs : Bool) (z : EltSize) (km : Km) (vb : VReg) (va : VReg) (vd : VReg) (s : State) : exec (.vclt vs z km vb va vd) s = execVclt vs z km vb va vd s := rfl
@[simp] theorem exec_vcge (vs : Bool) (z : EltSize) (km : Km) (vb : VReg) (va : VReg) (vd : VReg) (s : State) : exec (.vcge vs z km vb va vd) s = execVcge vs z km vb va vd s := rfl
@[simp] theorem exec_vcltn (vs : Bool) (z : EltSize) (km : Km) (vb : VReg) (va : VReg) (vd : VReg) (s : State) : exec (.vcltn vs z km vb va vd) s = execVcltn vs z km vb va vd s := rfl
@[simp] theorem exec_vcgen (vs : Bool) (z : EltSize) (km : Km) (vb : VReg) (va : VReg) (vd : VReg) (s : State) : exec (.vcgen vs z km vb va vd) s = execVcgen vs z km vb va vd s := rfl
@[simp] theorem exec_vfeq (vs : Bool) (t : FpType) (km : Km) (vb : VReg) (va : VReg) (vd : VReg) (s : State) : exec (.vfeq vs t km vb va vd) s = execVfeq vs t km vb va vd s := rfl
@[simp] theorem exec_vflt (vs : Bool) (t : FpType) (km : Km) (vb : VReg) (va : VReg) (vd : VReg) (s : State) : exec (.vflt vs t km vb va vd) s = execVflt vs t km vb va vd s := rfl
@[simp] theorem exec_vfle (vs : Bool) (t : FpType) (km : Km) (vb : VReg) (va : VReg) (vd : VReg) (s : State) : exec (.vfle vs t km vb va vd) s = execVfle vs t km vb va vd s := rfl
@[simp] theorem exec_kand (vb : VReg) (va : VReg) (vd : VReg) (s : State) : exec (.kand vb va vd) s = execKand vb va vd s := rfl
@[simp] theorem exec_kor (vb : VReg) (va : VReg) (vd : VReg) (s : State) : exec (.kor vb va vd) s = execKor vb va vd s := rfl
@[simp] theorem exec_kxor (vb : VReg) (va : VReg) (vd : VReg) (s : State) : exec (.kxor vb va vd) s = execKxor vb va vd s := rfl
@[simp] theorem exec_kandn (vb : VReg) (va : VReg) (vd : VReg) (s : State) : exec (.kandn vb va vd) s = execKandn vb va vd s := rfl
@[simp] theorem exec_knot (va : VReg) (vd : VReg) (s : State) : exec (.knot va vd) s = execKnot va vd s := rfl
@[simp] theorem exec_kpop (va : VReg) (vd : VReg) (s : State) : exec (.kpop va vd) s = execKpop va vd s := rfl
@[simp] theorem exec_kfirst (va : VReg) (vd : VReg) (s : State) : exec (.kfirst va vd) s = execKfirst va vd s := rfl
@[simp] theorem exec_kword (va : VReg) (vd : VReg) (s : State) : exec (.kword va vd) s = execKword va vd s := rfl
@[simp] theorem exec_klo (vb : VReg) (vd : VReg) (s : State) : exec (.klo vb vd) s = execKlo vb vd s := rfl
@[simp] theorem exec_kset (vb : VReg) (vd : VReg) (s : State) : exec (.kset vb vd) s = execKset vb vd s := rfl
@[simp] theorem exec_vcvtF32Bf16 (km : Km) (part : VReg) (va : VReg) (vd : VReg) (s : State) : exec (.vcvtF32Bf16 km part va vd) s = execVcvtF32Bf16 km part va vd s := rfl
@[simp] theorem exec_vcvtF32F16 (km : Km) (part : VReg) (va : VReg) (vd : VReg) (s : State) : exec (.vcvtF32F16 km part va vd) s = execVcvtF32F16 km part va vd s := rfl
@[simp] theorem exec_vcvtBf16F32 (km : Km) (vb : VReg) (va : VReg) (vd : VReg) (s : State) : exec (.vcvtBf16F32 km vb va vd) s = execVcvtBf16F32 km vb va vd s := rfl
@[simp] theorem exec_vcvtF16F32 (km : Km) (vb : VReg) (va : VReg) (vd : VReg) (s : State) : exec (.vcvtF16F32 km vb va vd) s = execVcvtF16F32 km vb va vd s := rfl
@[simp] theorem exec_vcvtF16Bf16 (km : Km) (va : VReg) (vd : VReg) (s : State) : exec (.vcvtF16Bf16 km va vd) s = execVcvtF16Bf16 km va vd s := rfl
@[simp] theorem exec_vcvtBf16F16 (km : Km) (va : VReg) (vd : VReg) (s : State) : exec (.vcvtBf16F16 km va vd) s = execVcvtBf16F16 km va vd s := rfl
@[simp] theorem exec_vcvtF32I32 (km : Km) (va : VReg) (vd : VReg) (s : State) : exec (.vcvtF32I32 km va vd) s = execVcvtF32I32 km va vd s := rfl
@[simp] theorem exec_vcvtI32F32 (km : Km) (va : VReg) (vd : VReg) (s : State) : exec (.vcvtI32F32 km va vd) s = execVcvtI32F32 km va vd s := rfl
@[simp] theorem exec_vcvtF32I8 (km : Km) (part : VReg) (va : VReg) (vd : VReg) (s : State) : exec (.vcvtF32I8 km part va vd) s = execVcvtF32I8 km part va vd s := rfl
@[simp] theorem exec_vwidI16I8 (km : Km) (part : VReg) (va : VReg) (vd : VReg) (s : State) : exec (.vwidI16I8 km part va vd) s = execVwidI16I8 km part va vd s := rfl
@[simp] theorem exec_vwidI32I16 (km : Km) (part : VReg) (va : VReg) (vd : VReg) (s : State) : exec (.vwidI32I16 km part va vd) s = execVwidI32I16 km part va vd s := rfl
@[simp] theorem exec_vwidN16N8 (km : Km) (part : VReg) (va : VReg) (vd : VReg) (s : State) : exec (.vwidN16N8 km part va vd) s = execVwidN16N8 km part va vd s := rfl
@[simp] theorem exec_vwidN32N16 (km : Km) (part : VReg) (va : VReg) (vd : VReg) (s : State) : exec (.vwidN32N16 km part va vd) s = execVwidN32N16 km part va vd s := rfl
@[simp] theorem exec_vnarI8I16 (km : Km) (vb : VReg) (va : VReg) (vd : VReg) (s : State) : exec (.vnarI8I16 km vb va vd) s = execVnarI8I16 km vb va vd s := rfl
@[simp] theorem exec_vnarI16I32 (km : Km) (vb : VReg) (va : VReg) (vd : VReg) (s : State) : exec (.vnarI16I32 km vb va vd) s = execVnarI16I32 km vb va vd s := rfl
@[simp] theorem exec_vgscLo (km : Km) (vb : VReg) (va : VReg) (vd : VReg) (s : State) : exec (.vgscLo km vb va vd) s = execVgscLo km vb va vd s := rfl
@[simp] theorem exec_vgscHi (km : Km) (vb : VReg) (va : VReg) (vd : VReg) (s : State) : exec (.vgscHi km vb va vd) s = execVgscHi km vb va vd s := rfl
@[simp] theorem exec_vunpkI8I4 (km : Km) (part : VReg) (va : VReg) (vd : VReg) (s : State) : exec (.vunpkI8I4 km part va vd) s = execVunpkI8I4 km part va vd s := rfl
@[simp] theorem exec_vpkI4I8 (km : Km) (vb : VReg) (va : VReg) (vd : VReg) (s : State) : exec (.vpkI4I8 km vb va vd) s = execVpkI4I8 km vb va vd s := rfl
@[simp] theorem exec_vpermB (km : Km) (vb : VReg) (va : VReg) (vd : VReg) (s : State) : exec (.vpermB km vb va vd) s = execVpermB km vb va vd s := rfl
@[simp] theorem exec_vnibLo (km : Km) (vb : VReg) (va : VReg) (vd : VReg) (s : State) : exec (.vnibLo km vb va vd) s = execVnibLo km vb va vd s := rfl
@[simp] theorem exec_vnibHi (km : Km) (vb : VReg) (va : VReg) (vd : VReg) (s : State) : exec (.vnibHi km vb va vd) s = execVnibHi km vb va vd s := rfl
@[simp] theorem exec_vbcast (z : EltSize) (km : Km) (el : VReg) (va : VReg) (vd : VReg) (s : State) : exec (.vbcast z km el va vd) s = execVbcast z km el va vd s := rfl
@[simp] theorem exec_vslup (z : EltSize) (km : Km) (cnt : VReg) (va : VReg) (vd : VReg) (s : State) : exec (.vslup z km cnt va vd) s = execVslup z km cnt va vd s := rfl
@[simp] theorem exec_vsldn (z : EltSize) (km : Km) (cnt : VReg) (va : VReg) (vd : VReg) (s : State) : exec (.vsldn z km cnt va vd) s = execVsldn z km cnt va vd s := rfl
@[simp] theorem exec_vcomp (z : EltSize) (km : Km) (va : VReg) (vd : VReg) (s : State) : exec (.vcomp z km va vd) s = execVcomp z km va vd s := rfl
@[simp] theorem exec_vidx (z : EltSize) (km : Km) (vd : VReg) (s : State) : exec (.vidx z km vd) s = execVidx z km vd s := rfl
@[simp] theorem exec_vmvq (z : EltSize) (el : VReg) (va : VReg) (vd : VReg) (s : State) : exec (.vmvq z el va vd) s = execVmvq z el va vd s := rfl
@[simp] theorem exec_vrsum (t : RedType) (km : Km) (va : VReg) (vd : VReg) (s : State) : exec (.vrsum t km va vd) s = execVrsum t km va vd s := rfl
@[simp] theorem exec_vrmax (t : RedType) (km : Km) (va : VReg) (vd : VReg) (s : State) : exec (.vrmax t km va vd) s = execVrmax t km va vd s := rfl
@[simp] theorem exec_vrmin (t : RedType) (km : Km) (va : VReg) (vd : VReg) (s : State) : exec (.vrmin t km va vd) s = execVrmin t km va vd s := rfl
@[simp] theorem exec_vramax (t : RedType) (km : Km) (va : VReg) (vd : VReg) (s : State) : exec (.vramax t km va vd) s = execVramax t km va vd s := rfl
@[simp] theorem exec_vramin (t : RedType) (km : Km) (va : VReg) (vd : VReg) (s : State) : exec (.vramin t km va vd) s = execVramin t km va vd s := rfl
@[simp] theorem exec_vscan (t : RedType) (km : Km) (va : VReg) (vd : VReg) (s : State) : exec (.vscan t km va vd) s = execVscan t km va vd s := rfl
@[simp] theorem exec_vhist (t : RedType) (km : Km) (cnt : VReg) (va : VReg) (vd : VReg) (s : State) : exec (.vhist t km cnt va vd) s = execVhist t km cnt va vd s := rfl
@[simp] theorem exec_vexp2 (km : Km) (va : VReg) (vd : VReg) (s : State) : exec (.vexp2 km va vd) s = execVexp2 km va vd s := rfl
@[simp] theorem exec_vlog2 (km : Km) (va : VReg) (vd : VReg) (s : State) : exec (.vlog2 km va vd) s = execVlog2 km va vd s := rfl
@[simp] theorem exec_vrcp (km : Km) (va : VReg) (vd : VReg) (s : State) : exec (.vrcp km va vd) s = execVrcp km va vd s := rfl
@[simp] theorem exec_vrsqrt (km : Km) (va : VReg) (vd : VReg) (s : State) : exec (.vrsqrt km va vd) s = execVrsqrt km va vd s := rfl
@[simp] theorem exec_vsqrt (km : Km) (va : VReg) (vd : VReg) (s : State) : exec (.vsqrt km va vd) s = execVsqrt km va vd s := rfl
@[simp] theorem exec_vrngN32 (km : Km) (vb : VReg) (va : VReg) (vd : VReg) (s : State) : exec (.vrngN32 km vb va vd) s = execVrngN32 km vb va vd s := rfl
@[simp] theorem exec_vrngF32 (km : Km) (vb : VReg) (va : VReg) (vd : VReg) (s : State) : exec (.vrngF32 km vb va vd) s = execVrngF32 km vb va vd s := rfl
@[simp] theorem exec_vord (t : OrdType) (km : Km) (va : VReg) (vd : VReg) (s : State) : exec (.vord t km va vd) s = execVord t km va vd s := rfl
@[simp] theorem exec_vordi (t : OrdType) (km : Km) (va : VReg) (vd : VReg) (s : State) : exec (.vordi t km va vd) s = execVordi t km va vd s := rfl
@[simp] theorem exec_vld (km : Km) (base : Reg) (v : VReg) (s : State) : exec (.vld km base v) s = execVld km base v s := rfl
@[simp] theorem exec_vst (km : Km) (base : Reg) (v : VReg) (s : State) : exec (.vst km base v) s = execVst km base v s := rfl
@[simp] theorem exec_vlds (km : Km) (stride : Reg) (base : Reg) (v : VReg) (s : State) : exec (.vlds km stride base v) s = execVlds km stride base v s := rfl
@[simp] theorem exec_vsts (km : Km) (stride : Reg) (base : Reg) (v : VReg) (s : State) : exec (.vsts km stride base v) s = execVsts km stride base v s := rfl
@[simp] theorem exec_vldg (km : Km) (base : Reg) (v : VReg) (s : State) : exec (.vldg km base v) s = execVldg km base v s := rfl
@[simp] theorem exec_vstg (km : Km) (base : Reg) (v : VReg) (s : State) : exec (.vstg km base v) s = execVstg km base v s := rfl
@[simp] theorem exec_vldb (km : Km) (base : Reg) (v : VReg) (s : State) : exec (.vldb km base v) s = execVldb km base v s := rfl
@[simp] theorem exec_compactAdd (b : CReg) (d : CReg) (s : State) : exec (.compactAdd b d) s = execCompactAdd b d s := rfl
@[simp] theorem exec_compactSub (b : CReg) (d : CReg) (s : State) : exec (.compactSub b d) s = execCompactSub b d s := rfl
@[simp] theorem exec_compactAnd (b : CReg) (d : CReg) (s : State) : exec (.compactAnd b d) s = execCompactAnd b d s := rfl
@[simp] theorem exec_compactOr (b : CReg) (d : CReg) (s : State) : exec (.compactOr b d) s = execCompactOr b d s := rfl
@[simp] theorem exec_compactXor (b : CReg) (d : CReg) (s : State) : exec (.compactXor b d) s = execCompactXor b d s := rfl
@[simp] theorem exec_compactSll (b : CReg) (d : CReg) (s : State) : exec (.compactSll b d) s = execCompactSll b d s := rfl
@[simp] theorem exec_compactSrl (b : CReg) (d : CReg) (s : State) : exec (.compactSrl b d) s = execCompactSrl b d s := rfl
@[simp] theorem exec_compactSra (b : CReg) (d : CReg) (s : State) : exec (.compactSra b d) s = execCompactSra b d s := rfl
@[simp] theorem exec_compactMul (b : CReg) (d : CReg) (s : State) : exec (.compactMul b d) s = execCompactMul b d s := rfl
@[simp] theorem exec_compactMove (b : CReg) (d : CReg) (s : State) : exec (.compactMove b d) s = execCompactMove b d s := rfl
@[simp] theorem exec_compactAddi (imm : BitVec 6) (d : CReg) (s : State) : exec (.compactAddi imm d) s = execCompactAddi imm d s := rfl
@[simp] theorem exec_compactLix (imm : BitVec 6) (d : CReg) (s : State) : exec (.compactLix imm d) s = execCompactLix imm d s := rfl
@[simp] theorem exec_compactAndi (imm : BitVec 6) (d : CReg) (s : State) : exec (.compactAndi imm d) s = execCompactAndi imm d s := rfl
@[simp] theorem exec_compactSlli (imm : BitVec 6) (d : CReg) (s : State) : exec (.compactSlli imm d) s = execCompactSlli imm d s := rfl
@[simp] theorem exec_compactSrli (imm : BitVec 6) (d : CReg) (s : State) : exec (.compactSrli imm d) s = execCompactSrli imm d s := rfl
@[simp] theorem exec_compactSrai (imm : BitVec 6) (d : CReg) (s : State) : exec (.compactSrai imm d) s = execCompactSrai imm d s := rfl
@[simp] theorem exec_compactLdI64 (off : BitVec 2) (b : CReg) (d : CReg) (s : State) : exec (.compactLdI64 off b d) s = execCompactLdI64 off b d s := rfl
@[simp] theorem exec_compactStI64 (off : BitVec 2) (b : CReg) (r : CReg) (s : State) : exec (.compactStI64 off b r) s = execCompactStI64 off b r s := rfl
@[simp] theorem exec_compactLdI32 (off : BitVec 2) (b : CReg) (d : CReg) (s : State) : exec (.compactLdI32 off b d) s = execCompactLdI32 off b d s := rfl
@[simp] theorem exec_compactStI32 (off : BitVec 2) (b : CReg) (r : CReg) (s : State) : exec (.compactStI32 off b r) s = execCompactStI32 off b r s := rfl
@[simp] theorem exec_compactBEq (imm : BitVec 6) (a : CReg) (s : State) : exec (.compactBEq imm a) s = execCompactBEq imm a s := rfl
@[simp] theorem exec_compactBNe (imm : BitVec 6) (a : CReg) (s : State) : exec (.compactBNe imm a) s = execCompactBNe imm a s := rfl
@[simp] theorem exec_compactJ (imm : BitVec 10) (s : State) : exec (.compactJ imm) s = execCompactJ imm s := rfl
@[simp] theorem exec_compactNop (s : State) : exec (.compactNop) s = execCompactNop s := rfl
@[simp] theorem exec_compactDone (s : State) : exec (.compactDone) s = execCompactDone s := rfl
@[simp] theorem exec_compactFlush (s : State) : exec (.compactFlush) s = execCompactFlush s := rfl
@[simp] theorem exec_compactJrLk (s : State) : exec (.compactJrLk) s = execCompactJrLk s := rfl
@[simp] theorem exec_pfx (fmt : BitVec 4) (rnd : BitVec 3) (sat : Bool) (gs : BitVec 2) (s : State) : exec (.pfx fmt rnd sat gs) s = execPfx fmt rnd sat gs s := rfl
@[simp] theorem exec_messageArrival (n : Nat) (s : State) : exec (.messageArrival n) s = execMessageArrival n s := rfl
@[simp] theorem exec_binding (t : Nat) (c : Fin 8) (s : State) : exec (.binding t c) s = execBinding t c s := rfl
@[simp] theorem exec_vectorStart (t : Nat) (c : Fin 8) (s : State) : exec (.vectorStart t c) s = execVectorStart t c s := rfl
@[simp] theorem exec_boundTrap (t : Nat) (c : Fin 8) (s : State) : exec (.boundTrap t c) s = execBoundTrap t c s := rfl
@[simp] theorem exec_tlbMissRetry (t : Nat) (c : Fin 8) (s : State) : exec (.tlbMissRetry t c) s = execTlbMissRetry t c s := rfl
@[simp] theorem exec_abort (t : Nat) (c : Fin 8) (s : State) : exec (.abort t c) s = execAbort t c s := rfl
@[simp] theorem exec_budgetOverrun (t : Nat) (c : Fin 8) (s : State) : exec (.budgetOverrun t c) s = execBudgetOverrun t c s := rfl
@[simp] theorem exec_leaveGrant (bay : Nat) (s : State) : exec (.leaveGrant bay) s = execLeaveGrant bay s := rfl
@[simp] theorem exec_leaveTimeout (t : Nat) (c : Fin 8) (s : State) : exec (.leaveTimeout t c) s = execLeaveTimeout t c s := rfl
@[simp] theorem exec_doneRetire (t : Nat) (c : Fin 8) (s : State) : exec (.doneRetire t c) s = execDoneRetire t c s := rfl
@[simp] theorem exec_sliceAccess (n : Nat) (s : State) : exec (.sliceAccess n) s = execSliceAccess n s := rfl
@[simp] theorem exec_lineFill (n : Nat) (s : State) : exec (.lineFill n) s = execLineFill n s := rfl
@[simp] theorem exec_loadReply (t : Nat) (c : Fin 8) (s : State) : exec (.loadReply t c) s = execLoadReply t c s := rfl
@[simp] theorem exec_portThreadOperation (t : Nat) (s : State) : exec (.portThreadOperation t) s = execPortThreadOperation t s := rfl
@[simp] theorem exec_put (t : Nat) (s : State) : exec (.put t) s = execPut t s := rfl
@[simp] theorem exec_barrierArrival (t : Nat) (s : State) : exec (.barrierArrival t) s = execBarrierArrival t s := rfl
@[simp] theorem exec_probe (n : Nat) (s : State) : exec (.probe n) s = execProbe n s := rfl
@[simp] theorem exec_resourceInvalidation (t : Nat) (s : State) : exec (.resourceInvalidation t) s = execResourceInvalidation t s := rfl
@[simp] theorem exec_streamerSegment (n : Nat) (s : State) : exec (.streamerSegment n) s = execStreamerSegment n s := rfl
@[simp] theorem exec_streamerLine (n : Nat) (s : State) : exec (.streamerLine n) s = execStreamerLine n s := rfl
@[simp] theorem exec_transferEnd (n : Nat) (s : State) : exec (.transferEnd n) s = execTransferEnd n s := rfl
@[simp] theorem exec_streamerCancel (n : Nat) (s : State) : exec (.streamerCancel n) s = execStreamerCancel n s := rfl
@[simp] theorem exec_mxQueueEntry (t : Nat) (s : State) : exec (.mxQueueEntry t) s = execMxQueueEntry t s := rfl
@[simp] theorem exec_mxCommandStart (t : Nat) (s : State) : exec (.mxCommandStart t) s = execMxCommandStart t s := rfl
@[simp] theorem exec_mxCommandComplete (t : Nat) (s : State) : exec (.mxCommandComplete t) s = execMxCommandComplete t s := rfl
@[simp] theorem exec_mxBayMember (t : Nat) (s : State) : exec (.mxBayMember t) s = execMxBayMember t s := rfl
@[simp] theorem exec_mxBayFold (t : Nat) (s : State) : exec (.mxBayFold t) s = execMxBayFold t s := rfl
@[simp] theorem exec_transomRequestAccept (n : Nat) (s : State) : exec (.transomRequestAccept n) s = execTransomRequestAccept n s := rfl
@[simp] theorem exec_transomStagingComplete (n : Nat) (s : State) : exec (.transomStagingComplete n) s = execTransomStagingComplete n s := rfl
@[simp] theorem exec_transomCommit (n : Nat) (s : State) : exec (.transomCommit n) s = execTransomCommit n s := rfl
@[simp] theorem exec_readPinEnd (n : Nat) (s : State) : exec (.readPinEnd n) s = execReadPinEnd n s := rfl
@[simp] theorem exec_mirrorInstall (h : BitVec 512) (data : MirrorData) (s : State) : exec (.mirrorInstall h data) s = execMirrorInstall h data s := rfl
@[simp] theorem exec_pubdb (fn : Fin 16) (v : BitVec 64) (s : State) : exec (.pubdb fn v) s = execPubdb fn v s := rfl
@[simp] theorem exec_getdb (fn : Fin 16) (v : BitVec 64) (s : State) : exec (.getdb fn v) s = execGetdb fn v s := rfl
@[simp] theorem exec_hostPostedWrite (fn : Fin 16) (addr : Nat) (data : List (BitVec 8)) (s : State) : exec (.hostPostedWrite fn addr data) s = execHostPostedWrite fn addr data s := rfl
@[simp] theorem exec_senddb (fn : Fin 16) (s : State) : exec (.senddb fn) s = execSenddb fn s := rfl
@[simp] theorem exec_hostChannelWrite (n : Nat) (s : State) : exec (.hostChannelWrite n) s = execHostChannelWrite n s := rfl
@[simp] theorem exec_eqpop (fn : Fin 16) (s : State) : exec (.eqpop fn) s = execEqpop fn s := rfl
@[simp] theorem exec_rqsub (fn : Fin 16) (v : BitVec 64) (s : State) : exec (.rqsub fn v) s = execRqsub fn v s := rfl
@[simp] theorem exec_rqrd (fn : Fin 16) (v : BitVec 64) (s : State) : exec (.rqrd fn v) s = execRqrd fn v s := rfl
@[simp] theorem exec_rqcan (fn : Fin 16) (v : BitVec 64) (s : State) : exec (.rqcan fn v) s = execRqcan fn v s := rfl
@[simp] theorem exec_qtail (fn : Fin 16) (q : Fin 8) (v : BitVec 64) (s : State) : exec (.qtail fn q v) s = execQtail fn q v s := rfl
@[simp] theorem exec_admission (n : Nat) (s : State) : exec (.admission n) s = execAdmission n s := rfl
@[simp] theorem exec_mbExecSystemInstruction (s : State) : exec (.mbExecSystemInstruction) s = execMbExecSystemInstruction s := rfl
@[simp] theorem exec_mbSlotConfig (s : State) : exec (.mbSlotConfig) s = execMbSlotConfig s := rfl
@[simp] theorem exec_mbWicketArm (s : State) : exec (.mbWicketArm) s = execMbWicketArm s := rfl
@[simp] theorem exec_mbErrorArea (s : State) : exec (.mbErrorArea) s = execMbErrorArea s := rfl
@[simp] theorem exec_mbPowerCap (s : State) : exec (.mbPowerCap) s = execMbPowerCap s := rfl
@[simp] theorem exec_mbSleep (s : State) : exec (.mbSleep) s = execMbSleep s := rfl
@[simp] theorem exec_mbWake (s : State) : exec (.mbWake) s = execMbWake s := rfl
@[simp] theorem exec_wakeComplete (s : State) : exec (.wakeComplete) s = execWakeComplete s := rfl
@[simp] theorem exec_mbSuspend (s : State) : exec (.mbSuspend) s = execMbSuspend s := rfl
@[simp] theorem exec_mbResume (s : State) : exec (.mbResume) s = execMbResume s := rfl
@[simp] theorem exec_mbPeerWord (s : State) : exec (.mbPeerWord) s = execMbPeerWord s := rfl
@[simp] theorem exec_mbLifetimeRecord (s : State) : exec (.mbLifetimeRecord) s = execMbLifetimeRecord s := rfl
@[simp] theorem exec_registerWrite (fn : Fin 16) (off : Nat) (a : BarAccess) (s : State) : exec (.registerWrite fn off a) s = execRegisterWrite fn off a s := rfl
@[simp] theorem exec_functionLevelReset (fn : Fin 16) (s : State) : exec (.functionLevelReset fn) s = execFunctionLevelReset fn s := rfl
@[simp] theorem exec_boot (ok : Bool) (measured : List (BitVec 8)) (tenant : BitVec 4) (grant : BitVec 4) (record : Bool) (s : State) : exec (.boot ok measured tenant grant record) s = execBoot ok measured tenant grant record s := rfl
@[simp] theorem exec_timerEdge (t : Nat) (s : State) : exec (.timerEdge t) s = execTimerEdge t s := rfl
@[simp] theorem exec_controlEdge (s : State) : exec (.controlEdge) s = execControlEdge s := rfl
@[simp] theorem exec_deltaCommit (complete : Bool) (torn : Bool) (overfull : Bool) (lines : List (Nat × List (BitVec 8) × List Nat)) (timers : List (List Nat)) (msgs : List QueuedMsg) (s : State) : exec (.deltaCommit complete torn overfull lines timers msgs) s = execDeltaCommit complete torn overfull lines timers msgs s := rfl
@[simp] theorem exec_sweep (n : Nat) (s : State) : exec (.sweep n) s = execSweep n s := rfl
@[simp] theorem exec_seizeRequest (bay : Nat) (s : State) : exec (.seizeRequest bay) s = execSeizeRequest bay s := rfl
@[simp] theorem exec_wicketRelease (bay : Nat) (s : State) : exec (.wicketRelease bay) s = execWicketRelease bay s := rfl
@[simp] theorem exec_forcedRelease (bay : Nat) (s : State) : exec (.forcedRelease bay) s = execForcedRelease bay s := rfl
@[simp] theorem exec_reqStepOperation (n : Nat) (s : State) : exec (.reqStepOperation n) s = execReqStepOperation n s := rfl
@[simp] theorem exec_kvOperation (n : Nat) (s : State) : exec (.kvOperation n) s = execKvOperation n s := rfl
@[simp] theorem exec_combineArrival (n : Nat) (s : State) : exec (.combineArrival n) s = execCombineArrival n s := rfl
@[simp] theorem exec_haltComplete (n : Nat) (s : State) : exec (.haltComplete n) s = execHaltComplete n s := rfl
@[simp] theorem exec_swapComplete (n : Nat) (s : State) : exec (.swapComplete n) s = execSwapComplete n s := rfl
@[simp] theorem exec_bstoreRefill (t : Nat) (s : State) : exec (.bstoreRefill t) s = execBstoreRefill t s := rfl
@[simp] theorem exec_shutterUnitEnd (n : Nat) (s : State) : exec (.shutterUnitEnd n) s = execShutterUnitEnd n s := rfl
@[simp] theorem exec_shutterVacant (n : Nat) (s : State) : exec (.shutterVacant n) s = execShutterVacant n s := rfl
@[simp] theorem exec_moveRound (a : MoveAct) (s : State) : exec (.moveRound a) s = execMoveRound a s := rfl
@[simp] theorem exec_moveFreeze (n : Nat) (s : State) : exec (.moveFreeze n) s = execMoveFreeze n s := rfl
@[simp] theorem exec_scrub (a : FrameAct) (s : State) : exec (.scrub a) s = execScrub a s := rfl
@[simp] theorem exec_rowCloseTimeout (n : Nat) (s : State) : exec (.rowCloseTimeout n) s = execRowCloseTimeout n s := rfl
@[simp] theorem exec_refresh (n : Nat) (s : State) : exec (.refresh n) s = execRefresh n s := rfl
@[simp] theorem exec_monitorSample (w : Nat) (bti : Nat) (em : Nat) (s : State) : exec (.monitorSample w bti em) s = execMonitorSample w bti em s := rfl
@[simp] theorem exec_illegalInstruction (w : BitVec 32) (s : State) : exec (.illegalInstruction w) s = execIllegalInstruction w s := rfl
@[simp] theorem exec_transcendentalBurstEnd (t : Nat) (s : State) : exec (.transcendentalBurstEnd t) s = execTranscendentalBurstEnd t s := rfl
@[simp] theorem exec_heartbeat (role : Nat) (epoch : Nat) (edge : Nat) (dt : Nat) (s : State) : exec (.heartbeat role epoch edge dt) s = execHeartbeat role epoch edge dt s := rfl
@[simp] theorem exec_ptmExchange (time : Nat) (s : State) : exec (.ptmExchange time) s = execPtmExchange time s := rfl
@[simp] theorem exec_quoteRequest (nonce : BitVec 256) (mask : BitVec 8) (s : State) : exec (.quoteRequest nonce mask) s = execQuoteRequest nonce mask s := rfl
@[simp] theorem exec_hostPortAcceptance (fn : Fin 16) (s : State) : exec (.hostPortAcceptance fn) s = execHostPortAcceptance fn s := rfl

end Sys2Proof.Machine
end

