-- ==== Sys2Proof/Laws/State.lean ====
section
/-! SUPPORT. What the updates of State leave unchanged, field by field, and what reading after an update of a tile, a slot or a half gives. -/

namespace Sys2Proof.Machine

open Sys2Proof

/-! ### Sparse tables -/

theorem NMap.get?_set_same {α : Type} (m : NMap α) (a : Nat) (v : α) : NMap.get? (NMap.set m a v) a = some v := by
  induction m with
  | nil => simp [NMap.set, NMap.get?]
  | cons p r ih =>
    obtain ⟨k, w⟩ := p
    by_cases h1 : a < k
    · simp [NMap.set, NMap.get?, h1]
    · by_cases h2 : k = a
      · simp [NMap.set, NMap.get?, h2]
      · simp [NMap.set, NMap.get?, h1, h2, ih]
theorem NMap.get?_set_ne {α : Type} (m : NMap α) {a b : Nat} (v : α) (h : a ≠ b) : NMap.get? (NMap.set m a v) b = NMap.get? m b := by
  induction m with
  | nil => simp [NMap.set, NMap.get?, h]
  | cons p r ih =>
    obtain ⟨k, w⟩ := p
    by_cases h1 : a < k
    · simp [NMap.set, NMap.get?, h1, h]
    · by_cases h2 : k = a
      · subst h2; simp [NMap.set, NMap.get?, h]
      · simp [NMap.set, NMap.get?, h1, h2, ih]
theorem NMap.set_set {α : Type} (m : NMap α) (a : Nat) (v w : α) : NMap.set (NMap.set m a v) a w = NMap.set m a w := by
  induction m with
  | nil => simp [NMap.set]
  | cons p r ih =>
    obtain ⟨k, u⟩ := p
    by_cases h1 : a < k
    · simp [NMap.set, h1]
    · by_cases h2 : k = a
      · simp [NMap.set, h2]
      · simp [NMap.set, h1, h2, ih]


/-! ### Tiles, contexts, slots and halves -/

@[simp] theorem tile_setTile (s : State) (t : Nat) (x : Tile) : (s.setTile t x).tile t = x := by
  simp [State.tile, State.setTile, NMap.get?_set_same]
theorem tile_setTile_ne (s : State) {t u : Nat} (x : Tile) (h : t ≠ u) : (s.setTile t x).tile u = s.tile u := by
  simp [State.tile, State.setTile, NMap.get?_set_ne _ _ h]
@[simp] theorem setTile_setTile (s : State) (t : Nat) (x y : Tile) : (s.setTile t x).setTile t y = s.setTile t y := by
  simp [State.setTile, NMap.set_set]
@[simp] theorem Ctx.slot_setSlot (c : Ctx) (h : Bool) (x : Slot) : (c.setSlot h x).slot h = x := by cases h <;> rfl
@[simp] theorem Ctx.setSlot_cur (c : Ctx) (h : Bool) (x : Slot) : (c.setSlot h x).cur = c.cur := by cases h <;> rfl
@[simp] theorem Ctx.setSlot_setSlot (c : Ctx) (h : Bool) (x y : Slot) : (c.setSlot h x).setSlot h y = c.setSlot h y := by cases h <;> rfl
@[simp] theorem Tile.ctx_setCtx (t : Tile) (c : Fin 8) (x : Ctx) : (t.setCtx c x).ctx c = x := by
  simp [Tile.ctx, Tile.setCtx, Vector.get_eq_getElem]
theorem Tile.ctx_setCtx_ne (t : Tile) {c d : Fin 8} (x : Ctx) (h : c ≠ d) : (t.setCtx c x).ctx d = t.ctx d := by
  have : (c : Nat) ≠ d := fun e => h (Fin.ext e)
  simp [Tile.ctx, Tile.setCtx, Vector.get_eq_getElem, this]
@[simp] theorem Tile.setCtx_setCtx (t : Tile) (c : Fin 8) (x y : Ctx) : (t.setCtx c x).setCtx c y = t.setCtx c y := by
  simp [Tile.setCtx, Vector.set_set]
theorem setSlotAt_eq (s : State) (t : Nat) (c : Fin 8) (x : Slot) :
    s.setSlotAt t c x = s.setTile t ((s.tile t).setCtx c (((s.tile t).ctx c).setSlot ((s.tile t).ctx c).cur x)) := rfl
@[simp] theorem slotAt_setSlotAt (s : State) (t : Nat) (c : Fin 8) (x : Slot) : (s.setSlotAt t c x).slotAt t c = x := by
  simp [setSlotAt_eq, State.slotAt]
@[simp] theorem setSlotAt_setSlotAt (s : State) (t : Nat) (c : Fin 8) (x y : Slot) : (s.setSlotAt t c x).setSlotAt t c y = s.setSlotAt t c y := by
  simp [setSlotAt_eq]
@[simp] theorem slot_setSlot (s : State) (x : Slot) : (s.setSlot x).slot = x := slotAt_setSlotAt s s.cur s.ctx x
@[simp] theorem setSlot_setSlot (s : State) (x y : Slot) : (s.setSlot x).setSlot y = s.setSlot y := setSlotAt_setSlotAt s s.cur s.ctx x y
@[simp] theorem slot_setHalf (s : State) (h : Half) : (s.setHalf h).slot = { s.slot with half := h } := slot_setSlot s _
@[simp] theorem half_setHalf (s : State) (h : Half) : (s.setHalf h).half = h := by simp [State.half]
@[simp] theorem setHalf_setHalf (s : State) (h k : Half) : (s.setHalf h).setHalf k = s.setHalf k := by
  simp [State.setHalf]

/-! ### setTile -/

@[simp] theorem setTile_cycle (s : State) (t : Nat) (x : Tile) : (s.setTile t x).cycle = s.cycle := rfl
@[simp] theorem setTile_dtimeBase (s : State) (t : Nat) (x : Tile) : (s.setTile t x).dtimeBase = s.dtimeBase := rfl
@[simp] theorem setTile_dtimeHold (s : State) (t : Nat) (x : Tile) : (s.setTile t x).dtimeHold = s.dtimeHold := rfl
@[simp] theorem setTile_inputs (s : State) (t : Nat) (x : Tile) : (s.setTile t x).inputs = s.inputs := rfl
@[simp] theorem setTile_evTurn (s : State) (t : Nat) (x : Tile) : (s.setTile t x).evTurn = s.evTurn := rfl
@[simp] theorem setTile_cur (s : State) (t : Nat) (x : Tile) : (s.setTile t x).cur = s.cur := rfl
@[simp] theorem setTile_ctx (s : State) (t : Nat) (x : Tile) : (s.setTile t x).ctx = s.ctx := rfl
@[simp] theorem setTile_fresh (s : State) (t : Nat) (x : Tile) : (s.setTile t x).fresh = s.fresh := rfl
@[simp] theorem setTile_mem (s : State) (t : Nat) (x : Tile) : (s.setTile t x).mem = s.mem := rfl
@[simp] theorem setTile_poison (s : State) (t : Nat) (x : Tile) : (s.setTile t x).poison = s.poison := rfl
@[simp] theorem setTile_flips (s : State) (t : Nat) (x : Tile) : (s.setTile t x).flips = s.flips := rfl
@[simp] theorem setTile_dirty (s : State) (t : Nat) (x : Tile) : (s.setTile t x).dirty = s.dirty := rfl
@[simp] theorem setTile_net (s : State) (t : Nat) (x : Tile) : (s.setTile t x).net = s.net := rfl
@[simp] theorem setTile_cnet (s : State) (t : Nat) (x : Tile) : (s.setTile t x).cnet = s.cnet := rfl
@[simp] theorem setTile_sliceQ (s : State) (t : Nat) (x : Tile) : (s.setTile t x).sliceQ = s.sliceQ := rfl
@[simp] theorem setTile_kvq (s : State) (t : Nat) (x : Tile) : (s.setTile t x).kvq = s.kvq := rfl
@[simp] theorem setTile_l2 (s : State) (t : Nat) (x : Tile) : (s.setTile t x).l2 = s.l2 := rfl
@[simp] theorem setTile_rows (s : State) (t : Nat) (x : Tile) : (s.setTile t x).rows = s.rows := rfl
@[simp] theorem setTile_transfers (s : State) (t : Nat) (x : Tile) : (s.setTile t x).transfers = s.transfers := rfl
@[simp] theorem setTile_strFrozen (s : State) (t : Nat) (x : Tile) : (s.setTile t x).strFrozen = s.strFrozen := rfl
@[simp] theorem setTile_strLast (s : State) (t : Nat) (x : Tile) : (s.setTile t x).strLast = s.strLast := rfl
@[simp] theorem setTile_lat (s : State) (t : Nat) (x : Tile) : (s.setTile t x).lat = s.lat := rfl
@[simp] theorem setTile_slots (s : State) (t : Nat) (x : Tile) : (s.setTile t x).slots = s.slots := rfl
@[simp] theorem setTile_pubs (s : State) (t : Nat) (x : Tile) : (s.setTile t x).pubs = s.pubs := rfl
@[simp] theorem setTile_tmq (s : State) (t : Nat) (x : Tile) : (s.setTile t x).tmq = s.tmq := rfl
@[simp] theorem setTile_mirrors (s : State) (t : Nat) (x : Tile) : (s.setTile t x).mirrors = s.mirrors := rfl
@[simp] theorem setTile_bayOps (s : State) (t : Nat) (x : Tile) : (s.setTile t x).bayOps = s.bayOps := rfl
@[simp] theorem setTile_bays (s : State) (t : Nat) (x : Tile) : (s.setTile t x).bays = s.bays := rfl
@[simp] theorem setTile_parts (s : State) (t : Nat) (x : Tile) : (s.setTile t x).parts = s.parts := rfl
@[simp] theorem setTile_swaps (s : State) (t : Nat) (x : Tile) : (s.setTile t x).swaps = s.swaps := rfl
@[simp] theorem setTile_marks (s : State) (t : Nat) (x : Tile) : (s.setTile t x).marks = s.marks := rfl
@[simp] theorem setTile_forwards (s : State) (t : Nat) (x : Tile) : (s.setTile t x).forwards = s.forwards := rfl
@[simp] theorem setTile_fns (s : State) (t : Nat) (x : Tile) : (s.setTile t x).fns = s.fns := rfl
@[simp] theorem setTile_hostq (s : State) (t : Nat) (x : Tile) : (s.setTile t x).hostq = s.hostq := rfl
@[simp] theorem setTile_frames (s : State) (t : Nat) (x : Tile) : (s.setTile t x).frames = s.frames := rfl
@[simp] theorem setTile_sys (s : State) (t : Nat) (x : Tile) : (s.setTile t x).sys = s.sys := rfl

/-! ### setSlotAt -/

@[simp] theorem setSlotAt_cycle (s : State) (t : Nat) (c : Fin 8) (x : Slot) : (s.setSlotAt t c x).cycle = s.cycle := rfl
@[simp] theorem setSlotAt_dtimeBase (s : State) (t : Nat) (c : Fin 8) (x : Slot) : (s.setSlotAt t c x).dtimeBase = s.dtimeBase := rfl
@[simp] theorem setSlotAt_dtimeHold (s : State) (t : Nat) (c : Fin 8) (x : Slot) : (s.setSlotAt t c x).dtimeHold = s.dtimeHold := rfl
@[simp] theorem setSlotAt_inputs (s : State) (t : Nat) (c : Fin 8) (x : Slot) : (s.setSlotAt t c x).inputs = s.inputs := rfl
@[simp] theorem setSlotAt_evTurn (s : State) (t : Nat) (c : Fin 8) (x : Slot) : (s.setSlotAt t c x).evTurn = s.evTurn := rfl
@[simp] theorem setSlotAt_cur (s : State) (t : Nat) (c : Fin 8) (x : Slot) : (s.setSlotAt t c x).cur = s.cur := rfl
@[simp] theorem setSlotAt_ctx (s : State) (t : Nat) (c : Fin 8) (x : Slot) : (s.setSlotAt t c x).ctx = s.ctx := rfl
@[simp] theorem setSlotAt_fresh (s : State) (t : Nat) (c : Fin 8) (x : Slot) : (s.setSlotAt t c x).fresh = s.fresh := rfl
@[simp] theorem setSlotAt_mem (s : State) (t : Nat) (c : Fin 8) (x : Slot) : (s.setSlotAt t c x).mem = s.mem := rfl
@[simp] theorem setSlotAt_poison (s : State) (t : Nat) (c : Fin 8) (x : Slot) : (s.setSlotAt t c x).poison = s.poison := rfl
@[simp] theorem setSlotAt_flips (s : State) (t : Nat) (c : Fin 8) (x : Slot) : (s.setSlotAt t c x).flips = s.flips := rfl
@[simp] theorem setSlotAt_dirty (s : State) (t : Nat) (c : Fin 8) (x : Slot) : (s.setSlotAt t c x).dirty = s.dirty := rfl
@[simp] theorem setSlotAt_net (s : State) (t : Nat) (c : Fin 8) (x : Slot) : (s.setSlotAt t c x).net = s.net := rfl
@[simp] theorem setSlotAt_cnet (s : State) (t : Nat) (c : Fin 8) (x : Slot) : (s.setSlotAt t c x).cnet = s.cnet := rfl
@[simp] theorem setSlotAt_sliceQ (s : State) (t : Nat) (c : Fin 8) (x : Slot) : (s.setSlotAt t c x).sliceQ = s.sliceQ := rfl
@[simp] theorem setSlotAt_kvq (s : State) (t : Nat) (c : Fin 8) (x : Slot) : (s.setSlotAt t c x).kvq = s.kvq := rfl
@[simp] theorem setSlotAt_l2 (s : State) (t : Nat) (c : Fin 8) (x : Slot) : (s.setSlotAt t c x).l2 = s.l2 := rfl
@[simp] theorem setSlotAt_rows (s : State) (t : Nat) (c : Fin 8) (x : Slot) : (s.setSlotAt t c x).rows = s.rows := rfl
@[simp] theorem setSlotAt_transfers (s : State) (t : Nat) (c : Fin 8) (x : Slot) : (s.setSlotAt t c x).transfers = s.transfers := rfl
@[simp] theorem setSlotAt_strFrozen (s : State) (t : Nat) (c : Fin 8) (x : Slot) : (s.setSlotAt t c x).strFrozen = s.strFrozen := rfl
@[simp] theorem setSlotAt_strLast (s : State) (t : Nat) (c : Fin 8) (x : Slot) : (s.setSlotAt t c x).strLast = s.strLast := rfl
@[simp] theorem setSlotAt_lat (s : State) (t : Nat) (c : Fin 8) (x : Slot) : (s.setSlotAt t c x).lat = s.lat := rfl
@[simp] theorem setSlotAt_slots (s : State) (t : Nat) (c : Fin 8) (x : Slot) : (s.setSlotAt t c x).slots = s.slots := rfl
@[simp] theorem setSlotAt_pubs (s : State) (t : Nat) (c : Fin 8) (x : Slot) : (s.setSlotAt t c x).pubs = s.pubs := rfl
@[simp] theorem setSlotAt_tmq (s : State) (t : Nat) (c : Fin 8) (x : Slot) : (s.setSlotAt t c x).tmq = s.tmq := rfl
@[simp] theorem setSlotAt_mirrors (s : State) (t : Nat) (c : Fin 8) (x : Slot) : (s.setSlotAt t c x).mirrors = s.mirrors := rfl
@[simp] theorem setSlotAt_bayOps (s : State) (t : Nat) (c : Fin 8) (x : Slot) : (s.setSlotAt t c x).bayOps = s.bayOps := rfl
@[simp] theorem setSlotAt_bays (s : State) (t : Nat) (c : Fin 8) (x : Slot) : (s.setSlotAt t c x).bays = s.bays := rfl
@[simp] theorem setSlotAt_parts (s : State) (t : Nat) (c : Fin 8) (x : Slot) : (s.setSlotAt t c x).parts = s.parts := rfl
@[simp] theorem setSlotAt_swaps (s : State) (t : Nat) (c : Fin 8) (x : Slot) : (s.setSlotAt t c x).swaps = s.swaps := rfl
@[simp] theorem setSlotAt_marks (s : State) (t : Nat) (c : Fin 8) (x : Slot) : (s.setSlotAt t c x).marks = s.marks := rfl
@[simp] theorem setSlotAt_forwards (s : State) (t : Nat) (c : Fin 8) (x : Slot) : (s.setSlotAt t c x).forwards = s.forwards := rfl
@[simp] theorem setSlotAt_fns (s : State) (t : Nat) (c : Fin 8) (x : Slot) : (s.setSlotAt t c x).fns = s.fns := rfl
@[simp] theorem setSlotAt_hostq (s : State) (t : Nat) (c : Fin 8) (x : Slot) : (s.setSlotAt t c x).hostq = s.hostq := rfl
@[simp] theorem setSlotAt_frames (s : State) (t : Nat) (c : Fin 8) (x : Slot) : (s.setSlotAt t c x).frames = s.frames := rfl
@[simp] theorem setSlotAt_sys (s : State) (t : Nat) (c : Fin 8) (x : Slot) : (s.setSlotAt t c x).sys = s.sys := rfl

/-! ### setHalf -/

@[simp] theorem setHalf_cycle (s : State) (h : Half) : (s.setHalf h).cycle = s.cycle := rfl
@[simp] theorem setHalf_dtimeBase (s : State) (h : Half) : (s.setHalf h).dtimeBase = s.dtimeBase := rfl
@[simp] theorem setHalf_dtimeHold (s : State) (h : Half) : (s.setHalf h).dtimeHold = s.dtimeHold := rfl
@[simp] theorem setHalf_inputs (s : State) (h : Half) : (s.setHalf h).inputs = s.inputs := rfl
@[simp] theorem setHalf_evTurn (s : State) (h : Half) : (s.setHalf h).evTurn = s.evTurn := rfl
@[simp] theorem setHalf_cur (s : State) (h : Half) : (s.setHalf h).cur = s.cur := rfl
@[simp] theorem setHalf_ctx (s : State) (h : Half) : (s.setHalf h).ctx = s.ctx := rfl
@[simp] theorem setHalf_fresh (s : State) (h : Half) : (s.setHalf h).fresh = s.fresh := rfl
@[simp] theorem setHalf_mem (s : State) (h : Half) : (s.setHalf h).mem = s.mem := rfl
@[simp] theorem setHalf_poison (s : State) (h : Half) : (s.setHalf h).poison = s.poison := rfl
@[simp] theorem setHalf_flips (s : State) (h : Half) : (s.setHalf h).flips = s.flips := rfl
@[simp] theorem setHalf_dirty (s : State) (h : Half) : (s.setHalf h).dirty = s.dirty := rfl
@[simp] theorem setHalf_net (s : State) (h : Half) : (s.setHalf h).net = s.net := rfl
@[simp] theorem setHalf_cnet (s : State) (h : Half) : (s.setHalf h).cnet = s.cnet := rfl
@[simp] theorem setHalf_sliceQ (s : State) (h : Half) : (s.setHalf h).sliceQ = s.sliceQ := rfl
@[simp] theorem setHalf_kvq (s : State) (h : Half) : (s.setHalf h).kvq = s.kvq := rfl
@[simp] theorem setHalf_l2 (s : State) (h : Half) : (s.setHalf h).l2 = s.l2 := rfl
@[simp] theorem setHalf_rows (s : State) (h : Half) : (s.setHalf h).rows = s.rows := rfl
@[simp] theorem setHalf_transfers (s : State) (h : Half) : (s.setHalf h).transfers = s.transfers := rfl
@[simp] theorem setHalf_strFrozen (s : State) (h : Half) : (s.setHalf h).strFrozen = s.strFrozen := rfl
@[simp] theorem setHalf_strLast (s : State) (h : Half) : (s.setHalf h).strLast = s.strLast := rfl
@[simp] theorem setHalf_lat (s : State) (h : Half) : (s.setHalf h).lat = s.lat := rfl
@[simp] theorem setHalf_slots (s : State) (h : Half) : (s.setHalf h).slots = s.slots := rfl
@[simp] theorem setHalf_pubs (s : State) (h : Half) : (s.setHalf h).pubs = s.pubs := rfl
@[simp] theorem setHalf_tmq (s : State) (h : Half) : (s.setHalf h).tmq = s.tmq := rfl
@[simp] theorem setHalf_mirrors (s : State) (h : Half) : (s.setHalf h).mirrors = s.mirrors := rfl
@[simp] theorem setHalf_bayOps (s : State) (h : Half) : (s.setHalf h).bayOps = s.bayOps := rfl
@[simp] theorem setHalf_bays (s : State) (h : Half) : (s.setHalf h).bays = s.bays := rfl
@[simp] theorem setHalf_parts (s : State) (h : Half) : (s.setHalf h).parts = s.parts := rfl
@[simp] theorem setHalf_swaps (s : State) (h : Half) : (s.setHalf h).swaps = s.swaps := rfl
@[simp] theorem setHalf_marks (s : State) (h : Half) : (s.setHalf h).marks = s.marks := rfl
@[simp] theorem setHalf_forwards (s : State) (h : Half) : (s.setHalf h).forwards = s.forwards := rfl
@[simp] theorem setHalf_fns (s : State) (h : Half) : (s.setHalf h).fns = s.fns := rfl
@[simp] theorem setHalf_hostq (s : State) (h : Half) : (s.setHalf h).hostq = s.hostq := rfl
@[simp] theorem setHalf_frames (s : State) (h : Half) : (s.setHalf h).frames = s.frames := rfl
@[simp] theorem setHalf_sys (s : State) (h : Half) : (s.setHalf h).sys = s.sys := rfl

/-! ### retire -/

@[simp] theorem retire_cycle (s : State) (o : Op) (f : Flow) : (s.retire o f).cycle = s.cycle := rfl
@[simp] theorem retire_dtimeBase (s : State) (o : Op) (f : Flow) : (s.retire o f).dtimeBase = s.dtimeBase := rfl
@[simp] theorem retire_dtimeHold (s : State) (o : Op) (f : Flow) : (s.retire o f).dtimeHold = s.dtimeHold := rfl
@[simp] theorem retire_inputs (s : State) (o : Op) (f : Flow) : (s.retire o f).inputs = s.inputs := rfl
@[simp] theorem retire_evTurn (s : State) (o : Op) (f : Flow) : (s.retire o f).evTurn = s.evTurn := rfl
@[simp] theorem retire_cur (s : State) (o : Op) (f : Flow) : (s.retire o f).cur = s.cur := rfl
@[simp] theorem retire_ctx (s : State) (o : Op) (f : Flow) : (s.retire o f).ctx = s.ctx := rfl
@[simp] theorem retire_fresh (s : State) (o : Op) (f : Flow) : (s.retire o f).fresh = s.fresh := rfl
@[simp] theorem retire_mem (s : State) (o : Op) (f : Flow) : (s.retire o f).mem = s.mem := rfl
@[simp] theorem retire_poison (s : State) (o : Op) (f : Flow) : (s.retire o f).poison = s.poison := rfl
@[simp] theorem retire_flips (s : State) (o : Op) (f : Flow) : (s.retire o f).flips = s.flips := rfl
@[simp] theorem retire_dirty (s : State) (o : Op) (f : Flow) : (s.retire o f).dirty = s.dirty := rfl
@[simp] theorem retire_net (s : State) (o : Op) (f : Flow) : (s.retire o f).net = s.net := rfl
@[simp] theorem retire_cnet (s : State) (o : Op) (f : Flow) : (s.retire o f).cnet = s.cnet := rfl
@[simp] theorem retire_sliceQ (s : State) (o : Op) (f : Flow) : (s.retire o f).sliceQ = s.sliceQ := rfl
@[simp] theorem retire_kvq (s : State) (o : Op) (f : Flow) : (s.retire o f).kvq = s.kvq := rfl
@[simp] theorem retire_l2 (s : State) (o : Op) (f : Flow) : (s.retire o f).l2 = s.l2 := rfl
@[simp] theorem retire_rows (s : State) (o : Op) (f : Flow) : (s.retire o f).rows = s.rows := rfl
@[simp] theorem retire_transfers (s : State) (o : Op) (f : Flow) : (s.retire o f).transfers = s.transfers := rfl
@[simp] theorem retire_strFrozen (s : State) (o : Op) (f : Flow) : (s.retire o f).strFrozen = s.strFrozen := rfl
@[simp] theorem retire_strLast (s : State) (o : Op) (f : Flow) : (s.retire o f).strLast = s.strLast := rfl
@[simp] theorem retire_lat (s : State) (o : Op) (f : Flow) : (s.retire o f).lat = s.lat := rfl
@[simp] theorem retire_slots (s : State) (o : Op) (f : Flow) : (s.retire o f).slots = s.slots := rfl
@[simp] theorem retire_pubs (s : State) (o : Op) (f : Flow) : (s.retire o f).pubs = s.pubs := rfl
@[simp] theorem retire_tmq (s : State) (o : Op) (f : Flow) : (s.retire o f).tmq = s.tmq := rfl
@[simp] theorem retire_mirrors (s : State) (o : Op) (f : Flow) : (s.retire o f).mirrors = s.mirrors := rfl
@[simp] theorem retire_bayOps (s : State) (o : Op) (f : Flow) : (s.retire o f).bayOps = s.bayOps := rfl
@[simp] theorem retire_bays (s : State) (o : Op) (f : Flow) : (s.retire o f).bays = s.bays := rfl
@[simp] theorem retire_parts (s : State) (o : Op) (f : Flow) : (s.retire o f).parts = s.parts := rfl
@[simp] theorem retire_swaps (s : State) (o : Op) (f : Flow) : (s.retire o f).swaps = s.swaps := rfl
@[simp] theorem retire_marks (s : State) (o : Op) (f : Flow) : (s.retire o f).marks = s.marks := rfl
@[simp] theorem retire_forwards (s : State) (o : Op) (f : Flow) : (s.retire o f).forwards = s.forwards := rfl
@[simp] theorem retire_fns (s : State) (o : Op) (f : Flow) : (s.retire o f).fns = s.fns := rfl
@[simp] theorem retire_hostq (s : State) (o : Op) (f : Flow) : (s.retire o f).hostq = s.hostq := rfl
@[simp] theorem retire_frames (s : State) (o : Op) (f : Flow) : (s.retire o f).frames = s.frames := rfl
@[simp] theorem retire_sys (s : State) (o : Op) (f : Flow) : (s.retire o f).sys = s.sys := rfl

/-! ### orderPoint -/

@[simp] theorem orderPoint_cycle (s : State) (t : Nat) (c : Fin 8) : (s.orderPoint t c).cycle = s.cycle := rfl
@[simp] theorem orderPoint_dtimeBase (s : State) (t : Nat) (c : Fin 8) : (s.orderPoint t c).dtimeBase = s.dtimeBase := rfl
@[simp] theorem orderPoint_dtimeHold (s : State) (t : Nat) (c : Fin 8) : (s.orderPoint t c).dtimeHold = s.dtimeHold := rfl
@[simp] theorem orderPoint_inputs (s : State) (t : Nat) (c : Fin 8) : (s.orderPoint t c).inputs = s.inputs := rfl
@[simp] theorem orderPoint_evTurn (s : State) (t : Nat) (c : Fin 8) : (s.orderPoint t c).evTurn = s.evTurn := rfl
@[simp] theorem orderPoint_cur (s : State) (t : Nat) (c : Fin 8) : (s.orderPoint t c).cur = s.cur := rfl
@[simp] theorem orderPoint_ctx (s : State) (t : Nat) (c : Fin 8) : (s.orderPoint t c).ctx = s.ctx := rfl
@[simp] theorem orderPoint_fresh (s : State) (t : Nat) (c : Fin 8) : (s.orderPoint t c).fresh = s.fresh := rfl
@[simp] theorem orderPoint_mem (s : State) (t : Nat) (c : Fin 8) : (s.orderPoint t c).mem = s.mem := rfl
@[simp] theorem orderPoint_poison (s : State) (t : Nat) (c : Fin 8) : (s.orderPoint t c).poison = s.poison := rfl
@[simp] theorem orderPoint_flips (s : State) (t : Nat) (c : Fin 8) : (s.orderPoint t c).flips = s.flips := rfl
@[simp] theorem orderPoint_dirty (s : State) (t : Nat) (c : Fin 8) : (s.orderPoint t c).dirty = s.dirty := rfl
@[simp] theorem orderPoint_net (s : State) (t : Nat) (c : Fin 8) : (s.orderPoint t c).net = s.net := rfl
@[simp] theorem orderPoint_cnet (s : State) (t : Nat) (c : Fin 8) : (s.orderPoint t c).cnet = s.cnet := rfl
@[simp] theorem orderPoint_sliceQ (s : State) (t : Nat) (c : Fin 8) : (s.orderPoint t c).sliceQ = s.sliceQ := rfl
@[simp] theorem orderPoint_kvq (s : State) (t : Nat) (c : Fin 8) : (s.orderPoint t c).kvq = s.kvq := rfl
@[simp] theorem orderPoint_l2 (s : State) (t : Nat) (c : Fin 8) : (s.orderPoint t c).l2 = s.l2 := rfl
@[simp] theorem orderPoint_rows (s : State) (t : Nat) (c : Fin 8) : (s.orderPoint t c).rows = s.rows := rfl
@[simp] theorem orderPoint_transfers (s : State) (t : Nat) (c : Fin 8) : (s.orderPoint t c).transfers = s.transfers := rfl
@[simp] theorem orderPoint_strFrozen (s : State) (t : Nat) (c : Fin 8) : (s.orderPoint t c).strFrozen = s.strFrozen := rfl
@[simp] theorem orderPoint_strLast (s : State) (t : Nat) (c : Fin 8) : (s.orderPoint t c).strLast = s.strLast := rfl
@[simp] theorem orderPoint_lat (s : State) (t : Nat) (c : Fin 8) : (s.orderPoint t c).lat = s.lat := rfl
@[simp] theorem orderPoint_slots (s : State) (t : Nat) (c : Fin 8) : (s.orderPoint t c).slots = s.slots := rfl
@[simp] theorem orderPoint_pubs (s : State) (t : Nat) (c : Fin 8) : (s.orderPoint t c).pubs = s.pubs := rfl
@[simp] theorem orderPoint_tmq (s : State) (t : Nat) (c : Fin 8) : (s.orderPoint t c).tmq = s.tmq := rfl
@[simp] theorem orderPoint_mirrors (s : State) (t : Nat) (c : Fin 8) : (s.orderPoint t c).mirrors = s.mirrors := rfl
@[simp] theorem orderPoint_bayOps (s : State) (t : Nat) (c : Fin 8) : (s.orderPoint t c).bayOps = s.bayOps := rfl
@[simp] theorem orderPoint_bays (s : State) (t : Nat) (c : Fin 8) : (s.orderPoint t c).bays = s.bays := rfl
@[simp] theorem orderPoint_parts (s : State) (t : Nat) (c : Fin 8) : (s.orderPoint t c).parts = s.parts := rfl
@[simp] theorem orderPoint_swaps (s : State) (t : Nat) (c : Fin 8) : (s.orderPoint t c).swaps = s.swaps := rfl
@[simp] theorem orderPoint_marks (s : State) (t : Nat) (c : Fin 8) : (s.orderPoint t c).marks = s.marks := rfl
@[simp] theorem orderPoint_forwards (s : State) (t : Nat) (c : Fin 8) : (s.orderPoint t c).forwards = s.forwards := rfl
@[simp] theorem orderPoint_fns (s : State) (t : Nat) (c : Fin 8) : (s.orderPoint t c).fns = s.fns := rfl
@[simp] theorem orderPoint_hostq (s : State) (t : Nat) (c : Fin 8) : (s.orderPoint t c).hostq = s.hostq := rfl
@[simp] theorem orderPoint_frames (s : State) (t : Nat) (c : Fin 8) : (s.orderPoint t c).frames = s.frames := rfl
@[simp] theorem orderPoint_sys (s : State) (t : Nat) (c : Fin 8) : (s.orderPoint t c).sys = s.sys := rfl

/-! ### modShareAt -/

@[simp] theorem modShareAt_cycle (s : State) (t : Nat) (i : Fin 3) (f : Share → Share) : (s.modShareAt t i f).cycle = s.cycle := rfl
@[simp] theorem modShareAt_dtimeBase (s : State) (t : Nat) (i : Fin 3) (f : Share → Share) : (s.modShareAt t i f).dtimeBase = s.dtimeBase := rfl
@[simp] theorem modShareAt_dtimeHold (s : State) (t : Nat) (i : Fin 3) (f : Share → Share) : (s.modShareAt t i f).dtimeHold = s.dtimeHold := rfl
@[simp] theorem modShareAt_inputs (s : State) (t : Nat) (i : Fin 3) (f : Share → Share) : (s.modShareAt t i f).inputs = s.inputs := rfl
@[simp] theorem modShareAt_evTurn (s : State) (t : Nat) (i : Fin 3) (f : Share → Share) : (s.modShareAt t i f).evTurn = s.evTurn := rfl
@[simp] theorem modShareAt_cur (s : State) (t : Nat) (i : Fin 3) (f : Share → Share) : (s.modShareAt t i f).cur = s.cur := rfl
@[simp] theorem modShareAt_ctx (s : State) (t : Nat) (i : Fin 3) (f : Share → Share) : (s.modShareAt t i f).ctx = s.ctx := rfl
@[simp] theorem modShareAt_fresh (s : State) (t : Nat) (i : Fin 3) (f : Share → Share) : (s.modShareAt t i f).fresh = s.fresh := rfl
@[simp] theorem modShareAt_mem (s : State) (t : Nat) (i : Fin 3) (f : Share → Share) : (s.modShareAt t i f).mem = s.mem := rfl
@[simp] theorem modShareAt_poison (s : State) (t : Nat) (i : Fin 3) (f : Share → Share) : (s.modShareAt t i f).poison = s.poison := rfl
@[simp] theorem modShareAt_flips (s : State) (t : Nat) (i : Fin 3) (f : Share → Share) : (s.modShareAt t i f).flips = s.flips := rfl
@[simp] theorem modShareAt_dirty (s : State) (t : Nat) (i : Fin 3) (f : Share → Share) : (s.modShareAt t i f).dirty = s.dirty := rfl
@[simp] theorem modShareAt_net (s : State) (t : Nat) (i : Fin 3) (f : Share → Share) : (s.modShareAt t i f).net = s.net := rfl
@[simp] theorem modShareAt_cnet (s : State) (t : Nat) (i : Fin 3) (f : Share → Share) : (s.modShareAt t i f).cnet = s.cnet := rfl
@[simp] theorem modShareAt_sliceQ (s : State) (t : Nat) (i : Fin 3) (f : Share → Share) : (s.modShareAt t i f).sliceQ = s.sliceQ := rfl
@[simp] theorem modShareAt_kvq (s : State) (t : Nat) (i : Fin 3) (f : Share → Share) : (s.modShareAt t i f).kvq = s.kvq := rfl
@[simp] theorem modShareAt_l2 (s : State) (t : Nat) (i : Fin 3) (f : Share → Share) : (s.modShareAt t i f).l2 = s.l2 := rfl
@[simp] theorem modShareAt_rows (s : State) (t : Nat) (i : Fin 3) (f : Share → Share) : (s.modShareAt t i f).rows = s.rows := rfl
@[simp] theorem modShareAt_transfers (s : State) (t : Nat) (i : Fin 3) (f : Share → Share) : (s.modShareAt t i f).transfers = s.transfers := rfl
@[simp] theorem modShareAt_strFrozen (s : State) (t : Nat) (i : Fin 3) (f : Share → Share) : (s.modShareAt t i f).strFrozen = s.strFrozen := rfl
@[simp] theorem modShareAt_strLast (s : State) (t : Nat) (i : Fin 3) (f : Share → Share) : (s.modShareAt t i f).strLast = s.strLast := rfl
@[simp] theorem modShareAt_lat (s : State) (t : Nat) (i : Fin 3) (f : Share → Share) : (s.modShareAt t i f).lat = s.lat := rfl
@[simp] theorem modShareAt_slots (s : State) (t : Nat) (i : Fin 3) (f : Share → Share) : (s.modShareAt t i f).slots = s.slots := rfl
@[simp] theorem modShareAt_pubs (s : State) (t : Nat) (i : Fin 3) (f : Share → Share) : (s.modShareAt t i f).pubs = s.pubs := rfl
@[simp] theorem modShareAt_tmq (s : State) (t : Nat) (i : Fin 3) (f : Share → Share) : (s.modShareAt t i f).tmq = s.tmq := rfl
@[simp] theorem modShareAt_mirrors (s : State) (t : Nat) (i : Fin 3) (f : Share → Share) : (s.modShareAt t i f).mirrors = s.mirrors := rfl
@[simp] theorem modShareAt_bayOps (s : State) (t : Nat) (i : Fin 3) (f : Share → Share) : (s.modShareAt t i f).bayOps = s.bayOps := rfl
@[simp] theorem modShareAt_bays (s : State) (t : Nat) (i : Fin 3) (f : Share → Share) : (s.modShareAt t i f).bays = s.bays := rfl
@[simp] theorem modShareAt_parts (s : State) (t : Nat) (i : Fin 3) (f : Share → Share) : (s.modShareAt t i f).parts = s.parts := rfl
@[simp] theorem modShareAt_swaps (s : State) (t : Nat) (i : Fin 3) (f : Share → Share) : (s.modShareAt t i f).swaps = s.swaps := rfl
@[simp] theorem modShareAt_marks (s : State) (t : Nat) (i : Fin 3) (f : Share → Share) : (s.modShareAt t i f).marks = s.marks := rfl
@[simp] theorem modShareAt_forwards (s : State) (t : Nat) (i : Fin 3) (f : Share → Share) : (s.modShareAt t i f).forwards = s.forwards := rfl
@[simp] theorem modShareAt_fns (s : State) (t : Nat) (i : Fin 3) (f : Share → Share) : (s.modShareAt t i f).fns = s.fns := rfl
@[simp] theorem modShareAt_hostq (s : State) (t : Nat) (i : Fin 3) (f : Share → Share) : (s.modShareAt t i f).hostq = s.hostq := rfl
@[simp] theorem modShareAt_frames (s : State) (t : Nat) (i : Fin 3) (f : Share → Share) : (s.modShareAt t i f).frames = s.frames := rfl
@[simp] theorem modShareAt_sys (s : State) (t : Nat) (i : Fin 3) (f : Share → Share) : (s.modShareAt t i f).sys = s.sys := rfl

/-! ### setBay -/

@[simp] theorem setBay_cycle (s : State) (b : Nat) (x : Bay) : (s.setBay b x).cycle = s.cycle := rfl
@[simp] theorem setBay_dtimeBase (s : State) (b : Nat) (x : Bay) : (s.setBay b x).dtimeBase = s.dtimeBase := rfl
@[simp] theorem setBay_dtimeHold (s : State) (b : Nat) (x : Bay) : (s.setBay b x).dtimeHold = s.dtimeHold := rfl
@[simp] theorem setBay_inputs (s : State) (b : Nat) (x : Bay) : (s.setBay b x).inputs = s.inputs := rfl
@[simp] theorem setBay_evTurn (s : State) (b : Nat) (x : Bay) : (s.setBay b x).evTurn = s.evTurn := rfl
@[simp] theorem setBay_cur (s : State) (b : Nat) (x : Bay) : (s.setBay b x).cur = s.cur := rfl
@[simp] theorem setBay_ctx (s : State) (b : Nat) (x : Bay) : (s.setBay b x).ctx = s.ctx := rfl
@[simp] theorem setBay_fresh (s : State) (b : Nat) (x : Bay) : (s.setBay b x).fresh = s.fresh := rfl
@[simp] theorem setBay_tiles (s : State) (b : Nat) (x : Bay) : (s.setBay b x).tiles = s.tiles := rfl
@[simp] theorem setBay_mem (s : State) (b : Nat) (x : Bay) : (s.setBay b x).mem = s.mem := rfl
@[simp] theorem setBay_poison (s : State) (b : Nat) (x : Bay) : (s.setBay b x).poison = s.poison := rfl
@[simp] theorem setBay_flips (s : State) (b : Nat) (x : Bay) : (s.setBay b x).flips = s.flips := rfl
@[simp] theorem setBay_dirty (s : State) (b : Nat) (x : Bay) : (s.setBay b x).dirty = s.dirty := rfl
@[simp] theorem setBay_net (s : State) (b : Nat) (x : Bay) : (s.setBay b x).net = s.net := rfl
@[simp] theorem setBay_cnet (s : State) (b : Nat) (x : Bay) : (s.setBay b x).cnet = s.cnet := rfl
@[simp] theorem setBay_sliceQ (s : State) (b : Nat) (x : Bay) : (s.setBay b x).sliceQ = s.sliceQ := rfl
@[simp] theorem setBay_kvq (s : State) (b : Nat) (x : Bay) : (s.setBay b x).kvq = s.kvq := rfl
@[simp] theorem setBay_l2 (s : State) (b : Nat) (x : Bay) : (s.setBay b x).l2 = s.l2 := rfl
@[simp] theorem setBay_rows (s : State) (b : Nat) (x : Bay) : (s.setBay b x).rows = s.rows := rfl
@[simp] theorem setBay_transfers (s : State) (b : Nat) (x : Bay) : (s.setBay b x).transfers = s.transfers := rfl
@[simp] theorem setBay_strFrozen (s : State) (b : Nat) (x : Bay) : (s.setBay b x).strFrozen = s.strFrozen := rfl
@[simp] theorem setBay_strLast (s : State) (b : Nat) (x : Bay) : (s.setBay b x).strLast = s.strLast := rfl
@[simp] theorem setBay_lat (s : State) (b : Nat) (x : Bay) : (s.setBay b x).lat = s.lat := rfl
@[simp] theorem setBay_slots (s : State) (b : Nat) (x : Bay) : (s.setBay b x).slots = s.slots := rfl
@[simp] theorem setBay_pubs (s : State) (b : Nat) (x : Bay) : (s.setBay b x).pubs = s.pubs := rfl
@[simp] theorem setBay_tmq (s : State) (b : Nat) (x : Bay) : (s.setBay b x).tmq = s.tmq := rfl
@[simp] theorem setBay_mirrors (s : State) (b : Nat) (x : Bay) : (s.setBay b x).mirrors = s.mirrors := rfl
@[simp] theorem setBay_bayOps (s : State) (b : Nat) (x : Bay) : (s.setBay b x).bayOps = s.bayOps := rfl
@[simp] theorem setBay_parts (s : State) (b : Nat) (x : Bay) : (s.setBay b x).parts = s.parts := rfl
@[simp] theorem setBay_swaps (s : State) (b : Nat) (x : Bay) : (s.setBay b x).swaps = s.swaps := rfl
@[simp] theorem setBay_marks (s : State) (b : Nat) (x : Bay) : (s.setBay b x).marks = s.marks := rfl
@[simp] theorem setBay_forwards (s : State) (b : Nat) (x : Bay) : (s.setBay b x).forwards = s.forwards := rfl
@[simp] theorem setBay_fns (s : State) (b : Nat) (x : Bay) : (s.setBay b x).fns = s.fns := rfl
@[simp] theorem setBay_hostq (s : State) (b : Nat) (x : Bay) : (s.setBay b x).hostq = s.hostq := rfl
@[simp] theorem setBay_frames (s : State) (b : Nat) (x : Bay) : (s.setBay b x).frames = s.frames := rfl
@[simp] theorem setBay_sys (s : State) (b : Nat) (x : Bay) : (s.setBay b x).sys = s.sys := rfl

/-! ### setSlotT -/

@[simp] theorem setSlotT_cycle (s : State) (n : Nat) (x : TSlot) : (s.setSlotT n x).cycle = s.cycle := rfl
@[simp] theorem setSlotT_dtimeBase (s : State) (n : Nat) (x : TSlot) : (s.setSlotT n x).dtimeBase = s.dtimeBase := rfl
@[simp] theorem setSlotT_dtimeHold (s : State) (n : Nat) (x : TSlot) : (s.setSlotT n x).dtimeHold = s.dtimeHold := rfl
@[simp] theorem setSlotT_inputs (s : State) (n : Nat) (x : TSlot) : (s.setSlotT n x).inputs = s.inputs := rfl
@[simp] theorem setSlotT_evTurn (s : State) (n : Nat) (x : TSlot) : (s.setSlotT n x).evTurn = s.evTurn := rfl
@[simp] theorem setSlotT_cur (s : State) (n : Nat) (x : TSlot) : (s.setSlotT n x).cur = s.cur := rfl
@[simp] theorem setSlotT_ctx (s : State) (n : Nat) (x : TSlot) : (s.setSlotT n x).ctx = s.ctx := rfl
@[simp] theorem setSlotT_fresh (s : State) (n : Nat) (x : TSlot) : (s.setSlotT n x).fresh = s.fresh := rfl
@[simp] theorem setSlotT_tiles (s : State) (n : Nat) (x : TSlot) : (s.setSlotT n x).tiles = s.tiles := rfl
@[simp] theorem setSlotT_mem (s : State) (n : Nat) (x : TSlot) : (s.setSlotT n x).mem = s.mem := rfl
@[simp] theorem setSlotT_poison (s : State) (n : Nat) (x : TSlot) : (s.setSlotT n x).poison = s.poison := rfl
@[simp] theorem setSlotT_flips (s : State) (n : Nat) (x : TSlot) : (s.setSlotT n x).flips = s.flips := rfl
@[simp] theorem setSlotT_dirty (s : State) (n : Nat) (x : TSlot) : (s.setSlotT n x).dirty = s.dirty := rfl
@[simp] theorem setSlotT_net (s : State) (n : Nat) (x : TSlot) : (s.setSlotT n x).net = s.net := rfl
@[simp] theorem setSlotT_cnet (s : State) (n : Nat) (x : TSlot) : (s.setSlotT n x).cnet = s.cnet := rfl
@[simp] theorem setSlotT_sliceQ (s : State) (n : Nat) (x : TSlot) : (s.setSlotT n x).sliceQ = s.sliceQ := rfl
@[simp] theorem setSlotT_kvq (s : State) (n : Nat) (x : TSlot) : (s.setSlotT n x).kvq = s.kvq := rfl
@[simp] theorem setSlotT_l2 (s : State) (n : Nat) (x : TSlot) : (s.setSlotT n x).l2 = s.l2 := rfl
@[simp] theorem setSlotT_rows (s : State) (n : Nat) (x : TSlot) : (s.setSlotT n x).rows = s.rows := rfl
@[simp] theorem setSlotT_transfers (s : State) (n : Nat) (x : TSlot) : (s.setSlotT n x).transfers = s.transfers := rfl
@[simp] theorem setSlotT_strFrozen (s : State) (n : Nat) (x : TSlot) : (s.setSlotT n x).strFrozen = s.strFrozen := rfl
@[simp] theorem setSlotT_strLast (s : State) (n : Nat) (x : TSlot) : (s.setSlotT n x).strLast = s.strLast := rfl
@[simp] theorem setSlotT_lat (s : State) (n : Nat) (x : TSlot) : (s.setSlotT n x).lat = s.lat := rfl
@[simp] theorem setSlotT_pubs (s : State) (n : Nat) (x : TSlot) : (s.setSlotT n x).pubs = s.pubs := rfl
@[simp] theorem setSlotT_tmq (s : State) (n : Nat) (x : TSlot) : (s.setSlotT n x).tmq = s.tmq := rfl
@[simp] theorem setSlotT_mirrors (s : State) (n : Nat) (x : TSlot) : (s.setSlotT n x).mirrors = s.mirrors := rfl
@[simp] theorem setSlotT_bayOps (s : State) (n : Nat) (x : TSlot) : (s.setSlotT n x).bayOps = s.bayOps := rfl
@[simp] theorem setSlotT_bays (s : State) (n : Nat) (x : TSlot) : (s.setSlotT n x).bays = s.bays := rfl
@[simp] theorem setSlotT_parts (s : State) (n : Nat) (x : TSlot) : (s.setSlotT n x).parts = s.parts := rfl
@[simp] theorem setSlotT_swaps (s : State) (n : Nat) (x : TSlot) : (s.setSlotT n x).swaps = s.swaps := rfl
@[simp] theorem setSlotT_marks (s : State) (n : Nat) (x : TSlot) : (s.setSlotT n x).marks = s.marks := rfl
@[simp] theorem setSlotT_forwards (s : State) (n : Nat) (x : TSlot) : (s.setSlotT n x).forwards = s.forwards := rfl
@[simp] theorem setSlotT_fns (s : State) (n : Nat) (x : TSlot) : (s.setSlotT n x).fns = s.fns := rfl
@[simp] theorem setSlotT_hostq (s : State) (n : Nat) (x : TSlot) : (s.setSlotT n x).hostq = s.hostq := rfl
@[simp] theorem setSlotT_frames (s : State) (n : Nat) (x : TSlot) : (s.setSlotT n x).frames = s.frames := rfl
@[simp] theorem setSlotT_sys (s : State) (n : Nat) (x : TSlot) : (s.setSlotT n x).sys = s.sys := rfl

/-! ### modFn -/

@[simp] theorem modFn_cycle (s : State) (f : Nat) (g : Fn → Fn) : (s.modFn f g).cycle = s.cycle := rfl
@[simp] theorem modFn_dtimeBase (s : State) (f : Nat) (g : Fn → Fn) : (s.modFn f g).dtimeBase = s.dtimeBase := rfl
@[simp] theorem modFn_dtimeHold (s : State) (f : Nat) (g : Fn → Fn) : (s.modFn f g).dtimeHold = s.dtimeHold := rfl
@[simp] theorem modFn_inputs (s : State) (f : Nat) (g : Fn → Fn) : (s.modFn f g).inputs = s.inputs := rfl
@[simp] theorem modFn_evTurn (s : State) (f : Nat) (g : Fn → Fn) : (s.modFn f g).evTurn = s.evTurn := rfl
@[simp] theorem modFn_cur (s : State) (f : Nat) (g : Fn → Fn) : (s.modFn f g).cur = s.cur := rfl
@[simp] theorem modFn_ctx (s : State) (f : Nat) (g : Fn → Fn) : (s.modFn f g).ctx = s.ctx := rfl
@[simp] theorem modFn_fresh (s : State) (f : Nat) (g : Fn → Fn) : (s.modFn f g).fresh = s.fresh := rfl
@[simp] theorem modFn_tiles (s : State) (f : Nat) (g : Fn → Fn) : (s.modFn f g).tiles = s.tiles := rfl
@[simp] theorem modFn_mem (s : State) (f : Nat) (g : Fn → Fn) : (s.modFn f g).mem = s.mem := rfl
@[simp] theorem modFn_poison (s : State) (f : Nat) (g : Fn → Fn) : (s.modFn f g).poison = s.poison := rfl
@[simp] theorem modFn_flips (s : State) (f : Nat) (g : Fn → Fn) : (s.modFn f g).flips = s.flips := rfl
@[simp] theorem modFn_dirty (s : State) (f : Nat) (g : Fn → Fn) : (s.modFn f g).dirty = s.dirty := rfl
@[simp] theorem modFn_net (s : State) (f : Nat) (g : Fn → Fn) : (s.modFn f g).net = s.net := rfl
@[simp] theorem modFn_cnet (s : State) (f : Nat) (g : Fn → Fn) : (s.modFn f g).cnet = s.cnet := rfl
@[simp] theorem modFn_sliceQ (s : State) (f : Nat) (g : Fn → Fn) : (s.modFn f g).sliceQ = s.sliceQ := rfl
@[simp] theorem modFn_kvq (s : State) (f : Nat) (g : Fn → Fn) : (s.modFn f g).kvq = s.kvq := rfl
@[simp] theorem modFn_l2 (s : State) (f : Nat) (g : Fn → Fn) : (s.modFn f g).l2 = s.l2 := rfl
@[simp] theorem modFn_rows (s : State) (f : Nat) (g : Fn → Fn) : (s.modFn f g).rows = s.rows := rfl
@[simp] theorem modFn_transfers (s : State) (f : Nat) (g : Fn → Fn) : (s.modFn f g).transfers = s.transfers := rfl
@[simp] theorem modFn_strFrozen (s : State) (f : Nat) (g : Fn → Fn) : (s.modFn f g).strFrozen = s.strFrozen := rfl
@[simp] theorem modFn_strLast (s : State) (f : Nat) (g : Fn → Fn) : (s.modFn f g).strLast = s.strLast := rfl
@[simp] theorem modFn_lat (s : State) (f : Nat) (g : Fn → Fn) : (s.modFn f g).lat = s.lat := rfl
@[simp] theorem modFn_slots (s : State) (f : Nat) (g : Fn → Fn) : (s.modFn f g).slots = s.slots := rfl
@[simp] theorem modFn_pubs (s : State) (f : Nat) (g : Fn → Fn) : (s.modFn f g).pubs = s.pubs := rfl
@[simp] theorem modFn_tmq (s : State) (f : Nat) (g : Fn → Fn) : (s.modFn f g).tmq = s.tmq := rfl
@[simp] theorem modFn_mirrors (s : State) (f : Nat) (g : Fn → Fn) : (s.modFn f g).mirrors = s.mirrors := rfl
@[simp] theorem modFn_bayOps (s : State) (f : Nat) (g : Fn → Fn) : (s.modFn f g).bayOps = s.bayOps := rfl
@[simp] theorem modFn_bays (s : State) (f : Nat) (g : Fn → Fn) : (s.modFn f g).bays = s.bays := rfl
@[simp] theorem modFn_parts (s : State) (f : Nat) (g : Fn → Fn) : (s.modFn f g).parts = s.parts := rfl
@[simp] theorem modFn_swaps (s : State) (f : Nat) (g : Fn → Fn) : (s.modFn f g).swaps = s.swaps := rfl
@[simp] theorem modFn_marks (s : State) (f : Nat) (g : Fn → Fn) : (s.modFn f g).marks = s.marks := rfl
@[simp] theorem modFn_forwards (s : State) (f : Nat) (g : Fn → Fn) : (s.modFn f g).forwards = s.forwards := rfl
@[simp] theorem modFn_hostq (s : State) (f : Nat) (g : Fn → Fn) : (s.modFn f g).hostq = s.hostq := rfl
@[simp] theorem modFn_frames (s : State) (f : Nat) (g : Fn → Fn) : (s.modFn f g).frames = s.frames := rfl
@[simp] theorem modFn_sys (s : State) (f : Nat) (g : Fn → Fn) : (s.modFn f g).sys = s.sys := rfl

/-! ### modSys -/

@[simp] theorem modSys_cycle (s : State) (g : Sys → Sys) : (s.modSys g).cycle = s.cycle := rfl
@[simp] theorem modSys_dtimeBase (s : State) (g : Sys → Sys) : (s.modSys g).dtimeBase = s.dtimeBase := rfl
@[simp] theorem modSys_dtimeHold (s : State) (g : Sys → Sys) : (s.modSys g).dtimeHold = s.dtimeHold := rfl
@[simp] theorem modSys_inputs (s : State) (g : Sys → Sys) : (s.modSys g).inputs = s.inputs := rfl
@[simp] theorem modSys_evTurn (s : State) (g : Sys → Sys) : (s.modSys g).evTurn = s.evTurn := rfl
@[simp] theorem modSys_cur (s : State) (g : Sys → Sys) : (s.modSys g).cur = s.cur := rfl
@[simp] theorem modSys_ctx (s : State) (g : Sys → Sys) : (s.modSys g).ctx = s.ctx := rfl
@[simp] theorem modSys_fresh (s : State) (g : Sys → Sys) : (s.modSys g).fresh = s.fresh := rfl
@[simp] theorem modSys_tiles (s : State) (g : Sys → Sys) : (s.modSys g).tiles = s.tiles := rfl
@[simp] theorem modSys_mem (s : State) (g : Sys → Sys) : (s.modSys g).mem = s.mem := rfl
@[simp] theorem modSys_poison (s : State) (g : Sys → Sys) : (s.modSys g).poison = s.poison := rfl
@[simp] theorem modSys_flips (s : State) (g : Sys → Sys) : (s.modSys g).flips = s.flips := rfl
@[simp] theorem modSys_dirty (s : State) (g : Sys → Sys) : (s.modSys g).dirty = s.dirty := rfl
@[simp] theorem modSys_net (s : State) (g : Sys → Sys) : (s.modSys g).net = s.net := rfl
@[simp] theorem modSys_cnet (s : State) (g : Sys → Sys) : (s.modSys g).cnet = s.cnet := rfl
@[simp] theorem modSys_sliceQ (s : State) (g : Sys → Sys) : (s.modSys g).sliceQ = s.sliceQ := rfl
@[simp] theorem modSys_kvq (s : State) (g : Sys → Sys) : (s.modSys g).kvq = s.kvq := rfl
@[simp] theorem modSys_l2 (s : State) (g : Sys → Sys) : (s.modSys g).l2 = s.l2 := rfl
@[simp] theorem modSys_rows (s : State) (g : Sys → Sys) : (s.modSys g).rows = s.rows := rfl
@[simp] theorem modSys_transfers (s : State) (g : Sys → Sys) : (s.modSys g).transfers = s.transfers := rfl
@[simp] theorem modSys_strFrozen (s : State) (g : Sys → Sys) : (s.modSys g).strFrozen = s.strFrozen := rfl
@[simp] theorem modSys_strLast (s : State) (g : Sys → Sys) : (s.modSys g).strLast = s.strLast := rfl
@[simp] theorem modSys_lat (s : State) (g : Sys → Sys) : (s.modSys g).lat = s.lat := rfl
@[simp] theorem modSys_slots (s : State) (g : Sys → Sys) : (s.modSys g).slots = s.slots := rfl
@[simp] theorem modSys_pubs (s : State) (g : Sys → Sys) : (s.modSys g).pubs = s.pubs := rfl
@[simp] theorem modSys_tmq (s : State) (g : Sys → Sys) : (s.modSys g).tmq = s.tmq := rfl
@[simp] theorem modSys_mirrors (s : State) (g : Sys → Sys) : (s.modSys g).mirrors = s.mirrors := rfl
@[simp] theorem modSys_bayOps (s : State) (g : Sys → Sys) : (s.modSys g).bayOps = s.bayOps := rfl
@[simp] theorem modSys_bays (s : State) (g : Sys → Sys) : (s.modSys g).bays = s.bays := rfl
@[simp] theorem modSys_parts (s : State) (g : Sys → Sys) : (s.modSys g).parts = s.parts := rfl
@[simp] theorem modSys_swaps (s : State) (g : Sys → Sys) : (s.modSys g).swaps = s.swaps := rfl
@[simp] theorem modSys_marks (s : State) (g : Sys → Sys) : (s.modSys g).marks = s.marks := rfl
@[simp] theorem modSys_forwards (s : State) (g : Sys → Sys) : (s.modSys g).forwards = s.forwards := rfl
@[simp] theorem modSys_fns (s : State) (g : Sys → Sys) : (s.modSys g).fns = s.fns := rfl
@[simp] theorem modSys_hostq (s : State) (g : Sys → Sys) : (s.modSys g).hostq = s.hostq := rfl
@[simp] theorem modSys_frames (s : State) (g : Sys → Sys) : (s.modSys g).frames = s.frames := rfl

/-! ### modPart -/

@[simp] theorem modPart_cycle (s : State) (n : Nat) (f : Part → Part) : (s.modPart n f).cycle = s.cycle := by simp only [State.modPart]; split <;> rfl
@[simp] theorem modPart_dtimeBase (s : State) (n : Nat) (f : Part → Part) : (s.modPart n f).dtimeBase = s.dtimeBase := by simp only [State.modPart]; split <;> rfl
@[simp] theorem modPart_dtimeHold (s : State) (n : Nat) (f : Part → Part) : (s.modPart n f).dtimeHold = s.dtimeHold := by simp only [State.modPart]; split <;> rfl
@[simp] theorem modPart_inputs (s : State) (n : Nat) (f : Part → Part) : (s.modPart n f).inputs = s.inputs := by simp only [State.modPart]; split <;> rfl
@[simp] theorem modPart_evTurn (s : State) (n : Nat) (f : Part → Part) : (s.modPart n f).evTurn = s.evTurn := by simp only [State.modPart]; split <;> rfl
@[simp] theorem modPart_cur (s : State) (n : Nat) (f : Part → Part) : (s.modPart n f).cur = s.cur := by simp only [State.modPart]; split <;> rfl
@[simp] theorem modPart_ctx (s : State) (n : Nat) (f : Part → Part) : (s.modPart n f).ctx = s.ctx := by simp only [State.modPart]; split <;> rfl
@[simp] theorem modPart_fresh (s : State) (n : Nat) (f : Part → Part) : (s.modPart n f).fresh = s.fresh := by simp only [State.modPart]; split <;> rfl
@[simp] theorem modPart_tiles (s : State) (n : Nat) (f : Part → Part) : (s.modPart n f).tiles = s.tiles := by simp only [State.modPart]; split <;> rfl
@[simp] theorem modPart_mem (s : State) (n : Nat) (f : Part → Part) : (s.modPart n f).mem = s.mem := by simp only [State.modPart]; split <;> rfl
@[simp] theorem modPart_poison (s : State) (n : Nat) (f : Part → Part) : (s.modPart n f).poison = s.poison := by simp only [State.modPart]; split <;> rfl
@[simp] theorem modPart_flips (s : State) (n : Nat) (f : Part → Part) : (s.modPart n f).flips = s.flips := by simp only [State.modPart]; split <;> rfl
@[simp] theorem modPart_dirty (s : State) (n : Nat) (f : Part → Part) : (s.modPart n f).dirty = s.dirty := by simp only [State.modPart]; split <;> rfl
@[simp] theorem modPart_net (s : State) (n : Nat) (f : Part → Part) : (s.modPart n f).net = s.net := by simp only [State.modPart]; split <;> rfl
@[simp] theorem modPart_cnet (s : State) (n : Nat) (f : Part → Part) : (s.modPart n f).cnet = s.cnet := by simp only [State.modPart]; split <;> rfl
@[simp] theorem modPart_sliceQ (s : State) (n : Nat) (f : Part → Part) : (s.modPart n f).sliceQ = s.sliceQ := by simp only [State.modPart]; split <;> rfl
@[simp] theorem modPart_kvq (s : State) (n : Nat) (f : Part → Part) : (s.modPart n f).kvq = s.kvq := by simp only [State.modPart]; split <;> rfl
@[simp] theorem modPart_l2 (s : State) (n : Nat) (f : Part → Part) : (s.modPart n f).l2 = s.l2 := by simp only [State.modPart]; split <;> rfl
@[simp] theorem modPart_rows (s : State) (n : Nat) (f : Part → Part) : (s.modPart n f).rows = s.rows := by simp only [State.modPart]; split <;> rfl
@[simp] theorem modPart_transfers (s : State) (n : Nat) (f : Part → Part) : (s.modPart n f).transfers = s.transfers := by simp only [State.modPart]; split <;> rfl
@[simp] theorem modPart_strFrozen (s : State) (n : Nat) (f : Part → Part) : (s.modPart n f).strFrozen = s.strFrozen := by simp only [State.modPart]; split <;> rfl
@[simp] theorem modPart_strLast (s : State) (n : Nat) (f : Part → Part) : (s.modPart n f).strLast = s.strLast := by simp only [State.modPart]; split <;> rfl
@[simp] theorem modPart_lat (s : State) (n : Nat) (f : Part → Part) : (s.modPart n f).lat = s.lat := by simp only [State.modPart]; split <;> rfl
@[simp] theorem modPart_slots (s : State) (n : Nat) (f : Part → Part) : (s.modPart n f).slots = s.slots := by simp only [State.modPart]; split <;> rfl
@[simp] theorem modPart_pubs (s : State) (n : Nat) (f : Part → Part) : (s.modPart n f).pubs = s.pubs := by simp only [State.modPart]; split <;> rfl
@[simp] theorem modPart_tmq (s : State) (n : Nat) (f : Part → Part) : (s.modPart n f).tmq = s.tmq := by simp only [State.modPart]; split <;> rfl
@[simp] theorem modPart_mirrors (s : State) (n : Nat) (f : Part → Part) : (s.modPart n f).mirrors = s.mirrors := by simp only [State.modPart]; split <;> rfl
@[simp] theorem modPart_bayOps (s : State) (n : Nat) (f : Part → Part) : (s.modPart n f).bayOps = s.bayOps := by simp only [State.modPart]; split <;> rfl
@[simp] theorem modPart_bays (s : State) (n : Nat) (f : Part → Part) : (s.modPart n f).bays = s.bays := by simp only [State.modPart]; split <;> rfl
@[simp] theorem modPart_swaps (s : State) (n : Nat) (f : Part → Part) : (s.modPart n f).swaps = s.swaps := by simp only [State.modPart]; split <;> rfl
@[simp] theorem modPart_marks (s : State) (n : Nat) (f : Part → Part) : (s.modPart n f).marks = s.marks := by simp only [State.modPart]; split <;> rfl
@[simp] theorem modPart_forwards (s : State) (n : Nat) (f : Part → Part) : (s.modPart n f).forwards = s.forwards := by simp only [State.modPart]; split <;> rfl
@[simp] theorem modPart_fns (s : State) (n : Nat) (f : Part → Part) : (s.modPart n f).fns = s.fns := by simp only [State.modPart]; split <;> rfl
@[simp] theorem modPart_hostq (s : State) (n : Nat) (f : Part → Part) : (s.modPart n f).hostq = s.hostq := by simp only [State.modPart]; split <;> rfl
@[simp] theorem modPart_frames (s : State) (n : Nat) (f : Part → Part) : (s.modPart n f).frames = s.frames := by simp only [State.modPart]; split <;> rfl
@[simp] theorem modPart_sys (s : State) (n : Nat) (f : Part → Part) : (s.modPart n f).sys = s.sys := by simp only [State.modPart]; split <;> rfl

/-! ### modLaunchOf -/

@[simp] theorem modLaunchOf_cycle (s : State) (n m : Nat) (f : Launch → Launch) : (s.modLaunchOf n m f).cycle = s.cycle := modPart_cycle _ _ _
@[simp] theorem modLaunchOf_dtimeBase (s : State) (n m : Nat) (f : Launch → Launch) : (s.modLaunchOf n m f).dtimeBase = s.dtimeBase := modPart_dtimeBase _ _ _
@[simp] theorem modLaunchOf_dtimeHold (s : State) (n m : Nat) (f : Launch → Launch) : (s.modLaunchOf n m f).dtimeHold = s.dtimeHold := modPart_dtimeHold _ _ _
@[simp] theorem modLaunchOf_inputs (s : State) (n m : Nat) (f : Launch → Launch) : (s.modLaunchOf n m f).inputs = s.inputs := modPart_inputs _ _ _
@[simp] theorem modLaunchOf_evTurn (s : State) (n m : Nat) (f : Launch → Launch) : (s.modLaunchOf n m f).evTurn = s.evTurn := modPart_evTurn _ _ _
@[simp] theorem modLaunchOf_cur (s : State) (n m : Nat) (f : Launch → Launch) : (s.modLaunchOf n m f).cur = s.cur := modPart_cur _ _ _
@[simp] theorem modLaunchOf_ctx (s : State) (n m : Nat) (f : Launch → Launch) : (s.modLaunchOf n m f).ctx = s.ctx := modPart_ctx _ _ _
@[simp] theorem modLaunchOf_fresh (s : State) (n m : Nat) (f : Launch → Launch) : (s.modLaunchOf n m f).fresh = s.fresh := modPart_fresh _ _ _
@[simp] theorem modLaunchOf_tiles (s : State) (n m : Nat) (f : Launch → Launch) : (s.modLaunchOf n m f).tiles = s.tiles := modPart_tiles _ _ _
@[simp] theorem modLaunchOf_mem (s : State) (n m : Nat) (f : Launch → Launch) : (s.modLaunchOf n m f).mem = s.mem := modPart_mem _ _ _
@[simp] theorem modLaunchOf_poison (s : State) (n m : Nat) (f : Launch → Launch) : (s.modLaunchOf n m f).poison = s.poison := modPart_poison _ _ _
@[simp] theorem modLaunchOf_flips (s : State) (n m : Nat) (f : Launch → Launch) : (s.modLaunchOf n m f).flips = s.flips := modPart_flips _ _ _
@[simp] theorem modLaunchOf_dirty (s : State) (n m : Nat) (f : Launch → Launch) : (s.modLaunchOf n m f).dirty = s.dirty := modPart_dirty _ _ _
@[simp] theorem modLaunchOf_net (s : State) (n m : Nat) (f : Launch → Launch) : (s.modLaunchOf n m f).net = s.net := modPart_net _ _ _
@[simp] theorem modLaunchOf_cnet (s : State) (n m : Nat) (f : Launch → Launch) : (s.modLaunchOf n m f).cnet = s.cnet := modPart_cnet _ _ _
@[simp] theorem modLaunchOf_sliceQ (s : State) (n m : Nat) (f : Launch → Launch) : (s.modLaunchOf n m f).sliceQ = s.sliceQ := modPart_sliceQ _ _ _
@[simp] theorem modLaunchOf_kvq (s : State) (n m : Nat) (f : Launch → Launch) : (s.modLaunchOf n m f).kvq = s.kvq := modPart_kvq _ _ _
@[simp] theorem modLaunchOf_l2 (s : State) (n m : Nat) (f : Launch → Launch) : (s.modLaunchOf n m f).l2 = s.l2 := modPart_l2 _ _ _
@[simp] theorem modLaunchOf_rows (s : State) (n m : Nat) (f : Launch → Launch) : (s.modLaunchOf n m f).rows = s.rows := modPart_rows _ _ _
@[simp] theorem modLaunchOf_transfers (s : State) (n m : Nat) (f : Launch → Launch) : (s.modLaunchOf n m f).transfers = s.transfers := modPart_transfers _ _ _
@[simp] theorem modLaunchOf_strFrozen (s : State) (n m : Nat) (f : Launch → Launch) : (s.modLaunchOf n m f).strFrozen = s.strFrozen := modPart_strFrozen _ _ _
@[simp] theorem modLaunchOf_strLast (s : State) (n m : Nat) (f : Launch → Launch) : (s.modLaunchOf n m f).strLast = s.strLast := modPart_strLast _ _ _
@[simp] theorem modLaunchOf_lat (s : State) (n m : Nat) (f : Launch → Launch) : (s.modLaunchOf n m f).lat = s.lat := modPart_lat _ _ _
@[simp] theorem modLaunchOf_slots (s : State) (n m : Nat) (f : Launch → Launch) : (s.modLaunchOf n m f).slots = s.slots := modPart_slots _ _ _
@[simp] theorem modLaunchOf_pubs (s : State) (n m : Nat) (f : Launch → Launch) : (s.modLaunchOf n m f).pubs = s.pubs := modPart_pubs _ _ _
@[simp] theorem modLaunchOf_tmq (s : State) (n m : Nat) (f : Launch → Launch) : (s.modLaunchOf n m f).tmq = s.tmq := modPart_tmq _ _ _
@[simp] theorem modLaunchOf_mirrors (s : State) (n m : Nat) (f : Launch → Launch) : (s.modLaunchOf n m f).mirrors = s.mirrors := modPart_mirrors _ _ _
@[simp] theorem modLaunchOf_bayOps (s : State) (n m : Nat) (f : Launch → Launch) : (s.modLaunchOf n m f).bayOps = s.bayOps := modPart_bayOps _ _ _
@[simp] theorem modLaunchOf_bays (s : State) (n m : Nat) (f : Launch → Launch) : (s.modLaunchOf n m f).bays = s.bays := modPart_bays _ _ _
@[simp] theorem modLaunchOf_swaps (s : State) (n m : Nat) (f : Launch → Launch) : (s.modLaunchOf n m f).swaps = s.swaps := modPart_swaps _ _ _
@[simp] theorem modLaunchOf_marks (s : State) (n m : Nat) (f : Launch → Launch) : (s.modLaunchOf n m f).marks = s.marks := modPart_marks _ _ _
@[simp] theorem modLaunchOf_forwards (s : State) (n m : Nat) (f : Launch → Launch) : (s.modLaunchOf n m f).forwards = s.forwards := modPart_forwards _ _ _
@[simp] theorem modLaunchOf_fns (s : State) (n m : Nat) (f : Launch → Launch) : (s.modLaunchOf n m f).fns = s.fns := modPart_fns _ _ _
@[simp] theorem modLaunchOf_hostq (s : State) (n m : Nat) (f : Launch → Launch) : (s.modLaunchOf n m f).hostq = s.hostq := modPart_hostq _ _ _
@[simp] theorem modLaunchOf_frames (s : State) (n m : Nat) (f : Launch → Launch) : (s.modLaunchOf n m f).frames = s.frames := modPart_frames _ _ _
@[simp] theorem modLaunchOf_sys (s : State) (n m : Nat) (f : Launch → Launch) : (s.modLaunchOf n m f).sys = s.sys := modPart_sys _ _ _

/-! ### Half.push -/

@[simp] theorem Half.push_g (h : Half) (v : Word) : (h.push v).g = h.g := rfl
@[simp] theorem Half.push_n (h : Half) (v : Word) : (h.push v).n = h.n := rfl
@[simp] theorem Half.push_npoison (h : Half) (v : Word) : (h.push v).npoison = h.npoison := rfl
@[simp] theorem Half.push_e (h : Half) (v : Word) : (h.push v).e = h.e := rfl
@[simp] theorem Half.push_q (h : Half) (v : Word) : (h.push v).q = h.q := rfl
@[simp] theorem Half.push_qwait (h : Half) (v : Word) : (h.push v).qwait = h.qwait := rfl
@[simp] theorem Half.push_vq (h : Half) (v : Word) : (h.push v).vq = h.vq := rfl
@[simp] theorem Half.push_v (h : Half) (v : Word) : (h.push v).v = h.v := rfl
@[simp] theorem Half.push_k (h : Half) (v : Word) : (h.push v).k = h.k := rfl
@[simp] theorem Half.push_h (h : Half) (v : Word) : (h.push v).h = h.h := rfl
@[simp] theorem Half.push_pc (h : Half) (v : Word) : (h.push v).pc = h.pc := rfl
@[simp] theorem Half.push_lastPc (h : Half) (v : Word) : (h.push v).lastPc = h.lastPc := rfl
@[simp] theorem Half.push_status (h : Half) (v : Word) : (h.push v).status = h.status := rfl
@[simp] theorem Half.push_cause (h : Half) (v : Word) : (h.push v).cause = h.cause := rfl
@[simp] theorem Half.push_xpc (h : Half) (v : Word) : (h.push v).xpc = h.xpc := rfl
@[simp] theorem Half.push_faddr (h : Half) (v : Word) : (h.push v).faddr = h.faddr := rfl
@[simp] theorem Half.push_msgid (h : Half) (v : Word) : (h.push v).msgid = h.msgid := rfl
@[simp] theorem Half.push_chan (h : Half) (v : Word) : (h.push v).chan = h.chan := rfl
@[simp] theorem Half.push_budget (h : Half) (v : Word) : (h.push v).budget = h.budget := rfl
@[simp] theorem Half.push_trapvec (h : Half) (v : Word) : (h.push v).trapvec = h.trapvec := rfl
@[simp] theorem Half.push_tsave (h : Half) (v : Word) : (h.push v).tsave = h.tsave := rfl
@[simp] theorem Half.push_tlpcnt (h : Half) (v : Word) : (h.push v).tlpcnt = h.tlpcnt := rfl
@[simp] theorem Half.push_fflags (h : Half) (v : Word) : (h.push v).fflags = h.fflags := rfl
@[simp] theorem Half.push_frnd (h : Half) (v : Word) : (h.push v).frnd = h.frnd := rfl
@[simp] theorem Half.push_pfxsave (h : Half) (v : Word) : (h.push v).pfxsave = h.pfxsave := rfl
@[simp] theorem Half.push_nanorg (h : Half) (v : Word) : (h.push v).nanorg = h.nanorg := rfl
@[simp] theorem Half.push_lpcnt (h : Half) (v : Word) : (h.push v).lpcnt = h.lpcnt := rfl
@[simp] theorem Half.push_lpbeg (h : Half) (v : Word) : (h.push v).lpbeg = h.lpbeg := rfl
@[simp] theorem Half.push_lpend (h : Half) (v : Word) : (h.push v).lpend = h.lpend := rfl
@[simp] theorem Half.push_loads (h : Half) (v : Word) : (h.push v).loads = h.loads := rfl
@[simp] theorem Half.push_boundTrap (h : Half) (v : Word) : (h.push v).boundTrap = h.boundTrap := rfl
@[simp] theorem Half.push_vparked (h : Half) (v : Word) : (h.push v).vparked = h.vparked := rfl
@[simp] theorem Half.push_vheld (h : Half) (v : Word) : (h.push v).vheld = h.vheld := rfl

/-! ### Half.pushPending -/

@[simp] theorem Half.pushPending_g (h : Half) (n : Nat) : (h.pushPending n).g = h.g := rfl
@[simp] theorem Half.pushPending_n (h : Half) (n : Nat) : (h.pushPending n).n = h.n := rfl
@[simp] theorem Half.pushPending_npoison (h : Half) (n : Nat) : (h.pushPending n).npoison = h.npoison := rfl
@[simp] theorem Half.pushPending_e (h : Half) (n : Nat) : (h.pushPending n).e = h.e := rfl
@[simp] theorem Half.pushPending_q (h : Half) (n : Nat) : (h.pushPending n).q = h.q := rfl
@[simp] theorem Half.pushPending_qwait (h : Half) (n : Nat) : (h.pushPending n).qwait = h.qwait := rfl
@[simp] theorem Half.pushPending_vq (h : Half) (n : Nat) : (h.pushPending n).vq = h.vq := rfl
@[simp] theorem Half.pushPending_v (h : Half) (n : Nat) : (h.pushPending n).v = h.v := rfl
@[simp] theorem Half.pushPending_k (h : Half) (n : Nat) : (h.pushPending n).k = h.k := rfl
@[simp] theorem Half.pushPending_h (h : Half) (n : Nat) : (h.pushPending n).h = h.h := rfl
@[simp] theorem Half.pushPending_pc (h : Half) (n : Nat) : (h.pushPending n).pc = h.pc := rfl
@[simp] theorem Half.pushPending_lastPc (h : Half) (n : Nat) : (h.pushPending n).lastPc = h.lastPc := rfl
@[simp] theorem Half.pushPending_status (h : Half) (n : Nat) : (h.pushPending n).status = h.status := rfl
@[simp] theorem Half.pushPending_cause (h : Half) (n : Nat) : (h.pushPending n).cause = h.cause := rfl
@[simp] theorem Half.pushPending_xpc (h : Half) (n : Nat) : (h.pushPending n).xpc = h.xpc := rfl
@[simp] theorem Half.pushPending_faddr (h : Half) (n : Nat) : (h.pushPending n).faddr = h.faddr := rfl
@[simp] theorem Half.pushPending_msgid (h : Half) (n : Nat) : (h.pushPending n).msgid = h.msgid := rfl
@[simp] theorem Half.pushPending_chan (h : Half) (n : Nat) : (h.pushPending n).chan = h.chan := rfl
@[simp] theorem Half.pushPending_budget (h : Half) (n : Nat) : (h.pushPending n).budget = h.budget := rfl
@[simp] theorem Half.pushPending_trapvec (h : Half) (n : Nat) : (h.pushPending n).trapvec = h.trapvec := rfl
@[simp] theorem Half.pushPending_tsave (h : Half) (n : Nat) : (h.pushPending n).tsave = h.tsave := rfl
@[simp] theorem Half.pushPending_tlpcnt (h : Half) (n : Nat) : (h.pushPending n).tlpcnt = h.tlpcnt := rfl
@[simp] theorem Half.pushPending_fflags (h : Half) (n : Nat) : (h.pushPending n).fflags = h.fflags := rfl
@[simp] theorem Half.pushPending_frnd (h : Half) (n : Nat) : (h.pushPending n).frnd = h.frnd := rfl
@[simp] theorem Half.pushPending_pfxsave (h : Half) (n : Nat) : (h.pushPending n).pfxsave = h.pfxsave := rfl
@[simp] theorem Half.pushPending_nanorg (h : Half) (n : Nat) : (h.pushPending n).nanorg = h.nanorg := rfl
@[simp] theorem Half.pushPending_lpcnt (h : Half) (n : Nat) : (h.pushPending n).lpcnt = h.lpcnt := rfl
@[simp] theorem Half.pushPending_lpbeg (h : Half) (n : Nat) : (h.pushPending n).lpbeg = h.lpbeg := rfl
@[simp] theorem Half.pushPending_lpend (h : Half) (n : Nat) : (h.pushPending n).lpend = h.lpend := rfl
@[simp] theorem Half.pushPending_loads (h : Half) (n : Nat) : (h.pushPending n).loads = h.loads := rfl
@[simp] theorem Half.pushPending_boundTrap (h : Half) (n : Nat) : (h.pushPending n).boundTrap = h.boundTrap := rfl
@[simp] theorem Half.pushPending_vparked (h : Half) (n : Nat) : (h.pushPending n).vparked = h.vparked := rfl
@[simp] theorem Half.pushPending_vheld (h : Half) (n : Nat) : (h.pushPending n).vheld = h.vheld := rfl

/-! ### Half.advance -/

theorem Half.advance_eq (h : Half) (n : Nat) (f : Flow) :
    h.advance n f = { h with pc := (h.advance n f).pc, lpcnt := (h.advance n f).lpcnt, lastPc := (h.advance n f).lastPc } := by
  cases f <;> simp only [Half.advance] <;> repeat (first | rfl | split)
@[simp] theorem Half.advance_g (h : Half) (n : Nat) (f : Flow) : (h.advance n f).g = h.g := by rw [Half.advance_eq]
@[simp] theorem Half.advance_n (h : Half) (n : Nat) (f : Flow) : (h.advance n f).n = h.n := by rw [Half.advance_eq]
@[simp] theorem Half.advance_npoison (h : Half) (n : Nat) (f : Flow) : (h.advance n f).npoison = h.npoison := by rw [Half.advance_eq]
@[simp] theorem Half.advance_y (h : Half) (n : Nat) (f : Flow) : (h.advance n f).y = h.y := by rw [Half.advance_eq]
@[simp] theorem Half.advance_ypend (h : Half) (n : Nat) (f : Flow) : (h.advance n f).ypend = h.ypend := by rw [Half.advance_eq]
@[simp] theorem Half.advance_e (h : Half) (n : Nat) (f : Flow) : (h.advance n f).e = h.e := by rw [Half.advance_eq]
@[simp] theorem Half.advance_q (h : Half) (n : Nat) (f : Flow) : (h.advance n f).q = h.q := by rw [Half.advance_eq]
@[simp] theorem Half.advance_qwait (h : Half) (n : Nat) (f : Flow) : (h.advance n f).qwait = h.qwait := by rw [Half.advance_eq]
@[simp] theorem Half.advance_vq (h : Half) (n : Nat) (f : Flow) : (h.advance n f).vq = h.vq := by rw [Half.advance_eq]
@[simp] theorem Half.advance_v (h : Half) (n : Nat) (f : Flow) : (h.advance n f).v = h.v := by rw [Half.advance_eq]
@[simp] theorem Half.advance_k (h : Half) (n : Nat) (f : Flow) : (h.advance n f).k = h.k := by rw [Half.advance_eq]
@[simp] theorem Half.advance_h (h : Half) (n : Nat) (f : Flow) : (h.advance n f).h = h.h := by rw [Half.advance_eq]
@[simp] theorem Half.advance_status (h : Half) (n : Nat) (f : Flow) : (h.advance n f).status = h.status := by rw [Half.advance_eq]
@[simp] theorem Half.advance_cause (h : Half) (n : Nat) (f : Flow) : (h.advance n f).cause = h.cause := by rw [Half.advance_eq]
@[simp] theorem Half.advance_xpc (h : Half) (n : Nat) (f : Flow) : (h.advance n f).xpc = h.xpc := by rw [Half.advance_eq]
@[simp] theorem Half.advance_faddr (h : Half) (n : Nat) (f : Flow) : (h.advance n f).faddr = h.faddr := by rw [Half.advance_eq]
@[simp] theorem Half.advance_msgid (h : Half) (n : Nat) (f : Flow) : (h.advance n f).msgid = h.msgid := by rw [Half.advance_eq]
@[simp] theorem Half.advance_chan (h : Half) (n : Nat) (f : Flow) : (h.advance n f).chan = h.chan := by rw [Half.advance_eq]
@[simp] theorem Half.advance_budget (h : Half) (n : Nat) (f : Flow) : (h.advance n f).budget = h.budget := by rw [Half.advance_eq]
@[simp] theorem Half.advance_trapvec (h : Half) (n : Nat) (f : Flow) : (h.advance n f).trapvec = h.trapvec := by rw [Half.advance_eq]
@[simp] theorem Half.advance_tsave (h : Half) (n : Nat) (f : Flow) : (h.advance n f).tsave = h.tsave := by rw [Half.advance_eq]
@[simp] theorem Half.advance_tlpcnt (h : Half) (n : Nat) (f : Flow) : (h.advance n f).tlpcnt = h.tlpcnt := by rw [Half.advance_eq]
@[simp] theorem Half.advance_fflags (h : Half) (n : Nat) (f : Flow) : (h.advance n f).fflags = h.fflags := by rw [Half.advance_eq]
@[simp] theorem Half.advance_frnd (h : Half) (n : Nat) (f : Flow) : (h.advance n f).frnd = h.frnd := by rw [Half.advance_eq]
@[simp] theorem Half.advance_pfxsave (h : Half) (n : Nat) (f : Flow) : (h.advance n f).pfxsave = h.pfxsave := by rw [Half.advance_eq]
@[simp] theorem Half.advance_nanorg (h : Half) (n : Nat) (f : Flow) : (h.advance n f).nanorg = h.nanorg := by rw [Half.advance_eq]
@[simp] theorem Half.advance_lpbeg (h : Half) (n : Nat) (f : Flow) : (h.advance n f).lpbeg = h.lpbeg := by rw [Half.advance_eq]
@[simp] theorem Half.advance_lpend (h : Half) (n : Nat) (f : Flow) : (h.advance n f).lpend = h.lpend := by rw [Half.advance_eq]
@[simp] theorem Half.advance_loads (h : Half) (n : Nat) (f : Flow) : (h.advance n f).loads = h.loads := by rw [Half.advance_eq]
@[simp] theorem Half.advance_boundTrap (h : Half) (n : Nat) (f : Flow) : (h.advance n f).boundTrap = h.boundTrap := by rw [Half.advance_eq]
@[simp] theorem Half.advance_vparked (h : Half) (n : Nat) (f : Flow) : (h.advance n f).vparked = h.vparked := by rw [Half.advance_eq]
@[simp] theorem Half.advance_vheld (h : Half) (n : Nat) (f : Flow) : (h.advance n f).vheld = h.vheld := by rw [Half.advance_eq]

/-! ### Half.setPP -/

@[simp] theorem Half.setPP_g (h : Half) (b : Bool) : (h.setPP b).g = h.g := rfl
@[simp] theorem Half.setPP_n (h : Half) (b : Bool) : (h.setPP b).n = h.n := rfl
@[simp] theorem Half.setPP_npoison (h : Half) (b : Bool) : (h.setPP b).npoison = h.npoison := rfl
@[simp] theorem Half.setPP_y (h : Half) (b : Bool) : (h.setPP b).y = h.y := rfl
@[simp] theorem Half.setPP_ypend (h : Half) (b : Bool) : (h.setPP b).ypend = h.ypend := rfl
@[simp] theorem Half.setPP_e (h : Half) (b : Bool) : (h.setPP b).e = h.e := rfl
@[simp] theorem Half.setPP_q (h : Half) (b : Bool) : (h.setPP b).q = h.q := rfl
@[simp] theorem Half.setPP_qwait (h : Half) (b : Bool) : (h.setPP b).qwait = h.qwait := rfl
@[simp] theorem Half.setPP_vq (h : Half) (b : Bool) : (h.setPP b).vq = h.vq := rfl
@[simp] theorem Half.setPP_v (h : Half) (b : Bool) : (h.setPP b).v = h.v := rfl
@[simp] theorem Half.setPP_k (h : Half) (b : Bool) : (h.setPP b).k = h.k := rfl
@[simp] theorem Half.setPP_h (h : Half) (b : Bool) : (h.setPP b).h = h.h := rfl
@[simp] theorem Half.setPP_pc (h : Half) (b : Bool) : (h.setPP b).pc = h.pc := rfl
@[simp] theorem Half.setPP_lastPc (h : Half) (b : Bool) : (h.setPP b).lastPc = h.lastPc := rfl
@[simp] theorem Half.setPP_cause (h : Half) (b : Bool) : (h.setPP b).cause = h.cause := rfl
@[simp] theorem Half.setPP_xpc (h : Half) (b : Bool) : (h.setPP b).xpc = h.xpc := rfl
@[simp] theorem Half.setPP_faddr (h : Half) (b : Bool) : (h.setPP b).faddr = h.faddr := rfl
@[simp] theorem Half.setPP_msgid (h : Half) (b : Bool) : (h.setPP b).msgid = h.msgid := rfl
@[simp] theorem Half.setPP_chan (h : Half) (b : Bool) : (h.setPP b).chan = h.chan := rfl
@[simp] theorem Half.setPP_budget (h : Half) (b : Bool) : (h.setPP b).budget = h.budget := rfl
@[simp] theorem Half.setPP_trapvec (h : Half) (b : Bool) : (h.setPP b).trapvec = h.trapvec := rfl
@[simp] theorem Half.setPP_tsave (h : Half) (b : Bool) : (h.setPP b).tsave = h.tsave := rfl
@[simp] theorem Half.setPP_tlpcnt (h : Half) (b : Bool) : (h.setPP b).tlpcnt = h.tlpcnt := rfl
@[simp] theorem Half.setPP_fflags (h : Half) (b : Bool) : (h.setPP b).fflags = h.fflags := rfl
@[simp] theorem Half.setPP_frnd (h : Half) (b : Bool) : (h.setPP b).frnd = h.frnd := rfl
@[simp] theorem Half.setPP_pfxsave (h : Half) (b : Bool) : (h.setPP b).pfxsave = h.pfxsave := rfl
@[simp] theorem Half.setPP_nanorg (h : Half) (b : Bool) : (h.setPP b).nanorg = h.nanorg := rfl
@[simp] theorem Half.setPP_lpcnt (h : Half) (b : Bool) : (h.setPP b).lpcnt = h.lpcnt := rfl
@[simp] theorem Half.setPP_lpbeg (h : Half) (b : Bool) : (h.setPP b).lpbeg = h.lpbeg := rfl
@[simp] theorem Half.setPP_lpend (h : Half) (b : Bool) : (h.setPP b).lpend = h.lpend := rfl
@[simp] theorem Half.setPP_loads (h : Half) (b : Bool) : (h.setPP b).loads = h.loads := rfl
@[simp] theorem Half.setPP_boundTrap (h : Half) (b : Bool) : (h.setPP b).boundTrap = h.boundTrap := rfl
@[simp] theorem Half.setPP_vparked (h : Half) (b : Bool) : (h.setPP b).vparked = h.vparked := rfl
@[simp] theorem Half.setPP_vheld (h : Half) (b : Bool) : (h.setPP b).vheld = h.vheld := rfl

/-! ### Half.setTM -/

@[simp] theorem Half.setTM_g (h : Half) (b : Bool) : (h.setTM b).g = h.g := rfl
@[simp] theorem Half.setTM_n (h : Half) (b : Bool) : (h.setTM b).n = h.n := rfl
@[simp] theorem Half.setTM_npoison (h : Half) (b : Bool) : (h.setTM b).npoison = h.npoison := rfl
@[simp] theorem Half.setTM_y (h : Half) (b : Bool) : (h.setTM b).y = h.y := rfl
@[simp] theorem Half.setTM_ypend (h : Half) (b : Bool) : (h.setTM b).ypend = h.ypend := rfl
@[simp] theorem Half.setTM_e (h : Half) (b : Bool) : (h.setTM b).e = h.e := rfl
@[simp] theorem Half.setTM_q (h : Half) (b : Bool) : (h.setTM b).q = h.q := rfl
@[simp] theorem Half.setTM_qwait (h : Half) (b : Bool) : (h.setTM b).qwait = h.qwait := rfl
@[simp] theorem Half.setTM_vq (h : Half) (b : Bool) : (h.setTM b).vq = h.vq := rfl
@[simp] theorem Half.setTM_v (h : Half) (b : Bool) : (h.setTM b).v = h.v := rfl
@[simp] theorem Half.setTM_k (h : Half) (b : Bool) : (h.setTM b).k = h.k := rfl
@[simp] theorem Half.setTM_h (h : Half) (b : Bool) : (h.setTM b).h = h.h := rfl
@[simp] theorem Half.setTM_pc (h : Half) (b : Bool) : (h.setTM b).pc = h.pc := rfl
@[simp] theorem Half.setTM_lastPc (h : Half) (b : Bool) : (h.setTM b).lastPc = h.lastPc := rfl
@[simp] theorem Half.setTM_cause (h : Half) (b : Bool) : (h.setTM b).cause = h.cause := rfl
@[simp] theorem Half.setTM_xpc (h : Half) (b : Bool) : (h.setTM b).xpc = h.xpc := rfl
@[simp] theorem Half.setTM_faddr (h : Half) (b : Bool) : (h.setTM b).faddr = h.faddr := rfl
@[simp] theorem Half.setTM_msgid (h : Half) (b : Bool) : (h.setTM b).msgid = h.msgid := rfl
@[simp] theorem Half.setTM_chan (h : Half) (b : Bool) : (h.setTM b).chan = h.chan := rfl
@[simp] theorem Half.setTM_budget (h : Half) (b : Bool) : (h.setTM b).budget = h.budget := rfl
@[simp] theorem Half.setTM_trapvec (h : Half) (b : Bool) : (h.setTM b).trapvec = h.trapvec := rfl
@[simp] theorem Half.setTM_tsave (h : Half) (b : Bool) : (h.setTM b).tsave = h.tsave := rfl
@[simp] theorem Half.setTM_tlpcnt (h : Half) (b : Bool) : (h.setTM b).tlpcnt = h.tlpcnt := rfl
@[simp] theorem Half.setTM_fflags (h : Half) (b : Bool) : (h.setTM b).fflags = h.fflags := rfl
@[simp] theorem Half.setTM_frnd (h : Half) (b : Bool) : (h.setTM b).frnd = h.frnd := rfl
@[simp] theorem Half.setTM_pfxsave (h : Half) (b : Bool) : (h.setTM b).pfxsave = h.pfxsave := rfl
@[simp] theorem Half.setTM_nanorg (h : Half) (b : Bool) : (h.setTM b).nanorg = h.nanorg := rfl
@[simp] theorem Half.setTM_lpcnt (h : Half) (b : Bool) : (h.setTM b).lpcnt = h.lpcnt := rfl
@[simp] theorem Half.setTM_lpbeg (h : Half) (b : Bool) : (h.setTM b).lpbeg = h.lpbeg := rfl
@[simp] theorem Half.setTM_lpend (h : Half) (b : Bool) : (h.setTM b).lpend = h.lpend := rfl
@[simp] theorem Half.setTM_loads (h : Half) (b : Bool) : (h.setTM b).loads = h.loads := rfl
@[simp] theorem Half.setTM_boundTrap (h : Half) (b : Bool) : (h.setTM b).boundTrap = h.boundTrap := rfl
@[simp] theorem Half.setTM_vparked (h : Half) (b : Bool) : (h.setTM b).vparked = h.vparked := rfl
@[simp] theorem Half.setTM_vheld (h : Half) (b : Bool) : (h.setTM b).vheld = h.vheld := rfl

/-! ### Half.goVector -/

@[simp] theorem Half.goVector_g (h : Half) : (h.goVector).g = h.g := rfl
@[simp] theorem Half.goVector_n (h : Half) : (h.goVector).n = h.n := rfl
@[simp] theorem Half.goVector_npoison (h : Half) : (h.goVector).npoison = h.npoison := rfl
@[simp] theorem Half.goVector_y (h : Half) : (h.goVector).y = h.y := rfl
@[simp] theorem Half.goVector_ypend (h : Half) : (h.goVector).ypend = h.ypend := rfl
@[simp] theorem Half.goVector_e (h : Half) : (h.goVector).e = h.e := rfl
@[simp] theorem Half.goVector_q (h : Half) : (h.goVector).q = h.q := rfl
@[simp] theorem Half.goVector_qwait (h : Half) : (h.goVector).qwait = h.qwait := rfl
@[simp] theorem Half.goVector_vq (h : Half) : (h.goVector).vq = h.vq := rfl
@[simp] theorem Half.goVector_v (h : Half) : (h.goVector).v = h.v := rfl
@[simp] theorem Half.goVector_k (h : Half) : (h.goVector).k = h.k := rfl
@[simp] theorem Half.goVector_h (h : Half) : (h.goVector).h = h.h := rfl
@[simp] theorem Half.goVector_pc (h : Half) : (h.goVector).pc = h.pc := rfl
@[simp] theorem Half.goVector_lastPc (h : Half) : (h.goVector).lastPc = h.lastPc := rfl
@[simp] theorem Half.goVector_status (h : Half) : (h.goVector).status = h.status := rfl
@[simp] theorem Half.goVector_cause (h : Half) : (h.goVector).cause = h.cause := rfl
@[simp] theorem Half.goVector_xpc (h : Half) : (h.goVector).xpc = h.xpc := rfl
@[simp] theorem Half.goVector_faddr (h : Half) : (h.goVector).faddr = h.faddr := rfl
@[simp] theorem Half.goVector_msgid (h : Half) : (h.goVector).msgid = h.msgid := rfl
@[simp] theorem Half.goVector_chan (h : Half) : (h.goVector).chan = h.chan := rfl
@[simp] theorem Half.goVector_budget (h : Half) : (h.goVector).budget = h.budget := rfl
@[simp] theorem Half.goVector_trapvec (h : Half) : (h.goVector).trapvec = h.trapvec := rfl
@[simp] theorem Half.goVector_tsave (h : Half) : (h.goVector).tsave = h.tsave := rfl
@[simp] theorem Half.goVector_tlpcnt (h : Half) : (h.goVector).tlpcnt = h.tlpcnt := rfl
@[simp] theorem Half.goVector_fflags (h : Half) : (h.goVector).fflags = h.fflags := rfl
@[simp] theorem Half.goVector_frnd (h : Half) : (h.goVector).frnd = h.frnd := rfl
@[simp] theorem Half.goVector_pfxsave (h : Half) : (h.goVector).pfxsave = h.pfxsave := rfl
@[simp] theorem Half.goVector_nanorg (h : Half) : (h.goVector).nanorg = h.nanorg := rfl
@[simp] theorem Half.goVector_lpcnt (h : Half) : (h.goVector).lpcnt = h.lpcnt := rfl
@[simp] theorem Half.goVector_lpbeg (h : Half) : (h.goVector).lpbeg = h.lpbeg := rfl
@[simp] theorem Half.goVector_lpend (h : Half) : (h.goVector).lpend = h.lpend := rfl
@[simp] theorem Half.goVector_loads (h : Half) : (h.goVector).loads = h.loads := rfl
@[simp] theorem Half.goVector_boundTrap (h : Half) : (h.goVector).boundTrap = h.boundTrap := rfl
@[simp] theorem Half.goVector_vparked (h : Half) : (h.goVector).vparked = h.vparked := rfl

/-! ### Half.reserve -/

@[simp] theorem Half.reserve_g (h : Half) (r : Reg) (n : Nat) : (h.reserve r n).g = h.g := by cases r <;> rfl
@[simp] theorem Half.reserve_n (h : Half) (r : Reg) (n : Nat) : (h.reserve r n).n = h.n := by cases r <;> rfl
@[simp] theorem Half.reserve_npoison (h : Half) (r : Reg) (n : Nat) : (h.reserve r n).npoison = h.npoison := by cases r <;> rfl
@[simp] theorem Half.reserve_y (h : Half) (r : Reg) (n : Nat) : (h.reserve r n).y = h.y := by cases r <;> rfl
@[simp] theorem Half.reserve_ypend (h : Half) (r : Reg) (n : Nat) : (h.reserve r n).ypend = h.ypend := by cases r <;> rfl
@[simp] theorem Half.reserve_e (h : Half) (r : Reg) (n : Nat) : (h.reserve r n).e = h.e := by cases r <;> rfl
@[simp] theorem Half.reserve_vq (h : Half) (r : Reg) (n : Nat) : (h.reserve r n).vq = h.vq := by cases r <;> rfl
@[simp] theorem Half.reserve_v (h : Half) (r : Reg) (n : Nat) : (h.reserve r n).v = h.v := by cases r <;> rfl
@[simp] theorem Half.reserve_k (h : Half) (r : Reg) (n : Nat) : (h.reserve r n).k = h.k := by cases r <;> rfl
@[simp] theorem Half.reserve_h (h : Half) (r : Reg) (n : Nat) : (h.reserve r n).h = h.h := by cases r <;> rfl
@[simp] theorem Half.reserve_pc (h : Half) (r : Reg) (n : Nat) : (h.reserve r n).pc = h.pc := by cases r <;> rfl
@[simp] theorem Half.reserve_lastPc (h : Half) (r : Reg) (n : Nat) : (h.reserve r n).lastPc = h.lastPc := by cases r <;> rfl
@[simp] theorem Half.reserve_status (h : Half) (r : Reg) (n : Nat) : (h.reserve r n).status = h.status := by cases r <;> rfl
@[simp] theorem Half.reserve_cause (h : Half) (r : Reg) (n : Nat) : (h.reserve r n).cause = h.cause := by cases r <;> rfl
@[simp] theorem Half.reserve_xpc (h : Half) (r : Reg) (n : Nat) : (h.reserve r n).xpc = h.xpc := by cases r <;> rfl
@[simp] theorem Half.reserve_faddr (h : Half) (r : Reg) (n : Nat) : (h.reserve r n).faddr = h.faddr := by cases r <;> rfl
@[simp] theorem Half.reserve_msgid (h : Half) (r : Reg) (n : Nat) : (h.reserve r n).msgid = h.msgid := by cases r <;> rfl
@[simp] theorem Half.reserve_chan (h : Half) (r : Reg) (n : Nat) : (h.reserve r n).chan = h.chan := by cases r <;> rfl
@[simp] theorem Half.reserve_budget (h : Half) (r : Reg) (n : Nat) : (h.reserve r n).budget = h.budget := by cases r <;> rfl
@[simp] theorem Half.reserve_trapvec (h : Half) (r : Reg) (n : Nat) : (h.reserve r n).trapvec = h.trapvec := by cases r <;> rfl
@[simp] theorem Half.reserve_tsave (h : Half) (r : Reg) (n : Nat) : (h.reserve r n).tsave = h.tsave := by cases r <;> rfl
@[simp] theorem Half.reserve_tlpcnt (h : Half) (r : Reg) (n : Nat) : (h.reserve r n).tlpcnt = h.tlpcnt := by cases r <;> rfl
@[simp] theorem Half.reserve_fflags (h : Half) (r : Reg) (n : Nat) : (h.reserve r n).fflags = h.fflags := by cases r <;> rfl
@[simp] theorem Half.reserve_frnd (h : Half) (r : Reg) (n : Nat) : (h.reserve r n).frnd = h.frnd := by cases r <;> rfl
@[simp] theorem Half.reserve_pfxsave (h : Half) (r : Reg) (n : Nat) : (h.reserve r n).pfxsave = h.pfxsave := by cases r <;> rfl
@[simp] theorem Half.reserve_nanorg (h : Half) (r : Reg) (n : Nat) : (h.reserve r n).nanorg = h.nanorg := by cases r <;> rfl
@[simp] theorem Half.reserve_lpcnt (h : Half) (r : Reg) (n : Nat) : (h.reserve r n).lpcnt = h.lpcnt := by cases r <;> rfl
@[simp] theorem Half.reserve_lpbeg (h : Half) (r : Reg) (n : Nat) : (h.reserve r n).lpbeg = h.lpbeg := by cases r <;> rfl
@[simp] theorem Half.reserve_lpend (h : Half) (r : Reg) (n : Nat) : (h.reserve r n).lpend = h.lpend := by cases r <;> rfl
@[simp] theorem Half.reserve_loads (h : Half) (r : Reg) (n : Nat) : (h.reserve r n).loads = h.loads := by cases r <;> rfl
@[simp] theorem Half.reserve_boundTrap (h : Half) (r : Reg) (n : Nat) : (h.reserve r n).boundTrap = h.boundTrap := by cases r <;> rfl
@[simp] theorem Half.reserve_vparked (h : Half) (r : Reg) (n : Nat) : (h.reserve r n).vparked = h.vparked := by cases r <;> rfl
@[simp] theorem Half.reserve_vheld (h : Half) (r : Reg) (n : Nat) : (h.reserve r n).vheld = h.vheld := by cases r <;> rfl

/-! ### Half.record -/

@[simp] theorem Half.record_g (h : Half) (p : Word) (t : Trap) : (h.record p t).g = h.g := rfl
@[simp] theorem Half.record_n (h : Half) (p : Word) (t : Trap) : (h.record p t).n = h.n := rfl
@[simp] theorem Half.record_npoison (h : Half) (p : Word) (t : Trap) : (h.record p t).npoison = h.npoison := rfl
@[simp] theorem Half.record_y (h : Half) (p : Word) (t : Trap) : (h.record p t).y = h.y := rfl
@[simp] theorem Half.record_ypend (h : Half) (p : Word) (t : Trap) : (h.record p t).ypend = h.ypend := rfl
@[simp] theorem Half.record_e (h : Half) (p : Word) (t : Trap) : (h.record p t).e = h.e := rfl
@[simp] theorem Half.record_q (h : Half) (p : Word) (t : Trap) : (h.record p t).q = h.q := rfl
@[simp] theorem Half.record_qwait (h : Half) (p : Word) (t : Trap) : (h.record p t).qwait = h.qwait := rfl
@[simp] theorem Half.record_vq (h : Half) (p : Word) (t : Trap) : (h.record p t).vq = h.vq := rfl
@[simp] theorem Half.record_v (h : Half) (p : Word) (t : Trap) : (h.record p t).v = h.v := rfl
@[simp] theorem Half.record_k (h : Half) (p : Word) (t : Trap) : (h.record p t).k = h.k := rfl
@[simp] theorem Half.record_h (h : Half) (p : Word) (t : Trap) : (h.record p t).h = h.h := rfl
@[simp] theorem Half.record_pc (h : Half) (p : Word) (t : Trap) : (h.record p t).pc = h.pc := rfl
@[simp] theorem Half.record_lastPc (h : Half) (p : Word) (t : Trap) : (h.record p t).lastPc = h.lastPc := rfl
@[simp] theorem Half.record_status (h : Half) (p : Word) (t : Trap) : (h.record p t).status = h.status := rfl
@[simp] theorem Half.record_msgid (h : Half) (p : Word) (t : Trap) : (h.record p t).msgid = h.msgid := rfl
@[simp] theorem Half.record_chan (h : Half) (p : Word) (t : Trap) : (h.record p t).chan = h.chan := rfl
@[simp] theorem Half.record_budget (h : Half) (p : Word) (t : Trap) : (h.record p t).budget = h.budget := rfl
@[simp] theorem Half.record_trapvec (h : Half) (p : Word) (t : Trap) : (h.record p t).trapvec = h.trapvec := rfl
@[simp] theorem Half.record_tsave (h : Half) (p : Word) (t : Trap) : (h.record p t).tsave = h.tsave := rfl
@[simp] theorem Half.record_tlpcnt (h : Half) (p : Word) (t : Trap) : (h.record p t).tlpcnt = h.tlpcnt := rfl
@[simp] theorem Half.record_fflags (h : Half) (p : Word) (t : Trap) : (h.record p t).fflags = h.fflags := rfl
@[simp] theorem Half.record_frnd (h : Half) (p : Word) (t : Trap) : (h.record p t).frnd = h.frnd := rfl
@[simp] theorem Half.record_pfxsave (h : Half) (p : Word) (t : Trap) : (h.record p t).pfxsave = h.pfxsave := rfl
@[simp] theorem Half.record_nanorg (h : Half) (p : Word) (t : Trap) : (h.record p t).nanorg = h.nanorg := rfl
@[simp] theorem Half.record_lpcnt (h : Half) (p : Word) (t : Trap) : (h.record p t).lpcnt = h.lpcnt := rfl
@[simp] theorem Half.record_lpbeg (h : Half) (p : Word) (t : Trap) : (h.record p t).lpbeg = h.lpbeg := rfl
@[simp] theorem Half.record_lpend (h : Half) (p : Word) (t : Trap) : (h.record p t).lpend = h.lpend := rfl
@[simp] theorem Half.record_loads (h : Half) (p : Word) (t : Trap) : (h.record p t).loads = h.loads := rfl
@[simp] theorem Half.record_boundTrap (h : Half) (p : Word) (t : Trap) : (h.record p t).boundTrap = h.boundTrap := rfl
@[simp] theorem Half.record_vparked (h : Half) (p : Word) (t : Trap) : (h.record p t).vparked = h.vparked := rfl
@[simp] theorem Half.record_vheld (h : Half) (p : Word) (t : Trap) : (h.record p t).vheld = h.vheld := rfl

/-! ### Half.enterTrap -/

theorem Half.enterTrap_eq (h : Half) (p : Word) (t : Trap) : h.enterTrap p t = { h with cause := (h.enterTrap p t).cause, xpc := (h.enterTrap p t).xpc, faddr := (h.enterTrap p t).faddr, status := (h.enterTrap p t).status, tsave := (h.enterTrap p t).tsave, tlpcnt := (h.enterTrap p t).tlpcnt, lpcnt := (h.enterTrap p t).lpcnt, pc := (h.enterTrap p t).pc, lastPc := (h.enterTrap p t).lastPc } := rfl
@[simp] theorem Half.enterTrap_g (h : Half) (p : Word) (t : Trap) : (h.enterTrap p t).g = h.g := by rw [Half.enterTrap_eq]
@[simp] theorem Half.enterTrap_n (h : Half) (p : Word) (t : Trap) : (h.enterTrap p t).n = h.n := by rw [Half.enterTrap_eq]
@[simp] theorem Half.enterTrap_npoison (h : Half) (p : Word) (t : Trap) : (h.enterTrap p t).npoison = h.npoison := by rw [Half.enterTrap_eq]
@[simp] theorem Half.enterTrap_y (h : Half) (p : Word) (t : Trap) : (h.enterTrap p t).y = h.y := by rw [Half.enterTrap_eq]
@[simp] theorem Half.enterTrap_ypend (h : Half) (p : Word) (t : Trap) : (h.enterTrap p t).ypend = h.ypend := by rw [Half.enterTrap_eq]
@[simp] theorem Half.enterTrap_e (h : Half) (p : Word) (t : Trap) : (h.enterTrap p t).e = h.e := by rw [Half.enterTrap_eq]
@[simp] theorem Half.enterTrap_q (h : Half) (p : Word) (t : Trap) : (h.enterTrap p t).q = h.q := by rw [Half.enterTrap_eq]
@[simp] theorem Half.enterTrap_qwait (h : Half) (p : Word) (t : Trap) : (h.enterTrap p t).qwait = h.qwait := by rw [Half.enterTrap_eq]
@[simp] theorem Half.enterTrap_vq (h : Half) (p : Word) (t : Trap) : (h.enterTrap p t).vq = h.vq := by rw [Half.enterTrap_eq]
@[simp] theorem Half.enterTrap_v (h : Half) (p : Word) (t : Trap) : (h.enterTrap p t).v = h.v := by rw [Half.enterTrap_eq]
@[simp] theorem Half.enterTrap_k (h : Half) (p : Word) (t : Trap) : (h.enterTrap p t).k = h.k := by rw [Half.enterTrap_eq]
@[simp] theorem Half.enterTrap_h (h : Half) (p : Word) (t : Trap) : (h.enterTrap p t).h = h.h := by rw [Half.enterTrap_eq]
@[simp] theorem Half.enterTrap_msgid (h : Half) (p : Word) (t : Trap) : (h.enterTrap p t).msgid = h.msgid := by rw [Half.enterTrap_eq]
@[simp] theorem Half.enterTrap_chan (h : Half) (p : Word) (t : Trap) : (h.enterTrap p t).chan = h.chan := by rw [Half.enterTrap_eq]
@[simp] theorem Half.enterTrap_budget (h : Half) (p : Word) (t : Trap) : (h.enterTrap p t).budget = h.budget := by rw [Half.enterTrap_eq]
@[simp] theorem Half.enterTrap_trapvec (h : Half) (p : Word) (t : Trap) : (h.enterTrap p t).trapvec = h.trapvec := by rw [Half.enterTrap_eq]
@[simp] theorem Half.enterTrap_fflags (h : Half) (p : Word) (t : Trap) : (h.enterTrap p t).fflags = h.fflags := by rw [Half.enterTrap_eq]
@[simp] theorem Half.enterTrap_frnd (h : Half) (p : Word) (t : Trap) : (h.enterTrap p t).frnd = h.frnd := by rw [Half.enterTrap_eq]
@[simp] theorem Half.enterTrap_pfxsave (h : Half) (p : Word) (t : Trap) : (h.enterTrap p t).pfxsave = h.pfxsave := by rw [Half.enterTrap_eq]
@[simp] theorem Half.enterTrap_nanorg (h : Half) (p : Word) (t : Trap) : (h.enterTrap p t).nanorg = h.nanorg := by rw [Half.enterTrap_eq]
@[simp] theorem Half.enterTrap_lpbeg (h : Half) (p : Word) (t : Trap) : (h.enterTrap p t).lpbeg = h.lpbeg := by rw [Half.enterTrap_eq]
@[simp] theorem Half.enterTrap_lpend (h : Half) (p : Word) (t : Trap) : (h.enterTrap p t).lpend = h.lpend := by rw [Half.enterTrap_eq]
@[simp] theorem Half.enterTrap_loads (h : Half) (p : Word) (t : Trap) : (h.enterTrap p t).loads = h.loads := by rw [Half.enterTrap_eq]
@[simp] theorem Half.enterTrap_boundTrap (h : Half) (p : Word) (t : Trap) : (h.enterTrap p t).boundTrap = h.boundTrap := by rw [Half.enterTrap_eq]
@[simp] theorem Half.enterTrap_vparked (h : Half) (p : Word) (t : Trap) : (h.enterTrap p t).vparked = h.vparked := by rw [Half.enterTrap_eq]
@[simp] theorem Half.enterTrap_vheld (h : Half) (p : Word) (t : Trap) : (h.enterTrap p t).vheld = h.vheld := by rw [Half.enterTrap_eq]

/-! ### Half.leaveTrap -/

theorem Half.leaveTrap_eq (h : Half) : h.leaveTrap = { h with status := (h.leaveTrap).status, pfxsave := (h.leaveTrap).pfxsave, lpbeg := (h.leaveTrap).lpbeg, lpend := (h.leaveTrap).lpend, lpcnt := (h.leaveTrap).lpcnt } := rfl
@[simp] theorem Half.leaveTrap_g (h : Half) : (h.leaveTrap).g = h.g := by rw [Half.leaveTrap_eq]
@[simp] theorem Half.leaveTrap_n (h : Half) : (h.leaveTrap).n = h.n := by rw [Half.leaveTrap_eq]
@[simp] theorem Half.leaveTrap_npoison (h : Half) : (h.leaveTrap).npoison = h.npoison := by rw [Half.leaveTrap_eq]
@[simp] theorem Half.leaveTrap_y (h : Half) : (h.leaveTrap).y = h.y := by rw [Half.leaveTrap_eq]
@[simp] theorem Half.leaveTrap_ypend (h : Half) : (h.leaveTrap).ypend = h.ypend := by rw [Half.leaveTrap_eq]
@[simp] theorem Half.leaveTrap_e (h : Half) : (h.leaveTrap).e = h.e := by rw [Half.leaveTrap_eq]
@[simp] theorem Half.leaveTrap_q (h : Half) : (h.leaveTrap).q = h.q := by rw [Half.leaveTrap_eq]
@[simp] theorem Half.leaveTrap_qwait (h : Half) : (h.leaveTrap).qwait = h.qwait := by rw [Half.leaveTrap_eq]
@[simp] theorem Half.leaveTrap_vq (h : Half) : (h.leaveTrap).vq = h.vq := by rw [Half.leaveTrap_eq]
@[simp] theorem Half.leaveTrap_v (h : Half) : (h.leaveTrap).v = h.v := by rw [Half.leaveTrap_eq]
@[simp] theorem Half.leaveTrap_k (h : Half) : (h.leaveTrap).k = h.k := by rw [Half.leaveTrap_eq]
@[simp] theorem Half.leaveTrap_h (h : Half) : (h.leaveTrap).h = h.h := by rw [Half.leaveTrap_eq]
@[simp] theorem Half.leaveTrap_pc (h : Half) : (h.leaveTrap).pc = h.pc := by rw [Half.leaveTrap_eq]
@[simp] theorem Half.leaveTrap_lastPc (h : Half) : (h.leaveTrap).lastPc = h.lastPc := by rw [Half.leaveTrap_eq]
@[simp] theorem Half.leaveTrap_cause (h : Half) : (h.leaveTrap).cause = h.cause := by rw [Half.leaveTrap_eq]
@[simp] theorem Half.leaveTrap_xpc (h : Half) : (h.leaveTrap).xpc = h.xpc := by rw [Half.leaveTrap_eq]
@[simp] theorem Half.leaveTrap_faddr (h : Half) : (h.leaveTrap).faddr = h.faddr := by rw [Half.leaveTrap_eq]
@[simp] theorem Half.leaveTrap_msgid (h : Half) : (h.leaveTrap).msgid = h.msgid := by rw [Half.leaveTrap_eq]
@[simp] theorem Half.leaveTrap_chan (h : Half) : (h.leaveTrap).chan = h.chan := by rw [Half.leaveTrap_eq]
@[simp] theorem Half.leaveTrap_budget (h : Half) : (h.leaveTrap).budget = h.budget := by rw [Half.leaveTrap_eq]
@[simp] theorem Half.leaveTrap_trapvec (h : Half) : (h.leaveTrap).trapvec = h.trapvec := by rw [Half.leaveTrap_eq]
@[simp] theorem Half.leaveTrap_tsave (h : Half) : (h.leaveTrap).tsave = h.tsave := by rw [Half.leaveTrap_eq]
@[simp] theorem Half.leaveTrap_tlpcnt (h : Half) : (h.leaveTrap).tlpcnt = h.tlpcnt := by rw [Half.leaveTrap_eq]
@[simp] theorem Half.leaveTrap_fflags (h : Half) : (h.leaveTrap).fflags = h.fflags := by rw [Half.leaveTrap_eq]
@[simp] theorem Half.leaveTrap_frnd (h : Half) : (h.leaveTrap).frnd = h.frnd := by rw [Half.leaveTrap_eq]
@[simp] theorem Half.leaveTrap_nanorg (h : Half) : (h.leaveTrap).nanorg = h.nanorg := by rw [Half.leaveTrap_eq]
@[simp] theorem Half.leaveTrap_loads (h : Half) : (h.leaveTrap).loads = h.loads := by rw [Half.leaveTrap_eq]
@[simp] theorem Half.leaveTrap_boundTrap (h : Half) : (h.leaveTrap).boundTrap = h.boundTrap := by rw [Half.leaveTrap_eq]
@[simp] theorem Half.leaveTrap_vparked (h : Half) : (h.leaveTrap).vparked = h.vparked := by rw [Half.leaveTrap_eq]
@[simp] theorem Half.leaveTrap_vheld (h : Half) : (h.leaveTrap).vheld = h.vheld := by rw [Half.leaveTrap_eq]

/-! ### Half.write and Half.read -/

@[simp] theorem Half.write_y (h : Half) (r : Reg) (v : Word) : (h.write r v).y = h.y := by cases r <;> rfl
@[simp] theorem Half.write_ypend (h : Half) (r : Reg) (v : Word) : (h.write r v).ypend = h.ypend := by cases r <;> rfl
@[simp] theorem Half.write_e (h : Half) (r : Reg) (v : Word) : (h.write r v).e = h.e := by cases r <;> rfl
@[simp] theorem Half.write_qwait (h : Half) (r : Reg) (v : Word) : (h.write r v).qwait = h.qwait := by cases r <;> rfl
@[simp] theorem Half.write_vq (h : Half) (r : Reg) (v : Word) : (h.write r v).vq = h.vq := by cases r <;> rfl
@[simp] theorem Half.write_v (h : Half) (r : Reg) (v : Word) : (h.write r v).v = h.v := by cases r <;> rfl
@[simp] theorem Half.write_k (h : Half) (r : Reg) (v : Word) : (h.write r v).k = h.k := by cases r <;> rfl
@[simp] theorem Half.write_h (h : Half) (r : Reg) (v : Word) : (h.write r v).h = h.h := by cases r <;> rfl
@[simp] theorem Half.write_pc (h : Half) (r : Reg) (v : Word) : (h.write r v).pc = h.pc := by cases r <;> rfl
@[simp] theorem Half.write_lastPc (h : Half) (r : Reg) (v : Word) : (h.write r v).lastPc = h.lastPc := by cases r <;> rfl
@[simp] theorem Half.write_status (h : Half) (r : Reg) (v : Word) : (h.write r v).status = h.status := by cases r <;> rfl
@[simp] theorem Half.write_cause (h : Half) (r : Reg) (v : Word) : (h.write r v).cause = h.cause := by cases r <;> rfl
@[simp] theorem Half.write_xpc (h : Half) (r : Reg) (v : Word) : (h.write r v).xpc = h.xpc := by cases r <;> rfl
@[simp] theorem Half.write_faddr (h : Half) (r : Reg) (v : Word) : (h.write r v).faddr = h.faddr := by cases r <;> rfl
@[simp] theorem Half.write_msgid (h : Half) (r : Reg) (v : Word) : (h.write r v).msgid = h.msgid := by cases r <;> rfl
@[simp] theorem Half.write_chan (h : Half) (r : Reg) (v : Word) : (h.write r v).chan = h.chan := by cases r <;> rfl
@[simp] theorem Half.write_budget (h : Half) (r : Reg) (v : Word) : (h.write r v).budget = h.budget := by cases r <;> rfl
@[simp] theorem Half.write_trapvec (h : Half) (r : Reg) (v : Word) : (h.write r v).trapvec = h.trapvec := by cases r <;> rfl
@[simp] theorem Half.write_tsave (h : Half) (r : Reg) (v : Word) : (h.write r v).tsave = h.tsave := by cases r <;> rfl
@[simp] theorem Half.write_tlpcnt (h : Half) (r : Reg) (v : Word) : (h.write r v).tlpcnt = h.tlpcnt := by cases r <;> rfl
@[simp] theorem Half.write_fflags (h : Half) (r : Reg) (v : Word) : (h.write r v).fflags = h.fflags := by cases r <;> rfl
@[simp] theorem Half.write_frnd (h : Half) (r : Reg) (v : Word) : (h.write r v).frnd = h.frnd := by cases r <;> rfl
@[simp] theorem Half.write_pfxsave (h : Half) (r : Reg) (v : Word) : (h.write r v).pfxsave = h.pfxsave := by cases r <;> rfl
@[simp] theorem Half.write_nanorg (h : Half) (r : Reg) (v : Word) : (h.write r v).nanorg = h.nanorg := by cases r <;> rfl
@[simp] theorem Half.write_lpcnt (h : Half) (r : Reg) (v : Word) : (h.write r v).lpcnt = h.lpcnt := by cases r <;> rfl
@[simp] theorem Half.write_lpbeg (h : Half) (r : Reg) (v : Word) : (h.write r v).lpbeg = h.lpbeg := by cases r <;> rfl
@[simp] theorem Half.write_lpend (h : Half) (r : Reg) (v : Word) : (h.write r v).lpend = h.lpend := by cases r <;> rfl
@[simp] theorem Half.write_loads (h : Half) (r : Reg) (v : Word) : (h.write r v).loads = h.loads := by cases r <;> rfl
@[simp] theorem Half.write_boundTrap (h : Half) (r : Reg) (v : Word) : (h.write r v).boundTrap = h.boundTrap := by cases r <;> rfl
@[simp] theorem Half.write_vparked (h : Half) (r : Reg) (v : Word) : (h.write r v).vparked = h.vparked := by cases r <;> rfl
@[simp] theorem Half.write_vheld (h : Half) (r : Reg) (v : Word) : (h.write r v).vheld = h.vheld := by cases r <;> rfl
theorem Half.read_eq (h : Half) (r : Reg) : (h.read r).2 = { h with q := (h.read r).2.q, qwait := (h.read r).2.qwait } := by
  cases r with
  | q i => simp only [Half.read]; split <;> rfl
  | _ => rfl
@[simp] theorem Half.read_g (h : Half) (r : Reg) : (h.read r).2.g = h.g := by rw [Half.read_eq]
@[simp] theorem Half.read_n (h : Half) (r : Reg) : (h.read r).2.n = h.n := by rw [Half.read_eq]
@[simp] theorem Half.read_npoison (h : Half) (r : Reg) : (h.read r).2.npoison = h.npoison := by rw [Half.read_eq]
@[simp] theorem Half.read_y (h : Half) (r : Reg) : (h.read r).2.y = h.y := by rw [Half.read_eq]
@[simp] theorem Half.read_ypend (h : Half) (r : Reg) : (h.read r).2.ypend = h.ypend := by rw [Half.read_eq]
@[simp] theorem Half.read_e (h : Half) (r : Reg) : (h.read r).2.e = h.e := by rw [Half.read_eq]
@[simp] theorem Half.read_vq (h : Half) (r : Reg) : (h.read r).2.vq = h.vq := by rw [Half.read_eq]
@[simp] theorem Half.read_v (h : Half) (r : Reg) : (h.read r).2.v = h.v := by rw [Half.read_eq]
@[simp] theorem Half.read_k (h : Half) (r : Reg) : (h.read r).2.k = h.k := by rw [Half.read_eq]
@[simp] theorem Half.read_h (h : Half) (r : Reg) : (h.read r).2.h = h.h := by rw [Half.read_eq]
@[simp] theorem Half.read_pc (h : Half) (r : Reg) : (h.read r).2.pc = h.pc := by rw [Half.read_eq]
@[simp] theorem Half.read_lastPc (h : Half) (r : Reg) : (h.read r).2.lastPc = h.lastPc := by rw [Half.read_eq]
@[simp] theorem Half.read_status (h : Half) (r : Reg) : (h.read r).2.status = h.status := by rw [Half.read_eq]
@[simp] theorem Half.read_cause (h : Half) (r : Reg) : (h.read r).2.cause = h.cause := by rw [Half.read_eq]
@[simp] theorem Half.read_xpc (h : Half) (r : Reg) : (h.read r).2.xpc = h.xpc := by rw [Half.read_eq]
@[simp] theorem Half.read_faddr (h : Half) (r : Reg) : (h.read r).2.faddr = h.faddr := by rw [Half.read_eq]
@[simp] theorem Half.read_msgid (h : Half) (r : Reg) : (h.read r).2.msgid = h.msgid := by rw [Half.read_eq]
@[simp] theorem Half.read_chan (h : Half) (r : Reg) : (h.read r).2.chan = h.chan := by rw [Half.read_eq]
@[simp] theorem Half.read_budget (h : Half) (r : Reg) : (h.read r).2.budget = h.budget := by rw [Half.read_eq]
@[simp] theorem Half.read_trapvec (h : Half) (r : Reg) : (h.read r).2.trapvec = h.trapvec := by rw [Half.read_eq]
@[simp] theorem Half.read_tsave (h : Half) (r : Reg) : (h.read r).2.tsave = h.tsave := by rw [Half.read_eq]
@[simp] theorem Half.read_tlpcnt (h : Half) (r : Reg) : (h.read r).2.tlpcnt = h.tlpcnt := by rw [Half.read_eq]
@[simp] theorem Half.read_fflags (h : Half) (r : Reg) : (h.read r).2.fflags = h.fflags := by rw [Half.read_eq]
@[simp] theorem Half.read_frnd (h : Half) (r : Reg) : (h.read r).2.frnd = h.frnd := by rw [Half.read_eq]
@[simp] theorem Half.read_pfxsave (h : Half) (r : Reg) : (h.read r).2.pfxsave = h.pfxsave := by rw [Half.read_eq]
@[simp] theorem Half.read_nanorg (h : Half) (r : Reg) : (h.read r).2.nanorg = h.nanorg := by rw [Half.read_eq]
@[simp] theorem Half.read_lpcnt (h : Half) (r : Reg) : (h.read r).2.lpcnt = h.lpcnt := by rw [Half.read_eq]
@[simp] theorem Half.read_lpbeg (h : Half) (r : Reg) : (h.read r).2.lpbeg = h.lpbeg := by rw [Half.read_eq]
@[simp] theorem Half.read_lpend (h : Half) (r : Reg) : (h.read r).2.lpend = h.lpend := by rw [Half.read_eq]
@[simp] theorem Half.read_loads (h : Half) (r : Reg) : (h.read r).2.loads = h.loads := by rw [Half.read_eq]
@[simp] theorem Half.read_boundTrap (h : Half) (r : Reg) : (h.read r).2.boundTrap = h.boundTrap := by rw [Half.read_eq]
@[simp] theorem Half.read_vparked (h : Half) (r : Reg) : (h.read r).2.vparked = h.vparked := by rw [Half.read_eq]
@[simp] theorem Half.read_vheld (h : Half) (r : Reg) : (h.read r).2.vheld = h.vheld := by rw [Half.read_eq]

end Sys2Proof.Machine
end

