-- ==== Sys2Proof/Laws/Issue.lean ====
section
/-! SUPPORT. How the actions of a meaning run, and what the issue of an instruction gives when it is ready, when it stops and when its
body stops: cited in place of unfolding them. -/

namespace Sys2Proof.Machine

open Sys2Proof

/-! ### Actions -/

theorem exec_bind {α β : Type} (m : Exec α) (k : α → Exec β) (s : State) :
    (m >>= k) s = match m s with | .ok (a, t) => k a t | .error e => .error e := by
  show (StateT.bind m k) s = _
  unfold StateT.bind
  show (Except.bind (m s) _) = _
  unfold Except.bind
  cases m s <;> rfl
theorem bind_ok {α β : Type} {m : Exec α} {k : α → Exec β} {s t : State} {a : α} (h : m s = .ok (a, t)) : (m >>= k) s = k a t := by
  rw [exec_bind, h]
theorem bind_error {α β : Type} {m : Exec α} {k : α → Exec β} {s : State} {x : Stop} (h : m s = .error x) : (m >>= k) s = .error x := by
  rw [exec_bind, h]
theorem exec_map {α β : Type} (f : α → β) (m : Exec α) (s : State) :
    (f <$> m) s = match m s with | .ok (a, t) => .ok (f a, t) | .error e => .error e := by
  rw [map_eq_pure_bind, exec_bind]; rfl
@[simp] theorem pure_run {α : Type} (a : α) (s : State) : (pure a : Exec α) s = .ok (a, s) := rfl
@[simp] theorem get_run (s : State) : (get : Exec State) s = .ok (s, s) := rfl
@[simp] theorem rd_run (r : Reg) (s : State) : rd r s = .ok (s.val r, s.after r) := rfl
@[simp] theorem update_run (f : State → State) (s : State) : update f s = .ok ((), f s) := rfl
@[simp] theorem wrPush_run (d : Reg) (v : Word) (s : State) : wrPush d v s = .ok ((), s.give d v) := rfl
@[simp] theorem stop_run {α : Type} (x : Stop) (s : State) : (stop x : Exec α) s = .error x := rfl
@[simp] theorem trap_run {α : Type} (c r : Nat) (f : Word) (s : State) :
    (trap c r f : Exec α) s = .error (.trap { code := c, reason := r, faddr := f }) := rfl
@[simp] theorem check_true (c r : Nat) (f : Word) (s : State) : check true c r f s = .ok ((), s) := rfl
@[simp] theorem check_false (c r : Nat) (f : Word) (s : State) :
    check false c r f s = .error (.trap { code := c, reason := r, faddr := f }) := rfl
@[simp] theorem requireOperand_true (s : State) : requireOperand true s = .ok ((), s) := rfl
@[simp] theorem requireOperand_false (s : State) : requireOperand false s = .error (.trap { code := 0x21 }) := rfl
@[simp] theorem illegalOperand_run {α : Type} (s : State) : (illegalOperand : Exec α) s = .error (.trap { code := 0x21 }) := rfl
@[simp] theorem waitUntil_true (k : WaitOn) (s : State) : waitUntil true k s = .ok ((), s) := rfl
@[simp] theorem waitUntil_false (k : WaitOn) (s : State) : waitUntil false k s = .error (.wait k) := rfl

@[simp] theorem address_run (s : State) : address s = .ok (s.half.pc, s) := rfl
theorem displacement_eq {w : Nat} (x : BitVec w) : disp x = x.signExtend 64 * 2#64 := by
  unfold disp sext; apply BitVec.eq_of_toNat_eq; simp [Nat.shiftLeft_eq]

/-! ### Issue -/

/-- A ready instruction names no code that its form forbids. -/
theorem ready_badCode {s : State} {o : Op} (h : s.Ready o) : o.badCode = false := by
  have h2 := h.2
  cases hb : o.badCode with
  | false => rfl
  | true =>
    exfalso
    simp only [issueStop, hb, Bool.or_true, Bool.true_or, if_true] at h2
    repeat (first | split at h2 | simp at h2)

/-- A ready instruction does what its body does. -/
theorem issue_ready {s : State} {o : Op} (h : s.Ready o) (body : Exec Flow) :
    issue o body s = match body s with | .ok (f, t) => .next (t.retire o f) | .error x => s.stopped o.len x := by
  obtain ⟨h1, h2⟩ := h
  simp only [issue, h1, h2]; rfl
theorem issue_ok {s t : State} {o : Op} {f : Flow} {body : Exec Flow} (h : s.Ready o) (hb : body s = .ok (f, t)) :
    issue o body s = .next (t.retire o f) := by rw [issue_ready h, hb]
theorem issue_error {s : State} {o : Op} {x : Stop} {body : Exec Flow} (h : s.Ready o) (hb : body s = .error x) :
    issue o body s = s.stopped o.len x := by rw [issue_ready h, hb]
/-- A value computed goes to d and is pushed. -/
theorem issueValue_ok {s t : State} {o : Op} {d : Reg} {v : Word} {body : Exec Word} (h : s.Ready o) (hb : body s = .ok (v, t)) :
    issueValue o d body s = .next ((t.give d v).retire o .next) := by
  unfold issueValue
  exact issue_ok h (by rw [bind_ok hb]; rfl)
theorem issueValue_error {s : State} {o : Op} {d : Reg} {x : Stop} {body : Exec Word} (h : s.Ready o) (hb : body s = .error x) :
    issueValue o d body s = s.stopped o.len x := by
  unfold issueValue
  exact issue_error h (bind_error hb)
/-- What stops the issue of an instruction decides its outcome. -/
theorem issue_stopped {s : State} {o : Op} {x : Stop} (hk : validKey s.cur = true) (hx : issueStop o s = some x) (body : Exec Flow) :
    issue o body s = s.stopped o.len x := by
  simp only [issue, hk, hx]; rfl

/-- The trap of a check of an instruction whose word is not its fault detail. -/
theorem stopped_trap (s : State) (n : Nat) (t : Trap) (h : t.own = true ∨ (t.code ≠ 0x20 ∧ t.code ≠ 0x21 ∧ t.code ≠ 0x23)) :
    s.stopped n (.trap t) = .next (s.takeTrap s.half.pc t) := by
  have : t.withWord (s.wordAtPc n) = t := by
    unfold Trap.withWord
    rcases h with h | ⟨h1, h2, h3⟩
    · simp [h]
    · simp [h1, h2, h3]
  simp only [State.stopped, this]

/-! ### The forms that compute one value -/

theorem binary_ready {s : State} {b a d : Reg} (h : s.Ready (opAB b a d)) (f : Word → Word → Word) :
    binary b a d f s = .next ((((s.after a).after b).give d (f (s.val a) ((s.after a).val b))).retire (opAB b a d) .next) :=
  issueValue_ok h rfl
theorem unary_ready {s : State} {a d : Reg} (h : s.Ready (opA a d)) (f : Word → Word) :
    unary a d f s = .next (((s.after a).give d (f (s.val a))).retire (opA a d) .next) :=
  issueValue_ok h rfl
theorem compactBinary_ready {s : State} {b d : CReg} (h : s.Ready (opCC b d)) (f : Word → Word → Word) :
    compactBinary b d f s =
      .next ((((s.after d.dst).after b.src).give d.dst (f (s.val d.dst) ((s.after d.dst).val b.src))).retire (opCC b d) .next) :=
  issueValue_ok h rfl
theorem compactUnary_ready {s : State} {d : CReg} (h : s.Ready (opCI d)) (f : Word → Word) :
    compactUnary d f s = .next (((s.after d.dst).give d.dst (f (s.val d.dst))).retire (opCI d) .next) :=
  issueValue_ok h rfl

/-- Reading an operand changes the half of the current context alone. -/
@[simp] theorem half_after (s : State) (r : Reg) : (s.after r).half = (s.half.read r).2 := half_setHalf s _
@[simp] theorem half_give (s : State) (d : Reg) (v : Word) : (s.give d v).half = (s.half.write d v).push v := half_setHalf s _
/-- Reading an operand changes no more than a queue. -/
theorem read_same (h : Half) (r : Reg) : ∃ q w, (h.read r).2 = { h with q := q, qwait := w } := ⟨_, _, Half.read_eq h r⟩
@[simp] theorem pc_after (s : State) (r : Reg) : (s.after r).half.pc = s.half.pc := by rw [half_after, Half.read_pc]
@[simp] theorem act_after (s : State) (r : Reg) : (s.after r).act = s.act := by simp [State.after, State.setHalf, State.act]
/-- Reading a general or near register changes nothing. -/
theorem read_dstGN (h : Half) (d : Reg) (hd : d.dstGN = true) : (h.read d).2 = h := by
  cases d <;> simp_all [Reg.dstGN, Half.read]
theorem after_val_dstGN (s : State) (d r : Reg) (h : d.dstGN = true) : (s.after d).val r = s.val r := by
  simp [State.val, read_dstGN _ d h]
theorem after_after_dstGN (s : State) (d r : Reg) (h : d.dstGN = true) : (s.after d).after r = s.after r := by
  simp [State.after, read_dstGN _ d h]
theorem retire_eq (s : State) (o : Op) (f : Flow) : s.retire o f = s.setSlot (s.retire o f).slot := by
  unfold State.retire; simp
@[simp] theorem half_retire (s : State) (o : Op) (f : Flow) :
    (s.retire o f).half = Half.advance (Half.goVector <| if o.isPfx then s.half else if f = .stay then s.half else s.half.setPP false) o.len f := by
  simp [State.retire, State.half]
/-- Half an instruction's state is set; the rest is as it was. -/
theorem after_eq (s : State) (r : Reg) : s.after r = s.setHalf (s.half.read r).2 := rfl
theorem give_eq (s : State) (d : Reg) (v : Word) : s.give d v = s.setHalf ((s.half.write d v).push v) := rfl

end Sys2Proof.Machine
end

