-- ==== Sys2Proof/Laws/Memory.lean ====
section
/-! SUPPORT. The laws of a byte memory: what is read after a write, and that every operation keeps the canonical form. -/

namespace Sys2Proof.Machine

open Sys2Proof

/-- The canonical form of a longer memory is that of its rest, with a lowest key and a value that is listed. -/
theorem Memory.wf_cons {k : Nat} {w : Byte} {r : Memory} :
    Memory.wf ((k, w) :: r) ↔ (∀ p ∈ r, k < p.1) ∧ w ≠ Memory.unlisted ∧ Memory.wf r := by
  simp only [Memory.wf, List.pairwise_cons, List.mem_cons, forall_eq_or_imp]
  tauto

theorem Memory.wf_nil : Memory.wf [] := ⟨List.Pairwise.nil, by simp⟩

/-- An address below every listed one reads as unlisted. -/
theorem Memory.get_below {m : Memory} {a : Nat} (h : ∀ p ∈ m, a < p.1) : m.get a = Memory.unlisted := by
  cases m with
  | nil => rfl
  | cons p r =>
    obtain ⟨k, w⟩ := p
    have : a < k := h (k, w) List.mem_cons_self
    simp [Memory.get, this]

theorem Memory.mem_set {m : Memory} {a : Nat} {v : Byte} {p : Host.Cell} (h : p ∈ m.set a v) : p ∈ m ∨ p = (a, v) := by
  induction m with
  | nil =>
    simp only [Memory.set] at h
    split at h
    · simp at h
    · right; simpa using h
  | cons q r ih =>
    obtain ⟨k, w⟩ := q
    simp only [Memory.set] at h
    split at h
    · split at h
      · exact .inl h
      · rcases List.mem_cons.1 h with h | h
        · exact .inr h
        · exact .inl h
    · split at h
      · split at h
        · exact .inl (List.mem_cons_of_mem _ h)
        · rcases List.mem_cons.1 h with h | h
          · exact .inr h
          · exact .inl (List.mem_cons_of_mem _ h)
      · rcases List.mem_cons.1 h with h | h
        · exact .inl (h ▸ List.mem_cons_self)
        · rcases ih h with h | h
          · exact .inl (List.mem_cons_of_mem _ h)
          · exact .inr h

/-- A write of one byte keeps the canonical form. -/
theorem Memory.wf_set {m : Memory} (h : Memory.wf m) (a : Nat) (v : Byte) : Memory.wf (m.set a v) := by
  induction m with
  | nil =>
    simp only [Memory.set]
    split
    · exact Memory.wf_nil
    · next hv => exact Memory.wf_cons.2 ⟨by simp, hv, Memory.wf_nil⟩
  | cons q r ih =>
    obtain ⟨k, w⟩ := q
    obtain ⟨h1, h2, h3⟩ := Memory.wf_cons.1 h
    simp only [Memory.set]
    split
    · next hak =>
      split
      · exact h
      · next hv =>
        refine Memory.wf_cons.2 ⟨fun p hp => ?_, hv, h⟩
        rcases List.mem_cons.1 hp with rfl | hp
        · exact hak
        · exact Nat.lt_trans hak (h1 p hp)
    · split
      · next hka =>
        subst hka
        split
        · exact h3
        · next hv => exact Memory.wf_cons.2 ⟨h1, hv, h3⟩
      · next hak hne =>
        refine Memory.wf_cons.2 ⟨fun p hp => ?_, h2, ih h3⟩
        rcases Memory.mem_set hp with hp | rfl
        · exact h1 p hp
        · exact Nat.lt_of_le_of_ne (Nat.le_of_not_lt hak) hne

/-- A write of bytes keeps the canonical form. -/
theorem Memory.wf_write {m : Memory} (h : Memory.wf m) (a : Nat) (bs : List Byte) : Memory.wf (m.write a bs) := by
  induction bs generalizing m a with
  | nil => exact h
  | cons b r ih => exact ih (Memory.wf_set h a b) (a + 1)

/-- A masked write keeps the canonical form. -/
theorem Memory.wf_writeMasked {m : Memory} (h : Memory.wf m) (cs : List (Nat × Byte × Byte)) : Memory.wf (m.writeMasked cs) := by
  induction cs generalizing m with
  | nil => exact h
  | cons c r ih => obtain ⟨a, v, k⟩ := c; exact ih (Memory.wf_set h _ _)

/-- Writes one after the other keep the canonical form. -/
theorem Memory.wf_foldl {m : Memory} (h : Memory.wf m) {α : Type} (l : List α) (f : Memory → α → Memory)
    (hf : ∀ m x, Memory.wf m → Memory.wf (f m x)) : Memory.wf (l.foldl f m) := by
  induction l generalizing m with
  | nil => exact h
  | cons x r ih => exact ih (hf m x h)

/-- Keys and values of any filter of a canonical memory are canonical. -/
theorem Memory.wf_filter {m : Memory} (h : Memory.wf m) (p : Host.Cell → Bool) : Memory.wf (m.filter p) :=
  ⟨h.1.filter p, fun x hx => h.2 x (List.mem_of_mem_filter hx)⟩

/-- A byte reads as it was written. -/
theorem Memory.get_set_same {m : Memory} (h : Memory.wf m) (a : Nat) (v : Byte) : (m.set a v).get a = v := by
  induction m with
  | nil =>
    simp only [Memory.set]
    split
    · next hv => simp [Memory.get, hv]
    · simp [Memory.get]
  | cons q r ih =>
    obtain ⟨k, w⟩ := q
    obtain ⟨h1, h2, h3⟩ := Memory.wf_cons.1 h
    simp only [Memory.set]
    split
    · next hak =>
      split
      · next hv => simp [Memory.get, hak, hv]
      · simp [Memory.get]
    · split
      · next hka =>
        subst hka
        split
        · next hv => rw [Memory.get_below h1, hv]
        · simp [Memory.get]
      · next hak hne => simp [Memory.get, hak, hne, ih h3]

/-- A write leaves every other byte alone. -/
theorem Memory.get_set_ne {m : Memory} (h : Memory.wf m) {a b : Nat} (v : Byte) (hab : a ≠ b) : (m.set a v).get b = m.get b := by
  induction m with
  | nil =>
    simp only [Memory.set]
    split
    · rfl
    · simp [Memory.get, hab]
  | cons q r ih =>
    obtain ⟨k, w⟩ := q
    obtain ⟨h1, h2, h3⟩ := Memory.wf_cons.1 h
    simp only [Memory.set]
    split
    · next hak =>
      split
      · rfl
      · by_cases hba : b < a
        · have : b < k := Nat.lt_trans hba hak
          simp [Memory.get, hba, this]
        · simp [Memory.get, hba, hab]
    · split
      · next hka =>
        subst hka
        split
        · by_cases hbk : b < k
          · rw [Memory.get_below (fun p hp => Nat.lt_trans hbk (h1 p hp))]; simp [Memory.get, hbk]
          · simp [Memory.get, hbk, hab]
        · simp [Memory.get, hab]
      · next hak hne => simp [Memory.get, ih h3]

/-- Bytes outside the written range keep their value. -/
theorem Memory.get_write_outside {m : Memory} (h : Memory.wf m) {a b : Nat} (bs : List Byte) (hb : b < a ∨ a + bs.length ≤ b) :
    (m.write a bs).get b = m.get b := by
  induction bs generalizing m a with
  | nil => rfl
  | cons x r ih =>
    simp only [List.length_cons] at hb
    rw [Memory.write, ih (Memory.wf_set h a x) (by omega), Memory.get_set_ne h x (by omega)]

/-- A written range reads as it was written. -/
theorem Memory.get_write_inside {m : Memory} (h : Memory.wf m) {a i : Nat} (bs : List Byte) (hi : i < bs.length) :
    (m.write a bs).get (a + i) = bs[i] := by
  induction bs generalizing m a i with
  | nil => simp at hi
  | cons x r ih =>
    rw [Memory.write]
    cases i with
    | zero =>
      rw [Memory.get_write_outside (Memory.wf_set h a x) r (by omega)]
      exact Memory.get_set_same h a x
    | succ j =>
      have := ih (Memory.wf_set h a x) (a := a + 1) (i := j) (by simpa using hi)
      rw [show a + (j + 1) = a + 1 + j by omega, this]; rfl

/-- A fold of single-byte writes leaves the bytes at other keys alone. -/
theorem Memory.get_foldl_set {m : Memory} (h : Memory.wf m) (ps : List (Nat × Byte)) {b : Nat} (hb : ∀ p ∈ ps, p.1 ≠ b) :
    (ps.foldl (fun (m : Memory) (p : Nat × Byte) => m.set p.1 p.2) m).get b = m.get b := by
  induction ps generalizing m with
  | nil => rfl
  | cons p r ih =>
    rw [List.foldl_cons, ih (Memory.wf_set h _ _) (fun q hq => hb q (List.mem_cons_of_mem _ hq)),
      Memory.get_set_ne h _ (hb p List.mem_cons_self)]

/-- A masked write leaves the bytes at other keys alone. -/
theorem Memory.get_writeMasked_outside {m : Memory} (h : Memory.wf m) (cs : List (Nat × Byte × Byte)) {b : Nat}
    (hb : ∀ c ∈ cs, c.1 ≠ b) : (m.writeMasked cs).get b = m.get b := by
  induction cs generalizing m with
  | nil => rfl
  | cons c r ih =>
    obtain ⟨a, v, k⟩ := c
    rw [Memory.writeMasked, ih (Memory.wf_set h _ _) (fun q hq => hb q (List.mem_cons_of_mem _ hq)),
      Memory.get_set_ne h _ (hb (a, v, k) List.mem_cons_self)]

/-! Reading words corrects or poisons those that a soft error has struck, and enters what it finds in the logs: nothing else changes (R110). -/

theorem enterLog_eq (s : State) (e : ErrEvent) : s.enterLog e = { s with sys := (s.enterLog e).sys, fns := (s.enterLog e).fns } := by
  unfold State.enterLog
  dsimp only
  split <;> rfl
theorem post_eq (s : State) (e : ErrEvent) : s.post e = { s with sys := (s.post e).sys, fns := (s.post e).fns } := by
  unfold State.post
  dsimp only
  rw [enterLog_eq]
  split <;> rfl
theorem postWord_eq (s : State) (w : Nat) (two : Bool) :
    s.postWord w two = { s with sys := (s.postWord w two).sys, fns := (s.postWord w two).fns } := by
  unfold State.postWord
  dsimp only
  split
  · exact post_eq s _
  · exact enterLog_eq s _
theorem senseWord_eq (s : State) (w : Nat) : s.senseWord w =
    { s with flips := (s.senseWord w).flips, poison := (s.senseWord w).poison, sys := (s.senseWord w).sys, fns := (s.senseWord w).fns } := by
  unfold State.senseWord
  split
  · rfl
  · dsimp only
    split
    · rw [postWord_eq]
    · rw [postWord_eq]
theorem sense_eq (s : State) (ks : List Nat) : s.sense ks =
    { s with flips := (s.sense ks).flips, poison := (s.sense ks).poison, sys := (s.sense ks).sys, fns := (s.sense ks).fns } := by
  have fold : ∀ (ws : List Nat) (s : State), ws.foldl State.senseWord s = { s with
      flips := (ws.foldl State.senseWord s).flips, poison := (ws.foldl State.senseWord s).poison,
      sys := (ws.foldl State.senseWord s).sys, fns := (ws.foldl State.senseWord s).fns } := by
    intro ws
    induction ws with
    | nil => intro s; rfl
    | cons w ws ih => intro s; rw [List.foldl_cons, ih, senseWord_eq]
  unfold State.sense
  split
  · rfl
  · exact fold _ s
@[simp] theorem mem_sense (s : State) (ks : List Nat) : (s.sense ks).mem = s.mem := by rw [sense_eq]
@[simp] theorem mem_mark (s : State) (ls : List Nat) : (s.mark ls).mem = s.mem := by unfold State.mark; split <;> rfl

/-! ### The windows -/

/-- A window write keeps the canonical form. -/
theorem wf_writeWin {s : State} (h : Memory.wf s.mem) (t : Nat) (i : Fin 3) (ea : Nat) (bs : List Byte) :
    Memory.wf (s.writeWin t i ea bs).mem := by
  have key : (s.writeWin t i ea bs).mem =
      ((s.winKeys t i ea bs.length).zip bs).foldl (fun (m : Memory) (p : Nat × Byte) => m.set p.1 p.2) s.mem := by
    simp only [State.writeWin, mem_mark, mem_sense]
  rw [key]
  exact Memory.wf_foldl h _ _ fun m x hm => Memory.wf_set hm _ _

/-- A window write leaves every byte of other keys alone. -/
theorem get_writeWin_outside {s : State} (h : Memory.wf s.mem) (t : Nat) (i : Fin 3) (ea : Nat) (bs : List Byte) {b : Nat}
    (hb : b ∉ s.winKeys t i ea bs.length) : (s.writeWin t i ea bs).mem.get b = s.mem.get b := by
  have key : (s.writeWin t i ea bs).mem =
      ((s.winKeys t i ea bs.length).zip bs).foldl (fun (m : Memory) (p : Nat × Byte) => m.set p.1 p.2) s.mem := by
    simp only [State.writeWin, mem_mark, mem_sense]
  rw [key]
  refine Memory.get_foldl_set h _ fun p hp e => hb ?_
  rw [← e]; exact (List.of_mem_zip hp).1

/-! ### Little-endian bytes -/

@[simp] theorem leBytes_length (k n : Nat) : (leBytes k n).length = k := by
  induction k generalizing n with
  | zero => rfl
  | succ k ih => simp [leBytes, ih]
/-- Bytes of a number, read again, are the number cut to their count (R4). -/
theorem leNat_leBytes (k n : Nat) : leNat (leBytes k n) = n % 256 ^ k := by
  induction k generalizing n with
  | zero => simp [leBytes, leNat, Nat.mod_one]
  | succ k ih =>
    simp only [leBytes, leNat, ih, BitVec.toNat_ofNat]
    have e : 256 ^ (k + 1) = 256 * 256 ^ k := by rw [Nat.pow_succ, Nat.mul_comm]
    rw [e, Nat.mod_mul]

end Sys2Proof.Machine
end

