-- ==== Sys2Proof/Laws/Checks.lean ====
section
/-! SUPPORT. What each check and each action that the meanings share does when it passes: cited, with the hypotheses of a statement, in
place of unfolding it. -/

namespace Sys2Proof.Machine

open Sys2Proof

/-! ### Checks that pass -/

theorem check_ok {b : Bool} (h : b = true) (c r : Nat) (f : Word) (s : State) : check b c r f s = .ok ((), s) := by rw [h]; rfl
theorem check_stop {b : Bool} (h : b = false) (c r : Nat) (f : Word) (s : State) :
    check b c r f s = .error (.trap { code := c, reason := r, faddr := f }) := by rw [h]; rfl
theorem requireOperand_ok {b : Bool} (h : b = true) (s : State) : requireOperand b s = .ok ((), s) := by rw [h]; rfl
theorem requireOperand_stop {b : Bool} (h : b = false) (s : State) : requireOperand b s = .error (.trap { code := 0x21 }) := by rw [h]; rfl
theorem waitUntil_ok {b : Bool} (h : b = true) (k : WaitOn) (s : State) : waitUntil b k s = .ok ((), s) := by rw [h]; rfl
/-- A window check passes. -/
theorem checkWin_ok {s : State} {t : Nat} {ea : Int} {n : Nat} {k : AccKind} (h : s.inWindow t ea n k) (ti : Nat) :
    checkWin t ti ea n k s = .ok (ea.toNat, s) := by
  unfold State.inWindow at h
  unfold checkWin
  rw [exec_bind]
  simp only [get_run, h]
  rfl
/-- A window check fails with its reason (R121). -/
theorem checkWin_stop {s : State} {t : Nat} {ea : Int} {n : Nat} {k : AccKind} {r : Nat}
    (h : s.checkWindow t s.share s.act.keep ea n k = some r) (ti : Nat) :
    checkWin t ti ea n k s = .error (.trap { code := 0x25, reason := r, faddr := spadFaddr ea ti r }) := by
  unfold checkWin
  rw [exec_bind]
  simp only [get_run, h]
  rfl
@[simp] theorem tiles_reads (s : State) (ea n : Nat) : (s.reads ea n).tiles = s.tiles := by
  unfold State.reads State.senseWin; rw [sense_eq]
@[simp] theorem mem_reads (s : State) (ea n : Nat) : (s.reads ea n).mem = s.mem := by
  unfold State.reads State.senseWin; rw [sense_eq]
@[simp] theorem cur_reads (s : State) (ea n : Nat) : (s.reads ea n).cur = s.cur := by
  unfold State.reads State.senseWin; rw [sense_eq]
@[simp] theorem ctx_reads (s : State) (ea n : Nat) : (s.reads ea n).ctx = s.ctx := by
  unfold State.reads State.senseWin; rw [sense_eq]
@[simp] theorem parts_reads (s : State) (ea n : Nat) : (s.reads ea n).parts = s.parts := by
  unfold State.reads State.senseWin; rw [sense_eq]
@[simp] theorem tile_reads (s : State) (ea n t : Nat) : (s.reads ea n).tile t = s.tile t := by simp [State.tile]
@[simp] theorem slot_reads (s : State) (ea n : Nat) : (s.reads ea n).slot = s.slot := by simp [State.slot, State.slotAt]
@[simp] theorem half_reads (s : State) (ea n : Nat) : (s.reads ea n).half = s.half := by simp [State.half]
@[simp] theorem act_reads (s : State) (ea n : Nat) : (s.reads ea n).act = s.act := by simp [State.act]
@[simp] theorem share_reads (s : State) (ea n : Nat) : (s.reads ea n).share = s.share := by simp [State.share, State.shareAt, State.slotAt]
@[simp] theorem readWin_reads (s : State) (ea n t : Nat) (i : Fin 3) (a k : Nat) : (s.reads ea n).readWin t i a k = s.readWin t i a k := by
  simp [State.readWin, State.bytesAt, State.winKeys, State.spad, State.physOf]
@[simp] theorem ownNat_reads (s : State) (ea n a k : Nat) : (s.reads ea n).ownNat a k = s.ownNat a k := by simp [State.ownNat]

/-- Nothing earlier of the context is on its way to the range (R284). -/
theorem ownWait_ok {s : State} {ea n : Nat} (h : s.ownClear ea n = true) : ownWait ea n s = .ok ((), s) := by
  unfold ownWait
  rw [bind_ok (get_run s)]
  exact waitUntil_ok h .other s
theorem readOwn_ok {s : State} {ea n : Nat} (h : s.readable ea n) : readOwn ea n s = .ok (s.readWin s.cur s.share ea n, s.reads ea n) := by
  have hc : (s.reads ea n).winPoisoned s.cur s.share ea n = false := by simpa [State.cleanOwn] using h.2
  unfold readOwn
  refine (bind_ok (ownWait_ok h.1)).trans ?_
  show (if ((s.reads ea n).winPoisoned (s.reads ea n).cur (s.reads ea n).share ea n) = true then _ else _ : Exec (List Byte)) (s.reads ea n) = _
  rw [if_neg (by simp [hc])]
  show Except.ok ((s.reads ea n).readWin (s.reads ea n).cur (s.reads ea n).share ea n, s.reads ea n) = _
  simp
/-- Poison that the read finds is consumed (R111, R396). -/
theorem readOwn_stop {s : State} {ea n : Nat} (hw : s.ownClear ea n = true) (hp : ¬ (s.reads ea n).cleanOwn ea n) :
    readOwn ea n s = .error (.trapOn (fun s => s.reads ea n) { code := 0x28, faddr := spadFaddr ea 0 0 }) := by
  unfold State.cleanOwn at hp
  unfold readOwn
  refine (bind_ok (ownWait_ok hw)).trans ?_
  show (if ((s.reads ea n).winPoisoned (s.reads ea n).cur (s.reads ea n).share ea n) = true then _ else _ : Exec (List Byte)) (s.reads ea n) = _
  rw [if_pos (by simpa using hp)]
  rfl
theorem logWrite_ok {s u : State} {ea n : Nat} (h : s.logs ea n u) : logWrite ea n s = .ok ((), u) := by
  unfold State.logs at h
  simp [logWrite, h]
theorem storeOwn_ok {s u : State} {ea : Nat} {bs : List Byte} (hc : s.ownClear ea bs.length = true) (h : s.logs ea bs.length u) :
    storeOwn ea bs s = .ok ((), u.storeAt ea bs) := by
  unfold storeOwn
  rw [bind_ok (ownWait_ok hc), bind_ok (logWrite_ok h)]
  rfl
theorem recordAddr_ok {s : State} {ea : Word} {k : AccKind} (h : ea.toNat % 64 = 0) (hw : s.inWindow s.cur ea.toNat 64 k) :
    recordAddr ea k s = .ok (ea.toNat, s) := by
  unfold recordAddr
  rw [bind_ok (requireOperand_ok (by simp [h]) s), bind_ok (get_run s), checkWin_ok hw]
  rfl
theorem targetTile_ok {s : State} {w t : Nat} (h : s.resolve w = some t) : targetTile w s = .ok (t, s) := by
  unfold targetTile
  rw [bind_ok (get_run s), h]
  rfl
theorem payloadWord_ok {w : Word} {n : Nat} (h : PayloadOk w n) (s : State) : payloadWord w n s = .ok ((wfield w 19 0, wfield w 39 32), s) := by
  obtain ⟨h1, h2, h3, h4, h5⟩ := h
  unfold payloadWord
  rw [bind_ok (requireOperand_ok h1 s)]
  simp only [h2, h3, h4, h5, decide_true, Bool.and_self]
  rfl
theorem bodyOwn_ok {s : State} {w : Word} {n : Nat} (h : s.bodyOk w n) :
    bodyOwn (wfield w 19 0) (wfield w 39 32) s = .ok ((s.body w, (s.bodyRead w).bodyMask w), s.bodyRead w) := by
  unfold bodyOwn
  rw [bind_ok (get_run s), bind_ok (checkWin_ok h.2.1 0)]
  refine (bind_ok (ownWait_ok h.2.2)).trans ?_
  show Except.ok (((s.bodyRead w).body w, (s.bodyRead w).bodyMask w), s.bodyRead w) = _
  simp [State.body, State.bodyRead]
theorem checkOut_ok {s : State} {n : Nat} (h : s.outRoom n = true) : checkOut n s = .ok ((), s) := by
  simp [checkOut, exec_bind, h]
theorem checkOut_stop {s : State} {n : Nat} (h : s.outRoom n = false) :
    checkOut n s = .error (.trap { code := 0x10, faddr := BitVec.ofNat 64 n }) := by
  simp [checkOut, exec_bind, h]
theorem appendOut_ok {s : State} {n : Nat} (h : s.outRoom n = true) (k : OutKind) : appendOut n k s = .ok ((), s.items n k) := by
  unfold appendOut
  rw [bind_ok (checkOut_ok h)]
  rfl
theorem appendOut_stop {s : State} {n : Nat} (h : s.outRoom n = false) (k : OutKind) :
    appendOut n k s = .error (.trap { code := 0x10, faddr := BitVec.ofNat 64 n }) := by
  unfold appendOut
  rw [bind_error (checkOut_stop h)]
theorem releaseWait_ok {s : State} {scope : Nat} {vec : Bool} (h : s.releaseStop vec scope = none) (k : WaitOn) :
    releaseWait scope vec k s = .ok ((), s.ordered) := by
  unfold releaseWait
  rw [bind_ok (get_run s), h]
  rfl
theorem releaseWait_stop {s : State} {scope : Nat} {vec : Bool} {f : State → State} (h : s.releaseStop vec scope = some f) (k : WaitOn) :
    releaseWait scope vec k s = .error (.waitIn k f) := by
  unfold releaseWait
  rw [bind_ok (get_run s), h]
  rfl
theorem acquireWait_ok {s : State} (h : s.half.loads = []) (k : WaitOn) : acquireWait k s = .ok ((), s.ordered) := by
  unfold acquireWait
  rw [bind_ok (get_run s), bind_ok (waitUntil_ok (by simpa using h) k s)]
  rfl
theorem vectorIdle_ok {s : State} (h : s.half.vq = []) (hb : s.half.boundTrap = none) : vectorIdle s = .ok ((), s) := by
  simp [vectorIdle, exec_bind, State.vectorDone, h, hb]
theorem privileged_ok {ok : Nat → Bool} {s : State} (h : ok s.cur = true) : privileged ok s = .ok ((), s) := by
  simp [privileged, exec_bind, h]
/-- Elsewhere than on its core a privileged form is a protection violation. -/
theorem privileged_stop {ok : Nat → Bool} {s : State} (h : ok s.cur = false) : privileged ok s = .error (.trap { code := 0x30 }) := by
  simp [privileged, exec_bind, h]
theorem liftT_ok {α : Type} {e : Except Trap α} {x : α} (h : e = .ok x) (s : State) : liftT e s = .ok (x, s) := by rw [h]; rfl
theorem tmCheck_ok {b : Bool} (h : b = true) (r : Nat) (w : Word) (s : State) : tmCheck b r w s = .ok ((), s) := by rw [h]; rfl
theorem tmCheck_stop {b : Bool} (h : b = false) (r : Nat) (w : Word) (s : State) :
    tmCheck b r w s = .error (.trap { code := 0x27, reason := r, faddr := w }) := by rw [h]; rfl
theorem tmWord_ok {w : Word} {fs : List (Nat × Nat)} {addr : Bool} (h : onlyBits w fs = true) (ha : addr = false ∨ wfield w 51 32 % 64 = 0)
    (s : State) : tmWord w fs addr s = .ok ((wfield w 11 0, wfield w 51 32), s) := by
  unfold tmWord
  rw [bind_ok (requireOperand_ok h s), bind_ok (tmCheck_ok (by simpa using ha) 1 w s)]
  rfl
theorem tmWord_stop {w : Word} {fs : List (Nat × Nat)} (h : onlyBits w fs = true) (ha : wfield w 51 32 % 64 ≠ 0)
    (s : State) : tmWord w fs true s = .error (.trap { code := 0x27, reason := 1, faddr := w }) := by
  unfold tmWord
  rw [bind_ok (requireOperand_ok h s), bind_error (tmCheck_stop (by simpa using ha) 1 w s)]

/-! ### Actions -/

theorem markNonReplayable_run (s : State) : markNonReplayable s = .ok ((), s.spent) := rfl
theorem freshId_run (s : State) : freshId s = .ok (s.fresh, s.bump) := rfl
theorem pendingLoad_run (l : PendLoad) (s : State) : pendingLoad l s = .ok ((), s.pend l) := rfl
theorem raiseFlags_run (f : Flags) (s : State) : raiseFlags f s = .ok ((), s.flag f) := rfl
theorem sliceAccess_run (op : SliceOp) (s : State) : sliceAccess op s = .ok ((), s.toSlice op) := rfl
theorem checkResource_ok {s : State} {idx off size acc : Nat} {r : Rec512} (h : s.resourceOk idx off size acc r) :
    checkResource idx off size acc s = .ok (r, s.used idx) := by
  unfold State.resourceOk at h
  unfold checkResource
  rw [bind_ok (get_run s), h]
  rfl
/-- A check of R59 that fails leaves the use of the entry (R58). -/
theorem checkResource_stop {s : State} {idx off size acc : Nat} {t : Trap} (h : s.checkRes s.cur s.share s.act.tenant idx off size acc = .error t) :
    checkResource idx off size acc s = .error (.trapOn (fun s => s.used idx) t) := by
  unfold checkResource
  rw [bind_ok (get_run s), h]
  rfl
/-- A later check that passes, under what the earlier ones have used (R58). -/
theorem keeping_ok {α : Type} {m : Exec α} {s u : State} {x : α} (h : m s = .ok (x, u)) (f : State → State) : keeping f m s = .ok (x, u) := by
  unfold keeping
  rw [h]
/-- A later check that traps leaves the uses of the earlier ones (R58). -/
theorem keeping_stop {α : Type} {m : Exec α} {s : State} {t : Trap} (h : m s = .error (.trap t)) (f : State → State) :
    keeping f m s = .error (.trapOn f t) := by
  unfold keeping
  rw [h]
theorem checkUsed_ok {b : Bool} (h : b = true) (idx c r : Nat) (f : Word) (s : State) : checkUsed idx b c r f s = .ok ((), s) := by rw [h]; rfl
theorem checkUsed_stop {b : Bool} (h : b = false) (idx c r : Nat) (f : Word) (s : State) :
    checkUsed idx b c r f s = .error (.trapOn (fun s => s.used idx) { code := c, reason := r, faddr := f }) := by rw [h]; rfl
/-- A global access that translates has its path (R61). -/
theorem globalPathOf_ok {s : State} {idx off n acc : Nat} {r : Rec512} {ps : List Part'} (h : s.translates (resVbase r + off) n acc ps) :
    globalPathOf r idx off n acc s = .ok (pathOf s.act.tenant r ps, s) := by
  unfold State.translates at h
  unfold globalPathOf
  rw [bind_ok (get_run s), h]
  rfl
theorem globalPath_ok {s : State} {idx off n acc : Nat} {r : Rec512} {ps : List Part'} (hr : s.resourceOk idx off n acc r)
    (h : (s.used idx).translates (resVbase r + off) n acc ps) :
    globalPath idx off n acc s = .ok (pathOf (s.used idx).act.tenant r ps, s.used idx) := by
  unfold globalPath
  rw [bind_ok (checkResource_ok hr), globalPathOf_ok h]
theorem setTable_run (pid : Nat) (q : ReqTable) (s : State) :
    setTable pid q s = .ok ((), s.putTable pid q) := rfl
theorem extWrite_run (n : BitVec 3) (v : Word) (s : State) : extWrite n v s = .ok ((), s.modHalf fun h => (h.setE n v).push v) := rfl
theorem readList_ok {s : State} {a n : Nat} (hw : s.inWindow s.cur a (4 * n) .load) (hc : s.readable a (4 * n)) :
    readList a n s = .ok (s.ownList a n, s.reads a (4 * n)) := by
  unfold readList
  rw [bind_ok (get_run s), bind_ok (checkWin_ok hw 0), bind_ok (readOwn_ok hc)]
  rfl
/-- The partition's table, when no operation of this tile is on its way to the unit (R355). -/
theorem reqTable_ok {s : State} {pid : Nat} {p : Part} (h : s.tableIs pid p) : reqTable s = .ok ((pid, p.req), s) := by
  obtain ⟨h1, h2, h3⟩ := h
  unfold reqTable
  rw [bind_ok (get_run s), h1]
  simp only [State.part, Option.bind, h2]
  rw [bind_ok (waitUntil_ok (by simpa using h3) .other s)]
  rfl

/-- A ready vector instruction is handed over when the queue has room. -/
theorem handover_ok {s : State} {x : VEntry} {accepts : BitVec 16 → Bool} {bad iso : Bool}
    (h : s.Ready { pfx := accepts, badCode := bad, iso := iso }) (hq : s.half.vq.length < 16) :
    handover x accepts bad iso s = .next ((s.bump.modHalf fun h => { h with
      vq := h.vq ++ [{ x with pfx := h.pfx, word := BitVec.ofNat 32 (s.wordAtPc 4).toNat, mode := h.mode, pc := h.pc, seq := s.fresh,
                              after := s.orderedFrom }] }).retire {} .next) := by
  unfold handover
  refine issue_ok h ?_
  refine (bind_ok (get_run s)).trans ?_
  refine (bind_ok (waitUntil_ok (by simpa using hq) .vector s)).trans ?_
  rfl

/-! ### Events -/

theorem event_some {m : String} {r : Option State} {t : State} (h : r = some t) : event m r = .next t := by rw [h]; rfl

end Sys2Proof.Machine
end

