-- ==== Sys2Proof/Laws/Tiles.lean ====
section
/-! SUPPORT. A change of one context leaves the other parts of its tile as they are: one lemma per field of a tile, for the slot of a
context, for its half, and for the read of an operand. -/

namespace Sys2Proof.Machine

open Sys2Proof

theorem tile_setSlotAt_eq (s : State) (t u : Nat) (c : Fin 8) (x : Slot) :
    ∃ cs, (s.setSlotAt t c x).tile u = { s.tile u with ctxs := cs } := by
  by_cases h : t = u
  · subst h
    rw [setSlotAt_eq, tile_setTile]
    exact ⟨_, rfl⟩
  · rw [setSlotAt_eq, tile_setTile_ne s _ h]
    exact ⟨_, rfl⟩

@[simp] theorem tile_setSlotAt_shares (s : State) (t u : Nat) (c : Fin 8) (x : Slot) :
    ((s.setSlotAt t c x).tile u).shares = (s.tile u).shares := by obtain ⟨_, e⟩ := tile_setSlotAt_eq s t u c x; rw [e]
@[simp] theorem tile_setSlotAt_split (s : State) (t u : Nat) (c : Fin 8) (x : Slot) :
    ((s.setSlotAt t c x).tile u).split = (s.tile u).split := by obtain ⟨_, e⟩ := tile_setSlotAt_eq s t u c x; rw [e]
@[simp] theorem tile_setSlotAt_handlers (s : State) (t u : Nat) (c : Fin 8) (x : Slot) :
    ((s.setSlotAt t c x).tile u).handlers = (s.tile u).handlers := by obtain ⟨_, e⟩ := tile_setSlotAt_eq s t u c x; rw [e]
@[simp] theorem tile_setSlotAt_inbox (s : State) (t u : Nat) (c : Fin 8) (x : Slot) :
    ((s.setSlotAt t c x).tile u).inbox = (s.tile u).inbox := by obtain ⟨_, e⟩ := tile_setSlotAt_eq s t u c x; rw [e]
@[simp] theorem tile_setSlotAt_portQ (s : State) (t u : Nat) (c : Fin 8) (x : Slot) :
    ((s.setSlotAt t c x).tile u).portQ = (s.tile u).portQ := by obtain ⟨_, e⟩ := tile_setSlotAt_eq s t u c x; rw [e]
@[simp] theorem tile_setSlotAt_chans (s : State) (t u : Nat) (c : Fin 8) (x : Slot) :
    ((s.setSlotAt t c x).tile u).chans = (s.tile u).chans := by obtain ⟨_, e⟩ := tile_setSlotAt_eq s t u c x; rw [e]
@[simp] theorem tile_setSlotAt_wchans (s : State) (t u : Nat) (c : Fin 8) (x : Slot) :
    ((s.setSlotAt t c x).tile u).wchans = (s.tile u).wchans := by obtain ⟨_, e⟩ := tile_setSlotAt_eq s t u c x; rw [e]
@[simp] theorem tile_setSlotAt_tlb (s : State) (t u : Nat) (c : Fin 8) (x : Slot) :
    ((s.setSlotAt t c x).tile u).tlb = (s.tile u).tlb := by obtain ⟨_, e⟩ := tile_setSlotAt_eq s t u c x; rw [e]
@[simp] theorem tile_setSlotAt_tlbPtr (s : State) (t u : Nat) (c : Fin 8) (x : Slot) :
    ((s.setSlotAt t c x).tile u).tlbPtr = (s.tile u).tlbPtr := by obtain ⟨_, e⟩ := tile_setSlotAt_eq s t u c x; rw [e]
@[simp] theorem tile_setSlotAt_rcache (s : State) (t u : Nat) (c : Fin 8) (x : Slot) :
    ((s.setSlotAt t c x).tile u).rcache = (s.tile u).rcache := by obtain ⟨_, e⟩ := tile_setSlotAt_eq s t u c x; rw [e]
@[simp] theorem tile_setSlotAt_rdcache (s : State) (t u : Nat) (c : Fin 8) (x : Slot) :
    ((s.setSlotAt t c x).tile u).rdcache = (s.tile u).rdcache := by obtain ⟨_, e⟩ := tile_setSlotAt_eq s t u c x; rw [e]
@[simp] theorem tile_setSlotAt_bnd (s : State) (t u : Nat) (c : Fin 8) (x : Slot) :
    ((s.setSlotAt t c x).tile u).bnd = (s.tile u).bnd := by obtain ⟨_, e⟩ := tile_setSlotAt_eq s t u c x; rw [e]
@[simp] theorem tile_setSlotAt_bndflag (s : State) (t u : Nat) (c : Fin 8) (x : Slot) :
    ((s.setSlotAt t c x).tile u).bndflag = (s.tile u).bndflag := by obtain ⟨_, e⟩ := tile_setSlotAt_eq s t u c x; rw [e]
@[simp] theorem tile_setSlotAt_grpslot (s : State) (t u : Nat) (c : Fin 8) (x : Slot) :
    ((s.setSlotAt t c x).tile u).grpslot = (s.tile u).grpslot := by obtain ⟨_, e⟩ := tile_setSlotAt_eq s t u c x; rw [e]
@[simp] theorem tile_setSlotAt_barriers (s : State) (t u : Nat) (c : Fin 8) (x : Slot) :
    ((s.setSlotAt t c x).tile u).barriers = (s.tile u).barriers := by obtain ⟨_, e⟩ := tile_setSlotAt_eq s t u c x; rw [e]
@[simp] theorem tile_setSlotAt_engines (s : State) (t u : Nat) (c : Fin 8) (x : Slot) :
    ((s.setSlotAt t c x).tile u).engines = (s.tile u).engines := by obtain ⟨_, e⟩ := tile_setSlotAt_eq s t u c x; rw [e]
@[simp] theorem tile_setSlotAt_combine (s : State) (t u : Nat) (c : Fin 8) (x : Slot) :
    ((s.setSlotAt t c x).tile u).combine = (s.tile u).combine := by obtain ⟨_, e⟩ := tile_setSlotAt_eq s t u c x; rw [e]
@[simp] theorem tile_setSlotAt_timers (s : State) (t u : Nat) (c : Fin 8) (x : Slot) :
    ((s.setSlotAt t c x).tile u).timers = (s.tile u).timers := by obtain ⟨_, e⟩ := tile_setSlotAt_eq s t u c x; rw [e]
@[simp] theorem tile_setSlotAt_burst (s : State) (t u : Nat) (c : Fin 8) (x : Slot) :
    ((s.setSlotAt t c x).tile u).burst = (s.tile u).burst := by obtain ⟨_, e⟩ := tile_setSlotAt_eq s t u c x; rw [e]
@[simp] theorem tile_setSlotAt_burstReq (s : State) (t u : Nat) (c : Fin 8) (x : Slot) :
    ((s.setSlotAt t c x).tile u).burstReq = (s.tile u).burstReq := by obtain ⟨_, e⟩ := tile_setSlotAt_eq s t u c x; rw [e]
@[simp] theorem tile_setSlotAt_burstRes (s : State) (t u : Nat) (c : Fin 8) (x : Slot) :
    ((s.setSlotAt t c x).tile u).burstRes = (s.tile u).burstRes := by obtain ⟨_, e⟩ := tile_setSlotAt_eq s t u c x; rw [e]
@[simp] theorem tile_setSlotAt_burstAct (s : State) (t u : Nat) (c : Fin 8) (x : Slot) :
    ((s.setSlotAt t c x).tile u).burstAct = (s.tile u).burstAct := by obtain ⟨_, e⟩ := tile_setSlotAt_eq s t u c x; rw [e]
@[simp] theorem tile_setSlotAt_rburst (s : State) (t u : Nat) (c : Fin 8) (x : Slot) :
    ((s.setSlotAt t c x).tile u).rburst = (s.tile u).rburst := by obtain ⟨_, e⟩ := tile_setSlotAt_eq s t u c x; rw [e]
@[simp] theorem tile_setSlotAt_vlast (s : State) (t u : Nat) (c : Fin 8) (x : Slot) :
    ((s.setSlotAt t c x).tile u).vlast = (s.tile u).vlast := by obtain ⟨_, e⟩ := tile_setSlotAt_eq s t u c x; rw [e]
@[simp] theorem tile_setSlotAt_codeLen (s : State) (t u : Nat) (c : Fin 8) (x : Slot) :
    ((s.setSlotAt t c x).tile u).codeLen = (s.tile u).codeLen := by obtain ⟨_, e⟩ := tile_setSlotAt_eq s t u c x; rw [e]
@[simp] theorem tile_setSlotAt_inval (s : State) (t u : Nat) (c : Fin 8) (x : Slot) :
    ((s.setSlotAt t c x).tile u).inval = (s.tile u).inval := by obtain ⟨_, e⟩ := tile_setSlotAt_eq s t u c x; rw [e]
@[simp] theorem tile_setSlotAt_acks (s : State) (t u : Nat) (c : Fin 8) (x : Slot) :
    ((s.setSlotAt t c x).tile u).acks = (s.tile u).acks := by obtain ⟨_, e⟩ := tile_setSlotAt_eq s t u c x; rw [e]
@[simp] theorem tile_setSlotAt_lastTenant (s : State) (t u : Nat) (c : Fin 8) (x : Slot) :
    ((s.setSlotAt t c x).tile u).lastTenant = (s.tile u).lastTenant := by obtain ⟨_, e⟩ := tile_setSlotAt_eq s t u c x; rw [e]
@[simp] theorem tile_setSlotAt_lastVTenant (s : State) (t u : Nat) (c : Fin 8) (x : Slot) :
    ((s.setSlotAt t c x).tile u).lastVTenant = (s.tile u).lastVTenant := by obtain ⟨_, e⟩ := tile_setSlotAt_eq s t u c x; rw [e]
@[simp] theorem tile_setSlotAt_refill (s : State) (t u : Nat) (c : Fin 8) (x : Slot) :
    ((s.setSlotAt t c x).tile u).refill = (s.tile u).refill := by obtain ⟨_, e⟩ := tile_setSlotAt_eq s t u c x; rw [e]
@[simp] theorem tile_setSlotAt_inNet (s : State) (t u : Nat) (c : Fin 8) (x : Slot) :
    ((s.setSlotAt t c x).tile u).inNet = (s.tile u).inNet := by obtain ⟨_, e⟩ := tile_setSlotAt_eq s t u c x; rw [e]
@[simp] theorem tile_setSlotAt_slotUsed (s : State) (t u : Nat) (c : Fin 8) (x : Slot) :
    ((s.setSlotAt t c x).tile u).slotUsed = (s.tile u).slotUsed := by obtain ⟨_, e⟩ := tile_setSlotAt_eq s t u c x; rw [e]
@[simp] theorem tile_setSlotAt_vslotUsed (s : State) (t u : Nat) (c : Fin 8) (x : Slot) :
    ((s.setSlotAt t c x).tile u).vslotUsed = (s.tile u).vslotUsed := by obtain ⟨_, e⟩ := tile_setSlotAt_eq s t u c x; rw [e]
@[simp] theorem tile_setSlotAt_didBind (s : State) (t u : Nat) (c : Fin 8) (x : Slot) :
    ((s.setSlotAt t c x).tile u).didBind = (s.tile u).didBind := by obtain ⟨_, e⟩ := tile_setSlotAt_eq s t u c x; rw [e]
@[simp] theorem tile_setSlotAt_bounds (s : State) (t u : Nat) (c : Fin 8) (x : Slot) :
    ((s.setSlotAt t c x).tile u).bounds = (s.tile u).bounds := by obtain ⟨_, e⟩ := tile_setSlotAt_eq s t u c x; rw [e]
@[simp] theorem tile_setHalf_shares (s : State) (h : Half) (u : Nat) : ((s.setHalf h).tile u).shares = (s.tile u).shares :=
  tile_setSlotAt_shares _ _ _ _ _
@[simp] theorem tile_setHalf_split (s : State) (h : Half) (u : Nat) : ((s.setHalf h).tile u).split = (s.tile u).split :=
  tile_setSlotAt_split _ _ _ _ _
@[simp] theorem tile_setHalf_handlers (s : State) (h : Half) (u : Nat) : ((s.setHalf h).tile u).handlers = (s.tile u).handlers :=
  tile_setSlotAt_handlers _ _ _ _ _
@[simp] theorem tile_setHalf_inbox (s : State) (h : Half) (u : Nat) : ((s.setHalf h).tile u).inbox = (s.tile u).inbox :=
  tile_setSlotAt_inbox _ _ _ _ _
@[simp] theorem tile_setHalf_portQ (s : State) (h : Half) (u : Nat) : ((s.setHalf h).tile u).portQ = (s.tile u).portQ :=
  tile_setSlotAt_portQ _ _ _ _ _
@[simp] theorem tile_setHalf_chans (s : State) (h : Half) (u : Nat) : ((s.setHalf h).tile u).chans = (s.tile u).chans :=
  tile_setSlotAt_chans _ _ _ _ _
@[simp] theorem tile_setHalf_wchans (s : State) (h : Half) (u : Nat) : ((s.setHalf h).tile u).wchans = (s.tile u).wchans :=
  tile_setSlotAt_wchans _ _ _ _ _
@[simp] theorem tile_setHalf_tlb (s : State) (h : Half) (u : Nat) : ((s.setHalf h).tile u).tlb = (s.tile u).tlb :=
  tile_setSlotAt_tlb _ _ _ _ _
@[simp] theorem tile_setHalf_tlbPtr (s : State) (h : Half) (u : Nat) : ((s.setHalf h).tile u).tlbPtr = (s.tile u).tlbPtr :=
  tile_setSlotAt_tlbPtr _ _ _ _ _
@[simp] theorem tile_setHalf_rcache (s : State) (h : Half) (u : Nat) : ((s.setHalf h).tile u).rcache = (s.tile u).rcache :=
  tile_setSlotAt_rcache _ _ _ _ _
@[simp] theorem tile_setHalf_rdcache (s : State) (h : Half) (u : Nat) : ((s.setHalf h).tile u).rdcache = (s.tile u).rdcache :=
  tile_setSlotAt_rdcache _ _ _ _ _
@[simp] theorem tile_setHalf_bnd (s : State) (h : Half) (u : Nat) : ((s.setHalf h).tile u).bnd = (s.tile u).bnd :=
  tile_setSlotAt_bnd _ _ _ _ _
@[simp] theorem tile_setHalf_bndflag (s : State) (h : Half) (u : Nat) : ((s.setHalf h).tile u).bndflag = (s.tile u).bndflag :=
  tile_setSlotAt_bndflag _ _ _ _ _
@[simp] theorem tile_setHalf_grpslot (s : State) (h : Half) (u : Nat) : ((s.setHalf h).tile u).grpslot = (s.tile u).grpslot :=
  tile_setSlotAt_grpslot _ _ _ _ _
@[simp] theorem tile_setHalf_barriers (s : State) (h : Half) (u : Nat) : ((s.setHalf h).tile u).barriers = (s.tile u).barriers :=
  tile_setSlotAt_barriers _ _ _ _ _
@[simp] theorem tile_setHalf_engines (s : State) (h : Half) (u : Nat) : ((s.setHalf h).tile u).engines = (s.tile u).engines :=
  tile_setSlotAt_engines _ _ _ _ _
@[simp] theorem tile_setHalf_combine (s : State) (h : Half) (u : Nat) : ((s.setHalf h).tile u).combine = (s.tile u).combine :=
  tile_setSlotAt_combine _ _ _ _ _
@[simp] theorem tile_setHalf_timers (s : State) (h : Half) (u : Nat) : ((s.setHalf h).tile u).timers = (s.tile u).timers :=
  tile_setSlotAt_timers _ _ _ _ _
@[simp] theorem tile_setHalf_burst (s : State) (h : Half) (u : Nat) : ((s.setHalf h).tile u).burst = (s.tile u).burst :=
  tile_setSlotAt_burst _ _ _ _ _
@[simp] theorem tile_setHalf_burstReq (s : State) (h : Half) (u : Nat) : ((s.setHalf h).tile u).burstReq = (s.tile u).burstReq :=
  tile_setSlotAt_burstReq _ _ _ _ _
@[simp] theorem tile_setHalf_burstRes (s : State) (h : Half) (u : Nat) : ((s.setHalf h).tile u).burstRes = (s.tile u).burstRes :=
  tile_setSlotAt_burstRes _ _ _ _ _
@[simp] theorem tile_setHalf_burstAct (s : State) (h : Half) (u : Nat) : ((s.setHalf h).tile u).burstAct = (s.tile u).burstAct :=
  tile_setSlotAt_burstAct _ _ _ _ _
@[simp] theorem tile_setHalf_rburst (s : State) (h : Half) (u : Nat) : ((s.setHalf h).tile u).rburst = (s.tile u).rburst :=
  tile_setSlotAt_rburst _ _ _ _ _
@[simp] theorem tile_setHalf_vlast (s : State) (h : Half) (u : Nat) : ((s.setHalf h).tile u).vlast = (s.tile u).vlast :=
  tile_setSlotAt_vlast _ _ _ _ _
@[simp] theorem tile_setHalf_codeLen (s : State) (h : Half) (u : Nat) : ((s.setHalf h).tile u).codeLen = (s.tile u).codeLen :=
  tile_setSlotAt_codeLen _ _ _ _ _
@[simp] theorem tile_setHalf_inval (s : State) (h : Half) (u : Nat) : ((s.setHalf h).tile u).inval = (s.tile u).inval :=
  tile_setSlotAt_inval _ _ _ _ _
@[simp] theorem tile_setHalf_acks (s : State) (h : Half) (u : Nat) : ((s.setHalf h).tile u).acks = (s.tile u).acks :=
  tile_setSlotAt_acks _ _ _ _ _
@[simp] theorem tile_setHalf_lastTenant (s : State) (h : Half) (u : Nat) : ((s.setHalf h).tile u).lastTenant = (s.tile u).lastTenant :=
  tile_setSlotAt_lastTenant _ _ _ _ _
@[simp] theorem tile_setHalf_lastVTenant (s : State) (h : Half) (u : Nat) : ((s.setHalf h).tile u).lastVTenant = (s.tile u).lastVTenant :=
  tile_setSlotAt_lastVTenant _ _ _ _ _
@[simp] theorem tile_setHalf_refill (s : State) (h : Half) (u : Nat) : ((s.setHalf h).tile u).refill = (s.tile u).refill :=
  tile_setSlotAt_refill _ _ _ _ _
@[simp] theorem tile_setHalf_inNet (s : State) (h : Half) (u : Nat) : ((s.setHalf h).tile u).inNet = (s.tile u).inNet :=
  tile_setSlotAt_inNet _ _ _ _ _
@[simp] theorem tile_setHalf_slotUsed (s : State) (h : Half) (u : Nat) : ((s.setHalf h).tile u).slotUsed = (s.tile u).slotUsed :=
  tile_setSlotAt_slotUsed _ _ _ _ _
@[simp] theorem tile_setHalf_vslotUsed (s : State) (h : Half) (u : Nat) : ((s.setHalf h).tile u).vslotUsed = (s.tile u).vslotUsed :=
  tile_setSlotAt_vslotUsed _ _ _ _ _
@[simp] theorem tile_setHalf_didBind (s : State) (h : Half) (u : Nat) : ((s.setHalf h).tile u).didBind = (s.tile u).didBind :=
  tile_setSlotAt_didBind _ _ _ _ _
@[simp] theorem tile_setHalf_bounds (s : State) (h : Half) (u : Nat) : ((s.setHalf h).tile u).bounds = (s.tile u).bounds :=
  tile_setSlotAt_bounds _ _ _ _ _
@[simp] theorem tile_after_shares (s : State) (r : Reg) (u : Nat) : ((s.after r).tile u).shares = (s.tile u).shares :=
  tile_setSlotAt_shares _ _ _ _ _
@[simp] theorem tile_after_split (s : State) (r : Reg) (u : Nat) : ((s.after r).tile u).split = (s.tile u).split :=
  tile_setSlotAt_split _ _ _ _ _
@[simp] theorem tile_after_handlers (s : State) (r : Reg) (u : Nat) : ((s.after r).tile u).handlers = (s.tile u).handlers :=
  tile_setSlotAt_handlers _ _ _ _ _
@[simp] theorem tile_after_inbox (s : State) (r : Reg) (u : Nat) : ((s.after r).tile u).inbox = (s.tile u).inbox :=
  tile_setSlotAt_inbox _ _ _ _ _
@[simp] theorem tile_after_portQ (s : State) (r : Reg) (u : Nat) : ((s.after r).tile u).portQ = (s.tile u).portQ :=
  tile_setSlotAt_portQ _ _ _ _ _
@[simp] theorem tile_after_chans (s : State) (r : Reg) (u : Nat) : ((s.after r).tile u).chans = (s.tile u).chans :=
  tile_setSlotAt_chans _ _ _ _ _
@[simp] theorem tile_after_wchans (s : State) (r : Reg) (u : Nat) : ((s.after r).tile u).wchans = (s.tile u).wchans :=
  tile_setSlotAt_wchans _ _ _ _ _
@[simp] theorem tile_after_tlb (s : State) (r : Reg) (u : Nat) : ((s.after r).tile u).tlb = (s.tile u).tlb :=
  tile_setSlotAt_tlb _ _ _ _ _
@[simp] theorem tile_after_tlbPtr (s : State) (r : Reg) (u : Nat) : ((s.after r).tile u).tlbPtr = (s.tile u).tlbPtr :=
  tile_setSlotAt_tlbPtr _ _ _ _ _
@[simp] theorem tile_after_rcache (s : State) (r : Reg) (u : Nat) : ((s.after r).tile u).rcache = (s.tile u).rcache :=
  tile_setSlotAt_rcache _ _ _ _ _
@[simp] theorem tile_after_rdcache (s : State) (r : Reg) (u : Nat) : ((s.after r).tile u).rdcache = (s.tile u).rdcache :=
  tile_setSlotAt_rdcache _ _ _ _ _
@[simp] theorem tile_after_bnd (s : State) (r : Reg) (u : Nat) : ((s.after r).tile u).bnd = (s.tile u).bnd :=
  tile_setSlotAt_bnd _ _ _ _ _
@[simp] theorem tile_after_bndflag (s : State) (r : Reg) (u : Nat) : ((s.after r).tile u).bndflag = (s.tile u).bndflag :=
  tile_setSlotAt_bndflag _ _ _ _ _
@[simp] theorem tile_after_grpslot (s : State) (r : Reg) (u : Nat) : ((s.after r).tile u).grpslot = (s.tile u).grpslot :=
  tile_setSlotAt_grpslot _ _ _ _ _
@[simp] theorem tile_after_barriers (s : State) (r : Reg) (u : Nat) : ((s.after r).tile u).barriers = (s.tile u).barriers :=
  tile_setSlotAt_barriers _ _ _ _ _
@[simp] theorem tile_after_engines (s : State) (r : Reg) (u : Nat) : ((s.after r).tile u).engines = (s.tile u).engines :=
  tile_setSlotAt_engines _ _ _ _ _
@[simp] theorem tile_after_combine (s : State) (r : Reg) (u : Nat) : ((s.after r).tile u).combine = (s.tile u).combine :=
  tile_setSlotAt_combine _ _ _ _ _
@[simp] theorem tile_after_timers (s : State) (r : Reg) (u : Nat) : ((s.after r).tile u).timers = (s.tile u).timers :=
  tile_setSlotAt_timers _ _ _ _ _
@[simp] theorem tile_after_burst (s : State) (r : Reg) (u : Nat) : ((s.after r).tile u).burst = (s.tile u).burst :=
  tile_setSlotAt_burst _ _ _ _ _
@[simp] theorem tile_after_burstReq (s : State) (r : Reg) (u : Nat) : ((s.after r).tile u).burstReq = (s.tile u).burstReq :=
  tile_setSlotAt_burstReq _ _ _ _ _
@[simp] theorem tile_after_burstRes (s : State) (r : Reg) (u : Nat) : ((s.after r).tile u).burstRes = (s.tile u).burstRes :=
  tile_setSlotAt_burstRes _ _ _ _ _
@[simp] theorem tile_after_burstAct (s : State) (r : Reg) (u : Nat) : ((s.after r).tile u).burstAct = (s.tile u).burstAct :=
  tile_setSlotAt_burstAct _ _ _ _ _
@[simp] theorem tile_after_rburst (s : State) (r : Reg) (u : Nat) : ((s.after r).tile u).rburst = (s.tile u).rburst :=
  tile_setSlotAt_rburst _ _ _ _ _
@[simp] theorem tile_after_vlast (s : State) (r : Reg) (u : Nat) : ((s.after r).tile u).vlast = (s.tile u).vlast :=
  tile_setSlotAt_vlast _ _ _ _ _
@[simp] theorem tile_after_codeLen (s : State) (r : Reg) (u : Nat) : ((s.after r).tile u).codeLen = (s.tile u).codeLen :=
  tile_setSlotAt_codeLen _ _ _ _ _
@[simp] theorem tile_after_inval (s : State) (r : Reg) (u : Nat) : ((s.after r).tile u).inval = (s.tile u).inval :=
  tile_setSlotAt_inval _ _ _ _ _
@[simp] theorem tile_after_acks (s : State) (r : Reg) (u : Nat) : ((s.after r).tile u).acks = (s.tile u).acks :=
  tile_setSlotAt_acks _ _ _ _ _
@[simp] theorem tile_after_lastTenant (s : State) (r : Reg) (u : Nat) : ((s.after r).tile u).lastTenant = (s.tile u).lastTenant :=
  tile_setSlotAt_lastTenant _ _ _ _ _
@[simp] theorem tile_after_lastVTenant (s : State) (r : Reg) (u : Nat) : ((s.after r).tile u).lastVTenant = (s.tile u).lastVTenant :=
  tile_setSlotAt_lastVTenant _ _ _ _ _
@[simp] theorem tile_after_refill (s : State) (r : Reg) (u : Nat) : ((s.after r).tile u).refill = (s.tile u).refill :=
  tile_setSlotAt_refill _ _ _ _ _
@[simp] theorem tile_after_inNet (s : State) (r : Reg) (u : Nat) : ((s.after r).tile u).inNet = (s.tile u).inNet :=
  tile_setSlotAt_inNet _ _ _ _ _
@[simp] theorem tile_after_slotUsed (s : State) (r : Reg) (u : Nat) : ((s.after r).tile u).slotUsed = (s.tile u).slotUsed :=
  tile_setSlotAt_slotUsed _ _ _ _ _
@[simp] theorem tile_after_vslotUsed (s : State) (r : Reg) (u : Nat) : ((s.after r).tile u).vslotUsed = (s.tile u).vslotUsed :=
  tile_setSlotAt_vslotUsed _ _ _ _ _
@[simp] theorem tile_after_didBind (s : State) (r : Reg) (u : Nat) : ((s.after r).tile u).didBind = (s.tile u).didBind :=
  tile_setSlotAt_didBind _ _ _ _ _
@[simp] theorem tile_after_bounds (s : State) (r : Reg) (u : Nat) : ((s.after r).tile u).bounds = (s.tile u).bounds :=
  tile_setSlotAt_bounds _ _ _ _ _

/-- The share of the current context, its tile word and side do not depend on its half. -/
@[simp] theorem share_setHalf (s : State) (h : Half) : (s.setHalf h).share = s.share := by
  show (if (s.setHalf h).slot.act.msg.wicket then _ else _) = _
  simp only [slot_setHalf, tile_setHalf_split, setHalf_cur, setHalf_ctx]
  rfl
@[simp] theorem share_after (s : State) (r : Reg) : (s.after r).share = s.share := share_setHalf s _
@[simp] theorem cur_after (s : State) (r : Reg) : (s.after r).cur = s.cur := rfl
@[simp] theorem ctx_after (s : State) (r : Reg) : (s.after r).ctx = s.ctx := rfl
@[simp] theorem mem_after (s : State) (r : Reg) : (s.after r).mem = s.mem := rfl
@[simp] theorem reflexSide_after (s : State) (r : Reg) : (s.after r).reflexSide = s.reflexSide := by
  simp [State.reflexSide, State.after, Slot.seizing]
@[simp] theorem pid_after (s : State) (r : Reg) : (s.after r).pid = s.pid := by
  simp [State.pid, Tile.share]

end Sys2Proof.Machine
end

