-- ==== Sys2Proof/Laws/Keeps.lean ====
section
/-! SUPPORT. Which actions keep the memory's canonical form: the ways in which a meaning is put together, the shared checks and actions, and
the outcomes of an instruction and of an event. Cited by the proofs that an instruction keeps it, one action at a time. -/

namespace Sys2Proof.Machine

open Sys2Proof

/-- A stop leaves a safe state: what it does to the state, or the state that it carries. -/
def Stop.Keeps : Stop → Prop
  | .waitIn _ f | .trapOn f _ => ∀ s : State, s.Safe → (f s).Safe
  | .trapIn s _ => s.Safe
  | _ => True
/-- An action that starts in a safe state ends in one, or in a stop that leaves one. -/
def Keeps {α : Type} (m : Exec α) : Prop :=
  ∀ s : State, s.Safe → (∀ a t, m s = .ok (a, t) → t.Safe) ∧ ∀ x, m s = .error x → x.Keeps
/-- A meaning that answers a next state of a safe state answers a safe one. -/
def KeepsNext (m : State → Host.Outcome State Fault Refusal) : Prop := ∀ s t : State, s.Safe → m s = .next t → t.Safe

/-! ### How actions are put together -/

theorem keeps_pure {α : Type} (a : α) : Keeps (pure a : Exec α) := by
  intro s h
  refine ⟨fun b t e => ?_, fun x e => by cases e⟩
  cases e
  exact h
theorem keeps_get : Keeps (get : Exec State) := by
  intro s h
  refine ⟨fun b t e => ?_, fun x e => by cases e⟩
  cases e
  exact h
theorem keeps_bind {α β : Type} {m : Exec α} {k : α → Exec β} (hm : Keeps m) (hk : ∀ a, Keeps (k a)) : Keeps (m >>= k) := by
  intro s h
  rw [exec_bind]
  cases e : m s with
  | error x => exact ⟨fun b t e' => by simp at e', fun y e' => by simp at e'; exact e' ▸ (hm s h).2 x e⟩
  | ok r => exact hk r.1 r.2 ((hm s h).1 r.1 r.2 e)
/-- What is read from the state is that state's. -/
theorem keeps_get_bind {α : Type} {k : State → Exec α} (hk : ∀ s : State, s.Safe → Keeps (k s)) : Keeps (get >>= k) := by
  intro s h
  exact hk s h s h
theorem keeps_ite {α : Type} {c : Prop} [Decidable c] {m n : Exec α} (hm : c → Keeps m) (hn : ¬ c → Keeps n) : Keeps (if c then m else n) := by
  split
  · exact hm ‹_›
  · exact hn ‹_›
theorem keeps_update {f : State → State} (hf : ∀ s : State, s.Safe → (f s).Safe) : Keeps (update f) := by
  intro s h
  refine ⟨fun b t e => ?_, fun x e => by cases e⟩
  cases e
  exact hf s h
theorem keeps_stop {α : Type} {x : Stop} (hx : x.Keeps) : Keeps (stop x : Exec α) := by
  intro s _
  refine ⟨fun b t e => (by cases e), fun y e => ?_⟩
  cases e
  exact hx
/-- An update that leaves the memory alone. -/
theorem keeps_update_mem {f : State → State} (hf : ∀ s : State, (f s).mem = s.mem) : Keeps (update f) :=
  keeps_update fun s h => by unfold State.Safe; rw [hf]; exact h

/-! ### Shared checks and actions -/

theorem keeps_trap {α : Type} (c r : Nat) (f : Word) : Keeps (trap c r f : Exec α) := keeps_stop trivial
theorem keeps_wait {α : Type} (k : WaitOn) : Keeps (wait k : Exec α) := keeps_stop trivial
theorem keeps_check (b : Bool) (c r : Nat) (f : Word) : Keeps (check b c r f) := keeps_ite (fun _ => keeps_pure ()) fun _ => keeps_trap c r f
theorem keeps_requireOperand (b : Bool) : Keeps (requireOperand b) := keeps_check b 0x21 0 0#64
theorem keeps_waitUntil (b : Bool) (k : WaitOn) : Keeps (waitUntil b k) := keeps_ite (fun _ => keeps_pure ()) fun _ => keeps_wait k
theorem keeps_rd (r : Reg) : Keeps (rd r) := by
  intro s h
  refine ⟨fun b t e => ?_, fun x e => by cases e⟩
  cases e
  exact h
theorem keeps_wrPush (d : Reg) (v : Word) : Keeps (wrPush d v) := keeps_update_mem fun _ => rfl
theorem keeps_markNonReplayable : Keeps markNonReplayable := keeps_update_mem fun _ => rfl
theorem keeps_orderHere : Keeps orderHere := keeps_update_mem fun _ => rfl
theorem keeps_acquireWait (k : WaitOn) : Keeps (acquireWait k) :=
  keeps_get_bind fun s _ => keeps_bind (keeps_waitUntil (decide (s.half.loads = [])) k) fun _ => keeps_orderHere
theorem keeps_vectorIdle : Keeps vectorIdle :=
  keeps_get_bind fun s _ => keeps_waitUntil (decide (s.half.vq = []) && s.half.boundTrap.isNone) .vector
theorem keeps_privileged (ok : Nat → Bool) : Keeps (privileged ok) := keeps_get_bind fun s _ => keeps_check (ok s.cur) 0x30 0 0#64
theorem keeps_checkWin (t ti : Nat) (ea : Int) (n : Nat) (k : AccKind) : Keeps (checkWin t ti ea n k) := by
  unfold checkWin
  refine keeps_get_bind fun s _ => ?_
  split
  · exact keeps_trap _ _ _
  · exact keeps_pure _
/-- The probes that a release waits for leave the memory alone. -/
theorem releaseStop_mem {s : State} {vec : Bool} {scope : Nat} {f : State → State} (h : s.releaseStop vec scope = some f) (u : State) :
    (f u).mem = u.mem := by
  unfold State.releaseStop at h
  dsimp only at h
  repeat' split at h
  all_goals first | cases h; rfl | simp at h
theorem keeps_releaseWait (scope : Nat) (vec : Bool) (k : WaitOn) : Keeps (releaseWait scope vec k) := by
  unfold releaseWait
  refine keeps_get_bind fun s _ => ?_
  split
  · next f h => exact keeps_stop fun u hu => by unfold State.Safe; rw [releaseStop_mem h]; exact hu
  · exact keeps_orderHere
theorem keeps_checkOut (n : Nat) : Keeps (checkOut n) := keeps_get_bind fun _ _ => keeps_check _ _ _ _
theorem keeps_appendOut (n : Nat) (k : OutKind) : Keeps (appendOut n k) :=
  keeps_bind (keeps_checkOut n) fun _ => keeps_update_mem fun _ => rfl
theorem keeps_liftT {α : Type} (e : Except Trap α) : Keeps (liftT e) := by
  intro s h
  unfold liftT
  cases e with
  | ok x => exact ⟨fun a t e => by cases e; exact h, fun x e => by cases e⟩
  | error x => exact ⟨fun a t e => (by cases e), fun x e => by cases e; exact trivial⟩
/-- What a line's way into the shared cache and out of it may change: the cache, the open rows, the poison and the frames that controllers record,
the logs. All else stands (R63, R79, R82, R483). -/
def State.CacheOnly (s u : State) : Prop :=
  u = { s with l2 := u.l2, rows := u.rows, fresh := u.fresh, poison := u.poison, frames := u.frames, sys := u.sys, fns := u.fns }
theorem State.CacheOnly.refl (s : State) : s.CacheOnly s := rfl
theorem State.CacheOnly.trans {s u v : State} (h : s.CacheOnly u) (k : u.CacheOnly v) : s.CacheOnly v := by
  unfold State.CacheOnly at *
  rw [k, h]
theorem State.CacheOnly.foldl {α : Type} {f : State → α → State} (h : ∀ (s : State) (x : α), s.CacheOnly (f s x)) (l : List α) (s : State) :
    s.CacheOnly (l.foldl f s) := by
  induction l generalizing s with
  | nil => exact rfl
  | cons x l ih => exact (h s x).trans (ih _)
theorem post_cache (s : State) (e : ErrEvent) : s.CacheOnly (s.post e) := by unfold State.CacheOnly; rw [post_eq]
theorem logOnly_cache (s : State) (e : ErrEvent) : s.CacheOnly (s.logOnly e) := by
  unfold State.CacheOnly State.logOnly; rw [enterLog_eq]
theorem quarantine_cache (s : State) (f c : Nat) : s.CacheOnly (s.quarantine f c) := by
  unfold State.quarantine
  dsimp only
  split
  · exact State.CacheOnly.trans (u := s.modSys fun y => { y with uncontained := true }) rfl (post_cache _ _)
  · have h : ∀ e, s.CacheOnly (State.post { (s.modSys fun y => { y with quar := nInsert f y.quar }) with
        frames := s.frames.set f (bits (s.frame f) 7 4 * 16 + 6), poison := s.poison.filter fun k => decide (k / 64 ≠ f) } e) :=
      fun e => State.CacheOnly.trans (u := { (s.modSys fun y => { y with quar := nInsert f y.quar }) with
        frames := s.frames.set f (bits (s.frame f) 7 4 * 16 + 6), poison := s.poison.filter fun k => decide (k / 64 ≠ f) }) rfl (post_cache _ e)
    split
    · exact (h _).trans (post_cache _ _)
    · exact h _
theorem recordPoison_cache (s : State) (k : Nat) : s.CacheOnly (s.recordPoison k) := by
  unfold State.recordPoison
  split
  · rfl
  · split
    · rfl
    · split
      · rfl
      · exact quarantine_cache s _ _
theorem openRow_cache (s : State) (l : Nat) : s.CacheOnly (s.openRow l) := by unfold State.openRow; split <;> rfl
theorem writeBack_cache (s : State) (x : L2Line) : s.CacheOnly (s.writeBack x) := by
  unfold State.writeBack
  split
  · rfl
  · refine (openRow_cache s x.line).trans (State.CacheOnly.foldl (fun s j => ?_) _ _)
    split
    · exact recordPoison_cache s _
    · split <;> rfl
theorem l2Touch_cache (s : State) (l : Nat) (w : Bool) : s.CacheOnly (s.l2Touch l w) := by
  unfold State.l2Touch
  split
  · rfl
  · dsimp only
    split
    · next v _ => exact (writeBack_cache s v).trans rfl
    · rfl
theorem l2Flush_cache (s : State) (l : Nat) : s.CacheOnly (s.l2Flush l) := by
  unfold State.l2Flush
  split
  · next x _ => exact (writeBack_cache s x).trans rfl
  · rfl
theorem readError_cache (s : State) (k : Nat) : s.CacheOnly (s.readError k) := by
  unfold State.readError
  dsimp only
  split
  · exact (recordPoison_cache s k).trans (post_cache _ _)
  · exact (recordPoison_cache s k).trans (logOnly_cache _ _)
theorem ctlRead_cache (s : State) (l : Nat) : s.CacheOnly (s.ctlRead l) := by
  unfold State.ctlRead
  split
  · rfl
  · refine (openRow_cache s l).trans (State.CacheOnly.trans (u := { (s.openRow l) with fresh := s.fresh + 1 }) rfl ?_)
    exact State.CacheOnly.foldl (fun s i => readError_cache s _) _ _
theorem l2Fill_cache (s : State) (l : Nat) : s.CacheOnly (s.l2Fill l) := by
  unfold State.l2Fill
  exact ((l2Touch_cache s l false).trans (ctlRead_cache _ l)).trans rfl
theorem readLine_cache (s : State) (nc : Bool) (l : Nat) : s.CacheOnly (s.readLine nc l) := by
  unfold State.readLine
  split
  · exact (l2Flush_cache s l).trans (ctlRead_cache _ l)
  · split
    · split
      · exact l2Touch_cache s l false
      · exact l2Fill_cache s l
    · exact l2Fill_cache s l
/-- The use of a resource entry changes the tile's copies and what a fill of the shared cache changes (R58). -/
theorem useRes_eq (s : State) (t : Nat) (p : Option Nat) (i : Nat) : s.useRes t p i = { s with
    tiles := (s.useRes t p i).tiles, l2 := (s.useRes t p i).l2, rows := (s.useRes t p i).rows, fresh := (s.useRes t p i).fresh,
    poison := (s.useRes t p i).poison, frames := (s.useRes t p i).frames, sys := (s.useRes t p i).sys, fns := (s.useRes t p i).fns } := by
  unfold State.useRes
  dsimp only
  split
  · rfl
  · split
    · rfl
    · rw [readLine_cache s false (lineOf ((s.launchOf p).resBase + 64 * i))]
      rfl
theorem useRes_mem (s : State) (t : Nat) (p : Option Nat) (i : Nat) : (s.useRes t p i).mem = s.mem := by rw [useRes_eq]
theorem used_mem (s : State) (i : Nat) : (s.used i).mem = s.mem := useRes_mem s s.cur s.pid i
/-- A check that fails after the use of a resource entry. -/
theorem keeps_trapUsed {α : Type} (i : Nat) (t : Trap) : Keeps (stop (.trapOn (fun s => s.used i) t) : Exec α) :=
  keeps_stop fun u hu => by unfold State.Safe; rw [used_mem]; exact hu
theorem keeps_checkResource (idx off size acc : Nat) : Keeps (checkResource idx off size acc) := by
  unfold checkResource
  refine keeps_get_bind fun s _ => ?_
  split
  · exact keeps_bind (keeps_update_mem fun s => used_mem s idx) fun _ => keeps_pure _
  · exact keeps_trapUsed idx _
theorem keeps_checkUsed (idx : Nat) (b : Bool) (c r : Nat) (f : Word) : Keeps (checkUsed idx b c r f) :=
  keeps_ite (fun _ => keeps_pure ()) fun _ => keeps_trapUsed idx _
theorem keeps_globalPath (idx off size acc : Nat) : Keeps (globalPath idx off size acc) := by
  unfold globalPath globalPathOf
  refine keeps_bind (keeps_checkResource _ _ _ _) fun r => keeps_get_bind fun s _ => ?_
  split
  · exact keeps_pure _
  · exact keeps_trapUsed idx _
theorem keeps_sliceAccess (o : SliceOp) : Keeps (sliceAccess o) := keeps_update_mem fun _ => rfl
theorem keeps_pendingLoad (l : PendLoad) : Keeps (pendingLoad l) := keeps_update_mem fun _ => rfl
theorem keeps_raiseFlags (f : Flags) : Keeps (raiseFlags f) := keeps_update_mem fun _ => rfl
theorem keeps_freshId : Keeps freshId := by
  intro s h
  refine ⟨fun b t e => ?_, fun x e => by cases e⟩
  cases e
  exact h
theorem keeps_ownWait (ea n : Nat) : Keeps (ownWait ea n) := keeps_get_bind fun _ _ => keeps_waitUntil _ _
theorem safe_senseWin (ea n : Nat) (s : State) (h : s.Safe) : (s.senseWin s.cur s.share ea n).Safe := by
  unfold State.Safe
  rw [show (s.senseWin s.cur s.share ea n).mem = s.mem from mem_reads s ea n]
  exact h
theorem keeps_readOwn (ea n : Nat) : Keeps (readOwn ea n) := by
  unfold readOwn
  refine keeps_bind (keeps_ownWait ea n) fun _ => keeps_bind (keeps_update (safe_senseWin ea n)) fun _ => keeps_get_bind fun s _ => ?_
  split
  · exact keeps_bind (keeps_stop (safe_senseWin ea n)) fun _ => keeps_pure _
  · exact keeps_pure _
theorem logLines_mem {s t : State} {x : Nat} {c : Fin 8} {ea n : Nat} (h : s.logLines x c ea n = some t) : t.mem = s.mem := by
  unfold State.logLines at h
  dsimp only at h
  repeat' split at h
  · cases h; rfl
  · simp at h
  · cases h; exact mem_sense s _
theorem keeps_logWrite (ea n : Nat) : Keeps (logWrite ea n) := by
  intro s h
  unfold logWrite
  cases e : s.logLines s.cur s.ctx ea n with
  | some u => exact ⟨fun a t e' => by cases e'; unfold State.Safe; rw [logLines_mem e]; exact h, fun x e' => by cases e'⟩
  | none => exact ⟨fun a t e' => (by cases e'), fun x e' => by cases e'; exact trivial⟩
/-- A store to the own window. -/
theorem keeps_storeOwn (ea : Nat) (bs : List Byte) : Keeps (storeOwn ea bs) :=
  keeps_bind (keeps_ownWait _ _) fun _ => keeps_bind (keeps_logWrite _ _) fun _ => keeps_update fun s h => wf_writeWin h s.cur s.share ea bs
theorem keeps_recordAddr (ea : Word) (k : AccKind) : Keeps (recordAddr ea k) :=
  keeps_bind (keeps_requireOperand _) fun _ => keeps_get_bind fun _ _ => keeps_checkWin _ _ _ _ _
theorem keeps_targetTile (w : Nat) : Keeps (targetTile w) := by
  unfold targetTile
  refine keeps_get_bind fun s _ => ?_
  split
  · exact keeps_pure _
  · exact keeps_trap _ _ _
theorem keeps_payloadWord (w : Word) (n : Nat) : Keeps (payloadWord w n) :=
  keeps_bind (keeps_requireOperand _) fun _ => keeps_bind (keeps_requireOperand _) fun _ => keeps_pure _
theorem keeps_bodyOwn (a n : Nat) : Keeps (bodyOwn a n) :=
  keeps_get_bind fun _ _ => keeps_bind (keeps_checkWin _ _ _ _ _) fun _ => keeps_bind (keeps_ownWait a n) fun _ =>
    keeps_bind (keeps_update (safe_senseWin a n)) fun _ => keeps_get_bind fun _ _ => keeps_pure _

/-! ### Outcomes -/

@[simp] theorem post_mem (s : State) (e : ErrEvent) : (s.post e).mem = s.mem := by rw [post_eq]
theorem takeTrapAt_mem (s : State) (t : Nat) (c : Fin 8) (a : Word) (x : Trap) : (s.takeTrapAt t c a x).mem = s.mem := by
  unfold State.takeTrapAt
  dsimp only
  repeat' split
  all_goals first | rfl | exact post_mem _ _
theorem takeTrap_mem (s : State) (a : Word) (x : Trap) : (s.takeTrap a x).mem = s.mem := takeTrapAt_mem s s.cur s.ctx a x
theorem stopped_safe {s t : State} {n : Nat} {x : Stop} (h : s.Safe) (hx : x.Keeps) (e : s.stopped n x = .next t) : t.Safe := by
  unfold State.Safe
  cases x with
  | wait k => cases e; exact h
  | waitIn k f => cases e; exact hx s h
  | trap y => cases e; rw [takeTrap_mem]; exact h
  | trapIn u y => cases e; rw [takeTrap_mem]; exact hx
  | trapOn f y => cases e; rw [takeTrap_mem]; exact hx s h
  | fault f => cases e
theorem issueStop_keeps {o : Op} {s : State} {x : Stop} (h : issueStop o s = some x) : x.Keeps := by
  unfold issueStop at h
  dsimp only at h
  repeat' split at h
  all_goals first | cases h; exact trivial | simp at h
/-- An instruction whose body keeps the form keeps it. -/
theorem keeps_issue {o : Op} {body : Exec Flow} (hb : Keeps body) : KeepsNext (issue o body) := by
  intro s t h e
  unfold issue at e
  split at e
  · cases e
  · split at e
    · next x hx => exact stopped_safe h (issueStop_keeps hx) e
    · split at e
      · next f u hu => cases e; exact (hb s h).1 f u hu
      · next x hx => exact stopped_safe h ((hb s h).2 x hx) e
theorem keeps_issueValue {o : Op} {d : Reg} {body : Exec Word} (hb : Keeps body) : KeepsNext (issueValue o d body) :=
  keeps_issue (keeps_bind hb fun v => keeps_bind (keeps_wrPush d v) fun _ => keeps_pure Flow.next)
/-- An event whose effect keeps the form keeps it. -/
theorem keeps_event {m : String} {r : State → Option State} (hr : ∀ s t : State, s.Safe → r s = some t → t.Safe) :
    KeepsNext fun s => event m (r s) := by
  intro s t h e
  dsimp only [event] at e
  split at e
  · next u hu => cases e; exact hr s t h hu
  · cases e

/-! ### Whole instructions -/

theorem keeps_binary (b a d : Reg) (f : Word → Word → Word) : KeepsNext (binary b a d f) :=
  keeps_issueValue (keeps_bind (keeps_rd a) fun _ => keeps_bind (keeps_rd b) fun _ => keeps_pure _)
theorem keeps_unary (a d : Reg) (f : Word → Word) : KeepsNext (unary a d f) :=
  keeps_issueValue (keeps_bind (keeps_rd a) fun _ => keeps_pure _)
theorem keeps_loadOwn (o : Op) (y : MemType) (off : Int) (base d : Reg) : KeepsNext (loadOwn o y off base d) :=
  keeps_issueValue (keeps_bind (keeps_rd base) fun _ => keeps_get_bind fun _ _ => keeps_bind (keeps_checkWin _ _ _ _ _) fun _ =>
    keeps_bind (keeps_readOwn _ _) fun _ => keeps_pure _)
theorem keeps_storeOwnForm (o : Op) (y : MemType) (off : Int) (base r : Reg) : KeepsNext (storeOwnForm o y off base r) :=
  keeps_issue (keeps_bind (keeps_rd r) fun _ => keeps_bind (keeps_rd base) fun _ => keeps_get_bind fun _ _ =>
    keeps_bind (keeps_checkWin _ _ _ _ _) fun _ => keeps_bind (keeps_storeOwn _ _) fun _ => keeps_pure _)

end Sys2Proof.Machine
end

