-- ==== Sys2Proof/Laws/Order.lean ====
section
/-! SUPPORT. An order point changes nothing but where the context's later accesses are ordered from, the use of a resource entry nothing but the
tile's resource cache; a context with nothing on its way passes every fence; where no soft error stands in memory a read changes nothing. -/

namespace Sys2Proof.Machine

open Sys2Proof

/-! ### Order points (R286) -/

theorem orderPoint_eq (s : State) (t : Nat) (c : Fin 8) :
    s.orderPoint t c = s.setTile t ((s.tile t).setCtx c { (s.tile t).ctx c with after := s.fresh }) := rfl
@[simp] theorem orderPoint_orderPoint (s : State) (t : Nat) (c : Fin 8) : (s.orderPoint t c).orderPoint t c = s.orderPoint t c := by
  simp [orderPoint_eq]
@[simp] theorem slotAt_orderPoint (s : State) (t u : Nat) (c d : Fin 8) : (s.orderPoint t c).slotAt u d = s.slotAt u d := by
  rw [orderPoint_eq]
  unfold State.slotAt
  by_cases h : t = u
  · subst h
    by_cases h2 : c = d
    · subst h2; simp; rfl
    · rw [tile_setTile, Tile.ctx_setCtx_ne _ _ h2]
  · rw [tile_setTile_ne s _ h]
/-- Of a tile, an order point changes a context alone. -/
theorem tile_orderPoint_eq (s : State) (t u : Nat) (c : Fin 8) : ∃ cs, (s.orderPoint t c).tile u = { s.tile u with ctxs := cs } := by
  rw [orderPoint_eq]
  by_cases h : t = u
  · subst h; rw [tile_setTile]; exact ⟨_, rfl⟩
  · rw [tile_setTile_ne s _ h]; exact ⟨_, rfl⟩
theorem tile_ordered_eq (s : State) (u : Nat) : ∃ cs, s.ordered.tile u = { s.tile u with ctxs := cs } := tile_orderPoint_eq s s.cur u s.ctx
@[simp] theorem cur_ordered (s : State) : s.ordered.cur = s.cur := rfl
@[simp] theorem ctx_ordered (s : State) : s.ordered.ctx = s.ctx := rfl
@[simp] theorem ordered_ordered (s : State) : s.ordered.ordered = s.ordered := orderPoint_orderPoint s s.cur s.ctx
@[simp] theorem slot_ordered (s : State) : s.ordered.slot = s.slot := slotAt_orderPoint s s.cur s.cur s.ctx s.ctx
@[simp] theorem half_ordered (s : State) : s.ordered.half = s.half := by simp [State.half]
@[simp] theorem act_ordered (s : State) : s.ordered.act = s.act := by simp [State.act]
@[simp] theorem share_ordered (s : State) : s.ordered.share = s.share := by
  obtain ⟨cs, e⟩ := tile_ordered_eq s s.cur
  have e2 : (s.ordered.tile s.cur).split = (s.tile s.cur).split := by rw [e]
  have e3 : s.ordered.slotAt s.cur s.ctx = s.slotAt s.cur s.ctx := slotAt_orderPoint s s.cur s.cur s.ctx s.ctx
  simp only [State.share, State.shareAt, cur_ordered, ctx_ordered, e2, e3]
  rfl
@[simp] theorem storesOut_ordered (s : State) : (s.ordered.tile s.cur).storesOut = (s.tile s.cur).storesOut := by
  obtain ⟨cs, e⟩ := tile_ordered_eq s s.cur
  rw [e]; rfl
@[simp] theorem toSelf_ordered (s : State) (t : Nat) (c : Fin 8) : s.ordered.toSelf t c = s.toSelf t c := by
  obtain ⟨cs, e⟩ := tile_ordered_eq s t
  have e2 : (s.ordered.tile t).portQ = (s.tile t).portQ := by rw [e]
  simp only [State.toSelf, e2]; rfl
/-- A property of some row of a sparse table stands where a row takes the place of one like it. -/
theorem any_set {α : Type} (g : α → Bool) (d : α) (hd : g d = false) (m : NMap α) (a : Nat) (v : α) (h : g v = g ((m.get? a).getD d)) :
    ((m.set a v).any fun e => g e.2) = m.any fun e => g e.2 := by
  have mem : ∀ m : NMap α, g ((m.get? a).getD d) = true → (m.any fun e => g e.2) = true := by
    intro m
    induction m with
    | nil => intro h; rw [NMap.get?, Option.getD_none, hd] at h; cases h
    | cons x r ih =>
      obtain ⟨k, w⟩ := x
      intro h
      rw [NMap.get?] at h
      split at h
      · rw [List.any_cons]; simp [show g w = true from h]
      · rw [List.any_cons, ih h, Bool.or_true]
  induction m with
  | nil => simp [NMap.set, h, NMap.get?, hd]
  | cons x r ih =>
    obtain ⟨k, w⟩ := x
    rw [NMap.set]
    split
    · rw [List.any_cons]
      cases hv : g v with
      | false => rfl
      | true => rw [mem _ (h ▸ hv)]; rfl
    · split
      · next e => rw [List.any_cons, List.any_cons]; rw [NMap.get?, if_pos e] at h; rw [h]; rfl
      · next e => rw [List.any_cons, List.any_cons]; rw [NMap.get?, if_neg e] at h; rw [ih h]
@[simp] theorem loadsAway_ordered (s : State) (t : Nat) (c : Fin 8) : s.ordered.loadsAway t c = s.loadsAway t c := by
  obtain ⟨cs, e⟩ := tile_ordered_eq s s.cur
  have e2 : (s.ordered.tile s.cur).portQ = (s.tile s.cur).portQ := by rw [e]
  have hn : s.ordered.net = s.net := rfl
  have ht : s.ordered.tiles = s.tiles.set s.cur (s.ordered.tile s.cur) := by
    have : s.ordered = s.setTile s.cur ((s.tile s.cur).setCtx s.ctx { (s.tile s.cur).ctx s.ctx with after := s.fresh }) := rfl
    rw [this, tile_setTile]; rfl
  simp only [State.loadsAway, List.any_append, List.any_flatMap, hn]
  rw [ht]
  congr 1
  exact any_set (fun x : Tile => (x.portQ.filterMap PortOp.remote?).any fun r => r.isLoad && decide (r.issuer = some (t, c))) {} rfl s.tiles s.cur _
    (by show _ = ((s.tile s.cur).portQ.filterMap PortOp.remote?).any _; rw [e2])
/-- A release asks for the same after an order point. -/
@[simp] theorem releaseStop_ordered (s : State) (vec : Bool) (scope : Nat) : s.ordered.releaseStop vec scope = s.releaseStop vec scope := by
  have e : s.ordered.src = s.src := by
    obtain ⟨cs, e⟩ := tile_ordered_eq s s.cur
    have e2 : (s.ordered.tile s.cur).shares = (s.tile s.cur).shares := by rw [e]
    simp [State.src, State.pid, Tile.share, e2]
  simp only [State.releaseStop, State.myWrites, State.myProbes, State.myOutbound, State.fn, cur_ordered, ctx_ordered, act_ordered,
    storesOut_ordered, loadsAway_ordered, toSelf_ordered, e]
  rfl

/-! ### The use of a resource entry (R58) -/

/-- Of a tile, the use of an entry changes the resource cache alone. -/
theorem tile_useRes_eq (s : State) (t : Nat) (pid : Option Nat) (idx u : Nat) :
    ∃ rc, (s.useRes t pid idx).tile u = { s.tile u with rcache := rc } := by
  have key : ∀ r : State, r.tiles = s.tiles → ∀ f : Tile → List ((Nat × Nat) × Rec512),
      ∃ rc, (r.modTile t fun x => { x with rcache := f x }).tile u = { s.tile u with rcache := rc } := by
    intro r hr f
    have hu : ∀ u, r.tile u = s.tile u := fun u => by unfold State.tile; rw [hr]
    unfold State.modTile
    by_cases h : t = u
    · subst h; rw [tile_setTile, hu]; exact ⟨_, rfl⟩
    · rw [tile_setTile_ne _ _ h, hu]; exact ⟨_, rfl⟩
  unfold State.useRes
  dsimp only
  split
  · exact ⟨_, rfl⟩
  · refine key _ ?_ _
    split
    · rfl
    · rw [readLine_cache s false (lineOf ((s.launchOf pid).resBase + 64 * idx))]
@[simp] theorem cur_used (s : State) (idx : Nat) : (s.used idx).cur = s.cur := by unfold State.used; rw [useRes_eq]
@[simp] theorem ctx_used (s : State) (idx : Nat) : (s.used idx).ctx = s.ctx := by unfold State.used; rw [useRes_eq]
@[simp] theorem slot_used (s : State) (idx : Nat) : (s.used idx).slot = s.slot := by
  obtain ⟨rc, e⟩ := tile_useRes_eq s s.cur s.pid idx s.cur
  have e2 : (s.used idx).tile s.cur = { s.tile s.cur with rcache := rc } := e
  simp only [State.slot, State.slotAt, cur_used, ctx_used, e2]
  rfl
@[simp] theorem half_used (s : State) (idx : Nat) : (s.used idx).half = s.half := by simp [State.half]
@[simp] theorem act_used (s : State) (idx : Nat) : (s.used idx).act = s.act := by simp [State.act]

/-! ### A context with nothing on its way -/

theorem calm_releaseStop {s : State} (h : s.calm) (vec : Bool) (scope : Nat) : s.releaseStop vec scope = none := by
  obtain ⟨-, -, -, hq, hs, hl, ha, ho⟩ := h
  have h1 : s.myWrites vec = [] := List.filter_eq_nil_iff.mpr fun o hm => by
    by_cases ht : o.src.tile = s.cur <;> simp [ht, hq o hm]
  have h2 : s.myProbes = [] := List.filter_eq_nil_iff.mpr fun o hm => by
    by_cases ht : o.src.tile = s.cur <;> simp [ht, hq o hm]
  have h3 : s.myOutbound vec = false := List.any_eq_false.mpr fun w hm => by
    by_cases ht : w.src.tile = s.cur <;> simp [ht, ho w hm]
  simp [State.releaseStop, h1, h2, h3, ha, hs, hl]
theorem calm_ownClear {s : State} (h : s.calm) (ea n : Nat) : s.ownClear ea n = true := by
  simp [State.ownClear, h.2.2.2.2.1]

/-! ### Reads without a soft error (R110) -/

theorem reads_noFlips {s : State} (h : s.flips = []) (ea n : Nat) : s.reads ea n = s := by
  simp [State.reads, State.senseWin, State.sense, h]
theorem calm_readable {s : State} (h : s.calm) (hf : s.flips = []) {ea n : Nat} (hc : s.cleanOwn ea n) : s.readable ea n :=
  ⟨calm_ownClear h ea n, by rwa [reads_noFlips hf]⟩

end Sys2Proof.Machine
end

