-- ==== Sys2Proof/Laws/PerInstr.lean ====
section
/-! SUPPORT. The round trip of every encoding, one lemma for each constructor of Instr (R25 to R45). -/

namespace Sys2Proof.Laws.RoundTrip
set_option Elab.async false
noncomputable section

/-- Where an instruction has an encoding, the word has its length, its low bits show that length (R25), and its fields decode to the instruction. -/
def Statement (i : Instr) : Prop :=
  i.wellFormed = true → ∀ n w, encode i = some (n, w) →
    (n = 32 ∧ w < 2 ^ 32 ∧ w % 4 = 3 ∧ decodeFields32 w = some i)
    ∨ (n = 16 ∧ w < 2 ^ 16 ∧ w % 4 ≠ 3 ∧ w ≠ 0 ∧ decodeFields16 w = some i)

/-! ### Packed fields -/

theorem pack_lt (fs : List (Nat × Nat)) : pack fs < 2 ^ (fs.map Prod.fst).sum := by
  induction fs with
  | nil => decide
  | cons p r ih =>
    obtain ⟨k, v⟩ := p
    have h : v % 2 ^ k < 2 ^ k := Nat.mod_lt _ (Nat.two_pow_pos k)
    simp only [pack, List.map_cons, List.sum_cons, Nat.pow_add]
    calc v % 2 ^ k + 2 ^ k * pack r < 2 ^ k + 2 ^ k * pack r := by omega
      _ = 2 ^ k * (pack r + 1) := by ring
      _ ≤ 2 ^ k * 2 ^ (r.map Prod.fst).sum := Nat.mul_le_mul_left _ ih
theorem unpack_pack (fs : List (Nat × Nat)) : unpack (fs.map Prod.fst) (pack fs) = fs.map fun p => p.2 % 2 ^ p.1 := by
  induction fs with
  | nil => rfl
  | cons p r ih =>
    obtain ⟨k, v⟩ := p
    have h1 : (v % 2 ^ k + 2 ^ k * pack r) % 2 ^ k = v % 2 ^ k := by
      rw [Nat.add_mul_mod_self_left]; exact Nat.mod_mod _ _
    have h2 : (v % 2 ^ k + 2 ^ k * pack r) / 2 ^ k = pack r := by
      rw [Nat.add_mul_div_left _ _ (Nat.two_pow_pos k), Nat.div_eq_of_lt (Nat.mod_lt _ (Nat.two_pow_pos k)), Nat.zero_add]
    simp only [List.map_cons, pack, unpack, h1, h2, ih]
theorem pack_mod {fs : List (Nat × Nat)} {n : Nat} (h : 2 ^ (fs.map Prod.fst).sum = n) : pack fs % n = pack fs :=
  Nat.mod_eq_of_lt (h ▸ pack_lt fs)
theorem major_pack (m : Nat) (r : List (Nat × Nat)) : pack ((8, m) :: r) / 4 % 64 = m / 4 % 64 := by
  simp only [pack]; generalize pack r = q; omega
theorem low_pack (k m : Nat) (r : List (Nat × Nat)) (h : 2 ≤ k) : pack ((k, m) :: r) % 4 = m % 4 := by
  obtain ⟨j, rfl⟩ := Nat.exists_eq_add_of_le h
  have : 2 ^ (2 + j) = 4 * 2 ^ j := by rw [Nat.pow_add]
  simp only [pack]
  rw [this, Nat.mul_assoc, Nat.add_mul_mod_self_left, Nat.mod_mul_right_mod]

/-- A word of 32 bits. -/
theorem row32 {i : Instr} {m : Nat} {r : List (Nat × Nat)} (he : encode i = some (32, pack ((8, m) :: r))) (hl : (r.map Prod.fst).sum = 24)
    (h3 : m % 4 = 3) (hd : i.wellFormed = true → decodeFields32 (pack ((8, m) :: r)) = some i) : Statement i := by
  intro hw n w h
  rw [he] at h
  obtain ⟨rfl, rfl⟩ := Prod.mk.inj (Option.some.inj h)
  refine .inl ⟨rfl, ?_, ?_, hd hw⟩
  · have := pack_lt ((8, m) :: r)
    simpa only [List.map_cons, List.sum_cons, hl] using this
  · rw [low_pack _ _ _ (by decide), h3]
/-- A compact parcel. -/
theorem row16 {i : Instr} {k m : Nat} {r : List (Nat × Nat)} (he : encode i = some (16, pack ((k, m) :: r)))
    (hl : k + (r.map Prod.fst).sum = 16) (hk : 2 ≤ k) (h3 : m % 4 ≠ 3) (h0 : pack ((k, m) :: r) ≠ 0)
    (hd : i.wellFormed = true → decodeFields16 (pack ((k, m) :: r)) = some i) : Statement i := by
  intro hw n w h
  rw [he] at h
  obtain ⟨rfl, rfl⟩ := Prod.mk.inj (Option.some.inj h)
  refine .inr ⟨rfl, ?_, ?_, h0, hd hw⟩
  · have := pack_lt ((k, m) :: r)
    simpa only [List.map_cons, List.sum_cons, hl] using this
  · rw [low_pack _ _ _ hk]; exact h3
/-- No word of its own. -/
theorem none_row {i : Instr} (he : encode i = none) : Statement i := by
  intro _ n w h
  rw [he] at h
  cases h

/-! ### Fields -/

@[simp] theorem Reg.ofCode_code (r : Reg) : Reg.ofCode r.code = r := by
  cases r with
  | g i => have := i.isLt; simp [Reg.code, Reg.ofCode]
  | n i => revert i; decide
  | y i => revert i; decide
  | q i => revert i; decide
  | z => rfl
  | rsv i => revert i; decide
@[simp] theorem Reg.code_mod (r : Reg) : r.code % 64 = r.code := by
  refine Nat.mod_eq_of_lt ?_
  cases r <;> simp only [Reg.code] <;> omega
@[simp] theorem ofNat_mod {k n : Nat} (x : BitVec k) (h : 2 ^ k = n) : BitVec.ofNat k (x.toNat % n) = x := by
  subst h; apply BitVec.eq_of_toNat_eq; simp
@[simp] theorem fin8 (x : Fin 8) : Fin.ofNat 8 (x.val % 8) = x := by ext; simp
@[simp] theorem fin32 (x : Fin 32) : Fin.ofNat 32 (x.val % 32) = x := by ext; simp
@[simp] theorem fin16 (x : Fin 16) : Fin.ofNat 16 (x.val % 16) = x := by ext; simp
@[simp] theorem bool_mod (b : Bool) : decide (b.toNat % 2 = 1) = b := by cases b <;> rfl
@[simp] theorem memType_code (t : MemType) : MemType.ofCode (t.code % 8) = some t := by cases t <;> rfl
@[simp] theorem fpType_code (t : FpType) : FpType.ofCode (t.code % 4) = some t := by cases t <;> rfl
@[simp] theorem eltSize_code (t : EltSize) : EltSize.ofCode (t.code % 4) = t := by cases t <;> rfl
@[simp] theorem redType_code (t : RedType) : RedType.ofCode (t.code % 8) = some t := by cases t <;> rfl
@[simp] theorem ordType_code (t : OrdType) : OrdType.ofCode (t.code % 8) = some t := by cases t <;> rfl
@[simp] theorem amoWidth_code (t : AmoWidth) : AmoWidth.ofCode (t.code % 2) = t := by cases t <;> rfl
@[simp] theorem fenceKind_code (t : FenceKind) : FenceKind.ofCode (t.code % 4) = some t := by cases t <;> rfl
@[simp] theorem scope_code (t : Scope) : Scope.ofCode (t.code % 8) = some t := by cases t <;> rfl
@[simp] theorem lgcOp_code (t : LgcOp) : LgcOp.ofCode (t.code % 4) = some t := by cases t <;> rfl
@[simp] theorem unpack2 {k1 k2 a b n : Nat} (h : 2 ^ (k1 + (k2 + 0)) = n) :
    unpack [k1, k2] (pack [(k1, a), (k2, b)] % n) = [a % 2 ^ k1, b % 2 ^ k2] := by
  rw [pack_mod (fs := [(k1, a), (k2, b)]) h]; exact unpack_pack [(k1, a), (k2, b)]
@[simp] theorem unpack3 {k1 k2 k3 a b c n : Nat} (h : 2 ^ (k1 + (k2 + (k3 + 0))) = n) :
    unpack [k1, k2, k3] (pack [(k1, a), (k2, b), (k3, c)] % n) = [a % 2 ^ k1, b % 2 ^ k2, c % 2 ^ k3] := by
  rw [pack_mod (fs := [(k1, a), (k2, b), (k3, c)]) h]; exact unpack_pack [(k1, a), (k2, b), (k3, c)]
@[simp] theorem unpack4 {k1 k2 k3 k4 a b c d n : Nat} (h : 2 ^ (k1 + (k2 + (k3 + (k4 + 0)))) = n) :
    unpack [k1, k2, k3, k4] (pack [(k1, a), (k2, b), (k3, c), (k4, d)] % n) = [a % 2 ^ k1, b % 2 ^ k2, c % 2 ^ k3, d % 2 ^ k4] := by
  rw [pack_mod (fs := [(k1, a), (k2, b), (k3, c), (k4, d)]) h]; exact unpack_pack [(k1, a), (k2, b), (k3, c), (k4, d)]

/-- Fields inside a field. -/
theorem pack_nest {q op : Nat} {fs : List (Nat × Nat)} (h : (fs.map Prod.fst).sum = 10) :
    pack ((2, q) :: (4, op) :: fs) = pack [(2, q), (4, op), (10, pack fs)] := by
  have : pack fs % 2 ^ 10 = pack fs := pack_mod (by rw [h])
  simp only [pack, this, Nat.mul_zero, Nat.add_zero]
@[simp] theorem split12 (x : BitVec 12) : BitVec.ofNat 12 (x.toNat % 64 + 64 * (x.toNat / 64 % 64)) = x := by
  apply BitVec.eq_of_toNat_eq; have := x.isLt; rw [BitVec.toNat_ofNat]; omega
@[simp] theorem split16 (x : BitVec 16) : BitVec.ofNat 16 (x.toNat % 64 + 64 * (x.toNat / 64 % 64) + 4096 * (x.toNat / 4096 % 16)) = x := by
  apply BitVec.eq_of_toNat_eq; have := x.isLt; rw [BitVec.toNat_ofNat]; omega

/-! ### Words by their major (R28 to R31) -/

theorem major1 (x1 x2 x3 x4 : Nat) : decodeFields32 (pack [(8, 7), (6, x1), (6, x2), (6, x3), (6, x4)]) = decodeMajor1 (x1 % 64) (x2 % 64) (x3 % 64) (x4 % 64) := by
  unfold decodeFields32
  rw [major_pack, show 7 / 4 % 64 = 1 from rfl]
  exact congrArg (fun l => match l with | [_, x1, x2, x3, x4] => decodeMajor1 x1 x2 x3 x4 | _ => none) (unpack_pack [(8, 7), (6, x1), (6, x2), (6, x3), (6, x4)])
theorem major2 (x1 x2 x3 : Nat) : decodeFields32 (pack [(8, 11), (6, x1), (6, x2), (12, x3)]) = decodeMajor2 (x1 % 64) (x2 % 64) (x3 % 4096) := by
  unfold decodeFields32
  rw [major_pack, show 11 / 4 % 64 = 2 from rfl]
  exact congrArg (fun l => match l with | [_, x1, x2, x3] => decodeMajor2 x1 x2 x3 | _ => none) (unpack_pack [(8, 11), (6, x1), (6, x2), (12, x3)])
theorem major3 (x1 x2 x3 : Nat) : decodeFields32 (pack [(8, 15), (6, x1), (6, x2), (12, x3)]) = decodeMajor3 (x1 % 64) (x2 % 64) (x3 % 4096) := by
  unfold decodeFields32
  rw [major_pack, show 15 / 4 % 64 = 3 from rfl]
  exact congrArg (fun l => match l with | [_, x1, x2, x3] => decodeMajor3 x1 x2 x3 | _ => none) (unpack_pack [(8, 15), (6, x1), (6, x2), (12, x3)])
theorem major4 (x1 x2 x3 : Nat) : decodeFields32 (pack [(8, 19), (6, x1), (6, x2), (12, x3)]) = decodeMajor4 (x1 % 64) (x2 % 64) (x3 % 4096) := by
  unfold decodeFields32
  rw [major_pack, show 19 / 4 % 64 = 4 from rfl]
  exact congrArg (fun l => match l with | [_, x1, x2, x3] => decodeMajor4 x1 x2 x3 | _ => none) (unpack_pack [(8, 19), (6, x1), (6, x2), (12, x3)])
theorem major5 (x1 x2 x3 : Nat) : decodeFields32 (pack [(8, 23), (6, x1), (6, x2), (12, x3)]) = decodeMajor5 (x1 % 64) (x2 % 64) (x3 % 4096) := by
  unfold decodeFields32
  rw [major_pack, show 23 / 4 % 64 = 5 from rfl]
  exact congrArg (fun l => match l with | [_, x1, x2, x3] => decodeMajor5 x1 x2 x3 | _ => none) (unpack_pack [(8, 23), (6, x1), (6, x2), (12, x3)])
theorem major6 (x1 x2 x3 x4 : Nat) : decodeFields32 (pack [(8, 27), (6, x1), (6, x2), (6, x3), (6, x4)]) = decodeMajor6 (x1 % 64) (x2 % 64) (x3 % 64) (x4 % 64) := by
  unfold decodeFields32
  rw [major_pack, show 27 / 4 % 64 = 6 from rfl]
  exact congrArg (fun l => match l with | [_, x1, x2, x3, x4] => decodeMajor6 x1 x2 x3 x4 | _ => none) (unpack_pack [(8, 27), (6, x1), (6, x2), (6, x3), (6, x4)])
theorem major7 (x1 x2 x3 : Nat) : decodeFields32 (pack [(8, 31), (6, x1), (6, x2), (12, x3)]) = decodeMajor7 (x1 % 64) (x2 % 64) (x3 % 4096) := by
  unfold decodeFields32
  rw [major_pack, show 31 / 4 % 64 = 7 from rfl]
  exact congrArg (fun l => match l with | [_, x1, x2, x3] => decodeMajor7 x1 x2 x3 | _ => none) (unpack_pack [(8, 31), (6, x1), (6, x2), (12, x3)])
theorem major8 (x1 x2 : Nat) : decodeFields32 (pack [(8, 35), (6, x1), (18, x2)]) = decodeMajor8 (x1 % 64) (x2 % 262144) := by
  unfold decodeFields32
  rw [major_pack, show 35 / 4 % 64 = 8 from rfl]
  exact congrArg (fun l => match l with | [_, x1, x2] => decodeMajor8 x1 x2 | _ => none) (unpack_pack [(8, 35), (6, x1), (18, x2)])
theorem major9 (x1 x2 : Nat) : decodeFields32 (pack [(8, 39), (6, x1), (18, x2)]) = decodeMajor9 (x1 % 64) (x2 % 262144) := by
  unfold decodeFields32
  rw [major_pack, show 39 / 4 % 64 = 9 from rfl]
  exact congrArg (fun l => match l with | [_, x1, x2] => decodeMajor9 x1 x2 | _ => none) (unpack_pack [(8, 39), (6, x1), (18, x2)])
theorem major10 (x1 x2 x3 x4 : Nat) : decodeFields32 (pack [(8, 43), (6, x1), (6, x2), (6, x3), (6, x4)]) = decodeMajor10 (x1 % 64) (x2 % 64) (x3 % 64) (x4 % 64) := by
  unfold decodeFields32
  rw [major_pack, show 43 / 4 % 64 = 10 from rfl]
  exact congrArg (fun l => match l with | [_, x1, x2, x3, x4] => decodeMajor10 x1 x2 x3 x4 | _ => none) (unpack_pack [(8, 43), (6, x1), (6, x2), (6, x3), (6, x4)])
theorem major11 (x1 x2 x3 : Nat) : decodeFields32 (pack [(8, 47), (6, x1), (6, x2), (12, x3)]) = decodeMajor11 (x1 % 64) (x2 % 64) (x3 % 4096) := by
  unfold decodeFields32
  rw [major_pack, show 47 / 4 % 64 = 11 from rfl]
  exact congrArg (fun l => match l with | [_, x1, x2, x3] => decodeMajor11 x1 x2 x3 | _ => none) (unpack_pack [(8, 47), (6, x1), (6, x2), (12, x3)])
theorem major12 (x1 x2 x3 : Nat) : decodeFields32 (pack [(8, 51), (6, x1), (6, x2), (12, x3)]) = decodeMajor12 (x1 % 64) (x2 % 64) (x3 % 4096) := by
  unfold decodeFields32
  rw [major_pack, show 51 / 4 % 64 = 12 from rfl]
  exact congrArg (fun l => match l with | [_, x1, x2, x3] => decodeMajor12 x1 x2 x3 | _ => none) (unpack_pack [(8, 51), (6, x1), (6, x2), (12, x3)])
theorem major13 (x1 x2 x3 : Nat) : decodeFields32 (pack [(8, 55), (6, x1), (6, x2), (12, x3)]) = decodeMajor13 (x1 % 64) (x2 % 64) (x3 % 4096) := by
  unfold decodeFields32
  rw [major_pack, show 55 / 4 % 64 = 13 from rfl]
  exact congrArg (fun l => match l with | [_, x1, x2, x3] => decodeMajor13 x1 x2 x3 | _ => none) (unpack_pack [(8, 55), (6, x1), (6, x2), (12, x3)])
theorem major14 (x1 x2 x3 : Nat) : decodeFields32 (pack [(8, 59), (6, x1), (6, x2), (12, x3)]) = decodeMajor14 (x1 % 64) (x2 % 64) (x3 % 4096) := by
  unfold decodeFields32
  rw [major_pack, show 59 / 4 % 64 = 14 from rfl]
  exact congrArg (fun l => match l with | [_, x1, x2, x3] => decodeMajor14 x1 x2 x3 | _ => none) (unpack_pack [(8, 59), (6, x1), (6, x2), (12, x3)])
theorem major15 (x1 x2 x3 : Nat) : decodeFields32 (pack [(8, 63), (6, x1), (6, x2), (12, x3)]) = decodeMajor15 (x1 % 64) (x2 % 64) (x3 % 4096) := by
  unfold decodeFields32
  rw [major_pack, show 63 / 4 % 64 = 15 from rfl]
  exact congrArg (fun l => match l with | [_, x1, x2, x3] => decodeMajor15 x1 x2 x3 | _ => none) (unpack_pack [(8, 63), (6, x1), (6, x2), (12, x3)])
theorem major16 (x1 x2 x3 : Nat) : decodeFields32 (pack [(8, 67), (6, x1), (6, x2), (12, x3)]) = decodeMajor16 (x1 % 64) (x2 % 64) (x3 % 4096) := by
  unfold decodeFields32
  rw [major_pack, show 67 / 4 % 64 = 16 from rfl]
  exact congrArg (fun l => match l with | [_, x1, x2, x3] => decodeMajor16 x1 x2 x3 | _ => none) (unpack_pack [(8, 67), (6, x1), (6, x2), (12, x3)])
theorem major17 (x1 : Nat) : decodeFields32 (pack [(8, 71), (24, x1)]) = decodeMajor17 (x1 % 16777216) := by
  unfold decodeFields32
  rw [major_pack, show 71 / 4 % 64 = 17 from rfl]
  exact congrArg (fun l => match l with | [_, x1] => decodeMajor17 x1 | _ => none) (unpack_pack [(8, 71), (24, x1)])
theorem major18 (x1 : Nat) : decodeFields32 (pack [(8, 75), (24, x1)]) = decodeMajor18 (x1 % 16777216) := by
  unfold decodeFields32
  rw [major_pack, show 75 / 4 % 64 = 18 from rfl]
  exact congrArg (fun l => match l with | [_, x1] => decodeMajor18 x1 | _ => none) (unpack_pack [(8, 75), (24, x1)])
theorem major19 (x1 x2 x3 x4 : Nat) : decodeFields32 (pack [(8, 79), (6, x1), (6, x2), (6, x3), (6, x4)]) = decodeMajor19 (x1 % 64) (x2 % 64) (x3 % 64) (x4 % 64) := by
  unfold decodeFields32
  rw [major_pack, show 79 / 4 % 64 = 19 from rfl]
  exact congrArg (fun l => match l with | [_, x1, x2, x3, x4] => decodeMajor19 x1 x2 x3 x4 | _ => none) (unpack_pack [(8, 79), (6, x1), (6, x2), (6, x3), (6, x4)])
theorem major20 (x1 x2 x3 x4 : Nat) : decodeFields32 (pack [(8, 83), (6, x1), (6, x2), (3, x3), (9, x4)]) = decodeMajor20 (x1 % 64) (x2 % 64) (x3 % 8) (x4 % 512) := by
  unfold decodeFields32
  rw [major_pack, show 83 / 4 % 64 = 20 from rfl]
  exact congrArg (fun l => match l with | [_, x1, x2, x3, x4] => decodeMajor20 x1 x2 x3 x4 | _ => none) (unpack_pack [(8, 83), (6, x1), (6, x2), (3, x3), (9, x4)])
theorem major21 (x1 x2 x3 x4 : Nat) : decodeFields32 (pack [(8, 87), (6, x1), (6, x2), (3, x3), (9, x4)]) = decodeMajor21 (x1 % 64) (x2 % 64) (x3 % 8) (x4 % 512) := by
  unfold decodeFields32
  rw [major_pack, show 87 / 4 % 64 = 21 from rfl]
  exact congrArg (fun l => match l with | [_, x1, x2, x3, x4] => decodeMajor21 x1 x2 x3 x4 | _ => none) (unpack_pack [(8, 87), (6, x1), (6, x2), (3, x3), (9, x4)])
theorem major22 (x1 x2 x3 x4 x5 : Nat) : decodeFields32 (pack [(8, 91), (6, x1), (6, x2), (6, x3), (3, x4), (3, x5)]) = decodeMajor22 (x1 % 64) (x2 % 64) (x3 % 64) (x4 % 8) (x5 % 8) := by
  unfold decodeFields32
  rw [major_pack, show 91 / 4 % 64 = 22 from rfl]
  exact congrArg (fun l => match l with | [_, x1, x2, x3, x4, x5] => decodeMajor22 x1 x2 x3 x4 x5 | _ => none) (unpack_pack [(8, 91), (6, x1), (6, x2), (6, x3), (3, x4), (3, x5)])
theorem major23 (x1 x2 x3 x4 x5 : Nat) : decodeFields32 (pack [(8, 95), (6, x1), (6, x2), (6, x3), (3, x4), (3, x5)]) = decodeMajor23 (x1 % 64) (x2 % 64) (x3 % 64) (x4 % 8) (x5 % 8) := by
  unfold decodeFields32
  rw [major_pack, show 95 / 4 % 64 = 23 from rfl]
  exact congrArg (fun l => match l with | [_, x1, x2, x3, x4, x5] => decodeMajor23 x1 x2 x3 x4 x5 | _ => none) (unpack_pack [(8, 95), (6, x1), (6, x2), (6, x3), (3, x4), (3, x5)])
theorem major24 (x1 x2 x3 x4 x5 : Nat) : decodeFields32 (pack [(8, 99), (6, x1), (6, x2), (6, x3), (3, x4), (3, x5)]) = decodeMajor24 (x1 % 64) (x2 % 64) (x3 % 64) (x4 % 8) (x5 % 8) := by
  unfold decodeFields32
  rw [major_pack, show 99 / 4 % 64 = 24 from rfl]
  exact congrArg (fun l => match l with | [_, x1, x2, x3, x4, x5] => decodeMajor24 x1 x2 x3 x4 x5 | _ => none) (unpack_pack [(8, 99), (6, x1), (6, x2), (6, x3), (3, x4), (3, x5)])
theorem major25 (x1 x2 x3 x4 x5 : Nat) : decodeFields32 (pack [(8, 103), (6, x1), (6, x2), (6, x3), (3, x4), (3, x5)]) = decodeMajor25 (x1 % 64) (x2 % 64) (x3 % 64) (x4 % 8) (x5 % 8) := by
  unfold decodeFields32
  rw [major_pack, show 103 / 4 % 64 = 25 from rfl]
  exact congrArg (fun l => match l with | [_, x1, x2, x3, x4, x5] => decodeMajor25 x1 x2 x3 x4 x5 | _ => none) (unpack_pack [(8, 103), (6, x1), (6, x2), (6, x3), (3, x4), (3, x5)])
theorem major26 (x1 x2 x3 x4 : Nat) : decodeFields32 (pack [(8, 107), (6, x1), (6, x2), (6, x3), (6, x4)]) = decodeMajor26 (x1 % 64) (x2 % 64) (x3 % 64) (x4 % 64) := by
  unfold decodeFields32
  rw [major_pack, show 107 / 4 % 64 = 26 from rfl]
  exact congrArg (fun l => match l with | [_, x1, x2, x3, x4] => decodeMajor26 x1 x2 x3 x4 | _ => none) (unpack_pack [(8, 107), (6, x1), (6, x2), (6, x3), (6, x4)])
theorem major27 (x1 x2 x3 x4 : Nat) : decodeFields32 (pack [(8, 111), (6, x1), (6, x2), (6, x3), (6, x4)]) = decodeMajor27 (x1 % 64) (x2 % 64) (x3 % 64) (x4 % 64) := by
  unfold decodeFields32
  rw [major_pack, show 111 / 4 % 64 = 27 from rfl]
  exact congrArg (fun l => match l with | [_, x1, x2, x3, x4] => decodeMajor27 x1 x2 x3 x4 | _ => none) (unpack_pack [(8, 111), (6, x1), (6, x2), (6, x3), (6, x4)])
theorem major28 (x1 x2 x3 x4 : Nat) : decodeFields32 (pack [(8, 115), (6, x1), (6, x2), (5, x3), (7, x4)]) = decodeMajor28 (x1 % 64) (x2 % 64) (x3 % 32) (x4 % 128) := by
  unfold decodeFields32
  rw [major_pack, show 115 / 4 % 64 = 28 from rfl]
  exact congrArg (fun l => match l with | [_, x1, x2, x3, x4] => decodeMajor28 x1 x2 x3 x4 | _ => none) (unpack_pack [(8, 115), (6, x1), (6, x2), (5, x3), (7, x4)])
theorem major29 (x1 x2 x3 x4 : Nat) : decodeFields32 (pack [(8, 119), (6, x1), (6, x2), (5, x3), (7, x4)]) = decodeMajor29 (x1 % 64) (x2 % 64) (x3 % 32) (x4 % 128) := by
  unfold decodeFields32
  rw [major_pack, show 119 / 4 % 64 = 29 from rfl]
  exact congrArg (fun l => match l with | [_, x1, x2, x3, x4] => decodeMajor29 x1 x2 x3 x4 | _ => none) (unpack_pack [(8, 119), (6, x1), (6, x2), (5, x3), (7, x4)])
theorem major30 (x1 x2 x3 x4 : Nat) : decodeFields32 (pack [(8, 123), (6, x1), (6, x2), (5, x3), (7, x4)]) = decodeMajor30 (x1 % 64) (x2 % 64) (x3 % 32) (x4 % 128) := by
  unfold decodeFields32
  rw [major_pack, show 123 / 4 % 64 = 30 from rfl]
  exact congrArg (fun l => match l with | [_, x1, x2, x3, x4] => decodeMajor30 x1 x2 x3 x4 | _ => none) (unpack_pack [(8, 123), (6, x1), (6, x2), (5, x3), (7, x4)])
theorem major31 (x1 x2 x3 x4 : Nat) : decodeFields32 (pack [(8, 127), (6, x1), (6, x2), (5, x3), (7, x4)]) = decodeMajor31 (x1 % 64) (x2 % 64) (x3 % 32) (x4 % 128) := by
  unfold decodeFields32
  rw [major_pack, show 127 / 4 % 64 = 31 from rfl]
  exact congrArg (fun l => match l with | [_, x1, x2, x3, x4] => decodeMajor31 x1 x2 x3 x4 | _ => none) (unpack_pack [(8, 127), (6, x1), (6, x2), (5, x3), (7, x4)])
theorem major32 (x1 x2 x3 x4 : Nat) : decodeFields32 (pack [(8, 131), (6, x1), (6, x2), (5, x3), (7, x4)]) = decodeMajor32 (x1 % 64) (x2 % 64) (x3 % 32) (x4 % 128) := by
  unfold decodeFields32
  rw [major_pack, show 131 / 4 % 64 = 32 from rfl]
  exact congrArg (fun l => match l with | [_, x1, x2, x3, x4] => decodeMajor32 x1 x2 x3 x4 | _ => none) (unpack_pack [(8, 131), (6, x1), (6, x2), (5, x3), (7, x4)])
theorem major33 (x1 x2 x3 x4 : Nat) : decodeFields32 (pack [(8, 135), (6, x1), (6, x2), (5, x3), (7, x4)]) = decodeMajor33 (x1 % 64) (x2 % 64) (x3 % 32) (x4 % 128) := by
  unfold decodeFields32
  rw [major_pack, show 135 / 4 % 64 = 33 from rfl]
  exact congrArg (fun l => match l with | [_, x1, x2, x3, x4] => decodeMajor33 x1 x2 x3 x4 | _ => none) (unpack_pack [(8, 135), (6, x1), (6, x2), (5, x3), (7, x4)])
theorem major34 (x1 x2 x3 x4 : Nat) : decodeFields32 (pack [(8, 139), (6, x1), (6, x2), (5, x3), (7, x4)]) = decodeMajor34 (x1 % 64) (x2 % 64) (x3 % 32) (x4 % 128) := by
  unfold decodeFields32
  rw [major_pack, show 139 / 4 % 64 = 34 from rfl]
  exact congrArg (fun l => match l with | [_, x1, x2, x3, x4] => decodeMajor34 x1 x2 x3 x4 | _ => none) (unpack_pack [(8, 139), (6, x1), (6, x2), (5, x3), (7, x4)])
theorem major35 (x1 x2 x3 x4 : Nat) : decodeFields32 (pack [(8, 143), (6, x1), (6, x2), (5, x3), (7, x4)]) = decodeMajor35 (x1 % 64) (x2 % 64) (x3 % 32) (x4 % 128) := by
  unfold decodeFields32
  rw [major_pack, show 143 / 4 % 64 = 35 from rfl]
  exact congrArg (fun l => match l with | [_, x1, x2, x3, x4] => decodeMajor35 x1 x2 x3 x4 | _ => none) (unpack_pack [(8, 143), (6, x1), (6, x2), (5, x3), (7, x4)])
theorem major36 (x1 x2 x3 x4 : Nat) : decodeFields32 (pack [(8, 147), (6, x1), (6, x2), (5, x3), (7, x4)]) = decodeMajor36 (x1 % 64) (x2 % 64) (x3 % 32) (x4 % 128) := by
  unfold decodeFields32
  rw [major_pack, show 147 / 4 % 64 = 36 from rfl]
  exact congrArg (fun l => match l with | [_, x1, x2, x3, x4] => decodeMajor36 x1 x2 x3 x4 | _ => none) (unpack_pack [(8, 147), (6, x1), (6, x2), (5, x3), (7, x4)])
theorem major37 (x1 x2 x3 x4 : Nat) : decodeFields32 (pack [(8, 151), (6, x1), (6, x2), (10, x3), (2, x4)]) = decodeMajor37 (x1 % 64) (x2 % 64) (x3 % 1024) (x4 % 4) := by
  unfold decodeFields32
  rw [major_pack, show 151 / 4 % 64 = 37 from rfl]
  exact congrArg (fun l => match l with | [_, x1, x2, x3, x4] => decodeMajor37 x1 x2 x3 x4 | _ => none) (unpack_pack [(8, 151), (6, x1), (6, x2), (10, x3), (2, x4)])
theorem major38 (x1 x2 x3 x4 : Nat) : decodeFields32 (pack [(8, 155), (6, x1), (6, x2), (6, x3), (6, x4)]) = decodeMajor38 (x1 % 64) (x2 % 64) (x3 % 64) (x4 % 64) := by
  unfold decodeFields32
  rw [major_pack, show 155 / 4 % 64 = 38 from rfl]
  exact congrArg (fun l => match l with | [_, x1, x2, x3, x4] => decodeMajor38 x1 x2 x3 x4 | _ => none) (unpack_pack [(8, 155), (6, x1), (6, x2), (6, x3), (6, x4)])
theorem major39 (x1 x2 x3 x4 x5 : Nat) : decodeFields32 (pack [(8, 159), (5, x1), (5, x2), (5, x3), (3, x4), (6, x5)]) = decodeMajor39 (x1 % 32) (x2 % 32) (x3 % 32) (x4 % 8) (x5 % 64) := by
  unfold decodeFields32
  rw [major_pack, show 159 / 4 % 64 = 39 from rfl]
  exact congrArg (fun l => match l with | [_, x1, x2, x3, x4, x5] => decodeMajor39 x1 x2 x3 x4 x5 | _ => none) (unpack_pack [(8, 159), (5, x1), (5, x2), (5, x3), (3, x4), (6, x5)])
theorem major40 (x1 x2 x3 x4 x5 : Nat) : decodeFields32 (pack [(8, 163), (5, x1), (5, x2), (5, x3), (3, x4), (6, x5)]) = decodeMajor40 (x1 % 32) (x2 % 32) (x3 % 32) (x4 % 8) (x5 % 64) := by
  unfold decodeFields32
  rw [major_pack, show 163 / 4 % 64 = 40 from rfl]
  exact congrArg (fun l => match l with | [_, x1, x2, x3, x4, x5] => decodeMajor40 x1 x2 x3 x4 x5 | _ => none) (unpack_pack [(8, 163), (5, x1), (5, x2), (5, x3), (3, x4), (6, x5)])
theorem major41 (x1 x2 x3 x4 x5 : Nat) : decodeFields32 (pack [(8, 167), (5, x1), (5, x2), (5, x3), (3, x4), (6, x5)]) = decodeMajor41 (x1 % 32) (x2 % 32) (x3 % 32) (x4 % 8) (x5 % 64) := by
  unfold decodeFields32
  rw [major_pack, show 167 / 4 % 64 = 41 from rfl]
  exact congrArg (fun l => match l with | [_, x1, x2, x3, x4, x5] => decodeMajor41 x1 x2 x3 x4 x5 | _ => none) (unpack_pack [(8, 167), (5, x1), (5, x2), (5, x3), (3, x4), (6, x5)])
theorem major42 (x1 x2 x3 x4 x5 : Nat) : decodeFields32 (pack [(8, 171), (5, x1), (5, x2), (5, x3), (3, x4), (6, x5)]) = decodeMajor42 (x1 % 32) (x2 % 32) (x3 % 32) (x4 % 8) (x5 % 64) := by
  unfold decodeFields32
  rw [major_pack, show 171 / 4 % 64 = 42 from rfl]
  exact congrArg (fun l => match l with | [_, x1, x2, x3, x4, x5] => decodeMajor42 x1 x2 x3 x4 x5 | _ => none) (unpack_pack [(8, 171), (5, x1), (5, x2), (5, x3), (3, x4), (6, x5)])
theorem major43 (x1 x2 x3 x4 x5 : Nat) : decodeFields32 (pack [(8, 175), (5, x1), (5, x2), (5, x3), (3, x4), (6, x5)]) = decodeMajor43 (x1 % 32) (x2 % 32) (x3 % 32) (x4 % 8) (x5 % 64) := by
  unfold decodeFields32
  rw [major_pack, show 175 / 4 % 64 = 43 from rfl]
  exact congrArg (fun l => match l with | [_, x1, x2, x3, x4, x5] => decodeMajor43 x1 x2 x3 x4 x5 | _ => none) (unpack_pack [(8, 175), (5, x1), (5, x2), (5, x3), (3, x4), (6, x5)])
theorem major44 (x1 x2 x3 x4 x5 : Nat) : decodeFields32 (pack [(8, 179), (5, x1), (5, x2), (5, x3), (3, x4), (6, x5)]) = decodeMajor44 (x1 % 32) (x2 % 32) (x3 % 32) (x4 % 8) (x5 % 64) := by
  unfold decodeFields32
  rw [major_pack, show 179 / 4 % 64 = 44 from rfl]
  exact congrArg (fun l => match l with | [_, x1, x2, x3, x4, x5] => decodeMajor44 x1 x2 x3 x4 x5 | _ => none) (unpack_pack [(8, 179), (5, x1), (5, x2), (5, x3), (3, x4), (6, x5)])
theorem major45 (x1 x2 x3 x4 x5 : Nat) : decodeFields32 (pack [(8, 183), (5, x1), (5, x2), (5, x3), (3, x4), (6, x5)]) = decodeMajor45 (x1 % 32) (x2 % 32) (x3 % 32) (x4 % 8) (x5 % 64) := by
  unfold decodeFields32
  rw [major_pack, show 183 / 4 % 64 = 45 from rfl]
  exact congrArg (fun l => match l with | [_, x1, x2, x3, x4, x5] => decodeMajor45 x1 x2 x3 x4 x5 | _ => none) (unpack_pack [(8, 183), (5, x1), (5, x2), (5, x3), (3, x4), (6, x5)])
theorem major46 (x1 x2 x3 x4 x5 : Nat) : decodeFields32 (pack [(8, 187), (5, x1), (5, x2), (5, x3), (3, x4), (6, x5)]) = decodeMajor46 (x1 % 32) (x2 % 32) (x3 % 32) (x4 % 8) (x5 % 64) := by
  unfold decodeFields32
  rw [major_pack, show 187 / 4 % 64 = 46 from rfl]
  exact congrArg (fun l => match l with | [_, x1, x2, x3, x4, x5] => decodeMajor46 x1 x2 x3 x4 x5 | _ => none) (unpack_pack [(8, 187), (5, x1), (5, x2), (5, x3), (3, x4), (6, x5)])
theorem major47 (x1 x2 x3 x4 x5 : Nat) : decodeFields32 (pack [(8, 191), (5, x1), (6, x2), (6, x3), (3, x4), (4, x5)]) = decodeMajor47 (x1 % 32) (x2 % 64) (x3 % 64) (x4 % 8) (x5 % 16) := by
  unfold decodeFields32
  rw [major_pack, show 191 / 4 % 64 = 47 from rfl]
  exact congrArg (fun l => match l with | [_, x1, x2, x3, x4, x5] => decodeMajor47 x1 x2 x3 x4 x5 | _ => none) (unpack_pack [(8, 191), (5, x1), (6, x2), (6, x3), (3, x4), (4, x5)])
theorem quadrant0 (x1 x2 x3 : Nat) : decodeFields16 (pack [(2, 0), (6, x1), (4, x2), (4, x3)]) = decodeQuadrant0 (x1 % 64) (x2 % 16) (x3 % 16) := by
  unfold decodeFields16
  rw [low_pack _ _ _ (by decide), show 0 % 4 = 0 from rfl]
  exact congrArg (fun l => match l with | [_, x1, x2, x3] => decodeQuadrant0 x1 x2 x3 | _ => none) (unpack_pack [(2, 0), (6, x1), (4, x2), (4, x3)])
theorem quadrant1 (x1 x2 x3 : Nat) : decodeFields16 (pack [(2, 1), (4, x1), (4, x2), (6, x3)]) = decodeQuadrant1 (x1 % 16) (x2 % 16) (x3 % 64) := by
  unfold decodeFields16
  rw [low_pack _ _ _ (by decide), show 1 % 4 = 1 from rfl]
  exact congrArg (fun l => match l with | [_, x1, x2, x3] => decodeQuadrant1 x1 x2 x3 | _ => none) (unpack_pack [(2, 1), (4, x1), (4, x2), (6, x3)])
theorem quadrant2 (x1 x2 : Nat) : decodeFields16 (pack [(2, 2), (4, x1), (10, x2)]) = decodeQuadrant2 (x1 % 16) (x2 % 1024) := by
  unfold decodeFields16
  rw [low_pack _ _ _ (by decide), show 2 % 4 = 2 from rfl]
  exact congrArg (fun l => match l with | [_, x1, x2] => decodeQuadrant2 x1 x2 | _ => none) (unpack_pack [(2, 2), (4, x1), (10, x2)])

/-! ### The constructors -/

theorem add (b a d) : Statement (.add b a d) := row32 rfl rfl rfl fun _ => by
  rw [major1]; simp [decodeMajor1]
theorem sub (b a d) : Statement (.sub b a d) := row32 rfl rfl rfl fun _ => by
  rw [major1]; simp [decodeMajor1]
theorem and (b a d) : Statement (.and b a d) := row32 rfl rfl rfl fun _ => by
  rw [major1]; simp [decodeMajor1]
theorem or (b a d) : Statement (.or b a d) := row32 rfl rfl rfl fun _ => by
  rw [major1]; simp [decodeMajor1]
theorem xor (b a d) : Statement (.xor b a d) := row32 rfl rfl rfl fun _ => by
  rw [major1]; simp [decodeMajor1]
theorem andn (b a d) : Statement (.andn b a d) := row32 rfl rfl rfl fun _ => by
  rw [major1]; simp [decodeMajor1]
theorem orn (b a d) : Statement (.orn b a d) := row32 rfl rfl rfl fun _ => by
  rw [major1]; simp [decodeMajor1]
theorem sll (b a d) : Statement (.sll b a d) := row32 rfl rfl rfl fun _ => by
  rw [major1]; simp [decodeMajor1]
theorem srl (b a d) : Statement (.srl b a d) := row32 rfl rfl rfl fun _ => by
  rw [major1]; simp [decodeMajor1]
theorem sra (b a d) : Statement (.sra b a d) := row32 rfl rfl rfl fun _ => by
  rw [major1]; simp [decodeMajor1]
theorem slt (b a d) : Statement (.slt b a d) := row32 rfl rfl rfl fun _ => by
  rw [major1]; simp [decodeMajor1]
theorem sltn (b a d) : Statement (.sltn b a d) := row32 rfl rfl rfl fun _ => by
  rw [major1]; simp [decodeMajor1]
theorem min (b a d) : Statement (.min b a d) := row32 rfl rfl rfl fun _ => by
  rw [major1]; simp [decodeMajor1]
theorem max (b a d) : Statement (.max b a d) := row32 rfl rfl rfl fun _ => by
  rw [major1]; simp [decodeMajor1]
theorem minn (b a d) : Statement (.minn b a d) := row32 rfl rfl rfl fun _ => by
  rw [major1]; simp [decodeMajor1]
theorem maxn (b a d) : Statement (.maxn b a d) := row32 rfl rfl rfl fun _ => by
  rw [major1]; simp [decodeMajor1]
theorem mul (b a d) : Statement (.mul b a d) := row32 rfl rfl rfl fun _ => by
  rw [major1]; simp [decodeMajor1]
theorem mulh (b a d) : Statement (.mulh b a d) := row32 rfl rfl rfl fun _ => by
  rw [major1]; simp [decodeMajor1]
theorem mulhn (b a d) : Statement (.mulhn b a d) := row32 rfl rfl rfl fun _ => by
  rw [major1]; simp [decodeMajor1]
theorem div (b a d) : Statement (.div b a d) := row32 rfl rfl rfl fun _ => by
  rw [major1]; simp [decodeMajor1]
theorem divn (b a d) : Statement (.divn b a d) := row32 rfl rfl rfl fun _ => by
  rw [major1]; simp [decodeMajor1]
theorem rem (b a d) : Statement (.rem b a d) := row32 rfl rfl rfl fun _ => by
  rw [major1]; simp [decodeMajor1]
theorem remn (b a d) : Statement (.remn b a d) := row32 rfl rfl rfl fun _ => by
  rw [major1]; simp [decodeMajor1]
theorem addw (b a d) : Statement (.addw b a d) := row32 rfl rfl rfl fun _ => by
  rw [major1]; simp [decodeMajor1]
theorem subw (b a d) : Statement (.subw b a d) := row32 rfl rfl rfl fun _ => by
  rw [major1]; simp [decodeMajor1]
theorem sllw (b a d) : Statement (.sllw b a d) := row32 rfl rfl rfl fun _ => by
  rw [major1]; simp [decodeMajor1]
theorem srlw (b a d) : Statement (.srlw b a d) := row32 rfl rfl rfl fun _ => by
  rw [major1]; simp [decodeMajor1]
theorem sraw (b a d) : Statement (.sraw b a d) := row32 rfl rfl rfl fun _ => by
  rw [major1]; simp [decodeMajor1]
theorem mulw (b a d) : Statement (.mulw b a d) := row32 rfl rfl rfl fun _ => by
  rw [major1]; simp [decodeMajor1]
theorem clz (a d) : Statement (.clz a d) := row32 rfl rfl rfl fun _ => by
  rw [major1]; simp [decodeMajor1]
theorem ctz (a d) : Statement (.ctz a d) := row32 rfl rfl rfl fun _ => by
  rw [major1]; simp [decodeMajor1]
theorem popc (a d) : Statement (.popc a d) := row32 rfl rfl rfl fun _ => by
  rw [major1]; simp [decodeMajor1]
theorem bswap (a d) : Statement (.bswap a d) := row32 rfl rfl rfl fun _ => by
  rw [major1]; simp [decodeMajor1]
theorem addi (imm a d) : Statement (.addi imm a d) := row32 rfl rfl rfl fun _ => by
  rw [major2]; simp [decodeMajor2]
theorem andi (imm a d) : Statement (.andi imm a d) := row32 rfl rfl rfl fun _ => by
  rw [major3]; simp [decodeMajor3]
theorem ori (imm a d) : Statement (.ori imm a d) := row32 rfl rfl rfl fun _ => by
  rw [major4]; simp [decodeMajor4]
theorem xori (imm a d) : Statement (.xori imm a d) := row32 rfl rfl rfl fun _ => by
  rw [major5]; simp [decodeMajor5]
theorem slli (sh a d) : Statement (.slli sh a d) := row32 rfl rfl rfl fun _ => by
  rw [major6]; simp [decodeMajor6]
theorem srli (sh a d) : Statement (.srli sh a d) := row32 rfl rfl rfl fun _ => by
  rw [major6]; simp [decodeMajor6]
theorem srai (sh a d) : Statement (.srai sh a d) := row32 rfl rfl rfl fun _ => by
  rw [major6]; simp [decodeMajor6]
theorem rori (sh a d) : Statement (.rori sh a d) := row32 rfl rfl rfl fun _ => by
  rw [major6]; simp [decodeMajor6]
theorem slliw (sh a d) : Statement (.slliw sh a d) := row32 rfl rfl rfl fun _ => by
  rw [major6]; simp [decodeMajor6]
theorem srliw (sh a d) : Statement (.srliw sh a d) := row32 rfl rfl rfl fun _ => by
  rw [major6]; simp [decodeMajor6]
theorem sraiw (sh a d) : Statement (.sraiw sh a d) := row32 rfl rfl rfl fun _ => by
  rw [major6]; simp [decodeMajor6]
theorem roriw (sh a d) : Statement (.roriw sh a d) := row32 rfl rfl rfl fun _ => by
  rw [major6]; simp [decodeMajor6]
theorem slti (imm a d) : Statement (.slti imm a d) := row32 rfl rfl rfl fun _ => by
  rw [major7]; simp [decodeMajor7]
theorem lix (imm d) : Statement (.lix imm d) := row32 rfl rfl rfl fun _ => by
  rw [major8]; simp [decodeMajor8]
theorem lixs (imm d) : Statement (.lixs imm d) := row32 rfl rfl rfl fun _ => by
  rw [major9]; simp [decodeMajor9]
theorem fadd (b a d) : Statement (.fadd b a d) := row32 rfl rfl rfl fun _ => by
  rw [major10]; simp [decodeMajor10]
theorem fsub (b a d) : Statement (.fsub b a d) := row32 rfl rfl rfl fun _ => by
  rw [major10]; simp [decodeMajor10]
theorem fmul (b a d) : Statement (.fmul b a d) := row32 rfl rfl rfl fun _ => by
  rw [major10]; simp [decodeMajor10]
theorem fdiv (b a d) : Statement (.fdiv b a d) := row32 rfl rfl rfl fun _ => by
  rw [major10]; simp [decodeMajor10]
theorem fsqrt (a d) : Statement (.fsqrt a d) := row32 rfl rfl rfl fun _ => by
  rw [major10]; simp [decodeMajor10]
theorem fmin (b a d) : Statement (.fmin b a d) := row32 rfl rfl rfl fun _ => by
  rw [major10]; simp [decodeMajor10]
theorem fmax (b a d) : Statement (.fmax b a d) := row32 rfl rfl rfl fun _ => by
  rw [major10]; simp [decodeMajor10]
theorem fmadd (b a d) : Statement (.fmadd b a d) := row32 rfl rfl rfl fun _ => by
  rw [major10]; simp [decodeMajor10]
theorem fmsub (b a d) : Statement (.fmsub b a d) := row32 rfl rfl rfl fun _ => by
  rw [major10]; simp [decodeMajor10]
theorem fnmadd (b a d) : Statement (.fnmadd b a d) := row32 rfl rfl rfl fun _ => by
  rw [major10]; simp [decodeMajor10]
theorem feq (b a d) : Statement (.feq b a d) := row32 rfl rfl rfl fun _ => by
  rw [major10]; simp [decodeMajor10]
theorem flt (b a d) : Statement (.flt b a d) := row32 rfl rfl rfl fun _ => by
  rw [major10]; simp [decodeMajor10]
theorem fle (b a d) : Statement (.fle b a d) := row32 rfl rfl rfl fun _ => by
  rw [major10]; simp [decodeMajor10]
theorem fclass (a d) : Statement (.fclass a d) := row32 rfl rfl rfl fun _ => by
  rw [major10]; simp [decodeMajor10]
theorem fneg (a d) : Statement (.fneg a d) := row32 rfl rfl rfl fun _ => by
  rw [major10]; simp [decodeMajor10]
theorem fabs (a d) : Statement (.fabs a d) := row32 rfl rfl rfl fun _ => by
  rw [major10]; simp [decodeMajor10]
theorem fcvtI64F32 (a d) : Statement (.fcvtI64F32 a d) := row32 rfl rfl rfl fun _ => by
  rw [major10]; simp [decodeMajor10]
theorem fcvtN64F32 (a d) : Statement (.fcvtN64F32 a d) := row32 rfl rfl rfl fun _ => by
  rw [major10]; simp [decodeMajor10]
theorem fcvtI32F32 (a d) : Statement (.fcvtI32F32 a d) := row32 rfl rfl rfl fun _ => by
  rw [major10]; simp [decodeMajor10]
theorem fcvtN32F32 (a d) : Statement (.fcvtN32F32 a d) := row32 rfl rfl rfl fun _ => by
  rw [major10]; simp [decodeMajor10]
theorem fcvtF32I64 (a d) : Statement (.fcvtF32I64 a d) := row32 rfl rfl rfl fun _ => by
  rw [major10]; simp [decodeMajor10]
theorem fcvtF32N64 (a d) : Statement (.fcvtF32N64 a d) := row32 rfl rfl rfl fun _ => by
  rw [major10]; simp [decodeMajor10]
theorem fcvtBf16F32 (a d) : Statement (.fcvtBf16F32 a d) := row32 rfl rfl rfl fun _ => by
  rw [major10]; simp [decodeMajor10]
theorem fcvtF16F32 (a d) : Statement (.fcvtF16F32 a d) := row32 rfl rfl rfl fun _ => by
  rw [major10]; simp [decodeMajor10]
theorem fcvtF32Bf16 (a d) : Statement (.fcvtF32Bf16 a d) := row32 rfl rfl rfl fun _ => by
  rw [major10]; simp [decodeMajor10]
theorem fcvtF32F16 (a d) : Statement (.fcvtF32F16 a d) := row32 rfl rfl rfl fun _ => by
  rw [major10]; simp [decodeMajor10]
theorem bEq (imm b a) : Statement (.bEq imm b a) := row32 rfl rfl rfl fun _ => by
  rw [major11]; simp [decodeMajor11]
theorem bNe (imm b a) : Statement (.bNe imm b a) := row32 rfl rfl rfl fun _ => by
  rw [major12]; simp [decodeMajor12]
theorem bLt (imm b a) : Statement (.bLt imm b a) := row32 rfl rfl rfl fun _ => by
  rw [major13]; simp [decodeMajor13]
theorem bGe (imm b a) : Statement (.bGe imm b a) := row32 rfl rfl rfl fun _ => by
  rw [major14]; simp [decodeMajor14]
theorem bLtn (imm b a) : Statement (.bLtn imm b a) := row32 rfl rfl rfl fun _ => by
  rw [major15]; simp [decodeMajor15]
theorem bGen (imm b a) : Statement (.bGen imm b a) := row32 rfl rfl rfl fun _ => by
  rw [major16]; simp [decodeMajor16]
theorem j (imm) : Statement (.j imm) := row32 rfl rfl rfl fun _ => by
  rw [major17]; simp [decodeMajor17]
theorem jal (imm) : Statement (.jal imm) := row32 rfl rfl rfl fun _ => by
  rw [major18]; simp [decodeMajor18]
theorem nop : Statement (.nop) := row32 rfl rfl rfl fun _ => by
  rw [major19]; simp [decodeMajor19]
theorem jr (a) : Statement (.jr a) := row32 rfl rfl rfl fun _ => by
  rw [major19]; simp [decodeMajor19]
theorem jalr (a d) : Statement (.jalr a d) := row32 rfl rfl rfl fun _ => by
  rw [major19]; simp [decodeMajor19]
theorem lp (len a) : Statement (.lp len a) := row32 rfl rfl rfl fun _ => by
  rw [major19]; simp [decodeMajor19]
theorem pca (d) : Statement (.pca d) := row32 rfl rfl rfl fun _ => by
  rw [major19]; simp [decodeMajor19]
theorem done : Statement (.done) := row32 rfl rfl rfl fun _ => by
  rw [major19]; simp [decodeMajor19]
theorem flush : Statement (.flush) := row32 rfl rfl rfl fun _ => by
  rw [major19]; simp [decodeMajor19]
theorem ld (off t base d) : Statement (.ld off t base d) := row32 rfl rfl rfl fun _ => by
  rw [major20]; simp [decodeMajor20]
theorem st (off t base s) : Statement (.st off t base s) := row32 rfl rfl rfl fun _ => by
  rw [major21]; simp [decodeMajor21]
theorem ldb (off t ti base d) : Statement (.ldb off t ti base d) := row32 rfl rfl rfl fun _ => by
  rw [major22]; simp [decodeMajor22]
theorem stb (off t ti base s) : Statement (.stb off t ti base s) := row32 rfl rfl rfl fun _ => by
  rw [major23]; simp [decodeMajor23]
theorem ldg (scale t o res d) : Statement (.ldg scale t o res d) := row32 rfl rfl rfl fun _ => by
  rw [major24]; simp [decodeMajor24]
theorem stg (scale t o res d) : Statement (.stg scale t o res d) := row32 rfl rfl rfl fun _ => by
  rw [major25]; simp [decodeMajor25]
theorem amoSwap (w b a d) : Statement (.amoSwap w b a d) := row32 rfl rfl rfl fun _ => by
  rw [major26]; cases w <;> simp [decodeMajor26, pack, unpack, AmoWidth.code, AmoWidth.ofCode]
theorem amoAdd (w b a d) : Statement (.amoAdd w b a d) := row32 rfl rfl rfl fun _ => by
  rw [major26]; cases w <;> simp [decodeMajor26, pack, unpack, AmoWidth.code, AmoWidth.ofCode]
theorem amoAnd (w b a d) : Statement (.amoAnd w b a d) := row32 rfl rfl rfl fun _ => by
  rw [major26]; cases w <;> simp [decodeMajor26, pack, unpack, AmoWidth.code, AmoWidth.ofCode]
theorem amoOr (w b a d) : Statement (.amoOr w b a d) := row32 rfl rfl rfl fun _ => by
  rw [major26]; cases w <;> simp [decodeMajor26, pack, unpack, AmoWidth.code, AmoWidth.ofCode]
theorem amoXor (w b a d) : Statement (.amoXor w b a d) := row32 rfl rfl rfl fun _ => by
  rw [major26]; cases w <;> simp [decodeMajor26, pack, unpack, AmoWidth.code, AmoWidth.ofCode]
theorem amoMaxI (w b a d) : Statement (.amoMaxI w b a d) := row32 rfl rfl rfl fun _ => by
  rw [major26]; cases w <;> simp [decodeMajor26, pack, unpack, AmoWidth.code, AmoWidth.ofCode]
theorem amoMinI (w b a d) : Statement (.amoMinI w b a d) := row32 rfl rfl rfl fun _ => by
  rw [major26]; cases w <;> simp [decodeMajor26, pack, unpack, AmoWidth.code, AmoWidth.ofCode]
theorem amoMaxN (w b a d) : Statement (.amoMaxN w b a d) := row32 rfl rfl rfl fun _ => by
  rw [major26]; cases w <;> simp [decodeMajor26, pack, unpack, AmoWidth.code, AmoWidth.ofCode]
theorem amoMinN (w b a d) : Statement (.amoMinN w b a d) := row32 rfl rfl rfl fun _ => by
  rw [major26]; cases w <;> simp [decodeMajor26, pack, unpack, AmoWidth.code, AmoWidth.ofCode]
theorem amoCas (w b a d) : Statement (.amoCas w b a d) := row32 rfl rfl rfl fun _ => by
  rw [major26]; cases w <;> simp [decodeMajor26, pack, unpack, AmoWidth.code, AmoWidth.ofCode]
theorem amoFadd (b a d) : Statement (.amoFadd b a d) := row32 rfl rfl rfl fun _ => by
  rw [major26]; simp [decodeMajor26]
theorem fence (scope vec kind) : Statement (.fence scope vec kind) := row32 rfl rfl rfl fun _ => by
  rw [major27]; simp [decodeMajor27]
theorem ldAcq (sys t a d) : Statement (.ldAcq sys t a d) := row32 rfl rfl rfl fun _ => by
  rw [major27]; simp [decodeMajor27]
theorem stRel (sys t a s) : Statement (.stRel sys t a s) := row32 rfl rfl rfl fun _ => by
  rw [major27]; simp [decodeMajor27]
theorem cinv (a) : Statement (.cinv a) := row32 rfl rfl rfl fun _ => by
  rw [major27]; simp [decodeMajor27]
theorem cinvAll : Statement (.cinvAll) := row32 rfl rfl rfl fun _ => by
  rw [major27]; simp [decodeMajor27]
theorem msgSend (rep b a) : Statement (.msgSend rep b a) := row32 rfl rfl rfl fun _ => by
  rw [major28]; simp [decodeMajor28]
theorem msgSendn (k rep a) : Statement (.msgSendn k rep a) := row32 rfl rfl rfl fun _ => by
  rw [major28]; simp [decodeMajor28]
theorem msgSpawn (a) : Statement (.msgSpawn a) := row32 rfl rfl rfl fun _ => by
  rw [major28]; simp [decodeMajor28]
theorem msgHost (b) : Statement (.msgHost b) := row32 rfl rfl rfl fun _ => by
  rw [major28]; simp [decodeMajor28]
theorem msgPut (rep b a) : Statement (.msgPut rep b a) := row32 rfl rfl rfl fun _ => by
  rw [major28]; simp [decodeMajor28]
theorem msgArg (b a) : Statement (.msgArg b a) := row32 rfl rfl rfl fun _ => by
  rw [major28]; simp [decodeMajor28]
theorem msgHdr (b a) : Statement (.msgHdr b a) := row32 rfl rfl rfl fun _ => by
  rw [major28]; simp [decodeMajor28]
theorem msgMask (c b) : Statement (.msgMask c b) := row32 rfl rfl rfl fun _ => by
  rw [major28]; simp [decodeMajor28]
theorem barArr (a) : Statement (.barArr a) := row32 rfl rfl rfl fun _ => by
  rw [major29]; simp [decodeMajor29]
theorem grpRank (b a) : Statement (.grpRank b a) := row32 rfl rfl rfl fun _ => by
  rw [major29]; simp [decodeMajor29]
theorem grpSize (b a) : Statement (.grpSize b a) := row32 rfl rfl rfl fun _ => by
  rw [major29]; simp [decodeMajor29]
theorem grpTile (b a) : Statement (.grpTile b a) := row32 rfl rfl rfl fun _ => by
  rw [major29]; simp [decodeMajor29]
theorem grpSend (rep b a) : Statement (.grpSend rep b a) := row32 rfl rfl rfl fun _ => by
  rw [major29]; simp [decodeMajor29]
theorem mxLdb (a) : Statement (.mxLdb a) := row32 rfl rfl rfl fun _ => by
  rw [major30]; simp [decodeMajor30]
theorem mxMma (notify c b a) : Statement (.mxMma notify c b a) := row32 rfl rfl rfl fun _ => by
  rw [major30]; simp [decodeMajor30]
theorem mxZero (notify c b) : Statement (.mxZero notify c b) := row32 rfl rfl rfl fun _ => by
  rw [major30]; simp [decodeMajor30]
theorem mxRd (notify c b a) : Statement (.mxRd notify c b a) := row32 rfl rfl rfl fun _ => by
  rw [major30]; simp [decodeMajor30]
theorem mxLdacc (notify c b a) : Statement (.mxLdacc notify c b a) := row32 rfl rfl rfl fun _ => by
  rw [major30]; simp [decodeMajor30]
theorem mxBay (notify c b a) : Statement (.mxBay notify c b a) := row32 rfl rfl rfl fun _ => by
  rw [major30]; simp [decodeMajor30]
theorem mxStat (b a) : Statement (.mxStat b a) := row32 rfl rfl rfl fun _ => by
  rw [major30]; simp [decodeMajor30]
theorem mxCfg (a) : Statement (.mxCfg a) := row32 rfl rfl rfl fun _ => by
  rw [major30]; simp [decodeMajor30]
theorem cpGl (chain notify c a) : Statement (.cpGl chain notify c a) := row32 rfl rfl rfl fun _ => by
  rw [major31]; simp [decodeMajor31]
theorem cpGb (chain notify c a) : Statement (.cpGb chain notify c a) := row32 rfl rfl rfl fun _ => by
  rw [major31]; simp [decodeMajor31]
theorem cpLg (notify c a) : Statement (.cpLg notify c a) := row32 rfl rfl rfl fun _ => by
  rw [major31]; simp [decodeMajor31]
theorem cpGg (notify c a) : Statement (.cpGg notify c a) := row32 rfl rfl rfl fun _ => by
  rw [major31]; simp [decodeMajor31]
theorem cpLb (chain notify c a) : Statement (.cpLb chain notify c a) := row32 rfl rfl rfl fun _ => by
  rw [major31]; simp [decodeMajor31]
theorem cpLs (chain notify c b a) : Statement (.cpLs chain notify c b a) := row32 rfl rfl rfl fun _ => by
  rw [major31]; simp [decodeMajor31]
theorem cpLsb (chain notify c b a) : Statement (.cpLsb chain notify c b a) := row32 rfl rfl rfl fun _ => by
  rw [major31]; simp [decodeMajor31]
theorem cpPl (chain notify c b a) : Statement (.cpPl chain notify c b a) := row32 rfl rfl rfl fun _ => by
  rw [major31]; simp [decodeMajor31]
theorem cpCancel (c b a) : Statement (.cpCancel c b a) := row32 rfl rfl rfl fun _ => by
  rw [major31]; simp [decodeMajor31]
theorem cpCfg (c b a) : Statement (.cpCfg c b a) := row32 rfl rfl rfl fun _ => by
  rw [major31]; simp [decodeMajor31]
theorem cpCrec (c b a) : Statement (.cpCrec c b a) := row32 rfl rfl rfl fun _ => by
  rw [major31]; simp [decodeMajor31]
theorem gxLd (chain notify c a) : Statement (.gxLd chain notify c a) := row32 rfl rfl rfl fun _ => by
  rw [major32]; simp [decodeMajor32]
theorem gxSt (notify c a) : Statement (.gxSt notify c a) := row32 rfl rfl rfl fun _ => by
  rw [major32]; simp [decodeMajor32]
theorem gxLdb (chain notify c a) : Statement (.gxLdb chain notify c a) := row32 rfl rfl rfl fun _ => by
  rw [major32]; simp [decodeMajor32]
theorem cmbMax (i32 b a) : Statement (.cmbMax i32 b a) := row32 rfl rfl rfl fun _ => by
  rw [major32]; simp [decodeMajor32]
theorem cmbMin (i32 b a) : Statement (.cmbMin i32 b a) := row32 rfl rfl rfl fun _ => by
  rw [major32]; simp [decodeMajor32]
theorem cmbLgc (op b a) : Statement (.cmbLgc op b a) := row32 rfl rfl rfl fun _ => by
  rw [major32]; simp [decodeMajor32]
theorem cmbAdd (b a) : Statement (.cmbAdd b a) := row32 rfl rfl rfl fun _ => by
  rw [major32]; simp [decodeMajor32]
theorem tmPub (now b) : Statement (.tmPub now b) := row32 rfl rfl rfl fun _ => by
  rw [major33]; simp [decodeMajor33]
theorem tmGet (b a) : Statement (.tmGet b a) := row32 rfl rfl rfl fun _ => by
  rw [major33]; simp [decodeMajor33]
theorem tmAge (b a) : Statement (.tmAge b a) := row32 rfl rfl rfl fun _ => by
  rw [major33]; simp [decodeMajor33]
theorem tmArm (b) : Statement (.tmArm b) := row32 rfl rfl rfl fun _ => by
  rw [major33]; simp [decodeMajor33]
theorem tmCfg (rd b a) : Statement (.tmCfg rd b a) := row32 rfl rfl rfl fun _ => by
  rw [major33]; simp [decodeMajor33]
theorem reqSub (b a) : Statement (.reqSub b a) := row32 rfl rfl rfl fun _ => by
  rw [major34]; simp [decodeMajor34]
theorem reqStep (a) : Statement (.reqStep a) := row32 rfl rfl rfl fun _ => by
  rw [major34]; simp [decodeMajor34]
theorem reqRd (b a) : Statement (.reqRd b a) := row32 rfl rfl rfl fun _ => by
  rw [major34]; simp [decodeMajor34]
theorem reqCommit (b a) : Statement (.reqCommit b a) := row32 rfl rfl rfl fun _ => by
  rw [major34]; simp [decodeMajor34]
theorem reqFault (a) : Statement (.reqFault a) := row32 rfl rfl rfl fun _ => by
  rw [major34]; simp [decodeMajor34]
theorem reqCfgRows (b a) : Statement (.reqCfgRows b a) := row32 rfl rfl rfl fun _ => by
  rw [major34]; simp [decodeMajor34]
theorem reqCfgStopset (b a) : Statement (.reqCfgStopset b a) := row32 rfl rfl rfl fun _ => by
  rw [major34]; simp [decodeMajor34]
theorem reqCancel (free b a) : Statement (.reqCancel free b a) := row32 rfl rfl rfl fun _ => by
  rw [major34]; simp [decodeMajor34]
theorem reqKvAttach (b a) : Statement (.reqKvAttach b a) := row32 rfl rfl rfl fun _ => by
  rw [major34]; simp [decodeMajor34]
theorem reqKvDetach (b a) : Statement (.reqKvDetach b a) := row32 rfl rfl rfl fun _ => by
  rw [major34]; simp [decodeMajor34]
theorem reqKvEvict (b a) : Statement (.reqKvEvict b a) := row32 rfl rfl rfl fun _ => by
  rw [major34]; simp [decodeMajor34]
theorem reqKvRelease (b a) : Statement (.reqKvRelease b a) := row32 rfl rfl rfl fun _ => by
  rw [major34]; simp [decodeMajor34]
theorem tmrSet (b a) : Statement (.tmrSet b a) := row32 rfl rfl rfl fun _ => by
  rw [major35]; simp [decodeMajor35]
theorem tmrRd (b a) : Statement (.tmrRd b a) := row32 rfl rfl rfl fun _ => by
  rw [major35]; simp [decodeMajor35]
theorem wktSeize (b a) : Statement (.wktSeize b a) := row32 rfl rfl rfl fun _ => by
  rw [major35]; simp [decodeMajor35]
theorem wktRel (a) : Statement (.wktRel a) := row32 rfl rfl rfl fun _ => by
  rw [major35]; simp [decodeMajor35]
theorem wktStat (b a) : Statement (.wktStat b a) := row32 rfl rfl rfl fun _ => by
  rw [major35]; simp [decodeMajor35]
theorem extW (n a) : Statement (.extW n a) := row32 rfl rfl rfl fun _ => by
  rw [major36]; simp [decodeMajor36]
theorem extGet (n a) : Statement (.extGet n a) := row32 rfl rfl rfl fun _ => by
  rw [major36]; simp [decodeMajor36]
theorem extLix (n imm) : Statement (.extLix n imm) := row32 rfl rfl rfl fun _ => by
  rw [major36]; simp [decodeMajor36]
theorem extLixs (n imm) : Statement (.extLixs n imm) := row32 rfl rfl rfl fun _ => by
  rw [major36]; simp [decodeMajor36]
theorem shpLd (n b) : Statement (.shpLd n b) := row32 rfl rfl rfl fun _ => by
  rw [major36]; simp [decodeMajor36]
theorem shpSt (n b) : Statement (.shpSt n b) := row32 rfl rfl rfl fun _ => by
  rw [major36]; simp [decodeMajor36]
theorem shpSet (n f a) : Statement (.shpSet n f a) := row32 rfl rfl rfl fun _ => by
  rw [major36]; simp [decodeMajor36]
theorem shpGet (n f a) : Statement (.shpGet n f a) := row32 rfl rfl rfl fun _ => by
  rw [major36]; simp [decodeMajor36]
theorem recSlice (idx b a) : Statement (.recSlice idx b a) := row32 rfl rfl rfl fun _ => by
  rw [major36]; simp [decodeMajor36]
theorem csrRw (n a d) : Statement (.csrRw n a d) := row32 rfl rfl rfl fun _ => by
  rw [major37]; simp [decodeMajor37]
theorem csrRs (n a d) : Statement (.csrRs n a d) := row32 rfl rfl rfl fun _ => by
  rw [major37]; simp [decodeMajor37]
theorem csrRc (n a d) : Statement (.csrRc n a d) := row32 rfl rfl rfl fun _ => by
  rw [major37]; simp [decodeMajor37]
theorem wakeReq : Statement (.wakeReq) := none_row rfl
theorem tret : Statement (.tret) := row32 rfl rfl rfl fun _ => by
  rw [major38]; simp [decodeMajor38]
theorem trapAb (a) : Statement (.trapAb a) := row32 rfl rfl rfl fun _ => by
  rw [major38]; simp [decodeMajor38]
theorem trapDead (a) : Statement (.trapDead a) := row32 rfl rfl rfl fun _ => by
  rw [major38]; simp [decodeMajor38]
theorem frzRel (b a d) : Statement (.frzRel b a d) := row32 rfl rfl rfl fun _ => by
  rw [major38]; simp [decodeMajor38]
theorem eqPop (b d) : Statement (.eqPop b d) := row32 rfl rfl rfl fun _ => by
  rw [major38]; simp [decodeMajor38]
theorem tlbWr (b a d) : Statement (.tlbWr b a d) := row32 rfl rfl rfl fun _ => by
  rw [major38]; simp [decodeMajor38]
theorem tlbNak (b a d) : Statement (.tlbNak b a d) := row32 rfl rfl rfl fun _ => by
  rw [major38]; simp [decodeMajor38]
theorem tlbInv (a d) : Statement (.tlbInv a d) := row32 rfl rfl rfl fun _ => by
  rw [major38]; simp [decodeMajor38]
theorem tlbInvt (a d) : Statement (.tlbInvt a d) := row32 rfl rfl rfl fun _ => by
  rw [major38]; simp [decodeMajor38]
theorem resWr (b a d) : Statement (.resWr b a d) := row32 rfl rfl rfl fun _ => by
  rw [major38]; simp [decodeMajor38]
theorem resRd (b a) : Statement (.resRd b a) := row32 rfl rfl rfl fun _ => by
  rw [major38]; simp [decodeMajor38]
theorem bndWr (b a) : Statement (.bndWr b a) := row32 rfl rfl rfl fun _ => by
  rw [major38]; simp [decodeMajor38]
theorem bndRd (a d) : Statement (.bndRd a d) := row32 rfl rfl rfl fun _ => by
  rw [major38]; simp [decodeMajor38]
theorem bndClr (a) : Statement (.bndClr a) := row32 rfl rfl rfl fun _ => by
  rw [major38]; simp [decodeMajor38]
theorem wearRd (b d) : Statement (.wearRd b d) := row32 rfl rfl rfl fun _ => by
  rw [major38]; simp [decodeMajor38]
theorem lvHold (a) : Statement (.lvHold a) := row32 rfl rfl rfl fun _ => by
  rw [major38]; simp [decodeMajor38]
theorem lvDrop : Statement (.lvDrop) := row32 rfl rfl rfl fun _ => by
  rw [major38]; simp [decodeMajor38]
theorem lvStat (b d) : Statement (.lvStat b d) := row32 rfl rfl rfl fun _ => by
  rw [major38]; simp [decodeMajor38]
theorem lvShare (b a d) : Statement (.lvShare b a d) := row32 rfl rfl rfl fun _ => by
  rw [major38]; simp [decodeMajor38]
theorem wearSet (b a d) : Statement (.wearSet b a d) := row32 rfl rfl rfl fun _ => by
  rw [major38]; simp [decodeMajor38]
theorem partMk (a d) : Statement (.partMk a d) := row32 rfl rfl rfl fun _ => by
  rw [major38]; simp [decodeMajor38]
theorem partFree (a d) : Statement (.partFree a d) := row32 rfl rfl rfl fun _ => by
  rw [major38]; simp [decodeMajor38]
theorem partHold (b a d) : Statement (.partHold b a d) := row32 rfl rfl rfl fun _ => by
  rw [major38]; simp [decodeMajor38]
theorem partHalt (b a d) : Statement (.partHalt b a d) := row32 rfl rfl rfl fun _ => by
  rw [major38]; simp [decodeMajor38]
theorem partSwap (b a d) : Statement (.partSwap b a d) := row32 rfl rfl rfl fun _ => by
  rw [major38]; simp [decodeMajor38]
theorem shutPost (b a d) : Statement (.shutPost b a d) := row32 rfl rfl rfl fun _ => by
  rw [major38]; simp [decodeMajor38]
theorem shutStat (b a d) : Statement (.shutStat b a d) := row32 rfl rfl rfl fun _ => by
  rw [major38]; simp [decodeMajor38]
theorem vfCtlPause (b a d) : Statement (.vfCtlPause b a d) := row32 rfl rfl rfl fun _ => by
  rw [major38]; simp [decodeMajor38]
theorem vfCtlResume (x0 x1 x2) : Statement (.vfCtlResume x0 x1 x2) := none_row rfl
theorem vfCtlReset (x0 x1 x2) : Statement (.vfCtlReset x0 x1 x2) := none_row rfl
theorem vfCtlTeardown (x0 x1 x2) : Statement (.vfCtlTeardown x0 x1 x2) := none_row rfl
theorem vfadd (vs t km vb va vd) : Statement (.vfadd vs t km vb va vd) := row32 rfl rfl rfl fun _ => by
  rw [major39]; cases vs <;> cases t <;> simp [decodeMajor39, -Fin.ofNat_eq_cast, pack, unpack, FpType.code, FpType.ofCode]
theorem vfsub (vs t km vb va vd) : Statement (.vfsub vs t km vb va vd) := row32 rfl rfl rfl fun _ => by
  rw [major39]; cases vs <;> cases t <;> simp [decodeMajor39, -Fin.ofNat_eq_cast, pack, unpack, FpType.code, FpType.ofCode]
theorem vfmul (vs t km vb va vd) : Statement (.vfmul vs t km vb va vd) := row32 rfl rfl rfl fun _ => by
  rw [major39]; cases vs <;> cases t <;> simp [decodeMajor39, -Fin.ofNat_eq_cast, pack, unpack, FpType.code, FpType.ofCode]
theorem vfma (vs t km vb va vd) : Statement (.vfma vs t km vb va vd) := row32 rfl rfl rfl fun _ => by
  rw [major39]; cases vs <;> cases t <;> simp [decodeMajor39, -Fin.ofNat_eq_cast, pack, unpack, FpType.code, FpType.ofCode]
theorem vfnma (vs t km vb va vd) : Statement (.vfnma vs t km vb va vd) := row32 rfl rfl rfl fun _ => by
  rw [major39]; cases vs <;> cases t <;> simp [decodeMajor39, -Fin.ofNat_eq_cast, pack, unpack, FpType.code, FpType.ofCode]
theorem vfmin (vs t km vb va vd) : Statement (.vfmin vs t km vb va vd) := row32 rfl rfl rfl fun _ => by
  rw [major39]; cases vs <;> cases t <;> simp [decodeMajor39, -Fin.ofNat_eq_cast, pack, unpack, FpType.code, FpType.ofCode]
theorem vfmax (vs t km vb va vd) : Statement (.vfmax vs t km vb va vd) := row32 rfl rfl rfl fun _ => by
  rw [major39]; cases vs <;> cases t <;> simp [decodeMajor39, -Fin.ofNat_eq_cast, pack, unpack, FpType.code, FpType.ofCode]
theorem vfdiv (vs t km vb va vd) : Statement (.vfdiv vs t km vb va vd) := row32 rfl rfl rfl fun _ => by
  rw [major39]; cases vs <;> cases t <;> simp [decodeMajor39, -Fin.ofNat_eq_cast, pack, unpack, FpType.code, FpType.ofCode]
theorem vadd (vs z km vb va vd) : Statement (.vadd vs z km vb va vd) := row32 rfl rfl rfl fun _ => by
  rw [major40]; cases vs <;> cases z <;> simp [decodeMajor40, -Fin.ofNat_eq_cast, pack, unpack, EltSize.code, EltSize.ofCode]
theorem vsub (vs z km vb va vd) : Statement (.vsub vs z km vb va vd) := row32 rfl rfl rfl fun _ => by
  rw [major40]; cases vs <;> cases z <;> simp [decodeMajor40, -Fin.ofNat_eq_cast, pack, unpack, EltSize.code, EltSize.ofCode]
theorem vmul (vs z km vb va vd) : Statement (.vmul vs z km vb va vd) := row32 rfl rfl rfl fun _ => by
  rw [major40]; cases vs <;> cases z <;> simp [decodeMajor40, -Fin.ofNat_eq_cast, pack, unpack, EltSize.code, EltSize.ofCode]
theorem vmac (vs z km vb va vd) : Statement (.vmac vs z km vb va vd) := row32 rfl rfl rfl fun _ => by
  rw [major40]; cases vs <;> cases z <;> simp [decodeMajor40, -Fin.ofNat_eq_cast, pack, unpack, EltSize.code, EltSize.ofCode]
theorem vminI (vs z km vb va vd) : Statement (.vminI vs z km vb va vd) := row32 rfl rfl rfl fun _ => by
  rw [major40]; cases vs <;> cases z <;> simp [decodeMajor40, -Fin.ofNat_eq_cast, pack, unpack, EltSize.code, EltSize.ofCode]
theorem vmaxI (vs z km vb va vd) : Statement (.vmaxI vs z km vb va vd) := row32 rfl rfl rfl fun _ => by
  rw [major40]; cases vs <;> cases z <;> simp [decodeMajor40, -Fin.ofNat_eq_cast, pack, unpack, EltSize.code, EltSize.ofCode]
theorem vminN (vs z km vb va vd) : Statement (.vminN vs z km vb va vd) := row32 rfl rfl rfl fun _ => by
  rw [major40]; cases vs <;> cases z <;> simp [decodeMajor40, -Fin.ofNat_eq_cast, pack, unpack, EltSize.code, EltSize.ofCode]
theorem vmaxN (vs z km vb va vd) : Statement (.vmaxN vs z km vb va vd) := row32 rfl rfl rfl fun _ => by
  rw [major40]; cases vs <;> cases z <;> simp [decodeMajor40, -Fin.ofNat_eq_cast, pack, unpack, EltSize.code, EltSize.ofCode]
theorem vand (vs z km vb va vd) : Statement (.vand vs z km vb va vd) := row32 rfl rfl rfl fun _ => by
  rw [major41]; cases vs <;> cases z <;> simp [decodeMajor41, -Fin.ofNat_eq_cast, pack, unpack, EltSize.code, EltSize.ofCode]
theorem vor (vs z km vb va vd) : Statement (.vor vs z km vb va vd) := row32 rfl rfl rfl fun _ => by
  rw [major41]; cases vs <;> cases z <;> simp [decodeMajor41, -Fin.ofNat_eq_cast, pack, unpack, EltSize.code, EltSize.ofCode]
theorem vxor (vs z km vb va vd) : Statement (.vxor vs z km vb va vd) := row32 rfl rfl rfl fun _ => by
  rw [major41]; cases vs <;> cases z <;> simp [decodeMajor41, -Fin.ofNat_eq_cast, pack, unpack, EltSize.code, EltSize.ofCode]
theorem vandn (vs z km vb va vd) : Statement (.vandn vs z km vb va vd) := row32 rfl rfl rfl fun _ => by
  rw [major41]; cases vs <;> cases z <;> simp [decodeMajor41, -Fin.ofNat_eq_cast, pack, unpack, EltSize.code, EltSize.ofCode]
theorem vsll (vs z km vb va vd) : Statement (.vsll vs z km vb va vd) := row32 rfl rfl rfl fun _ => by
  rw [major41]; cases vs <;> cases z <;> simp [decodeMajor41, -Fin.ofNat_eq_cast, pack, unpack, EltSize.code, EltSize.ofCode]
theorem vsrl (vs z km vb va vd) : Statement (.vsrl vs z km vb va vd) := row32 rfl rfl rfl fun _ => by
  rw [major41]; cases vs <;> cases z <;> simp [decodeMajor41, -Fin.ofNat_eq_cast, pack, unpack, EltSize.code, EltSize.ofCode]
theorem vsra (vs z km vb va vd) : Statement (.vsra vs z km vb va vd) := row32 rfl rfl rfl fun _ => by
  rw [major41]; cases vs <;> cases z <;> simp [decodeMajor41, -Fin.ofNat_eq_cast, pack, unpack, EltSize.code, EltSize.ofCode]
theorem vmov (vs z km vb vd) : Statement (.vmov vs z km vb vd) := row32 rfl rfl rfl fun _ => by
  rw [major41]; cases vs <;> cases z <;> simp [decodeMajor41, -Fin.ofNat_eq_cast, pack, unpack, EltSize.code, EltSize.ofCode]
theorem vceq (vs z km vb va vd) : Statement (.vceq vs z km vb va vd) := row32 rfl rfl rfl fun _ => by
  rw [major42]; cases vs <;> cases z <;> simp [decodeMajor42, -Fin.ofNat_eq_cast, pack, unpack, EltSize.code, EltSize.ofCode]
theorem vclt (vs z km vb va vd) : Statement (.vclt vs z km vb va vd) := row32 rfl rfl rfl fun _ => by
  rw [major42]; cases vs <;> cases z <;> simp [decodeMajor42, -Fin.ofNat_eq_cast, pack, unpack, EltSize.code, EltSize.ofCode]
theorem vcge (vs z km vb va vd) : Statement (.vcge vs z km vb va vd) := row32 rfl rfl rfl fun _ => by
  rw [major42]; cases vs <;> cases z <;> simp [decodeMajor42, -Fin.ofNat_eq_cast, pack, unpack, EltSize.code, EltSize.ofCode]
theorem vcltn (vs z km vb va vd) : Statement (.vcltn vs z km vb va vd) := row32 rfl rfl rfl fun _ => by
  rw [major42]; cases vs <;> cases z <;> simp [decodeMajor42, -Fin.ofNat_eq_cast, pack, unpack, EltSize.code, EltSize.ofCode]
theorem vcgen (vs z km vb va vd) : Statement (.vcgen vs z km vb va vd) := row32 rfl rfl rfl fun _ => by
  rw [major42]; cases vs <;> cases z <;> simp [decodeMajor42, -Fin.ofNat_eq_cast, pack, unpack, EltSize.code, EltSize.ofCode]
theorem vfeq (vs t km vb va vd) : Statement (.vfeq vs t km vb va vd) := row32 rfl rfl rfl fun _ => by
  rw [major42]; cases vs <;> cases t <;> simp [decodeMajor42, -Fin.ofNat_eq_cast, pack, unpack, FpType.code, FpType.ofCode]
theorem vflt (vs t km vb va vd) : Statement (.vflt vs t km vb va vd) := row32 rfl rfl rfl fun _ => by
  rw [major42]; cases vs <;> cases t <;> simp [decodeMajor42, -Fin.ofNat_eq_cast, pack, unpack, FpType.code, FpType.ofCode]
theorem vfle (vs t km vb va vd) : Statement (.vfle vs t km vb va vd) := row32 rfl rfl rfl fun _ => by
  rw [major42]; cases vs <;> cases t <;> simp [decodeMajor42, -Fin.ofNat_eq_cast, pack, unpack, FpType.code, FpType.ofCode]
theorem kand (vb va vd) : Statement (.kand vb va vd) := row32 rfl rfl rfl fun _ => by
  rw [major42]; simp [decodeMajor42, -Fin.ofNat_eq_cast]
theorem kor (vb va vd) : Statement (.kor vb va vd) := row32 rfl rfl rfl fun _ => by
  rw [major42]; simp [decodeMajor42, -Fin.ofNat_eq_cast]
theorem kxor (vb va vd) : Statement (.kxor vb va vd) := row32 rfl rfl rfl fun _ => by
  rw [major42]; simp [decodeMajor42, -Fin.ofNat_eq_cast]
theorem kandn (vb va vd) : Statement (.kandn vb va vd) := row32 rfl rfl rfl fun _ => by
  rw [major42]; simp [decodeMajor42, -Fin.ofNat_eq_cast]
theorem knot (va vd) : Statement (.knot va vd) := row32 rfl rfl rfl fun _ => by
  rw [major42]; simp [decodeMajor42, -Fin.ofNat_eq_cast]
theorem kpop (va vd) : Statement (.kpop va vd) := row32 rfl rfl rfl fun _ => by
  rw [major42]; simp [decodeMajor42, -Fin.ofNat_eq_cast]
theorem kfirst (va vd) : Statement (.kfirst va vd) := row32 rfl rfl rfl fun _ => by
  rw [major42]; simp [decodeMajor42, -Fin.ofNat_eq_cast]
theorem kword (va vd) : Statement (.kword va vd) := row32 rfl rfl rfl fun _ => by
  rw [major42]; simp [decodeMajor42, -Fin.ofNat_eq_cast]
theorem klo (vb vd) : Statement (.klo vb vd) := row32 rfl rfl rfl fun _ => by
  rw [major42]; simp [decodeMajor42, -Fin.ofNat_eq_cast]
theorem kset (vb vd) : Statement (.kset vb vd) := row32 rfl rfl rfl fun _ => by
  rw [major42]; simp [decodeMajor42, -Fin.ofNat_eq_cast]
theorem vcvtF32Bf16 (km part va vd) : Statement (.vcvtF32Bf16 km part va vd) := row32 rfl rfl rfl fun _ => by
  rw [major43]; simp [decodeMajor43, -Fin.ofNat_eq_cast]
theorem vcvtF32F16 (km part va vd) : Statement (.vcvtF32F16 km part va vd) := row32 rfl rfl rfl fun _ => by
  rw [major43]; simp [decodeMajor43, -Fin.ofNat_eq_cast]
theorem vcvtBf16F32 (km vb va vd) : Statement (.vcvtBf16F32 km vb va vd) := row32 rfl rfl rfl fun _ => by
  rw [major43]; simp [decodeMajor43, -Fin.ofNat_eq_cast]
theorem vcvtF16F32 (km vb va vd) : Statement (.vcvtF16F32 km vb va vd) := row32 rfl rfl rfl fun _ => by
  rw [major43]; simp [decodeMajor43, -Fin.ofNat_eq_cast]
theorem vcvtF16Bf16 (km va vd) : Statement (.vcvtF16Bf16 km va vd) := row32 rfl rfl rfl fun _ => by
  rw [major43]; simp [decodeMajor43, -Fin.ofNat_eq_cast]
theorem vcvtBf16F16 (km va vd) : Statement (.vcvtBf16F16 km va vd) := row32 rfl rfl rfl fun _ => by
  rw [major43]; simp [decodeMajor43, -Fin.ofNat_eq_cast]
theorem vcvtF32I32 (km va vd) : Statement (.vcvtF32I32 km va vd) := row32 rfl rfl rfl fun _ => by
  rw [major43]; simp [decodeMajor43, -Fin.ofNat_eq_cast]
theorem vcvtI32F32 (km va vd) : Statement (.vcvtI32F32 km va vd) := row32 rfl rfl rfl fun _ => by
  rw [major43]; simp [decodeMajor43, -Fin.ofNat_eq_cast]
theorem vcvtF32I8 (km part va vd) : Statement (.vcvtF32I8 km part va vd) := row32 rfl rfl rfl fun _ => by
  rw [major43]; simp [decodeMajor43, -Fin.ofNat_eq_cast]
theorem vwidI16I8 (km part va vd) : Statement (.vwidI16I8 km part va vd) := row32 rfl rfl rfl fun _ => by
  rw [major43]; simp [decodeMajor43, -Fin.ofNat_eq_cast]
theorem vwidI32I16 (km part va vd) : Statement (.vwidI32I16 km part va vd) := row32 rfl rfl rfl fun _ => by
  rw [major43]; simp [decodeMajor43, -Fin.ofNat_eq_cast]
theorem vwidN16N8 (km part va vd) : Statement (.vwidN16N8 km part va vd) := row32 rfl rfl rfl fun _ => by
  rw [major43]; simp [decodeMajor43, -Fin.ofNat_eq_cast]
theorem vwidN32N16 (km part va vd) : Statement (.vwidN32N16 km part va vd) := row32 rfl rfl rfl fun _ => by
  rw [major43]; simp [decodeMajor43, -Fin.ofNat_eq_cast]
theorem vnarI8I16 (km vb va vd) : Statement (.vnarI8I16 km vb va vd) := row32 rfl rfl rfl fun _ => by
  rw [major43]; simp [decodeMajor43, -Fin.ofNat_eq_cast]
theorem vnarI16I32 (km vb va vd) : Statement (.vnarI16I32 km vb va vd) := row32 rfl rfl rfl fun _ => by
  rw [major43]; simp [decodeMajor43, -Fin.ofNat_eq_cast]
theorem vgscLo (km vb va vd) : Statement (.vgscLo km vb va vd) := row32 rfl rfl rfl fun _ => by
  rw [major43]; simp [decodeMajor43, -Fin.ofNat_eq_cast]
theorem vgscHi (km vb va vd) : Statement (.vgscHi km vb va vd) := row32 rfl rfl rfl fun _ => by
  rw [major43]; simp [decodeMajor43, -Fin.ofNat_eq_cast]
theorem vunpkI8I4 (km part va vd) : Statement (.vunpkI8I4 km part va vd) := row32 rfl rfl rfl fun _ => by
  rw [major43]; simp [decodeMajor43, -Fin.ofNat_eq_cast]
theorem vpkI4I8 (km vb va vd) : Statement (.vpkI4I8 km vb va vd) := row32 rfl rfl rfl fun _ => by
  rw [major43]; simp [decodeMajor43, -Fin.ofNat_eq_cast]
theorem vpermB (km vb va vd) : Statement (.vpermB km vb va vd) := row32 rfl rfl rfl fun _ => by
  rw [major44]; simp [decodeMajor44, -Fin.ofNat_eq_cast]
theorem vnibLo (km vb va vd) : Statement (.vnibLo km vb va vd) := row32 rfl rfl rfl fun _ => by
  rw [major44]; simp [decodeMajor44, -Fin.ofNat_eq_cast]
theorem vnibHi (km vb va vd) : Statement (.vnibHi km vb va vd) := row32 rfl rfl rfl fun _ => by
  rw [major44]; simp [decodeMajor44, -Fin.ofNat_eq_cast]
theorem vbcast (z km el va vd) : Statement (.vbcast z km el va vd) := row32 rfl rfl rfl fun _ => by
  rw [major44]; cases z <;> simp [decodeMajor44, -Fin.ofNat_eq_cast, pack, unpack, EltSize.code, EltSize.ofCode]
theorem vslup (z km cnt va vd) : Statement (.vslup z km cnt va vd) := row32 rfl rfl rfl fun _ => by
  rw [major44]; cases z <;> simp [decodeMajor44, -Fin.ofNat_eq_cast, pack, unpack, EltSize.code, EltSize.ofCode]
theorem vsldn (z km cnt va vd) : Statement (.vsldn z km cnt va vd) := row32 rfl rfl rfl fun _ => by
  rw [major44]; cases z <;> simp [decodeMajor44, -Fin.ofNat_eq_cast, pack, unpack, EltSize.code, EltSize.ofCode]
theorem vcomp (z km va vd) : Statement (.vcomp z km va vd) := row32 rfl rfl rfl fun _ => by
  rw [major44]; cases z <;> simp [decodeMajor44, -Fin.ofNat_eq_cast, pack, unpack, EltSize.code, EltSize.ofCode]
theorem vidx (z km vd) : Statement (.vidx z km vd) := row32 rfl rfl rfl fun _ => by
  rw [major44]; cases z <;> simp [decodeMajor44, -Fin.ofNat_eq_cast, pack, unpack, EltSize.code, EltSize.ofCode]
theorem vmvq (z el va vd) : Statement (.vmvq z el va vd) := row32 rfl rfl rfl fun _ => by
  rw [major44]; cases z <;> simp [decodeMajor44, -Fin.ofNat_eq_cast, pack, unpack, EltSize.code, EltSize.ofCode]
theorem vrsum (t km va vd) : Statement (.vrsum t km va vd) := row32 rfl rfl rfl fun _ => by
  rw [major45]; cases t <;> simp [decodeMajor45, -Fin.ofNat_eq_cast, pack, unpack, RedType.code, RedType.ofCode]
theorem vrmax (t km va vd) : Statement (.vrmax t km va vd) := row32 rfl rfl rfl fun _ => by
  rw [major45]; cases t <;> simp [decodeMajor45, -Fin.ofNat_eq_cast, pack, unpack, RedType.code, RedType.ofCode]
theorem vrmin (t km va vd) : Statement (.vrmin t km va vd) := row32 rfl rfl rfl fun _ => by
  rw [major45]; cases t <;> simp [decodeMajor45, -Fin.ofNat_eq_cast, pack, unpack, RedType.code, RedType.ofCode]
theorem vramax (t km va vd) : Statement (.vramax t km va vd) := row32 rfl rfl rfl fun _ => by
  rw [major45]; cases t <;> simp [decodeMajor45, -Fin.ofNat_eq_cast, pack, unpack, RedType.code, RedType.ofCode]
theorem vramin (t km va vd) : Statement (.vramin t km va vd) := row32 rfl rfl rfl fun _ => by
  rw [major45]; cases t <;> simp [decodeMajor45, -Fin.ofNat_eq_cast, pack, unpack, RedType.code, RedType.ofCode]
theorem vscan (t km va vd) : Statement (.vscan t km va vd) := row32 rfl rfl rfl fun _ => by
  rw [major45]; cases t <;> simp [decodeMajor45, -Fin.ofNat_eq_cast, pack, unpack, RedType.code, RedType.ofCode]
theorem vhist (t km cnt va vd) : Statement (.vhist t km cnt va vd) := row32 rfl rfl rfl fun _ => by
  rw [major45]; cases t <;> simp [decodeMajor45, -Fin.ofNat_eq_cast, pack, unpack, RedType.code, RedType.ofCode]
theorem vexp2 (km va vd) : Statement (.vexp2 km va vd) := row32 rfl rfl rfl fun _ => by
  rw [major46]; simp [decodeMajor46, -Fin.ofNat_eq_cast]
theorem vlog2 (km va vd) : Statement (.vlog2 km va vd) := row32 rfl rfl rfl fun _ => by
  rw [major46]; simp [decodeMajor46, -Fin.ofNat_eq_cast]
theorem vrcp (km va vd) : Statement (.vrcp km va vd) := row32 rfl rfl rfl fun _ => by
  rw [major46]; simp [decodeMajor46, -Fin.ofNat_eq_cast]
theorem vrsqrt (km va vd) : Statement (.vrsqrt km va vd) := row32 rfl rfl rfl fun _ => by
  rw [major46]; simp [decodeMajor46, -Fin.ofNat_eq_cast]
theorem vsqrt (km va vd) : Statement (.vsqrt km va vd) := row32 rfl rfl rfl fun _ => by
  rw [major46]; simp [decodeMajor46, -Fin.ofNat_eq_cast]
theorem vrngN32 (km vb va vd) : Statement (.vrngN32 km vb va vd) := row32 rfl rfl rfl fun _ => by
  rw [major46]; simp [decodeMajor46, -Fin.ofNat_eq_cast]
theorem vrngF32 (km vb va vd) : Statement (.vrngF32 km vb va vd) := row32 rfl rfl rfl fun _ => by
  rw [major46]; simp [decodeMajor46, -Fin.ofNat_eq_cast]
theorem vord (t km va vd) : Statement (.vord t km va vd) := row32 rfl rfl rfl fun _ => by
  rw [major46]; cases t <;> simp [decodeMajor46, -Fin.ofNat_eq_cast, pack, unpack, OrdType.code, OrdType.ofCode]
theorem vordi (t km va vd) : Statement (.vordi t km va vd) := row32 rfl rfl rfl fun _ => by
  rw [major46]; cases t <;> simp [decodeMajor46, -Fin.ofNat_eq_cast, pack, unpack, OrdType.code, OrdType.ofCode]
theorem vld (km base v) : Statement (.vld km base v) := row32 rfl rfl rfl fun _ => by
  rw [major47]; simp [decodeMajor47, -Fin.ofNat_eq_cast]
theorem vst (km base v) : Statement (.vst km base v) := row32 rfl rfl rfl fun _ => by
  rw [major47]; simp [decodeMajor47, -Fin.ofNat_eq_cast]
theorem vlds (km stride base v) : Statement (.vlds km stride base v) := row32 rfl rfl rfl fun _ => by
  rw [major47]; simp [decodeMajor47, -Fin.ofNat_eq_cast]
theorem vsts (km stride base v) : Statement (.vsts km stride base v) := row32 rfl rfl rfl fun _ => by
  rw [major47]; simp [decodeMajor47, -Fin.ofNat_eq_cast]
theorem vldg (km base v) : Statement (.vldg km base v) := row32 rfl rfl rfl fun _ => by
  rw [major47]; simp [decodeMajor47, -Fin.ofNat_eq_cast]
theorem vstg (km base v) : Statement (.vstg km base v) := row32 rfl rfl rfl fun _ => by
  rw [major47]; simp [decodeMajor47, -Fin.ofNat_eq_cast]
theorem vldb (km base v) : Statement (.vldb km base v) := row32 rfl rfl rfl fun _ => by
  rw [major47]; simp [decodeMajor47, -Fin.ofNat_eq_cast]
theorem compactAdd (b d) : Statement (.compactAdd b d) := row16 rfl rfl (by decide) (by decide) (by simp [pack]) fun _ => by
  rw [quadrant0]; simp [decodeQuadrant0, -Fin.ofNat_eq_cast]
theorem compactSub (b d) : Statement (.compactSub b d) := row16 rfl rfl (by decide) (by decide) (by simp [pack]) fun _ => by
  rw [quadrant0]; simp [decodeQuadrant0, -Fin.ofNat_eq_cast]
theorem compactAnd (b d) : Statement (.compactAnd b d) := row16 rfl rfl (by decide) (by decide) (by simp [pack]) fun _ => by
  rw [quadrant0]; simp [decodeQuadrant0, -Fin.ofNat_eq_cast]
theorem compactOr (b d) : Statement (.compactOr b d) := row16 rfl rfl (by decide) (by decide) (by simp [pack]) fun _ => by
  rw [quadrant0]; simp [decodeQuadrant0, -Fin.ofNat_eq_cast]
theorem compactXor (b d) : Statement (.compactXor b d) := row16 rfl rfl (by decide) (by decide) (by simp [pack]) fun _ => by
  rw [quadrant0]; simp [decodeQuadrant0, -Fin.ofNat_eq_cast]
theorem compactSll (b d) : Statement (.compactSll b d) := row16 rfl rfl (by decide) (by decide) (by simp [pack]) fun _ => by
  rw [quadrant0]; simp [decodeQuadrant0, -Fin.ofNat_eq_cast]
theorem compactSrl (b d) : Statement (.compactSrl b d) := row16 rfl rfl (by decide) (by decide) (by simp [pack]) fun _ => by
  rw [quadrant0]; simp [decodeQuadrant0, -Fin.ofNat_eq_cast]
theorem compactSra (b d) : Statement (.compactSra b d) := row16 rfl rfl (by decide) (by decide) (by simp [pack]) fun _ => by
  rw [quadrant0]; simp [decodeQuadrant0, -Fin.ofNat_eq_cast]
theorem compactMul (b d) : Statement (.compactMul b d) := row16 rfl rfl (by decide) (by decide) (by simp [pack]) fun _ => by
  rw [quadrant0]; simp [decodeQuadrant0, -Fin.ofNat_eq_cast]
theorem compactMove (b d) : Statement (.compactMove b d) := row16 rfl rfl (by decide) (by decide) (by simp [pack]) fun _ => by
  rw [quadrant0]; simp [decodeQuadrant0, -Fin.ofNat_eq_cast]
theorem compactAddi (imm d) : Statement (.compactAddi imm d) := row16 rfl rfl (by decide) (by decide) (by simp [pack]) fun _ => by
  rw [quadrant1]; simp [decodeQuadrant1, -Fin.ofNat_eq_cast]
theorem compactLix (imm d) : Statement (.compactLix imm d) := row16 rfl rfl (by decide) (by decide) (by simp [pack]) fun _ => by
  rw [quadrant1]; simp [decodeQuadrant1, -Fin.ofNat_eq_cast]
theorem compactAndi (imm d) : Statement (.compactAndi imm d) := row16 rfl rfl (by decide) (by decide) (by simp [pack]) fun _ => by
  rw [quadrant1]; simp [decodeQuadrant1, -Fin.ofNat_eq_cast]
theorem compactSlli (imm d) : Statement (.compactSlli imm d) := row16 rfl rfl (by decide) (by decide) (by simp [pack]) fun _ => by
  rw [quadrant1]; simp [decodeQuadrant1, -Fin.ofNat_eq_cast]
theorem compactSrli (imm d) : Statement (.compactSrli imm d) := row16 rfl rfl (by decide) (by decide) (by simp [pack]) fun _ => by
  rw [quadrant1]; simp [decodeQuadrant1, -Fin.ofNat_eq_cast]
theorem compactSrai (imm d) : Statement (.compactSrai imm d) := row16 rfl rfl (by decide) (by decide) (by simp [pack]) fun _ => by
  rw [quadrant1]; simp [decodeQuadrant1, -Fin.ofNat_eq_cast]
theorem compactLdI64 (off b d) : Statement (.compactLdI64 off b d) := row16 rfl rfl (by decide) (by decide) (by simp [pack]) fun _ => by
  rw [pack_nest rfl, quadrant2]; simp [decodeQuadrant2, -Fin.ofNat_eq_cast]
theorem compactStI64 (off b s) : Statement (.compactStI64 off b s) := row16 rfl rfl (by decide) (by decide) (by simp [pack]) fun _ => by
  rw [pack_nest rfl, quadrant2]; simp [decodeQuadrant2, -Fin.ofNat_eq_cast]
theorem compactLdI32 (off b d) : Statement (.compactLdI32 off b d) := row16 rfl rfl (by decide) (by decide) (by simp [pack]) fun _ => by
  rw [pack_nest rfl, quadrant2]; simp [decodeQuadrant2, -Fin.ofNat_eq_cast]
theorem compactStI32 (off b s) : Statement (.compactStI32 off b s) := row16 rfl rfl (by decide) (by decide) (by simp [pack]) fun _ => by
  rw [pack_nest rfl, quadrant2]; simp [decodeQuadrant2, -Fin.ofNat_eq_cast]
theorem compactBEq (imm a) : Statement (.compactBEq imm a) := row16 rfl rfl (by decide) (by decide) (by simp [pack]) fun _ => by
  rw [pack_nest rfl, quadrant2]; simp [decodeQuadrant2, -Fin.ofNat_eq_cast]
theorem compactBNe (imm a) : Statement (.compactBNe imm a) := row16 rfl rfl (by decide) (by decide) (by simp [pack]) fun _ => by
  rw [pack_nest rfl, quadrant2]; simp [decodeQuadrant2, -Fin.ofNat_eq_cast]
theorem compactJ (imm) : Statement (.compactJ imm) := row16 rfl rfl (by decide) (by decide) (by simp [pack]) fun _ => by
  rw [quadrant2]; simp [decodeQuadrant2]
theorem compactNop : Statement (.compactNop) := row16 rfl rfl (by decide) (by decide) (by simp [pack]) fun _ => by
  rw [quadrant2]; simp [decodeQuadrant2]
theorem compactDone : Statement (.compactDone) := row16 rfl rfl (by decide) (by decide) (by simp [pack]) fun _ => by
  rw [quadrant2]; simp [decodeQuadrant2]
theorem compactFlush : Statement (.compactFlush) := row16 rfl rfl (by decide) (by decide) (by simp [pack]) fun _ => by
  rw [quadrant2]; simp [decodeQuadrant2]
theorem compactJrLk : Statement (.compactJrLk) := row16 rfl rfl (by decide) (by decide) (by simp [pack]) fun _ => by
  rw [quadrant2]; simp [decodeQuadrant2]
theorem pfx (fmt rnd sat gs) : Statement (.pfx fmt rnd sat gs) := row16 rfl rfl (by decide) (by decide) (by simp [pack]) fun _ => by
  rw [show ∀ fs, pack ((6, 38) :: fs) = pack ((2, 2) :: (4, 9) :: fs) from fun fs => by simp only [pack]; omega]; rw [pack_nest rfl, quadrant2]; simp [decodeQuadrant2]
theorem messageArrival (x0) : Statement (.messageArrival x0) := none_row rfl
theorem binding (x0 x1) : Statement (.binding x0 x1) := none_row rfl
theorem vectorStart (x0 x1) : Statement (.vectorStart x0 x1) := none_row rfl
theorem boundTrap (x0 x1) : Statement (.boundTrap x0 x1) := none_row rfl
theorem tlbMissRetry (x0 x1) : Statement (.tlbMissRetry x0 x1) := none_row rfl
theorem abort (x0 x1) : Statement (.abort x0 x1) := none_row rfl
theorem budgetOverrun (x0 x1) : Statement (.budgetOverrun x0 x1) := none_row rfl
theorem leaveGrant (x0) : Statement (.leaveGrant x0) := none_row rfl
theorem leaveTimeout (x0 x1) : Statement (.leaveTimeout x0 x1) := none_row rfl
theorem doneRetire (x0 x1) : Statement (.doneRetire x0 x1) := none_row rfl
theorem sliceAccess (x0) : Statement (.sliceAccess x0) := none_row rfl
theorem lineFill (x0) : Statement (.lineFill x0) := none_row rfl
theorem loadReply (x0 x1) : Statement (.loadReply x0 x1) := none_row rfl
theorem portThreadOperation (x0) : Statement (.portThreadOperation x0) := none_row rfl
theorem put (x0) : Statement (.put x0) := none_row rfl
theorem barrierArrival (x0) : Statement (.barrierArrival x0) := none_row rfl
theorem probe (x0) : Statement (.probe x0) := none_row rfl
theorem resourceInvalidation (x0) : Statement (.resourceInvalidation x0) := none_row rfl
theorem streamerSegment (x0) : Statement (.streamerSegment x0) := none_row rfl
theorem streamerLine (x0) : Statement (.streamerLine x0) := none_row rfl
theorem transferEnd (x0) : Statement (.transferEnd x0) := none_row rfl
theorem streamerCancel (x0) : Statement (.streamerCancel x0) := none_row rfl
theorem mxQueueEntry (x0) : Statement (.mxQueueEntry x0) := none_row rfl
theorem mxCommandStart (x0) : Statement (.mxCommandStart x0) := none_row rfl
theorem mxCommandComplete (x0) : Statement (.mxCommandComplete x0) := none_row rfl
theorem mxBayMember (x0) : Statement (.mxBayMember x0) := none_row rfl
theorem mxBayFold (x0) : Statement (.mxBayFold x0) := none_row rfl
theorem transomRequestAccept (x0) : Statement (.transomRequestAccept x0) := none_row rfl
theorem transomStagingComplete (x0) : Statement (.transomStagingComplete x0) := none_row rfl
theorem transomCommit (x0) : Statement (.transomCommit x0) := none_row rfl
theorem readPinEnd (x0) : Statement (.readPinEnd x0) := none_row rfl
theorem mirrorInstall (x0 x1) : Statement (.mirrorInstall x0 x1) := none_row rfl
theorem pubdb (x0 x1) : Statement (.pubdb x0 x1) := none_row rfl
theorem getdb (x0 x1) : Statement (.getdb x0 x1) := none_row rfl
theorem hostPostedWrite (x0 x1 x2) : Statement (.hostPostedWrite x0 x1 x2) := none_row rfl
theorem senddb (x0) : Statement (.senddb x0) := none_row rfl
theorem hostChannelWrite (x0) : Statement (.hostChannelWrite x0) := none_row rfl
theorem eqpop (x0) : Statement (.eqpop x0) := none_row rfl
theorem rqsub (x0 x1) : Statement (.rqsub x0 x1) := none_row rfl
theorem rqrd (x0 x1) : Statement (.rqrd x0 x1) := none_row rfl
theorem rqcan (x0 x1) : Statement (.rqcan x0 x1) := none_row rfl
theorem qtail (x0 x1 x2) : Statement (.qtail x0 x1 x2) := none_row rfl
theorem admission (x0) : Statement (.admission x0) := none_row rfl
theorem mbExecSystemInstruction : Statement (.mbExecSystemInstruction) := none_row rfl
theorem mbSlotConfig : Statement (.mbSlotConfig) := none_row rfl
theorem mbWicketArm : Statement (.mbWicketArm) := none_row rfl
theorem mbErrorArea : Statement (.mbErrorArea) := none_row rfl
theorem mbPowerCap : Statement (.mbPowerCap) := none_row rfl
theorem mbSleep : Statement (.mbSleep) := none_row rfl
theorem mbWake : Statement (.mbWake) := none_row rfl
theorem wakeComplete : Statement (.wakeComplete) := none_row rfl
theorem mbSuspend : Statement (.mbSuspend) := none_row rfl
theorem mbResume : Statement (.mbResume) := none_row rfl
theorem mbPeerWord : Statement (.mbPeerWord) := none_row rfl
theorem mbLifetimeRecord : Statement (.mbLifetimeRecord) := none_row rfl
theorem registerWrite (x0 x1 x2) : Statement (.registerWrite x0 x1 x2) := none_row rfl
theorem functionLevelReset (x0) : Statement (.functionLevelReset x0) := none_row rfl
theorem boot (x0 x1 x2 x3 x4) : Statement (.boot x0 x1 x2 x3 x4) := none_row rfl
theorem timerEdge (x0) : Statement (.timerEdge x0) := none_row rfl
theorem controlEdge : Statement (.controlEdge) := none_row rfl
theorem deltaCommit (x0 x1 x2 x3 x4 x5) : Statement (.deltaCommit x0 x1 x2 x3 x4 x5) := none_row rfl
theorem sweep (x0) : Statement (.sweep x0) := none_row rfl
theorem seizeRequest (x0) : Statement (.seizeRequest x0) := none_row rfl
theorem wicketRelease (x0) : Statement (.wicketRelease x0) := none_row rfl
theorem forcedRelease (x0) : Statement (.forcedRelease x0) := none_row rfl
theorem reqStepOperation (x0) : Statement (.reqStepOperation x0) := none_row rfl
theorem kvOperation (x0) : Statement (.kvOperation x0) := none_row rfl
theorem combineArrival (x0) : Statement (.combineArrival x0) := none_row rfl
theorem haltComplete (x0) : Statement (.haltComplete x0) := none_row rfl
theorem swapComplete (x0) : Statement (.swapComplete x0) := none_row rfl
theorem bstoreRefill (x0) : Statement (.bstoreRefill x0) := none_row rfl
theorem shutterUnitEnd (x0) : Statement (.shutterUnitEnd x0) := none_row rfl
theorem shutterVacant (x0) : Statement (.shutterVacant x0) := none_row rfl
theorem moveRound (x0) : Statement (.moveRound x0) := none_row rfl
theorem moveFreeze (x0) : Statement (.moveFreeze x0) := none_row rfl
theorem scrub (x0) : Statement (.scrub x0) := none_row rfl
theorem rowCloseTimeout (x0) : Statement (.rowCloseTimeout x0) := none_row rfl
theorem refresh (x0) : Statement (.refresh x0) := none_row rfl
theorem monitorSample (x0 x1 x2) : Statement (.monitorSample x0 x1 x2) := none_row rfl
theorem illegalInstruction (x0) : Statement (.illegalInstruction x0) := none_row rfl
theorem transcendentalBurstEnd (x0) : Statement (.transcendentalBurstEnd x0) := none_row rfl
theorem heartbeat (x0 x1 x2 x3) : Statement (.heartbeat x0 x1 x2 x3) := none_row rfl
theorem ptmExchange (x0) : Statement (.ptmExchange x0) := none_row rfl
theorem quoteRequest (x0 x1) : Statement (.quoteRequest x0 x1) := none_row rfl
theorem hostPortAcceptance (x0) : Statement (.hostPortAcceptance x0) := none_row rfl

end
end Sys2Proof.Laws.RoundTrip
end

