-- ==== Sys2Proof/Tests/Slice0.lean ====
section
/-! SUPPORT. Tests: words that the spec writes out decode to the instructions that they stand for; ill-formed terms are refused; single
steps give the results of the spec's rules; and each statement's hypotheses hold together in a small state, at a boundary where they have one. -/

namespace Sys2Proof.Tests
open Sys2Proof Sys2Proof.Machine
set_option Elab.async false

/-! ### Decoding: words of the spec's examples and bit by bit from its formats -/

theorem test_decode_major1 :
    decodeTableWord 32 0x58718507 = some (.div (.g 7) (.g 6) (.g 5))
    ∧ decodeTableWord 32 0x483A4507 = some (.mul (.g 3) (.n 1) (.g 5))
    ∧ decodeTableWord 32 0x646A4707 = some (.remn (.g 6) (.n 1) (.g 7)) := by decide
theorem test_decode_majors_6_to_10 :
    decodeTableWord 32 0x0880C61B = some (.srai 8#6 (.g 3) (.g 6))
    ∧ decodeTableWord 32 0x00010123 = some (.lix 4#18 (.g 1))
    ∧ decodeTableWord 32 0x8D158127 = some (.lixs 0x23456#18 (.g 1))
    ∧ decodeTableWord 32 0x1C30812B = some (.fmadd (.g 3) (.g 2) (.g 1))
    ∧ decodeTableWord 32 0x4000C32B = some (.fcvtI64F32 (.g 3) (.g 3)) := by decide
theorem test_decode_majors_19_to_26 :
    decodeTableWord 32 0x0C12124F = some (.lp 82#12 (.g 8))
    ∧ decodeTableWord 32 0x2000004F = some .done ∧ decodeTableWord 32 0x2400004F = some .flush
    ∧ decodeTableWord 32 0x012A0453 = some (.ld 2#9 .i32 (.n 0) (.g 4))
    ∧ decodeTableWord 32 0x00D0C653 = some (.ld 1#9 .n16 (.g 3) (.g 6))
    ∧ decodeTableWord 32 0x10310557 = some (.st 32#9 .i64 (.g 4) (.g 5))
    ∧ decodeTableWord 32 0x00006857 = some (.st 0#9 .i8 (.g 1) (.n 0))
    ∧ decodeTableWord 32 0x48578463 = some (.ldg 2#3 .i32 (.g 5) (.g 30) (.g 4))
    ∧ decodeTableWord 32 0x4481C66B = some (.amoAdd .w64 (.g 8) (.g 7) (.g 6))
    ∧ decodeTableWord 32 0x4072096B = some (.amoSwap .w64 (.g 7) (.g 8) (.g 9)) := by decide
theorem test_decode_majors_27_to_29 :
    decodeTableWord 32 0x0030C06F = some (.fence .device false .full)
    ∧ decodeTableWord 32 0x0001C06F = some (.fence .tile true .full)
    ∧ decodeTableWord 32 0x0431C46F = some (.ldAcq false .i64 (.g 7) (.g 4))
    ∧ decodeTableWord 32 0x00014473 = some (.msgSend false (.g 5) (.g 4))
    ∧ decodeTableWord 32 0x00524373 = some (.msgArg (.g 9) (.g 3))
    ∧ decodeTableWord 32 0x00328073 = some (.msgHost (.g 10))
    ∧ decodeTableWord 32 0x0A101773 = some (.msgSendn 1#3 true (.g 23))
    ∧ decodeTableWord 32 0x02734073 = some (.msgMask 1#6 (.g 13))
    ∧ decodeTableWord 32 0x00000277 = some (.barArr (.g 2))
    ∧ decodeTableWord 32 0x001F0177 = some (.grpRank .z (.g 1))
    ∧ decodeTableWord 32 0x0030C477 = some (.grpTile (.g 3) (.g 4)) := by decide
theorem test_decode_majors_30_to_34 :
    decodeTableWord 32 0x9211447B = some (.mxMma true 9#6 (.g 5) (.g 4))
    ∧ decodeTableWord 32 0x006F067B = some (.mxStat .z (.g 6))
    ∧ decodeTableWord 32 0x0031C67B = some (.mxRd false 0#6 (.g 7) (.g 6))
    ∧ decodeTableWord 32 0x2600047F = some (.cpGl false true 3#4 (.g 4))
    ∧ decodeTableWord 32 0x2054117F = some (.cpLs false true 0#4 (.g 16) (.g 17))
    ∧ decodeTableWord 32 0x01014483 = some (.cmbMax false (.g 5) (.g 4))
    ∧ decodeTableWord 32 0x00124487 = some (.tmGet (.g 9) (.g 4))
    ∧ decodeTableWord 32 0x00024087 = some (.tmPub false (.g 9))
    ∧ decodeTableWord 32 0x0031448B = some (.reqCommit (.g 5) (.g 4))
    ∧ decodeTableWord 32 0x0010178B = some (.reqStep (.g 23))
    ∧ decodeTableWord 32 0x0250C58B = some (.reqCfgStopset (.g 3) (.g 5)) := by decide
theorem test_decode_majors_35_to_38 :
    decodeTableWord 32 0x0030C28F = some (.tmrSet (.g 3) (.g 2))
    ∧ decodeTableWord 32 0x0001448F = some (.wktSeize (.g 5) (.g 4))
    ∧ decodeTableWord 32 0x0010088F = some (.wktRel (.g 8))
    ∧ decodeTableWord 32 0x1A223493 = some (.extLix 5#3 0x1234#16)
    ∧ decodeTableWord 32 0x422F1897 = some (.csrRs 0x22#10 .z (.g 24))
    ∧ decodeTableWord 32 0x0022BC97 = some (.csrRw 2#10 (.g 10) .z)
    ∧ decodeTableWord 32 0xA3C0019B = some (.wearRd .z (.g 1))
    ∧ decodeTableWord 32 0xD440C29B = some (.shutPost (.g 4) (.g 3) (.g 2)) := by decide
theorem test_decode_vector :
    decodeTableWord 32 0x0D08239F = some (.vfma false .f32 2 2 1 3)
    ∧ decodeTableWord 32 0x8804849F = some (.vfmul true .f32 0 1 4 4)
    ∧ decodeTableWord 32 0xB48045A7 = some (.vsrl true .b16 1 0 2 5)
    ∧ decodeTableWord 32 0x848462AB = some (.vceq true .b16 1 1 3 2)
    ∧ decodeTableWord 32 0xFC0001AB = some (.klo 0 1)
    ∧ decodeTableWord 32 0x7D9063AB = some (.kandn 4 3 3)
    ∧ decodeTableWord 32 0x00010AAF = some (.vcvtF32Bf16 0 0 8 10)
    ∧ decodeTableWord 32 0x200456AF = some (.vcvtF32I8 0 1 2 22)
    ∧ decodeTableWord 32 0x0404E2B3 = some (.vnibLo 0 1 7 2)
    ∧ decodeTableWord 32 0x540006B3 = some (.vidx .b16 0 6)
    ∧ decodeTableWord 32 0x4580C7B3 = some (.vcomp .b16 3 6 7)
    ∧ decodeTableWord 32 0x000300B7 = some (.vrsum .f32 0 24 0)
    ∧ decodeTableWord 32 0x688020B7 = some (.vramax .f16 1 1 0)
    ∧ decodeTableWord 32 0xD100A4B7 = some (.vhist .i16 2 0 5 4)
    ∧ decodeTableWord 32 0x448022BB = some (.vord .f16 1 1 2)
    ∧ decodeTableWord 32 0x000682BF = some (.vld 0 (.q 0) 2)
    ∧ decodeTableWord 32 0x1A06C7BF = some (.vst 5 (.q 2) 7) := by decide
theorem test_decode_compact :
    decodeTableWord 16 0x0405 = some (.compactAddi 1#6 0) ∧ decodeTableWord 16 0x0062 = some .compactDone
    ∧ decodeTableWord 16 0x00A2 = some .compactFlush ∧ decodeTableWord 16 0xB526 = some (.pfx 11#4 2#3 true 0#2)
    ∧ decodeTableWord 16 0x0000 = none ∧ decodeTableWord 32 0x000000EB = none := by decide

/-! ### Ill-formed terms, one for each check -/

theorem test_ill_formed_shifts :
    (Instr.slliw 32#6 .z .z).wellFormed = false ∧ (Instr.srliw 32#6 .z .z).wellFormed = false
    ∧ (Instr.sraiw 32#6 .z .z).wellFormed = false ∧ (Instr.roriw 63#6 .z .z).wellFormed = false := by decide
theorem test_ill_formed_shape_fields :
    (Instr.shpSet 0#4 33#6 .z).wellFormed = false ∧ (Instr.shpGet 0#4 33#6 .z).wellFormed = false := by decide
theorem test_ill_formed_parts :
    (Instr.vcvtF32Bf16 0 2 0 0).wellFormed = false ∧ (Instr.vcvtF32F16 0 2 0 0).wellFormed = false
    ∧ (Instr.vcvtF32I8 0 4 0 0).wellFormed = false ∧ (Instr.vwidI16I8 0 2 0 0).wellFormed = false
    ∧ (Instr.vwidI32I16 0 2 0 0).wellFormed = false ∧ (Instr.vwidN16N8 0 2 0 0).wellFormed = false
    ∧ (Instr.vwidN32N16 0 2 0 0).wellFormed = false ∧ (Instr.vunpkI8I4 0 2 0 0).wellFormed = false := by decide
theorem test_ill_formed_elements :
    (Instr.vramax .i64 0 0 0).wellFormed = false ∧ (Instr.vramin .i64 0 0 0).wellFormed = false
    ∧ (Instr.vhist .i8 0 2 0 0).wellFormed = false ∧ (Instr.vhist .f32 0 8 0 0).wellFormed = false
    ∧ (Instr.vbcast .b64 0 31 0 0).wellFormed = true := by decide
theorem test_ill_formed_prefix :
    (Instr.pfx 0#4 5#3 false 0#2).wellFormed = false ∧ (Instr.pfx 0#4 0#3 false 3#2).wellFormed = false := by decide

/-! ### Small states -/

/-- Context 0 of tile t runs an activation with this half; nothing else is on the device. -/
def onTile (t : Nat) (h : Half) : State :=
  { cur := t, tiles := [(t, { ctxs := Vector.replicate 8 { s0 := { phase := .live, act := { id := 1 }, half := h } } })] }
def tst (h : Half) : State := onTile 0 h
/-- g1 and g2 hold these values. -/
def gs (a b : Word) : Half := { g := ((Vector.replicate 40 0#64).set 1 a).set 2 b }
/-- The half that an instruction leaves, where it answers a next state. -/
def ran (i : Instr) (s : State) : Half :=
  match exec i s with
  | .next t => t.half
  | _ => {}

/-! ### Single steps: the corners of the rules, and the spec's own numbers -/

theorem test_add_wraps : (ran (.add (.g 2) (.g 1) (.g 3)) (tst (gs (BitVec.allOnes 64) 1#64))).g.get 3 = 0#64 := by decide +kernel
theorem test_sub_reads_a_first : (ran (.sub (.g 2) (.g 1) (.g 1)) (tst (gs 5#64 7#64))).g.get 1 = BitVec.ofInt 64 (-2) := by decide +kernel
theorem test_div_most_negative :
    (ran (.div (.g 2) (.g 1) (.g 3)) (tst (gs (BitVec.intMin 64) (BitVec.allOnes 64)))).g.get 3 = BitVec.intMin 64 := by decide +kernel
theorem test_div_by_zero : (ran (.div (.g 2) (.g 1) (.g 3)) (tst (gs 9#64 0#64))).g.get 3 = BitVec.allOnes 64 := by decide +kernel
theorem test_rem_takes_the_dividend_sign :
    (ran (.rem (.g 2) (.g 1) (.g 3)) (tst (gs (BitVec.ofInt 64 (-7)) 2#64))).g.get 3 = BitVec.ofInt 64 (-1) := by decide +kernel
theorem test_sra_by_64 : (ran (.sra (.g 2) (.g 1) (.g 3)) (tst (gs (BitVec.intMin 64) 64#64))).g.get 3 = BitVec.allOnes 64 := by decide +kernel
theorem test_srlw_by_32 : (ran (.srlw (.g 2) (.g 1) (.g 3)) (tst (gs (BitVec.allOnes 64) 32#64))).g.get 3 = 0#64 := by decide +kernel
theorem test_mulh_signed :
    (ran (.mulh (.g 2) (.g 1) (.g 3)) (tst (gs (BitVec.allOnes 64) (BitVec.allOnes 64)))).g.get 3 = 0#64 := by decide +kernel
theorem test_mulhn_unsigned :
    (ran (.mulhn (.g 2) (.g 1) (.g 3)) (tst (gs (BitVec.allOnes 64) (BitVec.allOnes 64)))).g.get 3 = BitVec.ofInt 64 (-2) := by decide +kernel
theorem test_clz_of_zero : (ran (.clz (.g 1) (.g 3)) (tst {})).g.get 3 = 64#64 := by decide +kernel
theorem test_bswap :
    (ran (.bswap (.g 1) (.g 3)) (tst (gs 0x0102030405060708#64 0#64))).g.get 3 = 0x0807060504030201#64 := by decide +kernel
/-- The example of 09: the four steps that place 0x0123_4567_89AB_CDEF. -/
theorem test_lixs_example :
    (ran (.lixs 0x1E26A#18 (.g 1)) (tst (gs 0x123456#64 0#64))).g.get 1 = 0x00000048D159E26A#64
    ∧ (ran (.lixs 0x3CDEF#18 (.g 1)) (tst (gs 0x48D159E26A#64 0#64))).g.get 1 = 0x0123456789ABCDEF#64 := by decide +kernel
theorem test_result_is_pushed : (ran (.addi 4#12 .z .z) (tst {})).y.get 0 = 4#64 := by decide +kernel
/-- The example of 02: add g1, q4, q4 adds the oldest entry to the next oldest. -/
theorem test_queue_read_twice :
    (ran (.add (.q 4) (.q 4) (.g 1)) (tst { q := (Vector.replicate 8 []).set 4 [5#64, 6#64, 7#64] })).g.get 1 = 11#64
    ∧ (ran (.add (.q 4) (.q 4) (.g 1)) (tst { q := (Vector.replicate 8 []).set 4 [5#64, 6#64, 7#64] })).q.get 4 = [7#64] := by decide +kernel
theorem test_fdiv_by_zero :
    (ran (.fdiv (.g 2) (.g 1) (.g 3)) (tst (gs 0x3F800000#64 0x80000000#64))).g.get 3 = 0xFF800000#64
    ∧ (ran (.fdiv (.g 2) (.g 1) (.g 3)) (tst (gs 0x3F800000#64 0x80000000#64))).fflags = 0x08#5 := by decide +kernel
/-- The tie of the example of 08: 2^24 + 1 rounds to the even value 2^24. -/
theorem test_fadd_ties_to_even : (ran (.fadd (.g 2) (.g 1) (.g 3)) (tst (gs 0x4B800000#64 0x3F800000#64))).g.get 3 = 0x4B800000#64 := by
  decide +kernel
theorem test_branch_taken : (ran (.bNe 0xFFD#12 (.g 2) (.g 1)) (tst { gs 1#64 2#64 with pc := 0x0C#64 })).pc = 0x06#64 := by decide +kernel
theorem test_lp_of_zero_skips : (ran (.lp 5#12 (.g 1)) (tst { pc := 0x10#64 })).pc = 0x1E#64 := by decide +kernel
theorem test_loop_goes_back :
    (ran .nop (tst { pc := 0x20#64, lpbeg := 0x10#64, lpend := 0x24#64, lpcnt := 2#64 })).pc = 0x10#64
    ∧ (ran .nop (tst { pc := 0x20#64, lpbeg := 0x10#64, lpend := 0x24#64, lpcnt := 2#64 })).lpcnt = 1#64 := by decide +kernel
theorem test_ld_sign_extends :
    (ran (.ld 0#9 .i8 (.g 1) (.g 3)) { tst (gs 0x1000#64 0#64) with mem := [(spadKey 0 0x1000, 0x80#8)] }).g.get 3 = 0xFFFFFFFFFFFFFF80#64 := by
  decide +kernel
/-- The example of 17: the divide trap enters the trap code at 0x24 with the defined result in faddr. -/
theorem test_divide_trap_enters_trap_code :
    let h := ran (.div (.g 2) (.g 1) (.g 3)) (tst { gs 9#64 0#64 with pc := 0x1C#64, trapvec := 0x100000024#64, status := 8#64 })
    h.pc = 0x24#64 ∧ h.xpc = 0x1C#64 ∧ h.cause = 0x13#64 ∧ h.faddr = BitVec.allOnes 64 ∧ h.tm = true := by decide +kernel
theorem test_tret_returns : (ran .tret (tst { pc := 0x32#64, xpc := 0x20#64, status := 2#64 })).pc = 0x20#64 := by decide +kernel
theorem test_illegal_instruction_aborts :
    (ran (.illegalInstruction 0x000000EB#32) (tst {})).cause = 0x20#64
    ∧ (ran (.illegalInstruction 0x000000EB#32) (tst {})).faddr = 0xEB#64 := by decide +kernel
theorem test_jump_to_an_odd_target_traps : (ran (.jr (.g 1)) (tst (gs 1#64 0#64))).cause = 0x21#64 := by decide +kernel
/-- The example of 05: amo.add.i64 g6, g7, g8 on a local word of 40. -/
theorem test_amo_add_example :
    let h : Half := { g := ((Vector.replicate 40 0#64).set 7 0x12000#64).set 8 2#64 }
    let s : State := { tst h with mem := [(spadKey 0 0x12000, 40#8)] }
    (ran (.amoAdd .w64 (.g 8) (.g 7) (.g 6)) s).g.get 6 = 40#64 ∧ (ran (.amoAdd .w64 (.g 8) (.g 7) (.g 6)) s).y.get 0 = 40#64 := by decide +kernel
/-- The example of 10: 2^0.5 and 2^−1. -/
theorem test_exp2_example : (exp2 0x3F000000).1 = 0x3FB504F3 ∧ (exp2 0xBF800000).1 = 0x3F000000 := by decide +kernel
/-- The example of 08: a sum of 2^24, 1, 1, 1 is 2^24 + 2 by the tree. -/
theorem test_vrsum_example :
    let h : Half := {
      v := (Vector.replicate 32 0#2048).set 24 (packElems 32 [0x4B800000, 0x3F800000, 0x3F800000, 0x3F800000])
      k := (Vector.replicate 8 0#256).set 1 0xF#256
      vq := [{ op := .rsum .f32, km := 1, va := 24, vd := 0 }] }
    (ran (.vectorStart 0 0) (tst h)).q.get 4 = [0x4B800001#64] := by decide +kernel
/-- The example of 10: the unsigned order of .f16. -/
theorem test_vord_example :
    ordElem false .f16 0xBC00 = 0x43FF ∧ ordElem false .f16 0x8000 = 0x7FFF ∧ ordElem false .f16 0 = 0x8000 ∧ ordElem false .f16 0x3C00 = 0xBC00 := by
  decide +kernel
/-- The example of 08: the origin of a matrix NaN. -/
theorem test_nan_origin_example : originNaN 37 300 = 0x7FC2512C := by decide
/-- The example of 07: rank 7 of a 10 by 4096 tensor, 4 by 3 parts; g4 holds 14 320. -/
theorem test_rec_slice_example :
    let put (r : Rec512) (f v : Nat) : Rec512 := shapeSet r f v
    let r0 := [(0, 4096), (4, 2), (12, 1), (16, 4), (24, 8), (1, 10), (5, 8192), (13, 2), (17, 3), (2, 1), (3, 1), (18, 1), (19, 1), (20, 0), (21, 1),
      (22, 2), (23, 3)].foldl (fun r x => put r x.1 x.2) (0#512 : Rec512)
    let r := sliceOfRank r0 7
    r.2 = 14320 ∧ shDim r.1 0 = 1032 ∧ shDim r.1 1 = 3 ∧ shStride r.1 1 = 24576 ∧ shapeMalformed r0 = false := by decide +kernel

/-! ### Witnesses: the hypotheses of the statements hold together -/

/-- The whole reasoning array is partition 0 of tenant 1, whose launch 1 has one keep region, one group of its first tile and two resource entries. -/
def labPart : Part := {
  desc := BitVec.ofNat 512 (2 ^ 64 + 2 ^ 108)
  launch := some { num := 1, tenant := 1, resBase := 0x100000, resCount := 2, keeps := [(0x2000, 0x1000, false)], groups := [1#512] } }
/-- A resource entry of tenant 1: 4096 bytes at virtual 0, every access allowed. -/
def labRes : Rec512 := BitVec.ofNat 512 (0x1000 * 2 ^ 48 + 2 ^ 99 + 7 * 2 ^ 100 + 2 ^ 124)
/-- A page of 2 MiB at virtual 0. -/
def labPage : TlbEntry := { tenant := 1, size := 2, va := 0, pa := 0x200000, kind := 1, pol := 0, pr := true, pw := true, pa' := true }
def labTile (h : Half) (a : Act) : Tile := {
  ctxs := Vector.replicate 8 { s0 := { phase := .live, act := a, half := h } }
  shares := Vector.replicate 3 { pid := some 0, bayMask := 0xFFFF#16 }
  handlers := Vector.replicate 64 { valid := true, tenant := 1 }
  tlb := (Vector.replicate 64 none).set 0 (some labPage)
  rcache := [((1, 0), labRes)] }
def labAct : Act := { id := 1, launch := 1, tenant := 1 }
def lab (h : Half) : State := { tiles := [(0, labTile h labAct)], parts := [(0, labPart)] }
/-- The address word of byte off of resource 0, and of byte ea of bay tile 1. -/
def glob (off : Nat) : Word := BitVec.ofNat 64 (2 ^ 63 + off)
def bayW (ea : Nat) : Word := BitVec.ofNat 64 (2 ^ 62 + 2 ^ 52 + ea)

theorem witness_RoundTrip :
    let i : Instr := .addi 0xFFF#12 (.g 39) (.q 0)
    i.wellFormed = true ∧ ∃ bs, encodeBytes i = some bs := ⟨rfl, _, rfl⟩
theorem witness_ReservedEncodings :
    (∃ r, decodeParcels 0x0007 (some 0) = .ok r) ∧ (∃ r, decodeParcels 0x0062 none = .ok r) ∧ 0x0003 % 4 = 3 ∧ (0x0003 / 4 % 64 = 0)
    ∧ 48 ≤ 0x00C3 / 4 % 64 ∧ validKey 3072 = true := ⟨⟨_, rfl⟩, ⟨_, rfl⟩, rfl, rfl, by decide, rfl⟩
theorem witness_StepKeepsMemory : State.reset.Safe ∧ ∃ t, step State.reset = .next t := ⟨⟨.nil, by simp [State.reset]⟩, _, rfl⟩
theorem witness_RegisterRules :
    (tst {}).half.pp = false ∧ Reg.q 3 ∈ (opAB (.g 1) (.q 3) (.g 2)).srcs ∧ Reg.rsv 2 ∈ (opAB (.g 1) (.rsv 2) (.g 2)).srcs
    ∧ Reg.y 3 ∈ (opA (.g 1) (.y 3)).dsts ∧ Reg.q 4 ∈ (opA (.g 1) (.q 4)).dsts ∧ Reg.rsv 0 ∈ (opA (.g 1) (.rsv 0)).dsts := by decide +kernel
theorem witness_IssueStops :
    (∃ x, issueStop (opAB (.q 7) (.g 1) (.g 2)) (tst {}) = some x) ∧ (onTile 1055 {}).reflexSide = true
    ∧ (tst { status := 1#64, pfxsave := 0xB526#16 }).half.pp = true ∧ onlyRnd 0xB526#16 = false
    ∧ issueStop (opAB (.n 7) (.g 1) (.g 2)) (tst { npoison := 0x80#8 }) = some (.trap { code := 0x28, reason := 2, faddr := 7#64 })
    ∧ CReg.dst 8 ∈ (opCI 8).dsts := ⟨⟨_, rfl⟩, rfl, rfl, rfl, rfl, by decide⟩
/-- What lets an instruction pass to its queues: q7 empty and one short of a second read, q3 full, an entry that a reply holds back, a load that
holds the context or is named; then n6 and n7 poisoned, and only n6. -/
theorem witness_IssueStops_waits :
    let s (h : Half) : State := tst h
    let o := opAB (.q 7) (.n 7) (.q 3)
    let two := opAB (.q 7) (.q 7) (.g 2)
    let near := opAB (.n 7) (.n 6) (.g 2)
    let one : Half := { q := (Vector.replicate 8 []).set 7 [1#64] }
    let full : Half := { q := (Vector.replicate 8 []).set 3 (List.replicate 8 0#64) }
    (∀ x ∈ [o, two, near], x.illegal = false ∧ x.iso = false ∧ x.badCode = false ∧ x.readsPoison = false
      ∧ (∀ r ∈ x.srcs, r.srcOk = true) ∧ (∀ r ∈ x.dsts, r.dstOk = true))
    ∧ (s {}).half.pp = false ∧ (s {}).half.lpcnt = 0#64 ∧ ((s {}).half.q.get 7).length < countReg o.srcs (.q 7)
    ∧ ((s one).half.q.get 7).length < countReg two.srcs (.q 7)
    ∧ 0 < countReg o.dsts (.q 3) ∧ 8 < ((s full).half.q.get 3).length + countReg o.dsts (.q 3)
    ∧ (7, 0, 9) ∈ (s { one with qwait := [(7, 0, 9)] }).half.qwait ∧ 0 < countReg o.srcs (.q 7)
    ∧ (s { loads := [{ id := 1, d := .z, blocking := true }] }).half.loads = [{ id := 1, d := .z, blocking := true }]
    ∧ (Reg.n 7 ≠ .z ∧ Reg.n 7 ∈ near.srcs) ∧ (Reg.g 2).held = true ∧ Reg.g 2 ∈ near.dsts
    ∧ (s { ypend := (Vector.replicate 4 0).set 3 1 }).half.ypend.get 3 ≠ 0 ∧ Reg.y 3 ∈ (opAB (.y 3) (.g 1) (.g 2)).srcs
    ∧ (s { npoison := 0xC0#8 }).half.queuesReady near = true ∧ (s { npoison := 0xC0#8 }).half.loadsReady near = true
    ∧ (0xC0#8).getLsbD 6 = true ∧ Reg.n 6 ∈ near.srcs ∧ (∀ j : Fin 8, j < 6 → (0xC0#8).getLsbD j.val = true → .n j ∉ near.srcs)
    ∧ (∀ i : Fin 8, (0x20#8).getLsbD i.val = true → .n i ∉ near.srcs) := by
  refine ⟨?_, ?_, ?_, ?_, ?_, ?_, ?_, ?_, ?_, ?_, ?_, ?_, ?_, ?_, ?_, ?_, ?_⟩ <;> decide +kernel
theorem witness_ImmediateResults : (tst {}).Ready (opA (.y 3) (.q 3)) ∧ (tst {}).Ready { dsts := [.g 39] } := ⟨⟨rfl, rfl⟩, ⟨rfl, rfl⟩⟩
theorem witness_ScalarFpResults :
    (tst {}).Ready { opAB (.g 39) (.n 7) .z with pfx := onlyRnd } ∧ (tst {}).Ready { opA (.y 3) (.q 3) with pfx := onlyRnd } := ⟨⟨rfl, rfl⟩, ⟨rfl, rfl⟩⟩
/-- Every value of the operands is allowed: the issue checks of one shape each. -/
theorem witness_IntegerRegisterResults :
    (tst {}).Ready (opAB (.g 39) (.n 7) (.z)) ∧ (tst {}).Ready (opA (.y 3) (.q 3)) ∧ (tst {}).Ready (opCC 7 0) ∧ (tst {}).Ready (opCI 7)
    ∧ (tst { q := (Vector.replicate 8 []).set 7 [1#64, 2#64] }).Ready (opAB (.q 7) (.q 7) (.g 0))
    ∧ (tst { q := (Vector.replicate 8 []).set 7 [1#64] }).Ready { srcs := [(15 : CReg).src], dsts := [.g 1], len := 2 }
    ∧ (tst { status := 1#64, pfxsave := 0x0226#16 }).Ready { opAB (.g 1) (.g 2) (.g 3) with pfx := onlyRnd }
    ∧ (tst {}).Ready { srcs := [.g 1, .g 2, .g 3], dsts := [.g 1], pfx := onlyRnd, badCode := !(Reg.g 1).dstGN }
    ∧ (tst {}).Ready { srcs := [.n 7], dsts := [.n 7], badCode := !(Reg.n 7).dstGN } ∧ (tst {}).Ready { srcs := [.g 39], len := 2 }
    ∧ (tst {}).Ready { dsts := [.g 39] } ∧ (tst {}).Ready { len := 2, isPfx := true } ∧ (31#6).toNat < 32 := by
  refine ⟨⟨rfl, rfl⟩, ⟨rfl, rfl⟩, ⟨rfl, rfl⟩, ⟨rfl, rfl⟩, ⟨rfl, rfl⟩, ⟨rfl, rfl⟩, ⟨rfl, rfl⟩, ⟨rfl, rfl⟩, ⟨rfl, rfl⟩, ⟨rfl, rfl⟩, ⟨rfl, rfl⟩,
    ⟨rfl, rfl⟩, by decide⟩
theorem witness_DivisionResults :
    let s := tst { gs 9#64 0#64 with status := 8#64 }
    s.Ready (opAB (.g 2) (.g 1) (.g 3)) ∧ (s.after (.g 1)).val (.g 2) = 0#64 ∧ s.half.dzt = true
    ∧ (tst (gs 9#64 0#64)).half.dzt = false := ⟨⟨rfl, rfl⟩, rfl, rfl, rfl⟩
theorem witness_ScalarFpSpecialCases :
    f32.isNaN (fDiv f32 .rne 0 0).1 = true ∧ f32.isNaN 0x7F800001 = true ∧ f32.isNaN 0xFFFFFFFF = true ∧ f32.isZero 0x80000000 = true
    ∧ f32.isInf 0xFF800000 = true ∧ f32.isInf 0x7F800000 = true ∧ f32.isNaN 0x80000001 = false ∧ f32.isZero 0x80000001 = false
    ∧ f32.isNaN 1 = false ∧ f32.isInf 1 = false ∧ f32.isZero 1 = false ∧ 2 ^ 31 ≤ 0x80000001 := by decide +kernel
theorem witness_ControlFlowResults :
    let s := tst (gs 0x10#64 0x10#64)
    s.Ready { srcs := [.g 1, .g 2] } ∧ s.val (.g 1) = (s.after (.g 1)).val (.g 2) ∧ (tst (gs 1#64 2#64)).val (.g 1) ≠ (tst (gs 1#64 2#64)).val (.g 2)
    ∧ s.Ready { srcs := [(11 : CReg).src], len := 2 } ∧ s.Ready {} ∧ s.Ready { len := 2 } ∧ s.Ready { srcs := [.g 1] } ∧ (s.val (.g 1)).getLsbD 0 = false
    ∧ s.Ready (opA (.g 1) (.g 39)) ∧ (s.val (.g 39)).getLsbD 0 = false :=
  ⟨⟨rfl, rfl⟩, rfl, by decide +kernel, ⟨rfl, rfl⟩, ⟨rfl, rfl⟩, ⟨rfl, rfl⟩, ⟨rfl, rfl⟩, rfl, ⟨rfl, rfl⟩, rfl⟩
theorem witness_LoopResults :
    let s := tst (gs 0#64 1#64)
    s.Ready { srcs := [.g 1] } ∧ s.half.lpcnt = 0#64 ∧ s.val (.g 1) = 0#64 ∧ s.val (.g 2) ≠ 0#64 ∧ (s.val (.g 2)).getLsbD 0 = true
    ∧ (tst { lpcnt := 1#64 }).half.lpcnt ≠ 0#64
    ∧ (let h : Half := { pc := 0x20#64, lpbeg := 0x10#64, lpend := 0x24#64, lpcnt := 2#64 }
      h.pc + BitVec.ofNat 64 4 = h.lpend ∧ 1 < h.lpcnt.toNat ∧ h.pc + BitVec.ofNat 64 2 ≠ h.lpend
      ∧ h.lpbeg.toNat ≤ (0x10#64).toNat ∧ (0x22#64).toNat < h.lpend.toNat ∧ (0x0E#64).toNat < h.lpbeg.toNat ∧ h.lpend.toNat ≤ (0x24#64).toNat) := by
  refine ⟨⟨rfl, rfl⟩, rfl, rfl, ?_, rfl, ?_, ?_⟩ <;> decide +kernel
theorem witness_OwnAccesses :
    let s := lab (gs 0xBFFF8#64 0#64)
    let t := (s.after (.g 2)).after (.g 1)
    s.Ready { srcs := [.g 1], dsts := [.g 3] } ∧ (s.after (.g 1)).inWindow 0 0xBFFF8 8 .load ∧ (s.after (.g 1)).readable 0xBFFF8 8
    ∧ s.Ready { srcs := [(0 : CReg).src], dsts := [(7 : CReg).dst], len := 2 } ∧ (s.after (.n 0)).inWindow 0 24 8 .load ∧ (s.after (.n 0)).readable 24 8
    ∧ s.Ready { srcs := [.g 2, .g 1] } ∧ t.inWindow 0 0xBFFF8 8 .store ∧ t.inWindow 0 0x1000 8 .store ∧ t.ownClear 0xBFFF8 8 = true
    ∧ t.logs 0xBFFF8 8 t := by
  simp only [State.Ready, State.inWindow, State.readable, State.cleanOwn, State.logs]; decide +kernel
/-- Each reason of the window check, at the first address that it covers, a poisoned word and a full undo log. -/
theorem witness_OwnAccessFaults :
    let s := lab {}
    s.checkWindow 0 0 0#32 (-1) 1 .load = some 2 ∧ s.checkWindow 0 0 0#32 0x100000 1 .load = some 2
    ∧ s.checkWindow 0 0 0#32 0xC0000 1 .load = some 3 ∧ s.checkWindow 0 0 0#32 0xFFF 1 .store = some 4
    ∧ s.checkWindow 0 0 0#32 0x2FFF 1 .store = some 5 ∧ s.checkWindow 0 0 1#32 0x2000 1 .store = none
    ∧ (let b : State := { s with poison := [spadKey 0 0x1000 / 64] }
      b.ownClear 0x1000 8 = true ∧ ¬ (b.reads 0x1000 8).cleanOwn 0x1000 8)
    ∧ (s.tile 0).split = false ∧ (s.launchOf (s.pidAt 0 0)).uq = false
    ∧ (let u : State := {
        lab {} with
        parts := [(0, { labPart with launch := some { num := 1, tenant := 1, keeps := [(0x2000, 0x41000, true)] } })]
        tiles := [(0, labTile {} { labAct with keep := 1#32, undo := List.replicate 128 { line := 0, bytes := [], dirty := false, poison := [] } })] }
      u.inWindow 0 0x2000 8 .store ∧ u.ownClear 0x2000 8 = true ∧ u.logLines 0 0 0x2000 8 = none) := by
  refine ⟨?_, ?_, ?_, ?_, ?_, ?_, ?_, ?_, ?_, ?_, ?_⟩ <;> (try simp only [State.inWindow, State.cleanOwn]) <;> decide +kernel
/-- As `lab`, with the resource under the RC policy and its last line in the tile's read cache. -/
def labResRc : Rec512 := labRes ||| BitVec.ofNat 512 (3 * 2 ^ 106)
def labRc (h : Half) (bad : List Nat := []) : State := { tiles := [(0, { labTile h labAct with
  rcache := [((1, 0), labResRc)]
  rdcache := [{ line := 0x200F, tenant := 1, bytes := List.replicate 256 0#8, poison := bad }] })], parts := [(0, labPart)] }
/-- Bay tile 15 at the last bytes of its own window below the withheld quarter, and a store to it. -/
theorem witness_BayRemoteAccesses :
    let s := lab (gs 0xBFFF8#64 15#64)
    let t := (s.after (.g 1)).after (.g 2)
    s.Ready { srcs := [.g 1, .g 2], dsts := [.g 3] } ∧ s.Ready { srcs := [.g 3, .g 1, .g 2] } ∧ ((s.after (.g 1)).val (.g 2)).toNat ≤ 15 ∧ t.bayOpen 15
    ∧ t.inWindow (bayTile (bayOf s.cur) 15) 0xBFFF8 8 .load ∧ t.inWindow (bayTile (bayOf s.cur) 15) 0xBFFF8 8 .remoteStore
    ∧ (t.tile s.cur).loadsOut < 8 ∧ (t.tile s.cur).storesOut < 16 := by
  simp only [State.Ready, State.inWindow, State.bayOpen]; decide +kernel
/-- The last bytes of resource 0, loaded from the slice and from the tile's read cache, clean and poisoned, and stored. -/
theorem witness_GlobalAccesses :
    let s := lab (gs 0#64 0xFF8#64)
    let t := (s.after (.g 1)).after (.g 2)
    let c := labRc (gs 0#64 0xFF8#64)
    let ct := (c.after (.g 1)).after (.g 2)
    s.Ready { srcs := [.g 1, .g 2], dsts := [.g 3], iso := true } ∧ s.Ready { srcs := [.g 3, .g 1, .g 2], iso := true }
    ∧ t.resourceOk 0 0xFF8 8 1 labRes ∧ t.resourceOk 0 0xFF8 8 2 labRes ∧ (t.used 0).translates 0xFF8 8 1 [(0x200FF8, 8, labPage)]
    ∧ (t.used 0).translates 0xFF8 8 2 [(0x200FF8, 8, labPage)] ∧ (t.used 0).rdCached (pathOf 1 labRes [(0x200FF8, 8, labPage)]) = none
    ∧ c.Ready { srcs := [.g 1, .g 2], dsts := [.g 3], iso := true } ∧ ct.resourceOk 0 0xFF8 8 1 labResRc
    ∧ (ct.used 0).translates 0xFF8 8 1 [(0x200FF8, 8, labPage)]
    ∧ (ct.used 0).rdCached (pathOf 1 labResRc [(0x200FF8, 8, labPage)]) = some (List.replicate 8 0#8, false)
    ∧ (let b := ((labRc (gs 0#64 0xFF8#64) [3]).after (.g 1)).after (.g 2)
      (b.used 0).rdCached (pathOf 1 labResRc [(0x200FF8, 8, labPage)]) = some (List.replicate 8 0#8, true))
    ∧ (t.used 0).outstanding s.cur < 16 := by
  simp only [State.Ready, State.resourceOk, State.translates]; decide +kernel
theorem witness_AtomicResults :
    let s := lab (gs 0xBFFF8#64 5#64)
    let t := (s.after (.g 1)).after (.g 2)
    let b := lab (gs (bayW 0xBFFFC) 5#64)
    let bt := (b.after (.g 1)).after (.g 2)
    let g := lab (gs (glob 0xFF8) 5#64)
    let gt := (g.after (.g 1)).after (.g 2)
    s.Ready (opAB (.g 2) (.g 1) (.g 3)) ∧ addrWord (s.val (.g 1)) = .loc 0xBFFF8 ∧ t.inWindow s.cur 0xBFFF8 8 .store ∧ 0xBFFF8 % 8 = 0
    ∧ t.logs 0xBFFF8 8 t ∧ t.readable 0xBFFF8 8
    ∧ b.Ready (opAB (.g 2) (.g 1) (.g 3)) ∧ addrWord (b.val (.g 1)) = .bay 1 0xBFFFC ∧ bt.bayOpen 1
    ∧ bt.inWindow (bayTile (bayOf b.cur) 1) 0xBFFFC 4 .remoteStore ∧ 0xBFFFC % 4 = 0 ∧ (bt.releaseStop false 1).isNone = true
    ∧ (bt.tile b.cur).storesOut < 16
    ∧ g.Ready (opAB (.g 2) (.g 1) (.g 3)) ∧ addrWord (g.val (.g 1)) = .glob 0 0xFF8 ∧ g.reflexSide = false ∧ gt.resourceOk 0 0xFF8 8 4 labRes
    ∧ (gt.used 0).translates 0xFF8 8 4 [(0x200FF8, 8, labPage)] ∧ (pathOf 1 labRes [(0x200FF8, 8, labPage)]).keys.any isHostKey = false
    ∧ ((gt.used 0).releaseStop false 3).isNone = true := by
  simp only [State.Ready, State.resourceOk, State.translates, State.inWindow, State.logs, State.readable, State.cleanOwn, State.bayOpen]
  decide +kernel
theorem witness_AtomicFaults :
    let s := lab (gs 0x1002#64 5#64)
    let t := (s.after (.g 1)).after (.g 2)
    s.Ready (opAB (.g 2) (.g 1) (.g 3)) ∧ addrWord (BitVec.ofNat 64 (2 ^ 20)) = .bad ∧ addrWord (BitVec.ofNat 64 (3 * 2 ^ 62)) = .bad
    ∧ addrWord (s.val (.g 1)) = .loc 0x1002 ∧ t.inWindow s.cur 0x1002 4 .store ∧ 0x1002 % 4 ≠ 0
    ∧ addrWord (glob 0xFFA) = .glob 0 0xFFA ∧ t.resourceOk 0 0xFFA 4 4 labRes ∧ 0xFFA % 4 ≠ 0 ∧ s.reflexSide = false := by
  simp only [State.Ready, State.resourceOk, State.inWindow]; decide +kernel
/-- The last bytes of bay tile 1's window, misaligned; an atomic of each width. -/
theorem witness_AtomicFaults_bay :
    let s := lab (gs (bayW 0xBFFF7) 5#64)
    let t := (s.after (.g 1)).after (.g 2)
    s.Ready (opAB (.g 2) (.g 1) (.g 3)) ∧ addrWord (s.val (.g 1)) = .bay 1 0xBFFF7 ∧ t.bayOpen 1
    ∧ t.inWindow (bayTile (bayOf s.cur) 1) 0xBFFF7 8 .remoteStore ∧ 0xBFFF7 % 8 ≠ 0
    ∧ AmoForm .w64 (.amoCas .w64) ∧ AmoForm .w32 .amoFadd := by
  refine ⟨⟨rfl, rfl⟩, ?_, ?_, ?_, ?_, .inl (by simp), .inr ⟨rfl, rfl⟩⟩ <;> (try simp only [State.bayOpen, State.inWindow]) <;> decide +kernel
/-- A malformed word, and one of a near space where sys or cinv asks for main memory. -/
theorem witness_Fences_illegal :
    let s := lab (gs 0x1000#64 (bayW 0x1000))
    s.Ready (opA (.g 1) (.g 3)) ∧ s.Ready { srcs := [.g 2, .g 1] } ∧ s.Ready { srcs := [.g 1], iso := true }
    ∧ addrWord (s.val (.g 1)) = .loc 0x1000 ∧ addrWord ((s.after (.g 1)).val (.g 2)) = .bay 1 0x1000 ∧ addrWord (BitVec.ofNat 64 (2 ^ 20)) = .bad := by
  simp only [State.Ready]; decide +kernel
theorem witness_Fences :
    let s := lab (gs (glob 0xFFF) 0#64)
    let w : PendLoad := { id := 1, d := .g 9 }
    let k : State := { s with sliceQ := [{ src := s.src, what := .store [(0x200000, 1#8, 0xFF#8)] }] }
    s.Ready {} ∧ s.half.vq = [] ∧ s.half.boundTrap = none ∧ s.half.loads = [] ∧ (s.releaseStop true 4).isNone = true ∧ s.Ready { iso := true }
    ∧ s.Ready { srcs := [.g 1], iso := true } ∧ addrWord (s.val (.g 1)) = .glob 0 0xFFF ∧ (s.after (.g 1)).resourceOk 0 0xFFF 1 1 labRes
    ∧ ((s.after (.g 1)).used 0).translates 0xFFF 1 1 [(0x200FFF, 1, labPage)]
    ∧ (lab { loads := [w] }).Ready {} ∧ (lab { loads := [w] }).half.loads ≠ [] ∧ k.Ready {} ∧ (k.releaseStop false 3).isSome = true
    ∧ (lab { vq := [{ op := .maskNot }] }).Ready {} ∧ (lab { vq := [{ op := .maskNot }] }).half.vq ≠ []
    ∧ (k.releaseStop true 4).isSome = true ∧ k.half.loads = [] := by
  simp only [State.Ready, State.resourceOk, State.translates]; decide +kernel
/-- ld.acq and st.rel in each space, at the last aligned bytes. -/
theorem witness_Fences_own :
    let s := lab (gs 0xBFFF8#64 5#64)
    let s1 := s.after (.g 1)
    let s2 := (s.after (.g 2)).after (.g 1)
    s.Ready (opA (.g 1) (.g 3)) ∧ s.Ready { srcs := [.g 2, .g 1] } ∧ addrWord (s.val (.g 1)) = .loc 0xBFFF8 ∧ 0xBFFF8 % 8 = 0
    ∧ s1.inWindow s.cur 0xBFFF8 8 .load ∧ s1.readable 0xBFFF8 8 ∧ s.half.loads = []
    ∧ s2.inWindow s.cur 0xBFFF8 8 .store ∧ (s2.releaseStop false 0).isNone = true ∧ s2.ordered.ownClear 0xBFFF8 8 = true
    ∧ s2.ordered.logs 0xBFFF8 8 s2.ordered := by
  simp only [State.Ready, State.inWindow, State.logs, State.readable, State.cleanOwn]; decide +kernel
theorem witness_Fences_bay :
    let b := lab (gs (bayW 0xBFFF8) 5#64)
    let b1 := b.after (.g 1)
    let b2 := (b.after (.g 2)).after (.g 1)
    b.Ready (opA (.g 1) (.g 3)) ∧ b.Ready { srcs := [.g 2, .g 1] } ∧ addrWord (b.val (.g 1)) = .bay 1 0xBFFF8 ∧ 0xBFFF8 % 8 = 0 ∧ b1.bayOpen 1
    ∧ b1.inWindow (bayTile (bayOf b.cur) 1) 0xBFFF8 8 .load ∧ b.half.loads = [] ∧ (b1.tile b.cur).loadsOut < 8
    ∧ b2.bayOpen 1 ∧ b2.inWindow (bayTile (bayOf b.cur) 1) 0xBFFF8 8 .remoteStore ∧ (b2.releaseStop false 1).isNone = true := by
  simp only [State.Ready, State.inWindow, State.bayOpen]; decide +kernel
theorem witness_Fences_global :
    let g := lab (gs (glob 0xFF8) 5#64)
    let c := labRc (gs (glob 0xFF8) 5#64)
    let g1 := g.after (.g 1)
    let c1 := c.after (.g 1)
    let g2 := (g.after (.g 2)).after (.g 1)
    g.Ready (opA (.g 1) (.g 3)) ∧ g.Ready { srcs := [.g 2, .g 1] } ∧ addrWord (g.val (.g 1)) = .glob 0 0xFF8 ∧ g.reflexSide = false ∧ 0xFF8 % 8 = 0
    ∧ g1.resourceOk 0 0xFF8 8 1 labRes ∧ (g1.used 0).translates 0xFF8 8 1 [(0x200FF8, 8, labPage)] ∧ (g1.used 0).ordered.outstanding g.cur < 16
    ∧ (g1.used 0).ordered.rdCached (pathOf 1 labRes [(0x200FF8, 8, labPage)]) = none ∧ g.half.loads = [] ∧ c.half.loads = [] ∧ c.reflexSide = false
    ∧ c.Ready (opA (.g 1) (.g 3)) ∧ addrWord (c.val (.g 1)) = .glob 0 0xFF8 ∧ c1.resourceOk 0 0xFF8 8 1 labResRc
    ∧ (c1.used 0).translates 0xFF8 8 1 [(0x200FF8, 8, labPage)]
    ∧ (c1.used 0).ordered.rdCached (pathOf 1 labResRc [(0x200FF8, 8, labPage)]) = some (List.replicate 8 0#8, false)
    ∧ g2.resourceOk 0 0xFF8 8 2 labRes ∧ (g2.used 0).translates 0xFF8 8 2 [(0x200FF8, 8, labPage)] ∧ ((g2.used 0).releaseStop false 4).isNone = true := by
  simp only [State.Ready, State.resourceOk, State.translates]
  refine ⟨?_, ?_, ?_, ?_, ?_, ?_, ?_, ?_, ?_, ?_⟩ <;> decide +kernel
/-- An out-buffer that holds so many bytes: an item of 4096 less these is the last that fits. -/
def labOut (h : Half) (n : Nat) : State := (lab h).modShareAt 0 0 fun x => { x with out := [{ act := 1, bytes := n, kind := .reqStep 0#64 }] }
/-- The payload word of n bytes at ea. -/
def payW (ea n : Nat) : Word := BitVec.ofNat 64 (ea + n * 2 ^ 32)
/-- The last tile of the partition, channel 63, and the longest body at the end of the window, in the last bytes of the out-buffer. -/
theorem witness_MessageSends :
    let s := labOut (gs (BitVec.ofNat 64 (511 + 63 * 2 ^ 16)) (payW 0xBFF10 240)) 3840
    let t := (s.after (.g 1)).after (.g 2)
    let p := labOut (gs (BitVec.ofNat 64 (511 + 0xFFFF8 * 2 ^ 32)) (payW 0 8)) 4064
    let u := labOut (gs 511#64 0#64) 4064
    s.Ready { srcs := [.g 1, .g 2] } ∧ onlyBits (s.val (.g 1)) [(10, 0), (21, 16)] = true ∧ PayloadOk ((s.after (.g 1)).val (.g 2)) 0
    ∧ t.inWindow t.cur 0xBFF10 240 .load ∧ t.ownClear 0xBFF10 240 = true ∧ t.resolve 511 = some 511 ∧ t.outRoom 256 = true
    ∧ s.Ready { srcs := [.g 1] } ∧ s.Ready { srcs := [.g 2] } ∧ (s.after (.g 1)).outRoom (16 + 8 * ((7#3).toNat + 1)) = true
    ∧ u.Ready { srcs := [.g 1] } ∧ onlyBits (u.val (.g 1)) [(10, 0)] = true ∧ (u.after (.g 1)).resolve 511 = some 511 ∧ (u.after (.g 1)).outRoom 32 = true
    ∧ p.Ready { srcs := [.g 1, .g 2] } ∧ onlyBits (p.val (.g 1)) [(10, 0), (51, 32)] = true ∧ wfield (p.val (.g 1)) 51 32 % 8 = 0
    ∧ PayloadOk (p.val (.g 2)) 8 ∧ p.inWindow 0 0 8 .load ∧ p.ownClear 0 8 = true ∧ p.outRoom 24 = true := by
  simp only [State.Ready, State.inWindow, PayloadOk]; decide +kernel
theorem witness_MessageSends_full :
    let u := labOut (gs 511#64 (payW 0 240)) 4065
    u.Ready { srcs := [.g 1] } ∧ onlyBits (u.val (.g 1)) [(10, 0)] = true ∧ (u.after (.g 1)).resolve 511 = some 511 ∧ (u.after (.g 1)).outRoom 32 = false
    ∧ u.Ready { srcs := [.g 2] } ∧ PayloadOk (u.val (.g 2)) 8 ∧ (u.after (.g 2)).inWindow u.cur 0 240 .load ∧ (u.after (.g 2)).ownClear 0 240 = true
    ∧ (u.after (.g 2)).outRoom 256 = false ∧ u.Ready { srcs := [.g 1, .g 2] } ∧ ((u.after (.g 1)).after (.g 2)).resolve 511 = some 511
    ∧ onlyBits (u.val (.g 1)) [(10, 0), (21, 16)] = true ∧ onlyBits (u.val (.g 1)) [(10, 0), (51, 32)] = true
    ∧ (u.after (.g 1)).outRoom (16 + 8 * ((1#3).toNat + 1)) = false := by
  simp only [State.Ready, State.inWindow, PayloadOk]; decide +kernel
theorem witness_MessagesAndGroups :
    let s := lab (gs 29#64 1#64)
    let m : State := { lab (gs 29#64 0#64) with tiles := [(0, labTile (gs 29#64 0#64) { labAct with msg := { pmask := 0x20000000#30 } })] }
    s.Ready { srcs := [.g 1], dsts := [.g 3] } ∧ (s.val (.g 1)).toNat ≤ 29 ∧ s.act.msg.pmask.getLsbD 29 = false ∧ m.act.msg.pmask.getLsbD 29 = true
    ∧ m.Ready { srcs := [.g 1], dsts := [.g 3] } ∧ (s.val (.g 2)).toNat ≤ 1 ∧ s.Ready { srcs := [.g 2] } ∧ (s.after (.g 2)).ownsChannel 63 = true
    ∧ s.share ≠ 2 ∧ (s.launch.group 0).getLsbD s.logicalTile = true ∧ (s.launch.group 255).getLsbD s.logicalTile = false
    ∧ onlyBits (BitVec.ofNat 64 (511 * 2 ^ 16)) [(7, 0), (24, 16)] = true ∧ s.member 0 = true := by
  simp only [State.Ready]; decide +kernel
theorem witness_MessagesAndGroups_sends :
    let s := labOut (gs (BitVec.ofNat 64 (63 * 2 ^ 16)) (payW 0xBFF10 240)) 3840
    let t := (s.after (.g 1)).after (.g 2)
    let b := labOut (gs (BitVec.ofNat 64 (2047 * 2 ^ 16 + 63 * 2 ^ 32)) 0#64) 4064
    s.Ready { srcs := [.g 1, .g 2] } ∧ onlyBits (s.val (.g 1)) [(7, 0), (21, 16)] = true ∧ t.member 0 = true ∧ PayloadOk ((s.after (.g 1)).val (.g 2)) 0
    ∧ t.inWindow t.cur 0xBFF10 240 .load ∧ t.ownClear 0xBFF10 240 = true ∧ t.outRoom 256 = true
    ∧ b.Ready { srcs := [.g 1] } ∧ onlyBits (b.val (.g 1)) [(7, 0), (26, 16), (37, 32)] = true ∧ b.member 0 = true ∧ b.outRoom 32 = true := by
  simp only [State.Ready, State.inWindow, PayloadOk]; decide +kernel
/-- Commands at their limits: the last K-step of the B-store, 128 rows, the last slot map. -/
theorem witness_EngineForms :
    let s := lab (gs 0x3FC000#64 0#64)
    let rows := 127#64
    let a := BitVec.ofNat 64 (0x1000 + 0x100 * 2 ^ 20)
    let sh := BitVec.ofNat 64 (127 + 2 * 2 ^ 28 + 2 * 2 ^ 32)
    s.Ready { srcs := [.g 1] } ∧ s.commandOk 0 0x3FC000#64 0#64 ∧ s.Ready { srcs := [.g 1, .g 2], pfx := mmaPfx, illegal := chanIllegal true 63#6 }
    ∧ s.commandOk 1 a (mmaShape 0#16 sh) ∧ s.Ready { srcs := [.g 2], illegal := chanIllegal false 0#6 } ∧ s.commandOk 2 0#64 rows
    ∧ s.Ready { srcs := [.g 1, .g 2], pfx := rdPfx, illegal := chanIllegal true 63#6 } ∧ s.commandOk 3 a (rdShape 0#16 rows)
    ∧ s.Ready { srcs := [.g 1, .g 2], illegal := chanIllegal true 63#6 } ∧ s.commandOk 4 a rows ∧ s.commandOk 7 0xBF7C0#64 0#64 := by
  simp only [State.Ready, State.commandOk]; decide +kernel
theorem witness_EngineForms_stat_bay :
    let s := lab (gs 0#64 1#64)
    let a := BitVec.ofNat 64 0x1000
    let sh := BitVec.ofNat 64 (127 + 2 * 2 ^ 28 + 2 * 2 ^ 32 + 2 ^ 60)
    s.Ready { srcs := [.g 1], dsts := [.g 3] } ∧ onlyBits (s.val (.g 2)) [(0, 0)] = true ∧ (s.after (.g 2)).mxPending s.cur s.act.id = false
    ∧ s.val (.g 1) = 0#64 ∧ s.val (.g 2) = 1#64 ∧ s.mxWordsOk 0 s.share 5 a (mmaShape 0#16 sh) = true
    ∧ s.mxLimitsOk 0 s.share 5 a (mmaShape 0#16 sh) = true ∧ s.share ≠ 2
    ∧ ((s.tile 0).share s.share).bayMask = 0xFFFF#16 ∧ s.mxExtentFault 0 s.share 5 a (mmaShape 0#16 sh) = none ∧ s.outRoom 64 = true := by
  simp only [State.Ready]; decide +kernel
/-- The extension registers of a copy. -/
def copyE (e0 e1 e2 e3 : Word) : Half := { gs 511#64 0#64 with e := (((((Vector.replicate 8 0#64).set 0 e0).set 1 e1).set 2 e2).set 3 e3).set 4 63#64 }
/-- The global forms: the last bytes of a resource, of the window and of the B-store; with a notification; and buffered. -/
theorem witness_CopyForms_global :
    let gl := lab (copyE 0xFF8#64 0xBFFF8#64 8#64 0#64)
    let gb := lab (copyE 0xFC0#64 0x3FFFC0#64 64#64 0#64)
    let lg := lab (copyE 0xBFFF8#64 0xFF8#64 8#64 0#64)
    let gg := lab (copyE 0#64 0xFF8#64 8#64 0#64)
    gl.Ready { dsts := [.g 3], iso := true } ∧ gl.copyPasses .gl 15 true false 0 0 labRes labRes ∧ gb.copyPasses .gb 15 true false 0 0 labRes labRes
    ∧ lg.copyPasses .lg 0 false false 0 0 labRes labRes ∧ gg.copyPasses .gg 0 true false 0 0 labRes labRes
    ∧ copyBuffered .lg 0 0 = true ∧ lg.outRoom 64 = true := by
  refine ⟨?_, ?_, ?_, ?_, ?_, ?_, ?_⟩ <;> (try simp only [State.Ready, State.copyPasses, State.resourceOk, State.inWindow]) <;> decide +kernel
theorem witness_CopyForms_local :
    let lb := lab (copyE 0xBFFC0#64 0x3FFFC0#64 64#64 0#64)
    let ls := lab (copyE 0x1000#64 0xBFFF8#64 8#64 0#64)
    let lsb := lab (copyE 0x1000#64 0x3FFFC0#64 64#64 0#64)
    lb.Ready { dsts := [.g 3] } ∧ lb.copyPasses .lb 15 true false 0 0 labRes labRes
    ∧ ls.Ready { srcs := [.g 1], dsts := [.g 3] } ∧ onlyBits (ls.val (.g 1)) [(10, 0)] = true ∧ (ls.after (.g 1)).resolve (wfield (ls.val (.g 1)) 10 0) = some 511
    ∧ (ls.after (.g 1)).copyPasses .ls 15 true false 0 511 labRes labRes ∧ (lsb.after (.g 1)).copyPasses .lsb 15 true false 0 511 labRes labRes
    ∧ (ls.after (.g 1)).copyPasses .pl 15 true false 511 0 labRes labRes ∧ copyBuffered .ls 0 511 = true ∧ ls.outRoom 64 = true := by
  refine ⟨?_, ?_, ?_, ?_, ?_, ?_, ?_, ?_, ?_, ?_⟩ <;> (try simp only [State.Ready, State.copyPasses, State.resourceOk, State.inWindow]) <;> decide +kernel
/-- The gathers: a list of one index at the end of the window, rows of 8 and 64 bytes, and a follow-on. -/
theorem witness_CopyForms_gather :
    let ld := lab (copyE 0#64 0x1000#64 0xBFFFC#64 8#64)
    let st := lab (copyE 0#64 0x1000#64 0xBFFFC#64 8#64)
    let lb := lab (copyE 0#64 0x3FFFC0#64 0xBFFFC#64 64#64)
    let ch := lab (copyE 0xFF8#64 0xBFFF8#64 8#64 0#64)
    ld.Ready { dsts := [.g 3], iso := true } ∧ ld.copyPasses .gxld 15 true false 0 0 labRes labRes ∧ st.copyPasses .gxst 0 true false 0 0 labRes labRes
    ∧ lb.copyPasses .gxldb 0 false false 0 0 labRes labRes ∧ ch.copyPasses .gl 0 true true 0 0 labRes labRes := by
  refine ⟨?_, ?_, ?_, ?_, ?_⟩ <;> (try simp only [State.Ready, State.copyPasses, State.resourceOk, State.inWindow]) <;> decide +kernel
theorem witness_CopyForms_channels :
    let s := lab (gs 0x77#64 8#64)
    s.Ready { srcs := [.g 1], dsts := [.g 3] } ∧ s.ownsCopyChan 15 = true ∧ onlyBits (s.val (.g 1)) [(6, 4), (2, 0)] = true
    ∧ wfield (s.val (.g 1)) 2 0 ≤ wfield (s.val (.g 1)) 6 4 ∧ (s.val (.g 2)).toNat ≤ 8 ∧ s.Ready { srcs := [.g 1, .g 2] } := by
  simp only [State.Ready]; decide +kernel
/-- A slot configuration of n bytes: tenant 1 reads, writes and owns it, on both sides. -/
def labCfg (n : Nat) : Rec512 := BitVec.ofNat 512 (n + 2 ^ 15 + 2 ^ 17 + 2 ^ 33 + 15 * 2 ^ 48 + 2 ^ 160 + 2 * 2 ^ 176)
def labT (h : Half) (x : TSlot) : State := { lab h with slots := [(4095, x)] }
/-- A control word for slot 4095 with an address. -/
def slotW (ea : Nat) : Word := BitVec.ofNat 64 (4095 + ea * 2 ^ 32)
theorem witness_TransomForms_pub_get :
    let s := labT (gs (slotW 0xBFFC0) (slotW 0xBFF80)) { cfg := labCfg 64 }
    let t := s.after (.g 1)
    let u := s.after (.g 2)
    s.Ready { srcs := [.g 1] } ∧ onlyBits (s.val (.g 1)) [(51, 32), (11, 0)] = true ∧ 0xBFFC0 % 64 = 0 ∧ t.inWindow s.cur 0xBFFC0 64 .load
    ∧ t.ownClear 0xBFFC0 64 = true ∧ mayWrite (s.slotT 4095).cfg t.act.tenant t.reflexSide false = true ∧ ¬ (cfgMirror (s.slotT 4095).cfg = true ∧ s.sys.role = 2)
    ∧ (t.reads 0xBFFC0 64).outRoom 80 = true ∧ ((t.reads 0xBFFC0 64).releaseStop false 3).isNone = true
    ∧ s.Ready { srcs := [.g 2], dsts := [.g 3] } ∧ onlyBits (s.val (.g 2)) [(51, 32), (11, 0)] = true ∧ u.inWindow s.cur 0xBFF80 128 .store
    ∧ u.ownClear 0xBFF80 128 = true ∧ mayRead (s.slotT 4095).cfg u.act.tenant u.reflexSide = true ∧ u.logs 0xBFF80 128 u := by
  simp only [State.Ready, State.inWindow, State.logs]; decide +kernel
theorem witness_TransomForms_age_arm_cfg :
    let arm := BitVec.ofNat 64 (2 ^ 63 + 63 * 2 ^ 32 + 511 * 2 ^ 16 + 4095)
    let s := labT (gs 4095#64 arm) { cfg := labCfg 64 }
    let c := labT (gs (slotW 0xBFFC0) 0#64) { cfg := labCfg 64 }
    let m : State := { c with mem := Memory.write [] (spadKey 0 0xBFFC0) (leBytes 64 (labCfg 64).toNat) }
    let t := c.after (.g 1)
    s.Ready { srcs := [.g 1], dsts := [.g 3] } ∧ onlyBits (s.val (.g 1)) [(11, 0)] = true
    ∧ s.Ready { srcs := [.g 2] } ∧ onlyBits (s.val (.g 2)) [(63, 63), (37, 32), (26, 16), (11, 0)] = true ∧ (s.after (.g 2)).resolve 511 = some 511
    ∧ cfgReader (s.slotT 4095).cfg (s.after (.g 2)).act.tenant = true
    ∧ c.Ready { srcs := [.g 1], dsts := [.g 3] } ∧ t.inWindow c.cur 0xBFFC0 64 .store ∧ (t.senseCfg 4095).ownClear 0xBFFC0 64 = true
    ∧ (t.senseCfg 4095).logs 0xBFFC0 64 (t.senseCfg 4095)
    ∧ ((t.senseCfg 4095).storeAt 0xBFFC0 (leBytes 64 0)).sectorPoisoned (cfgKey 4095) 64 = false
    ∧ (({ c with poison := [cfgKey 4095 / 64] } : State).sectorPoisoned (cfgKey 4095) 64) = true ∧ t.inWindow c.cur 0xBFFC0 64 .load
    ∧ t.readable 0xBFFC0 64 ∧ (m.after (.g 1)).readable 0xBFFC0 64 ∧ cfgStatus (c.slotT 4095).cfg (BitVec.ofNat 512 (t.ownNat 0xBFFC0 64)) 1 ≠ 0
    ∧ cfgStatus (m.slotT 4095).cfg (BitVec.ofNat 512 ((m.after (.g 1)).ownNat 0xBFFC0 64)) 1 = 0 := by
  simp only [State.Ready, State.inWindow, State.logs, State.readable, State.cleanOwn, State.ownNat]; decide +kernel
theorem witness_TransomForms_faults :
    let s := labT (gs (slotW 0x1001) (slotW 0xBFFC0)) { cfg := labCfg 64 }
    let n := labT (gs 0#64 (slotW 0xBFFC0)) {}
    let r : State := { labT (gs 0#64 (slotW 0xBFFC0)) { cfg := labCfg 64 ||| BitVec.ofNat 512 (2 ^ 159) } with sys := { role := 2 } }
    s.Ready { srcs := [.g 1] } ∧ onlyBits (s.val (.g 1)) [(51, 32), (11, 0)] = true ∧ wfield (s.val (.g 1)) 51 32 % 64 ≠ 0
    ∧ n.Ready { srcs := [.g 2] } ∧ onlyBits (n.val (.g 2)) [(51, 32), (11, 0)] = true ∧ (n.after (.g 2)).inWindow n.cur 0xBFFC0 0 .load
    ∧ mayWrite (n.slotT 4095).cfg 1 n.reflexSide false = false
    ∧ (r.after (.g 2)).inWindow r.cur 0xBFFC0 64 .load ∧ mayWrite (r.slotT 4095).cfg 1 r.reflexSide false = true ∧ cfgMirror (r.slotT 4095).cfg = true
    ∧ r.sys.role = 2 := by
  simp only [State.Ready, State.inWindow]; decide +kernel
def labPub : Pub := { slot := 4095, payload := [], poison := [], tenant := 1, launch := 1, writer := 0#11, host := false, reflexSide := false }
theorem witness_TransomEvents :
    let x : TSlot := {
      cfg := labCfg 64
      writing := some labPub
      pinq := [(3, 0)]
      bufs := ((Vector.replicate 4 { role := .free }).set 3 { role := .writing }).set 0 { role := .newest, hdr := 41#512 } }
    let r : TmReq := { tile := 0, c := 7, sh := 0, act := 1, tenant := 1, reflexSide := false, id := 1, slot := 4095, get := false, word := 4095#64 }
    let s : State := { labT {} x with cycle := 1, pubs := [labPub], tmq := [r], sys := { role := 2 } }
    s.pubs[0]? = some labPub ∧ (s.slotT 4095).writing.isSome = true ∧ (s.slotT 4095).writing = some labPub
    ∧ ((s.slotT 4095).bufs.get 3).role = .writing ∧ (∀ k : Fin 4, k < 3 → ((s.slotT 4095).bufs.get k).role ≠ .writing)
    ∧ s.earlierPub labPub = false ∧ (s.slotT 4095).pinq = (3, 0) :: [] ∧ 0 < s.cycle ∧ s.tmq[0]? = some r ∧ r.get = false
    ∧ mayRead (s.slotT 4095).cfg r.tenant r.reflexSide = true ∧ mayRead (s.slotT 0).cfg r.tenant r.reflexSide = false
    ∧ (s.slotT 0).readable s.cycle = none ∧ (s.slotT 4095).readable s.cycle = some 0 ∧ hdrVersion ((s.slotT 4095).bufs.get 0).hdr ≠ 0
    ∧ ((s.slotT 0).version.toNat < hdrVersion 1#512 ∧ ((s.slotT 0).bufs.get 3).role = .free ∧ ((s.slotT 0).bufs.get 3).pins = 0) := by
  decide +kernel
theorem witness_TransomEvents_host :
    let s := labT {} { cfg := labCfg 64, bufs := (Vector.replicate 4 {}).set 3 { role := .newest } }
    s.refuses 1 = false ∧ mayWrite (s.slotT 4095).cfg 1 false true = true ∧ ¬ (cfgMirror (s.slotT 4095).cfg = true ∧ s.sys.role = 2)
    ∧ cfgEn (s.slotT 4095).cfg = true ∧ cfgReader (s.slotT 4095).cfg 1 = true ∧ (s.slotT 4095).readable s.cycle = some 3 ∧ cfgEn (s.slotT 0).cfg = false
    ∧ cfgWriter (s.slotT 0).cfg 1 = false ∧ cfgReader (s.slotT 0).cfg 1 = false := by
  decide +kernel
theorem witness_RequestForms :
    let s := lab (gs 0xBFFC0#64 (BitVec.ofNat 64 (4095 + 0xBFFC0 * 2 ^ 32)))
    let t := s.after (.g 1)
    let u := s.after (.g 2)
    s.Ready (opReq (.g 1) (.g 3)) ∧ t.pid = some 0 ∧ t.parts.get? 0 = some labPart ∧ (∀ o ∈ labPart.req.ops, o.1 ≠ s.cur)
    ∧ (s.val (.g 1)).toNat % 64 = 0 ∧ t.inWindow s.cur 0xBFFC0 64 .load ∧ t.readable 0xBFFC0 64
    ∧ s.Ready (opReq (.g 2) (.g 3)) ∧ onlyBits (s.val (.g 2)) [(11, 0), (51, 32)] = true ∧ u.inWindow s.cur 0xBFFC0 64 .store ∧ u.ownClear 0xBFFC0 64 = true
    ∧ u.logs 0xBFFC0 64 u := by
  simp only [State.Ready, State.inWindow, State.readable, State.cleanOwn, State.logs]; decide +kernel
/-- The last row with four tokens, 512 rows, the last stop set with 16 tokens, and the last record. -/
theorem witness_RequestForms_words :
    let s := lab (gs (BitVec.ofNat 64 (511 + 3 * 2 ^ 9 + 0xBFFF0 * 2 ^ 32)) (BitVec.ofNat 64 (7 + 16 * 2 ^ 4 + 0xBFFC0 * 2 ^ 32)))
    let t := s.after (.g 1)
    let u := s.after (.g 2)
    let q : ReqTable := { held := [(511, 0)] }
    onlyBits (s.val (.g 1)) [(8, 0), (11, 9), (51, 32)] = true ∧ 0xBFFF0 % 4 = 0 ∧ t.inWindow s.cur 0xBFFF0 16 .load ∧ t.readable 0xBFFF0 16
    ∧ onlyBits 512#64 [(9, 0)] = true ∧ (∃ x ∈ q.held, (511#64).toNat ≤ x.1) ∧ (∀ x ∈ q.held, x.1 < (512#64).toNat)
    ∧ onlyBits (s.val (.g 2)) [(2, 0), (8, 4), (51, 32)] = true ∧ wfield (s.val (.g 2)) 8 4 ≤ 16 ∧ u.inWindow s.cur 0xBFFC0 64 .load
    ∧ u.readable 0xBFFC0 64 ∧ onlyBits 4095#64 [(11, 0)] = true := by
  simp only [State.inWindow, State.readable, State.cleanOwn]; decide +kernel
theorem witness_RequestForms_buffered :
    let s := labOut (gs (BitVec.ofNat 64 (63 * 2 ^ 16 + 0xFFFFF * 2 ^ 32 - 63 * 2 ^ 32)) (BitVec.ofNat 64 (511 + 0x7E * 2 ^ 16))) 4064
    let c := labOut (gs 5#64 (BitVec.ofNat 64 (511 + 63 * 2 ^ 16 + 511 * 2 ^ 32 + 0xFFFF * 2 ^ 48))) 4064
    s.Ready { srcs := [.g 1], iso := true } ∧ onlyBits (s.val (.g 1)) [(7, 0), (21, 16), (51, 32)] = true ∧ wfield (s.val (.g 1)) 51 32 % 64 = 0
    ∧ (s.after (.g 1)).member (wfield (s.val (.g 1)) 7 0) = true ∧ (s.after (.g 1)).outRoom 32 = true
    ∧ s.Ready { srcs := [.g 2], iso := true } ∧ onlyBits (s.val (.g 2)) [(8, 0), (22, 16)] = true ∧ wfield (s.val (.g 2)) 22 16 ≠ 0x7F
    ∧ onlyBits (BitVec.ofNat 64 (0xFFFFF + 15 * 2 ^ 32)) [(19, 0), (35, 32)] = true
    ∧ c.Ready { srcs := [.g 1, .g 2] } ∧ onlyBits ((c.after (.g 1)).val (.g 2)) [(10, 0), (21, 16), (40, 32), (63, 48)] = true
    ∧ ((c.after (.g 1)).after (.g 2)).resolve 511 = some 511 ∧ ((c.after (.g 1)).after (.g 2)).outRoom 32 = true := by
  simp only [State.Ready]; decide +kernel
theorem witness_RequestTableRules :
    let img : Rec512 := BitVec.ofNat 512 (2 ^ 96)
    let q : ReqTable := { recs := [(4094, rqSetState 0#512 1), (4095, rqSetState 0#512 2)] }
    let stops : Vector (List Nat) 8 := (Vector.replicate 8 []).set 7 [9]
    let r : Rec512 := setRec (setRec (setRec 0#512 58 56 7) 59 59 1) 127 96 2
    rqMalformed img = false ∧ rqSibl img = 0 ∧ rqState (q.recAt 0) = 0 ∧ rqState (q.recAt 4094) = 1 ∧ rqState (q.recAt 4095) = 2
    ∧ (r.getLsbD 59 = true ∧ 9 ∈ stops.get (Fin.ofNat 8 (resBits r 58 56)))
    ∧ ¬ (r.getLsbD 59 = true ∧ 8 ∈ stops.get (Fin.ofNat 8 (resBits r 58 56)))
    ∧ rqMaxpos (setRec r 95 64 2) ≤ rqPos (setRec r 95 64 2) ∧ rqPos (setRec r 95 64 1) < rqMaxpos (setRec r 95 64 1) := by decide +kernel
theorem witness_RequestEvents :
    let f : Part := { labPart with req := { ops := [(0, .reqFault 511 0x7E), (0, .reqStep 0#64)] } }
    let g : Part := { labPart with req := { ops := [(0, .reqStep 0#64)], kv := [(5, { count := 0xFFFD, tenant := 1 }), (6, { count := 0xFFFE }), (7, { count := 0xFFFF })] } }
    let op (k page : Nat) : KvOp := { tile := 0, c := 0, id := 1, pid := 0, op := k, page := page, tenant := 1 }
    let p (n : Nat) : CmbPkt := { op := 5, i32 := false, value := 1#64, owner := 0, ownerWord := 0#11, chan := 0, count := 2, id := 9, tenant := 1, launch := 1, src := 0, n := n }
    let s : State := { lab {} with parts := [(0, g), (1, f)], kvq := [op 0 5, op 1 6, op 3 7, op 0 8], cnet := [p 1, p 2] }
    s.parts.get? 1 = some f ∧ f.req.ops = (0, .reqFault 511 0x7E) :: [(0, .reqStep 0#64)] ∧ g.req.ops = (0, .reqStep 0#64) :: []
    ∧ s.kvq[0]? = some (op 0 5) ∧ s.parts.get? 0 = some g ∧ (kvGet g.req.kv 5).count < 0xFFFE ∧ (kvGet g.req.kv 5).tenant = 1 ∧ (kvGet g.req.kv 8).count = 0
    ∧ 0 < (kvGet g.req.kv 6).count ∧ (kvGet g.req.kv 6).count < 0xFFFF ∧ (kvGet g.req.kv 7).count = 0xFFFF
    ∧ s.cnet[0]? = some (p 1) ∧ s.cnet[1]? = some (p 2) ∧ (s.tile 0).split = false ∧ (s.tile 0).combine = [] ∧ (p 1).n < (p 1).count ∧ (p 2).count ≤ (p 2).n := by
  refine ⟨?_, ?_, ?_, ?_, ?_, ?_, ?_, ?_, ?_, ?_, ?_, ?_, ?_, ?_, ?_, ?_, ?_⟩ <;> decide +kernel
theorem witness_ExtensionAndShapeRegisters :
    let s := lab (gs 0xBFFC0#64 0xFF#64)
    let t := s.after (.g 1)
    s.Ready { srcs := [.g 1] } ∧ s.Ready { dsts := [.g 3] } ∧ s.Ready {} ∧ (s.val (.g 1)).toNat % 64 = 0 ∧ t.inWindow s.cur 0xBFFC0 64 .load
    ∧ t.readable 0xBFFC0 64 ∧ t.inWindow s.cur 0xBFFC0 64 .store ∧ t.logs 0xBFFC0 64 t
    ∧ (32#6).toNat < 33 ∧ (0#64).toNat < 2 ^ (shapeField (32#6).toNat).2 := by
  simp only [State.Ready, State.inWindow, State.readable, State.cleanOwn, State.logs]; decide +kernel
/-- rec.slice of the last rank of a record in the launch area, and of a malformed one. -/
theorem witness_ExtensionAndShapeRegisters_slice :
    let r0 := [(0, 8), (4, 4), (12, 1), (16, 8), (1, 1), (17, 1), (2, 1), (18, 1), (3, 1), (19, 1), (20, 0), (21, 1), (22, 2), (23, 3)].foldl
      (fun (r : Rec512) x => shapeSet r x.1 x.2) 0#512
    let s := lab (gs (BitVec.ofNat 64 (7 + 0xBFFC0 * 2 ^ 32)) 0#64)
    let m : State := { s with mem := Memory.write [] (spadKey 0 0xFC0) (leBytes 64 r0.toNat) }
    let t := m.after (.g 1)
    m.Ready { srcs := [.g 1], dsts := [.g 3] } ∧ wfield (m.val (.g 1)) 63 52 = 0 ∧ wfield (m.val (.g 1)) 31 16 = 0 ∧ wfield (m.val (.g 1)) 37 32 = 0
    ∧ t.inWindow m.cur (wfield (m.val (.g 1)) 51 32) 64 .store ∧ t.readable (64 * (63#6).toNat) 64
    ∧ shapeMalformed (BitVec.ofNat 512 (t.ownNat (64 * (63#6).toNat) 64)) = false
    ∧ wfield (m.val (.g 1)) 15 0 < shapeParts (BitVec.ofNat 512 (t.ownNat (64 * (63#6).toNat) 64)) ∧ t.logs 0xBFFC0 64 t
    ∧ shapeMalformed (BitVec.ofNat 512 ((s.after (.g 1)).ownNat (64 * (63#6).toNat) 64)) = true := by
  simp only [State.Ready, State.inWindow, State.readable, State.cleanOwn, State.logs, State.ownNat]; decide +kernel
/-- As `onTile`, with a valid handler of the reflex tenant on every channel. -/
def rflx (h : Half) : State := { cur := 1055, tiles := [(1055, labTile h labAct)] }
theorem witness_TimerAndWicketForms :
    let w := BitVec.ofNat 64 (3 + 63 * 2 ^ 8)
    let s := rflx (gs w 1000#64)
    let e := rflx (gs (w + 0x8000#64) (BitVec.ofNat 64 (2 ^ 32 - 1)))
    let z := rflx (gs (BitVec.ofNat 64 (31 + 3 * 2 ^ 8 + 63 * 2 ^ 16)) 31#64)
    isReflex s.cur = true ∧ s.Ready { srcs := [.g 1, .g 2] } ∧ onlyBits (s.val (.g 1)) [(1, 0), (13, 8), (15, 15)] = true
    ∧ 1000 ≤ ((s.after (.g 1)).val (.g 2)).toNat ∧ ((e.after (.g 1)).val (.g 2)).toNat < 2 ^ 32 ∧ ((s.tile 1055).handlers.get 63).valid = true
    ∧ ((s.tile 1055).handlers.get 63).tenant = s.act.tenant ∧ (s.val (.g 1)).getLsbD 15 = false ∧ e.Ready { srcs := [.g 1, .g 2] }
    ∧ (e.val (.g 1)).getLsbD 15 = true ∧ z.Ready { srcs := [.g 2], dsts := [.g 3] } ∧ onlyBits 15#64 [(3, 0)] = true
    ∧ onlyBits (z.val (.g 1)) [(4, 0), (9, 8), (21, 16)] = true ∧ (z.releaseStop false 3).isNone = true
    ∧ z.reflexSide = true ∧ z.Ready { srcs := [.g 2] } ∧ onlyBits (z.val (.g 2)) [(4, 0)] = true
    ∧ isReflex (lab {}).cur = false ∧ (lab {}).reflexSide = false ∧ validKey (lab {}).cur = true := by
  simp only [State.Ready]; decide +kernel
theorem witness_TimerAndWicketEvents :
    let tm : Timer := { en := true, chan := 63, period := 1000, phase := 0, next := 1 }
    let busy : Msg := { timer := 4 }
    let s : State := { rflx {} with cycle := 1200, tiles := [(1055, { labTile {} labAct with timers := (Vector.replicate 4 {}).set 3 tm })] }
    let b : State := { s with tiles := [(1055, { labTile {} labAct with timers := (Vector.replicate 4 {}).set 3 tm, inbox := [busy] })] }
    s.dueTimer 1055 = some 3 ∧ s.sys.role ≠ 2 ∧ s.sys.suspended = false ∧ (s.tile 1055).timerBusy 3 = false ∧ b.dueTimer 1055 = some 3
    ∧ (b.tile 1055).timerBusy 3 = true := by decide +kernel
theorem witness_TimerAndWicketEvents_wicket :
    let q : SeizeReq := { tile := 1024, word := 31#64, arg := 0#64, cycle := 0 }
    let s : State := {
      bays := [(31, { reqs := [q], wrec := BitVec.ofNat 512 (1 + 15 * 2 ^ 4 + 2 ^ 96 + 2 ^ 255), sbrem := 256 })]
      tiles := [(1024, { shares := Vector.replicate 3 { pid := some 0 } })]
      parts := [(0, { desc := BitVec.ofNat 512 (15 * 2 ^ 108) })] }
    let y : State := { bays := [(31, { seized := true, relPending := true, sbrem := 64 })] }
    let f : State := { bays := [(31, { seized := true, sbrem := 64 })] }
    (({ bays := [(31, { reqs := [{ q with rel := true }] })] } : State).bay 31).reqs = [{ q with rel := true }] ∧ q.rel = false ∧ (s.bay 31).reqs = [q] ∧ s.seizeStatus 31 q = 0 ∧ ({ bays := [(31, { reqs := [q] })] } : State).seizeStatus 31 q ≠ 0
    ∧ (y.bay 31).seized = true ∧ (y.bay 31).relPending = true ∧ (∀ i, i < 16 → y.wicketIdle (bayTile 31 i) = true) ∧ y.wicketTransfers 31 = false
    ∧ (f.bay 31).seized = true ∧ (f.bay 31).sbrem ≤ 64 ∧ (f.bay 31).relPending = false := by decide +kernel
theorem witness_ControlRegisterForms :
    let s := lab (gs 0x100000024#64 1#64)
    csrListed 0 = true ∧ csrListed 7 = true ∧ csrListed 0x13 = true ∧ csrListed 0x3F0 = true ∧ csrListed 0x3FF = false
    ∧ s.Ready { srcs := [.g 1], dsts := [.g 3] } ∧ s.share ≠ 2 ∧ s.half.vq = [] ∧ s.half.boundTrap = none ∧ (s.after (.g 1)).csrWritable 0x13 = true
    ∧ (s.after (.g 1)).csrWritable 7 = true ∧ (s.val (.g 1)).getLsbD 0 = false ∧ (s.after (.g 1)).csrWritable 1 = false
    ∧ (s.after (.g 1)).csrWritable 2 = false ∧ s.Ready { srcs := [.z], dsts := [.g 3] } ∧ validKey s.cur = true := by
  simp only [State.Ready]; decide +kernel
/-- The code at each edge of the four classes, with trap code and without. -/
theorem witness_TrapEntryAndReturn :
    let s := tst { trapvec := 0x100000024#64 }
    let t (c : Nat) : Trap := { code := c }
    (t 0x0F).xpc = none ∧ (t 0x0F).code < 0x10 ∧ 0x10 ≤ (t 0x10).code ∧ (t 0x1F).code < 0x20 ∧ s.half.trapvec.getLsbD 32 = true
    ∧ s.half.status.getLsbD 1 = false ∧ (tst {}).half.trapvec.getLsbD 32 = false ∧ (tst { status := 2#64 }).half.status.getLsbD 1 = true
    ∧ 0x20 ≤ (t 0x20).code ∧ (t 0x2F).code < 0x30 ∧ 0x30 ≤ (t 0x30).code
    ∧ s.Ready {} ∧ (tst { status := 2#64 }).Ready {} ∧ (tst { status := 2#64 }).half.xpc.getLsbD 0 = false
    ∧ (tst { status := 2#64, xpc := 1#64 }).half.xpc.getLsbD 0 = true
    ∧ (0xFFFFFFFF#64).toNat < 2 ^ 32 ∧ (4095 < 2 ^ 12 ∧ 0x100001FFD#64 = 0xFFFFFFFF#64 + BitVec.ofNat 64 (2 * 4095)) ∧ s.Ready { srcs := [.g 1] } := by
  simp only [State.Ready]; decide +kernel
theorem witness_DefenceForms :
    let s := lab (gs 0xBFFE0#64 3#64)
    let e : State := { s with fns := (Vector.replicate 16 {}).set 1 { eq := [{ type := 9 }] } }
    let t := s.after (.g 1)
    let b := lab (gs (BitVec.ofNat 64 (63 + 3 * 2 ^ 8 + 2 ^ 12)) (BitVec.ofNat 64 (63 + 2 * 2 ^ 8)))
    s.Ready { srcs := [.g 1], dsts := [.g 3] } ∧ (s.val (.g 1)).toNat % 32 = 0 ∧ t.inWindow s.cur 0xBFFE0 32 .store ∧ t.ownClear 0xBFFE0 32 = true
    ∧ (t.fn t.act.tenant).eq = []
    ∧ e.Ready { srcs := [.g 1], dsts := [.g 3] } ∧ (e.after (.g 1)).inWindow e.cur 0xBFFE0 32 .store ∧ (e.after (.g 1)).ownClear 0xBFFE0 32 = true
    ∧ ((e.after (.g 1)).fn 1).eq = { type := 9 } :: [] ∧ (e.after (.g 1)).logs 0xBFFE0 32 (e.after (.g 1))
    ∧ b.Ready { srcs := [.g 1, .g 2] } ∧ onlyBits (b.val (.g 1)) [(5, 0), (9, 8), (12, 12)] = true ∧ (b.after (.g 1)).ownsBound 63 = true
    ∧ b.Ready (opA (.g 2) (.g 3)) ∧ onlyBits (b.val (.g 2)) [(5, 0), (9, 8)] = true ∧ wfield (b.val (.g 2)) 9 8 < 3
    ∧ b.Ready { srcs := [.g 1] } ∧ onlyBits (BitVec.ofNat 64 (63 + 2 ^ 8)) [(5, 0), (8, 8)] = true ∧ (s.val (.g 2)).toNat ≤ 3 := by
  simp only [State.Ready, State.inWindow, State.logs]; decide +kernel
theorem witness_DefenceForms_system :
    let s := onTile 3072 (gs 0#64 1#64)
    let w : State := { rflx {} with sys := { asleep := true, wakeTenant := 1 } }
    s.Ready (opAB (.g 2) (.g 1) (.g 3)) ∧ s.cur = 3072 ∧ masterWordOk 0#64 = true ∧ onlyBits 1#64 [(0, 0)] = true
    ∧ masterWordOk (BitVec.ofNat 64 (1 + 2 ^ 63)) = false ∧ (lab {}).cur ≠ 3072 ∧ w.sys.asleep = true ∧ w.mayWake = true := by
  simp only [State.Ready]; decide +kernel
theorem witness_Leave :
    let s := lab (gs 125#64 3#64)
    let r := rflx (gs 176#64 3#64)
    let on (n : Nat) (hold : Nat) : State := { lab (gs 1#64 0#64) with tiles := [(0, labTile (gs 1#64 0#64) { labAct with lvReq := n, hold := hold })] }
    s.Ready { srcs := [.g 1] } ∧ s.Ready {} ∧ (on 2 0).act.lvReq = 2 ∧ (on 1 0).act.lvReq = 1 ∧ s.act.lvReq = 0 ∧ s.val (.g 1) ≠ 0#64
    ∧ (s.val (.g 1)).toNat ≤ (s.after (.g 1)).holdLimit ∧ s.act.hold = 0 ∧ usesReserve s.cur s.share = false
    ∧ r.Ready { srcs := [.g 1] } ∧ (r.val (.g 1)).toNat ≤ (r.after (.g 1)).holdLimit ∧ usesReserve r.cur r.share = true ∧ (on 0 5).act.hold ≠ 0
    ∧ s.Ready { srcs := [.g 2], dsts := [.g 3] } ∧ (s.val (.g 2)).toNat ≤ 3 := by
  simp only [State.Ready]; decide +kernel
theorem witness_Leave_queue :
    let r (c : Nat) : LvReq := { cost := c, prio := 0, cycle := 0, tileIdx := 0, kind := 0, tile := 0, act := 1, key := 1 }
    let s (c : Nat) : State := { tiles := [(0, { ctxs := Vector.replicate 8 { s0 := { phase := .live, waitOn := .hold, act := { id := 1, lvWait := 4096 } } } })]
                                 bays := [(0, { lvq := [r c] })] }
    lvHead ((s 125).bay 0).lvq = some (r 125) ∧ (r 125).cost ≤ ((s 125).bay 0).pool - ((s 125).bay 0).used
    ∧ lvHead ((s 126).bay 0).lvq = some (r 126) ∧ ((s 126).bay 0).pool - ((s 126).bay 0).used < (r 126).cost
    ∧ oldestReq ((s 126).lvOf 0 ((s 126).slotAt 0 7)) = some (r 126) ∧ (s 126).waitsOnLeave 0 ((s 126).slotAt 0 7) = true
    ∧ 4096 ≤ ((s 126).slotAt 0 7).act.lvWait ∧ (s 126).frozenShare 0 ((s 126).shareAt 0 7) = false := by decide +kernel
/-- Tag words and attribute words of a translation core: reserved, misaligned, beyond the memory, and a page that is placed. -/
theorem witness_TranslationForms :
    let s := onTile 2048 (gs 0#64 0#64)
    let tag := BitVec.ofNat 64 (15 * 2 ^ 60 + 15 * 2 ^ 52)
    let attr (pa : Nat) : Word := BitVec.ofNat 64 (2 ^ 63 + pa)
    let m : State := { s with frames := [(1, 15 * 16 + 3)] }
    isCore s.cur = true ∧ s.Ready (opAB (.g 2) (.g 1) (.g 3)) ∧ s.Ready (opA (.g 1) (.g 3)) ∧ isCore (lab {}).cur = false
    ∧ tagReserved (BitVec.ofNat 64 (5 * 2 ^ 57)) = true ∧ attrReserved 0#64 = true ∧ tagReserved tag = false ∧ attrReserved (attr 0x1000) = false
    ∧ (pageEntry (BitVec.ofNat 64 (2 ^ 57)) (attr 0x1000)).pa % 2 ^ (pageEntry (BitVec.ofNat 64 (2 ^ 57)) (attr 0x1000)).bits ≠ 0
    ∧ mappable (pageEntry tag (attr Config.mainMemoryTop)).pa = false ∧ mappable (pageEntry tag (attr 0x1000)).pa = true
    ∧ mappable ((pageEntry tag (attr 0x1000)).pa + 2 ^ (pageEntry tag (attr 0x1000)).bits - 1) = true
    ∧ (pageEntry tag (attr 0x1000)).bits = 12
    ∧ m.frameOk (pageEntry tag (attr 0x1000)).tenant 0x1000 = true ∧ tagWake tag = false
    ∧ s.frameOk (pageEntry tag (attr 0x1000)).tenant 0x1000 = false
    ∧ (pageEntry (tag ||| BitVec.ofNat 64 (2 ^ 56)) (attr 0x1000)).tenant = (pageEntry tag (attr 0x1000)).tenant
    ∧ tagWake (tag ||| BitVec.ofNat 64 (2 ^ 56)) = true ∧ tagReserved (tag ||| BitVec.ofNat 64 (2 ^ 56)) = false
    ∧ m.answerable 15 (tag ||| BitVec.ofNat 64 (2 ^ 56)) = false := by
  simp only [State.Ready]; decide +kernel
theorem witness_TranslationForms_resources :
    let h := gs 1#64 0xBFFC0#64
    let old := labRes ||| BitVec.ofNat 512 (2 ^ 119)
    let s : State := { lab h with mem := (Memory.write (Memory.write [] 0x100040 (leBytes 64 old.toNat)) (spadKey 0 0xBFFC0) (leBytes 64 old.toNat)) }
    let t := (s.after (.g 1)).after (.g 2)
    let c := lab (gs 0#64 0xBFFC0#64)
    let ct := (c.after (.g 1)).after (.g 2)
    let w : State := { lab h with tiles := [(0, labTile h { labAct with resWr := some 1 })], parts := [(0, { labPart with desc := BitVec.ofNat 512 (512 * 2 ^ 64) })] }
    let p : State := { lab h with tiles := [(0, { labTile h labAct with inval := [(0, 1, labRes), (0, 0, labRes)] })] }
    s.Ready (opAB (.g 2) (.g 1) (.g 3)) ∧ t.act.resWr = none ∧ 0xBFFC0 % 64 = 0 ∧ t.inWindow s.cur 0xBFFC0 64 .load ∧ 1 < t.tableLaunch.resCount
    ∧ t.ownClear 0xBFFC0 64 = true ∧ (ct.useRes c.cur ct.tablePid 0).ownClear 0xBFFC0 64 = true ∧ (c.val (.g 1)).toNat < ct.tableLaunch.resCount ∧ t.resMerge (t.rec512 (t.tableLaunch.resBase + 64 * 1)) (BitVec.ofNat 512 (t.ownNat 0xBFFC0 64)) = some old
    ∧ w.Ready (opAB (.g 2) (.g 1) (.g 3)) ∧ w.act.resWr = some 1 ∧ (∀ x ∈ w.launchTiles, ∀ v ∈ (w.tile x).inval, ¬ (v.1 = w.tablePid.getD 16 ∧ v.2.1 = 1))
    ∧ c.Ready { srcs := [.g 1, .g 2] } ∧ ct.inWindow c.cur 0xBFFC0 64 .store
    ∧ (ct.useRes c.cur ct.tablePid 0).logs 0xBFFC0 64 (ct.useRes c.cur ct.tablePid 0)
    ∧ (p.tile 0).inval = (0, 1, labRes) :: [(0, 0, labRes)] := by
  simp only [State.Ready, State.inWindow, State.logs, State.ownNat]
  refine ⟨?_, ?_, ?_, ?_, ?_, ?_, ?_, ?_, ?_, ?_, ?_, ?_, ?_, ?_, ?_, ?_⟩ <;> decide +kernel
theorem witness_TranslationEvents :
    let e : TlbEntry := { tenant := 1, size := 0, va := 0, pa := 0x1000, kind := 1, pol := 0, pr := true, pw := true, pa' := true }
    let mv (c f : Bool) : Move := { src := 0x1000, dst := 0x2000, size := 4096, tenant := 1, entry := e, round := 0, bits := [], frozen := f, converged := c, gone := [(0, e)] }
    let s : State := {
      cycle := 9
      tiles := [(0, { ctxs := Vector.replicate 8 { s0 := { phase := .parked 1, missSent := true, retryAt := some 9 } } })]
      frames := [(3, 1), (4, 2), (5, 19), (6, 16)]
      rows := [(5, 7)]
      sys := { scrubs := [3], moves := [mv false false, mv true false, mv true true] } }
    ((s.tile 0).ctx 7).missHalf = some false ∧ (((s.tile 0).ctx 7).slot false).retryAt = some 9 ∧ 9 ≤ s.cycle ∧ s.sys.scrubs[0]? = some 3
    ∧ s.frame 3 % 16 = 1 ∧ s.Safe ∧ 3 ∈ s.sys.scrubs ∧ s.frame 4 % 16 = 2 ∧ s.frame 5 % 16 = 3 ∧ s.unmapped 5 = true ∧ s.frame 6 % 16 = 0
    ∧ 6 * 4096 < Config.mainMemoryTop ∧ (mv false false).converged = false ∧ s.sys.moves[1]? = some (mv true false) ∧ s.sys.moves[2]? = some (mv true true) ∧ s.moveQuiet (mv true true) = true ∧ s.rows.get? 5 = some 7 ∧ (15 : Nat) < 16 := by
  simp only [State.Safe]; decide +kernel
/-- Tile 0 is a partition of its own (node 512). -/
def onePart (st : Nat) : Part := { desc := BitVec.ofNat 512 (512 * 2 ^ 64 + 15 * 2 ^ 104), state := st }
theorem witness_PartitionForms :
    let s := onTile 3072 (gs 0xFFFC0#64 15#64)
    let d : Rec512 := BitVec.ofNat 512 (512 * 2 ^ 64 + 15 * 2 ^ 104)
    let on (st : Nat) : State := { s with parts := [(15, onePart st)] }
    s.Ready { srcs := [.g 1], dsts := [.g 3] } ∧ s.cur = 3072 ∧ (s.val (.g 1)).toNat % 64 = 0 ∧ (s.after (.g 1)).inWindow 3072 0xFFFC0 64 .load
    ∧ (s.after (.g 1)).readable 0xFFFC0 64 ∧ s.Ready { srcs := [.g 2], dsts := [.g 3] } ∧ (s.val (.g 2)).toNat % 64 ≠ 0
    ∧ onlyBits (s.val (.g 2)) [(3, 0)] = true ∧ (lab {}).cur ≠ 3072
    ∧ descMalformed 0#512 = true ∧ descMalformed d = false ∧ (((on 1).parts.get? (descPid d))).isSome = true
    ∧ (on 1).nodeFree (descNode d) (descHalf d) none = false ∧ (s.partMk d).2 = 0 ∧ s.parts.get? 15 = none
    ∧ (on 1).parts.get? 15 = some (onePart 1) ∧ (onePart 1).isReflex = false ∧ (onePart 1).state = 1 ∧ (onePart 4).state = 4 ∧ (onePart 3).state = 3 := by
  simp only [State.Ready, State.inWindow, State.readable, State.cleanOwn]
  refine ⟨?_, ?_, ?_, ?_, ?_, ?_, ?_, ?_, ?_, ?_, ?_, ?_, ?_, ?_, ?_, ?_, ?_, ?_, ?_, ?_⟩ <;> decide +kernel
theorem witness_PartitionEvents :
    let w : Swap := { out := some 15, toDram := true, back := none, node := 0 }
    let u (e : Bool) : ShutterUnit := { bay := 31, chan := 63, mode := 1, ended := e }
    let h (e : Bool) : Shutter := { deadline := 0, units := [u e] }
    let s : State := { swaps := [w], parts := [(15, onePart 6)], tiles := [(0, { refill := (Vector.replicate 3 none).set 0 (some 0x3FC000) })] }
    let p (e : Bool) : Part := { onePart 9 with shutter := some (h e) }
    let t (e : Bool) : State := { parts := [(15, p e)] }
    s.swaps[0]? = some w ∧ w.out = some 15 ∧ w.back = none ∧ s.parts.get? 15 = some (onePart 6) ∧ s.saveReady 15 (onePart 6) = true ∧ w.toDram = true
    ∧ (t false).parts.get? 15 = some (p false) ∧ (p false).shutter = some (h false) ∧ (p false).state = 9 ∧ (h false).units = [u false]
    ∧ (u false).ended = false ∧ (t false).unitOver (p false) (u false) = true
    ∧ (t true).parts.get? 15 = some (p true) ∧ (∀ x ∈ (h true).units, x.ended = true) ∧ (t true).saveReady 15 (p true) = true
    ∧ (s.tile 0).refill.get 0 = some 0x3FC000 := by
  refine ⟨?_, ?_, ?_, ?_, ?_, ?_, ?_, ?_, ?_, ?_, ?_, ?_, ?_, ?_, ?_, ?_⟩ <;> decide +kernel
/-! ### The vector unit -/
/-- Fifteen entries stand in the queue and a prefix with a rounding mode or saturation is pending. -/
def handing (p : BitVec 16) : State :=
  tst { vq := List.replicate 15 { op := .maskNot }, status := 1#64, pfxsave := p }
theorem witness_VectorArithmeticHandsOver :
    (handing 0x0200#16).half.vq.length = 15 ∧ (handing 0x0200#16).Ready { pfx := pfxOnly noFmt true false, badCode := true && decide (4 ≤ (3 : VReg).val) }
    ∧ (tst {}).Ready { pfx := pfxOnly (unsFmt .b64) false true, badCode := false && decide (4 ≤ (31 : VReg).val) } := by
  simp only [State.Ready]; decide +kernel
theorem witness_VectorOthersHandOver :
    (tst {}).Ready { pfx := pfxOnly noFmt false false, badCode := (true && decide (4 ≤ (3 : VReg).val)) || !isMaskReg 7 }
    ∧ (tst {}).Ready { pfx := pfxOnly noFmt false false, badCode := !(isMaskReg 7 && isMaskReg 7 && isMaskReg 7) }
    ∧ (tst {}).Ready { pfx := pfxOnly noFmt false false, badCode := !(isMaskReg 7 && decide ((3 : VReg).val < 4)) }
    ∧ (tst {}).Ready { pfx := pfxOnly noFmt false false, badCode := !(decide ((3 : VReg).val < 4) && isMaskReg 7) }
    ∧ (tst {}).Ready { pfx := pfxOnly noFmt true true } ∧ (tst {}).Ready { pfx := pfxOnly noFmt false false, badCode := decide (4 ≤ (3 : VReg).val) }
    ∧ (tst {}).Ready { pfx := pfxOnly (fun f => decide (f ≤ 8) && (true || decide (f ≠ 1))) false true, badCode := !isVBase (.q 3), iso := true }
    ∧ (tst {}).Ready { pfx := pfxOnly (fun f => decide (f ≤ 8) && (false || decide (f ≠ 1))) false true, badCode := !(isVBase .z && isVBase (.q 0)) }
    ∧ (tst {}).half.vq.length < 16 := by
  simp only [State.Ready]; decide +kernel
/-- The last element of each width, and a prefix that asks for no saturation. -/
theorem witness_VectorElementResults :
    let x : VEntry := { op := .int 0 .b8, vb := 31 }
    x.op = .int 0 .b8 ∧ 255 < 2048 / EltSize.b8.bits ∧ pfxSat x.pfx = false ∧ 63 < 2048 / FpType.f32.fmt.width
    ∧ ({ op := .fp 7 .f32 } : VEntry).op = .fp 7 .f32 ∧ ({ op := .logic 0 .b64 } : VEntry).op = .logic 0 .b64 ∧ 31 < 2048 / EltSize.b64.bits
    ∧ ({ op := .cmpInt 0 .b16 } : VEntry).op = .cmpInt 0 .b16 ∧ ({ op := .bcast .b32 } : VEntry).op = .bcast .b32 := by decide +kernel
theorem witness_VectorStreamEvents :
    let x : VEntry := { op := .int 0 .b8 }
    let y : VEntry := { op := .exp2 }
    let l : Half := { vq := [x, y] }
    let s := lab l
    let b : State := { lab {} with cycle := 65, tiles := [(0, { labTile {} labAct with burst := some 0 })] }
    let t := lab { boundTrap := some (63, 8#64) }
    (s.slotAt 0 7).half.vq = x :: [y] ∧ s.needsBurst 0 0 = false ∧ s.vectorPick 0 = some 0 ∧ s.streamRuns 0 0 = true
    ∧ (s.slotAt 0 0).half.queuesReady x.queues = true ∧ x.vs = false ∧ (b.tile 0).burst = some 0 ∧ 0 + 64 < b.cycle ∧ (b.tile 0).burstAct = 0
    ∧ (t.slotAt 0 7).half.boundTrap = some (63, 8#64) ∧ (t.slotAt 0 7).phase = .live ∧ (t.slotAt 0 7).wfrozen = false
    ∧ t.frozenShare 0 (t.shareAt 0 7) = false ∧ (t.slotAt 0 7).holds = false := by
  refine ⟨?_, ?_, ?_, ?_, ?_, ?_, ?_, ?_, ?_, ?_, ?_, ?_, ?_, ?_⟩ <;> decide +kernel
/-! ### Activations -/
/-- Empty queues and no item; a message for the host held back; an entry in q7; an error of the engine. -/
theorem witness_DoneAndFlush :
    let s := lab {}
    let o : State := { lab {} with tiles := [(0, { labTile {} labAct with shares := Vector.replicate 3 { pid := some 0, out := [{ act := 1, bytes := 16, kind := .host {} }] } })] }
    let u := commitUndo o
    let r : State := o.modAct fun a => { a with released := true }
    let n : State := s.modAct fun a => { a with released := true }
    let q := lab { q := (Vector.replicate 8 []).set 7 [5#64] }
    let e : State := { lab {} with tiles := [(0, labTile {} { labAct with engErr := some (3, 9#64) })] }
    s.half.vq = [] ∧ s.half.boundTrap = none ∧ (∀ i, s.half.q.get i = []) ∧ s.mxPending s.cur s.act.id = false
    ∧ s.transfersPending s.cur s.act.id = false ∧ s.act.engErr = none ∧ s.myItems = [] ∧ (commitUndo s).myItems = [] ∧ s.Ready {} ∧ s.Ready { len := 2 }
    ∧ o.half.vq = [] ∧ o.half.boundTrap = none ∧ (∀ i, o.half.q.get i = []) ∧ o.mxPending o.cur o.act.id = false
    ∧ o.transfersPending o.cur o.act.id = false ∧ o.act.engErr = none ∧ o.myItems ≠ [] ∧ u.myItems ≠ [] ∧ o.Ready {} ∧ o.Ready { len := 2 }
    ∧ (u.releaseStop true (if u.myItems.any fun o => o.kind.isHost then 4 else 3)).isNone = true ∧ u.releasing = false
    ∧ s.act.released = false ∧ r.act.released = true ∧ r.myItems ≠ [] ∧ r.Ready {} ∧ n.act.released = true ∧ n.myItems = [] ∧ n.Ready {}
    ∧ q.Ready {} ∧ q.half.vq = [] ∧ q.half.boundTrap = none ∧ q.half.q.get 7 ≠ []
    ∧ e.Ready {} ∧ (∀ i, e.half.q.get i = []) ∧ e.mxPending e.cur e.act.id = false ∧ e.transfersPending e.cur e.act.id = false
    ∧ e.act.engErr = some (3, 9#64) ∧ e.half.vq = [] ∧ e.half.boundTrap = none := by
  simp only [State.Ready]
  refine ⟨?_, ?_, ?_, ?_, ?_, ?_, ?_, ?_, ?_, ?_, ?_, ?_, ?_, ?_, ?_, ?_, ?_⟩ <;> decide +kernel
/-- The last of the messages in the network arrives, and takes the last entry of the normal 96; a put, an arrival at a barrier and a bay-remote
load find one place free at their port thread. -/
theorem witness_ActivationEvents :
    let m : Msg := { launch := 1, tenant := 1, kind := 0, dst := 511, chan := 63, body := [1#8] }
    let p : Msg := { m with kind := 2, dst := 0 }
    let a : Msg := { m with kind := 3, dst := 0, src := 1 }
    let r : Msg := { m with kind := 5, dst := 0, src := 2, remote := some (.load 2 0 0 1 0 8) }
    let w : Msg := { m with kind := 5, dst := 0, src := 3, remote := some (.answer 0 7 0 1 none) }
    let x : Tile := { shares := Vector.replicate 3 { pid := some 0 }, handlers := Vector.replicate 64 { valid := true, tenant := 1 } }
    let s : State := {
      net := [p, m, a, r, w]
      tiles := [(0, { x with portQ := List.replicate 15 (.put p) }), (511, x)]
      parts := [(0, labPart)] }
    let b : State := { tiles := [(511, { x with inbox := [m] })], parts := [(0, labPart)] }
    s.net[1]? = some m ∧ s.net[0]? = some p ∧ pathBlocked s.net 1 m = false ∧ pathBlocked s.net 0 p = false ∧ m.kind ≠ 2 ∧ m.kind ≠ 3 ∧ m.kind ≠ 5
    ∧ s.intoImage m = false ∧ s.net[4]? = some w ∧ pathBlocked s.net 4 w = false ∧ w.kind = 5 ∧ w.isAnswer = true
    ∧ (s.tile p.dst).portQ.length < 16 ∧ p.kind = 2 ∧ p.remote = none ∧ s.net[2]? = some a ∧ pathBlocked s.net 2 a = false ∧ a.kind = 3
    ∧ s.net[3]? = some r ∧ pathBlocked s.net 3 r = false ∧ r.kind = 5 ∧ r.isAnswer = false ∧ (s.tile m.dst).inNet ≤ m.vnet ∧ s.inboxRoom m.dst m = true ∧ (s.dropNet 1).arrivalCheck m.dst m = .queue
    ∧ (b.select 511).any (fun r => decide (r.2 = 0) && decide ((b.tile 511).inbox[r.1.pos]? = some m)) = true := by
  refine ⟨?_, ?_, ?_, ?_, ?_, ?_, ?_, ?_, ?_, ?_, ?_, ?_, ?_⟩ <;> decide +kernel
/-- A partition that is being restored, whose image holds the tile that the message names. -/
theorem witness_ActivationEvents_image :
    let m : Msg := { launch := 1, tenant := 1, pid := 0, kind := 0, dst := 511, dest := 511#11, chan := 63, body := [1#8] }
    let i : TileImage := {
      logical := 511, ctxs := Vector.replicate 8 {}, share := {}, engine := {}, handlers := Vector.replicate 64 { valid := true, tenant := 1 }
      inbox := [], chans := Vector.replicate 16 {}, bnd := Vector.replicate 64 {}, bndflag := 0#64, grpslot := Vector.replicate 8 0#64
      barriers := [], combine := [], rtags := [], asks := [], halves := [], code := [], spad := [], spadLines := [], spadPoison := [], acc := [] }
    let s : State := { net := [m], parts := [(0, { labPart with state := 8, image := [i] })] }
    s.net[0]? = some m ∧ pathBlocked s.net 0 m = false ∧ m.kind ≤ 4 ∧ m.kind ≠ 2 ∧ m.kind ≠ 3 ∧ s.intoImage m = true ∧ s.entryRoom m.dst m = true
    ∧ ({ labPart with image := [i] } : Part).imageOf m = some i := by
  refine ⟨?_, ?_, ?_, ?_, ?_, ?_, ?_, ?_⟩ <;> decide +kernel
theorem witness_ActivationEvents_end :
    let on (ph : Phase) (started : Bool) : State := { lab {} with tiles := [(0, { labTile {} labAct with
      ctxs := Vector.replicate 8 { s0 := { phase := ph, act := { labAct with abort := some { code := 0x20 }, abortStarted := started } } } })] }
    let o : State := (on .retiring false).modShareAt 0 0 fun x => { x with out := [{ act := 1, bytes := 32, kind := .msgs [{}] }] }
    ((on .retiring false).slotAt 0 7).phase = .retiring ∧ (on .retiring false).frozenShare 0 ((on .retiring false).shareAt 0 7) = false
    ∧ ((on .retiring false).slotAt 0 7).wfrozen = false ∧ (on .retiring false).itemsOf 0 0 1 = []
    ∧ (o.slotAt 0 7).phase = .retiring ∧ (o.slotAt 0 7).wfrozen = false ∧ o.frozenShare 0 (o.shareAt 0 7) = false
    ∧ o.injectHeld 0 (o.shareAt 0 7) (o.slotAt 0 7).act.id = false
    ∧ (o.injectNext 0 (o.shareAt 0 7) (o.slotAt 0 7).act.id).isSome = true
    ∧ ((on .aborting false).slotAt 0 7).phase = .aborting ∧ ((on .aborting false).slotAt 0 7).act.abort = some { code := 0x20 }
    ∧ (on .aborting false).frozenShare 0 ((on .aborting false).shareAt 0 7) = false ∧ ((on .aborting false).slotAt 0 7).act.abortStarted = false
    ∧ ((on .aborting true).slotAt 0 7).act.abortStarted = true ∧ (on .aborting true).transfersPending 0 1 = false
    ∧ (on .aborting true).atomicPending 0 1 = false ∧ ((on .live false).slotAt 0 7).half.budget = 0#64
    ∧ (on .live false).budgetRuns 0 ((on .live false).shareAt 0 7) ((on .live false).slotAt 0 7) = true ∧ validKey (on .live false).cur = true := by
  refine ⟨?_, ?_, ?_, ?_, ?_, ?_, ?_, ?_, ?_, ?_, ?_, ?_⟩ <;> decide +kernel
/-! ### Accesses, replies, port threads -/
/-- A load of two lines of which one is missing, a store, an atomic, an inbound write, a probe behind a store of another slice, and a line that a
store has allocated. -/
theorem witness_SliceAccesses :
    let src : Src := { tile := 0, c := 0, pid := 0 }
    let o (w : SliceWhat) : SliceOp := { src := src, what := w }
    let cells : List (Nat × Byte × Byte) := [(0x1000, 1#8, 0xFF#8), (0x1001, 2#8, 0x0F#8)]
    let word := (List.range 8).map fun i => 0x2000 + i
    let am : SliceOp := o (.amo 5 1 true word 1#64 0#64)
    let s : State := {
      sliceQ := [o (.load 4 [0xFF, 0x100]), o (.store cells), am, o (.host 1 [(0x3000, 1#8, 0xFF#8)]), o (.probe 15)]
      l2 := [{ line := 0, dirty := false }, { line := 0x20, dirty := false }, { line := 0x30, dirty := true, full := false, written := [0] }] }
    let m : State := { s with l2 := [{ line := 0x20, dirty := false, poison := [0] }] }
    (∀ n ∈ [1, 2, 3], ∀ x, s.sliceQ[n]? = some x → s.sliceFree n x = true ∧ s.accessReady x = true)
    ∧ s.accessReady (o (.load 4 [0xFE, 0xFF])) = true ∧ s.sliceQ[1]? = some (o (.store cells)) ∧ s.Safe
    ∧ (s.writeLines ((o (.store cells)).lines (o (.store cells)).what.keys)).sys.uncontained = false ∧ (cells.map (·.1)).Nodup
    ∧ s.keysPoisoned word = false ∧ m.keysPoisoned word = true ∧ word.Nodup ∧ word.length = amoSize true
    ∧ (s.writeLines ((am.lines word).map fun l => (l.1, false))).sys.uncontained = false
    ∧ s.sliceQ[0]? = some (o (.load 4 [0xFF, 0x100])) ∧ 1 ∈ linesOf (s.missing (o (.load 4 [0xFF, 0x100])))
    ∧ ((s.cached 0x30).map fun x => x.full) = some false ∧ 0x30 * 256 < Config.structuresTop
    ∧ s.sliceQ[4]? = some (o (.probe 15)) ∧ (∀ x ∈ s.sliceQ.take 4, s.countsFor 0 15 x = false) := by
  simp only [State.Safe]
  refine ⟨?_, ?_, ?_, ?_, ?_, ?_, ?_, ?_, ?_, ?_, ?_, ?_, ?_, ?_, ?_, ?_, ?_⟩ <;> decide +kernel
theorem witness_RepliesAndPortThreads :
    let l (r : Reply) : PendLoad := { id := 2, d := .g 39, size := 1, signed := true, reply := some r }
    let s (r : Reply) : State := lab { loads := [{ id := 1, d := .z }, l r], ypend := (Vector.replicate 4 0).set 3 3 }
    let on (o : PortOp) : State := { lab {} with tiles := [(0, { labTile {} labAct with portQ := [o] })] }
    let p (a : Nat) : Msg := { launch := 1, tenant := 1, pid := 0, kind := 2, dst := 0, addr := a, body := [1#8, 2#8] }
    let a : Msg := { launch := 1, tenant := 1, pid := 0, kind := 3, dst := 0, body := leBytes 8 (1023 * 2 ^ 16) }
    let poisoned : State := { on (.remote (.load 1 0 0 9 0x1000 8)) with poison := [spadKey 0 0x1000 / 64] }
    (((s (.value 0x80#64 noFlags)).slotAt 0 7).half.loads.find? fun l => l.reply.isSome) = some (l (.value 0x80#64 noFlags))
    ∧ (((s (.poisoned 1 0#64)).slotAt 0 7).half.loads.find? fun l => l.reply.isSome) = some (l (.poisoned 1 0#64))
    ∧ ((s (.poisoned 1 0#64)).slotAt 0 7).phase ≠ .frozen
    ∧ ((s (.value 0x80#64 noFlags)).slotAt 0 7).half.ypend.get 3 = (l (.value 0x80#64 noFlags)).id + 1
    ∧ poisoned.winPoisoned 0 0 0x1000 8 = true ∧ (poisoned.tile 0).portQ = [.remote (.load 1 0 0 9 0x1000 8)]
    ∧ ((on (.remote (.amo 1 0 0 1 9 true 0x1000 1#64 0#64))).tile 0).portQ = [.remote (.amo 1 0 0 1 9 true 0x1000 1#64 0#64)]
    ∧ (on (.remote (.amo 1 0 0 1 9 true 0x1000 1#64 0#64))).winPoisoned 0 0 0x1000 8 = false
    ∧ ((on (.remote (.store 1 0 0 1 0x1000 [1#8]))).tile 0).portQ = [.remote (.store 1 0 0 1 0x1000 [1#8])]
    ∧ ((on (.land 0 0 9 0x1000 [1#8] [0] (.value 0#64))).tile 0).portQ = [.land 0 0 9 0x1000 [1#8] [0] (.value 0#64)]
    ∧ ((on (.put (p 0x1FFE))).tile 0).portQ = [.put (p 0x1FFE)] ∧ (on (.put (p 0x1FFE))).shareFor 0 (p 0x1FFE) = some 0
    ∧ (on (.put (p 0x1FFE))).checkWindow 0 0 0#32 0x1FFE 2 .put = none ∧ (on (.put (p 0xFFF))).checkWindow 0 0 0#32 0xFFF 2 .put = some 4
    ∧ ((on (.arrive a)).tile 0).portQ = [.arrive a] ∧ (on (.arrive a)).shareFor 0 a = some 0
    ∧ (members (((on (.arrive a)).launchOf ((on (.arrive a)).pidAt 0 0)).group (wfield (a.word 0) 7 0))).length = 1
    ∧ (((on (.arrive a)).tile 0).barriers.get? (barrierKey 0 1023)).isNone = true := by
  refine ⟨?_, ?_, ?_, ?_, ?_, ?_, ?_, ?_, ?_, ?_, ?_, ?_, ?_, ?_, ?_, ?_, ?_⟩ <;> decide +kernel
/-! ### The host port, engines, streamers -/
/-- Outbound writes, posted writes at the top of main memory, sends (accepted, and to a tile that the partition has not), the ring, an event. -/
theorem witness_HostPort :
    let w : OutWrite := { src := { tile := 0, c := 0, pid := 0 }, cells := [(hostKey 1 0, 1#8, 0xFF#8), (hostKey 1 1, 2#8, 0x0F#8)] }
    let m : Msg := { launch := 1, tenant := 1, body := [1#8] }
    let ctl (w : Nat) : Word := BitVec.ofNat 64 (w + 63 * 2 ^ 16 + 240 * 2 ^ 24 + 2 ^ 48)
    let fn (c : Word) : Fn := { sendctl := c, hcsize := 4#64, hcprod := 16#64, hccons := 1#64, eq := [{ type := 9 }], seq := 2 ^ 21 - 1 }
    let s (c : Word) : State := { lab {} with
      fns := (Vector.replicate 16 {}).set 1 (fn c)
      frames := [(Config.mainMemoryTop / 4096 - 1, 16)]
      hostq := [{ m with tenant := 2 }, m] }
    let o : State := { fns := (Vector.replicate 16 {}).set 15 { outbound := [w] } }
    let keys := (List.range 2).map fun i => Config.mainMemoryTop - 2 + i
    (o.fn (15 : Fin 16).val).outbound = w :: [] ∧ o.Safe ∧ (w.cells.map (·.1)).Nodup
    ∧ (∀ x ∈ o.sliceQ, x.what.hostFn = none → x.what.isProbe = false → x.ordered.holds w.ordered = false) ∧ (s 0#64).refuses 1 = false
    ∧ Config.mainMemoryTop - 2 + 2 ≤ Config.mainMemoryTop ∧ (∀ k ∈ keys, (s 0#64).frame (k / 4096) / 16 = 1)
    ∧ Config.mainMemoryTop < Config.mainMemoryTop - 1 + 2 ∧ (∀ x ∈ (s 0#64).sliceQ, x.what.hostFn ≠ some 1)
    ∧ (s (ctl 512)).sendRefusal (fn (ctl 512)) 1 = 2 ∧ (s (ctl 511)).sendRefusal (fn (ctl 511)) 1 = 0
    ∧ ((s (ctl 511)).launchPart 1 1 511).map (fun r => (r.1, r.2.1.tileOf 511, savedState r.2.1.state)) = some (0, some 511, false)
    ∧ (s 0#64).hostq[1]? = some m ∧ (∀ x ∈ (s 0#64).hostq.take 1, x.tenant ≠ m.tenant) ∧ ((s 0#64).fn 1).outbound = [] ∧ (s 0#64).torn m = false
    ∧ ((s 0#64).fn 1).hcheld = [] ∧ ((s 0#64).fn 1).ringRoom = true ∧ ((s 0#64).fn 1).eq = { type := 9 } :: [] ∧ ((s 0#64).fn 2).eq = []
    ∧ (s 0#64).refuses 2 = false := by
  simp only [State.Safe]
  refine ⟨?_, ?_, ?_, ?_, ?_, ?_, ?_, ?_, ?_, ?_, ?_, ?_, ?_, ?_, ?_, ?_, ?_, ?_, ?_, ?_, ?_⟩ <;> decide +kernel
/-- A command that enters as the eighth, one that starts, one that completes, a member's, and a fold. -/
theorem witness_EngineAndStreamerSteps :
    let c : MxCmd := { uid := 1, sub := 2, a := 0#64, b := 0#64, act := 1 }
    let on (e : Engine) : State := { lab {} with tiles := [(0, { labTile {} labAct with engines := (Vector.replicate 3 {}).set 1 e })] }
    let f (_ : Fin 3) (e : Engine) : Bool := decide (e.queue.length < 8) && (match e.entering with | x :: _ => x.bay.isNone | [] => false)
    let g (_ : Fin 3) (e : Engine) : Bool := decide (e.queue.length < 8) && (match e.entering with | x :: _ => x.bay.isSome | [] => false)
    let q : Engine := { entering := [c], queue := List.replicate 7 c }
    let b : Engine := { entering := [{ c with bay := some (0, 1) }] }
    let run (d : MxCmd) : Engine := { queue := [{ d with started := true }] }
    let bad : MxCmd := { c with sub := 4 }
    let hurt : State := { on { queue := [bad] } with poison := [(on { queue := [bad] }).spad 0 1 0 / 64] }
    let op : BayOp := { uid := 5, tile := 0, cmd := { c with sub := 1, b := BitVec.ofNat 64 (7 * 2 ^ 60) }, done := (List.range 16).map (bayTile 0) }
    ((on q).tile 0).engine 1 = q ∧ (on q).engineShare 0 f = some 1 ∧ (on b).engineShare 0 g = some 1 ∧ c.sub ≠ 1 ∧ c.sub ≠ 5
    ∧ (on { queue := [c] }).engineShare 0 (fun i e => e.ready ((on { queue := [c] }).mxBlocks 0 i)) = some 1
    ∧ (((on { queue := [c] }).tile 0).engine 1).startable = some c ∧ ((on { queue := [c] }).runMx 0 1 c).err = none
    ∧ hurt.engineShare 0 (fun i e => e.ready (hurt.mxBlocks 0 i)) = some 1
    ∧ ((hurt.tile 0).engine 1).startable = some bad ∧ (hurt.runMx 0 1 bad).err = some 1
    ∧ (on (run c)).engineShare 0 (fun _ e => e.queue.any fun c => c.started) = some 1
    ∧ ((((on (run c)).tile 0).engine 1).queue.find? fun c => c.started) = some { c with started := true }
    ∧ (on (run { c with bay := some (0, 1) })).engineShare 0 (fun _ e => e.queue.any fun c => c.started) = some 1
    ∧ (let b : State := { bayOps := [op] }
      (b.bayOps.find? fun o => o.foldable 0 && (blockTiles 0 (kSplit (shLayout o.cmd.b))).all fun x => b.engineRuns x 0) = some op) := by
  refine ⟨?_, ?_, ?_, ?_, ?_, ?_, ?_, ?_, ?_, ?_, ?_, ?_, ?_, ?_, ?_⟩ <;> decide +kernel
/-- A transfer of a form that gathers nothing, in each phase. -/
theorem witness_EngineAndStreamerSteps_transfers :
    let x (p : CpPhase) (cancel : Bool) : Transfer := {
      uid := 1, form := .gl, chan := 15, id := 0#64, notify := false, chain := false, tenant := 1, launch := 1,
      act := 1, prio := 0, tile := 0, part := 0, srcTile := 0, dstTile := 0, phase := p, cancelReq := cancel,
      e := (Vector.replicate 8 0#64).set 2 8#64 }
    let s (t : Transfer) : State := { lab {} with transfers := [t] }
    (s (x .sent false)).transfers[0]? = some (x .sent false) ∧ (s (x .sent false)).forkReady (x .sent false) = true
    ∧ (x .sent false).form.gather = false ∧ (s (x .sent false)).senseIndex (x .sent false) = s (x .sent false)
    ∧ (s (x .sent false)).transferHeld (x .sent false) = false ∧ (s (x .running false)).transferHeld (x .running false) = false
    ∧ (s (x .running false)).transfers[0]? = some (x .running false)
    ∧ (s (x .running false)).nextLine (x .running false) = some (0, 8) ∧ (s (x .running false)).portClear (x .running false) 0 8 = true
    ∧ (x .running true).cancelReq = true ∧ (x .running true).phase ≠ .cancelled ∧ (∀ st, (x .running true).phase ≠ .ended st) ∧ (x (.ended 2) false).phase = .ended 2
    ∧ (x .cancelled true).phase = .cancelled := by
  refine ⟨?_, ?_, ?_, ?_, ?_, ?_, ?_, ?_, ?_, ?_, ?_, fun _ h => CpPhase.noConfusion h, ?_, ?_⟩ <;> decide +kernel
/-! ### Host registers, launches, the mailbox, the system -/
theorem witness_HostRegisters :
    let fn : Fn := { hcprod := 1#64 }
    let s : State := { lab {} with fns := (Vector.replicate 16 {}).set 15 fn }
    let own : ReqTable := { recs := [(4095, BitVec.ofNat 512 (15 * 2 ^ 32 + 2 ^ 36))] }
    s.refuses (15 : Fin 16).val = false ∧ (lab {}).parts.get? 15 = none ∧ s.parts.get? 0 = some labPart ∧ s.sys.asleep = false
    ∧ ownRecord labPart.req 15 4095 = false ∧ ownRecord own 15 4095 = true
    ∧ 0xFFF8 % 8 = 0 ∧ isDoorbell 0xFFF8 = false ∧ isDoorbell 0x7FF8 = false ∧ fn.hcprod ≠ fn.hccons ∧ (s.fn 15).resetting = false
    ∧ (0x7FFF < 0x10000 ∧ 0x7FFF % 8 ≠ 0) ∧ (({} : State).resetDrained 15 = true)
    ∧ (({ fns := (Vector.replicate 16 {}).set 15 { resetting := true } } : State).fn 15).resetting = true
    ∧ (({ fns := (Vector.replicate 16 {}).set 15 { resetting := true } } : State).fn 15).refuses = true
    ∧ (let b : State := { sys := { bootst := 0x80 } }
      (b.fn 0).refuses = false ∧ 0x80 ≤ b.sys.bootst ∧ 0x80C8 < 0x80D0 ∧ 0x80C8 % 8 = 0) := by
  refine ⟨?_, ?_, ?_, ?_, ?_, ?_, ?_, ?_, ?_, ?_, ?_, ?_, ?_, ?_, ?_, ?_⟩ <;> decide +kernel
/-- The smallest image: a header and a digest section whose bytes are SHAKE256 of the image with them zero. -/
def tinyImage : List Byte :=
  leBytes 64 (0x4D554E4A + 2 ^ 32 + 2 ^ 40 + 112 * 2 ^ 64)
    ++ leBytes 16 (12 + 80 * 2 ^ 32 + 32 * 2 ^ 64)
    ++ leBytes 32 0x24eba4ba404eaee853197e7e74bbb7e3ecbf1040b7943a93e4c6dc06467ee71d
def queued (len : Nat) (cancelled : List Nat) : State := {
  sys := { bootst := 6 }
  parts := [(0, { labPart with launch := none })]
  mem := (Memory.write (Memory.write [] (hostKey 1 0x200000) tinyImage) (hostKey 1 0x100000) (leBytes 16 (0x200000 + len * 2 ^ 64)))
  fns := (Vector.replicate 16 {}).set 1 { queues := (Vector.replicate 8 {}).set 7 { base := 0x100000#64, size := 2#64, tail := 1#64, cancelled := cancelled } } }
theorem witness_LaunchLife :
    let s := queued 112 []
    let x := (s.fn 1).queues.get 7
    s.sys.asleep = false ∧ s.sys.suspended = false ∧ s.sys.bootst = 6 ∧ earliest (s.candidates 0) = some (1, 7, 0) ∧ x.pending = 0 :: []
    ∧ s.parts.get? 0 = some { labPart with launch := none } ∧ 0 ∉ x.cancelled ∧ 0 ∈ (((queued 112 [0]).fn 1).queues.get 7).cancelled
    ∧ s.entryWord 1 x 0 0 = 0x200000 ∧ bits (s.entryWord 1 x 0 1) 46 36 = 0 ∧ bits (s.entryWord 1 x 0 1) 31 0 = 112
    ∧ (∀ k ∈ [4, 5, 6], s.entryWord 1 x 0 k = 0) ∧ bits ((queued (112 + 2 ^ 36) []).entryWord 1 x 0 1) 46 36 ≠ 0
    ∧ s.mem.bytes (hostKey 1 0x200000) 112 = tinyImage ∧ (s.admitLaunch 1 0 tinyImage 111 []).1 = 1 := by
  refine ⟨?_, ?_, ?_, ?_, ?_, ?_, ?_, ?_, ?_, ?_, ?_, ?_, ?_, ?_, ?_⟩ <;> decide +kernel
theorem witness_LaunchLife_admitted : ((queued 112 []).admitLaunch 1 0 tinyImage 112 []).1 = 0 := by decide +kernel
/-- A sweep of a launch of one tile's partition: calm for the first time, for the second time, and not calm. -/
theorem witness_LaunchLife_sweep :
    let l (last : Option (Nat × Nat)) : Launch := { num := 1, tenant := 1, lastSweep := last }
    let p (last : Option (Nat × Nat)) : Part := { desc := BitVec.ofNat 512 (512 * 2 ^ 64 + 2 ^ 108), launch := some (l last) }
    let s (last : Option (Nat × Nat)) (hostSent : Nat) : State := { cycle := 4096, parts := [(0, { p last with launch := some { l last with hostSent := hostSent } })] }
    (s none 0).parts.get? 0 = some (p none) ∧ (l none).sweepAt + 4096 ≤ (s none 0).cycle
    ∧ ((s none 0).holdings (p none)).all (fun x => (s none 0).tileIdle x.1 x.2 0 (l none)) = true ∧ haltedState (p none).state = false ∧ (s none 0).unitsIdle 0 (p none) (l none) = true
    ∧ (s none 0).sentSum (p none) (l none) = (s none 0).receivedSum (p none) ∧ (l none).lastSweep ≠ some (0, 0)
    ∧ (l (some (0, 0))).lastSweep = some ((s none 0).sentSum (p none) (l none), (s none 0).receivedSum (p none))
    ∧ (∀ o ∈ ((s none 0).fn 1).outbound, o.src.pid ≠ 0)
    ∧ (s none 1).sentSum (p none) { l none with hostSent := 1 } ≠ (s none 1).receivedSum (p none) := by
  refine ⟨?_, ?_, ?_, ?_, ?_, ?_, ?_, ?_, ?_⟩ <;> decide +kernel
/-- Each operation's request, with the words at the edges of its ranges. -/
theorem witness_Mailbox :
    let s (op w : Nat) (role : Nat) (susp : Bool) : State := { sys := { mbst := 1#64, mbreq := leBytes 16 (op + w * 2 ^ 64), role := role, suspended := susp } }
    let busy : State := { s 6 0 0 false with parts := [(0, labPart)] }
    (∀ op ∈ [1, 2, 3, 4, 5, 6, 7, 8, 9], (s op 0 0 false).sys.mbBusy = true ∧ (s op 0 0 false).sys.mbWord 0 = op)
    ∧ (s 3 32 0 false).mbArm.isSome = true ∧ (s 6 0 0 false).maySleep = true ∧ busy.maySleep = false ∧ (s 6 1 0 false).sys.mbWord 1 = 1
    ∧ 1 < (s 6 2 0 false).sys.mbWord 1 ∧ (s 7 0 2 false).sys.role ≠ 1 ∧ (s 7 0 2 false).sys.suspended = false ∧ (s 7 1 0 true).sys.suspended = true
    ∧ (s 5 359 0 false).sys.mbWord 1 < 360 ∧ 1280 < (s 5 1281 0 false).sys.mbWord 1 := by decide +kernel
theorem witness_SystemEvents :
    let s (b : Nat) : State := { sys := { bootst := b, waking := true } }
    let w := 31 * 1024 + 16
    let d : Delta := { torn := false, overfull := false, lines := [], timers := [], inbox := [] }
    let peer (role misses : Nat) (beat : Bool) : State := {
      sys := { role := role, misses := misses, beat := beat, edgesDue := [6], deltas := [d] } }
    (s 1).sys.waking = true ∧ (1 ≤ (s 1).sys.bootst ∧ (s 5).sys.bootst ≤ 5) ∧ (s 3).sys.bootst = (2 : Fin 8).val + 1 ∧ (s 6).sys.bootst = 6
    ∧ (s 2).sys.bootst = 2 ∧ firmwareGood [] = false ∧ ((s 5).sys.bootst = 2 → firmwareGood [] = true)
    ∧ (peer 2 2 false).sys.role ≠ 0 ∧ w < 2 ^ 15 ∧ w / 32 % 32 = 0 ∧ w % 32 ≤ 16 ∧ (peer 2 2 false).sys.role = 2 ∧ (peer 2 2 false).sys.misses = 2 ∧ (peer 1 0 true).sys.beat = true
    ∧ (peer 2 2 false).sys.edgesDue = 6 :: []
    ∧ ({ sys := { leaf := 2 ^ 28 - 1, fuses := 1 } } : State).sys.leaf < 1 * 2 ^ 28 ∧ (1 * 2 ^ 28 ≤ (2 ^ 28 : Nat))
    ∧ (peer 1 0 true).sys.role = 1 ∧ (peer 1 0 true).sys.deltas = d :: [] ∧ d.torn = false ∧ d.overfull = false := by
  refine ⟨?_, ?_, ?_, ?_, ?_, ?_, ?_, ?_, ?_, ?_, ?_, ?_, ?_, ?_, ?_, ?_, ?_, ?_, ?_, ?_⟩ <;> decide +kernel
/-! ### Steps and frames -/
/-- Tile 0 has this code and this budget, and its context 0 stands at pc 0. -/
def coded (budget n : Nat) (code : Nat) (h : Half) : State := {
  tiles := [(0, { ctxs := (Vector.replicate 8 {}).set 0 { s0 := { phase := .live, act := { id := 1 }, half := { h with budget := BitVec.ofNat 64 budget } } }
                  codeLen := Vector.replicate 3 n })]
  mem := Memory.write [] (codeKey 0 0) (leBytes 4 code) }
/-- Code that ends with a parcel and one byte before a word's end; a word that decodes, the zero parcel; no budget; a bound trap. -/
theorem witness_StepRunsDecoded :
    let at0 (s : State) : State := s.at 0 0
    let s := coded 1 4 0x58718507 {}
    let r := decodeParcels ((at0 s).parcelAt 0) (some ((at0 s).parcelAt 2))
    let x := coded 1 4 0x10000 { boundTrap := some (63, 8#64) }
    s.inputs = [] ∧ s.evTurn = false ∧ s.pick runFetched = some (0, 0) ∧ (at0 s).half.budget ≠ 0#64 ∧ (at0 s).takeBoundTrap 0 0 = none
    ∧ (at0 s).parcelAt 0 % 4 = 3 ∧ 0 + 4 ≤ (at0 s).codeLen ∧ (r.toOption.map fun d => d.instr) = some (.div (.g 7) (.g 6) (.g 5))
    ∧ (at0 (coded 1 3 0x58718507 {})).codeLen < 0 + 4 ∧ (coded 1 3 0x58718507 {}).pick runFetched = some (0, 0)
    ∧ (decodeParcels ((at0 (coded 1 2 0 {})).parcelAt 0) (some 0)).toOption.isNone = true ∧ (coded 1 2 0 {}).pick runFetched = some (0, 0)
    ∧ (coded 0 4 0x58718507 {}).pick runFetched = some (0, 0) ∧ (at0 (coded 0 4 0x58718507 {})).half.budget = 0#64
    ∧ x.pick runFetched = some (0, 0) ∧ ((at0 x).takeBoundTrap 0 0).isSome = true ∧ (at0 x).half.budget ≠ 0#64 := by
  refine ⟨?_, ?_, ?_, ?_, ?_, ?_, ?_, ?_, ?_, ?_, ?_, ?_, ?_, ?_, ?_, ?_, ?_⟩ <;> decide +kernel
/-- One step runs the word at the pc: a division by zero (R198). -/
theorem test_step_runs : ((match step (coded 9 4 0x58718507 { g := (Vector.replicate 40 0#64).set 6 7#64 }) with
    | .next t => (t.slotAt 0 0).half.g.get 5
    | _ => 0#64) = BitVec.ofNat 64 (2 ^ 64 - 1)) := by decide +kernel
def isNext (o : Host.Outcome State Fault Refusal) : Bool := match o with | .next _ => true | _ => false
theorem witness_StepKeepsMemory_word : (coded 9 4 0x58718507 {}).Safe ∧ isNext (step (coded 9 4 0x58718507 {})) = true := by
  simp only [State.Safe]; decide +kernel
theorem witness_RegisterFrames :
    let s := lab (gs 0x1000#64 0#64)
    let d := s.after (.g 1)
    s.Ready (opAB (.g 2) (.g 1) .z) ∧ s.half.dzt = false ∧ s.Ready (opA (.g 1) (.g 1)) ∧ s.Ready { opAB (.g 1) (.g 1) (.g 39) with pfx := onlyRnd }
    ∧ s.Ready (opCC 1 0) ∧ s.Ready { srcs := [.g 1], dsts := [.g 3] } ∧ d.inWindow s.cur 0x1000 8 .load ∧ d.readable 0x1000 8
    ∧ isNext (exec (.add (.g 2) (.g 1) .z) s) = true ∧ isNext (exec (.div (.g 2) (.g 1) (.g 3)) s) = true ∧ isNext (exec (.clz (.g 1) (.g 1)) s) = true
    ∧ isNext (exec (.addi 0x800#12 (.g 1) (.g 3)) s) = true ∧ isNext (exec (.rori 63#6 (.g 1) (.g 3)) s) = true
    ∧ isNext (exec (.fadd (.g 1) (.g 1) (.g 39)) s) = true ∧ isNext (exec (.compactAdd 1 0) s) = true
    ∧ isNext (exec (.ld 0#9 .i64 (.g 1) (.g 3)) s) = true := by
  simp only [State.Ready, State.inWindow, State.readable, State.cleanOwn]
  refine ⟨?_, ?_, ?_, ?_, ?_, ?_, ?_, ?_, ?_, ?_, ?_, ?_, ?_, ?_, ?_, ?_⟩ <;> decide +kernel
/-- The other computing forms: fused, conversions, shifts of words, constants, compact ones, and a division that traps. -/
theorem witness_RegisterFrames_more :
    let s := lab (gs 0x3F800000#64 0x40000000#64)
    let z := lab { gs 9#64 0#64 with status := 8#64 }
    s.Ready { srcs := [.g 3, .g 1, .g 2], dsts := [.g 3], pfx := onlyRnd, badCode := !(Reg.g 3).dstGN } ∧ isNext (exec (.fmadd (.g 2) (.g 1) (.g 3)) s) = true
    ∧ s.Ready { opA (.g 1) (.g 3) with pfx := onlyRnd } ∧ isNext (exec (.fsqrt (.g 1) (.g 3)) s) = true ∧ isNext (exec (.fclass (.g 1) (.g 3)) s) = true
    ∧ isNext (exec (.fcvtI64F32 (.g 1) (.g 3)) s) = true ∧ isNext (exec (.fcvtBf16F32 (.g 1) (.g 3)) s) = true
    ∧ s.Ready (opA (.g 1) (.g 3)) ∧ isNext (exec (.roriw 31#6 (.g 1) (.g 3)) s) = true
    ∧ s.Ready { dsts := [.g 3] } ∧ isNext (exec (.lix 0x3FFFF#18 (.g 3)) s) = true
    ∧ s.Ready { srcs := [.g 3], dsts := [.g 3], badCode := !(Reg.g 3).dstGN } ∧ isNext (exec (.lixs 0x3FFFF#18 (.g 3)) s) = true
    ∧ s.Ready { srcs := [(1 : CReg).src], dsts := [(0 : CReg).dst], len := 2 } ∧ isNext (exec (.compactMove 1 0) s) = true
    ∧ s.Ready { dsts := [(0 : CReg).dst], len := 2 } ∧ isNext (exec (.compactLix 63#6 0) s) = true
    ∧ s.Ready (opCI 0) ∧ isNext (exec (.compactSrai 63#6 0) s) = true
    ∧ z.Ready (opAB (.g 2) (.g 1) (.g 3)) ∧ z.half.dzt = true ∧ (z.after (.g 1)).val (.g 2) = 0#64
    ∧ isNext (exec (.div (.g 2) (.g 1) (.g 3)) z) = true := by
  refine ⟨?_, ?_, ?_, ?_, ?_, ?_, ?_, ?_, ?_, ?_, ?_, ?_, ?_, ?_, ?_, ?_, ?_, ?_, ?_, ?_, ?_, ?_, ?_⟩ <;> (try simp only [State.Ready]) <;> decide +kernel
theorem witness_StoreFrames :
    let s := lab (gs 0x1000#64 5#64)
    let t := (s.after (.g 2)).after (.g 1)
    let u := s.after (.g 1)
    s.Safe ∧ s.Ready { srcs := [.g 2, .g 1] } ∧ t.inWindow s.cur 0x1000 8 .store ∧ t.ownClear 0x1000 8 = true
    ∧ t.logs 0x1000 8 t ∧ isNext (exec (.st 0#9 .i64 (.g 1) (.g 2)) s) = true
    ∧ s.Ready (opAB (.g 2) (.g 1) .z) ∧ addrWord (s.val (.g 1)) = .loc 0x1000 ∧ (u.after (.g 2)).inWindow s.cur 0x1000 8 .store
    ∧ (u.after (.g 2)).logs 0x1000 8 t ∧ t.readable 0x1000 8 ∧ isNext (exec (.amoAdd .w64 (.g 2) (.g 1) .z) s) = true := by
  simp only [State.Ready, State.Safe, State.inWindow, State.logs, State.readable, State.cleanOwn]
  refine ⟨?_, ?_, ?_, ?_, ?_, ?_, ?_, ?_, ?_, ?_, ?_, ?_⟩ <;> decide +kernel
/-- shp.st of the last record at the last 64 bytes of the window. -/
theorem witness_StoreFrames_shape :
    let s := lab (gs 0xBFFC0#64 0#64)
    let u := s.after (.g 1)
    s.Ready { srcs := [.g 1] } ∧ (s.val (.g 1)).toNat % 64 = 0 ∧ u.inWindow s.cur 0xBFFC0 64 .store ∧ u.ownClear 0xBFFC0 64 = true
    ∧ u.logs 0xBFFC0 64 u ∧ isNext (exec (.shpSt 15#4 (.g 1)) s) = true := by
  simp only [State.Ready, State.inWindow, State.logs]
  refine ⟨?_, ?_, ?_, ?_, ?_, ?_⟩ <;> decide +kernel
theorem witness_EffectFrames :
    let s := lab (gs 0x1000#64 5#64)
    let m := lab (gs (BitVec.ofNat 64 (240 * 2 ^ 32 + 0x2000)) 0#64)
    s.Ready { srcs := [.g 1, .g 2] } ∧ isNext (exec (.bEq 1#12 (.g 2) (.g 1)) s) = true ∧ s.Ready {} ∧ isNext (exec (.j 0x800000#24) s) = true
    ∧ isNext (exec .nop s) = true ∧ s.Ready { dsts := [.g 39] } ∧ isNext (exec (.jal 1#24) s) = true ∧ s.Ready { srcs := [.g 1] }
    ∧ isNext (exec (.extW 7#3 (.g 1)) s) = true ∧ isNext (exec (.msgHost (.g 1)) m) = true ∧ isNext (exec (.mxLdb (.g 2)) (lab {})) = true
    ∧ m.Ready { srcs := [.g 1] } ∧ (m.after (.g 1)).bodyOk (m.val (.g 1)) 0 ∧ (m.after (.g 1)).outRoom (16 + 240) = true
    ∧ wfield (m.val (.g 1)) 39 32 = 240 ∧ (lab {}).Ready { srcs := [.g 2] } ∧ ((lab {}).after (.g 2)).commandOk 0 0#64 0#64
    ∧ s.Ready { srcs := [.g 1], dsts := [.z] } ∧ (s.after (.g 1)).csrWritable 0x25 = true ∧ csrListed 0x25 = true ∧ s.share ≠ 2
    ∧ isNext (exec (.csrRw 0x25#10 (.g 1) .z) s) = true := by
  refine ⟨?_, ?_, ?_, ?_, ?_, ?_, ?_, ?_, ?_, ?_, ?_, ?_, ?_, ?_, ?_, ?_, ?_, ?_, ?_, ?_, ?_, ?_⟩ <;>
    (try simp only [State.Ready, State.bodyOk, State.commandOk, State.inWindow, PayloadOk]) <;> decide +kernel
theorem witness_EffectFrames_jumps :
    let s := lab (gs 0x10#64 5#64)
    s.Ready { srcs := [(0 : CReg).src], len := 2 } ∧ isNext (exec (.compactBEq 1#6 0) s) = true ∧ s.Ready { len := 2 }
    ∧ isNext (exec (.compactJ 0x200#10) s) = true ∧ isNext (exec .compactNop s) = true ∧ (s.val (.g 1)).getLsbD 0 = false
    ∧ (s.val (.g 39)).getLsbD 0 = false ∧ isNext (exec (.jr (.g 1)) s) = true ∧ s.Ready (opA (.g 1) (.g 3)) ∧ isNext (exec (.jalr (.g 1) (.g 3)) s) = true
    ∧ s.Ready { srcs := [.g 39], len := 2 } ∧ isNext (exec .compactJrLk s) = true ∧ s.Ready { dsts := [.g 3] } ∧ isNext (exec (.pca (.g 3)) s) = true
    ∧ s.Ready { srcs := [.g 2] } ∧ s.half.lpcnt = 0#64 ∧ isNext (exec (.lp 4095#12 (.g 2)) s) = true
    ∧ s.Ready { len := 2, isPfx := true } ∧ isNext (exec (.pfx 11#4 2#3 true 0#2) s) = true := by
  refine ⟨?_, ?_, ?_, ?_, ?_, ?_, ?_, ?_, ?_, ?_, ?_, ?_, ?_, ?_, ?_, ?_, ?_, ?_, ?_⟩ <;> (try simp only [State.Ready]) <;> decide +kernel
/-- The sending forms, to the last tile and the last channel, with the longest body; an arrival; the hypotheses are those of
`witness_MessageSends` and `witness_MessagesAndGroups_sends`. -/
theorem witness_EffectFrames_sends :
    let s := lab (gs (BitVec.ofNat 64 (511 + 63 * 2 ^ 16)) (payW 0xBFF10 240))
    let p := lab (gs (BitVec.ofNat 64 (511 + 0xFFFF8 * 2 ^ 32)) (payW 0 8))
    let g := lab (gs (BitVec.ofNat 64 (63 * 2 ^ 16)) (payW 0xBFF10 240))
    let b := lab (gs (BitVec.ofNat 64 (2047 * 2 ^ 16 + 63 * 2 ^ 32)) 511#64)
    isNext (exec (.msgSend false (.g 2) (.g 1)) s) = true ∧ isNext (exec (.msgPut true (.g 2) (.g 1)) p) = true
    ∧ isNext (exec (.grpSend false (.g 2) (.g 1)) g) = true ∧ isNext (exec (.msgSendn 7#3 true (.g 1)) s) = true
    ∧ isNext (exec (.barArr (.g 1)) b) = true ∧ isNext (exec (.msgSpawn (.g 2)) b) = true := by
  refine ⟨?_, ?_, ?_, ?_, ?_, ?_⟩ <;> decide +kernel
/-- The engine forms, on the operands of `witness_EngineForms` and `witness_EngineForms_stat_bay`. -/
theorem witness_EffectFrames_engine :
    let s := lab (gs (BitVec.ofNat 64 (0x1000 + 0x100 * 2 ^ 20)) 127#64)
    let m := lab (gs (BitVec.ofNat 64 (0x1000 + 0x100 * 2 ^ 20)) (BitVec.ofNat 64 (127 + 2 * 2 ^ 28 + 2 * 2 ^ 32)))
    let b := lab (gs 0x1000#64 (BitVec.ofNat 64 (127 + 2 * 2 ^ 28 + 2 * 2 ^ 32 + 2 ^ 60)))
    isNext (exec (.mxCfg (.g 1)) (lab (gs 0xBF7C0#64 0#64))) = true ∧ isNext (exec (.mxZero false 0#6 (.g 2)) s) = true
    ∧ isNext (exec (.mxLdacc true 63#6 (.g 2) (.g 1)) s) = true ∧ isNext (exec (.mxRd true 63#6 (.g 2) (.g 1)) s) = true
    ∧ isNext (exec (.mxMma true 63#6 (.g 2) (.g 1)) m) = true ∧ isNext (exec (.mxBay false 0#6 (.g 2) (.g 1)) b) = true
    ∧ isNext (exec (.mxStat (.g 1) (.g 3)) (lab (gs 1#64 0#64))) = true := by
  refine ⟨?_, ?_, ?_, ?_, ?_, ?_, ?_⟩ <;> decide +kernel
/-- Extension, shape and control registers at their last numbers; no register of a share; the numbers whose write waits. -/
theorem witness_EffectFrames_registers :
    let s := lab (gs 0xBFFC0#64 0#64)
    let u := s.after (.g 1)
    isNext (exec (.extLix 7#3 0xFFFF#16) s) = true ∧ isNext (exec (.extLixs 7#3 0xFFFF#16) s) = true ∧ isNext (exec (.extGet 7#3 (.g 3)) s) = true
    ∧ (32#6).toNat < 33 ∧ (s.val (.g 2)).toNat < 2 ^ (shapeField (32#6).toNat).2 ∧ isNext (exec (.shpSet 15#4 32#6 (.g 2)) s) = true
    ∧ isNext (exec (.shpGet 15#4 32#6 (.g 3)) s) = true ∧ u.inWindow s.cur 0xBFFC0 64 .load ∧ u.readable 0xBFFC0 64
    ∧ isNext (exec (.shpLd 15#4 (.g 1)) s) = true ∧ s.half.vq = [] ∧ s.half.boundTrap = none ∧ u.csrWritable 0x10 = true ∧ u.csrWritable 7 = true
    ∧ (s.val (.g 1)).getLsbD 0 = false ∧ isNext (exec (.csrRs 0x10#10 (.g 2) .z) s) = true ∧ isNext (exec (.csrRc 7#10 (.g 1) .z) s) = true := by
  refine ⟨?_, ?_, ?_, ?_, ?_, ?_, ?_, ?_, ?_, ?_, ?_, ?_, ?_, ?_, ?_, ?_, ?_⟩ <;>
    (try simp only [State.inWindow, State.readable, State.cleanOwn]) <;> decide +kernel
/-! ### Completion -/
/-- A context with nothing on its way, at the last aligned bytes of its window. -/
theorem witness_OrderedSendingAndPartitionFormsComplete :
    let s := lab (gs 0xBFFF8#64 5#64)
    let a := s.after (.g 1)
    let t := (s.after (.g 2)).after (.g 1)
    s.Ready {} ∧ s.calm ∧ s.Ready { iso := true } ∧ s.Ready (opA (.g 1) (.g 3)) ∧ addrWord (s.val (.g 1)) = .loc 0xBFFF8 ∧ 0xBFFF8 % 8 = 0
    ∧ a.calm ∧ a.inWindow s.cur 0xBFFF8 8 .load ∧ a.flips = [] ∧ a.cleanOwn 0xBFFF8 8 ∧ s.Ready { srcs := [.g 2, .g 1] } ∧ t.calm
    ∧ t.inWindow s.cur 0xBFFF8 8 .store ∧ t.ordered.logs 0xBFFF8 8 t.ordered := by
  simp only [State.Ready, State.calm, State.inWindow, State.cleanOwn, State.logs]
  refine ⟨?_, ?_, ?_, ?_, ?_, ?_, ?_, ?_, ?_, ?_, ?_, ?_, ?_, ?_⟩ <;> decide +kernel
theorem witness_OrderedSendingAndPartitionFormsComplete_sends :
    let s := lab (gs (BitVec.ofNat 64 (511 + 63 * 2 ^ 16)) (payW 0xBFF10 240))
    let t := (s.after (.g 1)).after (.g 2)
    let p := lab (gs (BitVec.ofNat 64 (511 + 0xFFFF8 * 2 ^ 32)) (payW 0xBFFF8 8))
    let q := (p.after (.g 1)).after (.g 2)
    ((s.tile s.cur).share s.share).out = [] ∧ s.Ready { srcs := [.g 1, .g 2] } ∧ t.resolve 511 = some 511
    ∧ onlyBits (s.val (.g 1)) [(10, 0), (21, 16)] = true ∧ PayloadOk ((s.after (.g 1)).val (.g 2)) 0 ∧ t.inWindow s.cur 0xBFF10 240 .load
    ∧ t.toSelf s.cur s.ctx = [] ∧ s.Ready { srcs := [.g 1] } ∧ (s.after (.g 1)).resolve 511 = some 511 ∧ onlyBits 511#64 [(10, 0)] = true
    ∧ s.Ready { srcs := [.g 2] } ∧ PayloadOk (s.val (.g 2)) 0 ∧ ((p.tile p.cur).share p.share).out = [] ∧ q.resolve 511 = some 511
    ∧ onlyBits (p.val (.g 1)) [(10, 0), (51, 32)] = true ∧ wfield (p.val (.g 1)) 51 32 % 8 = 0 ∧ PayloadOk ((p.after (.g 1)).val (.g 2)) 8
    ∧ q.inWindow p.cur 0xBFFF8 8 .load ∧ q.toSelf p.cur p.ctx = [] := by
  simp only [State.Ready, State.inWindow, PayloadOk]
  refine ⟨?_, ?_, ?_, ?_, ?_, ?_, ?_, ?_, ?_, ?_, ?_, ?_, ?_, ?_, ?_, ?_, ?_, ?_, ?_⟩ <;> decide +kernel
/-- The descriptor of the last partition in the last bytes of the system core's window, and that partition in each state that a form asks for. -/
theorem witness_OrderedSendingAndPartitionFormsComplete_system :
    let d := (onePart 1).desc
    let k (x y : Nat) (st : Nat) : State := { onTile 3072 (gs (BitVec.ofNat 64 x) (BitVec.ofNat 64 y)) with parts := [(15, onePart st)] }
    let m : State := { onTile 3072 (gs 0xFFFC0#64 0#64) with mem := Memory.write [] (spadKey 3072 0xFFFC0) (leBytes 64 d.toNat) }
    let m1 := m.after (.g 1)
    let two (s : State) : State := (s.after (.g 1)).after (.g 2)
    m.cur = 3072 ∧ m.Ready { srcs := [.g 1], dsts := [.g 3] } ∧ m1.inWindow 3072 0xFFFC0 64 .load ∧ m1.calm ∧ m1.flips = []
    ∧ m1.cleanOwn 0xFFFC0 64 ∧ BitVec.ofNat 512 (m1.ownNat 0xFFFC0 64) = d ∧ descMalformed d = false ∧ m.parts.get? (descPid d) = none
    ∧ m1.nodeFree (descNode d) (descHalf d) none = true ∧ (∀ b ∈ partBays (nodeTiles (descNode d)), m1.bayDegraded b = false) ∧ m.sys.asleep = false
    ∧ (k 15 0 1).parts.get? 15 = some (onePart 1) ∧ (onePart 1).isReflex = false ∧ (onePart 1).launch = none ∧ (onePart 1).image = []
    ∧ (onePart 1).state = 1 ∧ (onePart 4).state = 4 ∧ (k 15 1 1).Ready (opAB (.g 2) (.g 1) (.g 3))
    ∧ (let y := ((two (k 15 (2 ^ 62) 1)).partFloor 15 (onePart 1) (2 ^ 62))
       (two (k 15 (2 ^ 62) 1)).dtime + y ≤ 2 ^ 62)
    ∧ ((k 31 0 4).after (.g 1)).val (.g 2) = 0#64 ∧ (k 31 0 4).val (.g 1) = BitVec.ofNat 64 (16 + (15 : Fin 16).val)
    ∧ (onePart 7).state = 7 ∧ (onePart 7).inShadow = false ∧ (two (k (4096 + 256 * 15) 0 7)).nodeFree (descNode d) (descHalf d) none = true
    ∧ (two (k (4096 + 256 * 15) 0 7)).shadowMet (descNode d) [15] = false ∧ ((k 15 0 1).fn 15).resetting = false
    ∧ ((k 15 (3 + 7 * 256 + 65536) 1).after (.g 1)).val (.g 2) = BitVec.ofNat 64 (3 + (7 : Fin 8).val * 256 + 65536)
    ∧ (onePart 3).state ∈ [3, 5, 8, 9] ∧ (onePart 1).state ∉ [3, 5, 8, 9]
    ∧ ({ desc := reflexDesc 1 } : Part).isReflex = true := by
  simp only [State.Ready, State.calm, State.inWindow, State.cleanOwn, State.ownNat]
  refine ⟨?_, ?_, ?_, ?_, ?_, ?_, ?_, ?_, ?_, ?_, ?_, ?_, ?_, ?_, ?_, ?_, ?_, ?_, ?_, ?_, ?_, ?_, ?_, ?_, ?_, ?_, ?_, ?_, ?_⟩ <;> decide +kernel
end Sys2Proof.Tests
end

section
/-! The decoder of R25 to R44: what decodes, what is refused and by what name, and the trap of a word that decodes to nothing. -/

namespace Sys2Proof

/-- Every way to decode: a word of two parcels, or a compact parcel that is not zero (R25, R27). -/
theorem decodeParcels_eq_ok {p0 : Nat} {p1 : Option Nat} {r : Decoded} (h : decodeParcels p0 p1 = .ok r) :
    (p0 % 4 = 3 ∧ r.len = 4 ∧ ∃ p, p1 = some p ∧ decodeWord32 (p0 % 65536 + 65536 * (p % 65536)) = some r.instr)
    ∨ (p0 % 4 ≠ 3 ∧ r.len = 2 ∧ p0 % 65536 ≠ 0 ∧ decodeWord16 (p0 % 65536) = some r.instr) := by
  unfold decodeParcels at h
  split at h
  case isTrue h3 =>
    cases p1 with
    | none => cases h
    | some p =>
      simp only at h
      split at h
      next i hi => cases h; exact .inl ⟨h3, rfl, p, rfl, hi⟩
      next => split at h <;> cases h
  case isFalse h3 =>
    split at h
    case isTrue => cases h
    case isFalse h0 =>
      split at h
      next i hi => cases h; exact .inr ⟨h3, rfl, h0, hi⟩
      next => cases h

theorem wellFormed_of_decodeWord32 {w : Nat} {i : Instr} (h : decodeWord32 w = some i) : i.wellFormed = true :=
  (Option.filter_eq_some_iff.mp h).2
theorem wellFormed_of_decodeWord16 {w : Nat} {i : Instr} (h : decodeWord16 w = some i) : i.wellFormed = true :=
  (Option.filter_eq_some_iff.mp h).2

theorem wellFormed_of_decodeParcels {p0 : Nat} {p1 : Option Nat} {r : Decoded} (h : decodeParcels p0 p1 = .ok r) :
    r.instr.wellFormed = true := by
  obtain ⟨-, -, p, -, hw⟩ | ⟨-, -, -, hw⟩ := decodeParcels_eq_ok h
  · exact wellFormed_of_decodeWord32 hw
  · exact wellFormed_of_decodeWord16 hw

/-- The low two bits of the first parcel give the length (R25). -/
theorem len_of_decodeParcels {p0 : Nat} {p1 : Option Nat} {r : Decoded} (h : decodeParcels p0 p1 = .ok r) :
    r.len = if p0 % 4 = 3 then 4 else 2 := by
  obtain ⟨h3, hl, -⟩ | ⟨h3, hl, -⟩ := decodeParcels_eq_ok h
  · rw [if_pos h3, hl]
  · rw [if_neg h3, hl]

theorem decodeParcels_zero (p1 : Option Nat) : decodeParcels 0 p1 = .error .zeroParcel := rfl

/-- A word of 32 bits whose second parcel is missing. -/
theorem decodeParcels_cut {p0 : Nat} (h : p0 % 4 = 3) : decodeParcels p0 none = .error .tooShort := by
  rw [decodeParcels, if_pos h]

/-- The major opcodes 0 and 48 to 63 have no row (R27, R36). -/
theorem decodeFields32_reservedMajor {w : Nat} (h : w / 4 % 64 = 0 ∨ 48 ≤ w / 4 % 64) : decodeFields32 w = none := by
  unfold decodeFields32
  split
  case h_48 => rfl
  all_goals omega

theorem decodeParcels_reservedMajor {p0 : Nat} (p1 : Nat) (h3 : p0 % 4 = 3) (hm : p0 / 4 % 64 = 0 ∨ 48 ≤ p0 / 4 % 64) :
    decodeParcels p0 (some p1) = .error (.reservedMajor (p0 / 4 % 64)) := by
  have major : (p0 % 65536 + 65536 * (p1 % 65536)) / 4 % 64 = p0 / 4 % 64 := by omega
  have refused : decodeWord32 (p0 % 65536 + 65536 * (p1 % 65536)) = none := by
    rw [decodeWord32, decodeFields32_reservedMajor (major.symm ▸ hm), Option.filter_none]
  simp only [decodeParcels, if_pos h3, refused, major, if_pos hm]

end Sys2Proof

namespace Sys2Proof.Machine
open Sys2Proof

/-- What decodes to nothing traps at its own address, with its word as the fault detail (R37, R389). -/
theorem exec_illegalInstruction_traps (s : State) (w : BitVec 32) (hk : validKey s.cur = true) :
    exec (.illegalInstruction w) s = .next (s.takeTrap s.half.pc { code := 0x20, faddr := w.zeroExtend 64, own := true }) := by
  rw [exec_illegalInstruction, execIllegalInstruction, hk]
  exact stopped_trap s 4 _ (.inl rfl)

/-- Settles O3: the cases of the decoder, one lemma each. -/
theorem reservedEncodings : Obligations.ReservedEncodings := by
  refine ⟨fun p0 p1 r h => ⟨wellFormed_of_decodeParcels h, fun h3 => ?_, fun h3 => ?_⟩, decodeParcels_zero,
    fun _ => decodeParcels_cut, fun _ p1 => decodeParcels_reservedMajor p1, exec_illegalInstruction_traps⟩
  · rw [len_of_decodeParcels h, if_pos h3]
  · rw [len_of_decodeParcels h, if_neg h3]

end Sys2Proof.Machine
end

section
/-! Register specifiers (R32, R33, R151 to R154): what a code names, which codes an instruction may not hold, and what each kind of register
does when it is read and written. -/

namespace Sys2Proof

theorem Reg.srcOk_eq_false {r : Reg} : r.srcOk = false ↔ (∃ i : Fin 8, i.val < 4 ∧ r = .q i) ∨ ∃ i, r = .rsv i := by
  cases r <;> simp [Reg.srcOk]
theorem Reg.dstOk_eq_false {r : Reg} :
    r.dstOk = false ↔ (∃ i, r = .y i) ∨ (∃ i : Fin 8, 4 ≤ i.val ∧ r = .q i) ∨ ∃ i, r = .rsv i := by
  cases r <;> simp [Reg.dstOk]

end Sys2Proof

namespace Sys2Proof.Machine
open Sys2Proof
open Sys2Proof.Laws.RoundTrip (Reg.ofCode_code)

/-! ### Forbidden codes (R33, R38) -/

/-- A source or destination that R33 does not allow is an illegal operand, once the checks before it have passed. -/
theorem issueStop_forbiddenCode {o : Op} {s : State} (h1 : o.illegal = false) (h2 : o.iso = false) (h3 : s.half.pp = false)
    (hr : ∃ r, (r ∈ o.srcs ∧ r.srcOk = false) ∨ (r ∈ o.dsts ∧ r.dstOk = false)) :
    issueStop o s = some (.trap { code := 0x21 }) := by
  have bad : (o.srcs.all Reg.srcOk && o.dsts.all Reg.dstOk) = false := by
    rw [Bool.and_eq_false_iff, List.all_eq_false, List.all_eq_false]
    obtain ⟨r, ⟨hm, hf⟩ | ⟨hm, hf⟩⟩ := hr
    · exact .inl ⟨r, hm, by simp [hf]⟩
    · exact .inr ⟨r, hm, by simp [hf]⟩
  simp [issueStop, h1, h2, h3, bad]

/-! ### Registers under reads and writes (R33, R151 to R154) -/

section
variable (h : Half) (v : Word)

@[simp] theorem Half.write_z : h.write .z v = h := rfl
@[simp] theorem Half.get_write_g (i : Fin 40) : (h.write (.g i) v).g.get i = v := by
  simp [Half.write, Vector.get_eq_getElem]
theorem Half.get_write_g_of_ne {i j : Fin 40} (hj : j ≠ i) : (h.write (.g i) v).g.get j = h.g.get j := by
  simp [Half.write, Vector.get_eq_getElem, Vector.getElem_set_ne, Fin.val_ne_of_ne hj.symm]
@[simp] theorem Half.get_write_n (i : Fin 8) : (h.write (.n i) v).n.get i = v := by
  simp [Half.write, Vector.get_eq_getElem]
/-- A near register that is written is clean (R152). -/
@[simp] theorem Half.npoison_write_n (i : Fin 8) : (h.write (.n i) v).npoison.getLsbD i.val = false := by
  simp [Half.write]
@[simp] theorem Half.get_write_q (i : Fin 8) : (h.write (.q i) v).q.get i = h.q.get i ++ [v] := by
  simp [Half.write, Vector.get_eq_getElem]
/-- Reading a queue takes its oldest entry (R154). -/
theorem Half.read_q_cons {i : Fin 8} {x : Word} {rest : List Word} (hq : h.q.get i = x :: rest) :
    h.read (.q i) = (x, { h with q := h.q.set i.val rest i.isLt, qwait := shiftWait i.val h.qwait }) := by
  simp only [Half.read, hq]
theorem Half.get_read_q_cons {i : Fin 8} {x : Word} {rest : List Word} (hq : h.q.get i = x :: rest) :
    (h.read (.q i)).2.q.get i = rest := by
  simp [h.read_q_cons hq, Vector.get_eq_getElem]

end

/-- Settles O7: the codes are those of the encoder read back, the forbidden ones stop the issue, and each kind of register has its rule. -/
theorem registerRules : Obligations.RegisterRules := by
  refine ⟨fun c => ⟨fun hc => Reg.ofCode_code (.g ⟨c, hc⟩), fun hc => Reg.ofCode_code (.n ⟨c, hc⟩), fun hc => Reg.ofCode_code (.y ⟨c, hc⟩),
      fun hc => Reg.ofCode_code (.q ⟨c, hc⟩), fun hc => Reg.ofCode_code (.rsv ⟨c, hc⟩)⟩, Reg.ofCode_code .z, ?codes, fun h v => ?rules⟩
  case codes =>
    intro s o r h1 h2 h3 hr
    rw [← Reg.srcOk_eq_false, ← Reg.dstOk_eq_false] at hr
    exact issueStop_forbiddenCode h1 h2 h3 ⟨r, hr⟩
  case rules =>
    exact ⟨rfl, rfl, h.write_z v, fun i => ⟨rfl, h.get_write_g v i, fun _ => h.get_write_g_of_ne v⟩,
      fun i => ⟨rfl, h.get_write_n v i, h.npoison_write_n v i⟩,
      fun _ _ _ hq => ⟨congrArg Prod.fst (h.read_q_cons hq), h.get_read_q_cons hq⟩,
      h.get_write_q v, fun _ => rfl, rfl, rfl, rfl, rfl⟩

end Sys2Proof.Machine
end

section
/-! The scalar integer forms that compute one value (R41, R42, R196 to R201): each is `unary`, `binary` or a compact form over an operation of the
model, and the operation gives what the spec says. -/

namespace Sys2Proof.Machine
open Sys2Proof

/-! ### From the arm of an instruction to its result -/

/-- A register form with two sources completes with f where its arm applies a function equal to f. -/
theorem yields2_of_binary {i : Reg → Reg → Reg → Instr} {f g : Word → Word → Word}
    (arm : ∀ b a d s, exec (i b a d) s = binary b a d g s) (hg : ∀ x y, g x y = f x y := by exact fun _ _ => rfl) : Yields2 i f := by
  intro s b a d h
  rw [arm, binary_ready h, hg]
theorem yields1_of_unary {i : Reg → Reg → Instr} {f g : Word → Word}
    (arm : ∀ a d s, exec (i a d) s = unary a d g s) (hg : ∀ x, g x = f x := by exact fun _ => rfl) : Yields1 i f := by
  intro s a d h
  rw [arm, unary_ready h, hg]
theorem yieldsC2_of_compactBinary {i : CReg → CReg → Instr} {f g : Word → Word → Word}
    (arm : ∀ b d s, exec (i b d) s = compactBinary b d g s) (hg : ∀ x y, g x y = f x y := by exact fun _ _ => rfl) : YieldsC2 i f := by
  intro s b d h
  rw [arm, compactBinary_ready h, hg]
theorem yieldsC1_of_compactUnary {i : BitVec 6 → CReg → Instr} {f g : BitVec 6 → Word → Word}
    (arm : ∀ m d s, exec (i m d) s = compactUnary d (g m) s) (hg : ∀ m x, g m x = f m x := by exact fun _ _ => rfl) : YieldsC1 i f := by
  intro s m d h
  rw [arm, compactUnary_ready h, hg]

/-! ### Counting zeros (R196) -/

theorem toNat_aluClz (x : Word) : (aluClz x).toNat = if x = 0#64 then 64 else 63 - Nat.log2 x.toNat := by
  have : (if x = 0#64 then 64 else 63 - Nat.log2 x.toNat) < 2 ^ 64 := by split <;> omega
  rw [aluClz, BitVec.toNat_ofNat, Nat.mod_eq_of_lt this]

/-- The highest bit set is the one below the leading zeros. -/
theorem aluClz_counts (x : Word) :
    (aluClz x).toNat ≤ 64 ∧ (∀ i, 64 - (aluClz x).toNat ≤ i → x.getLsbD i = false)
    ∧ ((aluClz x).toNat < 64 → x.getLsbD (63 - (aluClz x).toNat) = true) := by
  rw [toNat_aluClz]
  split
  case isTrue h => exact ⟨le_rfl, fun i _ => by rw [h, BitVec.getLsbD_zero], fun h64 => absurd h64 (lt_irrefl 64)⟩
  case isFalse h =>
    have hx : x.toNat ≠ 0 := fun h0 => h (BitVec.eq_of_toNat_eq h0)
    have top : Nat.log2 x.toNat < 64 := (Nat.log2_lt hx).mpr x.isLt
    refine ⟨by omega, fun i hi => ?above, fun _ => ?highest⟩
    case above =>
      have : x.toNat < 2 ^ i := (Nat.log2_lt hx).mp (by omega)
      exact Nat.testBit_eq_false_of_lt this
    case highest =>
      rw [Nat.sub_sub_self (by omega)]
      exact Nat.testBit_log2 hx

/-- The lowest bit set is the one above the trailing zeros. -/
theorem aluCtz_counts (x : Word) :
    (aluCtz x).toNat ≤ 64 ∧ (∀ i, i < (aluCtz x).toNat → x.getLsbD i = false)
    ∧ ((aluCtz x).toNat < 64 → x.getLsbD (aluCtz x).toNat = true) := by
  unfold aluCtz
  cases lowest : (List.range 64).find? fun i => x.getLsbD i with
  | none =>
    have clear := List.find?_range_eq_none.mp lowest
    exact ⟨le_rfl, fun i hi => by simpa using clear i hi, fun h64 => absurd h64 (lt_irrefl 64)⟩
  | some n =>
    obtain ⟨set, hn, below⟩ := List.find?_range_eq_some.mp lowest
    have hn : n < 64 := List.mem_range.mp hn
    have value : (BitVec.ofNat 64 ((some n).getD 64)).toNat = n := Nat.mod_eq_of_lt (by simp; omega)
    rw [value]
    exact ⟨hn.le, fun i hi => by simpa using below i hi, fun _ => set⟩

/-! ### The order of bytes (R4, R196) -/

/-- Bit i of byte k of the number whose little-endian bytes are given. -/
theorem testBit_leNat (bs : List Byte) (k : Nat) {i : Nat} (hi : i < 8) :
    (leNat bs).testBit (8 * k + i) = (bs.getD k 0#8).getLsbD i := by
  induction bs generalizing k with
  | nil => simp [leNat]
  | cons b r ih =>
    rw [leNat, Nat.add_comm, Nat.testBit_two_pow_mul_add (i := 8) _ b.isLt]
    cases k with
    | zero => simp [hi, BitVec.testBit_toNat]
    | succ k =>
      rw [if_neg (by omega), show 8 * (k + 1) + i - 8 = 8 * k + i by omega, ih]
      rfl

/-- Bit i of byte k of a word, of its eight bytes. -/
theorem getLsbD_leBytes (x : Word) (k : Nat) {i : Nat} (hi : i < 8) :
    ((leBytes 8 x.toNat).getD k 0#8).getLsbD i = x.getLsbD (8 * k + i) := by
  rw [← testBit_leNat _ _ hi, leNat_leBytes, Nat.mod_eq_of_lt (by exact x.isLt)]
  rfl

/-- Byte k of the result is byte 7 − k of the operand. -/
theorem getLsbD_aluBswap (x : Word) {k i : Nat} (hk : k < 8) (hi : i < 8) :
    (aluBswap x).getLsbD (8 * k + i) = x.getLsbD (8 * (7 - k) + i) := by
  have reversed : (leBytes 8 x.toNat).reverse.getD k 0#8 = (leBytes 8 x.toNat).getD (7 - k) 0#8 := by
    simp only [List.getD_eq_getElem?_getD, List.getElem?_reverse, leBytes_length, hk]
  rw [aluBswap, BitVec.getLsbD_ofNat, testBit_leNat _ _ hi, reversed, getLsbD_leBytes x _ hi]
  simp only [Bool.and_eq_right_iff_imp, decide_eq_true_eq]
  omega

/-! ### Immediates (R199, R201) -/

/-- A comparison with a sign-extended immediate is one with its value. -/
theorem slt_sext (x : Word) (m : BitVec 12) : b2w (x.slt (sext m)) = if x.toInt < m.toInt then 1#64 else 0#64 := by
  rw [slt_ite, sext, BitVec.toInt_signExtend_of_le (by decide)]

/-- Reading a general or near register leaves the state in which a result is given as it was. -/
theorem give_after_of_dstGN {s : State} {d : Reg} (hd : d.dstGN = true) (r : Reg) (v : Word) : (s.after d).give r v = s.give r v := by
  rw [give_eq, give_eq, half_after, read_dstGN _ d hd, after_eq, setHalf_setHalf]

/-- lixs reads d before it writes it (R201). -/
theorem exec_lixs_ready {s : State} {d : Reg} (m : BitVec 18) (h : s.Ready { srcs := [d], dsts := [d], badCode := !d.dstGN }) :
    exec (.lixs m d) s = .next ((s.give d ((s.val d) <<< 18 ||| m.zeroExtend 64)).retire { srcs := [d], dsts := [d] } .next) := by
  have hd : d.dstGN = true := by simpa using ready_badCode h
  have issued : exec (.lixs m d) s = .next (((s.after d).give d (aluLixs (s.val d) m)).retire _ .next) :=
    (exec_lixs m d s).trans (issueValue_ok h rfl)
  rw [issued, give_after_of_dstGN hd]
  rfl

/-! ### The statements -/

/-- Settles O9: each arm applies an operation, and the laws of the shifts, extensions, extremes and counts give what it computes. -/
theorem integerRegisterResults : Obligations.IntegerRegisterResults := by
  refine ⟨?twoSource, ?wForms, ?oneSource, ?compact⟩
  case twoSource =>
    exact ⟨yields2_of_binary exec_add, yields2_of_binary exec_sub, yields2_of_binary exec_and,
      yields2_of_binary exec_or, yields2_of_binary exec_xor, yields2_of_binary exec_andn, yields2_of_binary exec_orn,
      yields2_of_binary exec_sll aluSll_eq, yields2_of_binary exec_srl aluSrl_eq, yields2_of_binary exec_sra aluSra_eq,
      yields2_of_binary exec_slt slt_ite, yields2_of_binary exec_sltn ult_ite,
      yields2_of_binary exec_min fun x y => (toInt_min x y).symm, yields2_of_binary exec_max fun x y => (toInt_max x y).symm,
      yields2_of_binary exec_minn fun x y => (toNat_min x y).symm, yields2_of_binary exec_maxn fun x y => (toNat_max x y).symm,
      yields2_of_binary exec_mul, yields2_of_binary exec_mulh aluMulh_eq, yields2_of_binary exec_mulhn⟩
  case wForms =>
    exact ⟨yields2_of_binary exec_addw fun x y => trunc32 (x + y), yields2_of_binary exec_subw fun x y => trunc32 (x - y),
      yields2_of_binary exec_mulw fun x y => trunc32 (x * y), yields2_of_binary exec_sllw fun x y => sll32 x y.toNat,
      yields2_of_binary exec_srlw fun x y => srl32 x y.toNat, yields2_of_binary exec_sraw fun x y => sra32 x y.toNat⟩
  case oneSource =>
    exact ⟨fun s a d h => ⟨aluClz (s.val a), unary_ready h aluClz, aluClz_counts _⟩,
      fun s a d h => ⟨aluCtz (s.val a), unary_ready h aluCtz, aluCtz_counts _⟩,
      yields1_of_unary exec_popc,
      fun s a d h => ⟨aluBswap (s.val a), unary_ready h aluBswap, fun _ _ => getLsbD_aluBswap _⟩⟩
  case compact =>
    exact ⟨yieldsC2_of_compactBinary exec_compactAdd, yieldsC2_of_compactBinary exec_compactSub,
      yieldsC2_of_compactBinary exec_compactAnd, yieldsC2_of_compactBinary exec_compactOr, yieldsC2_of_compactBinary exec_compactXor,
      yieldsC2_of_compactBinary exec_compactSll aluSll_eq, yieldsC2_of_compactBinary exec_compactSrl aluSrl_eq,
      yieldsC2_of_compactBinary exec_compactSra aluSra_eq, yieldsC2_of_compactBinary exec_compactMul,
      yieldsC1_of_compactUnary exec_compactAddi, yieldsC1_of_compactUnary exec_compactAndi,
      yieldsC1_of_compactUnary exec_compactSlli fun m x => sll64 x m.toNat, yieldsC1_of_compactUnary exec_compactSrli fun m x => srl64 x m.toNat,
      yieldsC1_of_compactUnary exec_compactSrai fun m x => sra64 x m.toNat,
      fun s b d h => (exec_compactMove b d s).trans (issueValue_ok h rfl),
      fun s m d h => (exec_compactLix m d s).trans (issueValue_ok h rfl)⟩

/-- Settles O11: each arm applies an operation to its source and the immediate. -/
theorem immediateResults : Obligations.ImmediateResults :=
  ⟨fun m => yields1_of_unary (exec_addi m), fun m => yields1_of_unary (exec_andi m),
    fun m => yields1_of_unary (exec_ori m), fun m => yields1_of_unary (exec_xori m),
    fun m => yields1_of_unary (exec_slti m) fun x => slt_sext x m,
    fun n => yields1_of_unary (exec_slli n) fun x => sll64 x n.toNat, fun n => yields1_of_unary (exec_srli n) fun x => srl64 x n.toNat,
    fun n => yields1_of_unary (exec_srai n) fun x => sra64 x n.toNat, fun n => yields1_of_unary (exec_rori n) fun x => ror64 x n,
    fun n _ => yields1_of_unary (exec_slliw n) fun x => sll32 x n.toNat, fun n _ => yields1_of_unary (exec_srliw n) fun x => srl32 x n.toNat,
    fun n _ => yields1_of_unary (exec_sraiw n) fun x => sra32 x n.toNat, fun n hn => yields1_of_unary (exec_roriw n) fun x => ror32 x hn,
    fun s m d h => (exec_lix m d s).trans (issueValue_ok h rfl), fun s m d => exec_lixs_ready m⟩

end Sys2Proof.Machine
end

section
/-! The round trip of encodings (R4, R25 to R45): the bytes of a word, read back as its parcels, decode to what the word spells. -/

namespace Sys2Proof.Laws.RoundTrip

/-- One lemma for each constructor, put together. -/
theorem statement (i : Instr) : Statement i :=
  match i with
  | .add .. => add _ _ _ | .sub .. => sub _ _ _ | .and .. => and _ _ _ | .or .. => or _ _ _ | .xor .. => xor _ _ _ | .andn .. => andn _ _ _
  | .orn .. => orn _ _ _ | .sll .. => sll _ _ _ | .srl .. => srl _ _ _ | .sra .. => sra _ _ _ | .slt .. => slt _ _ _
  | .sltn .. => sltn _ _ _ | .min .. => min _ _ _ | .max .. => max _ _ _ | .minn .. => minn _ _ _ | .maxn .. => maxn _ _ _
  | .mul .. => mul _ _ _ | .mulh .. => mulh _ _ _ | .mulhn .. => mulhn _ _ _ | .div .. => div _ _ _ | .divn .. => divn _ _ _
  | .rem .. => rem _ _ _ | .remn .. => remn _ _ _ | .addw .. => addw _ _ _ | .subw .. => subw _ _ _ | .sllw .. => sllw _ _ _
  | .srlw .. => srlw _ _ _ | .sraw .. => sraw _ _ _ | .mulw .. => mulw _ _ _ | .clz .. => clz _ _ | .ctz .. => ctz _ _
  | .popc .. => popc _ _ | .bswap .. => bswap _ _ | .addi .. => addi _ _ _ | .andi .. => andi _ _ _ | .ori .. => ori _ _ _
  | .xori .. => xori _ _ _ | .slli .. => slli _ _ _ | .srli .. => srli _ _ _ | .srai .. => srai _ _ _ | .rori .. => rori _ _ _
  | .slliw .. => slliw _ _ _ | .srliw .. => srliw _ _ _ | .sraiw .. => sraiw _ _ _ | .roriw .. => roriw _ _ _ | .slti .. => slti _ _ _
  | .lix .. => lix _ _ | .lixs .. => lixs _ _ | .fadd .. => fadd _ _ _ | .fsub .. => fsub _ _ _ | .fmul .. => fmul _ _ _
  | .fdiv .. => fdiv _ _ _ | .fsqrt .. => fsqrt _ _ | .fmin .. => fmin _ _ _ | .fmax .. => fmax _ _ _ | .fmadd .. => fmadd _ _ _
  | .fmsub .. => fmsub _ _ _ | .fnmadd .. => fnmadd _ _ _ | .feq .. => feq _ _ _ | .flt .. => flt _ _ _ | .fle .. => fle _ _ _
  | .fclass .. => fclass _ _ | .fneg .. => fneg _ _ | .fabs .. => fabs _ _ | .fcvtI64F32 .. => fcvtI64F32 _ _
  | .fcvtN64F32 .. => fcvtN64F32 _ _ | .fcvtI32F32 .. => fcvtI32F32 _ _ | .fcvtN32F32 .. => fcvtN32F32 _ _
  | .fcvtF32I64 .. => fcvtF32I64 _ _ | .fcvtF32N64 .. => fcvtF32N64 _ _ | .fcvtBf16F32 .. => fcvtBf16F32 _ _
  | .fcvtF16F32 .. => fcvtF16F32 _ _ | .fcvtF32Bf16 .. => fcvtF32Bf16 _ _ | .fcvtF32F16 .. => fcvtF32F16 _ _ | .bEq .. => bEq _ _ _
  | .bNe .. => bNe _ _ _ | .bLt .. => bLt _ _ _ | .bGe .. => bGe _ _ _ | .bLtn .. => bLtn _ _ _ | .bGen .. => bGen _ _ _ | .j .. => j _
  | .jal .. => jal _ | .nop => nop | .jr .. => jr _ | .jalr .. => jalr _ _ | .lp .. => lp _ _ | .pca .. => pca _ | .done => done
  | .flush => flush | .ld .. => ld _ _ _ _ | .st .. => st _ _ _ _ | .ldb .. => ldb _ _ _ _ _ | .stb .. => stb _ _ _ _ _
  | .ldg .. => ldg _ _ _ _ _ | .stg .. => stg _ _ _ _ _ | .amoSwap .. => amoSwap _ _ _ _ | .amoAdd .. => amoAdd _ _ _ _
  | .amoAnd .. => amoAnd _ _ _ _ | .amoOr .. => amoOr _ _ _ _ | .amoXor .. => amoXor _ _ _ _ | .amoMaxI .. => amoMaxI _ _ _ _
  | .amoMinI .. => amoMinI _ _ _ _ | .amoMaxN .. => amoMaxN _ _ _ _ | .amoMinN .. => amoMinN _ _ _ _ | .amoCas .. => amoCas _ _ _ _
  | .amoFadd .. => amoFadd _ _ _ | .fence .. => fence _ _ _ | .ldAcq .. => ldAcq _ _ _ _ | .stRel .. => stRel _ _ _ _ | .cinv .. => cinv _
  | .cinvAll => cinvAll | .msgSend .. => msgSend _ _ _ | .msgSendn .. => msgSendn _ _ _ | .msgSpawn .. => msgSpawn _
  | .msgHost .. => msgHost _ | .msgPut .. => msgPut _ _ _ | .msgArg .. => msgArg _ _ | .msgHdr .. => msgHdr _ _
  | .msgMask .. => msgMask _ _ | .barArr .. => barArr _ | .grpRank .. => grpRank _ _ | .grpSize .. => grpSize _ _
  | .grpTile .. => grpTile _ _ | .grpSend .. => grpSend _ _ _ | .mxLdb .. => mxLdb _ | .mxMma .. => mxMma _ _ _ _
  | .mxZero .. => mxZero _ _ _ | .mxRd .. => mxRd _ _ _ _ | .mxLdacc .. => mxLdacc _ _ _ _ | .mxBay .. => mxBay _ _ _ _
  | .mxStat .. => mxStat _ _ | .mxCfg .. => mxCfg _ | .cpGl .. => cpGl _ _ _ _ | .cpGb .. => cpGb _ _ _ _ | .cpLg .. => cpLg _ _ _
  | .cpGg .. => cpGg _ _ _ | .cpLb .. => cpLb _ _ _ _ | .cpLs .. => cpLs _ _ _ _ _ | .cpLsb .. => cpLsb _ _ _ _ _
  | .cpPl .. => cpPl _ _ _ _ _ | .cpCancel .. => cpCancel _ _ _ | .cpCfg .. => cpCfg _ _ _ | .cpCrec .. => cpCrec _ _ _
  | .gxLd .. => gxLd _ _ _ _ | .gxSt .. => gxSt _ _ _ | .gxLdb .. => gxLdb _ _ _ _ | .cmbMax .. => cmbMax _ _ _
  | .cmbMin .. => cmbMin _ _ _ | .cmbLgc .. => cmbLgc _ _ _ | .cmbAdd .. => cmbAdd _ _ | .tmPub .. => tmPub _ _ | .tmGet .. => tmGet _ _
  | .tmAge .. => tmAge _ _ | .tmArm .. => tmArm _ | .tmCfg .. => tmCfg _ _ _ | .reqSub .. => reqSub _ _ | .reqStep .. => reqStep _
  | .reqRd .. => reqRd _ _ | .reqCommit .. => reqCommit _ _ | .reqFault .. => reqFault _ | .reqCfgRows .. => reqCfgRows _ _
  | .reqCfgStopset .. => reqCfgStopset _ _ | .reqCancel .. => reqCancel _ _ _ | .reqKvAttach .. => reqKvAttach _ _
  | .reqKvDetach .. => reqKvDetach _ _ | .reqKvEvict .. => reqKvEvict _ _ | .reqKvRelease .. => reqKvRelease _ _ | .tmrSet .. => tmrSet _ _
  | .tmrRd .. => tmrRd _ _ | .wktSeize .. => wktSeize _ _ | .wktRel .. => wktRel _ | .wktStat .. => wktStat _ _ | .extW .. => extW _ _
  | .extGet .. => extGet _ _ | .extLix .. => extLix _ _ | .extLixs .. => extLixs _ _ | .shpLd .. => shpLd _ _ | .shpSt .. => shpSt _ _
  | .shpSet .. => shpSet _ _ _ | .shpGet .. => shpGet _ _ _ | .recSlice .. => recSlice _ _ _ | .csrRw .. => csrRw _ _ _
  | .csrRs .. => csrRs _ _ _ | .csrRc .. => csrRc _ _ _ | .wakeReq => wakeReq | .tret => tret | .trapAb .. => trapAb _
  | .trapDead .. => trapDead _ | .frzRel .. => frzRel _ _ _ | .eqPop .. => eqPop _ _ | .tlbWr .. => tlbWr _ _ _
  | .tlbNak .. => tlbNak _ _ _ | .tlbInv .. => tlbInv _ _ | .tlbInvt .. => tlbInvt _ _ | .resWr .. => resWr _ _ _ | .resRd .. => resRd _ _
  | .bndWr .. => bndWr _ _ | .bndRd .. => bndRd _ _ | .bndClr .. => bndClr _ | .wearRd .. => wearRd _ _ | .lvHold .. => lvHold _
  | .lvDrop => lvDrop | .lvStat .. => lvStat _ _ | .lvShare .. => lvShare _ _ _ | .wearSet .. => wearSet _ _ _ | .partMk .. => partMk _ _
  | .partFree .. => partFree _ _ | .partHold .. => partHold _ _ _ | .partHalt .. => partHalt _ _ _ | .partSwap .. => partSwap _ _ _
  | .shutPost .. => shutPost _ _ _ | .shutStat .. => shutStat _ _ _ | .vfCtlPause .. => vfCtlPause _ _ _
  | .vfCtlResume .. => vfCtlResume _ _ _ | .vfCtlReset .. => vfCtlReset _ _ _ | .vfCtlTeardown .. => vfCtlTeardown _ _ _
  | .vfadd .. => vfadd _ _ _ _ _ _ | .vfsub .. => vfsub _ _ _ _ _ _ | .vfmul .. => vfmul _ _ _ _ _ _ | .vfma .. => vfma _ _ _ _ _ _
  | .vfnma .. => vfnma _ _ _ _ _ _ | .vfmin .. => vfmin _ _ _ _ _ _ | .vfmax .. => vfmax _ _ _ _ _ _ | .vfdiv .. => vfdiv _ _ _ _ _ _
  | .vadd .. => vadd _ _ _ _ _ _ | .vsub .. => vsub _ _ _ _ _ _ | .vmul .. => vmul _ _ _ _ _ _ | .vmac .. => vmac _ _ _ _ _ _
  | .vminI .. => vminI _ _ _ _ _ _ | .vmaxI .. => vmaxI _ _ _ _ _ _ | .vminN .. => vminN _ _ _ _ _ _ | .vmaxN .. => vmaxN _ _ _ _ _ _
  | .vand .. => vand _ _ _ _ _ _ | .vor .. => vor _ _ _ _ _ _ | .vxor .. => vxor _ _ _ _ _ _ | .vandn .. => vandn _ _ _ _ _ _
  | .vsll .. => vsll _ _ _ _ _ _ | .vsrl .. => vsrl _ _ _ _ _ _ | .vsra .. => vsra _ _ _ _ _ _ | .vmov .. => vmov _ _ _ _ _
  | .vceq .. => vceq _ _ _ _ _ _ | .vclt .. => vclt _ _ _ _ _ _ | .vcge .. => vcge _ _ _ _ _ _ | .vcltn .. => vcltn _ _ _ _ _ _
  | .vcgen .. => vcgen _ _ _ _ _ _ | .vfeq .. => vfeq _ _ _ _ _ _ | .vflt .. => vflt _ _ _ _ _ _ | .vfle .. => vfle _ _ _ _ _ _
  | .kand .. => kand _ _ _ | .kor .. => kor _ _ _ | .kxor .. => kxor _ _ _ | .kandn .. => kandn _ _ _ | .knot .. => knot _ _
  | .kpop .. => kpop _ _ | .kfirst .. => kfirst _ _ | .kword .. => kword _ _ | .klo .. => klo _ _ | .kset .. => kset _ _
  | .vcvtF32Bf16 .. => vcvtF32Bf16 _ _ _ _ | .vcvtF32F16 .. => vcvtF32F16 _ _ _ _ | .vcvtBf16F32 .. => vcvtBf16F32 _ _ _ _
  | .vcvtF16F32 .. => vcvtF16F32 _ _ _ _ | .vcvtF16Bf16 .. => vcvtF16Bf16 _ _ _ | .vcvtBf16F16 .. => vcvtBf16F16 _ _ _
  | .vcvtF32I32 .. => vcvtF32I32 _ _ _ | .vcvtI32F32 .. => vcvtI32F32 _ _ _ | .vcvtF32I8 .. => vcvtF32I8 _ _ _ _
  | .vwidI16I8 .. => vwidI16I8 _ _ _ _ | .vwidI32I16 .. => vwidI32I16 _ _ _ _ | .vwidN16N8 .. => vwidN16N8 _ _ _ _
  | .vwidN32N16 .. => vwidN32N16 _ _ _ _ | .vnarI8I16 .. => vnarI8I16 _ _ _ _ | .vnarI16I32 .. => vnarI16I32 _ _ _ _
  | .vgscLo .. => vgscLo _ _ _ _ | .vgscHi .. => vgscHi _ _ _ _ | .vunpkI8I4 .. => vunpkI8I4 _ _ _ _ | .vpkI4I8 .. => vpkI4I8 _ _ _ _
  | .vpermB .. => vpermB _ _ _ _ | .vnibLo .. => vnibLo _ _ _ _ | .vnibHi .. => vnibHi _ _ _ _ | .vbcast .. => vbcast _ _ _ _ _
  | .vslup .. => vslup _ _ _ _ _ | .vsldn .. => vsldn _ _ _ _ _ | .vcomp .. => vcomp _ _ _ _ | .vidx .. => vidx _ _ _
  | .vmvq .. => vmvq _ _ _ _ | .vrsum .. => vrsum _ _ _ _ | .vrmax .. => vrmax _ _ _ _ | .vrmin .. => vrmin _ _ _ _
  | .vramax .. => vramax _ _ _ _ | .vramin .. => vramin _ _ _ _ | .vscan .. => vscan _ _ _ _ | .vhist .. => vhist _ _ _ _ _
  | .vexp2 .. => vexp2 _ _ _ | .vlog2 .. => vlog2 _ _ _ | .vrcp .. => vrcp _ _ _ | .vrsqrt .. => vrsqrt _ _ _ | .vsqrt .. => vsqrt _ _ _
  | .vrngN32 .. => vrngN32 _ _ _ _ | .vrngF32 .. => vrngF32 _ _ _ _ | .vord .. => vord _ _ _ _ | .vordi .. => vordi _ _ _ _
  | .vld .. => vld _ _ _ | .vst .. => vst _ _ _ | .vlds .. => vlds _ _ _ _ | .vsts .. => vsts _ _ _ _ | .vldg .. => vldg _ _ _
  | .vstg .. => vstg _ _ _ | .vldb .. => vldb _ _ _ | .compactAdd .. => compactAdd _ _ | .compactSub .. => compactSub _ _
  | .compactAnd .. => compactAnd _ _ | .compactOr .. => compactOr _ _ | .compactXor .. => compactXor _ _ | .compactSll .. => compactSll _ _
  | .compactSrl .. => compactSrl _ _ | .compactSra .. => compactSra _ _ | .compactMul .. => compactMul _ _
  | .compactMove .. => compactMove _ _ | .compactAddi .. => compactAddi _ _ | .compactLix .. => compactLix _ _
  | .compactAndi .. => compactAndi _ _ | .compactSlli .. => compactSlli _ _ | .compactSrli .. => compactSrli _ _
  | .compactSrai .. => compactSrai _ _ | .compactLdI64 .. => compactLdI64 _ _ _ | .compactStI64 .. => compactStI64 _ _ _
  | .compactLdI32 .. => compactLdI32 _ _ _ | .compactStI32 .. => compactStI32 _ _ _ | .compactBEq .. => compactBEq _ _
  | .compactBNe .. => compactBNe _ _ | .compactJ .. => compactJ _ | .compactNop => compactNop | .compactDone => compactDone
  | .compactFlush => compactFlush | .compactJrLk => compactJrLk | .pfx .. => pfx _ _ _ _ | .messageArrival .. => messageArrival _
  | .binding .. => binding _ _ | .vectorStart .. => vectorStart _ _ | .boundTrap .. => boundTrap _ _ | .tlbMissRetry .. => tlbMissRetry _ _
  | .abort .. => abort _ _ | .budgetOverrun .. => budgetOverrun _ _ | .leaveGrant .. => leaveGrant _ | .leaveTimeout .. => leaveTimeout _ _
  | .doneRetire .. => doneRetire _ _ | .sliceAccess .. => sliceAccess _ | .lineFill .. => lineFill _ | .loadReply .. => loadReply _ _
  | .portThreadOperation .. => portThreadOperation _ | .put .. => put _ | .barrierArrival .. => barrierArrival _ | .probe .. => probe _
  | .resourceInvalidation .. => resourceInvalidation _ | .streamerSegment .. => streamerSegment _ | .streamerLine .. => streamerLine _
  | .transferEnd .. => transferEnd _ | .streamerCancel .. => streamerCancel _ | .mxQueueEntry .. => mxQueueEntry _
  | .mxCommandStart .. => mxCommandStart _ | .mxCommandComplete .. => mxCommandComplete _ | .mxBayMember .. => mxBayMember _
  | .mxBayFold .. => mxBayFold _ | .transomRequestAccept .. => transomRequestAccept _
  | .transomStagingComplete .. => transomStagingComplete _ | .transomCommit .. => transomCommit _ | .readPinEnd .. => readPinEnd _
  | .mirrorInstall .. => mirrorInstall _ _ | .pubdb .. => pubdb _ _ | .getdb .. => getdb _ _ | .hostPostedWrite .. => hostPostedWrite _ _ _
  | .senddb .. => senddb _ | .hostChannelWrite .. => hostChannelWrite _ | .eqpop .. => eqpop _ | .rqsub .. => rqsub _ _
  | .rqrd .. => rqrd _ _ | .rqcan .. => rqcan _ _ | .qtail .. => qtail _ _ _ | .admission .. => admission _
  | .mbExecSystemInstruction => mbExecSystemInstruction | .mbSlotConfig => mbSlotConfig | .mbWicketArm => mbWicketArm
  | .mbErrorArea => mbErrorArea | .mbPowerCap => mbPowerCap | .mbSleep => mbSleep | .mbWake => mbWake | .wakeComplete => wakeComplete
  | .mbSuspend => mbSuspend | .mbResume => mbResume | .mbPeerWord => mbPeerWord | .mbLifetimeRecord => mbLifetimeRecord
  | .registerWrite .. => registerWrite _ _ _ | .functionLevelReset .. => functionLevelReset _ | .boot .. => boot _ _ _ _ _
  | .timerEdge .. => timerEdge _ | .controlEdge => controlEdge | .deltaCommit .. => deltaCommit _ _ _ _ _ _ | .sweep .. => sweep _
  | .seizeRequest .. => seizeRequest _ | .wicketRelease .. => wicketRelease _ | .forcedRelease .. => forcedRelease _
  | .reqStepOperation .. => reqStepOperation _ | .kvOperation .. => kvOperation _ | .combineArrival .. => combineArrival _
  | .haltComplete .. => haltComplete _ | .swapComplete .. => swapComplete _ | .bstoreRefill .. => bstoreRefill _
  | .shutterUnitEnd .. => shutterUnitEnd _ | .shutterVacant .. => shutterVacant _ | .moveRound .. => moveRound _
  | .moveFreeze .. => moveFreeze _ | .scrub .. => scrub _ | .rowCloseTimeout .. => rowCloseTimeout _ | .refresh .. => refresh _
  | .monitorSample .. => monitorSample _ _ _ | .illegalInstruction .. => illegalInstruction _
  | .transcendentalBurstEnd .. => transcendentalBurstEnd _ | .heartbeat .. => heartbeat _ _ _ _ | .ptmExchange .. => ptmExchange _
  | .quoteRequest .. => quoteRequest _ _ | .hostPortAcceptance .. => hostPortAcceptance _

end Sys2Proof.Laws.RoundTrip

namespace Sys2Proof
open Laws.RoundTrip

theorem wordBytes_two (w : Nat) : wordBytes 2 w = [BitVec.ofNat 8 w, BitVec.ofNat 8 (w / 256)] := rfl
theorem wordBytes_four (w : Nat) :
    wordBytes 4 w = [BitVec.ofNat 8 w, BitVec.ofNat 8 (w / 256), BitVec.ofNat 8 (w / 256 / 256), BitVec.ofNat 8 (w / 256 / 256 / 256)] := rfl
/-- Two bytes side by side are the parcel they were cut from (R4). -/
theorem parcel_of_bytes (w : Nat) : (BitVec.ofNat 8 w).toNat + 256 * (BitVec.ofNat 8 (w / 256)).toNat = w % 65536 := by
  simp only [BitVec.toNat_ofNat]; omega

/-- A word of two parcels is decoded from its four bytes, whatever follows. -/
theorem decode_wordBytes_four {w : Nat} {i : Instr} (rest : List Byte) (hw : w < 2 ^ 32) (hl : w % 4 = 3) (hi : decodeWord32 w = some i) :
    decode (wordBytes 4 w ++ rest) = .ok (i, rest) := by
  have low : w % 65536 % 4 = 3 := by omega
  have whole : w % 65536 % 65536 + 65536 * (w / 256 / 256 % 65536 % 65536) = w := by omega
  have word : decodeParcels (w % 65536) (some (w / 256 / 256 % 65536)) = .ok ⟨i, 4⟩ := by
    simp only [decodeParcels, if_pos low, whole, hi]
  simp only [wordBytes_four, List.cons_append, List.nil_append, decode, parcel_of_bytes, if_pos low, word]

/-- A compact parcel is decoded from its two bytes, whatever follows. -/
theorem decode_wordBytes_two {w : Nat} {i : Instr} (rest : List Byte) (hw : w < 2 ^ 16) (hl : w % 4 ≠ 3) (h0 : w ≠ 0)
    (hi : decodeWord16 w = some i) : decode (wordBytes 2 w ++ rest) = .ok (i, rest) := by
  have parcel : w % 65536 = w := Nat.mod_eq_of_lt hw
  have word : decodeParcels w none = .ok ⟨i, 2⟩ := by
    simp only [decodeParcels, if_neg hl, parcel, if_neg h0, hi]
  simp only [wordBytes_two, List.cons_append, List.nil_append, decode, parcel_of_bytes, parcel, if_neg hl, word]

/-- An instruction that has an encoding and is well formed is read back from its bytes. -/
theorem decode_encodeBytes {i : Instr} {bs : List Byte} (rest : List Byte) (hwf : i.wellFormed = true) (he : encodeBytes i = some bs) :
    decode (bs ++ rest) = .ok (i, rest) := by
  obtain ⟨⟨n, w⟩, henc, rfl⟩ := Option.map_eq_some_iff.mp he
  obtain ⟨rfl, hw, hl, hd⟩ | ⟨rfl, hw, hl, h0, hd⟩ := statement i hwf n w henc
  · simpa using decode_wordBytes_four rest hw hl (Option.filter_eq_some_iff.mpr ⟨hd, hwf⟩)
  · simpa using decode_wordBytes_two rest hw hl h0 (Option.filter_eq_some_iff.mpr ⟨hd, hwf⟩)

/-- An encoding has 16 or 32 bits. -/
theorem length_of_encode {i : Instr} {n w : Nat} (he : encode i = some (n, w)) : n = 16 ∨ n = 32 := by
  have lengths : (encode i).all (fun p => p.1 == 16 || p.1 == 32) = true := by cases i <;> rfl
  simpa [he] using lengths

/-- Settles O1: the encoder and the decoder agree on every constructor, and the bytes of a word are its parcels. -/
theorem roundTrip : Obligations.RoundTrip :=
  ⟨fun _ _ rest hwf he => decode_encodeBytes rest hwf he, fun _ _ _ => length_of_encode⟩

end Sys2Proof
end

section
/-! Rules that the proofs below share: the stops whose fault detail is not the instruction's word. -/

namespace Sys2Proof.Machine
open Sys2Proof

/-- A trap that keeps its own fault detail (R389). -/
theorem stopped_detail (s : State) (n : Nat) (t : Trap)
    (h : (decide (t.code = 0x20) || decide (t.code = 0x21) || decide (t.code = 0x23)) = false) :
    s.stopped n (.trap t) = .next (s.takeTrap s.half.pc t) := by
  simp [State.stopped, Trap.withWord, h]
/-- A trap that leaves what the earlier checks of its instruction have done (R58, R110). -/
theorem stopped_after (s : State) (n : Nat) (f : State → State) (t : Trap)
    (h : (decide (t.code = 0x20) || decide (t.code = 0x21) || decide (t.code = 0x23)) = false) :
    s.stopped n (.trapOn f t) = .next ((f s).takeTrap s.half.pc t) := by
  simp [State.stopped, Trap.withWord, h]
/-- An illegal operand: the trap 0x21, whose fault detail is the instruction's word (R389). -/
theorem stopped_illegalOperand (s : State) (n : Nat) :
    s.stopped n (.trap { code := 0x21 }) = .next (s.takeTrap s.half.pc { code := 0x21, faddr := s.wordAtPc n }) := rfl

/-- A wait, which has no effect but itself (R34, R333). -/
theorem stopped_wait (s : State) (n : Nat) (k : WaitOn) :
    s.stopped n (.wait k) = .next (s.setSlot { s.slot with waiting := true, waitOn := k }) := rfl
/-- A wait for what it has set going (R296). -/
theorem stopped_waitIn (s : State) (n : Nat) (k : WaitOn) (f : State → State) :
    s.stopped n (.waitIn k f) = .next ((f s).setSlot { (f s).slot with waiting := true, waitOn := k }) := rfl

/-! ### A step that is taken under a condition -/

section
variable {α : Type} {c : Prop} [Decidable c] {e : Exec Unit} {k : Unit → Exec α} {s t : State}

theorem when_ok (he : c → e s = .ok ((), t)) (hn : ¬ c → t = s) : (if c then e >>= k else k ()) s = k () t := by
  by_cases h : c
  · rw [if_pos h, bind_ok (he h)]
  · rw [if_neg h, hn h]
theorem when_error {x : Stop} (h : c) (he : e s = .error x) : (if c then e >>= k else k ()) s = .error x := by
  rw [if_pos h, bind_error he]
end

/-! ### The outcome of an instruction that stops -/

theorem issue_traps {s : State} {o : Op} {t : Trap} {body : Exec Flow} (h : s.Ready o) (hb : body s = .error (.trap t))
    (hc : (decide (t.code = 0x20) || decide (t.code = 0x21) || decide (t.code = 0x23)) = false) :
    issue o body s = .next (s.takeTrap s.half.pc t) :=
  (issue_error h hb).trans (stopped_detail s o.len t hc)
theorem issueValue_traps {s : State} {o : Op} {d : Reg} {t : Trap} {body : Exec Word} (h : s.Ready o) (hb : body s = .error (.trap t))
    (hc : (decide (t.code = 0x20) || decide (t.code = 0x21) || decide (t.code = 0x23)) = false) :
    issueValue o d body s = .next (s.takeTrap s.half.pc t) :=
  (issueValue_error h hb).trans (stopped_detail s o.len t hc)
theorem issue_trapsAfter {s : State} {o : Op} {t : Trap} {f : State → State} {body : Exec Flow} (h : s.Ready o)
    (hb : body s = .error (.trapOn f t))
    (hc : (decide (t.code = 0x20) || decide (t.code = 0x21) || decide (t.code = 0x23)) = false) :
    issue o body s = .next ((f s).takeTrap s.half.pc t) :=
  (issue_error h hb).trans (stopped_after s o.len f t hc)
theorem issueValue_trapsAfter {s : State} {o : Op} {d : Reg} {t : Trap} {f : State → State} {body : Exec Word} (h : s.Ready o)
    (hb : body s = .error (.trapOn f t))
    (hc : (decide (t.code = 0x20) || decide (t.code = 0x21) || decide (t.code = 0x23)) = false) :
    issueValue o d body s = .next ((f s).takeTrap s.half.pc t) :=
  (issueValue_error h hb).trans (stopped_after s o.len f t hc)
theorem issue_illegalOperand {s : State} {o : Op} {body : Exec Flow} (h : s.Ready o) (hb : body s = .error (.trap { code := 0x21 })) :
    issue o body s = .next (s.takeTrap s.half.pc { code := 0x21, faddr := s.wordAtPc o.len }) := issue_error h hb
theorem issueValue_illegalOperand {s : State} {o : Op} {d : Reg} {body : Exec Word} (h : s.Ready o)
    (hb : body s = .error (.trap { code := 0x21 })) :
    issueValue o d body s = .next (s.takeTrap s.half.pc { code := 0x21, faddr := s.wordAtPc o.len }) := issueValue_error h hb

/-! ### The next number of the device, and the order of a context: what they leave -/

@[simp] theorem cur_bump (s : State) : s.bump.cur = s.cur := rfl
@[simp] theorem ctx_bump (s : State) : s.bump.ctx = s.ctx := rfl
@[simp] theorem share_bump (s : State) : s.bump.share = s.share := rfl
@[simp] theorem act_bump (s : State) : s.bump.act = s.act := rfl
@[simp] theorem half_bump (s : State) : s.bump.half = s.half := rfl
@[simp] theorem fresh_after (s : State) (r : Reg) : (s.after r).fresh = s.fresh := rfl
@[simp] theorem fresh_ordered (s : State) : s.ordered.fresh = s.fresh := rfl
@[simp] theorem pid_ordered (s : State) : s.ordered.pid = s.pid := by
  obtain ⟨cs, e⟩ := tile_ordered_eq s s.cur
  have shares : (s.ordered.tile s.cur).shares = (s.tile s.cur).shares := by rw [e]
  simp only [State.pid, Tile.share, cur_ordered, share_ordered, shares]
@[simp] theorem src_ordered (s : State) : s.ordered.src = s.src := by simp [State.src]
@[simp] theorem placeOf_ordered (s : State) (idx off : Nat) (p : GlobalPath) : s.ordered.placeOf idx off p = s.placeOf idx off p := by
  obtain ⟨cs, e⟩ := tile_ordered_eq s s.cur
  have entry : s.ordered.resEntry s.cur s.pid idx = s.resEntry s.cur s.pid idx := by
    unfold State.resEntry
    rw [e]
    rfl
  simp only [State.placeOf, cur_ordered, pid_ordered, entry]

/-! ### A change of a tile: what it leaves -/

/-- A change of a tile that keeps a view of its contexts keeps that view of every tile. -/
theorem tile_modTile_view {α : Type} (f : Tile → α) (s : State) (t u : Nat) (g : Tile → Tile) (hg : ∀ x, f (g x) = f x) :
    f ((s.modTile t g).tile u) = f (s.tile u) := by
  unfold State.modTile
  by_cases h : t = u
  · subst h; rw [tile_setTile, hg]
  · rw [tile_setTile_ne _ _ h]
/-- A change that leaves the contexts leaves what the running context holds. -/
theorem slot_modTile (s : State) (t : Nat) (g : Tile → Tile) (hg : ∀ x, (g x).ctxs = x.ctxs) : (s.modTile t g).slot = s.slot := by
  have ctxs := tile_modTile_view Tile.ctxs s t s.cur g hg
  change ((s.modTile t g).slotAt s.cur s.ctx) = s.slotAt s.cur s.ctx
  simp only [State.slotAt, Tile.ctx, ctxs]
theorem act_modTile (s : State) (t : Nat) (g : Tile → Tile) (hg : ∀ x, (g x).ctxs = x.ctxs) : (s.modTile t g).act = s.act := by
  rw [State.act, slot_modTile s t g hg]; rfl
theorem half_modTile (s : State) (t : Nat) (g : Tile → Tile) (hg : ∀ x, (g x).ctxs = x.ctxs) : (s.modTile t g).half = s.half := by
  rw [State.half, slot_modTile s t g hg]; rfl
@[simp] theorem act_setHalf (s : State) (h : Half) : (s.setHalf h).act = s.act := by rw [State.act, slot_setHalf]; rfl
@[simp] theorem act_give (s : State) (d : Reg) (v : Word) : (s.give d v).act = s.act := act_setHalf s _

/-! ### Accesses in another tile of the bay (R119, R124) -/

/-- A bay tile index that belongs to the launch gives the tile. -/
theorem bayTarget_ok {s : State} {ti : Nat} (h : s.bayOpen ti) (ea : Int) : bayTarget ti ea s = .ok (bayTile (bayOf s.cur) ti, s) := by
  unfold bayTarget
  rw [bind_ok (get_run s), bind_ok (check_ok h _ _ _ s), pure_run]

theorem remoteStore_ok {s : State} {tgt ea : Nat} {bs : List Byte} (h : (s.tile s.cur).storesOut < 16) :
    remoteStore tgt ea bs s = .ok ((), (s.bump.toBay tgt (.store s.cur s.ctx s.share s.fresh ea bs) s.fresh false).spent) := by
  unfold remoteStore
  rw [bind_ok (get_run s), bind_ok (waitUntil_ok (decide_eq_true h) _ s), bind_ok (freshId_run s), bind_ok (update_run _ _), markNonReplayable_run]
  rfl

/-- An address word of main memory is for the reasoning side (R370, R378). -/
theorem isolated_ok {s : State} (h : s.reflexSide = false) : isolated s = .ok ((), s) := by
  unfold isolated
  rw [bind_ok (get_run _), check_ok (by rw [h]; rfl)]

end Sys2Proof.Machine
end

section
/-! What the error log and the reading of a store leave (R110, R133, R400 to R402, R428): an event changes the log of the device and the
error queue, the virtual inbox and the vectors of functions, and nothing else. -/

namespace Sys2Proof.Machine
open Sys2Proof

/-! ### The state without its logs -/

/-- A function without what an event changes in it. -/
def Fn.quiet (f : Fn) : Fn := { f with eq := [], eqovf := 0, vin := [], vilost := 0, vectors := [] }
/-- The system without its log. -/
def Sys.quiet (y : Sys) : Sys := { y with plog := [], plogProd := 0, plogOvf := [], plogLost := 0, corrected := [] }
def State.quiet (s : State) : State := { s with sys := s.sys.quiet, fns := s.fns.map Fn.quiet }

theorem fn_quiet (s : State) (f : Nat) : s.quiet.fn f = (s.fn f).quiet := by
  simp [State.quiet, State.fn, Vector.get_eq_getElem]

/-! ### Events -/

theorem quiet_raise (f : Fn) (v : Nat) : (f.raise v).quiet = f.quiet := by
  unfold Fn.raise
  split <;> rfl
theorem quiet_pushEvent (f : Fn) (e : ErrEvent) : (f.pushEvent e).quiet = f.quiet := by
  unfold Fn.pushEvent
  split
  · rfl
  · split <;> rfl
theorem quiet_postInbox (f : Fn) (ty data : Nat) : (f.postInbox ty data).quiet = f.quiet := by
  unfold Fn.postInbox
  split
  · exact quiet_raise _ 0
  · split
    · split
      · exact quiet_raise _ 0
      · rfl
    · rfl
theorem quiet_pushLog (y : Sys) (e : ErrEvent) : (y.pushLog e).quiet = y.quiet := by
  unfold Sys.pushLog
  split
  · rfl
  · split <;> rfl
theorem quiet_countError (y : Sys) (d : Nat) (e : ErrEvent) : (y.countError d e).quiet = y.quiet := by
  unfold Sys.countError
  split <;> rfl

theorem quiet_modSys {s : State} {g : Sys → Sys} (hg : (g s.sys).quiet = s.sys.quiet) : (s.modSys g).quiet = s.quiet := by
  unfold State.quiet State.modSys
  dsimp only
  rw [hg]
theorem quiet_modFn {s : State} {f : Nat} {g : Fn → Fn} (hg : ∀ x, (g x).quiet = x.quiet) : (s.modFn f g).quiet = s.quiet := by
  have fns : (s.modFn f g).fns.map Fn.quiet = s.fns.map Fn.quiet := by
    refine Vector.ext fun i hi => ?_
    rw [Vector.getElem_map, Vector.getElem_map, State.modFn, Vector.getElem_set]
    split
    · next h => subst h; exact hg _
    · rfl
  unfold State.quiet
  rw [fns]
  rfl
theorem quiet_enterLog (s : State) (e : ErrEvent) : (s.enterLog e).quiet = s.quiet := by
  have log : (s.modSys fun y => (y.pushLog { e with dtime := s.dtime, ltile := 0xFFFF, vloc := none }).countError s.dtime e).quiet = s.quiet :=
    quiet_modSys (by rw [quiet_countError, quiet_pushLog])
  unfold State.enterLog
  dsimp only
  split
  · rw [quiet_modFn fun x => quiet_raise x 3, log]
  · exact log
theorem quiet_post (s : State) (e : ErrEvent) : (s.post e).quiet = s.quiet := by
  unfold State.post
  dsimp only
  split
  · rw [quiet_modFn, quiet_enterLog]
    intro x
    split
    · rw [quiet_postInbox, quiet_pushEvent]
    · exact quiet_pushEvent x _
  · exact quiet_enterLog s _

/-! ### Reading a store (R110, R133) -/

theorem quiet_postWord (s : State) (w : Nat) (two : Bool) : (s.postWord w two).quiet = s.quiet := by
  unfold State.postWord
  dsimp only
  split
  · exact quiet_post s _
  · exact quiet_enterLog s _
theorem quiet_senseWord (s : State) (w : Nat) :
    (s.senseWord w).quiet = { s.quiet with flips := (s.senseWord w).flips, poison := (s.senseWord w).poison } := by
  unfold State.senseWord
  split
  · rfl
  · dsimp only
    split
    · rw [quiet_postWord, postWord_eq]; rfl
    · rw [quiet_postWord, postWord_eq]; rfl
/-- Reading changes, beside the logs, no more than the flipped bits and the poison. -/
theorem quiet_sense (s : State) (ks : List Nat) :
    (s.sense ks).quiet = { s.quiet with flips := (s.sense ks).flips, poison := (s.sense ks).poison } := by
  have fold : ∀ (ws : List Nat) (s : State), (ws.foldl State.senseWord s).quiet =
      { s.quiet with flips := (ws.foldl State.senseWord s).flips, poison := (ws.foldl State.senseWord s).poison } := by
    intro ws
    induction ws with
    | nil => intro s; rfl
    | cons w ws ih => intro s; rw [List.foldl_cons, ih, quiet_senseWord]
  unfold State.sense
  split
  · rfl
  · exact fold _ s

/-! ### What reading leaves of a function and of the system -/

theorem fn_sense_quiet (s : State) (ks : List Nat) (f : Nat) : ((s.sense ks).fn f).quiet = (s.fn f).quiet := by
  rw [← fn_quiet, ← fn_quiet, quiet_sense]
  rfl
theorem sys_sense_quiet (s : State) (ks : List Nat) : (s.sense ks).sys.quiet = s.sys.quiet := by
  rw [show (s.sense ks).sys.quiet = (s.sense ks).quiet.sys from rfl, quiet_sense]
  rfl
theorem fn_sense_view {α : Type} (g : Fn → α) (hg : ∀ x, g x.quiet = g x) (s : State) (ks : List Nat) (f : Nat) :
    g ((s.sense ks).fn f) = g (s.fn f) := by
  rw [← hg, fn_sense_quiet, hg]
theorem sys_sense_view {α : Type} (g : Sys → α) (hg : ∀ x, g x.quiet = g x) (s : State) (ks : List Nat) : g (s.sense ks).sys = g s.sys := by
  rw [← hg, sys_sense_quiet, hg]
@[simp] theorem refuses_sense (s : State) (ks : List Nat) (f : Nat) : (s.sense ks).refuses f = s.refuses f := by
  have boot : (s.sense ks).bootFailed = s.bootFailed := sys_sense_view (fun y => decide (0x80 ≤ y.bootst)) (fun _ => rfl) s ks
  rw [State.refuses, State.refuses, boot, fn_sense_view Fn.refuses fun _ => rfl]
@[simp] theorem outbound_sense (s : State) (ks : List Nat) (f : Nat) : ((s.sense ks).fn f).outbound = (s.fn f).outbound :=
  fn_sense_view Fn.outbound (fun _ => rfl) s ks f
@[simp] theorem stage_sense (s : State) (ks : List Nat) (f : Nat) : ((s.sense ks).fn f).stage = (s.fn f).stage :=
  fn_sense_view Fn.stage (fun _ => rfl) s ks f
@[simp] theorem getaddr_sense (s : State) (ks : List Nat) (f : Nat) : ((s.sense ks).fn f).getaddr = (s.fn f).getaddr :=
  fn_sense_view Fn.getaddr (fun _ => rfl) s ks f
@[simp] theorem role_sense (s : State) (ks : List Nat) : (s.sense ks).sys.role = s.sys.role := sys_sense_view Sys.role (fun _ => rfl) s ks
@[simp] theorem slotT_sense (s : State) (ks : List Nat) (n : Nat) : (s.sense ks).slotT n = s.slotT n := by rw [sense_eq]; rfl
@[simp] theorem cycle_sense (s : State) (ks : List Nat) : (s.sense ks).cycle = s.cycle := by rw [sense_eq]
@[simp] theorem fresh_sense (s : State) (ks : List Nat) : (s.sense ks).fresh = s.fresh := by rw [sense_eq]
@[simp] theorem dtime_sense (s : State) (ks : List Nat) : (s.sense ks).dtime = s.dtime := by rw [sense_eq]; rfl

end Sys2Proof.Machine
end

section
/-! Division and control flow (R198, R206 to R212, R44): what completes, what is an illegal operand, and where control goes on. -/

namespace Sys2Proof.Machine
open Sys2Proof

/-! ### Division (R198) -/

/-- Reading an operand leaves the status as it was. -/
@[simp] theorem dzt_after (s : State) (r : Reg) : (s.after r).half.dzt = s.half.dzt := by simp [Half.dzt]
@[simp] theorem lpcnt_after (s : State) (r : Reg) : (s.after r).half.lpcnt = s.half.lpcnt := by simp

/-- A division whose divisor is not zero, or that does not trap on zero, completes. -/
theorem division_ready {s : State} {b a d : Reg} (h : s.Ready (opAB b a d)) (f : Word → Word → Word)
    (hz : (s.after a).val b ≠ 0#64 ∨ s.half.dzt = false) :
    division b a d f s = .next ((((s.after a).after b).give d (f (s.val a) ((s.after a).val b))).retire (opAB b a d) .next) := by
  have pass : (!(decide ((s.after a).val b = 0#64) && ((s.after a).after b).half.dzt)) = true := by
    rw [dzt_after, dzt_after]
    rcases hz with hz | hz <;> simp [hz]
  refine issueValue_ok h ?_
  rw [bind_ok (rd_run a s), bind_ok (rd_run b _), bind_ok (get_run _), bind_ok (check_ok pass _ _ _ _), pure_run]

/-- A zero divisor under status.dzt traps at the instruction with the defined result in faddr. -/
theorem division_traps {s : State} {b a d : Reg} (h : s.Ready (opAB b a d)) (f : Word → Word → Word)
    (hz : (s.after a).val b = 0#64) (hd : s.half.dzt = true) :
    division b a d f s = .next (s.takeTrap s.half.pc { code := 0x13, faddr := f (s.val a) 0#64 }) := by
  have stops : (!(decide ((s.after a).val b = 0#64) && ((s.after a).after b).half.dzt)) = false := by
    rw [dzt_after, dzt_after, hz, hd]; rfl
  refine issueValue_traps h ?_ rfl
  rw [bind_ok (rd_run a s), bind_ok (rd_run b _), bind_ok (get_run _), bind_error (check_stop stops _ _ _ _), hz]

theorem yieldsDiv_of_division {i : Reg → Reg → Reg → Instr} {f g : Word → Word → Word}
    (arm : ∀ b a d s, exec (i b a d) s = division b a d g s) (hg : ∀ x y, g x y = f x y) : YieldsDiv i f := by
  intro s b a d h hz
  rw [arm, division_ready h g hz, hg]

/-- Settles O10: the four divisions are one form over an operation each; by zero the operation gives the defined result. -/
theorem divisionResults : Obligations.DivisionResults := by
  refine ⟨⟨yieldsDiv_of_division exec_div aluDiv_eq, yieldsDiv_of_division exec_divn aluDivn_eq,
    yieldsDiv_of_division exec_rem aluRem_eq, yieldsDiv_of_division exec_remn aluRemn_eq⟩, fun s b a d h hz hd => ?_⟩
  have traps := fun f => division_traps h f hz hd
  exact ⟨(exec_div ..).trans (traps aluDiv), (exec_divn ..).trans (traps aluDivn), (exec_rem ..).trans (traps aluRem),
    (exec_remn ..).trans (traps aluRemn)⟩

/-! ### Branches and jumps (R206 to R208) -/

theorem branch_ready {s : State} {b a : Reg} (h : s.Ready { srcs := [a, b] }) (d : Word) (f : Word → Word → Bool) :
    branch d b a f s = .next (((s.after a).after b).retire { srcs := [a, b] }
      (if f (s.val a) ((s.after a).val b) then .jump (s.half.pc + d) else .next)) := by
  refine issue_ok h ?_
  rw [bind_ok (rd_run a s), bind_ok (rd_run b _), bind_ok (address_run _), pure_run, pc_after, pc_after]

theorem branchesOn_of_branch {i : BitVec 12 → Reg → Reg → Instr} {cond : Word → Word → Prop} {f : Word → Word → Bool}
    (arm : ∀ m b a s, exec (i m b a) s = branch (disp m) b a f s) (hf : ∀ x y, f x y = true ↔ cond x y) : BranchesOn i cond := by
  intro s m b a h
  refine ⟨fun hc => ?_, fun hc => ?_⟩
  · rw [arm, branch_ready h, if_pos ((hf _ _).mpr hc), displacement_eq]
  · rw [arm, branch_ready h, if_neg fun e => hc ((hf _ _).mp e)]

theorem compactBranch_ready {s : State} {a : CReg} (h : s.Ready { srcs := [a.src], len := 2 }) (m : BitVec 6) (f : Word → Bool) :
    compactBranch m a f s = .next ((s.after a.src).retire { srcs := [a.src], len := 2 }
      (if f (s.val a.src) then .jump (s.half.pc + m.signExtend 64 * 2#64) else .next)) := by
  refine issue_ok h ?_
  rw [bind_ok (rd_run _ s), bind_ok (address_run _), pure_run, pc_after, displacement_eq]

/-- A jump to an even register target. -/
theorem jumpReg_ready {s : State} {n : Nat} {a : Reg} (h : s.Ready { srcs := [a], len := n }) (ht : (s.val a).getLsbD 0 = false) :
    jumpReg n a s = .next ((s.after a).retire { srcs := [a], len := n } (.jump (s.val a))) := by
  refine issue_ok h ?_
  rw [bind_ok (rd_run a s), bind_ok (requireOperand_ok (by rw [ht]; rfl) _), pure_run]

/-- A jump to an odd register target. -/
theorem jumpReg_odd {s : State} {n : Nat} {a : Reg} (h : s.Ready { srcs := [a], len := n }) (ht : (s.val a).getLsbD 0 = true) :
    jumpReg n a s = .next (s.takeTrap s.half.pc { code := 0x21, faddr := s.wordAtPc n }) := by
  refine issue_illegalOperand h ?_
  rw [bind_ok (rd_run a s), bind_error (requireOperand_stop (by rw [ht]; rfl) _)]

/-- The parcel of `pfx`, field by field (R44). -/
theorem pfxParcel_eq (f : BitVec 4) (r : BitVec 3) (x : Bool) (g : BitVec 2) :
    pfxParcel f r x g = f ++ r ++ (if x then 1#1 else 0#1) ++ g ++ 0x26#6 := by
  have hr := r.isLt
  have hg := g.isLt
  have hx : (if x then 1#1 else 0#1).toNat = x.toNat ∧ x.toNat < 2 := by cases x <;> decide
  have sat : (if x then 2 ^ 8 else 0) = x.toNat * 2 ^ 8 := by cases x <;> rfl
  apply BitVec.eq_of_toNat_eq
  simp only [pfxParcel, sat, BitVec.toNat_append, hx.1, BitVec.toNat_ofNat]
  rw [← Nat.shiftLeft_add_eq_or_of_lt hr, ← Nat.shiftLeft_add_eq_or_of_lt (i := 1) hx.2, ← Nat.shiftLeft_add_eq_or_of_lt hg,
    ← Nat.shiftLeft_add_eq_or_of_lt (i := 6) (by decide)]
  simp only [Nat.shiftLeft_eq]
  omega

/-- Settles O14: every branch is one form over a condition, and every jump reads its address or its register. -/
theorem controlFlowResults : Obligations.ControlFlowResults := by
  refine ⟨⟨branchesOn_of_branch exec_bEq fun x y => decide_eq_true_iff, branchesOn_of_branch exec_bNe fun x y => decide_eq_true_iff,
    branchesOn_of_branch exec_bLt fun x y => by simp [BitVec.slt], branchesOn_of_branch exec_bGe fun x y => by simp [BitVec.slt],
    branchesOn_of_branch exec_bLtn fun x y => by simp [BitVec.ult], branchesOn_of_branch exec_bGen fun x y => by simp [BitVec.ult],
    fun s m a h => ⟨?beq, ?bne⟩⟩, ?j, ?cj, ?jal, ?jr, ?jrlk, ?jalr, ?pca, ?nop, ?cnop, ?pfx⟩
  case beq => rw [exec_compactBEq, execCompactBEq, compactBranch_ready h]; simp only [decide_eq_true_eq]
  case bne =>
    rw [exec_compactBNe, execCompactBNe, compactBranch_ready h]
    by_cases hz : s.val a.src = 0#64 <;> simp [hz]
  case j => exact fun s m h => (exec_j m s).trans ((issue_ok h rfl).trans (by rw [displacement_eq]))
  case cj => exact fun s m h => (exec_compactJ m s).trans ((issue_ok h rfl).trans (by rw [displacement_eq]))
  case jal =>
    intro s m h
    refine (exec_jal m s).trans (issue_ok h ?_)
    rw [bind_ok (address_run _), bind_ok (wrPush_run _ _ _), pure_run, displacement_eq]
  case jr => exact fun s a h ht => (exec_jr a s).trans (jumpReg_ready h ht)
  case jrlk => exact fun s h ht => (exec_compactJrLk s).trans (jumpReg_ready h ht)
  case jalr =>
    intro s a d h ht
    refine (exec_jalr a d s).trans (issue_ok h ?_)
    rw [bind_ok (rd_run a s), bind_ok (requireOperand_ok (by rw [ht]; rfl) _), bind_ok (address_run _), bind_ok (wrPush_run _ _ _), pure_run,
      pc_after]
  case pca => exact fun s d h => (exec_pca d s).trans (issueValue_ok h rfl)
  case nop => exact fun s h => (exec_nop s).trans (issue_ok h rfl)
  case cnop => exact fun s h => (exec_compactNop s).trans (issue_ok h rfl)
  case pfx => exact fun s f r x g h => (exec_pfx f r x g s).trans ((issue_ok h rfl).trans (by rw [pfxParcel_eq]))

/-! ### The hardware loop (R211, R212) -/

/-- A further code that a form forbids is an illegal operand, once the checks before it have passed. -/
theorem issueStop_badCode {o : Op} {s : State} (h1 : o.illegal = false) (h2 : o.iso = false) (h3 : s.half.pp = false) (hb : o.badCode = true) :
    issueStop o s = some (.trap { code := 0x21 }) := by
  simp [issueStop, h1, h2, h3, hb]

theorem Half.advance_next (h : Half) (len : Nat) :
    ((h.advance len .next).pc, (h.advance len .next).lpcnt) =
      if h.lpcnt ≠ 0#64 ∧ h.pc + BitVec.ofNat 64 len = h.lpend then
        if h.lpcnt = 1#64 then (h.pc + BitVec.ofNat 64 len, 0#64) else (h.lpbeg, h.lpcnt - 1#64)
      else (h.pc + BitVec.ofNat 64 len, h.lpcnt) := by
  simp only [Half.advance]
  split
  · split <;> rfl
  · rfl
theorem Half.advance_jump (h : Half) (len : Nat) (t : Word) :
    ((h.advance len (.jump t)).pc, (h.advance len (.jump t)).lpcnt) =
      (t, if h.lpbeg.toNat ≤ t.toNat ∧ t.toNat < h.lpend.toNat then h.lpcnt else 0#64) := by
  simp only [Half.advance]
  by_cases hc : h.lpcnt = 0#64 <;> by_cases hin : h.lpbeg.toNat ≤ t.toNat ∧ t.toNat < h.lpend.toNat <;> simp [hc, hin]

/-- Settles O15: lp sets the loop up, the step to the next address follows it, and what is malformed stops before it has an effect. -/
theorem loopResults : Obligations.LoopResults := by
  refine ⟨fun s len a h hl hc => ?lp, fun h len t => ?advance, fun s a h ht => (exec_jr a s).trans (jumpReg_odd h ht), ?jalr,
    fun s h ht => (exec_compactJrLk s).trans (jumpReg_odd h ht), ?malformed⟩
  case lp =>
    have ready : s.Ready { srcs := [a], badCode := decide (len = 0#12) || decide (s.half.lpcnt ≠ 0#64) } := by simpa [hl, hc] using h
    have fin : s.half.pc + 4#64 + BitVec.ofNat 64 (2 * len.toNat) = s.half.pc + 4#64 + len.zeroExtend 64 * 2#64 := by
      congr 1; apply BitVec.eq_of_toNat_eq; simp; omega
    refine ⟨fun hz => (exec_lp len a s).trans (issue_ok ready ?_), fun hz => (exec_lp len a s).trans (issue_ok ready ?_)⟩
    · rw [bind_ok (rd_run a s), bind_ok (address_run _), if_pos hz, pure_run, pc_after, fin]
    · rw [bind_ok (rd_run a s), bind_ok (address_run _), if_neg hz, bind_ok (update_run _ _), pure_run, pc_after, fin]
  case advance =>
    have next := Prod.ext_iff.mp (h.advance_next len)
    have jump := Prod.ext_iff.mp (h.advance_jump len t)
    simp only at next jump
    rw [next.1, next.2, jump.1, jump.2]
    refine ⟨fun hz => by simp [hz], fun he => by simp [he], fun he hc => ?_, fun he hc => by simp [he, hc], rfl, fun h1 h2 => by simp [h1, h2],
      fun ho => if_neg (by omega)⟩
    have h0 : h.lpcnt ≠ 0#64 := fun e => by simp [e] at hc
    have h1 : h.lpcnt ≠ 1#64 := fun e => by simp [e] at hc
    simp [he, h0, h1]
  case jalr =>
    intro s a d h ht
    refine (exec_jalr a d s).trans (issue_illegalOperand h ?_)
    rw [bind_ok (rd_run a s), bind_error (requireOperand_stop (by rw [ht]; rfl) _)]
  case malformed =>
    exact fun s len a hk hp hl => (exec_lp len a s).trans ((issue_stopped hk (issueStop_badCode rfl rfl hp (by simpa using hl)) _).trans (stopped_illegalOperand s 4))

end Sys2Proof.Machine
end

section
/-! What stops the issue of an instruction, in the order of R38, and the compact register codes (R39, R41). -/

namespace Sys2Proof.Machine
open Sys2Proof

/-! ### The stops, one after the other (R34, R38, R152) -/

theorem issueStop_illegal {o : Op} (s : State) (h : o.illegal = true) : issueStop o s = some (.trap { code := 0x20 }) := by
  simp [issueStop, h]
theorem issueStop_isolated {o : Op} {s : State} (h1 : o.illegal = false) (h2 : o.iso = true) (h3 : s.reflexSide = true) :
    issueStop o s = some (.trap { code := 0x23 }) := by
  simp [issueStop, h1, h2, h3]
theorem issueStop_prefix {o : Op} {s : State} (h1 : o.illegal = false) (h2 : o.iso = false) (hp : s.half.pp = true)
    (hx : o.pfx s.half.pfxsave = false) : ∃ t, issueStop o s = some (.trap t) ∧ t.code = 0x22 := by
  refine ⟨{ code := 0x22, faddr := BitVec.ofNat 64 ((s.wordAtPc o.len).toNat + 2 ^ 32 * s.half.pfxsave.toNat), own := true }, ?_, rfl⟩
  simp [issueStop, h1, h2, hp, hx]

/-- The checks that come before an instruction waits for its operands have passed: those of R38, and the word does not straddle the loop's
end (R211). -/
def State.Decoded (s : State) (o : Op) : Prop :=
  o.illegal = false ∧ (o.iso = true → s.reflexSide = false) ∧ (s.half.pp = true → o.pfx s.half.pfxsave = true)
  ∧ (∀ r ∈ o.srcs, r.srcOk = true) ∧ (∀ r ∈ o.dsts, r.dstOk = true) ∧ o.badCode = false
  ∧ (s.half.lpcnt = 0#64 ∨ s.half.lpend.toNat ≤ s.half.pc.toNat ∨ s.half.pc.toNat + o.len ≤ s.half.lpend.toNat)

/-- After those checks, operands that are not there are waited for, and a poisoned one traps. -/
theorem issueStop_decoded {s : State} {o : Op} (h : s.Decoded o) :
    issueStop o s =
      if s.half.queuesReady o = true ∧ s.half.loadsReady o = true then
        (s.half.poisonedNear o).map fun i => .trap { code := 0x28, reason := 2, faddr := BitVec.ofNat 64 i.val }
      else some (.wait (s.half.operandWait o)) := by
  obtain ⟨h1, h2, h3, h4, h5, h6, h7⟩ := h
  have iso : (o.iso && s.reflexSide) = false := by
    cases hi : o.iso with
    | false => rfl
    | true => rw [h2 hi]; rfl
  have pre : (s.half.pp && !o.pfx s.half.pfxsave) = false := by
    cases hp : s.half.pp with
    | false => rfl
    | true => rw [h3 hp]; rfl
  have codes : (o.srcs.all Reg.srcOk && o.dsts.all Reg.dstOk) = true := by
    rw [Bool.and_eq_true, List.all_eq_true, List.all_eq_true]; exact ⟨h4, h5⟩
  have straddle : (decide (s.half.lpcnt ≠ 0#64) && decide (s.half.pc.toNat < s.half.lpend.toNat)
      && decide (s.half.lpend.toNat < s.half.pc.toNat + o.len)) = false := by
    rw [← Bool.not_eq_true]
    simp only [Bool.and_eq_true, decide_eq_true_eq]
    rintro ⟨⟨g1, g2⟩, g3⟩
    rcases h7 with h7 | h7 | h7
    · exact g1 h7
    · omega
    · omega
  unfold issueStop
  simp only [h1, iso, pre, codes, h6, straddle]
  by_cases hr : s.half.queuesReady o = true ∧ s.half.loadsReady o = true
  · rw [if_pos hr]
    simp only [hr.1, hr.2]
    cases s.half.poisonedNear o <;> rfl
  · rw [if_neg hr]
    have : (!(s.half.queuesReady o && s.half.loadsReady o)) = true := by
      rw [Bool.not_eq_true', Bool.and_eq_false_iff, ← Bool.not_eq_true, ← Bool.not_eq_true]; tauto
    simp only [this]
    rfl

theorem issueStop_waits {s : State} {o : Op} (h : s.Decoded o) (hw : s.half.queuesReady o = false ∨ s.half.loadsReady o = false) :
    issueStop o s = some (.wait (s.half.operandWait o)) := by
  rw [issueStop_decoded h, if_neg]
  rcases hw with hw | hw <;> simp [hw]

/-! ### What an instruction waits for (R34, R62, R153) -/

section
variable {h : Half} {o : Op}

/-- A queue lacks entries or room, or the value of an entry to be read has not come. -/
theorem queuesReady_eq_false (i : Fin 8) (hi : (h.q.get i).length < countReg o.srcs (.q i)
      ∨ (0 < countReg o.dsts (.q i) ∧ 8 < (h.q.get i).length + countReg o.dsts (.q i))
      ∨ ∃ w ∈ h.qwait, w.1 = i.val ∧ w.2.1 < countReg o.srcs (.q i)) : h.queuesReady o = false := by
  unfold Half.queuesReady
  rw [List.all_eq_false]
  refine ⟨i, List.mem_finRange i, ?_⟩
  simp only [Bool.and_eq_true, Bool.or_eq_true, Bool.not_eq_true', List.any_eq_false, decide_eq_true_eq]
  rintro ⟨⟨g1, g2⟩, g3⟩
  obtain hi | ⟨hi1, hi2⟩ | ⟨w, hw, hw1, hw2⟩ := hi
  · omega
  · omega
  · exact g2 w hw ⟨hw1, hw2⟩

/-- An outstanding load holds the context, or a register that the instruction names waits for it. -/
theorem loadsReady_eq_false_of_load (l : PendLoad) (hm : l ∈ h.loads)
    (hl : l.blocking = true ∨ (l.d ≠ .z ∧ l.d ∈ o.srcs) ∨ (l.d.held = true ∧ l.d ∈ o.dsts)) : h.loadsReady o = false := by
  unfold Half.loadsReady
  rw [Bool.and_eq_false_iff]
  refine .inl (List.all_eq_false.mpr ⟨l, hm, ?_⟩)
  rcases hl with hl | ⟨h1, h2⟩ | ⟨h1, h2⟩
  · simp [hl]
  · simp [h1, h2]
  · simp [h1, h2]

/-- A push register that the instruction reads waits for its value (R153). -/
theorem loadsReady_eq_false_of_push (k : Fin 4) (hk : h.ypend.get k ≠ 0) (hm : .y k ∈ o.srcs) : h.loadsReady o = false := by
  unfold Half.loadsReady
  rw [Bool.and_eq_false_iff]
  exact .inr (List.all_eq_false.mpr ⟨k, List.mem_finRange k, by simp [hk, hm]⟩)

/-! ### Poisoned near registers (R152) -/

theorem poisonedNear_eq_none (hc : ∀ i : Fin 8, h.npoison.getLsbD i.val = true → .n i ∉ o.srcs) : h.poisonedNear o = none := by
  unfold Half.poisonedNear
  split
  · rfl
  · exact List.find?_eq_none.mpr fun i _ => by simpa using hc i

/-- The lowest poisoned near register that is read. -/
theorem poisonedNear_eq_some {i : Fin 8} (ho : o.readsPoison = false) (hp : h.npoison.getLsbD i.val = true) (hm : .n i ∈ o.srcs)
    (hl : ∀ j : Fin 8, j < i → h.npoison.getLsbD j.val = true → .n j ∉ o.srcs) : h.poisonedNear o = some i := by
  unfold Half.poisonedNear
  rw [if_neg (by simp [ho])]
  rw [List.find?_eq_some_iff_getElem]
  refine ⟨by simp [hp, hm], i.val, by simp, by simp, fun j hj => ?_⟩
  have low := hl ⟨j, by omega⟩ hj
  cases hb : h.npoison.getLsbD j <;> simp_all

end

/-! ### Compact register codes (R39, R41) -/

theorem CReg.near {c : CReg} (h : c.val < 8) : c.src = .n ⟨c.val, h⟩ ∧ c.dst = .n ⟨c.val, h⟩ := by
  have code : Fin.ofNat 8 c.val = ⟨c.val, h⟩ := Fin.ext (Nat.mod_eq_of_lt h)
  exact ⟨by rw [CReg.src, if_pos h, code], by rw [CReg.dst, if_pos h, code]⟩
theorem CReg.push {c : CReg} (h1 : 8 ≤ c.val) (h2 : c.val < 12) :
    c.src = .y (Fin.ofNat 4 (c.val - 8)) ∧ c.dst = .y (Fin.ofNat 4 (c.val - 8)) := by
  have code : Fin.ofNat 4 c.val = Fin.ofNat 4 (c.val - 8) := Fin.ext (by simp only [Fin.val_ofNat]; omega)
  have h : ¬ c.val < 8 := by omega
  exact ⟨by rw [CReg.src, if_neg h, if_pos h2, code], by rw [CReg.dst, if_neg h, if_pos h2, code]⟩
theorem CReg.queue {c : CReg} (h : 12 ≤ c.val) : c.src = .q (Fin.ofNat 8 (c.val - 8)) ∧ c.dst = .q (Fin.ofNat 8 (c.val - 12)) := by
  have h1 : ¬ c.val < 8 := by omega
  have h2 : ¬ c.val < 12 := by omega
  exact ⟨by rw [CReg.src, if_neg h1, if_neg h2], by rw [CReg.dst, if_neg h1, if_neg h2]⟩

/-- Settles O8: the checks of issue in their order, each with the outcome that it decides. -/
theorem issueStops : Obligations.IssueStops := by
  refine ⟨fun b a d => ⟨?add, ?fadd, ?share⟩, fun s o => ⟨issueStop_illegal s, issueStop_isolated, issueStop_prefix, ?decoded⟩,
    fun c => ⟨CReg.near, fun h1 h2 => ⟨(CReg.push h1 h2).1, fun s o g1 g2 g3 hm => ?_⟩, CReg.queue⟩⟩
  case add =>
    intro s x hk hx
    rw [exec_add, execAdd, binary, issueValue]
    exact issue_stopped hk hx _
  case fadd =>
    intro s x hk hx
    rw [exec_fadd, execFadd, fpBinary, fpForm, issueValue]
    exact issue_stopped hk hx _
  case share => exact fun s x hk hx => (exec_lvShare b a d s).trans (issue_stopped hk hx _)
  case decoded =>
    intro h h1 h2 h3 h4 h5 h6 h7
    have hd : s.Decoded o := ⟨h1, h2, h3, h4, h5, h6, h7⟩
    refine ⟨fun i hi => issueStop_waits hd (.inl (queuesReady_eq_false i hi)),
      fun l hm hl => issueStop_waits hd (.inr (loadsReady_eq_false_of_load l hm hl)),
      fun k hk hm => issueStop_waits hd (.inr (loadsReady_eq_false_of_push k hk hm)), fun hq hl => ⟨fun i ho hp hm hlow => ?_, fun hc => ?_⟩⟩
    · rw [issueStop_decoded hd, if_pos ⟨hq, hl⟩, poisonedNear_eq_some ho hp hm hlow]; rfl
    · rw [issueStop_decoded hd, if_pos ⟨hq, hl⟩, poisonedNear_eq_none hc]; rfl
  · rw [(CReg.push h1 h2).2] at hm
    exact issueStop_forbiddenCode g1 g2 g3 ⟨_, .inr ⟨hm, rfl⟩⟩

end Sys2Proof.Machine
end

section
/-! The decoder on words that the spec writes out, and the state after reset. -/

namespace Sys2Proof.Machine
open Sys2Proof

/-- Settles O2: each word is decoded by evaluation. -/
theorem decodeWords : Obligations.DecodeWords := by
  unfold Obligations.DecodeWords
  decide

/-! ### Reset -/

/-- Reset lists no tile, so each is the default one. -/
theorem tile_reset (t : Nat) : State.reset.tile t = {} := rfl
/-- Every register half of the default tile is the default half. -/
theorem slot_reset (t : Nat) (c : Fin 8) (h : Bool) : ((State.reset.tile t).ctx c).slot h = {} := by
  rw [tile_reset]
  simp [Tile.ctx, Ctx.slot, Vector.get_eq_getElem]

/-- Settles O6: the state after reset is the default one, field by field. -/
theorem resetState : Obligations.ResetState := by
  refine ⟨Memory.wf_nil, fun k => rfl, rfl, rfl, rfl, rfl, rfl, rfl, rfl, rfl, rfl, rfl, rfl, rfl, fun t c h => ?_, fun f => ?_⟩
  · dsimp only
    rw [slot_reset]
    simp [Vector.get_eq_getElem]
  · simp [State.fn, Vector.get_eq_getElem, State.reset]

end Sys2Proof.Machine
end

section
/-! Scalar FP32 (R202 to R205): each form reads its operands, computes under the effective mode, ORs its flags and writes its result. -/

namespace Sys2Proof.Machine
open Sys2Proof

/-! ### The shapes of the forms of major 10 -/

/-- A form of major 10 completes with the result and the flags of its body. -/
theorem fpForm_ready {s t : State} {o : Op} {d : Reg} {body : RMode → Exec (Nat × Flags)} {r : Nat × Flags}
    (h : s.Ready { o with pfx := onlyRnd }) (hb : body s.half.mode s = .ok (r, t)) :
    fpForm o d body s = .next (((t.flag r.2).give d (BitVec.ofNat 64 r.1)).retire o .next) :=
  issueValue_ok h (by rw [bind_ok (get_run s), bind_ok hb, bind_ok (raiseFlags_run _ _), pure_run])

theorem yieldsFp2_of_fpBinary {i : Reg → Reg → Reg → Instr} {f g : RMode → Nat → Nat → Nat × Flags}
    (arm : ∀ b a d s, exec (i b a d) s = fpBinary b a d g s) (hg : ∀ m x y, g m x y = f m x y := by exact fun _ _ _ => rfl) : YieldsFp2 i f := by
  obtain rfl : g = f := funext fun m => funext fun x => funext fun y => hg m x y
  intro s b a d h
  rw [arm, fpBinary]
  exact fpForm_ready h rfl

theorem yieldsFp1_of_fpUnary {i : Reg → Reg → Instr} {f g : RMode → Word → Nat × Flags}
    (arm : ∀ a d s, exec (i a d) s = fpUnary a d g s) (hg : ∀ m x, g m x = f m x := by exact fun _ _ => rfl) : YieldsFp1 i f := by
  obtain rfl : g = f := funext fun m => funext fun x => hg m x
  intro s a d h
  rw [arm, fpUnary]
  exact fpForm_ready h rfl

/-- A fused form reads d first, which leaves the other operands as they are. -/
theorem yieldsFp3_of_fpFused {i : Reg → Reg → Reg → Instr} {f : RMode → Nat → Nat → Nat → Nat × Flags}
    (arm : ∀ b a d s, exec (i b a d) s = fpFused b a d f s) : YieldsFp3 i f := by
  intro s b a d h
  have hd : d.dstGN = true := by simpa using ready_badCode h
  have read : ∀ r, (s.after d).val r = s.val r ∧ (s.after d).after r = s.after r := fun r =>
    ⟨after_val_dstGN s d r hd, after_after_dstGN s d r hd⟩
  rw [arm, fpFused]
  refine fpForm_ready (o := { srcs := [d, a, b], dsts := [d], badCode := !d.dstGN }) h ?_
  rw [bind_ok (rd_run d s), bind_ok (rd_run a _), bind_ok (rd_run b _), pure_run, (read a).1, (read a).2]
  rfl

/-- A narrowing records the first NaN. -/
theorem fpNarrow_ready {s : State} {a d : Reg} {dst : Fmt} {r : Nat × Flags × Option Nat} (h : s.Ready { opA a d with pfx := onlyRnd })
    (hr : fConvert f32 dst s.half.mode (fp32 (s.val a)) = r) :
    fpNarrow a d dst s = .next (((((s.after a).noteNaN r.2.2).flag r.2.1).give d (BitVec.ofNat 64 r.1)).retire (opA a d) .next) := by
  refine fpForm_ready (r := (r.1, r.2.1)) h ?_
  rw [bind_ok (rd_run a s)]
  simp only [hr]
  rfl

/-! ### Results of one bit, of an integer, and of the sign alone -/

theorem boolResult_eq (r : Bool × Flags) : boolResult r = (r.1.toNat, r.2) := by
  obtain ⟨b, f⟩ := r
  cases b <;> rfl
theorem intResult_eq (r : Int × Flags) : intResult r = ((BitVec.ofInt 64 r.1).toNat, r.2) := by
  rw [intResult, wrapInt_eq]

theorem fNeg_fp32 (x : Word) : fNeg f32 (fp32 x) = ((x.truncate 32) ^^^ 0x80000000#32).toNat := by
  have hx : fp32 x < 2 ^ 32 := Nat.mod_lt _ (by decide)
  have low : (fp32 x ^^^ 2 ^ 31) % 2 ^ 31 = fp32 x % 2 ^ 31 := by rw [Nat.xor_mod_two_pow, Nat.mod_self, Nat.xor_zero]
  have high : (fp32 x ^^^ 2 ^ 31) / 2 ^ 31 = fp32 x / 2 ^ 31 ^^^ 1 := Nat.xor_div_two_pow
  show (if decide (2 ^ 31 ≤ fp32 x) = true then fp32 x - 2 ^ 31 else fp32 x + 2 ^ 31) = fp32 x ^^^ 2 ^ 31
  simp only [decide_eq_true_eq]
  split
  · have one : fp32 x / 2 ^ 31 = 1 := by omega
    rw [one, Nat.xor_self] at high
    omega
  · have zero : fp32 x / 2 ^ 31 = 0 := by omega
    rw [zero, Nat.zero_xor] at high
    omega
theorem fp32_abs (x : Word) : fp32 x % 2 ^ 31 = ((x.truncate 32) &&& 0x7FFFFFFF#32).toNat := by
  have mask : (0x7FFFFFFF#32).toNat = 2 ^ 31 - 1 := rfl
  rw [BitVec.toNat_and, mask, Nat.and_two_pow_sub_one_eq_mod]
  rfl

/-- Settles O12: every form of major 10 has one of the four shapes. -/
theorem scalarFpResults : Obligations.ScalarFpResults := by
  refine ⟨?arithmetic, ?conversions⟩
  case arithmetic =>
    exact ⟨yieldsFp2_of_fpBinary exec_fadd, yieldsFp2_of_fpBinary exec_fsub, yieldsFp2_of_fpBinary exec_fmul,
      yieldsFp2_of_fpBinary exec_fdiv, yieldsFp2_of_fpBinary exec_fmin, yieldsFp2_of_fpBinary exec_fmax,
      yieldsFp2_of_fpBinary exec_feq fun _ _ _ => boolResult_eq _, yieldsFp2_of_fpBinary exec_flt fun _ _ _ => boolResult_eq _,
      yieldsFp2_of_fpBinary exec_fle fun _ _ _ => boolResult_eq _,
      yieldsFp3_of_fpFused exec_fmadd, yieldsFp3_of_fpFused exec_fmsub, yieldsFp3_of_fpFused exec_fnmadd,
      yieldsFp1_of_fpUnary exec_fsqrt, yieldsFp1_of_fpUnary exec_fclass,
      yieldsFp1_of_fpUnary exec_fneg fun _ x => by rw [fNeg_fp32]; rfl,
      yieldsFp1_of_fpUnary exec_fabs fun _ x => by rw [fp32_abs]; rfl⟩
  case conversions =>
    exact ⟨yieldsFp1_of_fpUnary exec_fcvtI64F32 fun _ _ => intResult_eq _, yieldsFp1_of_fpUnary exec_fcvtN64F32 fun _ _ => intResult_eq _,
      yieldsFp1_of_fpUnary exec_fcvtI32F32 fun _ _ => intResult_eq _, yieldsFp1_of_fpUnary exec_fcvtN32F32 fun _ _ => intResult_eq _,
      yieldsFp1_of_fpUnary exec_fcvtF32I64, yieldsFp1_of_fpUnary exec_fcvtF32N64, yieldsFp1_of_fpUnary exec_fcvtF32Bf16,
      yieldsFp1_of_fpUnary exec_fcvtF32F16,
      fun s a d h => (exec_fcvtBf16F32 a d s).trans (fpNarrow_ready h rfl), fun s a d h => (exec_fcvtF16F32 a d s).trans (fpNarrow_ready h rfl)⟩

end Sys2Proof.Machine
end

section
/-! One step without an input (R333, R335): the context whose turn it is runs what its pc decodes to, and the turn goes on. -/

namespace Sys2Proof.Machine
open Sys2Proof

/-! ### The turn -/

theorem step_of_pick {s : State} {t : Nat} {c : Fin 8} (hi : s.inputs = []) (he : s.evTurn = true → s.nextEvent = none)
    (hp : s.pick runFetched = some (t, c)) : step s = s.issueOn runFetched t c := by
  have quiet : (if s.evTurn then s.nextEvent else none) = none := by
    split
    · exact he ‹_›
    · rfl
  simp only [step, hi, State.proceed, quiet, hp]

/-- An empty budget takes the place of the instruction (R335). -/
theorem issueOn_noBudget {run : Meaning} {s : State} {t : Nat} {c : Fin 8} (hb : (s.at t c).half.budget = 0#64) :
    s.issueOn run t c = .next (((s.at t c).takeTrap (s.at t c).half.pc { code := 0x29 }).afterIssue t c (s.turnOf t)) := by
  simp only [State.issueOn, if_pos hb]
/-- So does a bound trap that waits (R484). -/
theorem issueOn_boundTrap {run : Meaning} {s u : State} {t : Nat} {c : Fin 8} (hb : (s.at t c).half.budget ≠ 0#64)
    (hu : (s.at t c).takeBoundTrap t c = some u) : s.issueOn run t c = .next (u.afterIssue t c (s.turnOf t)) := by
  simp only [State.issueOn, if_neg hb, hu]
theorem issueOn_runs {run : Meaning} {s : State} {t : Nat} {c : Fin 8} (hb : (s.at t c).half.budget ≠ 0#64)
    (hn : (s.at t c).takeBoundTrap t c = none) :
    s.issueOn run t c = match run (s.at t c) with
      | .next u => .next (u.afterIssue t c (s.turnOf t)) | .fault f => .fault f | .refused r => .refused r := by
  unfold State.issueOn
  rw [if_neg hb, hn] <;> rfl

/-! ### Fetch (R25 to R27, R209) -/

section
variable {s : State}

/-- The length of the word at the pc (R25). -/
def State.wordLen (s : State) : Nat := if s.parcelAt s.half.pc.toNat % 4 = 3 then 4 else 2

theorem runFetched_beyond (h : s.codeLen < s.half.pc.toNat + s.wordLen) : runFetched s = .next s.fetchFault := by
  have : s.fetch = .beyond := if_pos h
  simp only [runFetched, this]
theorem runFetched_decoded (h : s.half.pc.toNat + s.wordLen ≤ s.codeLen) {r : Decoded}
    (hd : decodeParcels (s.parcelAt s.half.pc.toNat) (some (s.parcelAt (s.half.pc.toNat + 2))) = .ok r) : runFetched s = exec r.instr s := by
  have : s.fetch = .instr r.instr := by
    unfold State.fetch
    dsimp only
    rw [if_neg (by unfold State.wordLen at h; omega), hd]
  simp only [runFetched, this]
theorem runFetched_undefined (h : s.half.pc.toNat + s.wordLen ≤ s.codeLen) {e : DecodeError}
    (hd : decodeParcels (s.parcelAt s.half.pc.toNat) (some (s.parcelAt (s.half.pc.toNat + 2))) = .error e) :
    runFetched s = exec (.illegalInstruction (BitVec.ofNat 32 (if s.parcelAt s.half.pc.toNat % 4 = 3
      then s.parcelAt s.half.pc.toNat + 65536 * s.parcelAt (s.half.pc.toNat + 2) else s.parcelAt s.half.pc.toNat))) s := by
  have : s.fetch = .undefined (BitVec.ofNat 32 (if s.parcelAt s.half.pc.toNat % 4 = 3
      then s.parcelAt s.half.pc.toNat + 65536 * s.parcelAt (s.half.pc.toNat + 2) else s.parcelAt s.half.pc.toNat)) := by
    unfold State.fetch
    dsimp only
    rw [if_neg (by unfold State.wordLen at h; omega), hd]
  simp only [runFetched, this]

end

/-! ### After the instruction (R333) -/

theorem ctx_issueTurn (s : State) (t : Nat) (c : Fin 8) (d : Int × Int × Bool × Bool) (u : Nat) (k : Fin 8) :
    ((s.issueTurn t c d).tile u).ctx k = (s.tile u).ctx k := by
  refine tile_modTile_view (fun x => x.ctx k) s t u _ fun x => ?_
  dsimp only
  split <;> rfl
theorem half_wake (x : Tile) (k : Fin 8) (h : Bool) : ((x.wake.ctx k).slot h).half = ((x.ctx k).slot h).half := by
  cases h <;> simp [Tile.wake, Tile.ctx, Ctx.slot, Vector.get_eq_getElem]
theorem half_afterIssue (u : State) (t : Nat) (c : Fin 8) (d : Int × Int × Bool × Bool) (t' : Nat) (c' : Fin 8) (h : Bool) :
    ((((u.afterIssue t c d).tile t').ctx c').slot h).half = (((u.tile t').ctx c').slot h).half := by
  unfold State.afterIssue
  split
  · rfl
  · refine (tile_modTile_view (fun x => ((x.ctx c').slot h).half) (u.issueTurn t c d) t t' Tile.wake fun x => half_wake x c' h).trans ?_
    simp only [ctx_issueTurn]
@[simp] theorem mem_afterIssue (u : State) (t : Nat) (c : Fin 8) (d : Int × Int × Bool × Bool) : (u.afterIssue t c d).mem = u.mem := by
  unfold State.afterIssue
  split <;> rfl

/-- Settles O4: the step is that of the context picked, and what it runs is what the fetch finds. -/
theorem stepRunsDecoded : Obligations.StepRunsDecoded := by
  refine ⟨fun s t c hi he hp => ?_, fun u t c d => ⟨mem_afterIssue u t c d, half_afterIssue u t c d⟩⟩
  rw [step_of_pick hi he hp]
  refine ⟨fun hb hn => ?runs, issueOn_noBudget, fun u hb hu => issueOn_boundTrap hb hu⟩
  rw [issueOn_runs hb hn]
  refine ⟨fun hl => by rw [runFetched_beyond hl], fun hl r hd => ?_, fun hl e hd u hu => by rw [runFetched_undefined hl hd, hu]⟩
  rw [runFetched_decoded hl hd]
  exact ⟨fun u hu => by rw [hu], fun f hf => by rw [hf], fun x hx => by rw [hx]⟩

end Sys2Proof.Machine
end

section
/-! Special cases of scalar FP32 (R182, R185, R203): what is no NaN, and which operands give a NaN or an exception. -/

namespace Sys2Proof.Machine
open Sys2Proof

/-! ### Patterns of FP32 (R171) -/

section
variable {x : Nat}

theorem f32_isNaN_iff : f32.isNaN x = true ↔ x / 2 ^ 23 % 2 ^ 8 = 255 ∧ x % 2 ^ 23 ≠ 0 := by
  rw [Fmt.isNaN, Bool.and_eq_true, decide_eq_true_eq, decide_eq_true_eq]; rfl
theorem f32_isInf_iff : f32.isInf x = true ↔ x / 2 ^ 23 % 2 ^ 8 = 255 ∧ x % 2 ^ 23 = 0 := by
  rw [Fmt.isInf, Bool.and_eq_true, decide_eq_true_eq, decide_eq_true_eq]; rfl
theorem f32_isZero_iff : f32.isZero x = true ↔ x / 2 ^ 23 % 2 ^ 8 = 0 ∧ x % 2 ^ 23 = 0 := by
  rw [Fmt.isZero, Bool.and_eq_true, decide_eq_true_eq, decide_eq_true_eq]; rfl
theorem f32_isNeg_iff : f32.isNeg x = true ↔ 2 ^ 31 ≤ x := by rw [Fmt.isNeg, decide_eq_true_eq]; rfl

/-- A zero is neither a NaN nor an infinity. -/
theorem f32_zero (h : f32.isZero x = true) : f32.isNaN x = false ∧ f32.isInf x = false := by
  rw [f32_isZero_iff] at h
  rw [← Bool.not_eq_true, ← Bool.not_eq_true, f32_isNaN_iff, f32_isInf_iff]
  omega
/-- An infinity is neither a NaN nor a zero. -/
theorem f32_inf (h : f32.isInf x = true) : f32.isNaN x = false ∧ f32.isZero x = false := by
  rw [f32_isInf_iff] at h
  rw [← Bool.not_eq_true, ← Bool.not_eq_true, f32_isNaN_iff, f32_isZero_iff]
  omega
/-- Two infinities that differ have unlike signs. -/
theorem f32_inf_ne {y : Nat} (hx : x < 2 ^ 32) (hy : y < 2 ^ 32) (h1 : f32.isInf x = true) (h2 : f32.isInf y = true) (hn : x ≠ y) :
    (f32.isNeg x != f32.isNeg y) = true := by
  rw [f32_isInf_iff] at h1 h2
  rw [bne_iff_ne, ne_eq, Bool.eq_iff_iff, f32_isNeg_iff, f32_isNeg_iff]
  omega

end

/-- The quiet bit of a NaN set (R185). -/
theorem f32_quiet (a : Nat) : f32.quiet a = a ||| 0x400000 := by
  have low : (a ||| 2 ^ 22) % 2 ^ 22 = a % 2 ^ 22 := by rw [Nat.or_mod_two_pow, Nat.mod_self, Nat.or_zero]
  have high : (a ||| 2 ^ 22) / 2 ^ 22 = a / 2 ^ 22 ||| 1 := Nat.or_div_two_pow
  have bit : a / 2 ^ 22 ||| 1 = a / 2 ^ 22 / 2 * 2 + 1 := by
    have h1 : (a / 2 ^ 22 ||| 1) / 2 ^ 1 = a / 2 ^ 22 / 2 ^ 1 ||| 0 := Nat.or_div_two_pow
    have h2 : (a / 2 ^ 22 ||| 1) % 2 ^ 1 = a / 2 ^ 22 % 2 ^ 1 ||| 1 := Nat.or_mod_two_pow
    rw [Nat.or_zero] at h1
    have odd : a / 2 ^ 22 % 2 ^ 1 ||| 1 = 1 := by
      rcases Nat.mod_two_eq_zero_or_one (a / 2 ^ 22) with h | h <;> rw [pow_one, h] <;> rfl
    omega
  show (if a % 2 ^ 23 < 2 ^ 22 then a + 2 ^ 22 else a) = a ||| 2 ^ 22
  split <;> omega

/-! ### Rounding gives no NaN (R178, R179) -/

/-- A shift that leaves at most n bits rounds to at most 2^n. -/
theorem roundShift_le (md : RMode) (neg : Bool) {m n : Nat} {sh : Int} (sticky : Bool) (hn : (Nat.log2 m : Int) + 1 ≤ n + sh) :
    (roundShift md neg m sh sticky).1 ≤ 2 ^ n := by
  have hm : m < 2 ^ (Nat.log2 m + 1) := Nat.lt_log2_self
  have up : ∀ (c : Prop) [Decidable c] (q : Nat), q < 2 ^ n → (if c then q + 1 else q) ≤ 2 ^ n := by intro c _ q hq; split <;> omega
  unfold roundShift
  split
  case isTrue hs =>
    refine up _ _ ?_
    calc m * 2 ^ (-sh).toNat < 2 ^ (Nat.log2 m + 1) * 2 ^ (-sh).toNat := Nat.mul_lt_mul_of_pos_right hm (by positivity)
      _ = 2 ^ (Nat.log2 m + 1 + (-sh).toNat) := (Nat.pow_add ..).symm
      _ ≤ 2 ^ n := Nat.pow_le_pow_right (by decide) (by omega)
  case isFalse hs =>
    refine up _ _ (Nat.div_lt_of_lt_mul ?_)
    calc m < 2 ^ (Nat.log2 m + 1) := hm
      _ ≤ 2 ^ (sh.toNat + n) := Nat.pow_le_pow_right (by decide) (by omega)
      _ = 2 ^ sh.toNat * 2 ^ n := Nat.pow_add ..

/-- A sign, an exponent below the highest and a significand put together are no NaN. -/
theorem f32_pattern_notNaN (neg : Bool) {b : Int} {q : Nat} (hq : q < 2 ^ 24) (hb : b < 255) :
    f32.isNaN (f32.zero neg + if q < 2 ^ 23 then q else b.toNat * 2 ^ 23 + (q - 2 ^ 23)) = false := by
  have hs : f32.zero neg = 0 ∨ f32.zero neg = 2 ^ 31 := by cases neg <;> decide
  rw [← Bool.not_eq_true, f32_isNaN_iff]
  split <;> omega

/-- What rounding delivers is no NaN. -/
theorem roundTo_notNaN (md : RMode) (neg : Bool) (m : Nat) (e : Int) (sticky : Bool) : f32.isNaN (roundTo f32 md neg m e sticky).1 = false := by
  unfold roundTo
  split
  · cases neg <;> decide
  · dsimp only
    have bound : ∀ lsb : Int, e + (Nat.log2 m : Int) - 23 ≤ lsb → (roundShift md neg m (lsb - e) sticky).1 ≤ 2 ^ 24 :=
      fun lsb h => roundShift_le md neg sticky (by omega)
    generalize hl : max (e + (Nat.log2 m : Int) - ((f32.fb : Int) + 1 - 1)) (1 - (f32.bias : Int) - ((f32.fb : Int) + 1 - 1)) = lsb
    have hq := bound lsb (by rw [← hl]; simp only [f32]; omega)
    generalize roundShift md neg m (lsb - e) sticky = r at hq ⊢
    obtain ⟨q, inexact⟩ := r
    have hq' : (if decide (2 ^ (f32.fb + 1) ≤ q) = true then q / 2 else q) < 2 ^ 24 := by
      have cut : 2 ^ (f32.fb + 1) = 2 ^ 24 := rfl
      by_cases hc : 2 ^ (f32.fb + 1) ≤ q
      · rw [if_pos (decide_eq_true hc)]; dsimp only at hq; omega
      · rw [if_neg (by rw [decide_eq_true_eq]; exact hc)]; omega
    generalize (if decide (2 ^ (f32.fb + 1) ≤ q) = true then q / 2 else q) = q' at hq' ⊢
    generalize hb : (if q' < 2 ^ f32.fb then (0 : Int) else _) = b
    split
    · split <;> cases neg <;> decide
    · next hm => exact f32_pattern_notNaN neg hq' (by simpa [f32, Fmt.emax] using hm)
theorem roundDy_notNaN (md : RMode) (z : Bool) (d : Dy) : f32.isNaN (roundDy f32 md z d).1 = false := by
  unfold roundDy
  split
  · cases z <;> decide
  · exact roundTo_notNaN ..

/-! ### Flags beside a NaN (R182) -/

/-- A result whose flags, where it is a NaN, are at most nv. -/
def OnlyNv (r : Nat × Flags) : Prop := f32.isNaN r.1 = true → r.2 &&& 0xF#5 = 0#5

theorem onlyNv_of_notNaN {r : Nat × Flags} (h : f32.isNaN r.1 = false) : OnlyNv r := fun e => by rw [h] at e; cases e
theorem onlyNv_noFlags (x : Nat) : OnlyNv (x, noFlags) := fun _ => (by decide : noFlags &&& 0xF#5 = 0#5)
theorem onlyNv_nanResult (xs : List Nat) : OnlyNv (nanResult f32 xs) := by
  intro _
  unfold nanResult
  dsimp only
  split <;> rfl
theorem onlyNv_invalid : OnlyNv (invalid f32) := fun _ => rfl

section
variable (m : RMode) (a b c : Nat)

theorem onlyNv_fAdd : OnlyNv (fAdd f32 m a b) := by
  unfold fAdd
  split
  · exact onlyNv_nanResult _
  · split
    · split
      · exact onlyNv_invalid
      · exact onlyNv_noFlags _
    · split
      · exact onlyNv_noFlags _
      · exact onlyNv_of_notNaN (roundDy_notNaN ..)
theorem onlyNv_fSub : OnlyNv (fSub f32 m a b) := by
  unfold fSub
  split
  · exact onlyNv_nanResult _
  · exact onlyNv_fAdd _ _ _
theorem onlyNv_fMul : OnlyNv (fMul f32 m a b) := by
  unfold fMul
  dsimp only
  split
  · exact onlyNv_nanResult _
  · split
    · split
      · exact onlyNv_invalid
      · exact onlyNv_noFlags _
    · exact onlyNv_of_notNaN (roundDy_notNaN ..)
theorem f32_inf_notNaN (neg : Bool) : f32.isNaN (f32.inf neg) = false := by cases neg <;> decide
theorem onlyNv_fDiv : OnlyNv (fDiv f32 m a b) := by
  unfold fDiv
  dsimp only
  split
  · exact onlyNv_nanResult _
  · split
    · split
      · exact onlyNv_invalid
      · exact onlyNv_noFlags _
    · split
      · exact onlyNv_noFlags _
      · split
        · split
          · exact onlyNv_invalid
          · exact onlyNv_of_notNaN (f32_inf_notNaN _)
        · exact onlyNv_of_notNaN (roundTo_notNaN ..)
theorem onlyNv_fSqrt : OnlyNv (fSqrt f32 m a) := by
  unfold fSqrt
  split
  · exact onlyNv_nanResult _
  · split
    · exact onlyNv_noFlags _
    · split
      · exact onlyNv_invalid
      · split
        · exact onlyNv_noFlags _
        · exact onlyNv_of_notNaN (roundTo_notNaN ..)
theorem onlyNv_fMinMax (isMax : Bool) : OnlyNv (fMinMax f32 isMax a b) := by
  have flags : (if f32.isSNaN a || f32.isSNaN b then flagNV else noFlags) &&& 0xF#5 = 0#5 := by split <;> decide
  intro _
  unfold fMinMax
  generalize (if f32.isSNaN a || f32.isSNaN b then flagNV else noFlags) = fl at flags
  dsimp only
  repeat' split
  all_goals exact flags
theorem onlyNv_fFma : OnlyNv (fFma f32 m a b c) := by
  unfold fFma
  dsimp only
  split
  · exact onlyNv_nanResult _
  · split
    · exact onlyNv_invalid
    · split
      · exact onlyNv_nanResult _
      · split
        · split
          · exact onlyNv_invalid
          · exact onlyNv_noFlags _
        · split
          · exact onlyNv_noFlags _
          · exact onlyNv_of_notNaN (roundDy_notNaN ..)
theorem onlyNv_fFnma : OnlyNv (fFnma f32 m a b c) := by
  unfold fFnma
  split
  · exact onlyNv_nanResult _
  · exact onlyNv_fFma _ _ _ _

end

/-! ### Special cases (R185, R203) -/

/-- The first operand is a NaN: it is the result, quieted. -/
theorem nanResult_first {a : Nat} (h : f32.isNaN a = true) (xs : List Nat) : (nanResult f32 (a :: xs)).1 = (a ||| 0x400000) := by
  simp [nanResult, h, f32_quiet]
theorem nanResult_second {a b : Nat} (ha : f32.isNaN a = false) (hb : f32.isNaN b = true) : (nanResult f32 [a, b]).1 = (b ||| 0x400000) := by
  simp [nanResult, ha, hb, f32_quiet]

/-- A finite value over zero: the infinity of the quotient's sign (R203). -/
theorem f32_inf_quotient (a b : Nat) :
    f32.inf (f32.isNeg a != f32.isNeg b) = 0x7F800000 + (if (2 ^ 31 ≤ a) = (2 ^ 31 ≤ b) then 0 else 2 ^ 31) := by
  simp only [← f32_isNeg_iff]
  cases f32.isNeg a <;> cases f32.isNeg b <;> simp <;> decide

/-- Settles O13: each operation either passes a NaN on, is invalid, or rounds; the special operands take its earlier branches. -/
theorem scalarFpSpecialCases : Obligations.ScalarFpSpecialCases := by
  refine ⟨fun m a b c _ _ _ => ?flags, fun m a b c ha hb _ => ⟨fun hn => ?first, fun h1 h2 => ?second, fun h1 h2 => ?zeros, fun h1 h2 hne => ?infs,
    fun h1 h2 => ?zeroInf, fun h1 h2 h3 => ?root, fun h1 h2 h3 h4 => ?overZero, rfl, rfl, rfl, fun h1 h2 => ?minmax⟩⟩
  case flags =>
    show ∀ r ∈ _, OnlyNv r
    simp only [List.forall_mem_cons, List.not_mem_nil, false_implies, implies_true, and_true]
    exact ⟨onlyNv_fAdd m a b, onlyNv_fSub m a b, onlyNv_fMul m a b, onlyNv_fDiv m a b, onlyNv_fSqrt m a, onlyNv_fMinMax a b false,
      onlyNv_fMinMax a b true, onlyNv_fFma m a b c, onlyNv_fFma m a b _, onlyNv_fFnma m a b c⟩
  case first =>
    simp only [fAdd, fMul, fFma, hn, Bool.true_or, if_true]
    exact ⟨nanResult_first hn _, nanResult_first hn _, nanResult_first hn _⟩
  case second =>
    simp only [fSub, fDiv, h1, h2, Bool.false_or, if_true]
    exact ⟨nanResult_second h1 h2, nanResult_second h1 h2⟩
  case zeros => simp [fDiv, f32_zero h1, f32_zero h2, h1, h2]; rfl
  case infs => simp [fAdd, f32_inf h1, f32_inf h2, h1, h2, bne_iff_ne.mp (f32_inf_ne ha hb h1 h2 hne)]; rfl
  case zeroInf => simp [fMul, fFma, f32_zero h1, f32_inf h2, h1, h2]; rfl
  case root => simp [fSqrt, h1, h2, f32_isNeg_iff.mpr h3]; rfl
  case overZero => simp [fDiv, h1, h2, h3, h4, f32_zero h4, f32_inf_quotient]; rfl
  case minmax => simp [fMinMax, h1, h2]

end Sys2Proof.Machine
end

section
/-! Loads and stores in the own window, in another tile of the bay and in main memory (R60 to R63, R118 to R131): what completes, and the
faults of own accesses. -/

namespace Sys2Proof.Machine
open Sys2Proof

/-! ### The own window (R118, R120) -/

theorem loadOwn_ready {s : State} {o : Op} {t : MemType} {off : Int} {base d : Reg} (h : s.Ready o)
    (hw : (s.after base).inWindow s.cur ((s.val base).toNat + off) t.size .load)
    (hc : (s.after base).readable ((s.val base).toNat + off).toNat t.size) :
    loadOwn o t off base d s =
      .next ((((s.after base).reads ((s.val base).toNat + off).toNat t.size).give d
        (loaded t ((s.after base).ownNat ((s.val base).toNat + off).toNat t.size))).retire o .next) := by
  refine issueValue_ok h ?_
  rw [bind_ok (rd_run base s), bind_ok (get_run _), cur_after, bind_ok (checkWin_ok hw 0), bind_ok (readOwn_ok hc), pure_run, extendLoad_eq]
  rfl

theorem storeOwnForm_ready {s u : State} {o : Op} {t : MemType} {off : Int} {base r : Reg} (h : s.Ready o)
    (hw : ((s.after r).after base).inWindow s.cur (((s.after r).val base).toNat + off) t.size .store)
    (hc : ((s.after r).after base).ownClear (((s.after r).val base).toNat + off).toNat t.size = true)
    (hl : ((s.after r).after base).logs (((s.after r).val base).toNat + off).toNat t.size u) :
    storeOwnForm o t off base r s =
      .next ((u.storeAt (((s.after r).val base).toNat + off).toNat (leBytes t.size (s.val r).toNat)).retire o .next) := by
  refine issue_ok h ?_
  rw [bind_ok (rd_run r s), bind_ok (rd_run base _), bind_ok (get_run _), cur_after, cur_after, bind_ok (checkWin_ok hw 0),
    bind_ok (storeOwn_ok (by rwa [leBytes_length]) (by rwa [leBytes_length])), pure_run]

/-- Settles O16: the six forms are two shapes, whose checks pass one after the other. -/
theorem ownAccesses : Obligations.OwnAccesses :=
  ⟨⟨fun s off t base d h hw hc => (exec_ld off t base d s).trans (loadOwn_ready h hw hc),
      fun s off b d h hw hc => (exec_compactLdI64 off b d s).trans (loadOwn_ready (t := .i64) h hw hc),
      fun s off b d h hw hc => (exec_compactLdI32 off b d s).trans (loadOwn_ready (t := .i32) h hw hc)⟩,
    ⟨fun s _ off t base r h hw hc hl => (exec_st off t base r s).trans (storeOwnForm_ready h hw hc hl),
      fun s _ off b r h hw hc hl => (exec_compactStI64 off b r s).trans (storeOwnForm_ready (t := .i64) h hw hc hl),
      fun s _ off b r h hw hc hl => (exec_compactStI32 off b r s).trans (storeOwnForm_ready (t := .i32) h hw hc hl)⟩⟩

/-! ### Faults of the own window (R121) -/

/-- A window check that fails is a scratchpad fault, of a load before anything is read. -/
theorem loadOwn_fault {s : State} {o : Op} {t : MemType} {off : Int} {base d : Reg} {reason : Nat} (h : s.Ready o)
    (hr : (s.after base).checkWindow s.cur s.share s.act.keep ((s.val base).toNat + off) t.size .load = some reason) :
    loadOwn o t off base d s =
      .next (s.takeTrap s.half.pc { code := 0x25, reason := reason, faddr := spadFaddr ((s.val base).toNat + off) 0 reason }) := by
  refine issueValue_traps h ?_ rfl
  rw [bind_ok (rd_run base s), bind_ok (get_run _), cur_after, bind_error (checkWin_stop (by rwa [share_after, act_after]) 0)]
theorem loadOwn_poisoned {s : State} {o : Op} {t : MemType} {off : Int} {base d : Reg} (h : s.Ready o)
    (hw : (s.after base).inWindow s.cur ((s.val base).toNat + off) t.size .load)
    (hc : (s.after base).ownClear ((s.val base).toNat + off).toNat t.size = true)
    (hp : ¬ ((s.after base).reads ((s.val base).toNat + off).toNat t.size).cleanOwn ((s.val base).toNat + off).toNat t.size) :
    loadOwn o t off base d s = .next ((s.reads ((s.val base).toNat + off).toNat t.size).takeTrap s.half.pc
      { code := 0x28, faddr := spadFaddr ((s.val base).toNat + off).toNat 0 0 }) := by
  refine issueValue_trapsAfter (f := fun u => u.reads ((s.val base).toNat + off).toNat t.size) h ?_ rfl
  rw [bind_ok (rd_run base s), bind_ok (get_run _), cur_after, bind_ok (checkWin_ok hw 0), bind_error (readOwn_stop hc hp)]
theorem storeOwnForm_fault {s : State} {o : Op} {t : MemType} {off : Int} {base r : Reg} {reason : Nat} (h : s.Ready o)
    (hr : ((s.after r).after base).checkWindow s.cur s.share s.act.keep (((s.after r).val base).toNat + off) t.size .store = some reason) :
    storeOwnForm o t off base r s =
      .next (s.takeTrap s.half.pc { code := 0x25, reason := reason, faddr := spadFaddr (((s.after r).val base).toNat + off) 0 reason }) := by
  refine issue_traps h ?_ rfl
  rw [bind_ok (rd_run r s), bind_ok (rd_run base _), bind_ok (get_run _), cur_after, cur_after,
    bind_error (checkWin_stop (by rwa [share_after, act_after, share_after, act_after]) 0)]
/-- A full undo log is reason 7 (R117). -/
theorem storeOwnForm_logFull {s : State} {o : Op} {t : MemType} {off : Int} {base r : Reg} (h : s.Ready o)
    (hw : ((s.after r).after base).inWindow s.cur (((s.after r).val base).toNat + off) t.size .store)
    (hc : ((s.after r).after base).ownClear (((s.after r).val base).toNat + off).toNat t.size = true)
    (hl : ((s.after r).after base).logLines s.cur s.ctx (((s.after r).val base).toNat + off).toNat t.size = none) :
    storeOwnForm o t off base r s = .next (s.takeTrap s.half.pc
      { code := 0x25, reason := 7, faddr := spadFaddr (((s.after r).val base).toNat + off).toNat 0 7 }) := by
  have full : ∀ bs : List Byte, bs.length = t.size → storeOwn (((s.after r).val base).toNat + off).toNat bs ((s.after r).after base) =
      .error (.trap { code := 0x25, reason := 7, faddr := spadFaddr (((s.after r).val base).toNat + off).toNat 0 7 }) := by
    intro bs hn
    unfold storeOwn
    rw [bind_ok (ownWait_ok (by rwa [hn])), bind_error]
    unfold logWrite
    rw [hn, cur_after, cur_after, ctx_after, ctx_after, hl]
  refine issue_traps h ?_ rfl
  rw [bind_ok (rd_run r s), bind_ok (rd_run base _), bind_ok (get_run _), cur_after, cur_after, bind_ok (checkWin_ok hw 0),
    bind_error (full _ (leBytes_length _ _))]

/-! ### The window of a whole reasoning tile (R107, R109, R112) -/

section
variable {s : State} {t : Nat} {keep : BitVec 32} {ea : Int} {n : Nat}

theorem checkWindow_beyond {i : Fin 3} (h : ea < 0 ∨ ((s.windowTop t i : Nat) : Int) < ea + n) (k : AccKind) :
    s.checkWindow t i keep ea n k = some 2 := if_pos h

/-- The window of a whole reasoning tile, and the first byte of its upper quarter. -/
theorem windowTop_whole (ht : t < 512) (hs : (s.tile t).split = false) : s.windowTop t 0 = 0x100000 ∧ s.upperQuarter t 0 = some 0xC0000 := by
  have h1 : Sys2Proof.Machine.isReflex t = false := by simp [Sys2Proof.Machine.isReflex]; omega
  have h2 : ¬ 512 ≤ t := by omega
  simp [State.windowTop, State.upperQuarter, h1, hs, h2]

/-- Inside the window, and not in a withheld upper quarter, the kind of the access decides. -/
theorem checkWindow_whole (ht : t < 512) (hs : (s.tile t).split = false) (h0 : 0 ≤ ea) (h1 : ea + n ≤ 0x100000) (k : AccKind) :
    s.checkWindow t 0 keep ea n k =
      if 0xC0000 < ea.toNat + n ∧ ((s.launchOf (s.pidAt t 0)).uq = false ∨ s.armed t = true) then some 3
      else if k = .load then none
      else if ea.toNat < 0x1000 then some 4
      else match k with
        | .store => if (touched (s.keeps t 0) ea.toNat n).any fun r => !keep.getLsbD r.1 then some 5 else none
        | .remoteStore => if (touched (s.keeps t 0) ea.toNat n).any fun r => !keep.getLsbD r.1 || r.2 then some 5 else none
        | .put => if (touched (s.keeps t 0) ea.toNat n).any fun r => r.2 then some 5 else none
        | _ => none := by
  obtain ⟨top, quarter⟩ := windowTop_whole ht hs
  have core : isCore t = false := by simp [isCore]; omega
  have inside : ¬ (ea < 0 ∨ ((s.windowTop t 0 : Nat) : Int) < ea + n) := by rw [top]; push_cast; omega
  unfold State.checkWindow
  rw [if_neg inside, quarter, core]
  simp only [Bool.and_eq_true, Bool.or_eq_true, Bool.not_eq_true', decide_eq_true_eq, Bool.false_eq_true, or_false] <;> rfl

/-- A range touches a keep region that the set does not hold. -/
theorem touched_any_iff (ks : List (Nat × Nat × Bool)) (a n : Nat) :
    (touched ks a n).any (fun r => !keep.getLsbD r.1) = true ↔
      ∃ k, keep.getLsbD k = false ∧ k < ks.length ∧ ∃ b z f, ks[k]? = some (b, z, f) ∧ b < a + n ∧ a < b + z := by
  simp only [touched, List.any_map, List.any_filter, List.any_eq_true, Function.comp, Bool.and_eq_true, Bool.not_eq_true', decide_eq_true_eq]
  constructor
  · rintro ⟨⟨⟨b, z, f⟩, k⟩, hm, ⟨h1, h2⟩, h3⟩
    have hk := List.mem_zipIdx_iff_getElem?.mp hm
    exact ⟨k, h3, (List.getElem?_eq_some_iff.mp hk).1, b, z, f, hk, h1, h2⟩
  · rintro ⟨k, h3, -, b, z, f, hk, h1, h2⟩
    exact ⟨((b, z, f), k), List.mem_zipIdx_iff_getElem?.mpr hk, ⟨h1, h2⟩, h3⟩

end

/-- Settles O17: the shapes of the forms with the check that stops them, and the reasons of the check by cases on its rows. -/
theorem ownAccessFaults : Obligations.OwnAccessFaults := by
  refine ⟨⟨fun s off t base d reason h hr => (exec_ld off t base d s).trans (loadOwn_fault h hr),
    fun s off t base d h hw hc hp => (exec_ld off t base d s).trans (loadOwn_poisoned h hw hc hp),
    fun s off t base r reason h hr => (exec_st off t base r s).trans (storeOwnForm_fault h hr),
    fun s off t base r h hw hc hl => (exec_st off t base r s).trans (storeOwnForm_logFull h hw hc hl)⟩, fun s t keep ea n ht hs hn => ?_⟩
  have top := (windowTop_whole ht hs).1
  refine ⟨fun ho k => checkWindow_beyond (by rw [top]; exact_mod_cast ho) k, fun h0 h1 => ⟨fun hu hq k => ?_, fun hu => ?_, fun hu hl => ?_, fun hu hl => ?_⟩⟩
  all_goals rw [checkWindow_whole ht hs h0 h1]
  · rw [if_pos ⟨by omega, hq⟩]
  · rw [if_neg (by omega), if_pos rfl]
  · rw [if_neg (by omega), if_neg (by decide), if_pos (by omega)]
  · rw [if_neg (by omega), if_neg (by decide), if_neg (by omega)]
    have reason : ∀ b : Bool, (if b = true then some 5 else none) = some 5 ↔ b = true := by simp
    refine (reason _).trans ((touched_any_iff _ _ _).trans ?_)
    have range : ∀ b z : Nat, (b < ea.toNat + n ∧ ea.toNat < b + z) ↔ ((b : Int) < ea + n ∧ ea < (b : Int) + z) := by omega
    simp only [range]
    rfl

end Sys2Proof.Machine
end

section
/-! Loads and stores in another tile of the bay and in main memory (R60 to R63, R119, R120, R124, R131). -/

namespace Sys2Proof.Machine
open Sys2Proof

/-! ### Another tile of the bay (R119, R124) -/

/-- Settles O18: the target's bay mask, the window check and the limit pass, and the access leaves under the next number. -/
theorem bayRemoteAccesses : Obligations.BayRemoteAccesses := by
  refine ⟨fun s off t ti base d h => ?load, fun s off t ti base r h => ?store⟩
  case load =>
    intro s2 i ea tgt hi hb hw hl
    have win : checkWin tgt i ((s.val base).toNat + off.toNat * t.size) t.size .load s2 = .ok (ea, s2) := by
      have := checkWin_ok hw i
      rwa [Nat.cast_add, Nat.cast_mul] at this
    refine (exec_ldb off t ti base d s).trans (issue_ok h ?_)
    rw [bind_ok (rd_run base s), bind_ok (rd_run ti _), bind_ok (requireOperand_ok (decide_eq_true hi) _), bind_ok (bayTarget_ok hb _)]
    refine (bind_ok win).trans ?_
    rw [bind_ok (get_run _), bind_ok (waitUntil_ok (show decide ((s2.tile s2.cur).loadsOut < 8) = true from decide_eq_true hl) _ _),
      bind_ok (freshId_run _), bind_ok (update_run _ _), bind_ok (pendingLoad_run _ _), pure_run]
    simp only [pc_after, share_bump, share_after, cur_bump, cur_after, ctx_bump, ctx_after, fresh_after, s2, i, tgt]
  case store =>
    intro s3 i ea tgt hi hb hw hl
    have win : checkWin tgt i (((s.after r).val base).toNat + off.toNat * t.size) t.size .remoteStore s3 = .ok (ea, s3) := by
      have := checkWin_ok hw i
      rwa [Nat.cast_add, Nat.cast_mul] at this
    refine (exec_stb off t ti base r s).trans (issue_ok h ?_)
    rw [bind_ok (rd_run r s), bind_ok (rd_run base _), bind_ok (rd_run ti _), bind_ok (requireOperand_ok (decide_eq_true hi) _),
      bind_ok (bayTarget_ok hb _)]
    refine (bind_ok win).trans ?_
    rw [bind_ok (remoteStore_ok hl), pure_run]
    simp only [share_after, s3]
    rfl

/-! ### Main memory (R60 to R63, R131) -/

section
variable {s : State} {idx off : Nat} {t : MemType} {d : Reg} {p : GlobalPath} {bs : List Byte}

/-- The read cache holds the bytes clean. -/
theorem globalLoad_cached (h : s.rdCached p = some (bs, false)) :
    globalLoad idx off t d p false s = .ok ((), (s.rdTouch p.keys).give d (loaded t (leNat bs))) := by
  unfold globalLoad
  rw [bind_ok (get_run s), h]
  dsimp only
  rw [if_neg (by decide), bind_ok (update_run _ _), bind_ok (wrPush_run _ _ _), if_neg (by decide), extendLoad_eq]
  rfl
/-- It holds them poisoned: the poison is consumed (R131, R396). -/
theorem globalLoad_poisoned (h : s.rdCached p = some (bs, true)) (acq : Bool) :
    globalLoad idx off t d p acq s = .error (.trapOn (fun s => s.used idx)
      { code := 0x28, reason := 1, faddr := resFaddr idx off, place := some (s.placeOf idx off p) }) := by
  unfold globalLoad
  rw [bind_ok (get_run s), h]
  dsimp only
  rw [if_pos rfl, bind_error (stop_run _ _)]
/-- It does not hold them: the load goes to its slice and is outstanding. -/
theorem globalLoad_pending (h : s.rdCached p = none) (hl : s.outstanding s.cur < 16) :
    globalLoad idx off t d p false s = .ok ((), (s.bump.toSlice { src := s.src, what := .load s.fresh p.keys, parts := p }).pend
      { id := s.fresh, d := d, size := t.size, signed := t.signed, pc := s.half.pc, faddr := resFaddr idx off,
        place := some (s.placeOf idx off p) }) := by
  unfold globalLoad
  rw [bind_ok (get_run s), h]
  dsimp only
  rw [bind_ok (waitUntil_ok (decide_eq_true hl) _ s), bind_ok (freshId_run s), bind_ok (sliceAccess_run _ _), pendingLoad_run]
  rfl

end

/-- Settles O19: the resource and the translation give the path, and the read cache decides between the three ends of a load. -/
theorem globalAccesses : Obligations.GlobalAccesses := by
  refine ⟨fun s scale t o res d r ps h => ?load, fun s scale t o res x r ps h => ?store⟩
  case load =>
    intro s2 idx off s3 hr hx p op
    have path : globalPath idx off t.size 1 s2 = .ok (p, s3) := by
      rw [globalPath_ok hr hx, act_used, act_after, act_after]
    refine ⟨fun bs hc => ?_, fun bs hc => ?_, fun hc hl => ?_⟩
    · refine (exec_ldg scale t o res d s).trans (issue_ok h ?_)
      rw [bind_ok (rd_run res s), bind_ok (rd_run o _), bind_ok path, bind_ok (globalLoad_cached hc), pure_run]
    · refine (exec_ldg scale t o res d s).trans (issue_trapsAfter (f := fun u => u.used idx) h ?_ rfl)
      rw [bind_ok (rd_run res s), bind_ok (rd_run o _), bind_ok path, bind_error (globalLoad_poisoned hc _)]
    · refine (exec_ldg scale t o res d s).trans (issue_ok h ?_)
      rw [bind_ok (rd_run res s), bind_ok (rd_run o _), bind_ok path, bind_ok (globalLoad_pending hc (by rwa [cur_used])), pure_run]
      simp only [half_used, pc_after, s3, s2]
      rfl
  case store =>
    intro s3 idx off s4 hr hx
    have path : globalPath idx off t.size 2 s3 = .ok (pathOf s.act.tenant r ps, s4) := by
      rw [globalPath_ok hr hx, act_used, act_after, act_after, act_after]
    refine (exec_stg scale t o res x s).trans (issue_ok h ?_)
    rw [bind_ok (rd_run x s), bind_ok (rd_run res _), bind_ok (rd_run o _), bind_ok path]
    rfl

end Sys2Proof.Machine
end

section
/-! Atomics in the three spaces of an address word, and their faults (R126 to R128). -/

namespace Sys2Proof.Machine
open Sys2Proof

/-! ### An atomic that completes -/

section
variable {op : Nat} {w64 : Bool} {s : State} {b a d : Reg}

theorem amoForm_own {u : State} {ea : Nat} (h : s.Ready (opAB b a d)) (ha : addrWord (s.val a) = .loc ea)
    (hw : ((s.after a).after b).inWindow s.cur ea (amoSize w64) .store) (hm : ea % amoSize w64 = 0)
    (hl : ((s.after a).after b).logs ea (amoSize w64) u) (hr : u.readable ea (amoSize w64)) :
    let r := amoApply op w64 (u.ownNat ea (amoSize w64)) ((s.after a).val b).toNat (s.half.e.get 0).toNat
    amoForm op w64 b a d s =
      .next (((((u.reads ea (amoSize w64)).storeAt ea (leBytes (amoSize w64) r.1)).flag r.2.2).give d r.2.1).ordered.retire (opAB b a d) .next) := by
  intro r
  refine issue_ok h ?_
  rw [bind_ok (rd_run a s), bind_ok (rd_run b _)]
  dsimp only
  rw [bind_ok (get_run _), ha, half_after, half_after, Half.read_e, Half.read_e]
  refine (bind_ok (checkWin_ok hw 0)).trans ?_
  rw [if_neg (not_not_intro hm), bind_ok (logWrite_ok hl), bind_ok (readOwn_ok hr), bind_ok (update_run _ _), bind_ok (raiseFlags_run _ _),
    bind_ok (wrPush_run _ _ _)]
  rfl

theorem amoForm_bay {ti ea : Nat} (h : s.Ready (opAB b a d)) (ha : addrWord (s.val a) = .bay ti ea)
    (hb : ((s.after a).after b).bayOpen ti) (hw : ((s.after a).after b).inWindow (bayTile (bayOf s.cur) ti) ea (amoSize w64) .remoteStore)
    (hm : ea % amoSize w64 = 0) (hs : ((s.after a).after b).releaseStop false 1 = none) (hn : (((s.after a).after b).tile s.cur).storesOut < 16) :
    amoForm op w64 b a d s = .next (((((s.after a).after b).ordered.bump.toBay (bayTile (bayOf s.cur) ti)
      (.amo s.cur s.ctx s.share s.fresh op w64 ea ((s.after a).val b) (s.half.e.get 0)) s.fresh false).pend
        { id := s.fresh, d := d, blocking := true, amo := true, acq := true, pc := s.half.pc, faddr := spadFaddr ea ti 0,
          target := some (bayTile (bayOf s.cur) ti), global := false }).retire (opAB b a d) .next) := by
  refine issue_ok h ?_
  rw [bind_ok (rd_run a s), bind_ok (rd_run b _)]
  dsimp only
  rw [bind_ok (get_run _), ha, half_after, half_after, Half.read_e, Half.read_e]
  dsimp only
  rw [bind_ok (bayTarget_ok hb _)]
  refine (bind_ok (checkWin_ok hw ti)).trans ?_
  have room : decide ((((s.after a).after b).ordered.tile ((s.after a).after b).ordered.cur).storesOut < 16) = true := by
    rw [decide_eq_true_iff, cur_ordered, storesOut_ordered]; exact hn
  rw [if_neg (not_not_intro hm), bind_ok (releaseWait_ok hs _), bind_ok (get_run _), bind_ok (waitUntil_ok room _ _), bind_ok (freshId_run _),
    bind_ok (update_run _ _), bind_ok (pendingLoad_run _ _), pure_run]
  simp only [pc_after, half_ordered, share_bump, share_ordered, share_after, cur_bump, cur_ordered, cur_after, ctx_bump, ctx_ordered, ctx_after,
    fresh_ordered, fresh_after]

theorem amoForm_glob {idx off : Nat} {r : Rec512} {ps : List Part'} (h : s.Ready (opAB b a d)) (ha : addrWord (s.val a) = .glob idx off)
    (hx : s.reflexSide = false) (hr : ((s.after a).after b).resourceOk idx off (amoSize w64) 4 r) (hm : off % amoSize w64 = 0)
    (ht : (((s.after a).after b).used idx).translates (resVbase r + off) (amoSize w64) 4 ps)
    (hk : (GlobalPath.keys (pathOf s.act.tenant r ps)).any isHostKey = false) (hs : (((s.after a).after b).used idx).releaseStop false 3 = none) :
    let s3 := ((s.after a).after b).used idx
    let p := pathOf s.act.tenant r ps
    amoForm op w64 b a d s = .next (((s3.ordered.bump.toSlice
      { src := s3.src, what := .amo s3.fresh op w64 p.keys ((s.after a).val b) (s.half.e.get 0), parts := p }).pend
      { id := s3.fresh, d := d, blocking := true, amo := true, acq := true, pc := s.half.pc, faddr := resFaddr idx off,
        place := some (s3.placeOf idx off p) }).retire (opAB b a d) .next) := by
  intro s3 p
  have path : globalPathOf r idx off (amoSize w64) 4 s3 = .ok (p, s3) := by
    rw [globalPathOf_ok ht, act_used, act_after, act_after]
  refine issue_ok h ?_
  rw [bind_ok (rd_run a s), bind_ok (rd_run b _)]
  dsimp only
  rw [bind_ok (get_run _), ha, half_after, half_after, Half.read_e, Half.read_e]
  dsimp only
  rw [bind_ok (isolated_ok (by rwa [reflexSide_after, reflexSide_after])), bind_ok (checkResource_ok hr), bind_ok (checkUsed_ok (decide_eq_true hm) _ _ _ _ _), bind_ok path]
  refine (bind_ok (checkUsed_ok (b := !p.keys.any isHostKey) (by rw [hk]; rfl) _ _ _ _ _)).trans ?_
  rw [bind_ok (releaseWait_ok hs _), bind_ok (get_run _), bind_ok (freshId_run _), bind_ok (sliceAccess_run _ _), bind_ok (pendingLoad_run _ _),
    pure_run]
  simp only [src_ordered, fresh_ordered, half_ordered, half_used, pc_after, placeOf_ordered, s3]
end

/-! ### What the operations compute (R126) -/

/-- The bits that an atomic works on. -/
def amoBitsOf (w64 : Bool) : Nat := if w64 then 64 else 32

theorem sextN_mod (w64 : Bool) (x : Nat) : sextN (amoBitsOf w64) (x % 2 ^ amoBitsOf w64) = (BitVec.ofNat (amoBitsOf w64) x).signExtend 64 := by
  have pos : 0 < amoBitsOf w64 := by cases w64 <;> decide
  have le : amoBitsOf w64 ≤ 64 := by cases w64 <;> decide
  unfold sextN
  rw [signedOf_eq _ _ pos, wrapInt_eq, BitVec.ofNat_toNat, BitVec.setWidth_eq, ← BitVec.toInt_signExtend_of_le le, BitVec.ofInt_toInt]
  congr 1
  exact BitVec.eq_of_toNat_eq (by simp)
theorem signedOf_mod (w64 : Bool) (x : Nat) : signedOf (amoBitsOf w64) (x % 2 ^ amoBitsOf w64) = (BitVec.ofNat (amoBitsOf w64) x).toInt := by
  have pos : 0 < amoBitsOf w64 := by cases w64 <;> decide
  rw [signedOf_eq _ _ pos]
  congr 1
  exact BitVec.eq_of_toNat_eq (by simp)

/-- An operation of this number computes this rule, its result sign- or zero-extended, at both widths. -/
def AmoComputes (op : Nat) (sgn : Bool) (f : ∀ w, BitVec w → BitVec w → BitVec w → BitVec w) : Prop :=
  ∀ (w64 : Bool), amoApply op w64 = amoBits (amoBitsOf w64) sgn (f (amoBitsOf w64))

section
variable {op : Nat} {f : ∀ w, BitVec w → BitVec w → BitVec w → BitVec w}

/-- The new value is that of the rule, and the old value is returned sign-extended. -/
theorem amoComputes_signed
    (h : ∀ w64 old v cmp, amoApply op w64 old v cmp =
      ((f _ (BitVec.ofNat (amoBitsOf w64) old) (BitVec.ofNat _ v) (BitVec.ofNat _ cmp)).toNat,
        sextN (amoBitsOf w64) (old % 2 ^ amoBitsOf w64), noFlags)) : AmoComputes op true f := by
  intro w64
  funext old v cmp
  rw [h, sextN_mod]
  rfl
/-- The new value is that of the rule, and the old value is returned zero-extended. -/
theorem amoComputes_unsigned
    (h : ∀ w64 old v cmp, amoApply op w64 old v cmp =
      ((f _ (BitVec.ofNat (amoBitsOf w64) old) (BitVec.ofNat _ v) (BitVec.ofNat _ cmp)).toNat,
        BitVec.ofNat 64 (old % 2 ^ amoBitsOf w64), noFlags)) : AmoComputes op false f := by
  intro w64
  funext old v cmp
  rw [h, ← BitVec.toNat_ofNat old (amoBitsOf w64), BitVec.ofNat_toNat]
  rfl

/-- A form whose operation computes a rule completes with it in the three spaces. -/
theorem amoUniform_of {i : AmoWidth → Reg → Reg → Reg → Instr} {sgn : Bool}
    (hi : ∀ w b a d s, exec (i w b a d) s = amoForm op w.is64 b a d s) (hf : AmoComputes op sgn f) : AmoUniform i op sgn f := by
  have own : ∀ w : AmoWidth, AmoOwn (i w) (amoSize w.is64) (amoBits (amoBitsOf w.is64) sgn (f _)) := by
    intro w s u b a d ea h ha s2 r hw hm hl hr
    rw [hi, amoForm_own h ha hw hm hl hr, hf]
  have bay : ∀ w : AmoWidth, AmoBay (i w) op w.is64 := fun w s b a d ti ea h ha hb hw hm hs hn =>
    (hi w b a d s).trans (amoForm_bay h ha hb hw hm hs hn)
  have glob : ∀ w : AmoWidth, AmoGlobal (i w) op w.is64 := fun w s b a d idx off r ps h ha hx hr hm ht hk hs =>
    (hi w b a d s).trans (amoForm_glob h ha hx hr hm ht hk hs)
  exact ⟨⟨own .w32, bay .w32, glob .w32⟩, own .w64, bay .w64, glob .w64⟩

end

theorem ofNat_eq_iff_mod {w x y : Nat} : BitVec.ofNat w x = BitVec.ofNat w y ↔ x % 2 ^ w = y % 2 ^ w := by
  rw [← BitVec.toNat_inj, BitVec.toNat_ofNat, BitVec.toNat_ofNat]

theorem amoSwap_computes : AmoComputes 0 true (fun _ _ v _ => v) := amoComputes_signed fun _ _ _ _ => rfl
theorem amoAdd_computes : AmoComputes 1 true (fun _ o v _ => o + v) := amoComputes_signed fun _ _ _ _ => by
  rw [BitVec.toNat_add]; rfl
theorem amoAnd_computes : AmoComputes 2 true (fun _ o v _ => o &&& v) := amoComputes_signed fun _ _ _ _ => by
  rw [BitVec.toNat_and]; rfl
theorem amoOr_computes : AmoComputes 3 true (fun _ o v _ => o ||| v) := amoComputes_signed fun _ _ _ _ => by
  rw [BitVec.toNat_or]; rfl
theorem amoXor_computes : AmoComputes 4 true (fun _ o v _ => o ^^^ v) := amoComputes_signed fun _ _ _ _ => by
  rw [BitVec.toNat_xor]; rfl
theorem amoMaxI_computes : AmoComputes 5 true (fun _ o v _ => if o.toInt < v.toInt then v else o) := amoComputes_signed fun w64 old v _ => by
  rw [← signedOf_mod, ← signedOf_mod, apply_ite BitVec.toNat, BitVec.toNat_ofNat, BitVec.toNat_ofNat]; rfl
theorem amoMinI_computes : AmoComputes 6 true (fun _ o v _ => if v.toInt < o.toInt then v else o) := amoComputes_signed fun w64 old v _ => by
  rw [← signedOf_mod, ← signedOf_mod, apply_ite BitVec.toNat, BitVec.toNat_ofNat, BitVec.toNat_ofNat]; rfl
theorem amoMaxN_computes : AmoComputes 7 false (fun _ o v _ => if o.toNat < v.toNat then v else o) := amoComputes_unsigned fun w64 old v _ => by
  rw [apply_ite BitVec.toNat, ← max_def_lt, BitVec.toNat_ofNat, BitVec.toNat_ofNat]; rfl
theorem amoMinN_computes : AmoComputes 8 false (fun _ o v _ => if v.toNat < o.toNat then v else o) := amoComputes_unsigned fun w64 old v _ => by
  rw [apply_ite BitVec.toNat, ← min_def_lt, min_comm, BitVec.toNat_ofNat, BitVec.toNat_ofNat]; rfl
theorem amoCas_computes : AmoComputes 9 true (fun _ o v c => if o = c then v else o) := amoComputes_signed fun w64 old v cmp => by
  rw [apply_ite BitVec.toNat]
  simp only [ofNat_eq_iff_mod, BitVec.toNat_ofNat]
  rfl
/-- amo.fadd adds under round to nearest, a NaN result being the canonical one (R126). -/
theorem amoFadd_computes (old v cmp : Nat) : amoApply 10 false old v cmp =
    (let r := fAdd f32 .rne (old % 2 ^ 32) (v % 2 ^ 32)
     (if f32.isNaN r.1 then 0x7FC00000 else r.1, BitVec.ofNat 64 (old % 2 ^ 32), r.2)) := by
  have canon : f32.canonNaN = 0x7FC00000 := by decide
  rw [← canon]
  rfl

/-- Settles O20: one form with an operation number in three spaces, and what each number computes. -/
theorem atomicResults : Obligations.AtomicResults := by
  refine ⟨amoUniform_of exec_amoSwap amoSwap_computes, amoUniform_of exec_amoAdd amoAdd_computes, amoUniform_of exec_amoAnd amoAnd_computes,
    amoUniform_of exec_amoOr amoOr_computes, amoUniform_of exec_amoXor amoXor_computes, amoUniform_of exec_amoMaxI amoMaxI_computes,
    amoUniform_of exec_amoMinI amoMinI_computes, amoUniform_of exec_amoMaxN amoMaxN_computes, amoUniform_of exec_amoMinN amoMinN_computes,
    amoUniform_of exec_amoCas amoCas_computes, ?own,
    fun s b a d ti ea h ha hb hw hm hs hn => (exec_amoFadd b a d s).trans (amoForm_bay h ha hb hw hm hs hn),
    fun s b a d idx off r ps h ha hx hr hm ht hk hs => (exec_amoFadd b a d s).trans (amoForm_glob h ha hx hr hm ht hk hs)⟩
  intro s u b a d ea h ha s2 r hw hm hl hr
  refine (exec_amoFadd b a d s).trans ((amoForm_own (op := 10) (w64 := false) h ha hw hm hl hr).trans ?_)
  rw [amoFadd_computes]
  rfl

/-! ### Faults (R127, R128) -/

/-- Each of the eleven is the one form with its operation number. -/
theorem exec_of_amoForm {w : AmoWidth} {i : Reg → Reg → Reg → Instr} (h : AmoForm w i) :
    ∃ op, ∀ b a d s, exec (i b a d) s = amoForm op w.is64 b a d s := by
  obtain h | ⟨rfl, rfl⟩ := h
  · simp only [List.mem_cons, List.not_mem_nil, or_false] at h
    obtain rfl | rfl | rfl | rfl | rfl | rfl | rfl | rfl | rfl | rfl := h
    exacts [⟨0, exec_amoSwap w⟩, ⟨1, exec_amoAdd w⟩, ⟨2, exec_amoAnd w⟩, ⟨3, exec_amoOr w⟩, ⟨4, exec_amoXor w⟩, ⟨5, exec_amoMaxI w⟩,
      ⟨6, exec_amoMinI w⟩, ⟨7, exec_amoMaxN w⟩, ⟨8, exec_amoMinN w⟩, ⟨9, exec_amoCas w⟩]
  · exact ⟨10, exec_amoFadd⟩

section
variable {op : Nat} {w64 : Bool} {s : State} {b a d : Reg} (h : s.Ready (opAB b a d))
include h

theorem amoForm_malformed (ha : addrWord (s.val a) = .bad) :
    amoForm op w64 b a d s = .next (s.takeTrap s.half.pc { code := 0x21, faddr := s.wordAtPc 4 }) := by
  refine issue_illegalOperand h ?_
  rw [bind_ok (rd_run a s), bind_ok (rd_run b _)]
  dsimp only
  rw [bind_ok (get_run _), ha]
  rfl
theorem amoForm_own_misaligned {ea : Nat} (ha : addrWord (s.val a) = .loc ea)
    (hw : ((s.after a).after b).inWindow s.cur ea (amoSize w64) .store) (hm : ea % amoSize w64 ≠ 0) :
    amoForm op w64 b a d s = .next (s.takeTrap s.half.pc { code := 0x25, reason := 6, faddr := spadFaddr ea 0 6 }) := by
  refine issue_traps h ?_ rfl
  rw [bind_ok (rd_run a s), bind_ok (rd_run b _)]
  dsimp only
  rw [bind_ok (get_run _), ha]
  refine (bind_ok (checkWin_ok hw 0)).trans ?_
  rw [if_pos hm]
  rfl
theorem amoForm_bay_misaligned {ti ea : Nat} (ha : addrWord (s.val a) = .bay ti ea) (hb : ((s.after a).after b).bayOpen ti)
    (hw : ((s.after a).after b).inWindow (bayTile (bayOf s.cur) ti) ea (amoSize w64) .remoteStore) (hm : ea % amoSize w64 ≠ 0) :
    amoForm op w64 b a d s = .next (s.takeTrap s.half.pc { code := 0x25, reason := 6, faddr := spadFaddr ea ti 6 }) := by
  refine issue_traps h ?_ rfl
  rw [bind_ok (rd_run a s), bind_ok (rd_run b _)]
  dsimp only
  rw [bind_ok (get_run _), ha]
  dsimp only
  rw [bind_ok (bayTarget_ok hb _)]
  refine (bind_ok (checkWin_ok hw ti)).trans ?_
  rw [if_pos hm]
  rfl
theorem amoForm_glob_misaligned {idx off : Nat} {r : Rec512} (ha : addrWord (s.val a) = .glob idx off) (hx : s.reflexSide = false)
    (hr : ((s.after a).after b).resourceOk idx off (amoSize w64) 4 r) (hm : off % amoSize w64 ≠ 0) :
    amoForm op w64 b a d s = .next ((s.used idx).takeTrap s.half.pc { code := 0x26, reason := 7, faddr := resFaddr idx off }) := by
  refine issue_trapsAfter (f := fun u => u.used idx) h ?_ rfl
  rw [bind_ok (rd_run a s), bind_ok (rd_run b _)]
  dsimp only
  rw [bind_ok (get_run _), ha]
  dsimp only
  rw [bind_ok (isolated_ok (by rwa [reflexSide_after, reflexSide_after])), bind_ok (checkResource_ok hr),
    bind_error (checkUsed_stop (decide_eq_false hm) _ _ _ _ _)]

end

/-! ### Address words (R127) -/

/-- The three spaces and the bits that each requires to be zero; every word that is in none is malformed. -/
theorem addrWord_spaces (ea ti idx off : Nat) (he : ea < 2 ^ 20) (ht : ti < 16) (hi : idx < 2 ^ 12) (ho : off < 2 ^ 48) :
    addrWord (BitVec.ofNat 64 ea) = .loc ea ∧ addrWord (BitVec.ofNat 64 (2 ^ 62 + ti * 2 ^ 52 + ea)) = .bay ti ea
    ∧ addrWord (BitVec.ofNat 64 (2 ^ 63 + idx * 2 ^ 50 + off)) = .glob idx off := by
  refine ⟨?_, ?_, ?_⟩ <;> unfold addrWord <;> rw [BitVec.toNat_ofNat, Nat.mod_eq_of_lt (by omega)] <;> dsimp only
  · have space : bits ea 63 62 = 0 := by unfold bits; omega
    have zero : bits ea 61 20 = 0 := by unfold bits; omega
    have field : bits ea 19 0 = ea := by unfold bits; omega
    rw [space, if_pos zero, field]
    rfl
  · generalize hn : 2 ^ 62 + ti * 2 ^ 52 + ea = n
    have space : bits n 63 62 = 1 := by unfold bits; omega
    have zero : bits n 61 56 = 0 ∧ bits n 51 20 = 0 := by unfold bits; omega
    have tile : bits n 55 52 = ti := by unfold bits; omega
    have field : bits n 19 0 = ea := by unfold bits; omega
    rw [space, if_pos zero, tile, field]
    rfl
  · generalize hn : 2 ^ 63 + idx * 2 ^ 50 + off = n
    have space : bits n 63 62 = 2 := by unfold bits; omega
    have zero : bits n 49 48 = 0 := by unfold bits; omega
    have index : bits n 61 50 = idx := by unfold bits; omega
    have field : bits n 47 0 = off := by unfold bits; omega
    rw [space, if_pos zero, index, field]
    rfl

theorem word_of_addrWord (w : Word) (h : addrWord w ≠ .bad) : (∃ e, e < 2 ^ 20 ∧ w = BitVec.ofNat 64 e)
    ∨ (∃ t e, t < 16 ∧ e < 2 ^ 20 ∧ w = BitVec.ofNat 64 (2 ^ 62 + t * 2 ^ 52 + e))
    ∨ (∃ i o, i < 2 ^ 12 ∧ o < 2 ^ 48 ∧ w = BitVec.ofNat 64 (2 ^ 63 + i * 2 ^ 50 + o)) := by
  have lt := w.isLt
  have from_nat : ∀ n : Nat, w.toNat = n → w = BitVec.ofNat 64 n := fun n e => by rw [← e, BitVec.ofNat_toNat, BitVec.setWidth_eq]
  unfold addrWord bits at h
  dsimp only at h
  split at h
  · next space =>
    split at h
    · next zero => exact .inl ⟨w.toNat, by omega, from_nat _ rfl⟩
    · exact absurd rfl h
  · next space =>
    split at h
    · next zero =>
      exact .inr (.inl ⟨w.toNat / 2 ^ 52 % 16, w.toNat % 2 ^ 20, by omega, by omega, from_nat _ (by omega)⟩)
    · exact absurd rfl h
  · next space =>
    split at h
    · next zero =>
      exact .inr (.inr ⟨w.toNat / 2 ^ 50 % 2 ^ 12, w.toNat % 2 ^ 48, by omega, by omega, from_nat _ (by omega)⟩)
    · exact absurd rfl h
  · exact absurd rfl h

/-- Settles O21: the one form with its operation number stops at each of its checks, and the fields of an address word. -/
theorem atomicFaults : Obligations.AtomicFaults := by
  refine ⟨fun s w i b a d hi h => ?_, fun ea ti idx off he ht hi ho => ?_⟩
  · obtain ⟨op, exec_i⟩ := exec_of_amoForm hi
    refine ⟨fun ha => ?_, fun ea ha hw hm => ?_, fun ti ea ha hb hw hm => ?_, fun idx off r ha hx hr hm => ?_⟩
    · rw [exec_i, amoForm_malformed h ha]
    · rw [exec_i, amoForm_own_misaligned h ha hw hm]
    · rw [exec_i, amoForm_bay_misaligned h ha hb hw hm]
    · rw [exec_i, amoForm_glob_misaligned h ha hx hr hm]
  · obtain ⟨own, bay, glob⟩ := addrWord_spaces ea ti idx off he ht hi ho
    exact ⟨own, bay, glob, word_of_addrWord⟩

end Sys2Proof.Machine
end

section
/-! Fences, acquire loads, release stores and read-cache control (R127, R132, R297 to R300). -/

namespace Sys2Proof.Machine
open Sys2Proof

/-! ### Fences -/

theorem invalidateMine_run (s : State) : invalidateMine s = .ok ((), s.rdInvalidate s.cur s.act.tenant) := rfl

section
variable {s : State} {scope : Scope} {vec : Bool} {kind : FenceKind} (h : s.Ready {})
include h

/-- Its parts that apply let it pass: all that it does is to order what follows, and to empty the read cache (R298). -/
theorem fence_completes (hv : vec = true → s.half.vq = [] ∧ s.half.boundTrap = none) (ha : kind ≠ .rel → s.half.loads = [])
    (hr : kind ≠ .acq → s.releaseStop vec scope.code = none) :
    execFence scope vec kind s =
      .next ((if 3 ≤ scope.code then s.ordered.rdInvalidate s.cur s.act.tenant else s.ordered).retire {} .next) := by
  refine issue_ok h ?_
  dsimp only
  have acquired : kind ≠ .rel → acquireWait .other s = .ok ((), if kind ≠ .rel then s.ordered else s) := fun hk => by
    rw [if_pos hk, acquireWait_ok (ha hk)]
  have released : kind ≠ .acq → releaseWait scope.code vec .other (if kind ≠ .rel then s.ordered else s) = .ok ((), s.ordered) := fun hk => by
    split
    · rw [releaseWait_ok (by rw [releaseStop_ordered, hr hk]), ordered_ordered]
    · rw [releaseWait_ok (hr hk)]
  refine (when_ok (t := s) (fun hc => vectorIdle_ok (hv hc).1 (hv hc).2) fun _ => rfl).trans ?_
  refine (when_ok acquired fun hk => if_neg hk).trans ?_
  refine (when_ok released fun hk => ?_).trans ?_
  · rw [if_pos (by rw [not_not.mp hk]; decide)]
  · split
    · rw [bind_ok (invalidateMine_run _), act_ordered]; rfl
    · rfl

theorem fence_waitsForVector (hc : vec = true) (hv : s.half.vq ≠ []) :
    execFence scope vec kind s = .next (s.setSlot { s.slot with waiting := true, waitOn := .vector }) := by
  refine (issue_error h (x := .wait .vector) ?_).trans (stopped_wait s _ _)
  refine when_error hc ?_
  unfold vectorIdle
  rw [bind_ok (get_run s), show s.vectorDone = false by simp [State.vectorDone, hv], waitUntil_false]

section
variable (hv : vec = true → s.half.vq = [] ∧ s.half.boundTrap = none)
include hv

theorem fence_waitsForLoads (hk : kind ≠ .rel) (hl : s.half.loads ≠ []) :
    execFence scope vec kind s = .next (s.setSlot { s.slot with waiting := true, waitOn := .other }) := by
  refine (issue_error h (x := .wait .other) ?_).trans (stopped_wait s _ _)
  refine (when_ok (t := s) (fun hc => vectorIdle_ok (hv hc).1 (hv hc).2) fun _ => rfl).trans (when_error hk ?_)
  unfold acquireWait
  rw [bind_ok (get_run s), bind_error (by rw [decide_eq_false hl, waitUntil_false])]

theorem fence_waitsForStores {f : State → State} (hk : kind ≠ .acq) (ha : kind ≠ .rel → s.half.loads = [])
    (hr : s.releaseStop vec scope.code = some f) :
    execFence scope vec kind s = .next ((f s).setSlot { (f s).slot with waiting := true, waitOn := .other }) := by
  refine (issue_error h (x := .waitIn .other f) ?_).trans (stopped_waitIn s _ _ f)
  refine (when_ok (t := s) (fun hc => vectorIdle_ok (hv hc).1 (hv hc).2) fun _ => rfl).trans ?_
  refine (when_ok (t := if kind ≠ .rel then s.ordered else s) (fun hk => by rw [if_pos hk, acquireWait_ok (ha hk)]) fun hk => if_neg hk).trans ?_
  refine when_error hk (releaseWait_stop ?_ _)
  split
  · rw [releaseStop_ordered, hr]
  · exact hr
end

end

/-! ### Illegal operands (R127, R299) -/

/-- A local or bay word. -/
def NearWord (w : Word) : Prop := (∃ ea, addrWord w = .loc ea) ∨ ∃ ti ea, addrWord w = .bay ti ea

section
variable {s : State} {t : MemType} {sys : Bool} {a r : Reg}

theorem ldAcq_illegal (h : s.Ready (opA a r)) (hw : addrWord (s.val a) = .bad ∨ (sys = true ∧ NearWord (s.val a))) :
    execLdAcq sys t a r s = .next (s.takeTrap s.half.pc { code := 0x21, faddr := s.wordAtPc 4 }) := by
  refine issue_illegalOperand h ?_
  rw [bind_ok (rd_run a s), bind_ok (get_run _)]
  obtain e | ⟨rfl, ⟨ea, e⟩ | ⟨ti, ea, e⟩⟩ := hw <;> rw [e] <;> rfl
theorem stRel_illegal (h : s.Ready { srcs := [r, a] })
    (hw : addrWord ((s.after r).val a) = .bad ∨ (sys = true ∧ NearWord ((s.after r).val a))) :
    execStRel sys t a r s = .next (s.takeTrap s.half.pc { code := 0x21, faddr := s.wordAtPc 4 }) := by
  refine issue_illegalOperand h ?_
  rw [bind_ok (rd_run r s), bind_ok (rd_run a _), bind_ok (get_run _)]
  obtain e | ⟨rfl, ⟨ea, e⟩ | ⟨ti, ea, e⟩⟩ := hw <;> rw [e] <;> rfl
theorem cinv_illegal (h : s.Ready { srcs := [a], iso := true }) (hw : addrWord (s.val a) = .bad ∨ NearWord (s.val a)) :
    execCinv a s = .next (s.takeTrap s.half.pc { code := 0x21, faddr := s.wordAtPc 4 }) := by
  refine issue_illegalOperand h ?_
  rw [bind_ok (rd_run a s)]
  obtain e | ⟨ea, e⟩ | ⟨ti, ea, e⟩ := hw <;> rw [e] <;> rfl

end

/-! ### Acquire loads (R299) -/

section
variable {s : State} {t : MemType} {a d : Reg} (h : s.Ready (opA a d))
include h

theorem ldAcq_own {ea : Nat} (ha : addrWord (s.val a) = .loc ea) (hm : ea % t.size = 0)
    (hw : (s.after a).inWindow s.cur ea t.size .load) (hr : (s.after a).readable ea t.size) (hl : s.half.loads = []) :
    execLdAcq false t a d s =
      .next ((((s.after a).reads ea t.size).ordered.give d (loaded t ((s.after a).ownNat ea t.size))).retire (opA a d) .next) := by
  refine issue_ok h ?_
  have loads : ((s.after a).reads ea t.size).half.loads = [] := by rw [half_reads, half_after, Half.read_loads, hl]
  rw [bind_ok (rd_run a s), bind_ok (get_run _), ha]
  dsimp only
  rw [bind_ok (requireOperand_ok (b := !false) rfl _), if_neg (not_not_intro hm)]
  refine (bind_ok (checkWin_ok hw 0)).trans ?_
  rw [bind_ok (readOwn_ok hr), bind_ok (acquireWait_ok loads _), bind_ok (wrPush_run _ _ _), pure_run, extendLoad_eq]
  rfl

theorem ldAcq_bay {ti ea : Nat} (ha : addrWord (s.val a) = .bay ti ea) (hm : ea % t.size = 0) (hb : (s.after a).bayOpen ti)
    (hw : (s.after a).inWindow (bayTile (bayOf s.cur) ti) ea t.size .load) (hl : s.half.loads = [])
    (hn : ((s.after a).tile s.cur).loadsOut < 8) :
    execLdAcq false t a d s = .next ((((s.after a).ordered.bump.toBay (bayTile (bayOf s.cur) ti)
      (.load s.cur s.ctx s.share s.fresh ea t.size) s.fresh true).pend
        { id := s.fresh, d := d, blocking := true, acq := true, size := t.size, signed := t.signed, pc := s.half.pc, faddr := spadFaddr ea ti 0,
          target := some (bayTile (bayOf s.cur) ti), global := false }).retire (opA a d) .next) := by
  refine issue_ok h ?_
  have loads : (s.after a).half.loads = [] := by rw [half_after, Half.read_loads, hl]
  have room : decide (((s.after a).ordered.tile (s.after a).ordered.cur).loadsOut < 8) = true := by
    obtain ⟨cs, e⟩ := tile_ordered_eq (s.after a) (s.after a).cur
    rw [decide_eq_true_iff, cur_ordered, e]; exact hn
  rw [bind_ok (rd_run a s), bind_ok (get_run _), ha]
  dsimp only
  rw [bind_ok (requireOperand_ok (b := !false) rfl _), if_neg (not_not_intro hm), bind_ok (bayTarget_ok hb _)]
  refine (bind_ok (checkWin_ok hw ti)).trans ?_
  rw [bind_ok (acquireWait_ok loads _), bind_ok (get_run _), bind_ok (waitUntil_ok room _ _), bind_ok (freshId_run _),
    bind_ok (update_run _ _), bind_ok (pendingLoad_run _ _), pure_run]
  simp only [pc_after, half_ordered, share_bump, share_ordered, share_after, cur_bump, cur_ordered, cur_after, ctx_bump, ctx_ordered, ctx_after,
    fresh_ordered, fresh_after]

theorem ldAcq_glob {sys : Bool} {idx off : Nat} {r : Rec512} {ps : List Part'} {u : State} (ha : addrWord (s.val a) = .glob idx off)
    (hx : s.reflexSide = false) (hm : off % t.size = 0) (hr : (s.after a).resourceOk idx off t.size 1 r)
    (ht : ((s.after a).used idx).translates (resVbase r + off) t.size 1 ps) (hl : s.half.loads = [])
    (hg : globalLoad idx off t d (pathOf s.act.tenant r ps) true ((s.after a).used idx).ordered = .ok ((), u)) :
    execLdAcq sys t a d s = .next (u.retire (opA a d) .next) := by
  refine issue_ok h ?_
  have path : globalPath idx off t.size 1 (s.after a) = .ok (pathOf s.act.tenant r ps, (s.after a).used idx) := by
    rw [globalPath_ok hr ht, act_used, act_after]
  have loads : ((s.after a).used idx).half.loads = [] := by rw [half_used, half_after, Half.read_loads, hl]
  rw [bind_ok (rd_run a s), bind_ok (get_run _), ha]
  dsimp only
  rw [bind_ok (isolated_ok (by rwa [reflexSide_after])), bind_ok (check_ok (decide_eq_true hm) _ _ _ _), bind_ok path,
    bind_ok (acquireWait_ok loads _), bind_ok hg, pure_run]

end

section
variable {s : State} {idx off : Nat} {t : MemType} {d : Reg} {p : GlobalPath}

theorem act_rdTouch (s : State) (keys : List Nat) : (s.rdTouch keys).act = s.act :=
  act_modTile s s.cur _ fun _ => rfl
/-- From the read cache, and then as the acquire part of a device fence (R299). -/
theorem globalLoad_acquired {bs : List Byte} (h : s.rdCached p = some (bs, false)) :
    globalLoad idx off t d p true s = .ok ((), ((s.rdTouch p.keys).give d (loaded t (leNat bs))).rdInvalidate s.cur s.act.tenant) := by
  unfold globalLoad
  rw [bind_ok (get_run s), h]
  dsimp only
  rw [if_neg (by decide), bind_ok (update_run _ _), bind_ok (wrPush_run _ _ _), if_pos rfl, extendLoad_eq, invalidateMine_run, act_give,
    act_rdTouch]
  rfl
/-- At its slice, filling no line (R131). -/
theorem globalLoad_acquiring (h : s.rdCached p = none) (hl : s.outstanding s.cur < 16) :
    globalLoad idx off t d p true s = .ok ((), (s.bump.toSlice
      { src := s.src, what := .load s.fresh p.keys, parts := p.map fun x => { x with rc := false } }).pend
      { id := s.fresh, d := d, blocking := true, acq := true, inv := true, size := t.size, signed := t.signed, pc := s.half.pc,
        faddr := resFaddr idx off, place := some (s.placeOf idx off p) }) := by
  unfold globalLoad
  rw [bind_ok (get_run s), h]
  dsimp only
  rw [bind_ok (waitUntil_ok (decide_eq_true hl) _ s), bind_ok (freshId_run s), bind_ok (sliceAccess_run _ _), pendingLoad_run]
  rfl

end

/-! ### Release stores (R299) -/

/-- A release that passes leaves the tile no store to wait for (R298). -/
theorem storesOut_of_release {s : State} {vec : Bool} {scope : Nat} (h : s.releaseStop vec scope = none) (hs : 1 ≤ scope) :
    (s.tile s.cur).storesOut = 0 := by
  unfold State.releaseStop at h
  dsimp only at h
  by_contra out
  rw [if_pos (c := 1 ≤ scope ∧ _) ⟨hs, out⟩] at h
  split at h <;> cases h
theorem act_posts (s : State) (p : GlobalPath) (bs : List Byte) : (s.posts p bs).act = s.act := by
  unfold State.posts State.postCells
  dsimp only
  split <;> split <;> rfl
theorem cur_posts (s : State) (p : GlobalPath) (bs : List Byte) : (s.posts p bs).cur = s.cur := by
  unfold State.posts State.postCells
  dsimp only
  split <;> split <;> rfl

section
variable {s : State} {t : MemType} {a r : Reg} (h : s.Ready { srcs := [r, a] })
include h

theorem stRel_own {u : State} {ea : Nat} (ha : addrWord ((s.after r).val a) = .loc ea) (hm : ea % t.size = 0)
    (hw : ((s.after r).after a).inWindow s.cur ea t.size .store) (hs : ((s.after r).after a).releaseStop false 0 = none)
    (hc : ((s.after r).after a).ordered.ownClear ea t.size = true) (hl : ((s.after r).after a).ordered.logs ea t.size u) :
    execStRel false t a r s = .next ((u.storeAt ea (leBytes t.size (s.val r).toNat)).retire { srcs := [r, a] } .next) := by
  refine issue_ok h ?_
  rw [bind_ok (rd_run r s), bind_ok (rd_run a _), bind_ok (get_run _), ha]
  dsimp only
  rw [bind_ok (requireOperand_ok (b := !false) rfl _), if_neg (not_not_intro hm)]
  refine (bind_ok (checkWin_ok hw 0)).trans ?_
  rw [bind_ok (releaseWait_ok hs _), bind_ok (storeOwn_ok (by rwa [leBytes_length]) (by rwa [leBytes_length])), pure_run]

theorem stRel_bay {ti ea : Nat} (ha : addrWord ((s.after r).val a) = .bay ti ea) (hm : ea % t.size = 0) (hb : ((s.after r).after a).bayOpen ti)
    (hw : ((s.after r).after a).inWindow (bayTile (bayOf s.cur) ti) ea t.size .remoteStore)
    (hs : ((s.after r).after a).releaseStop false 1 = none) :
    execStRel false t a r s = .next ((((s.after r).after a).ordered.bump.toBay (bayTile (bayOf s.cur) ti)
      (.store s.cur s.ctx s.share s.fresh ea (leBytes t.size (s.val r).toNat)) s.fresh false).spent.retire { srcs := [r, a] } .next) := by
  refine issue_ok h ?_
  have room : (((s.after r).after a).ordered.tile ((s.after r).after a).ordered.cur).storesOut < 16 := by
    rw [cur_ordered, storesOut_ordered, storesOut_of_release hs (by decide)]; decide
  rw [bind_ok (rd_run r s), bind_ok (rd_run a _), bind_ok (get_run _), ha]
  dsimp only
  rw [bind_ok (requireOperand_ok (b := !false) rfl _), if_neg (not_not_intro hm), bind_ok (bayTarget_ok hb _)]
  refine (bind_ok (checkWin_ok hw ti)).trans ?_
  rw [bind_ok (releaseWait_ok hs _), bind_ok (remoteStore_ok room), pure_run]
  simp only [share_ordered, share_after, cur_ordered, cur_after, ctx_ordered, ctx_after, fresh_ordered, fresh_after]

theorem stRel_glob {sys : Bool} {idx off : Nat} {q : Rec512} {ps : List Part'} (ha : addrWord ((s.after r).val a) = .glob idx off)
    (hx : s.reflexSide = false) (hm : off % t.size = 0) (hr : ((s.after r).after a).resourceOk idx off t.size 2 q)
    (ht : (((s.after r).after a).used idx).translates (resVbase q + off) t.size 2 ps)
    (hs : (((s.after r).after a).used idx).releaseStop false (if sys then 4 else 3) = none) :
    execStRel sys t a r s = .next ((((((s.after r).after a).used idx).ordered.posts (pathOf s.act.tenant q ps)
      (leBytes t.size (s.val r).toNat)).rdInvalidate s.cur s.act.tenant).retire { srcs := [r, a] } .next) := by
  refine issue_ok h ?_
  have path : globalPath idx off t.size 2 ((s.after r).after a) = .ok (pathOf s.act.tenant q ps, ((s.after r).after a).used idx) := by
    rw [globalPath_ok hr ht, act_used, act_after, act_after]
  rw [bind_ok (rd_run r s), bind_ok (rd_run a _), bind_ok (get_run _), ha]
  dsimp only
  rw [bind_ok (isolated_ok (by rwa [reflexSide_after, reflexSide_after])), bind_ok (check_ok (decide_eq_true hm) _ _ _ _), bind_ok path,
    bind_ok (releaseWait_ok hs _)]
  rw [globalStore, bind_ok (update_run _ _), bind_ok (invalidateMine_run _), pure_run, act_posts, cur_posts]
  simp only [act_ordered, act_used, act_after, cur_ordered, cur_used, cur_after]

end

/-! ### The read cache (R132) -/

theorem cinv_ready {s : State} {a : Reg} {idx off : Nat} {r : Rec512} {ps : List Part'} (h : s.Ready { srcs := [a], iso := true })
    (ha : addrWord (s.val a) = .glob idx off) (hr : (s.after a).resourceOk idx off 1 1 r)
    (ht : ((s.after a).used idx).translates (resVbase r + off) 1 1 ps) :
    execCinv a s = .next ((((s.after a).used idx).modTile s.cur fun x => { x with rdcache := x.rdcache.filter fun y =>
      !(decide (y.tenant = s.act.tenant) && (linesOf (pathOf s.act.tenant r ps).keys).contains y.line) }).retire
        { srcs := [a], iso := true } .next) := by
  refine issue_ok h ?_
  have path : globalPath idx off 1 1 (s.after a) = .ok (pathOf s.act.tenant r ps, (s.after a).used idx) := by
    rw [globalPath_ok hr ht, act_used, act_after]
  rw [bind_ok (rd_run a s), ha]
  dsimp only
  rw [bind_ok path, bind_ok (update_run _ _), pure_run, act_used, act_after, cur_used, cur_after]

/-- Settles O22: each form passes its checks one after the other, or stops at the first that fails. -/
theorem fences : Obligations.Fences := by
  refine ⟨⟨fun s scope vec kind h hv ha hr => (exec_fence scope vec kind s).trans (fence_completes h hv ha hr),
      fun s h => (exec_cinvAll s).trans (issue_ok h (by rw [bind_ok (invalidateMine_run s), pure_run])),
      fun s a idx off r ps h ha hr ht => (exec_cinv a s).trans (cinv_ready h ha hr ht)⟩,
    fun s scope vec kind h => ⟨fun hc hv => (exec_fence scope vec kind s).trans (fence_waitsForVector h hc hv),
      fun hv => ⟨fun hk hl => (exec_fence scope vec kind s).trans (fence_waitsForLoads h hv hk hl),
        fun f hk ha hr => (exec_fence scope vec kind s).trans (fence_waitsForStores h hv hk ha hr)⟩⟩,
    fun s t sys a r => ⟨fun h hw => (exec_ldAcq sys t a r s).trans (ldAcq_illegal h hw),
      fun h hw => (exec_stRel sys t a r s).trans (stRel_illegal h hw), fun h hw => (exec_cinv a s).trans (cinv_illegal h hw)⟩,
    fun s t a d ea h ha hm hw hr hl => (exec_ldAcq false t a d s).trans (ldAcq_own h ha hm hw hr hl),
    fun s t a d ti ea h ha hm hb hw hl hn => (exec_ldAcq false t a d s).trans (ldAcq_bay h ha hm hb hw hl hn), ?glob,
    fun s u t a r ea h ha hm hw hs hc hl => (exec_stRel false t a r s).trans (stRel_own h ha hm hw hs hc hl),
    fun s t a r ti ea h ha hm hb hw hs => (exec_stRel false t a r s).trans (stRel_bay h ha hm hb hw hs),
    fun s sys t a x idx off r ps h ha hx hm hr ht hs => (exec_stRel sys t a x s).trans (stRel_glob h ha hx hm hr ht hs)⟩
  intro s sys t a d idx off r ps h ha hx hm s2 p hr ht hl
  refine ⟨fun bs hc => ?_, fun hc hn => ?_⟩
  · rw [exec_ldAcq, ldAcq_glob h ha hx hm hr ht hl (globalLoad_acquired hc)]
    simp only [act_ordered, act_used, act_after, cur_ordered, cur_used, cur_after, s2, p]
  · rw [exec_ldAcq, ldAcq_glob h ha hx hm hr ht hl (globalLoad_acquiring hc (by rwa [cur_ordered, cur_used]))]
    simp only [src_ordered, fresh_ordered, half_ordered, half_used, pc_after, s2, p]

end Sys2Proof.Machine
end

section
/-! Sending forms, the triggering message, groups and barriers (R302 to R326, R378). -/

namespace Sys2Proof.Machine
open Sys2Proof

/-! ### What reading a body leaves (R110, R320) -/

@[simp] theorem bays_reads (s : State) (ea n : Nat) : (s.reads ea n).bays = s.bays := by
  unfold State.reads State.senseWin; rw [sense_eq]
@[simp] theorem pid_reads (s : State) (ea n : Nat) : (s.reads ea n).pid = s.pid := by simp [State.pid]
@[simp] theorem resolve_reads (s : State) (ea n w : Nat) : (s.reads ea n).resolve w = s.resolve w := by simp [State.resolve, State.part]
@[simp] theorem launch_reads (s : State) (ea n : Nat) : (s.reads ea n).launch = s.launch := by simp [State.launch, State.launchOf]
@[simp] theorem outRoom_reads (s : State) (ea n k : Nat) : (s.reads ea n).outRoom k = s.outRoom k := by
  simp [State.outRoom, State.outLimits, State.armed, State.bay]
@[simp] theorem newMsg_reads (s : State) (ea n : Nat) : (s.reads ea n).newMsg = s.newMsg := by
  simp [State.newMsg, State.tileWord, State.tileWordAt, State.part, State.pidAt]
@[simp] theorem memberTile_reads (s : State) (ea n l : Nat) : (s.reads ea n).memberTile l = s.memberTile l := by simp [State.memberTile]

/-! ### Sending forms (R311, R319, R320) -/

/-- A form whose body comes to appending an item: it completes where there is room, and else takes the trap 0x10. -/
theorem sends {o : Op} {body : Exec Flow} {s u : State} {n : Nat} {k : OutKind} (h : s.Ready o)
    (hb : body s = (appendOut n k >>= fun _ => pure .next) u) :
    (u.outRoom n = true → issue o body s = .next ((u.items n k).retire o .next))
    ∧ (u.outRoom n = false → issue o body s = .next (s.takeTrap s.half.pc { code := 0x10, faddr := BitVec.ofNat 64 n })) :=
  ⟨fun room => issue_ok h (by rw [hb, bind_ok (appendOut_ok room k), pure_run]),
    fun full => issue_traps h (by rw [hb, bind_error (appendOut_stop full k)]) rfl⟩

section
variable {s : State} {rep : Bool} {b a : Reg} {t : Nat}

theorem msgSend_sends (h : s.Ready { srcs := [a, b] }) (hw : onlyBits (s.val a) [(10, 0), (21, 16)] = true)
    (hb : ((s.after a).after b).bodyOk ((s.after a).val b) 0) (ht : ((s.after a).after b).resolve (wfield (s.val a) 10 0) = some t) :
    let s2 := (s.after a).after b
    let pw := (s.after a).val b
    let n := 16 + wfield pw 39 32
    (s2.outRoom n = true → execMsgSend rep b a s = .next (((s2.bodyRead pw).items n (.msgs [{ s2.newMsg with
        kind := 0, vnet := if rep then 1 else 0, chan := wfield (s.val a) 21 16, dest := BitVec.ofNat 11 (wfield (s.val a) 10 0), dst := t,
        body := s2.body pw, pmask := (s2.bodyRead pw).bodyMask pw }])).retire { srcs := [a, b] } .next))
    ∧ (s2.outRoom n = false → execMsgSend rep b a s = .next (s.takeTrap s.half.pc { code := 0x10, faddr := BitVec.ofNat 64 n })) := by
  intro s2 pw n
  rw [← outRoom_reads s2 (wfield pw 19 0) (wfield pw 39 32)]
  refine sends h ?_
  rw [bind_ok (rd_run a s), bind_ok (rd_run b _), bind_ok (requireOperand_ok hw _), bind_ok (payloadWord_ok hb.1 _),
    bind_ok (targetTile_ok ht), bind_ok (bodyOwn_ok hb), bind_ok (get_run _), State.bodyRead, newMsg_reads]
  rfl

theorem msgPut_sends (h : s.Ready { srcs := [a, b] }) (hw : onlyBits (s.val a) [(10, 0), (51, 32)] = true) (h8 : wfield (s.val a) 51 32 % 8 = 0)
    (hb : ((s.after a).after b).bodyOk ((s.after a).val b) 8) (ht : ((s.after a).after b).resolve (wfield (s.val a) 10 0) = some t) :
    let s2 := (s.after a).after b
    let pw := (s.after a).val b
    let n := 16 + wfield pw 39 32
    (s2.outRoom n = true → execMsgPut rep b a s = .next (((s2.bodyRead pw).items n (.msgs [{ s2.newMsg with
        kind := 2, vnet := if rep then 1 else 0, dest := BitVec.ofNat 11 (wfield (s.val a) 10 0), dst := t, addr := wfield (s.val a) 51 32,
        body := s2.body pw, pmask := (s2.bodyRead pw).bodyMask pw }])).retire { srcs := [a, b] } .next))
    ∧ (s2.outRoom n = false → execMsgPut rep b a s = .next (s.takeTrap s.half.pc { code := 0x10, faddr := BitVec.ofNat 64 n })) := by
  intro s2 pw n
  rw [← outRoom_reads s2 (wfield pw 19 0) (wfield pw 39 32)]
  refine sends h ?_
  rw [bind_ok (rd_run a s), bind_ok (rd_run b _), bind_ok (requireOperand_ok (by rw [hw, decide_eq_true h8]; rfl) _),
    bind_ok (payloadWord_ok hb.1 _), bind_ok (targetTile_ok ht), bind_ok (bodyOwn_ok hb), bind_ok (get_run _), State.bodyRead, newMsg_reads]
  rfl

theorem msgSendn_sends {k : BitVec 3} (h : s.Ready { srcs := [a] }) (hw : onlyBits (s.val a) [(10, 0), (21, 16)] = true)
    (ht : (s.after a).resolve (wfield (s.val a) 10 0) = some t) :
    let s1 := s.after a
    let n := k.toNat + 1
    (s1.outRoom (16 + 8 * n) = true → execMsgSendn k rep a s = .next ((s1.items (16 + 8 * n) (.msgs [{ s1.newMsg with
        kind := 0, vnet := if rep then 1 else 0, chan := wfield (s.val a) 21 16, dest := BitVec.ofNat 11 (wfield (s.val a) 10 0), dst := t,
        body := wordsBody (s1.half.n.toList.take n), pmask := BitVec.ofNat 30 (s1.half.npoison.toNat % 2 ^ n) }])).retire { srcs := [a] } .next))
    ∧ (s1.outRoom (16 + 8 * n) = false →
        execMsgSendn k rep a s = .next (s.takeTrap s.half.pc { code := 0x10, faddr := BitVec.ofNat 64 (16 + 8 * n) })) := by
  intro s1 n
  refine sends h ?_
  rw [bind_ok (rd_run a s), bind_ok (requireOperand_ok hw _), bind_ok (targetTile_ok ht), bind_ok (get_run _)]
  rfl

theorem msgSpawn_sends (h : s.Ready { srcs := [a] }) (hw : onlyBits (s.val a) [(10, 0)] = true)
    (ht : (s.after a).resolve (wfield (s.val a) 10 0) = some t) :
    let s1 := s.after a
    (s1.outRoom 32 = true → execMsgSpawn a s = .next ((s1.items 32 (.msgs [{ s1.newMsg with
        kind := 1, vnet := 0, dest := BitVec.ofNat 11 (wfield (s.val a) 10 0), dst := t,
        body := wordsBody [s1.half.e.get 0, s1.half.e.get 1, s1.half.e.get 2] }])).retire { srcs := [a] } .next))
    ∧ (s1.outRoom 32 = false → execMsgSpawn a s = .next (s.takeTrap s.half.pc { code := 0x10, faddr := BitVec.ofNat 64 32 })) := by
  intro s1
  have first3 : s1.half.e.toList.take 3 = [s1.half.e.get 0, s1.half.e.get 1, s1.half.e.get 2] := by
    refine List.ext_getElem (by simp) fun i hi _ => ?_
    have : i < 3 := by simpa using hi
    interval_cases i <;> simp [Vector.get_eq_getElem]
  refine sends h ?_
  rw [bind_ok (rd_run a s), bind_ok (requireOperand_ok hw _), bind_ok (targetTile_ok ht), bind_ok (get_run _), first3]

theorem msgHost_sends (h : s.Ready { srcs := [b] }) (hb : (s.after b).bodyOk (s.val b) 0) :
    let s1 := s.after b
    let pw := s.val b
    let n := 16 + wfield pw 39 32
    (s1.outRoom n = true → execMsgHost b s = .next (((s1.bodyRead pw).items n (.host { s1.newMsg with
        kind := 0, vnet := 3, dest := 0x7FF#11, body := s1.body pw, pmask := (s1.bodyRead pw).bodyMask pw })).retire { srcs := [b] } .next))
    ∧ (s1.outRoom n = false → execMsgHost b s = .next (s.takeTrap s.half.pc { code := 0x10, faddr := BitVec.ofNat 64 n })) := by
  intro s1 pw n
  rw [← outRoom_reads s1 (wfield pw 19 0) (wfield pw 39 32)]
  refine sends h ?_
  rw [bind_ok (rd_run b s), bind_ok (payloadWord_ok hb.1 _), bind_ok (bodyOwn_ok hb), bind_ok (get_run _), State.bodyRead, newMsg_reads]

end

/-- Settles O23: of each sending form both ends, with room and without. -/
theorem messageSends : Obligations.MessageSends := by
  refine ⟨⟨fun s rep b a t h hw hb ht room => (exec_msgSend rep b a s).trans ((msgSend_sends h hw hb ht).1 room),
    fun s k rep a t h hw ht room => (exec_msgSendn k rep a s).trans ((msgSendn_sends h hw ht).1 room),
    fun s a t h hw ht room => (exec_msgSpawn a s).trans ((msgSpawn_sends h hw ht).1 room),
    fun s b h hb room => (exec_msgHost b s).trans ((msgHost_sends h hb).1 room),
    fun s rep b a t h hw h8 hb ht room => (exec_msgPut rep b a s).trans ((msgPut_sends h hw h8 hb ht).1 room)⟩,
    fun s rep b a t => ⟨fun h ht no => ⟨fun hw hb => ?_, fun hw h8 hb => ?_⟩,
      fun h ht => ⟨fun k hw no => ?_, fun hw no => ?_⟩, fun h hb no => ?_⟩⟩
  · exact (exec_msgSend rep b a s).trans ((msgSend_sends h hw hb ht).2 no)
  · exact (exec_msgPut rep b a s).trans ((msgPut_sends h hw h8 hb ht).2 no)
  · exact (exec_msgSendn k rep a s).trans ((msgSendn_sends h hw ht).2 no)
  · exact (exec_msgSpawn a s).trans ((msgSpawn_sends h hw ht).2 no)
  · exact (exec_msgHost a s).trans ((msgHost_sends h hb).2 no)

/-! ### The triggering message (R321) -/

section
variable {s : State} {b a : Reg}

theorem msgArg_clean (h : s.Ready { srcs := [b], dsts := [a] }) (hi : (s.val b).toNat ≤ 29)
    (hp : s.act.msg.pmask.getLsbD (s.val b).toNat = false) :
    execMsgArg b a s = .next (((s.after b).give a (if 8 * (s.val b).toNat + 8 ≤ s.act.msg.body.length then
      BitVec.ofNat 64 (leNat ((s.act.msg.body.drop (8 * (s.val b).toNat)).take 8)) else 0#64)).retire { srcs := [b], dsts := [a] } .next) := by
  refine issueValue_ok h ?_
  rw [bind_ok (rd_run b s), bind_ok (requireOperand_ok (decide_eq_true hi) _), bind_ok (get_run _), act_after,
    bind_ok (check_ok (by rw [hp]; rfl) _ _ _ _)]
  rfl
theorem msgArg_poisoned (h : s.Ready { srcs := [b], dsts := [a] }) (hi : (s.val b).toNat ≤ 29)
    (hp : s.act.msg.pmask.getLsbD (s.val b).toNat = true) :
    execMsgArg b a s = .next (s.takeTrap s.half.pc { code := 0x28, reason := 2, faddr := s.val b }) := by
  refine issueValue_traps h ?_ rfl
  rw [bind_ok (rd_run b s), bind_ok (requireOperand_ok (decide_eq_true hi) _), bind_ok (get_run _), act_after,
    bind_error (check_stop (by rw [hp]; rfl) _ _ _ _)]
theorem msgHdr_ready (h : s.Ready { srcs := [b], dsts := [a] }) (hi : (s.val b).toNat ≤ 1) :
    execMsgHdr b a s = .next (((s.after b).give a
      (BitVec.ofNat 64 (s.act.msg.header / 2 ^ (64 * (s.val b).toNat)))).retire { srcs := [b], dsts := [a] } .next) := by
  refine issueValue_ok h ?_
  rw [bind_ok (rd_run b s), bind_ok (requireOperand_ok (decide_eq_true hi) _), bind_ok (get_run _), act_after, pure_run]
theorem msgMask_ready {c : BitVec 6} (h : s.Ready { srcs := [b] }) (hi : (s.val b).toNat ≤ 1) (hc : (s.after b).ownsChannel c.toNat = true) :
    execMsgMask c b s = .next (((s.after b).modTile s.cur fun t => { t with
      handlers := t.handlers.set c.toNat { t.handlers.get c.toFin with mask := decide (s.val b = 1#64) } c.isLt }).retire { srcs := [b] } .next) := by
  have number : Fin.ofNat 64 c.toNat = c.toFin := Fin.ext (Nat.mod_eq_of_lt c.isLt)
  refine issue_ok h ?_
  rw [bind_ok (rd_run b s), bind_ok (requireOperand_ok (decide_eq_true hi) _), bind_ok (get_run _), bind_ok (requireOperand_ok hc _),
    bind_ok (update_run _ _), pure_run]
  simp only [Tile.modHandler, number, cur_after]
  rfl

end

/-! ### Groups (R322, R326) -/

theorem groupRank_eq (g : BitVec 512) (t : Nat) : groupRank g t = (List.range 512).countP fun x => g.getLsbD x && decide (x < t) := by
  unfold groupRank members
  rw [List.countP_filter]
  simp only [Bool.and_comm]
theorem members_length (g : BitVec 512) : (members g).length = (List.range 512).countP fun x => g.getLsbD x := by
  rw [List.countP_eq_length_filter]; rfl
/-- A seizing handler is a member of no group (R378). -/
theorem member_iff (s : State) (g : Nat) : s.member g = true ↔ s.share ≠ 2 ∧ (s.launch.group g).getLsbD s.logicalTile = true := by
  simp [State.member]

section
variable {s : State} {b a : Reg}

theorem grpRank_ready (h : s.Ready { srcs := [b], dsts := [a] }) (hg : (s.val b).toNat < 256) :
    execGrpRank b a s = .next (((s.after b).give a (if (s.after b).member (s.val b).toNat = true then BitVec.ofNat 64
      (groupRank ((s.after b).launch.group (s.val b).toNat) (s.after b).logicalTile) else Word.ones)).retire { srcs := [b], dsts := [a] } .next) := by
  refine issueValue_ok h ?_
  rw [bind_ok (rd_run b s), bind_ok (requireOperand_ok (decide_eq_true hg) _), bind_ok (get_run _), pure_run]
theorem grpSize_ready (h : s.Ready { srcs := [b], dsts := [a] }) (hg : (s.val b).toNat < 256)
    (hm : (s.after b).member (s.val b).toNat = true) :
    execGrpSize b a s = .next (((s.after b).give a
      (BitVec.ofNat 64 (members ((s.after b).launch.group (s.val b).toNat)).length)).retire { srcs := [b], dsts := [a] } .next) := by
  refine issueValue_ok h ?_
  rw [bind_ok (rd_run b s), bind_ok (get_run _), bind_ok (requireOperand_ok (by rw [hm, decide_eq_true hg]; rfl) _), pure_run]
theorem grpSize_illegal (h : s.Ready { srcs := [b], dsts := [a] }) (hm : (s.after b).member (s.val b).toNat = false) :
    execGrpSize b a s = .next (s.takeTrap s.half.pc { code := 0x21, faddr := s.wordAtPc 4 }) := by
  refine issueValue_illegalOperand h ?_
  rw [bind_ok (rd_run b s), bind_ok (get_run _), bind_error (requireOperand_stop (by rw [hm, Bool.and_false]) _)]
theorem grpTile_ready (h : s.Ready { srcs := [b], dsts := [a] }) (hw : onlyBits (s.val b) [(7, 0), (24, 16)] = true)
    (hm : (s.after b).member (wfield (s.val b) 7 0) = true) :
    execGrpTile b a s = .next (((s.after b).give a
      ((members ((s.after b).launch.group (wfield (s.val b) 7 0)))[wfield (s.val b) 24 16]?.elim (BitVec.allOnes 64) (BitVec.ofNat 64))).retire
        { srcs := [b], dsts := [a] } .next) := by
  refine issueValue_ok h ?_
  rw [bind_ok (rd_run b s), bind_ok (get_run _), bind_ok (requireOperand_ok (by rw [hw, hm]; rfl) _), pure_run]
  generalize (members _)[wfield (s.val b) 24 16]? = l
  cases l <;> rfl
theorem grpSend_ready {rep : Bool} (h : s.Ready { srcs := [a, b] }) (hw : onlyBits (s.val a) [(7, 0), (21, 16)] = true)
    (hm : ((s.after a).after b).member (wfield (s.val a) 7 0) = true) (hb : ((s.after a).after b).bodyOk ((s.after a).val b) 0)
    (room : ((s.after a).after b).outRoom (16 + wfield ((s.after a).val b) 39 32) = true) :
    let s2 := (s.after a).after b
    let pw := (s.after a).val b
    execGrpSend rep b a s = .next (((s2.bodyRead pw).items (16 + wfield pw 39 32) (.msgs ((members (s2.launch.group (wfield (s.val a) 7 0))).map
      fun l => { s2.newMsg with
        kind := 0, vnet := if rep then 1 else 0, chan := wfield (s.val a) 21 16, body := s2.body pw, pmask := (s2.bodyRead pw).bodyMask pw,
        dest := memberWord s.cur l, dst := s2.memberTile l }))).retire { srcs := [a, b] } .next) := by
  intro s2 pw
  refine issue_ok h ?_
  rw [bind_ok (rd_run a s), bind_ok (rd_run b _), bind_ok (get_run _), bind_ok (requireOperand_ok (by rw [hw, hm]; rfl) _),
    bind_ok (payloadWord_ok hb.1 _), bind_ok (bodyOwn_ok hb)]
  dsimp only
  rw [bind_ok (appendOut_ok (by rwa [State.bodyRead, outRoom_reads]) _), pure_run]
  rfl
theorem barArr_ready (h : s.Ready { srcs := [a] }) (hw : onlyBits (s.val a) [(7, 0), (26, 16), (37, 32)] = true)
    (hm : (s.after a).member (wfield (s.val a) 7 0) = true) (room : (s.after a).outRoom 32 = true) :
    let s1 := s.after a
    let home := (members (s1.launch.group (wfield (s.val a) 7 0))).headD 0
    execBarArr a s = .next ((s1.items 32 (.msgs [{ s1.newMsg with
      kind := 3, vnet := 2, chan := wfield (s.val a) 37 32, dest := memberWord s.cur home, dst := s1.memberTile home,
      body := wordsBody [s.val a, 0#64] }])).retire { srcs := [a] } .next) := by
  intro s1 home
  refine issue_ok h ?_
  rw [bind_ok (rd_run a s), bind_ok (get_run _), bind_ok (requireOperand_ok (by rw [hw, hm]; rfl) _)]
  dsimp only
  rw [bind_ok (appendOut_ok room _), pure_run]
  rfl

end

/-- Settles O24: the forms that read the message and its groups, and those that send to them. -/
theorem messagesAndGroups : Obligations.MessagesAndGroups := by
  refine ⟨⟨fun s b a h hi => ⟨fun hp => (exec_msgArg b a s).trans (msgArg_clean h hi hp),
      fun hp => (exec_msgArg b a s).trans (msgArg_poisoned h hi hp)⟩,
      fun s b a h hi => (exec_msgHdr b a s).trans (msgHdr_ready h hi),
      fun s c b h hi hc => (exec_msgMask c b s).trans (msgMask_ready h hi hc)⟩,
    ⟨?group, ?tile⟩,
    fun s rep b a h hw hm hb room => (exec_grpSend rep b a s).trans (grpSend_ready h hw hm hb room),
    fun s a h hw hm room => (exec_barArr a s).trans (barArr_ready h hw hm room)⟩
  case tile =>
    intro s b a h s1 w hw hm
    rw [exec_grpTile, grpTile_ready h hw hm]
    generalize (members _)[wfield (s.val b) 24 16]? = l
    cases l <;> rfl
  intro s b a h hg s1 g mine
  have member : s1.member (s.val b).toNat = true ↔ mine := by rw [member_iff, share_after]
  have stranger (hm : ¬ mine) : s1.member (s.val b).toNat = false := by rwa [← member, Bool.not_eq_true] at hm
  refine ⟨fun hm => ?_, fun hm => ?_, fun hm => ?_, fun hm => ?_⟩
  · rw [exec_grpRank, grpRank_ready h hg, if_pos (member.mpr hm), groupRank_eq]
  · rw [exec_grpRank, grpRank_ready h hg, if_neg (mt member.mp hm)]
    rfl
  · rw [exec_grpSize, grpSize_ready h hg (member.mpr hm), members_length]
  · rw [exec_grpSize, grpSize_illegal h (stranger hm)]

end Sys2Proof.Machine
end

section
/-! Matrix engine commands, status and bay commands (R255 to R280). -/

namespace Sys2Proof.Machine
open Sys2Proof

/-! ### Commands of the own half (R255, R259, R261) -/

theorem mxIssue_ok {s : State} {sub : Nat} {notify : Bool} {ch : Nat} {a b b0 : Word} (h : s.commandOk sub a b) :
    mxIssue sub notify ch a b b0 s = .ok ((), s.commands sub notify ch a b b0) := by
  obtain ⟨words, limits, extent, room⟩ := h
  unfold mxIssue
  rw [bind_ok (get_run s), bind_ok (requireOperand_ok (by rw [words, limits]; rfl) s), extent]
  dsimp only
  rw [bind_ok (waitUntil_ok (decide_eq_true room) _ s), bind_ok (freshId_run s), update_run]
  rfl

theorem pfx_after (s : State) (r : Reg) : (s.after r).half.pfx = s.half.pfx := by simp [Half.pfx, Half.pp]

section
variable {s : State} {nt : Bool} {c : BitVec 6} {b a : Reg}

theorem mxMma_ready (h : s.Ready { srcs := [a, b], pfx := mmaPfx, illegal := chanIllegal nt c })
    (hc : ((s.after a).after b).commandOk 1 (s.val a) (mmaShape s.half.pfx ((s.after a).val b))) :
    execMxMma nt c b a s = .next ((((s.after a).after b).commands 1 nt c.toNat (s.val a) (mmaShape s.half.pfx ((s.after a).val b))
      ((s.after a).val b)).retire { srcs := [a, b] } .next) := by
  refine issue_ok h ?_
  rw [bind_ok (rd_run a s), bind_ok (rd_run b _), bind_ok (get_run _), pfx_after, pfx_after, bind_ok (mxIssue_ok hc), pure_run]
theorem mxRd_ready (h : s.Ready { srcs := [a, b], pfx := rdPfx, illegal := chanIllegal nt c })
    (hc : ((s.after a).after b).commandOk 3 (s.val a) (rdShape s.half.pfx ((s.after a).val b))) :
    execMxRd nt c b a s = .next ((((s.after a).after b).commands 3 nt c.toNat (s.val a) (rdShape s.half.pfx ((s.after a).val b))
      ((s.after a).val b)).retire { srcs := [a, b] } .next) := by
  refine issue_ok h ?_
  rw [bind_ok (rd_run a s), bind_ok (rd_run b _), bind_ok (get_run _), pfx_after, pfx_after, bind_ok (mxIssue_ok hc), pure_run]
theorem mxLdacc_ready (h : s.Ready { srcs := [a, b], illegal := chanIllegal nt c })
    (hc : ((s.after a).after b).commandOk 4 (s.val a) ((s.after a).val b)) :
    execMxLdacc nt c b a s = .next ((((s.after a).after b).commands 4 nt c.toNat (s.val a) ((s.after a).val b)
      ((s.after a).val b)).retire { srcs := [a, b] } .next) := by
  refine issue_ok h ?_
  rw [bind_ok (rd_run a s), bind_ok (rd_run b _), bind_ok (mxIssue_ok hc), pure_run]
theorem mxZero_ready (h : s.Ready { srcs := [b], illegal := chanIllegal nt c }) (hc : (s.after b).commandOk 2 0#64 (s.val b)) :
    execMxZero nt c b s = .next (((s.after b).commands 2 nt c.toNat 0#64 (s.val b) (s.val b)).retire { srcs := [b] } .next) := by
  refine issue_ok h ?_
  rw [bind_ok (rd_run b s), bind_ok (mxIssue_ok hc), pure_run]
theorem mxLdb_ready (h : s.Ready { srcs := [a] }) (hc : (s.after a).commandOk 0 (s.val a) 0#64) :
    execMxLdb a s = .next (((s.after a).commands 0 false 0 (s.val a) 0#64 0#64).retire { srcs := [a] } .next) := by
  refine issue_ok h ?_
  rw [bind_ok (rd_run a s), bind_ok (mxIssue_ok hc), pure_run]
theorem mxCfg_ready (h : s.Ready { srcs := [a] }) (hc : (s.after a).commandOk 7 (s.val a) 0#64) :
    execMxCfg a s = .next (((s.after a).commands 7 false 0 (s.val a) 0#64 0#64).retire { srcs := [a] } .next) := by
  refine issue_ok h ?_
  rw [bind_ok (rd_run a s), bind_ok (mxIssue_ok hc), pure_run]

end

/-! ### The status of the engine (R276) -/

theorem engine_after (s : State) (r : Reg) (t : Nat) (i : Fin 3) : ((s.after r).tile t).engine i = (s.tile t).engine i := by
  simp only [Tile.engine, tile_after_engines]

section
variable {s : State} {b a : Reg} (h : s.Ready { srcs := [b], dsts := [a] }) (hw : onlyBits (s.val b) [(0, 0)] = true)
  (hp : (s.after b).mxPending s.cur s.act.id = false)
include h hw hp

theorem mxStat_reads (hx : s.val b ≠ 1#64) :
    execMxStat b a s = .next (((s.after b).give a ((s.tile s.cur).engine (s.after b).share).status).retire { srcs := [b], dsts := [a] } .next) := by
  refine issueValue_ok h ?_
  rw [bind_ok (rd_run b s), bind_ok (requireOperand_ok hw _), bind_ok (get_run _),
    bind_ok (waitUntil_ok (by rw [cur_after, act_after, hp]; rfl) _ _), if_neg hx]
  simp only [cur_after, engine_after]
  rfl
theorem mxStat_clears (hx : s.val b = 1#64) :
    execMxStat b a s = .next ((((s.after b).modEngine s.cur (s.after b).share fun e => { e with flags := 0#5, origin := none }).give a
      ((s.tile s.cur).engine (s.after b).share).status).retire { srcs := [b], dsts := [a] } .next) := by
  refine issueValue_ok h ?_
  rw [bind_ok (rd_run b s), bind_ok (requireOperand_ok hw _), bind_ok (get_run _),
    bind_ok (waitUntil_ok (by rw [cur_after, act_after, hp]; rfl) _ _), if_pos hx, bind_ok (update_run _ _)]
  simp only [cur_after, engine_after]
  rfl

end

/-! ### The bay command (R278, R280) -/

theorem mxBay_ready {s : State} {nt : Bool} {c : BitVec 6} {b a : Reg}
    (h : s.Ready { srcs := [a, b], pfx := mmaPfx, illegal := chanIllegal nt c }) :
    let s2 := (s.after a).after b
    let y := (s.after a).val b
    let sh := mmaShape s.half.pfx y
    s2.mxWordsOk s.cur s2.share 5 (s.val a) sh = true → s2.mxLimitsOk s.cur s2.share 5 (s.val a) sh = true → s2.share ≠ 2 →
    ((s2.tile s.cur).share s2.share).bayMask = 0xFFFF#16 →
    s2.mxExtentFault s.cur s2.share 5 (s.val a) sh = none → s2.outRoom 64 = true →
      execMxBay nt c b a s = .next ((s2.bump.items 64 (.bay {
        uid := s.fresh, sub := 5, a := s.val a, b := sh, b0 := y, notify := if nt then some c.toNat else none, tenant := s.act.tenant,
        launch := s.act.launch, pid := s.act.pid, prio := s.act.prio, core := s2.tileWord.toNat % 1024,
        fork := some (s.cur, s.ctx, s.fresh) })).retire { srcs := [a, b] } .next) := by
  intro s2 y sh words limits share mask extent room
  refine issue_ok h ?_
  rw [bind_ok (rd_run a s), bind_ok (rd_run b _), bind_ok (get_run _), pfx_after, pfx_after, act_after, act_after, cur_after, cur_after]
  dsimp only
  rw [bind_ok (requireOperand_ok (by rw [words, limits, decide_eq_true mask, decide_eq_true share]; rfl) _), extent]
  dsimp only
  rw [bind_ok (checkOut_ok room), bind_ok (freshId_run _), bind_ok (appendOut_ok (s := s2.bump) room _), pure_run]
  rfl

/-- Settles O25: the commands of the own half through the one check at issue, the status word, the bay command. -/
theorem engineForms : Obligations.EngineForms := by
  refine ⟨⟨fun s a h hc => (exec_mxLdb a s).trans (mxLdb_ready h hc), fun s nt c b a h hc => (exec_mxMma nt c b a s).trans (mxMma_ready h hc),
      fun s nt c b h hc => (exec_mxZero nt c b s).trans (mxZero_ready h hc), fun s nt c b a h hc => (exec_mxRd nt c b a s).trans (mxRd_ready h hc),
      fun s nt c b a h hc => (exec_mxLdacc nt c b a s).trans (mxLdacc_ready h hc), fun s a h hc => (exec_mxCfg a s).trans (mxCfg_ready h hc)⟩,
    fun s b a h hw hp => ⟨fun hx => (exec_mxStat b a s).trans (mxStat_reads h hw hp (by rw [hx]; decide)),
      fun hx => (exec_mxStat b a s).trans (mxStat_clears h hw hp hx)⟩,
    fun s nt c b a h h1 h2 h3 h4 h5 h6 => (exec_mxBay nt c b a s).trans (mxBay_ready h h1 h2 h3 h4 h5 h6)⟩

end Sys2Proof.Machine
end

section
/-! Copies, gathers and their channels (R88 to R105). -/

namespace Sys2Proof.Machine
open Sys2Proof

/-! ### What the use of a resource entry and a channel's next identifier leave -/

/-- Two states that agree in the running context and in the tile's contexts, shares and split have the same share running. -/
theorem share_eq_of {s u : State} (hc : u.cur = s.cur) (hk : u.ctx = s.ctx) (hx : (u.tile s.cur).ctxs = (s.tile s.cur).ctxs)
    (hp : (u.tile s.cur).split = (s.tile s.cur).split) : u.share = s.share := by
  simp only [State.share, State.shareAt, State.slotAt, Tile.ctx, hc, hk, hx, hp]
  rfl
/-- Where the shares and the bays agree too, so does the room in the out-buffer. -/
theorem outRoom_eq_of {s u : State} (hc : u.cur = s.cur) (hk : u.ctx = s.ctx) (hx : (u.tile s.cur).ctxs = (s.tile s.cur).ctxs)
    (hp : (u.tile s.cur).split = (s.tile s.cur).split) (hs : (u.tile s.cur).shares = (s.tile s.cur).shares) (hb : u.bays = s.bays) (n : Nat) :
    u.outRoom n = s.outRoom n := by
  simp only [State.outRoom, State.outLimits, State.armed, State.bay, Tile.share, hc, share_eq_of hc hk hx hp, hp, hs, hb]
  rfl

theorem bays_used (s : State) (idx : Nat) : (s.used idx).bays = s.bays := by unfold State.used; rw [useRes_eq]
@[simp] theorem share_used (s : State) (idx : Nat) : (s.used idx).share = s.share := by
  obtain ⟨rc, e⟩ := tile_useRes_eq s s.cur s.pid idx s.cur
  have tile : (s.used idx).tile s.cur = { s.tile s.cur with rcache := rc } := e
  exact share_eq_of (cur_used s idx) (ctx_used s idx) (by rw [tile]) (by rw [tile])
@[simp] theorem outRoom_used (s : State) (idx n : Nat) : (s.used idx).outRoom n = s.outRoom n := by
  obtain ⟨rc, e⟩ := tile_useRes_eq s s.cur s.pid idx s.cur
  have tile : (s.used idx).tile s.cur = { s.tile s.cur with rcache := rc } := e
  exact outRoom_eq_of (cur_used s idx) (ctx_used s idx) (by rw [tile]) (by rw [tile]) (by rw [tile]) (bays_used s idx) n
theorem chan_used (s : State) (idx : Nat) (i : Fin 3) (c : Nat) : ((s.used idx).tile s.cur).chan i c = (s.tile s.cur).chan i c := by
  obtain ⟨rc, e⟩ := tile_useRes_eq s s.cur s.pid idx s.cur
  have tile : (s.used idx).tile s.cur = { s.tile s.cur with rcache := rc } := e
  simp only [Tile.chan, tile]
theorem outRoom_modChan (s : State) (i : Fin 3) (c : Nat) (f : CopyChan → CopyChan) (n : Nat) : (s.modChan s.cur i c f).outRoom n = s.outRoom n := by
  have view {α : Type} (g : Tile → α) (hg : ∀ x : Tile, g (x.modChan i c f) = g x) : g ((s.modChan s.cur i c f).tile s.cur) = g (s.tile s.cur) :=
    tile_modTile_view g s s.cur s.cur _ hg
  have keeps {α : Type} (g : Tile → α) (h : ∀ (x : Tile) a b, g { x with chans := a, wchans := b } = g x) (x : Tile) : g (x.modChan i c f) = g x := by
    unfold Tile.modChan
    split <;> exact h x _ _
  exact outRoom_eq_of (s := s) (u := s.modChan s.cur i c f) rfl rfl (view Tile.ctxs (keeps _ fun _ _ _ => rfl)) (view Tile.split (keeps _ fun _ _ _ => rfl))
    (view Tile.shares (keeps _ fun _ _ _ => rfl)) rfl n

/-! ### The checks of R95 -/

section
variable {α β : Type} {s t : State}

/-- A check whose value nothing needs. -/
theorem whenDo_ok {c : Prop} [Decidable c] {e : Exec β} {k : β → Exec α} {m : Exec α} {x : β} (hk : ∀ x, k x = m)
    (he : c → e s = .ok (x, t)) (hn : ¬ c → t = s) : (if c then e >>= k else m) s = m t := by
  by_cases h : c
  · rw [if_pos h, bind_ok (he h), hk]
  · rw [if_neg h, hn h]
/-- One of two checks, and what follows both. -/
theorem either_ok {c : Prop} [Decidable c] {e f : Exec β} {k : β → Exec α} {x : β} (he : (if c then e else f) s = .ok (x, t)) :
    (if c then e >>= k else f >>= k) s = k x t := by
  by_cases h : c
  · rw [if_pos h] at he ⊢; rw [bind_ok he]
  · rw [if_neg h] at he ⊢; rw [bind_ok he]

end

/-- The other tile of a form: its own, or the one that its tile word names. -/
def State.otherTile (s : State) (tw : Option Word) (other : Nat) : Prop :=
  (tw = none ∧ other = s.cur) ∨ ∃ w, tw = some w ∧ onlyBits w [(10, 0)] = true ∧ s.resolve (wfield w 10 0) = some other

section
variable {α : Type} {s : State}

theorem otherTile_ok {tw : Option Word} {other : Nat} (h : s.otherTile tw other) (hr : isReflex other = isReflex s.cur) (k : Nat → Exec α) :
    (match tw with
      | none => (do let o ← pure s.cur; k o : Exec α)
      | some w => do
        requireOperand (onlyBits w [(10, 0)])
        let t ← targetTile (wfield w 10 0)
        requireOperand (isReflex t == isReflex s.cur)
        let o ← pure t
        k o) s = k other s := by
  obtain ⟨rfl, rfl⟩ | ⟨w, rfl, bits, target⟩ := h
  · rfl
  · dsimp only
    rw [bind_ok (requireOperand_ok bits s), bind_ok (targetTile_ok target), bind_ok (requireOperand_ok (by rw [hr]; exact beq_self_eq_true _) s)]
    rfl

/-- A global endpoint is checked against its resource entry, a gather's table with size 0; what a transfer keeps of the entry. -/
def endEntry (g : Prop) [Decidable g] (r : Rec512) (off : Nat) : Nat × Nat × Rec512 :=
  if g then (resVbase r + off, resLength r - off, r) else (0, 0, 0#512)

section
variable {g : Prop} [Decidable g] {gather : Bool} {idx off n acc : Nat} {r : Rec512}
  (h : g → s.resourceOk idx off (if gather then 0 else n) acc r)
include h

theorem srcEntry_ok (k : Nat × Nat × Rec512 → Exec α) :
    (if g then
      if gather = true then (do let r ← checkResource idx off 0 acc; let v ← pure (resVbase r + off, resLength r - off, r); k v : Exec α)
      else do let r ← checkResource idx off n acc; let v ← pure (resVbase r + off, resLength r - off, r); k v
    else do let v ← pure (0, 0, 0#512); k v) s = k (endEntry g r off) (if g then s.used idx else s) := by
  unfold endEntry
  by_cases hg : g
  · have entry := h hg
    rw [if_pos hg, if_pos hg, if_pos hg]
    cases gather <;> exact bind_ok (checkResource_ok entry)
  · rw [if_neg hg, if_neg hg, if_neg hg]
    rfl
theorem dstEntry_ok (f : State → State) (k : Nat × Nat × Rec512 → Exec α) :
    (if g then do
      let v ← keeping f (if gather = true then (do let r ← checkResource idx off 0 acc; pure (resVbase r + off, resLength r - off, r) : Exec _)
        else do let r ← checkResource idx off n acc; pure (resVbase r + off, resLength r - off, r))
      k v
    else do let v ← pure (0, 0, 0#512); k v) s = k (endEntry g r off) (if g then s.used idx else s) := by
  unfold endEntry
  by_cases hg : g
  · have entry := h hg
    rw [if_pos hg, if_pos hg, if_pos hg]
    refine bind_ok (keeping_ok ?_ f)
    cases gather <;> exact bind_ok (checkResource_ok entry)
  · rw [if_neg hg, if_neg hg, if_neg hg]
    rfl

end

end

/-! ### The resources of a form's global endpoints: what their use leaves -/

/-- What a use of any entry leaves, the uses of a form's entries leave. -/
theorem copyUsed_keeps {β : Type} (g : State → β) (hg : ∀ (s : State) (idx : Nat), g (s.used idx) = g s) (s : State) (f : CpForm) :
    g (s.copyUsed f) = g s := by
  unfold State.copyUsed
  dsimp only
  split <;> split <;> simp only [hg]
@[simp] theorem cur_copyUsed (s : State) (f : CpForm) : (s.copyUsed f).cur = s.cur := copyUsed_keeps State.cur cur_used s f
@[simp] theorem ctx_copyUsed (s : State) (f : CpForm) : (s.copyUsed f).ctx = s.ctx := copyUsed_keeps State.ctx ctx_used s f
@[simp] theorem half_copyUsed (s : State) (f : CpForm) : (s.copyUsed f).half = s.half := copyUsed_keeps State.half half_used s f
@[simp] theorem act_copyUsed (s : State) (f : CpForm) : (s.copyUsed f).act = s.act := copyUsed_keeps State.act act_used s f
@[simp] theorem share_copyUsed (s : State) (f : CpForm) : (s.copyUsed f).share = s.share := copyUsed_keeps State.share share_used s f
@[simp] theorem outRoom_copyUsed (s : State) (f : CpForm) (n : Nat) : (s.copyUsed f).outRoom n = s.outRoom n :=
  copyUsed_keeps (fun u => u.outRoom n) (fun u idx => outRoom_used u idx n) s f
theorem chan_copyUsed (s : State) (f : CpForm) (i : Fin 3) (c : Nat) : ((s.copyUsed f).tile s.cur).chan i c = (s.tile s.cur).chan i c := by
  have := copyUsed_keeps (fun u => (u.tile u.cur).chan i c) (fun u idx => by rw [cur_used, chan_used]) s f
  rwa [cur_copyUsed] at this

/-- The plan of a form whose checks pass: the transfer without its identifiers. -/
def State.plan (s : State) (f : CpForm) (c : Nat) (notify chain : Bool) (srcT dstT : Nat) (r1 r2 : Rec512) : CpPlan :=
  { buffered := copyBuffered f s.cur dstT
    x := { (s.copyUsed f).transfer f c notify chain srcT dstT r1 r2 with id := 0#64, uid := 0 } }

/-- Each check of R95 passes in its turn. -/
theorem cpCheck_ok {s : State} {f : CpForm} {c : Nat} {notify chain pull : Bool} {tw : Option Word} {other srcT dstT : Nat} {r1 r2 : Rec512}
    (ho : s.otherTile tw other) (hp : pull = decide (f = .pl)) (hs : srcT = if pull then other else s.cur)
    (hd : dstT = if pull then s.cur else other)
    (h : s.copyPasses f c notify chain srcT dstT r1 r2) (room : copyBuffered f s.cur dstT = true → s.outRoom 64 = true) :
    cpCheck f c notify chain tw pull s = .ok (s.plan f c notify chain srcT dstT r1 r2, s.copyUsed f) := by
  obtain ⟨owns, srcSide, dstSide, gatherWords, copyWords, notifyWord, srcEnd, dstEnd, follow, srcRes, dstRes, srcWin, list, dstWin⟩ := h
  have side : isReflex other = isReflex s.cur := by
    cases pull
    · rwa [hd] at dstSide
    · rwa [hs] at srcSide
  unfold cpCheck
  rw [bind_ok (get_run s), bind_ok (requireOperand_ok owns s)]
  refine (otherTile_ok ho side _).trans ?_
  beta_reduce
  rw [← hs, ← hd]
  refine (either_ok (x := ()) (t := s) ?_).trans ?_
  · split
    · next hg =>
      obtain ⟨h1, h2, h3, h4, h5, h6⟩ := gatherWords hg
      exact requireOperand_ok (by simp only [h1, h2, h3, h4, h5, h6, decide_true, Bool.and_self]) s
    · next hg =>
      obtain ⟨h1, h2, -⟩ := copyWords (by simpa using hg)
      exact requireOperand_ok (by simp only [h1, h2, decide_true, Bool.and_self]) s
  refine (when_ok (t := s) (fun hn => requireOperand_ok (notifyWord hn) s) fun _ => rfl).trans ?_
  refine (bind_ok (requireOperand_ok (by rw [srcEnd, dstEnd]; rfl) s)).trans ?_
  refine (bind_ok (requireOperand_ok ?_ s)).trans ?_
  · cases hg : f.gather
    · have apart := (copyWords hg).2.2
      rw [Bool.not_eq_true', ← Bool.not_eq_true]
      exact fun overlap => apart (by simpa [and_assoc] using overlap)
    · rfl
  refine (when_ok (t := s) (fun hn => requireOperand_ok (follow hn) s) fun _ => rfl).trans ?_
  refine (srcEntry_ok srcRes _).trans ?_
  refine (dstEntry_ok dstRes _ _).trans ?_
  refine (whenDo_ok (t := s.copyUsed f) (fun _ => rfl) (fun hn => keeping_ok (checkWin_ok (srcWin hn) 0) _) fun _ => rfl).trans ?_
  refine (whenDo_ok (t := s.copyUsed f) (fun _ => rfl) (fun hn => keeping_ok (checkWin_ok (list hn) 0) _) fun _ => rfl).trans ?_
  refine (whenDo_ok (t := s.copyUsed f) (fun _ => rfl) (fun hn => keeping_ok (checkWin_ok (dstWin hn) 0) _) fun _ => rfl).trans ?_
  have buffered : (decide (f.dst = .global) || !pull && decide (dstT ≠ s.cur)) = copyBuffered f s.cur dstT := by
    simp [hp, copyBuffered]
  dsimp only
  rw [buffered]
  refine (when_ok (t := s.copyUsed f) (fun hb => keeping_ok (checkOut_ok (by rw [outRoom_copyUsed, room hb])) _) fun _ => rfl).trans ?_
  rw [pure_run]
  refine congrArg (fun p => Except.ok (p, s.copyUsed f)) ?_
  simp only [State.plan, State.transfer, cur_copyUsed, ctx_copyUsed, half_copyUsed, act_copyUsed, share_copyUsed, endEntry, apply_ite Prod.fst,
    apply_ite Prod.snd]

/-- The tile word of a form that has one. -/
def State.tileOperand (s : State) (tw : Option Reg) (w : Option Word) (s1 : State) : Prop :=
  (tw = none ∧ w = none ∧ s1 = s) ∨ ∃ r, tw = some r ∧ w = some (s.val r) ∧ s1 = s.after r

theorem tileOperand_ok {α : Type} {s s1 : State} {tw : Option Reg} {w : Option Word} (h : s.tileOperand tw w s1) (k : Option Word → Exec α) :
    (match tw with
      | none => (do let w ← pure none; k w : Exec α)
      | some r => do
        let v ← rd r
        let w ← pure (some v)
        k w) s = k w s1 := by
  obtain ⟨rfl, rfl, rfl⟩ | ⟨r, rfl, rfl, rfl⟩ := h <;> rfl

/-- A form whose checks pass takes the channel's identifier and is released or buffered (R88, R95, R96). -/
theorem cpForm_issues {f : CpForm} {o : Op} {c : BitVec 4} {notify chain pull : Bool} {a : Reg} {tw : Option Reg} {s s1 : State}
    {w : Option Word} {other srcT dstT : Nat} {r1 r2 : Rec512} (h : s.Ready o) (hw : s.tileOperand tw w s1)
    (ho : s1.otherTile w other) (hp : pull = decide (f = .pl)) (hs : srcT = if pull then other else s1.cur)
    (hd : dstT = if pull then s1.cur else other) (hc : s1.copyPasses f c.toNat notify chain srcT dstT r1 r2)
    (room : copyBuffered f s1.cur dstT = true → s1.outRoom 64 = true) :
    cpForm f o c notify chain a tw pull s = .next (((s1.copyIssued f c.toNat notify chain srcT dstT r1 r2).give a
      ((s1.tile s1.cur).chan s1.share c.toNat).nid).retire o .next) := by
  refine issueValue_ok h ?_
  refine (tileOperand_ok hw _).trans ?_
  rw [bind_ok (cpCheck_ok ho hp hs hd hc room), bind_ok (get_run _)]
  have nid : ((s1.copyUsed f).tile (s1.copyUsed f).cur).chan (s1.copyUsed f).share c.toNat = (s1.tile s1.cur).chan s1.share c.toNat := by
    rw [cur_copyUsed, share_copyUsed, chan_copyUsed]
  rw [← nid]
  dsimp only
  rw [bind_ok (freshId_run _), bind_ok (update_run _ _)]
  by_cases hb : copyBuffered f s1.cur dstT = true
  · have roomLater : ((s1.copyUsed f).bump.modChan (s1.copyUsed f).cur (s1.copyUsed f).share c.toNat
        fun k => { k with nid := k.nid + 1#64 }).outRoom 64 = true := by
      rw [show (s1.copyUsed f).cur = (s1.copyUsed f).bump.cur from rfl, outRoom_modChan]
      exact (outRoom_copyUsed s1 f 64).trans (room hb)
    rw [if_pos (show (s1.plan f c.toNat notify chain srcT dstT r1 r2).buffered = true from hb)]
    refine (bind_ok (appendOut_ok roomLater _)).trans ?_
    rw [pure_run, State.copyIssued, if_pos hb, ← cur_copyUsed s1 f]
    rfl
  · rw [if_neg (show ¬ (s1.plan f c.toNat notify chain srcT dstT r1 r2).buffered = true from hb), bind_ok (update_run _ _), pure_run,
      State.copyIssued, if_neg hb, ← cur_copyUsed s1 f]
    rfl

/-- A form on the own tile, or one whose tile word names the other end: the two kinds of operands. -/
theorem copyIssues_own {i : Instr} {o : Op} {f : CpForm} {c : BitVec 4} {notify chain : Bool} {a : Reg} {s : State}
    (hi : ∀ s, exec i s = cpForm f o c notify chain a none false s) (hf : f ≠ .pl) :
    CopyIssues i o f c notify chain a s s s.cur s.cur := by
  intro r1 r2 h hc room
  rw [hi]
  exact cpForm_issues h (.inl ⟨rfl, rfl, rfl⟩) (.inl ⟨rfl, rfl⟩) (decide_eq_false hf).symm rfl rfl hc room
theorem copyIssues_to {i : Instr} {o : Op} {f : CpForm} {c : BitVec 4} {notify chain : Bool} {a b : Reg} {s : State} {t : Nat}
    (hi : ∀ s, exec i s = cpForm f o c notify chain a (some b) false s) (hf : f ≠ .pl) (hw : onlyBits (s.val b) [(10, 0)] = true)
    (ht : (s.after b).resolve (wfield (s.val b) 10 0) = some t) : CopyIssues i o f c notify chain a s (s.after b) s.cur t := by
  intro r1 r2 h hc room
  rw [hi]
  exact cpForm_issues h (.inr ⟨b, rfl, rfl, rfl⟩) (.inr ⟨_, rfl, hw, ht⟩) (decide_eq_false hf).symm rfl rfl hc room

/-! ### Channels (R90, R103, R104) -/

section
variable {s : State} {c : BitVec 4} {b a : Reg}

theorem cpCfg_ready (h : s.Ready { srcs := [b], dsts := [a] }) (hc : (s.after b).ownsCopyChan c.toNat = true)
    (hw : onlyBits (s.val b) [(6, 4), (2, 0)] = true) (hl : wfield (s.val b) 2 0 ≤ wfield (s.val b) 6 4) :
    let s1 := s.after b
    let k := (s.tile s.cur).chan s1.share c.toNat
    execCpCfg c b a s = .next (((s1.modChan s.cur s1.share c.toNat fun k =>
      { k with min := wfield (s.val b) 2 0 + 1, max := wfield (s.val b) 6 4 + 1 }).give a
        (BitVec.ofNat 64 (k.min - 1 + (k.max - 1) * 16))).retire { srcs := [b], dsts := [a] } .next) := by
  intro s1 k
  refine issueValue_ok h ?_
  rw [bind_ok (rd_run b s), bind_ok (get_run _), bind_ok (requireOperand_ok hc _)]
  dsimp only
  rw [bind_ok (requireOperand_ok (by rw [hw, decide_eq_true (Nat.succ_le_succ hl)]; rfl) _), bind_ok (update_run _ _), pure_run]
  simp only [cur_after, Tile.chan, tile_after_chans, tile_after_wchans, k, s1]
theorem cpCrec_ready (h : s.Ready { srcs := [b], dsts := [a] }) (hc : (s.after b).ownsCopyChan c.toNat = true) (hx : (s.val b).toNat ≤ 8) :
    let s1 := s.after b
    let k := (s.tile s.cur).chan s1.share c.toNat
    execCpCrec c b a s = .next ((s1.give a
      (if (s.val b).toNat = 8 then k.ccount else k.crec.getD (s.val b).toNat (BitVec.allOnes 64))).retire { srcs := [b], dsts := [a] } .next) := by
  intro s1 k
  refine issueValue_ok h ?_
  rw [bind_ok (rd_run b s), bind_ok (get_run _), bind_ok (requireOperand_ok hc _), bind_ok (requireOperand_ok (decide_eq_true hx) _), pure_run]
  simp only [cur_after, Tile.chan, tile_after_chans, tile_after_wchans, Word.ones, k, s1]
/-- The transfers of a channel of the running activation's tenant with identifiers in a range (R104). -/
def State.cancelRange (s : State) (c lo hi : Nat) (x : Transfer) : Bool :=
  decide (x.tile = s.cur) && decide (x.part = s.share.val) && decide (x.chan = c) && decide (x.tenant = s.act.tenant)
    && decide (lo ≤ x.id.toNat) && decide (x.id.toNat ≤ hi)
theorem cpCancel_ready (h : s.Ready { srcs := [a, b] }) (hc : ((s.after a).after b).ownsCopyChan c.toNat = true) :
    let s2 := (s.after a).after b
    let range := s2.cancelRange c.toNat (s.val a).toNat ((s.after a).val b).toNat
    let s3 := s2.dropBuffered s2.cur s2.share s2.act.id range
    execCpCancel c b a s =
      .next (({ s3 with transfers := s3.transfers.map fun x => Transfer.cancelIf x range }).spent.retire { srcs := [a, b] } .next) := by
  intro s2 range s3
  refine issue_ok h ?_
  rw [bind_ok (rd_run a s), bind_ok (rd_run b _), bind_ok (get_run _), bind_ok (requireOperand_ok hc _)]
  dsimp only
  rw [bind_ok (update_run _ _), bind_ok (markNonReplayable_run _), pure_run]
  rfl

end

/-- Settles O26: the forms through the one run of R95, and what the channel instructions read and change. -/
theorem copyForms : Obligations.CopyForms := by
  refine ⟨fun s chain nt c b a => ⟨copyIssues_own (fun u => exec_cpGl chain nt c a u) (by decide), copyIssues_own (fun u => exec_cpGb chain nt c a u) (by decide),
    copyIssues_own (fun u => exec_cpLg nt c a u) (by decide), copyIssues_own (fun u => exec_cpGg nt c a u) (by decide),
    copyIssues_own (fun u => exec_cpLb chain nt c a u) (by decide), copyIssues_own (fun u => exec_gxLd chain nt c a u) (by decide),
    copyIssues_own (fun u => exec_gxSt nt c a u) (by decide), copyIssues_own (fun u => exec_gxLdb chain nt c a u) (by decide),
    fun t hw ht => ⟨copyIssues_to (fun u => exec_cpLs chain nt c b a u) (by decide) hw ht,
      copyIssues_to (fun u => exec_cpLsb chain nt c b a u) (by decide) hw ht, ?pull⟩⟩, ?config, ?cancel⟩
  case pull =>
    intro r1 r2 h hc room
    exact (exec_cpPl chain nt c b a s).trans
      (cpForm_issues h (.inr ⟨b, rfl, rfl, rfl⟩) (.inr ⟨_, rfl, hw, ht⟩) rfl rfl rfl hc room)
  case config =>
    exact fun s c b a h hc => ⟨fun hw hl => (exec_cpCfg c b a s).trans (cpCfg_ready h hc hw hl),
      fun hx => (exec_cpCrec c b a s).trans (cpCrec_ready h hc hx)⟩
  case cancel =>
    intro s c b a h s2 lo hi inRange s3 hc
    have range : s2.cancelRange c.toNat lo hi = inRange := by
      funext x
      simp only [State.cancelRange, cur_after, act_after, s2, inRange]
      rfl
    rw [exec_cpCancel, cpCancel_ready h hc, range, act_after, act_after, cur_after, cur_after]

end Sys2Proof.Machine
end

section
/-! Transom instructions and their faults (R135, R142 to R146). -/

namespace Sys2Proof.Machine
open Sys2Proof

theorem slotT_after (s : State) (r : Reg) (n : Nat) : (s.after r).slotT n = s.slotT n := rfl
theorem reflexSide_reads (s : State) (ea n : Nat) : (s.reads ea n).reflexSide = s.reflexSide := by simp [State.reflexSide]
theorem tileWord_reads (s : State) (ea n : Nat) : (s.reads ea n).tileWord = s.tileWord := by
  simp [State.tileWord, State.tileWordAt, State.part, State.pidAt]

/-! ### Publications (R142, R144) -/

/-- The publication that tm.pub makes of the n bytes at its address, in the state after they are read (R142). -/
def State.pubAt (u : State) (slot a n : Nat) : Pub :=
  { slot := slot, payload := u.readWin u.cur u.share a n,
    poison := (List.range ((n + 63) / 64)).filter fun k => u.winPoisoned u.cur u.share (a + 64 * k) (min 64 (n - 64 * k)),
    tenant := u.act.tenant, launch := u.act.launch, pid := u.act.pid, writer := u.tileWord, host := false,
    reflexSide := u.reflexSide, src := u.cur }

section
variable {s : State} {now : Bool} {b : Reg} (h : s.Ready { srcs := [b] }) (hw : onlyBits (s.val b) [(51, 32), (11, 0)] = true)
include h hw

section
variable (ha : wfield (s.val b) 51 32 % 64 = 0)
  (hx : (s.after b).inWindow s.cur (wfield (s.val b) 51 32) (cfgSize (s.slotT (wfield (s.val b) 11 0)).cfg) .load)
include ha hx

section
variable (hm : mayWrite (s.slotT (wfield (s.val b) 11 0)).cfg (s.after b).act.tenant (s.after b).reflexSide false = true)
  (hn : ¬ (cfgMirror (s.slotT (wfield (s.val b) 11 0)).cfg = true ∧ s.sys.role = 2))
  (hc : (s.after b).ownClear (wfield (s.val b) 51 32) (cfgSize (s.slotT (wfield (s.val b) 11 0)).cfg) = true)
include hm hn hc

/-- What the publication comes to once its checks have passed and its bytes are read. -/
theorem tmPub_checked {r : State} :
    let n := cfgSize (s.slotT (wfield (s.val b) 11 0)).cfg
    let s2 := (s.after b).reads (wfield (s.val b) 51 32) n
    let p := s2.pubAt (wfield (s.val b) 11 0) (wfield (s.val b) 51 32) n
    (if now = true then (do releaseWait 3; update fun u => u.releasePub p; markNonReplayable; pure .next : Exec Flow)
      else do appendOut (16 + n) (.pub p); pure .next) s2 = .ok (.next, r) →
    execTmPub now b s = .next (r.retire { srcs := [b] } .next) := by
  intro n s2 p hr
  refine issue_ok h ?_
  rw [bind_ok (rd_run b s), bind_ok (tmWord_ok hw (.inr ha) _)]
  dsimp only
  rw [bind_ok (get_run _), slotT_after]
  refine (bind_ok (checkWin_ok hx 0)).trans ?_
  have single : (!(cfgMirror (s.slotT (wfield (s.val b) 11 0)).cfg && decide ((s.after b).sys.role = 2))) = true := by
    rw [Bool.not_eq_true', ← Bool.not_eq_true, Bool.and_eq_true, decide_eq_true_iff]
    exact hn
  rw [bind_ok (tmCheck_ok hm _ _ _), bind_ok (tmCheck_ok single _ _ _), bind_ok (ownWait_ok hc), bind_ok (update_run _ _), bind_ok (get_run _)]
  exact hr

theorem tmPub_ends :
    let n := cfgSize (s.slotT (wfield (s.val b) 11 0)).cfg
    let s2 := (s.after b).reads (wfield (s.val b) 51 32) n
    let p := s2.pubAt (wfield (s.val b) 11 0) (wfield (s.val b) 51 32) n
    (s2.outRoom (16 + n) = true → execTmPub false b s = .next ((s2.items (16 + n) (.pub p)).retire { srcs := [b] } .next))
    ∧ (s2.releaseStop false 3 = none → execTmPub true b s = .next ((s2.ordered.releasePub p).spent.retire { srcs := [b] } .next)) := by
  intro n s2 p
  refine ⟨fun room => tmPub_checked h hw ha hx hm hn hc ?_, fun hs => tmPub_checked h hw ha hx hm hn hc ?_⟩
  · rw [if_neg Bool.false_ne_true, bind_ok (appendOut_ok room _), pure_run]
  · rw [if_pos rfl, bind_ok (releaseWait_ok hs _), bind_ok (update_run _ _), bind_ok (markNonReplayable_run _), pure_run]

end

theorem tmPub_notPermitted (hm : mayWrite (s.slotT (wfield (s.val b) 11 0)).cfg (s.after b).act.tenant (s.after b).reflexSide false = false) :
    execTmPub now b s = .next (s.takeTrap s.half.pc { code := 0x27, reason := 2, faddr := s.val b }) := by
  refine issue_traps h ?_ rfl
  rw [bind_ok (rd_run b s), bind_ok (tmWord_ok hw (.inr ha) _)]
  dsimp only
  rw [bind_ok (get_run _), slotT_after]
  refine (bind_ok (checkWin_ok hx 0)).trans ?_
  rw [bind_error (tmCheck_stop hm _ _ _)]
theorem tmPub_mirrored (hm : mayWrite (s.slotT (wfield (s.val b) 11 0)).cfg (s.after b).act.tenant (s.after b).reflexSide false = true)
    (hc : cfgMirror (s.slotT (wfield (s.val b) 11 0)).cfg = true) (hr : s.sys.role = 2) :
    execTmPub now b s = .next (s.takeTrap s.half.pc { code := 0x27, reason := 3, faddr := s.val b }) := by
  refine issue_traps h ?_ rfl
  rw [bind_ok (rd_run b s), bind_ok (tmWord_ok hw (.inr ha) _)]
  dsimp only
  rw [bind_ok (get_run _), slotT_after]
  refine (bind_ok (checkWin_ok hx 0)).trans ?_
  have mirrored : (!(cfgMirror (s.slotT (wfield (s.val b) 11 0)).cfg && decide ((s.after b).sys.role = 2))) = false := by
    rw [hc, decide_eq_true (show (s.after b).sys.role = 2 from hr)]; rfl
  rw [bind_ok (tmCheck_ok hm _ _ _), bind_error (tmCheck_stop mirrored _ _ _)]

end

theorem tmPub_misaligned (ha : wfield (s.val b) 51 32 % 64 ≠ 0) :
    execTmPub now b s = .next (s.takeTrap s.half.pc { code := 0x27, reason := 1, faddr := s.val b }) := by
  refine issue_traps h ?_ rfl
  rw [bind_ok (rd_run b s), bind_error (tmWord_stop hw ha _)]

end

/-! ### Requests (R143) -/

section
variable {s : State} {b a : Reg} (h : s.Ready { srcs := [b], dsts := [a] })
include h

theorem tmGet_ready {u : State} (hw : onlyBits (s.val b) [(51, 32), (11, 0)] = true) (ha : wfield (s.val b) 51 32 % 64 = 0) :
    let s1 := s.after b
    let w := s.val b
    let slot := wfield w 11 0
    let ea := wfield w 51 32
    let c := (s.slotT slot).cfg
    let n := cfgSize c
    s1.inWindow s.cur ea ((64 + n : Nat)) .store → s1.ownClear ea (64 + n) = true → s1.logs ea (64 + n) u →
    mayRead c s1.act.tenant s1.reflexSide = true →
      execTmGet b a s = .next ((({ u.bump with tmq := u.tmq ++ [{
        tile := u.cur, c := u.ctx, sh := u.share, act := u.act.id, tenant := u.act.tenant, reflexSide := u.reflexSide,
        id := u.fresh, slot := slot, get := true, dst := ea, size := n, word := w }] } : State).pend
          { id := u.fresh, d := a, blocking := true, acq := true, global := false, pc := s.half.pc, faddr := w }).retire { srcs := [b], dsts := [a] } .next) := by
  intro s1 w slot ea c n hx hc hl hm
  rw [execTmGet, tmRequest]
  refine issue_ok h ?_
  rw [if_pos rfl, bind_ok (rd_run b s), bind_ok (tmWord_ok hw (.inr ha) _)]
  dsimp only
  rw [bind_ok (get_run _), if_pos rfl, if_pos rfl, slotT_after]
  refine (bind_ok (checkWin_ok hx 0)).trans ?_
  rw [bind_ok (ownWait_ok hc), bind_ok (logWrite_ok hl), bind_ok (tmCheck_ok hm _ _ _), bind_ok (freshId_run _), bind_ok (update_run _ _),
    bind_ok (pendingLoad_run _ _), pure_run]
  rw [pc_after]
  rfl

theorem tmAge_ready (hw : onlyBits (s.val b) [(11, 0)] = true) :
    let s1 := s.after b
    let w := s.val b
    mayRead (s.slotT (wfield w 11 0)).cfg s1.act.tenant s1.reflexSide = true →
      execTmAge b a s = .next ((({ s1.bump with tmq := s.tmq ++ [{
        tile := s.cur, c := s.ctx, sh := s1.share, act := s1.act.id, tenant := s1.act.tenant, reflexSide := s1.reflexSide,
        id := s.fresh, slot := wfield w 11 0, get := false, dst := wfield w 51 32, size := 0, word := w }] } : State).pend
          { id := s.fresh, d := a, blocking := true, acq := true, global := false, pc := s.half.pc, faddr := w }).retire { srcs := [b], dsts := [a] } .next) := by
  intro s1 w hm
  rw [execTmAge, tmRequest]
  refine issue_ok h ?_
  rw [if_neg Bool.false_ne_true, bind_ok (rd_run b s), bind_ok (tmWord_ok hw (.inl rfl) _)]
  dsimp only
  rw [bind_ok (get_run _), if_neg Bool.false_ne_true, if_neg Bool.false_ne_true, slotT_after, bind_ok (tmCheck_ok hm _ _ _),
    bind_ok (freshId_run _), bind_ok (update_run _ _), bind_ok (pendingLoad_run _ _), pure_run, pc_after]
  rfl

end

/-! ### Notification targets (R145) -/

theorem tmArm_ready {s : State} {b : Reg} {t : Nat} (h : s.Ready { srcs := [b] }) :
    let s1 := s.after b
    let w := s.val b
    let x := s.slotT (wfield w 11 0)
    onlyBits w [(63, 63), (37, 32), (26, 16), (11, 0)] = true → s1.resolve (wfield w 26 16) = some t →
    cfgReader x.cfg s1.act.tenant = true →
      execTmArm b s = .next (((s1.freshKeys (counterKey (wfield w 11 0) + 8) 8).setSlotT (wfield w 11 0) { x with
        arm := if w.getLsbD 63 then some (t, wfield w 37 32, s1.act.tenant, BitVec.ofNat 11 (wfield w 26 16), s1.pid.getD 16)
          else none }).spent.retire { srcs := [b] } .next) := by
  intro s1 w x hw ht hr
  refine issue_ok h ?_
  rw [bind_ok (rd_run b s), bind_ok (tmWord_ok hw (.inl rfl) _)]
  dsimp only
  rw [bind_ok (targetTile_ok ht), bind_ok (get_run _)]
  refine (bind_ok (tmCheck_ok hr _ _ _)).trans ?_
  rw [bind_ok (update_run _ _), bind_ok (markNonReplayable_run _), pure_run]
  rfl

/-! ### Configurations (R146) -/

section
variable {s : State} {b a : Reg} (h : s.Ready { srcs := [b], dsts := [a] }) (hw : onlyBits (s.val b) [(51, 32), (11, 0)] = true)
  (ha : wfield (s.val b) 51 32 % 64 = 0)
include h hw ha

theorem tmCfg_reads {u : State} :
    let s1 := s.after b
    let ea := wfield (s.val b) 51 32
    let s2 := s1.senseCfg (wfield (s.val b) 11 0)
    let v := u.storeAt ea (leBytes 64 (s.slotT (wfield (s.val b) 11 0)).cfg.toNat)
    s1.inWindow s.cur ea 64 .store → s2.ownClear ea 64 = true → s2.logs ea 64 u →
      execTmCfg true b a s = .next (((if v.sectorPoisoned (cfgKey (wfield (s.val b) 11 0)) 64 then
        { v with poison := nInsert (v.spad v.cur v.share ea / 64) v.poison } else v).give a 0#64).retire { srcs := [b], dsts := [a] } .next) := by
  intro s1 ea s2 v hx hc hl
  refine issueValue_ok h ?_
  rw [bind_ok (rd_run b s), bind_ok (tmWord_ok hw (.inr ha) _)]
  dsimp only
  rw [bind_ok (get_run _), if_pos rfl]
  refine (bind_ok (checkWin_ok hx 0)).trans ?_
  have stored := storeOwn_ok (s := s2) (u := u) (bs := leBytes 64 (s.slotT (wfield (s.val b) 11 0)).cfg.toNat) (ea := ea)
    (by rwa [leBytes_length]) (by rwa [leBytes_length])
  rw [bind_ok (update_run _ _), slotT_after, bind_ok stored, bind_ok (update_run _ _), pure_run]

/-- The configuration in the own window. -/
def State.givenCfg (s : State) (ea : Nat) : Rec512 := BitVec.ofNat 512 (s.ownNat ea 64)

theorem tmCfg_writes :
    let s1 := s.after b
    let slot := wfield (s.val b) 11 0
    let ea := wfield (s.val b) 51 32
    let st := cfgStatus (s.slotT slot).cfg (s1.givenCfg ea) s1.act.tenant
    let s2 := (s1.reads ea 64).senseCfg slot
    s1.inWindow s.cur ea 64 .load → s1.readable ea 64 →
      (st = 0 → execTmCfg false b a s =
        .next (((s2.configureSlot slot (s1.givenCfg ea)).spent.give a 0#64).retire { srcs := [b], dsts := [a] } .next))
      ∧ (st ≠ 0 → execTmCfg false b a s = .next ((s2.give a (BitVec.ofNat 64 st)).retire { srcs := [b], dsts := [a] } .next)) := by
  intro s1 slot ea st s2 hx hr
  refine ⟨fun hs => issueValue_ok h ?_, fun hs => issueValue_ok h ?_⟩
  all_goals
    rw [bind_ok (rd_run b s), bind_ok (tmWord_ok hw (.inr ha) _)]
    dsimp only
    rw [bind_ok (get_run _), if_neg Bool.false_ne_true]
    refine (bind_ok (checkWin_ok hx 0)).trans ?_
    rw [bind_ok (readOwn_ok hr), bind_ok (update_run _ _)]
  · refine (congrFun (if_pos hs) _).trans ?_
    refine (bind_ok (update_run _ _)).trans ?_
    rw [bind_ok (markNonReplayable_run _)]
    refine (congrArg (fun k => Except.ok (BitVec.ofNat 64 k, (s2.configureSlot slot (s1.givenCfg ea)).spent)) hs)
  · exact congrFun (if_neg hs) _

end

/-- Settles O27: each form's checks pass in their turn, or the first that fails names the fault. -/
theorem transomForms : Obligations.TransomForms := by
  refine ⟨⟨fun s b h => ?pub, fun s u b a h hw ha hx hc hl hm => (exec_tmGet b a s).trans (tmGet_ready h hw ha hx hc hl hm),
    fun s b a h hw hm => (exec_tmAge b a s).trans (tmAge_ready h hw hm), fun s b t h hw ht hr => (exec_tmArm b s).trans (tmArm_ready h hw ht hr),
    fun s u b a h => ?reads, fun s b a h hw ha hx hr => ?writes⟩,
    fun s now b h hw => ⟨fun ha => (exec_tmPub now b s).trans (tmPub_misaligned h hw ha),
      fun ha hx => ⟨fun hm => (exec_tmPub now b s).trans (tmPub_notPermitted h hw ha hx hm),
        fun hm hc hr => (exec_tmPub now b s).trans (tmPub_mirrored h hw ha hx hm hc hr)⟩⟩⟩
  case pub =>
    intro s1 w slot a c n s2 p hw ha hx hm hn hc
    have made : s2.pubAt slot a n = p := by
      simp only [State.pubAt, s2, p, cur_reads, share_reads, act_reads, tileWord_reads, reflexSide_reads, readWin_reads, cur_after, s1]
    rw [exec_tmPub, exec_tmPub, ← made]
    exact tmPub_ends h hw ha hx hm hn hc
  case reads =>
    intro s1 w ea s2 v bad hw ha hx hc hl
    have run := tmCfg_reads h hw ha hx hc hl
    refine ⟨fun hb => ?_, fun hb => ?_⟩
    · rw [exec_tmCfg, run, if_neg (by rw [show v.sectorPoisoned (cfgKey (wfield w 11 0)) 64 = false from hb]; decide)]
    · rw [exec_tmCfg, run, if_pos hb]
  case writes =>
    rw [exec_tmCfg]
    exact tmCfg_writes h hw ha hx hr

end Sys2Proof.Machine
end

section
/-! What the Transom does with publications and reads (R137 to R139, R143, R147, R149, R150). -/

namespace Sys2Proof.Machine
open Sys2Proof

/-! ### Slots -/

@[simp] theorem slotT_setSlotT (s : State) (n : Nat) (x : TSlot) : (s.setSlotT n x).slotT n = x := by
  simp [State.slotT, State.setSlotT, NMap.get?_set_same]
theorem TSlot.get_modBuf (x : TSlot) (i : Fin 4) (f : TBuf → TBuf) : (x.modBuf i f).bufs.get i = f (x.bufs.get i) := by
  simp [TSlot.modBuf, Vector.get_eq_getElem]
/-- The first of the buffers with a property. -/
theorem find?_finRange {n : Nat} {p : Fin n → Bool} {i : Fin n} (hp : p i = true) (hn : ∀ k, k < i → p k = false) :
    (List.finRange n).find? p = some i := by
  rw [List.find?_eq_some_iff_getElem]
  refine ⟨hp, i.val, by simp, by simp, fun j hj => ?_⟩
  rw [List.getElem_finRange, hn _ hj]
  rfl

/-! ### Staging (R139) -/

theorem stageIn_last {p : Pub} {l : List Pub} (h : ∀ q ∈ l, q.staged = p.staged → q.rank ≤ p.rank) : stageIn p l = l ++ [p] := by
  induction l with
  | nil => rfl
  | cons q rest ih =>
    rw [stageIn, if_neg, ih fun r hr => h r (List.mem_cons_of_mem q hr), List.cons_append]
    rintro ⟨hs, hr⟩
    exact absurd (h q List.mem_cons_self hs) (Nat.not_le.mpr hr)
theorem stageIn_first {p q : Pub} {rest : List Pub} (hs : q.staged = p.staged) (hr : p.rank < q.rank) : stageIn p (q :: rest) = p :: q :: rest :=
  if_pos ⟨hs, hr⟩

theorem stagingComplete_eq {s : State} {n : Nat} {p : Pub} (hp : s.pubs[n]? = some p) (hn : ∀ q ∈ s.pubs.take n, q.src ≠ p.src) :
    s.stagingComplete n = some (({ s with pubs := s.pubs.eraseIdx n } : State).setSlotT p.slot
      { s.slotT p.slot with staged := stageIn { p with staged := s.cycle } (s.slotT p.slot).staged }) := by
  have first : (s.pubs.take n).any (fun q => decide (q.src = p.src)) = false :=
    List.any_eq_false.mpr fun q hq => by simpa using hn q hq
  unfold State.stagingComplete
  rw [hp, Option.bind_some, first]
  rfl

/-! ### The commit (R137, R138) -/

theorem slots_notifyCommit (s : State) (slot : Nat) (h : Rec512) (p : Pub) : (s.notifyCommit slot h p).slots = s.slots := by
  unfold State.notifyCommit
  split
  · rfl
  · dsimp only
    rw [State.modLaunchOf, State.modPart]
    split <;> rfl

theorem commit_ready {s : State} {n : Nat} {p : Pub} {i : Fin 4} (hw : (s.slotT n).writing = some p) (hi : ((s.slotT n).bufs.get i).role = .writing)
    (hk : ∀ k, k < i → ((s.slotT n).bufs.get k).role ≠ .writing) (he : s.earlierPub p = false) :
    ∃ t, s.commitSlot n = some t ∧ (t.slotT n).version = (s.slotT n).version + 1#64
      ∧ ((t.slotT n).bufs.get i).role = .newest
      ∧ ((t.slotT n).bufs.get i).hdr = mkHeader p ((s.slotT n).version + 1#64).toNat s.dtime := by
  have first : (List.finRange 4).find? (fun i => decide (((s.slotT n).bufs.get i).role = .writing)) = some i :=
    find?_finRange (decide_eq_true hi) fun k hki => decide_eq_false (hk k hki)
  unfold State.commitSlot
  dsimp only
  rw [hw, first]
  dsimp only
  rw [he, if_neg Bool.false_ne_true]
  refine ⟨_, rfl, ?_⟩
  generalize hx : ({ TSlot.modBuf _ i _ with version := _, writing := _, swapped := _ } : TSlot) = x
  have slot : ∀ u : State, ((if cfgMirror (s.slotT n).cfg = true then
      { (u.setSlotT n x).notifyCommit n (mkHeader p ((s.slotT n).version + 1#64).toNat s.dtime) p with
        mirrors := ((u.setSlotT n x).notifyCommit n (mkHeader p ((s.slotT n).version + 1#64).toNat s.dtime) p).mirrors ++
          [(mkHeader p ((s.slotT n).version + 1#64).toNat s.dtime, p.payload, p.poison)] }
      else (u.setSlotT n x).notifyCommit n (mkHeader p ((s.slotT n).version + 1#64).toNat s.dtime) p) : State).slotT n = x := by
    intro u
    have kept : ((u.setSlotT n x).notifyCommit n (mkHeader p ((s.slotT n).version + 1#64).toNat s.dtime) p).slotT n = x := by
      rw [State.slotT, slots_notifyCommit]
      exact slotT_setSlotT u n x
    split <;> exact kept
  rw [slot]
  subst hx
  dsimp only
  rw [TSlot.get_modBuf]
  exact ⟨rfl, rfl, rfl⟩

/-! ### Pins and ages (R138, R143) -/

theorem pinEnd_ready {s : State} {n k : Nat} {i : Fin 4} {rest : List (Fin 4 × Nat)} (hp : (s.slotT n).pinq = (i, k) :: rest) (hk : k < s.cycle) :
    ∃ t, s.pinEnd n = some t ∧ ((t.slotT n).bufs.get i).pins = ((s.slotT n).bufs.get i).pins - 1 ∧ (t.slotT n).pinq = rest := by
  have pins_settle (b : TBuf) : b.settle.pins = b.pins := by unfold TBuf.settle; split <;> rfl
  unfold State.pinEnd
  dsimp only
  rw [hp]
  dsimp only
  rw [if_neg (Nat.not_le.mpr hk)]
  refine ⟨_, rfl, ?_⟩
  rw [slotT_setSlotT]
  refine ⟨?_, rfl⟩
  dsimp only
  rw [TSlot.get_modBuf]
  split
  · rfl
  · exact pins_settle _

/-- An age request is refused, or answered with the age of the newest version. -/
theorem acceptAge {s : State} {n : Nat} {r : TmReq} (hr : s.tmq[n]? = some r) (hn : ∀ q ∈ s.tmq.take n, q.tile ≠ r.tile) (hg : r.get = false) :
    s.acceptRequest n = some (
      let s0 := ({ s with tmq := s.tmq.eraseIdx n } : State).senseCfg r.slot
      if mayRead (s.slotT r.slot).cfg r.tenant r.reflexSide then
        (s0.readSlot r.slot 0 false).1.sendReply r.tile r.c r.id (.value (BitVec.ofNat 64 (s.ageOf (s0.readSlot r.slot 0 false).2.1)))
      else s0.sendReply r.tile r.c r.id (.refused { code := 0x27, reason := 2, faddr := r.word })) := by
  have first : (s.tmq.take n).any (fun q => decide (q.tile = r.tile)) = false := List.any_eq_false.mpr fun q hq => by simpa using hn q hq
  unfold State.acceptRequest
  rw [hr, Option.bind_some, first, hg]
  dsimp only
  cases mayRead (s.slotT r.slot).cfg r.tenant r.reflexSide <;> rfl

theorem readSlot_none {s : State} {slot size : Nat} {pin : Bool} (h : (s.slotT slot).readable s.cycle = none) :
    s.readSlot slot size pin = (s, nullHeader slot, false, List.replicate size 0#8, []) := by
  unfold State.readSlot
  dsimp only
  rw [h]
/-- The header that a read leaves and delivers tells of a poisoned sector of the payload (R136). -/
theorem readSlot_hdr {s : State} {slot size : Nat} {pin : Bool} {i : Fin 4} (h : (s.slotT slot).readable s.cycle = some i) :
    let s2 := (s.senseKeys (hdrKey slot i.val) 64).sense ((List.range size).map (transomKey slot i.val))
    (s.readSlot slot size pin).2.1 =
      if s2.bufPoison slot i size = [] then ((s.slotT slot).bufs.get i).hdr else setRec ((s.slotT slot).bufs.get i).hdr 141 141 1 := by
  unfold State.readSlot
  dsimp only
  rw [h]

theorem hdrVersion_nullHeader (slot : Nat) : hdrVersion (nullHeader slot) = 0 := by
  have small : slot % 2 ^ 12 * 2 ^ 148 < 2 ^ 512 := by omega
  simp only [hdrVersion, nullHeader, resBits, bits, BitVec.toNat_ofNat, Nat.mod_eq_of_lt small]
  omega
/-- No version has been published: the age is the greatest word (R143). -/
theorem ageOf_nullHeader (s : State) (slot : Nat) : BitVec.ofNat 64 (s.ageOf (nullHeader slot)) = BitVec.allOnes 64 := by
  rw [State.ageOf, if_pos (hdrVersion_nullHeader slot)]
  rfl
theorem bufPoison_zero (s : State) (slot : Nat) (i : Fin 4) : s.bufPoison slot i 0 = [] := rfl

@[simp] theorem slotT_senseCfg (s : State) (slot n : Nat) : (s.senseCfg slot).slotT n = s.slotT n := slotT_sense s _ n
@[simp] theorem cycle_senseCfg (s : State) (slot : Nat) : (s.senseCfg slot).cycle = s.cycle := cycle_sense s _
@[simp] theorem refuses_senseCfg (s : State) (slot f : Nat) : (s.senseCfg slot).refuses f = s.refuses f := refuses_sense s _ f
@[simp] theorem role_senseCfg (s : State) (slot : Nat) : (s.senseCfg slot).sys.role = s.sys.role := role_sense s _
@[simp] theorem stage_senseCfg (s : State) (slot f : Nat) : ((s.senseCfg slot).fn f).stage = (s.fn f).stage := stage_sense s _ f

/-! ### The host's doorbells (R149) -/

section
variable {s : State} {f : Fin 16} {v : Word} (hf : s.refuses f = false)
include hf

/-- A doorbell of a function that refuses nothing, as the configuration has been read. -/
theorem hostPublish_eq : s.hostPublish f v =
    let s1 := s.senseCfg (doorSlot v)
    let c := (s.slotT (doorSlot v)).cfg
    if !mayWrite c f false true || (cfgMirror c && decide (s.sys.role = 2)) then s1.refuseHost f (doorSlot v)
    else s1.releasePub {
      slot := doorSlot v, payload := (List.range (cfgSize c)).map fun i => ((s.fn f).stage[i]?).getD 0#8, poison := [], tenant := f, launch := 0,
      writer := 0x7FF#11, host := true, reflexSide := false, src := 4096 + f } := by
  unfold State.hostPublish
  dsimp only
  rw [hf, if_neg Bool.false_ne_true, refuses_senseCfg, hf, if_neg Bool.false_ne_true, slotT_senseCfg, role_senseCfg, stage_senseCfg]

theorem hostGet_refused (hr : cfgReader (s.slotT (doorSlot v)).cfg f = false) :
    s.hostGet f v = (s.senseCfg (doorSlot v)).refuseHost f (doorSlot v) := by
  unfold State.hostGet
  dsimp only
  rw [hf, if_neg Bool.false_ne_true, refuses_senseCfg, hf, if_neg Bool.false_ne_true, slotT_senseCfg, hr]
  rfl

end

theorem fn_modFn (s : State) (f : Fin 16) (g : Fn → Fn) : (s.modFn f g).fn f = g (s.fn f) := by
  have number : Fin.ofNat 16 f.val = f := Fin.ext (Nat.mod_eq_of_lt f.isLt)
  simp only [State.modFn, State.fn, number, Vector.get_eq_getElem, Nat.mod_eq_of_lt f.isLt, Vector.getElem_set_self]
/-- What a read of a slot delivers, and the slot that it leaves (R136, R143). -/
theorem readSlot_some {s : State} {slot size : Nat} {pin : Bool} {i : Fin 4} (h : (s.slotT slot).readable s.cycle = some i) :
    let s2 := (s.senseKeys (hdrKey slot i.val) 64).sense ((List.range size).map (transomKey slot i.val))
    let hdr := if s2.bufPoison slot i size = [] then ((s.slotT slot).bufs.get i).hdr else setRec ((s.slotT slot).bufs.get i).hdr 141 141 1
    s.readSlot slot size pin = (s2.setSlotT slot { (s.slotT slot).modBuf i fun b =>
        { b with hdr := hdr, pins := if pin then b.pins + 1 else b.pins } with
          pinq := if pin then (s.slotT slot).pinq ++ [(i, s.cycle)] else (s.slotT slot).pinq },
      hdr, s2.sectorPoisoned (hdrKey slot i.val) 64, s2.bufBytes slot i size, s2.bufPoison slot i size) := by
  unfold State.readSlot
  dsimp only
  rw [h]

/-- A write of the host port that GETDB makes. -/
def getdbWrite (f seq k : Nat) (bs : List Byte) : OutWrite :=
  { src := { tile := 4096 + f, c := 0, pid := 17 }, cells := bs.zipIdx.map fun b => (k + b.2, b.1, 0xFF#8), seq := seq }
/-- The writes of a doorbell join the function's, and the next number is taken. -/
def State.getdbPost (s : State) (f : Fin 16) (ws : List OutWrite) : State :=
  { (s.modFn f fun x => { x with outbound := x.outbound ++ ws }) with fresh := s.fresh + 1 }
theorem outbound_getdbPost (s : State) (f : Fin 16) (ws : List OutWrite) : ((s.getdbPost f ws).fn f).outbound = (s.fn f).outbound ++ ws :=
  congrArg Fn.outbound (fn_modFn s f fun x => { x with outbound := x.outbound ++ ws })
theorem slotT_getdbPost (s : State) (f : Fin 16) (ws : List OutWrite) (n : Nat) : (s.getdbPost f ws).slotT n = s.slotT n := rfl

theorem hostGet_eq {s : State} {f : Fin 16} {v : Word} (hf : s.refuses f = false) (hr : cfgReader (s.slotT (doorSlot v)).cfg f = true) :
    let c := (s.slotT (doorSlot v)).cfg
    let x := (s.senseCfg (doorSlot v)).readSlot (doorSlot v) (cfgSize c) true
    let a := hostKey f (s.fn f).getaddr.toNat
    s.hostGet f v = x.1.getdbPost f [getdbWrite f x.1.fresh (a + 64) x.2.2.2.1,
      getdbWrite f x.1.fresh a (leBytes 64 (hdrCopy x.2.1 (s.ageOf x.2.1) (s.isStale c x.2.1 && decide (cfgStaleAct c = 1))).toNat)] := by
  have age (h : Rec512) : (s.senseCfg (doorSlot v)).ageOf h = s.ageOf h := by
    unfold State.ageOf; rw [show (s.senseCfg (doorSlot v)).dtime = s.dtime from dtime_sense s _]
  have stale (c h : Rec512) : (s.senseCfg (doorSlot v)).isStale c h = s.isStale c h := by unfold State.isStale; rw [age]
  have addr : ((s.senseCfg (doorSlot v)).fn f).getaddr = (s.fn f).getaddr := getaddr_sense s _ f
  unfold State.hostGet
  dsimp only
  rw [hf, if_neg Bool.false_ne_true, refuses_senseCfg, hf, if_neg Bool.false_ne_true, slotT_senseCfg, hr, Bool.not_true,
    if_neg Bool.false_ne_true, addr, age, stale]
  rfl

theorem hostGet_delivers {s : State} {f : Fin 16} {v : Word} {i : Fin 4} (hf : s.refuses f = false)
    (hr : cfgReader (s.slotT (doorSlot v)).cfg f = true) (hi : (s.slotT (doorSlot v)).readable s.cycle = some i) :
    let slot := doorSlot v
    let c := (s.slotT slot).cfg
    let s2 := ((s.senseCfg slot).senseKeys (hdrKey slot i.val) 64).sense ((List.range (cfgSize c)).map (transomKey slot i.val))
    let h0 := ((s.slotT slot).bufs.get i).hdr
    let h := if s2.bufPoison slot i (cfgSize c) = [] then h0 else setRec h0 141 141 1
    let age := s.ageOf h
    let stale := s.isStale c h && decide (cfgStaleAct c = 1)
    let a := hostKey f (s.fn f).getaddr.toNat
    let t := s.hostGet f v
    (t.fn f).outbound = (s.fn f).outbound ++
      [getdbWrite f s.fresh (a + 64) (s.bufBytes slot i (cfgSize c)), getdbWrite f s.fresh a (leBytes 64 (hdrCopy h age stale).toNat)]
    ∧ ((t.slotT slot).bufs.get i).pins = ((s.slotT slot).bufs.get i).pins + 1 ∧ (t.slotT slot).pinq = (s.slotT slot).pinq ++ [(i, s.cycle)]
    ∧ ∀ k, t.mem.get k = s.mem.get k := by
  intro slot c s2 h0 h age stale a t
  have door : t = _ := hostGet_eq hf hr
  have read := readSlot_some (s := s.senseCfg slot) (size := cfgSize c) (pin := true) (i := i) (slot := slot)
    (by rw [slotT_senseCfg, cycle_senseCfg]; exact hi)
  rw [slotT_senseCfg, cycle_senseCfg] at read
  have mem : s2.mem = s.mem := by rw [mem_sense]; exact (mem_sense _ _).trans (mem_sense s _)
  have fresh : s2.fresh = s.fresh := by rw [fresh_sense]; exact (fresh_sense _ _).trans (fresh_sense s _)
  have outbound : (s2.fn f).outbound = (s.fn f).outbound := by rw [outbound_sense]; exact (outbound_sense _ _ f).trans (outbound_sense s _ f)
  have bytes : s2.bufBytes slot i (cfgSize c) = s.bufBytes slot i (cfgSize c) := by unfold State.bufBytes; rw [mem]
  rw [door]
  refine ⟨?_, ?_, ?_, fun k => ?_⟩
  · rw [outbound_getdbPost, read]
    dsimp only
    rw [← outbound, ← fresh, ← bytes]
    rfl
  · rw [slotT_getdbPost, read]
    dsimp only
    rw [slotT_setSlotT]
    dsimp only
    rw [TSlot.get_modBuf]
    rfl
  · rw [slotT_getdbPost, read]
    dsimp only
    rw [slotT_setSlotT]
    rfl
  · show ((s.senseCfg slot).readSlot slot (cfgSize c) true).1.mem.get k = _
    rw [read]
    show s2.mem.get k = _
    rw [mem]

/-! ### The mirror (R150) -/

theorem installMirror_ready {s : State} {h : Rec512} {bs : List Byte} {bad : List Nat} {i : Fin 4} (hr : s.sys.role = 2)
    (hv : (s.slotT (resBits h 159 148)).version.toNat < hdrVersion h) (hf : ((s.slotT (resBits h 159 148)).bufs.get i).role = .free)
    (hp : ((s.slotT (resBits h 159 148)).bufs.get i).pins = 0) :
    ∃ t, s.installMirror h bs bad = some t ∧ (t.slotT (resBits h 159 148)).version.toNat = hdrVersion h := by
  have free : ((List.finRange 4).find? fun i => decide (((s.slotT (resBits h 159 148)).bufs.get i).role = .free)
      && decide (((s.slotT (resBits h 159 148)).bufs.get i).pins = 0)).isSome = true :=
    List.find?_isSome.mpr ⟨i, List.mem_finRange i, by rw [hf, hp]; rfl⟩
  obtain ⟨j, hj⟩ := Option.isSome_iff_exists.mp free
  have stays : ¬ (s.sys.role ≠ 2 ∨ hdrVersion h ≤ (s.slotT (resBits h 159 148)).version.toNat) := by
    rintro (role | old)
    · exact role hr
    · exact absurd hv (Nat.not_lt.mpr old)
  have small : hdrVersion h < 2 ^ 64 := Nat.mod_lt _ (by decide)
  unfold State.installMirror
  dsimp only
  rw [if_neg stays, hj]
  refine ⟨_, rfl, ?_⟩
  rw [slotT_setSlotT]
  exact (BitVec.toNat_ofNat _ _).trans (Nat.mod_eq_of_lt small)

/-- Settles O28: each event's guards hold, and the slot holds what its step has put there. -/
theorem transomEvents : Obligations.TransomEvents := by
  refine ⟨fun s n p hp hn => ?stage, fun s n p i hw hi hk he => ?commit, fun s n k i rest hp hk => ?pin, fun s n r hr hn hg => ?age,
    fun s f v hf => ⟨fun hm hn => ?publish, fun hr i hi => ?get, fun hw => ?refusePub, fun hr => ?refuseGet⟩,
    fun s h bs bad i hr hv hf hp => ?mirror⟩
  case stage =>
    refine ⟨_, event_some (stagingComplete_eq hp hn), rfl, ?_, fun hq => ?_, fun q rest hs hc hr => ?_⟩
    · rw [slotT_setSlotT]
    · rw [slotT_setSlotT]
      exact stageIn_last hq
    · rw [slotT_setSlotT, hs]
      exact stageIn_first hc hr
  case commit =>
    obtain ⟨t, ht, facts⟩ := commit_ready hw hi hk he
    exact ⟨t, event_some ht, facts⟩
  case pin =>
    obtain ⟨t, ht, facts⟩ := pinEnd_ready hp hk
    exact ⟨t, event_some ht, facts⟩
  case age =>
    have slot : ∀ u : State, (({ u with tmq := u.tmq.eraseIdx n } : State).senseCfg r.slot).slotT r.slot = u.slotT r.slot := fun u =>
      slotT_senseCfg _ r.slot r.slot
    have cycle : ∀ u : State, (({ u with tmq := u.tmq.eraseIdx n } : State).senseCfg r.slot).cycle = u.cycle := fun u => cycle_senseCfg _ r.slot
    refine ⟨fun hm => event_some ?_, fun hm => ⟨fun hx => event_some ?_, fun i hi hv => event_some ?_⟩⟩
    · rw [acceptAge hr hn hg, hm]
      rfl
    · rw [acceptAge hr hn hg, hm]
      dsimp only
      rw [if_pos rfl, readSlot_none (by rw [slot, cycle]; exact hx)]
      dsimp only
      rw [ageOf_nullHeader]
    · have header := readSlot_hdr (s := ({ s with tmq := s.tmq.eraseIdx n } : State).senseCfg r.slot) (slot := r.slot) (size := 0) (pin := false)
        (i := i) (by rw [slot, cycle]; exact hi)
      rw [acceptAge hr hn hg, hm]
      dsimp only
      rw [if_pos rfl, header]
      rw [bufPoison_zero, if_pos rfl, slot, State.ageOf, if_neg hv]
  case publish =>
    refine (exec_pubdb f v s).trans (event_some (congrArg some ((hostPublish_eq hf).trans ?_)))
    have permitted : (!mayWrite (s.slotT (doorSlot v)).cfg f false true || (cfgMirror (s.slotT (doorSlot v)).cfg && decide (s.sys.role = 2))) = false := by
      rw [show mayWrite (s.slotT (doorSlot v)).cfg f false true = true from hm, Bool.not_true, Bool.false_or, ← Bool.not_eq_true,
        Bool.and_eq_true, decide_eq_true_iff]
      exact hn
    dsimp only
    rw [permitted]
    rfl
  case get => exact ⟨_, exec_getdb f v s, hostGet_delivers hf hr hi⟩
  case refusePub =>
    refine (exec_pubdb f v s).trans (event_some (congrArg some ((hostPublish_eq hf).trans ?_)))
    have barred : mayWrite (s.slotT (doorSlot v)).cfg f false true = false := by
      rw [mayWrite, show cfgWriter (s.slotT (doorSlot v)).cfg f = false from hw, Bool.false_and]
    dsimp only
    rw [barred]
    rfl
  case refuseGet => exact (exec_getdb f v s).trans (event_some (congrArg some (hostGet_refused hf hr)))
  case mirror =>
    obtain ⟨t, ht, version⟩ := installMirror_ready (bs := bs) (bad := bad) hr hv hf hp
    exact ⟨t, event_some ht, version⟩

end Sys2Proof.Machine
end

section
/-! The instructions on requests, key-value pages and combines: majors 34 and 32 (R353 to R367). -/

namespace Sys2Proof.Machine
open Sys2Proof

theorem tableIs_reads {s : State} {pid : Nat} {p : Part} (h : s.tableIs pid p) (ea n : Nat) : (s.reads ea n).tableIs pid p := by
  obtain ⟨h1, h2, h3⟩ := h
  exact ⟨by rw [pid_reads, h1], by rw [parts_reads, h2], by rwa [cur_reads]⟩
theorem toNat_wfield (w : Word) (hi lo : Nat) (h : hi + 1 - lo ≤ 64) : (BitVec.ofNat 64 (wfield w hi lo)).toNat = wfield w hi lo := by
  rw [BitVec.toNat_ofNat]
  refine Nat.mod_eq_of_lt (Nat.lt_of_lt_of_le (Nat.mod_lt _ (Nat.two_pow_pos _)) (Nat.pow_le_pow_right (by decide) h))
theorem dtime_after (s : State) (r : Reg) : (s.after r).dtime = s.dtime := rfl
theorem dtime_reads (s : State) (ea n : Nat) : (s.reads ea n).dtime = s.dtime := by
  unfold State.reads State.senseWin; exact dtime_sense _ _

/-! ### The forms that act on the table (R354, R359, R363) -/

theorem reqValue_ok {s u : State} {b a : Reg} {v : Word} {body : Word → Exec Word} (h : s.Ready (opReq b a))
    (hb : body (s.val b) (s.after b) = .ok (v, u)) : reqValue b a body s = .next ((u.give a v).retire (opReq b a) .next) :=
  issueValue_ok h ((bind_ok (rd_run b s)).trans hb)

section
variable {s : State} {b a : Reg} {pid : Nat} {p : Part} (h : s.Ready (opReq b a)) (ht : (s.after b).tableIs pid p)
include h ht

theorem reqSub_ready (ha : (s.val b).toNat % 64 = 0) (hw : (s.after b).inWindow s.cur (s.val b).toNat 64 .load)
    (hr : (s.after b).readable (s.val b).toNat 64) :
    let s1 := s.after b
    let r := p.req.submit (BitVec.ofNat 512 (s1.ownNat (s.val b).toNat 64)) s1.act.tenant
    execReqSub b a s = .next ((((s1.reads (s.val b).toNat 64).putTable pid r.1).spent.give a r.2).retire (opReq b a) .next) := by
  intro s1 r
  refine reqValue_ok h ?_
  rw [bind_ok (recordAddr_ok ha hw), bind_ok (readOwn_ok hr), bind_ok (reqTable_ok (tableIs_reads ht _ _)),
    bind_ok (get_run _), act_reads]
  dsimp only
  rw [bind_ok (setTable_run _ _ _), bind_ok (markNonReplayable_run _), pure_run]
  rfl
theorem reqRd_ready {u : State} (hb : onlyBits (s.val b) [(11, 0), (51, 32)] = true) (ha : wfield (s.val b) 51 32 % 64 = 0)
    (hw : (s.after b).inWindow s.cur (wfield (s.val b) 51 32) 64 .store) (hc : (s.after b).ownClear (wfield (s.val b) 51 32) 64 = true)
    (hl : (s.after b).logs (wfield (s.val b) 51 32) 64 u) :
    execReqRd b a s = .next (((u.storeAt (wfield (s.val b) 51 32) (leBytes 64 (p.req.recAt (wfield (s.val b) 11 0)).toNat)).give a 0#64).retire
      (opReq b a) .next) := by
  refine reqValue_ok h ?_
  have ea := toNat_wfield (s.val b) 51 32 (by decide)
  have at64 : recordAddr (BitVec.ofNat 64 (wfield (s.val b) 51 32)) .store (s.after b) = .ok (wfield (s.val b) 51 32, s.after b) := by
    rw [recordAddr_ok (by rw [ea]; exact ha) (by rw [ea]; exact hw), ea]
  have stored := storeOwn_ok (s := s.after b) (u := u) (bs := leBytes 64 (p.req.recAt (wfield (s.val b) 11 0)).toNat)
    (by rwa [leBytes_length]) (by rwa [leBytes_length])
  rw [bind_ok (requireOperand_ok hb _), bind_ok at64, bind_ok (reqTable_ok ht)]
  exact bind_ok stored
theorem reqCommit_ready (hb : onlyBits (s.val b) [(8, 0), (11, 9), (51, 32)] = true) (ha : wfield (s.val b) 51 32 % 4 = 0)
    (hw : (s.after b).inWindow s.cur (wfield (s.val b) 51 32) (4 * (wfield (s.val b) 11 9 + 1)) .load)
    (hr : (s.after b).readable (wfield (s.val b) 51 32) (4 * (wfield (s.val b) 11 9 + 1))) :
    let s1 := s.after b
    let n := wfield (s.val b) 11 9 + 1
    let ea := wfield (s.val b) 51 32
    let r := p.req.commit (wfield (s.val b) 8 0) (s1.ownList ea n) s.dtime
    execReqCommit b a s = .next ((((s1.reads ea (4 * n)).putTable pid r.1).give a r.2).retire (opReq b a) .next) := by
  intro s1 n ea r
  refine reqValue_ok h ?_
  rw [bind_ok (requireOperand_ok (by rw [hb, decide_eq_true ha]; rfl) _), bind_ok (readList_ok hw hr),
    bind_ok (reqTable_ok (tableIs_reads ht _ _)), bind_ok (get_run _), dtime_reads, dtime_after]
  dsimp only
  rw [bind_ok (setTable_run _ _ _), pure_run]
theorem reqCfgRows_ready (hb : onlyBits (s.val b) [(9, 0)] = true) (h1 : 1 ≤ (s.val b).toNat) (h2 : (s.val b).toNat ≤ 512) :
    execReqCfgRows b a s = .next ((if p.req.held.any (fun x => decide ((s.val b).toNat ≤ x.1)) then (s.after b).spent.give a 1#64
      else ((s.after b).spent.putTable pid { p.req with rowsNext := some (s.val b).toNat }).give a 0#64).retire (opReq b a) .next) := by
  by_cases held : p.req.held.any (fun x => decide ((s.val b).toNat ≤ x.1)) = true
  · rw [if_pos held]
    refine reqValue_ok h ?_
    rw [bind_ok (requireOperand_ok (by rw [hb, decide_eq_true h1, decide_eq_true h2]; rfl) _), bind_ok (reqTable_ok ht),
      bind_ok (markNonReplayable_run _), if_pos held, pure_run]
  · rw [if_neg held]
    refine reqValue_ok h ?_
    rw [bind_ok (requireOperand_ok (by rw [hb, decide_eq_true h1, decide_eq_true h2]; rfl) _), bind_ok (reqTable_ok ht),
      bind_ok (markNonReplayable_run _), if_neg held, bind_ok (setTable_run _ _ _), pure_run]
theorem reqCfgStopset_ready (hb : onlyBits (s.val b) [(2, 0), (8, 4), (51, 32)] = true) (hn : wfield (s.val b) 8 4 ≤ 16)
    (ha : wfield (s.val b) 51 32 % 64 = 0) (hw : (s.after b).inWindow s.cur (wfield (s.val b) 51 32) (4 * wfield (s.val b) 8 4) .load)
    (hr : (s.after b).readable (wfield (s.val b) 51 32) (4 * wfield (s.val b) 8 4)) :
    let s1 := s.after b
    let n := wfield (s.val b) 8 4
    let ea := wfield (s.val b) 51 32
    execReqCfgStopset b a s = .next ((((s1.reads ea (4 * n)).putTable pid { p.req with
      stops := p.req.stops.set (wfield (s.val b) 2 0 % 8) (s1.ownList ea n) (Nat.mod_lt _ (by decide)) }).spent.give a 0#64).retire
        (opReq b a) .next) := by
  intro s1 n ea
  refine reqValue_ok h ?_
  dsimp only
  rw [bind_ok (requireOperand_ok (by rw [hb, decide_eq_true hn, decide_eq_true ha]; rfl) _), bind_ok (readList_ok hw hr),
    bind_ok (reqTable_ok (tableIs_reads ht _ _))]
  dsimp only
  rw [bind_ok (setTable_run _ _ _), bind_ok (markNonReplayable_run _), pure_run]
  rfl
theorem reqCancel_ready (free : Bool) (hb : onlyBits (s.val b) [(11, 0)] = true) :
    let r := p.req.cancel (s.val b).toNat free
    execReqCancel free b a s =
      .next ((((s.after b).putTable pid r.1).spent.give a (BitVec.ofNat 64 r.2)).retire (opReq b a) .next) := by
  intro r
  refine reqValue_ok h ?_
  rw [bind_ok (requireOperand_ok hb _), bind_ok (reqTable_ok ht)]
  dsimp only
  rw [bind_ok (setTable_run _ _ _), bind_ok (markNonReplayable_run _), pure_run]

end

/-! ### The forms that are buffered, or wait for their value (R311, R355, R361, R365) -/

theorem reqStep_ready {s : State} {a : Reg} (h : s.Ready { srcs := [a], iso := true })
    (hb : onlyBits (s.val a) [(7, 0), (21, 16), (51, 32)] = true) (ha : wfield (s.val a) 51 32 % 64 = 0)
    (hm : (s.after a).member (wfield (s.val a) 7 0) = true) (room : (s.after a).outRoom 32 = true) :
    execReqStep a s = .next (((s.after a).items 32 (.reqStep (s.val a))).retire { srcs := [a], iso := true } .next) := by
  refine issue_ok h ?_
  rw [bind_ok (rd_run a s), bind_ok (get_run _), bind_ok (requireOperand_ok (by rw [hb, decide_eq_true ha, hm]; rfl) _),
    bind_ok (appendOut_ok room _), pure_run]
theorem reqFault_ready {s : State} {a : Reg} (h : s.Ready { srcs := [a], iso := true }) (hb : onlyBits (s.val a) [(8, 0), (22, 16)] = true)
    (hc : wfield (s.val a) 22 16 ≠ 0x7F) (room : (s.after a).outRoom 32 = true) :
    execReqFault a s = .next (((s.after a).items 32 (.reqFault (wfield (s.val a) 8 0) (wfield (s.val a) 22 16))).retire
      { srcs := [a], iso := true } .next) := by
  refine issue_ok h ?_
  rw [bind_ok (rd_run a s), bind_ok (requireOperand_ok (by rw [hb, decide_eq_true hc]; rfl) _), bind_ok (appendOut_ok room _), pure_run]
theorem kvForm_ready {s : State} {b a : Reg} (op : Nat) (h : s.Ready (opReq b a)) (hb : onlyBits (s.val b) [(19, 0), (35, 32)] = true) :
    kvForm op b a s = .next ((({ (s.after b).bump with kvq := s.kvq ++ [{
        tile := s.cur, c := s.ctx, id := s.fresh, pid := (s.after b).pid.getD 16, op := op, page := wfield (s.val b) 19 0,
        tenant := wfield (s.val b) 35 32 }] } : State).pend { id := s.fresh, d := a, blocking := true, pc := s.half.pc }).spent.retire
      (opReq b a) .next) := by
  have pc : (s.after b).half.pc = s.half.pc := pc_after s b
  refine issue_ok h ?_
  rw [bind_ok (rd_run b s), bind_ok (requireOperand_ok hb _), bind_ok (get_run _), bind_ok (freshId_run _), pc, bind_ok (update_run _ _),
    bind_ok (pendingLoad_run _ _), bind_ok (markNonReplayable_run _), pure_run]
  rfl
theorem cmbForm_ready {s : State} {b a : Reg} {t : Nat} (op : Nat) (i32 : Bool) (h : s.Ready { srcs := [a, b] }) :
    let s2 := (s.after a).after b
    let w := (s.after a).val b
    onlyBits w [(10, 0), (21, 16), (40, 32), (63, 48)] = true → s2.resolve (wfield w 10 0) = some t → s2.outRoom 32 = true →
      cmbForm op i32 b a s = .next ((s2.items 32 (.cmb {
        op := op, i32 := i32, value := s.val a, owner := t, ownerWord := BitVec.ofNat 11 (wfield w 10 0), chan := wfield w 21 16,
        count := wfield w 40 32 + 1, id := wfield w 63 48, tenant := s2.act.tenant, launch := s2.act.launch, pid := s2.act.pid, src := s.cur,
        wicket := decide (s2.share = 2) && decide (t < 512) })).retire { srcs := [a, b] } .next) := by
  intro s2 w hb hr room
  refine issue_ok h ?_
  rw [bind_ok (rd_run a s), bind_ok (rd_run b _), bind_ok (requireOperand_ok hb _), bind_ok (targetTile_ok hr), bind_ok (get_run _),
    bind_ok (appendOut_ok room _), pure_run]
  rfl

/-- Settles O29. -/
theorem requestForms : Obligations.RequestForms := by
  refine ⟨fun s b a pid p h ht => ?_, fun s a h => ⟨fun hb ha hm room => ?_, fun hb hc room => ?_⟩, fun s b a h hb => ?_, fun s b a t h hb hr room => ?_⟩
  · refine ⟨fun ha hw hr => (exec_reqSub b a s).trans (reqSub_ready h ht ha hw hr),
      fun u hb ha hw hc hl => (exec_reqRd b a s).trans (reqRd_ready h ht hb ha hw hc hl),
      fun hb ha hw hr => (exec_reqCommit b a s).trans (reqCommit_ready h ht hb ha hw hr),
      fun hb h1 h2 => ⟨fun ⟨x, hx, le⟩ => ?_, fun hx => ?_⟩,
      fun hb hn ha hw hr => (exec_reqCfgStopset b a s).trans (reqCfgStopset_ready h ht hb hn ha hw hr),
      fun free hb => (exec_reqCancel free b a s).trans (reqCancel_ready h ht free hb)⟩
    · rw [exec_reqCfgRows b a s, reqCfgRows_ready h ht hb h1 h2, if_pos (List.any_eq_true.mpr ⟨x, hx, decide_eq_true le⟩)]
    · rw [exec_reqCfgRows b a s, reqCfgRows_ready h ht hb h1 h2, if_neg (by simpa using hx)]
  · exact (exec_reqStep a s).trans (reqStep_ready h hb ha hm room)
  · exact (exec_reqFault a s).trans (reqFault_ready h hb hc room)
  · exact ⟨(exec_reqKvAttach b a s).trans (kvForm_ready 0 h hb), (exec_reqKvDetach b a s).trans (kvForm_ready 1 h hb),
      (exec_reqKvEvict b a s).trans (kvForm_ready 2 h hb), (exec_reqKvRelease b a s).trans (kvForm_ready 3 h hb)⟩
  · exact ⟨fun i32 => ⟨(exec_cmbMax i32 b a s).trans (cmbForm_ready 0 i32 h hb hr room),
        (exec_cmbMin i32 b a s).trans (cmbForm_ready 1 i32 h hb hr room)⟩,
      (exec_cmbLgc .and b a s).trans (cmbForm_ready 2 false h hb hr room), (exec_cmbLgc .or b a s).trans (cmbForm_ready 3 false h hb hr room),
      (exec_cmbLgc .xor b a s).trans (cmbForm_ready 4 false h hb hr room), (exec_cmbAdd b a s).trans (cmbForm_ready 5 false h hb hr room)⟩

end Sys2Proof.Machine
end

section
/-! Records by their fields, and the rules of the request table (R353, R354, R359, R363). -/

namespace Sys2Proof.Machine
open Sys2Proof

/-! ### A field of a record after a field is written (R353) -/

theorem setBits_eq {n hi lo : Nat} (v : Nat) (h : lo ≤ hi + 1) :
    setBits n hi lo v = 2 ^ lo * (2 ^ (hi + 1 - lo) * (n / 2 ^ (hi + 1)) + v % 2 ^ (hi + 1 - lo)) + n % 2 ^ lo := by
  have split : 2 ^ (hi + 1) = 2 ^ lo * 2 ^ (hi + 1 - lo) := by rw [← Nat.pow_add]; congr 1; omega
  have high : n / 2 ^ lo = 2 ^ (hi + 1 - lo) * (n / 2 ^ (hi + 1)) + n / 2 ^ lo % 2 ^ (hi + 1 - lo) := by
    rw [split, ← Nat.div_div_eq_div_mul]
    exact (Nat.div_add_mod _ _).symm
  have whole := Nat.div_add_mod n (2 ^ lo)
  unfold setBits bits
  generalize n / 2 ^ lo % 2 ^ (hi + 1 - lo) = b at high ⊢
  rw [high, Nat.mul_add] at whole
  rw [Nat.mul_comm b, Nat.mul_comm (v % _), Nat.mul_add]
  omega
theorem testBit_setBits (n v i : Nat) {hi lo : Nat} (h : lo ≤ hi + 1) :
    (setBits n hi lo v).testBit i = if lo ≤ i ∧ i ≤ hi then v.testBit (i - lo) else n.testBit i := by
  rw [setBits_eq v h, Nat.testBit_two_pow_mul_add _ (Nat.mod_lt _ (Nat.two_pow_pos lo)),
    Nat.testBit_two_pow_mul_add _ (Nat.mod_lt _ (Nat.two_pow_pos _)), Nat.testBit_mod_two_pow, Nat.testBit_mod_two_pow, Nat.testBit_div_two_pow]
  by_cases h1 : i < lo
  · rw [if_pos h1, if_neg (by omega), decide_eq_true h1, Bool.true_and]
  · rw [if_neg h1]
    by_cases h2 : i ≤ hi
    · rw [if_pos (by omega), if_pos (by omega), decide_eq_true (by omega), Bool.true_and]
    · rw [if_neg (by omega), if_neg (by omega)]
      congr 1
      omega
theorem testBit_bits (n hi lo j : Nat) : (bits n hi lo).testBit j = (decide (j < hi + 1 - lo) && n.testBit (lo + j)) := by
  rw [bits, Nat.testBit_mod_two_pow, Nat.testBit_div_two_pow, Nat.add_comm j]
theorem testBit_setRec (r : Rec512) (v i : Nat) {hi lo : Nat} (h : lo ≤ hi + 1) (hi512 : i < 512) :
    (setRec r hi lo v).toNat.testBit i = if lo ≤ i ∧ i ≤ hi then v.testBit (i - lo) else r.toNat.testBit i := by
  rw [setRec, ← BitVec.getLsbD, BitVec.getLsbD_ofNat, decide_eq_true hi512, Bool.true_and, testBit_setBits _ _ _ h]
/-- The field that is written reads as what was written. -/
theorem resBits_setRec_same (r : Rec512) {hi lo : Nat} (v : Nat) (h : lo ≤ hi + 1) (h512 : hi < 512) :
    resBits (setRec r hi lo v) hi lo = v % 2 ^ (hi + 1 - lo) := by
  refine Nat.eq_of_testBit_eq fun j => ?_
  rw [resBits, testBit_bits, Nat.testBit_mod_two_pow]
  by_cases hj : j < hi + 1 - lo
  · rw [testBit_setRec r v _ h (by omega), if_pos (by omega), Nat.add_sub_cancel_left]
  · rw [decide_eq_false hj, Bool.false_and, Bool.false_and]
/-- A field that lies apart is left. -/
theorem resBits_setRec_apart (r : Rec512) {hi lo hi' lo' : Nat} (v : Nat) (h : lo ≤ hi + 1) (apart : hi' < lo ∨ hi < lo') (h512 : hi' < 512) :
    resBits (setRec r hi lo v) hi' lo' = resBits r hi' lo' := by
  refine Nat.eq_of_testBit_eq fun j => ?_
  rw [resBits, resBits, testBit_bits, testBit_bits]
  by_cases hj : j < hi' + 1 - lo'
  · rw [testBit_setRec r v _ h (by omega), if_neg (by omega)]
  · rw [decide_eq_false hj, Bool.false_and, Bool.false_and]

/-! ### States of a record (R353) -/

theorem rqState_setRec {r : Rec512} {hi lo v : Nat} (h : lo ≤ hi + 1) (apart : 38 < lo ∨ hi < 36) : rqState (setRec r hi lo v) = rqState r :=
  resBits_setRec_apart r v h apart (by decide)
theorem rqState_rqSetState (r : Rec512) {st : Nat} (h : st < 8) : rqState (rqSetState r st) = st := by
  rw [rqState, rqSetState, resBits_setRec_same _ _ (by decide) (by decide)]
  exact Nat.mod_eq_of_lt h
theorem rqState_rqEnd (r : Rec512) {st : Nat} (err : Nat) (h : st < 8) : rqState (rqEnd r st err) = st := by
  rw [rqEnd, rqState_setRec (by decide) (.inl (by decide)), rqState_rqSetState r h]
theorem rqState_rqFill (img : Rec512) (tenant seq : Nat) : rqState (rqFill img tenant seq) = 1 := by
  rw [rqFill, rqState_setRec (by decide) (.inr (by decide)), rqState_setRec (by decide) (.inl (by decide)),
    rqState_setRec (by decide) (.inl (by decide)), rqState_setRec (by decide) (.inl (by decide)), rqState_setRec (by decide) (.inl (by decide)),
    rqState_rqSetState _ (by decide)]
theorem recAt_putRec (q : ReqTable) (i : Nat) (r : Rec512) : (q.putRec i r).recAt i = r := by
  simp [ReqTable.recAt, ReqTable.putRec, NMap.get?_set_same]

/-! ### The table's operations -/

/-- A submission takes the lowest free record (R354, R363; log 33). -/
theorem submit_free {q : ReqTable} {img : Rec512} {i : Nat} (tenant : Nat) (hm : rqMalformed img = false) (hs : rqSibl img = 0) (hi : i < 4096)
    (hf : rqState (q.recAt i) = 0) (hl : ∀ k, k < i → rqState (q.recAt k) ≠ 0) :
    q.submit img tenant = ({ (q.putRec i (rqFill img tenant q.admseq)) with admseq := q.admseq + 1 }, BitVec.ofNat 64 i) := by
  have lowest : (List.range 4096).find? (fun i => decide (rqState (q.recAt i) = 0)) = some i := by
    rw [List.find?_range_eq_some]
    exact ⟨decide_eq_true hf, List.mem_range.mpr hi, fun k hk => by simpa using hl k hk⟩
  rw [ReqTable.submit, hm, if_neg Bool.false_ne_true, if_neg (fun h => h.1 hs), lowest]
/-- What a cancel does is said by the record's state (R354). -/
theorem cancel_eq (q : ReqTable) (i : Nat) : q.cancel i false =
    if rqState (q.recAt i) = 1 then (q.putRec i (rqEnd (q.recAt i) 4 3), 0)
    else if rqState (q.recAt i) = 2 then (q.putRec i (rqEnd (q.recAt i) 3 3), 0) else (q, 1) := rfl

/-- Settles O30: each operation of the table by the case that its first state is in. -/
theorem requestTableRules : Obligations.RequestTableRules := by
  refine ⟨fun q img tenant i hm hs hi hf hl => ?_, fun q i => ⟨fun h => ?_, fun h => ?_, fun h1 h2 => ?_⟩,
    fun stops tok rest r => ⟨fun h => ?_, fun h hp => ?_, fun h hp => ?_⟩⟩
  · rw [submit_free tenant hm hs hi hf hl]
    exact ⟨rfl, (congrArg rqState (recAt_putRec q i _)).trans (rqState_rqFill img tenant q.admseq), rfl⟩
  · rw [cancel_eq, if_pos h, recAt_putRec]
    exact ⟨rqState_rqEnd _ _ (by decide), rfl⟩
  · rw [cancel_eq, if_neg (by omega), if_pos h, recAt_putRec]
    exact ⟨rqState_rqEnd _ _ (by decide), rfl⟩
  · rw [cancel_eq, if_neg h1, if_neg h2]
  · rw [commitTokens, if_pos (by simpa using h)]
  · rw [commitTokens, if_neg (by simpa using h), if_pos hp]
  · rw [commitTokens, if_neg (by simpa using h), if_neg (Nat.not_le.mpr hp)]
    exact ⟨rfl, rfl⟩

end Sys2Proof.Machine
end

section
/-! Extension registers, shape registers and record slices (R162 to R169). -/

namespace Sys2Proof.Machine
open Sys2Proof

/-! ### Extension registers (R162) -/

theorem extW_ready {s : State} {a : Reg} (n : BitVec 3) (h : s.Ready { srcs := [a] }) :
    execExtW n a s = .next (((s.after a).modHalf fun h => (h.setE n (s.val a)).push (s.val a)).retire { srcs := [a] } .next) := by
  refine issue_ok h ?_
  rw [bind_ok (rd_run a s), bind_ok (extWrite_run _ _ _), pure_run]
theorem extGet_ready {s : State} {a : Reg} (n : BitVec 3) (h : s.Ready { dsts := [a] }) :
    execExtGet n a s = .next ((s.give a (s.half.e.get n.toFin)).retire { dsts := [a] } .next) :=
  issueValue_ok h rfl
theorem extLix_ready {s : State} (n : BitVec 3) (imm : BitVec 16) (h : s.Ready {}) :
    execExtLix n imm s = .next ((s.modHalf fun h => (h.setE n (imm.signExtend 64)).push (imm.signExtend 64)).retire {} .next) :=
  issue_ok h rfl
theorem extLixs_ready {s : State} (n : BitVec 3) (imm : BitVec 16) (h : s.Ready {}) :
    let v := s.half.e.get n.toFin * 65536#64 ||| imm.setWidth 64
    execExtLixs n imm s = .next ((s.modHalf fun h => (h.setE n v).push v).retire {} .next) := by
  intro v
  have shifted : s.half.e.get n.toFin <<< 16 = s.half.e.get n.toFin * 65536#64 := BitVec.shiftLeft_eq_mul_twoPow _ _
  refine issue_ok h ?_
  rw [bind_ok (get_run s), shifted, bind_ok (extWrite_run _ _ _), pure_run]

/-! ### Shape registers (R163, R167, R168) -/

section
variable {s : State} {b : Reg} (h : s.Ready { srcs := [b] }) (ha : (s.val b).toNat % 64 = 0)
include h ha

theorem shpLd_ready (n : BitVec 4) (hw : (s.after b).inWindow s.cur (s.val b).toNat 64 .load) (hr : (s.after b).readable (s.val b).toNat 64) :
    execShpLd n b s = .next ((((s.after b).reads (s.val b).toNat 64).modHalf
      fun h => h.setH n (BitVec.ofNat 512 ((s.after b).ownNat (s.val b).toNat 64))).retire { srcs := [b] } .next) := by
  refine issue_ok h ?_
  rw [bind_ok (rd_run b s), bind_ok (recordAddr_ok ha hw), bind_ok (readOwn_ok hr), bind_ok (update_run _ _), pure_run]
  rfl
theorem shpSt_ready {u : State} (n : BitVec 4) (hw : (s.after b).inWindow s.cur (s.val b).toNat 64 .store)
    (hc : (s.after b).ownClear (s.val b).toNat 64 = true) (hl : (s.after b).logs (s.val b).toNat 64 u) :
    execShpSt n b s = .next ((u.storeAt (s.val b).toNat (leBytes 64 ((s.after b).half.h.get n.toFin).toNat)).retire { srcs := [b] } .next) := by
  refine issue_ok h ?_
  have stored := storeOwn_ok (s := s.after b) (u := u) (bs := leBytes 64 ((s.after b).half.h.get n.toFin).toNat)
    (by rwa [leBytes_length]) (by rwa [leBytes_length])
  rw [bind_ok (rd_run b s), bind_ok (recordAddr_ok ha hw), bind_ok (get_run _), bind_ok stored, pure_run]

end

section
variable {s : State} {a : Reg} (n : BitVec 4) {f : BitVec 6} (hf : f.toNat < 33)
include hf

theorem shpSet_ready (h : s.Ready { srcs := [a] }) (hv : (s.val a).toNat < 2 ^ (shapeField f.toNat).2) :
    execShpSet n f a s = .next (((s.after a).modHalf fun h => h.setH n (shapeSet (h.h.get n.toFin) f.toNat (s.val a).toNat)).retire
      { srcs := [a] } .next) := by
  have listed : decide (33 ≤ f.toNat) = false := decide_eq_false (Nat.not_le.mpr hf)
  unfold execShpSet
  rw [listed]
  refine issue_ok h ?_
  rw [bind_ok (rd_run a s), bind_ok (requireOperand_ok (decide_eq_true hv) _), bind_ok (update_run _ _), pure_run]
theorem shpGet_ready (h : s.Ready { dsts := [a] }) :
    execShpGet n f a s =
      .next ((s.give a (BitVec.ofNat 64 (shapeGet (s.half.h.get n.toFin) f.toNat))).retire { dsts := [a] } .next) := by
  have listed : decide (33 ≤ f.toNat) = false := decide_eq_false (Nat.not_le.mpr hf)
  unfold execShpGet
  rw [listed]
  exact issueValue_ok h rfl

end

/-! ### Record slices (R169) -/

@[simp] theorem net_reads (s : State) (ea n : Nat) : (s.reads ea n).net = s.net := by
  unfold State.reads State.senseWin; rw [sense_eq]
@[simp] theorem ownClear_reads (s : State) (ea n a k : Nat) : (s.reads ea n).ownClear a k = s.ownClear a k := by
  simp [State.ownClear, State.toSelf]

section
variable {s : State} {b a : Reg} {idx : BitVec 6} (h : s.Ready { srcs := [b], dsts := [a] }) (h1 : wfield (s.val b) 63 52 = 0)
  (h2 : wfield (s.val b) 31 16 = 0) (h3 : wfield (s.val b) 37 32 = 0) (hw : (s.after b).inWindow s.cur (wfield (s.val b) 51 32) 64 .store)
  (hr : (s.after b).readable (64 * idx.toNat) 64)
include h h1 h2 h3 hw hr

/-- A malformed record is named by its own address. -/
theorem recSlice_malformed (hm : shapeMalformed (BitVec.ofNat 512 ((s.after b).ownNat (64 * idx.toNat) 64)) = true) :
    execRecSlice idx b a s = .next (s.takeTrap s.half.pc { code := 0x21, faddr := BitVec.ofNat 64 (64 * idx.toNat), own := true }) := by
  refine (issueValue_error h ?_).trans (stopped_trap s 4 _ (.inl rfl))
  rw [bind_ok (rd_run b s)]
  dsimp only
  refine (bind_ok (requireOperand_ok (by simpa [wfield] using ⟨⟨h1, h2⟩, h3⟩) _)).trans ?_
  rw [bind_ok (get_run _)]
  refine (bind_ok (checkWin_ok hw 0)).trans ?_
  rw [bind_ok (readOwn_ok hr)]
  exact when_error hm rfl
theorem recSlice_ready {u : State} (hm : shapeMalformed (BitVec.ofNat 512 ((s.after b).ownNat (64 * idx.toNat) 64)) = false)
    (hn : wfield (s.val b) 15 0 < shapeParts (BitVec.ofNat 512 ((s.after b).ownNat (64 * idx.toNat) 64)))
    (hc : (s.after b).ownClear (wfield (s.val b) 51 32) 64 = true)
    (hl : ((s.after b).reads (64 * idx.toNat) 64).logs (wfield (s.val b) 51 32) 64 u) :
    let r := sliceOfRank (BitVec.ofNat 512 ((s.after b).ownNat (64 * idx.toNat) 64)) (wfield (s.val b) 15 0)
    execRecSlice idx b a s = .next (((u.storeAt (wfield (s.val b) 51 32) (leBytes 64 r.1.toNat)).give a (BitVec.ofNat 64 r.2)).retire
      { srcs := [b], dsts := [a] } .next) := by
  intro r
  have stored := storeOwn_ok (s := (s.after b).reads (64 * idx.toNat) 64) (u := u) (bs := leBytes 64 r.1.toNat) (ea := wfield (s.val b) 51 32)
    (by rwa [leBytes_length, ownClear_reads]) (by rwa [leBytes_length])
  refine issueValue_ok h ?_
  rw [bind_ok (rd_run b s)]
  dsimp only
  refine (bind_ok (requireOperand_ok (by simpa [wfield] using ⟨⟨h1, h2⟩, h3⟩) _)).trans ?_
  rw [bind_ok (get_run _)]
  refine (bind_ok (checkWin_ok hw 0)).trans ?_
  rw [bind_ok (readOwn_ok hr)]
  refine (when_ok (t := (s.after b).reads (64 * idx.toNat) 64) (fun h => absurd h (by rw [← Bool.not_eq_true] at hm; exact hm)) fun _ => rfl).trans ?_
  refine (bind_ok (requireOperand_ok (decide_eq_true hn) _)).trans ?_
  exact bind_ok stored

end

/-- Settles O32. -/
theorem extensionAndShapeRegisters : Obligations.ExtensionAndShapeRegisters := by
  refine ⟨⟨fun s n a h => (exec_extW n a s).trans (extW_ready n h), fun s n a h => (exec_extGet n a s).trans (extGet_ready n h),
    fun s n imm h => ⟨(exec_extLix n imm s).trans (extLix_ready n imm h), (exec_extLixs n imm s).trans (extLixs_ready n imm h)⟩,
    fun s n b h ha => ⟨fun hw hr => (exec_shpLd n b s).trans (shpLd_ready h ha n hw hr),
      fun u hw hc hl => (exec_shpSt n b s).trans (shpSt_ready h ha n hw hc hl)⟩,
    fun s n f a hf => ⟨fun h hv => (exec_shpSet n f a s).trans (shpSet_ready n hf h hv),
      fun h => (exec_shpGet n f a s).trans (shpGet_ready n hf h)⟩⟩,
    fun s u idx b a h h1 h2 h3 hw hr => ⟨fun hm => (exec_recSlice idx b a s).trans (recSlice_malformed h h1 h2 h3 hw hr hm),
      fun hm hn hc hl => (exec_recSlice idx b a s).trans (recSlice_ready h h1 h2 h3 hw hr hm hn hc hl)⟩⟩

end Sys2Proof.Machine
end

section
/-! Timer and Wicket instructions (R372 to R375, R379 to R385). -/

namespace Sys2Proof.Machine
open Sys2Proof

/-- A form that has no meaning where it stands is an illegal instruction, before it reads anything (R38, R374, R385). -/
theorem issue_illegal {s : State} {o : Op} (hk : validKey s.cur = true) (hi : o.illegal = true) (body : Exec Flow) :
    issue o body s = .next (s.takeTrap s.half.pc { code := 0x20, faddr := s.wordAtPc o.len }) :=
  issue_stopped hk (issueStop_illegal s hi) body
theorem issueValue_illegal {s : State} {o : Op} (hk : validKey s.cur = true) (hi : o.illegal = true) (d : Reg) (body : Exec Word) :
    issueValue o d body s = .next (s.takeTrap s.half.pc { code := 0x20, faddr := s.wordAtPc o.len }) :=
  issue_illegal hk hi _

/-! ### Timers (R372, R374, R375) -/

theorem noTimers_eq {s : State} {b : Bool} (h : isReflex s.cur = b) : s.noTimers = !b := by rw [State.noTimers, h]

section
variable {s : State} {b a : Reg} (hx : isReflex s.cur = true)
include hx

theorem tmrSet_ready (h : s.Ready { srcs := [a, b] }) :
    let s2 := (s.after a).after b
    let w := s.val a
    let p := ((s.after a).val b).toNat
    let hd := (s2.tile s.cur).handlers.get (Fin.ofNat 64 (wfield w 13 8))
    onlyBits w [(1, 0), (13, 8), (15, 15)] = true → 1000 ≤ p → p < 2 ^ 32 → hd.valid = true → hd.tenant = s2.act.tenant →
      execTmrSet b a s = .next ((s2.modTile s.cur fun t => t.modTimer (Fin.ofNat 4 (wfield w 1 0)) fun x =>
        if w.getLsbD 15 then { en := true, chan := wfield w 13 8, period := p, phase := (s.half.e.get 0).toNat,
                               next := firstEdge (s.half.e.get 0).toNat p (s.dtimeIn 4), held := x.held }
        else { x with en := false }).retire { srcs := [a, b] } .next) := by
  intro s2 w p hd hw h1 h2 hv ht
  have e0 : ((s.after a).after b).half.e = s.half.e := by simp
  unfold execTmrSet
  rw [noTimers_eq hx]
  refine issue_ok h ?_
  rw [bind_ok (rd_run a s), bind_ok (rd_run b _),
    bind_ok (requireOperand_ok (by rw [hw, decide_eq_true h1, decide_eq_true h2]; rfl) _), bind_ok (get_run _)]
  refine (bind_ok (requireOperand_ok (show (hd.valid && decide (hd.tenant = s2.act.tenant)) = true by rw [hv, decide_eq_true ht]; rfl) s2)).trans ?_
  rw [e0]
  rfl
theorem tmrRd_ready (h : s.Ready { srcs := [b], dsts := [a] }) (hw : onlyBits (s.val b) [(3, 0)] = true) :
    let w := s.val b
    let x := (s.tile s.cur).timers.get (Fin.ofNat 4 (wfield w 1 0))
    let k := wfield w 3 2
    execTmrRd b a s = .next (((s.after b).give a (BitVec.ofNat 64
      (if k = 0 then x.period else if k = 1 then x.phase + x.next * x.period else if k = 2 then x.next else x.missed))).retire
        { srcs := [b], dsts := [a] } .next) := by
  intro w x k
  unfold execTmrRd
  rw [noTimers_eq hx]
  refine issueValue_ok h ?_
  rw [bind_ok (rd_run b s), bind_ok (requireOperand_ok hw _), bind_ok (get_run _)]
  rw [pure_run, cur_after, tile_after_timers]
  refine congrArg (fun n => Except.ok (BitVec.ofNat 64 n, s.after b)) ?_
  split
  · next h0 => rw [show k = 0 from h0]; rfl
  · next h1 => rw [show k = 1 from h1]; rfl
  · next h2 => rw [show k = 2 from h2]; rfl
  · next h0 h1 h2 => rw [if_neg h0, if_neg h1, if_neg h2]

/-! ### The Wicket (R379, R383) -/

theorem wktSeize_ready (h : s.Ready { srcs := [a, b] }) (hw : onlyBits (s.val a) [(4, 0), (9, 8), (21, 16)] = true)
    (hr : ((s.after a).after b).releaseStop false 3 = none) :
    execWktSeize b a s = .next ((((s.after a).after b).ordered.modBay (wfield (s.val a) 4 0) fun y => { y with
      reqs := y.reqs ++ [{ tile := s.cur, word := s.val a, arg := (s.after a).val b, cycle := s.cycle }] }).spent.retire
        { srcs := [a, b] } .next) := by
  refine issue_ok h ?_
  rw [bind_ok (rd_run a s), bind_ok (rd_run b _), bind_ok (get_run _), bind_ok (requireOperand_ok (by rw [hw]; exact hx) _),
    bind_ok (releaseWait_ok hr _), bind_ok (update_run _ _), bind_ok (markNonReplayable_run _), pure_run]
  rfl

end

theorem wktRel_ready {s : State} {a : Reg} (hx : s.reflexSide = true) (h : s.Ready { srcs := [a] }) (hw : onlyBits (s.val a) [(4, 0)] = true)
    (hb : isReflex s.cur = true ∨ (s.val a).toNat = bayOf s.cur) (hr : (s.after a).releaseStop false 3 = none) :
    execWktRel a s = .next (((s.after a).ordered.modBay (s.val a).toNat fun y => { y with
      reqs := y.reqs ++ [{ tile := s.cur, word := s.val a, arg := 0#64, cycle := s.cycle, rel := true }] }).spent.retire
        { srcs := [a] } .next) := by
  unfold execWktRel
  rw [hx]
  refine issue_ok h ?_
  have own : (isReflex (s.after a).cur || decide ((s.val a).toNat = bayOf (s.after a).cur)) = true := by
    rw [Bool.or_eq_true, decide_eq_true_eq]
    exact hb
  rw [bind_ok (rd_run a s), bind_ok (get_run _), bind_ok (requireOperand_ok (by rw [hw, own]; rfl) _),
    bind_ok (releaseWait_ok hr _), bind_ok (update_run _ _), bind_ok (markNonReplayable_run _), pure_run]
  rfl
theorem wktStat_ready {s : State} {b a : Reg} (h : s.Ready { srcs := [b], dsts := [a] }) (hw : onlyBits (s.val b) [(4, 0)] = true) :
    execWktStat b a s =
      .next (((s.after b).give a (wktStatWord (s.bay (s.val b).toNat))).retire { srcs := [b], dsts := [a] } .next) := by
  refine issueValue_ok h ?_
  rw [bind_ok (rd_run b s), bind_ok (requireOperand_ok hw _), bind_ok (get_run _)]
  rfl

/-- Settles O33. -/
theorem timerAndWicketForms : Obligations.TimerAndWicketForms := by
  refine ⟨⟨fun s b a hx h hw h1 h2 hv ht => ?_, fun s b a hx h hw => (exec_tmrRd b a s).trans (tmrRd_ready hx h hw),
    fun s b a hx h hw hr => (exec_wktSeize b a s).trans (wktSeize_ready hx h hw hr),
    fun s a hx h hw hb hr => (exec_wktRel a s).trans (wktRel_ready hx h hw hb hr),
    fun s b a h hw => (exec_wktStat b a s).trans (wktStat_ready h hw)⟩,
    fun s b a hk => ⟨fun hx => ⟨(exec_tmrSet b a s).trans (issue_illegal hk (noTimers_eq hx) _),
      (exec_tmrRd b a s).trans (issueValue_illegal hk (noTimers_eq hx) _ _)⟩,
      fun hx => (exec_wktRel a s).trans (issue_illegal hk (by simpa using hx) _)⟩⟩
  have set := (exec_tmrSet b a s).trans (tmrSet_ready hx h hw h1 h2 hv ht)
  exact ⟨fun hb => by simpa only [hb, if_true] using set, fun hb => by simpa only [hb, Bool.false_eq_true, if_false] using set⟩

end Sys2Proof.Machine
end

section
/-! Control register forms (R403 to R407; log 28). -/

namespace Sys2Proof.Machine
open Sys2Proof

section
variable {s : State} {n : BitVec 10} {a d : Reg} (hl : csrListed n.toNat = true) (h : s.Ready { srcs := [a], dsts := [d] })
  (hs : s.share = 2 → ¬ (0x40 ≤ n.toNat ∧ n.toNat < 0x60 ∧ 4 ≤ n.toNat % 16))
  (hv : n.toNat = 0x10 ∨ n.toNat = 0x13 → (s.after a).half.vq = [] ∧ (s.after a).half.boundTrap = none)
include hl hs hv

/-- A form of a listed register gets as far as its write: the channel that it names is there (R91), and the vector part of the flags is
idle (R406). -/
theorem csrForm_of {w : Bool} {f : Word → Word → Word} {r : Host.Outcome State Fault Refusal}
    (hr : ∀ body : Exec Word, body s = (do
        if w then
          requireOperand ((s.after a).csrWritable n.toNat)
          requireOperand (!(decide (n.toNat = 7) && (f ((s.after a).csr n.toNat) (s.val a)).getLsbD 0))
          update fun u => u.csrWrite n.toNat (s.val a) (f ((s.after a).csr n.toNat) (s.val a))
        pure ((s.after a).csr n.toNat) : Exec Word) (s.after a) → issueValue { srcs := [a], dsts := [d] } d body s = r) :
    csrForm n a d w f s = r := by
  have channel : (!(decide (0x40 ≤ n.toNat) && decide (n.toNat < 0x60) && decide ((s.after a).share = 2) && decide (4 ≤ n.toNat % 16))) = true := by
    rw [share_after, Bool.not_eq_true', ← Bool.not_eq_true]
    simp only [Bool.and_eq_true, decide_eq_true_eq]
    exact fun ⟨⟨⟨h1, h2⟩, h3⟩, h4⟩ => hs h3 ⟨h1, h2, h4⟩
  unfold csrForm
  rw [hl]
  refine hr _ ?_
  rw [bind_ok (rd_run a s)]
  dsimp only
  rw [bind_ok (get_run _), bind_ok (requireOperand_ok channel _)]
  refine (when_ok (t := s.after a) (fun hn => vectorIdle_ok (hv hn).1 (hv hn).2) fun _ => rfl).trans ?_
  rw [bind_ok (get_run _)]

include h

theorem csrForm_writes {f : Word → Word → Word} (hw : (s.after a).csrWritable n.toNat = true)
    (h7 : n.toNat = 7 → (f ((s.after a).csr n.toNat) (s.val a)).getLsbD 0 = false) :
    csrForm n a d true f s = .next ((((s.after a).csrWrite n.toNat (s.val a) (f ((s.after a).csr n.toNat) (s.val a))).give d
      ((s.after a).csr n.toNat)).retire { srcs := [a], dsts := [d] } .next) := by
  have even : (!(decide (n.toNat = 7) && (f ((s.after a).csr n.toNat) (s.val a)).getLsbD 0)) = true := by
    by_cases h : n.toNat = 7
    · rw [h7 h, Bool.and_false]; rfl
    · rw [decide_eq_false h]; rfl
  refine csrForm_of hl hs hv fun body hb => issueValue_ok h ?_
  rw [hb, if_pos rfl, bind_ok (requireOperand_ok hw _), bind_ok (requireOperand_ok even _), bind_ok (update_run _ _)]
  beta_reduce
  rw [pure_run]
theorem csrForm_refused {f : Word → Word → Word} (hw : (s.after a).csrWritable n.toNat = false) :
    csrForm n a d true f s = .next (s.takeTrap s.half.pc { code := 0x21, faddr := s.wordAtPc 4 }) := by
  refine csrForm_of hl hs hv fun body hb => issueValue_illegalOperand h ?_
  rw [hb, if_pos rfl, bind_error (requireOperand_stop hw _)]
theorem csrForm_reads {f : Word → Word → Word} :
    csrForm n a d false f s = .next (((s.after a).give d ((s.after a).csr n.toNat)).retire { srcs := [a], dsts := [d] } .next) :=
  csrForm_of hl hs hv fun _ hb => issueValue_ok h hb

end

/-- Settles O35: csr.rs and csr.rc are writing forms unless their source is z. -/
theorem controlRegisterForms : Obligations.ControlRegisterForms := by
  refine ⟨fun s n a d hl h => ?_, fun s n a d hk hl => ?_⟩
  · intro s1 x old done bad hs hv
    have setForm (ha : a ≠ .z) : exec (.csrRs n a d) s = csrForm n a d true (fun o x => o ||| x) s := by
      rw [exec_csrRs, execCsrRs, decide_eq_true ha]
    have clearForm (ha : a ≠ .z) : exec (.csrRc n a d) s = csrForm n a d true (fun o x => o &&& ~~~ x) s := by
      rw [exec_csrRc, execCsrRc, decide_eq_true ha]
    refine ⟨fun hw => ⟨fun h7 => ⟨?_, fun ha => ⟨?_, ?_⟩⟩, fun h7 hx => ?_⟩, fun hw => ⟨?_, fun ha => ⟨?_, ?_⟩⟩, fun ha => ?_⟩
    · exact (exec_csrRw n a d s).trans (csrForm_writes hl h hs hv hw fun h => absurd h h7)
    · exact (setForm ha).trans (csrForm_writes hl h hs hv hw fun h => absurd h h7)
    · exact (clearForm ha).trans (csrForm_writes hl h hs hv hw fun h => absurd h h7)
    · exact (exec_csrRw n a d s).trans (csrForm_writes hl h hs hv hw fun _ => hx)
    · exact (exec_csrRw n a d s).trans (csrForm_refused hl h hs hv hw)
    · exact (setForm ha).trans (csrForm_refused hl h hs hv hw)
    · exact (clearForm ha).trans (csrForm_refused hl h hs hv hw)
    · subst ha
      exact ⟨(exec_csrRs n .z d s).trans (csrForm_reads hl h hs hv), (exec_csrRc n .z d s).trans (csrForm_reads hl h hs hv)⟩
  · exact (exec_csrRw n a d s).trans (issueValue_illegal hk (by rw [hl]; rfl) _ _)

end Sys2Proof.Machine
end

section
/-! Taking a trap, returning from one, and the software traps (R388 to R391, R409). -/

namespace Sys2Proof.Machine
open Sys2Proof

/-! ### What a trap leaves in its context (R388 to R391) -/

theorem slotAt_modShareAt (s : State) (t u : Nat) (i : Fin 3) (f : Share → Share) (c : Fin 8) : (s.modShareAt t i f).slotAt u c = s.slotAt u c := by
  have ctxs := tile_modTile_view Tile.ctxs s t u (fun x => x.modShare i f) fun _ => rfl
  simp only [State.modShareAt, State.slotAt, Tile.ctx, ctxs]
/-- A message that is injected leaves the contexts (R304). -/
theorem slotAt_inject (s : State) (t u : Nat) (i : Fin 3) (m : Msg) (c : Fin 8) : (s.inject t i m).slotAt u c = s.slotAt u c :=
  slotAt_modShareAt s t u i _ c
theorem slotAt_post (s : State) (e : ErrEvent) (u : Nat) (c : Fin 8) : (s.post e).slotAt u c = s.slotAt u c := by rw [post_eq]; rfl

section
variable (s : State) (xpc : Word) {t : Trap} (tl : Nat) (c : Fin 8)

theorem takeTrapAt_parks (h : t.code < 0x10) : ((s.takeTrapAt tl c xpc t).slotAt tl c).phase = .parked t.code
    ∧ ((s.takeTrapAt tl c xpc t).slotAt tl c).half = (s.slotAt tl c).half.record xpc t := by
  rw [State.takeTrapAt, if_pos h]
  dsimp only
  split
  · rw [slotAt_setSlotAt]
    exact ⟨rfl, rfl⟩
  · rw [State.sendMiss, slotAt_inject, slotAt_setSlotAt]
    exact ⟨rfl, rfl⟩
theorem takeTrapAt_catches (h1 : ¬ t.code < 0x10) (h2 : t.code < 0x20) (h : (s.slotAt tl c).half.catches = true) :
    (s.takeTrapAt tl c xpc t).slotAt tl c =
      { s.slotAt tl c with waiting := false, waitOn := .other, half := (s.slotAt tl c).half.enterTrap xpc t } := by
  rw [State.takeTrapAt, if_neg h1, if_pos h2, if_pos h, slotAt_setSlotAt]
theorem takeTrapAt_aborts (h1 : ¬ t.code < 0x10) (h2 : t.code < 0x30) (h : t.code < 0x20 → (s.slotAt tl c).half.catches = false) :
    (s.takeTrapAt tl c xpc t).slotAt tl c = (s.slotAt tl c).beginAbort xpc t := by
  rw [State.takeTrapAt, if_neg h1]
  by_cases h3 : t.code < 0x20
  · rw [if_pos h3, if_neg (by rw [h h3]; exact Bool.false_ne_true), slotAt_setSlotAt]
  · rw [if_neg h3, if_pos h2, slotAt_setSlotAt]
theorem takeTrapAt_freezes (h : ¬ t.code < 0x30) : (s.takeTrapAt tl c xpc t).slotAt tl c =
    { s.slotAt tl c with phase := .frozen, waiting := false, half := (s.slotAt tl c).half.record xpc t } := by
  rw [State.takeTrapAt, if_neg (by omega), if_neg (by omega), if_neg h, slotAt_post, slotAt_setSlotAt]

end

section
variable (s : State) (xpc : Word) {t : Trap}

/-- The trap of the running context is seen in its slot. -/
theorem slot_takeTrap : (s.takeTrap xpc t).slot = (s.takeTrapAt s.cur s.ctx xpc t).slotAt s.cur s.ctx := by
  unfold State.takeTrap State.takeTrapAt
  dsimp only
  split
  · split <;> rfl
  split
  · split <;> rfl
  split
  · rfl
  · rw [post_eq]
    rfl
theorem takeTrap_parks (h : t.code < 0x10) : (s.takeTrap xpc t).slot.phase = .parked t.code
    ∧ (s.takeTrap xpc t).slot.half = s.half.record xpc t := by
  rw [slot_takeTrap]
  exact takeTrapAt_parks s xpc s.cur s.ctx h
theorem takeTrap_catches (h1 : ¬ t.code < 0x10) (h2 : t.code < 0x20) (h : s.half.catches = true) :
    (s.takeTrap xpc t).slot = { s.slot with waiting := false, waitOn := .other, half := s.half.enterTrap xpc t } :=
  (slot_takeTrap s xpc).trans (takeTrapAt_catches s xpc s.cur s.ctx h1 h2 h)
theorem takeTrap_aborts (h1 : ¬ t.code < 0x10) (h2 : t.code < 0x30) (h : t.code < 0x20 → s.half.catches = false) :
    (s.takeTrap xpc t).slot = s.slot.beginAbort xpc t :=
  (slot_takeTrap s xpc).trans (takeTrapAt_aborts s xpc s.cur s.ctx h1 h2 h)
theorem takeTrap_freezes (h : ¬ t.code < 0x30) :
    (s.takeTrap xpc t).slot = { s.slot with phase := .frozen, waiting := false, half := s.half.record xpc t } :=
  (slot_takeTrap s xpc).trans (takeTrapAt_freezes s xpc s.cur s.ctx h)
/-- A trap of every class is recorded (R389). -/
theorem takeTrap_records : let u := (s.takeTrap xpc t).slot.half
    u.cause = causeWord t ∧ u.xpc = t.xpc.getD xpc ∧ u.faddr = t.faddr := by
  dsimp only
  by_cases h1 : t.code < 0x10
  · rw [(takeTrap_parks s xpc h1).2]
    exact ⟨rfl, rfl, rfl⟩
  by_cases h2 : t.code < 0x20 ∧ s.half.catches = true
  · rw [takeTrap_catches s xpc h1 h2.1 h2.2]
    exact ⟨rfl, rfl, rfl⟩
  by_cases h3 : t.code < 0x30
  · rw [takeTrap_aborts s xpc h1 h3 fun h => by rw [← Bool.not_eq_true]; exact fun hc => h2 ⟨h, hc⟩]
    exact ⟨rfl, rfl, rfl⟩
  · rw [takeTrap_freezes s xpc h3]
    exact ⟨rfl, rfl, rfl⟩

end

/-! ### The status bits of an entry and of a return (R391, R409) -/

theorem getLsbD_setPP (h : Half) (b : Bool) (i : Nat) : (h.setPP b).status.getLsbD i = if i = 0 then b else h.status.getLsbD i := by
  have pp : statusPP = BitVec.twoPow 64 0 := rfl
  by_cases hi : i < 64
  · unfold Half.setPP
    cases b <;> by_cases h0 : i = 0 <;> simp [pp, h0, hi]
  · rw [BitVec.getLsbD_of_ge _ _ (by omega), if_neg (by omega), BitVec.getLsbD_of_ge _ _ (by omega)]
theorem getLsbD_setTM (h : Half) (b : Bool) (i : Nat) : (h.setTM b).status.getLsbD i = if i = 1 then b else h.status.getLsbD i := by
  have tm : statusTM = BitVec.twoPow 64 1 := rfl
  by_cases hi : i < 64
  · unfold Half.setTM
    cases b <;> by_cases h0 : i = 1 <;> simp [tm, h0, hi]
  · rw [BitVec.getLsbD_of_ge _ _ (by omega), if_neg (by omega), BitVec.getLsbD_of_ge _ _ (by omega)]

/-- What an entry packs in tsave (R391). -/
theorem tsave_fields {beg len pp pfx : Nat} (h1 : beg < 2 ^ 32) (h2 : len < 2 ^ 12) (h3 : pp < 2) (h4 : pfx < 2 ^ 16) :
    let ts := (BitVec.ofNat 64 (beg * 2 ^ 32 + len * 2 ^ 17 + pp * 2 ^ 16 + pfx)).toNat
    bits ts 63 32 = beg ∧ bits ts 28 17 = len ∧ bits ts 16 16 = pp ∧ bits ts 15 0 = pfx := by
  dsimp only
  rw [BitVec.toNat_ofNat, Nat.mod_eq_of_lt (by omega)]
  simp only [bits]
  refine ⟨?_, ?_, ?_, ?_⟩ <;> omega

/-- A return restores what the entry saved: the loop, the pending `pfx` and status.tm (R391, R409). -/
theorem leaveTrap_enterTrap (h : Half) (xpc : Word) (t : Trap) (htm : h.status.getLsbD 1 = false) (hb : h.lpbeg.toNat < 2 ^ 32)
    (he : ∃ k : Nat, k < 2 ^ 12 ∧ h.lpend = h.lpbeg + BitVec.ofNat 64 (2 * k)) :
    let r := (h.enterTrap xpc t).leaveTrap
    r.lpbeg = h.lpbeg ∧ r.lpend = h.lpend ∧ r.lpcnt = h.lpcnt ∧ r.pfxsave = h.pfxsave ∧ r.status = h.status := by
  obtain ⟨k, hk, he⟩ := he
  have len : bits ((h.lpend - h.lpbeg).toNat / 2) 11 0 = k := by
    rw [he, BitVec.add_comm, BitVec.add_sub_cancel, BitVec.toNat_ofNat, bits]
    omega
  have pp2 : (if h.pp then 2 ^ 16 else 0) = (if h.pp then 1 else 0) * 2 ^ 16 := by split <;> rfl
  obtain ⟨f1, f2, f3, f4⟩ := tsave_fields hb hk (pp := if h.pp then 1 else 0) (by split <;> decide) h.pfxsave.isLt
  have saved : (h.enterTrap xpc t).tsave =
      BitVec.ofNat 64 (h.lpbeg.toNat * 2 ^ 32 + k * 2 ^ 17 + (if h.pp then 1 else 0) * 2 ^ 16 + h.pfxsave.toNat) := by
    rw [Half.enterTrap, len, pp2, Nat.mod_eq_of_lt hb]
  have beg : BitVec.ofNat 64 h.lpbeg.toNat = h.lpbeg := BitVec.ofNat_toNat ..
  dsimp only
  unfold Half.leaveTrap
  rw [saved]
  dsimp only
  rw [f1, f2, f3, f4, beg]
  refine ⟨rfl, he.symm, rfl, BitVec.ofNat_toNat .., BitVec.eq_of_getLsbD_eq fun i hi => ?_⟩
  have entry : (h.enterTrap xpc t).status.getLsbD i = if i = 1 then true else if i = 0 then false else h.status.getLsbD i := by
    change ((h.setPP false).setTM true).status.getLsbD i = _
    rw [getLsbD_setTM, getLsbD_setPP]
  rw [getLsbD_setTM, getLsbD_setPP, entry]
  by_cases h1 : i = 1
  · rw [if_pos h1, h1, htm]
  by_cases h0 : i = 0
  · rw [if_neg h1, if_pos h0, h0, ← Half.pp]
    cases h.pp <;> rfl
  · rw [if_neg h1, if_neg h0, if_neg h1, if_neg h0]

/-! ### The forms (R409) -/

theorem tret_ends {s : State} (h : s.Ready {}) :
    (s.half.status.getLsbD 1 = true → s.half.xpc.getLsbD 0 = false →
      execTret s = .next ((s.modHalf fun h => { h.leaveTrap with pc := h.xpc, lastPc := h.pc }).retire {} .stay))
    ∧ (s.half.status.getLsbD 1 = true → s.half.xpc.getLsbD 0 = true →
      execTret s = .next (s.takeTrap s.half.pc { code := 0x21, faddr := s.wordAtPc 4 }))
    ∧ (s.half.status.getLsbD 1 = false → execTret s = .next (s.takeTrap s.half.pc { code := 0x20, faddr := s.wordAtPc 4 })) := by
  refine ⟨fun htm hx => issue_ok h ?_, fun htm hx => issue_illegalOperand h ?_, fun htm => (issue_error h ?_ (x := .trap { code := 0x20 })).trans rfl⟩
  · rw [bind_ok (get_run s), bind_ok (check_ok (b := s.half.tm) htm _ _ _ s), bind_ok (requireOperand_ok (by rw [hx]; rfl) s), bind_ok (update_run _ s), pure_run]
  · rw [bind_ok (get_run s), bind_ok (check_ok (b := s.half.tm) htm _ _ _ s), bind_error (requireOperand_stop (by rw [hx]; rfl) s)]
  · rw [bind_ok (get_run s)]
    exact bind_error (check_stop (b := s.half.tm) htm _ _ _ s)
theorem softwareTrap_ready {s : State} {a : Reg} {code : Nat} (h : s.Ready { srcs := [a] })
    (hc : (decide (code = 0x20) || decide (code = 0x21) || decide (code = 0x23)) = false) :
    softwareTrap code a s = .next (s.takeTrap s.half.pc { code := code, faddr := s.val a }) := by
  refine issue_traps h ?_ hc
  rw [bind_ok (rd_run a s)]
  rfl

/-- Settles O36. -/
theorem trapEntryAndReturn : Obligations.TrapEntryAndReturn := by
  refine ⟨fun s xpc t hx => ?_, ⟨fun s h => ?_, leaveTrap_enterTrap⟩, fun s a h => ⟨?_, ?_⟩⟩
  · obtain ⟨cause, pc, faddr⟩ := takeTrap_records s xpc (t := t)
    refine ⟨cause, pc.trans (by rw [hx]; rfl), faddr, fun h1 => ?_, fun h1 h2 hv htm => ?_, fun h1 h2 hc => ?_, fun h1 h2 => ?_, fun h1 => ?_⟩
    · obtain ⟨phase, half⟩ := takeTrap_parks s xpc h1
      exact ⟨phase, by rw [half]; rfl⟩
    · have catches : s.half.catches = true := by rw [Half.catches, hv, Half.tm, htm]; rfl
      rw [takeTrap_catches s xpc (by omega) h2 catches]
      refine ⟨rfl, ?_, ?_, rfl, rfl, rfl⟩
      · exact (getLsbD_setTM _ true 0).trans (getLsbD_setPP s.half false 0)
      · exact getLsbD_setTM _ true 1
    · rw [takeTrap_aborts s xpc (by omega) (by omega) fun _ => ?_]
      · rfl
      · rw [Half.catches, Half.tm]
        obtain hc | hc := hc
        · rw [hc, Bool.false_and]
        · rw [hc, Bool.not_true, Bool.and_false]
    · rw [takeTrap_aborts s xpc (by omega) h2 fun h => absurd h (by omega)]
      rfl
    · rw [takeTrap_freezes s xpc (by omega)]
  · rw [exec_tret]
    exact tret_ends h
  · exact (exec_trapAb a s).trans (softwareTrap_ready h rfl)
  · exact (exec_trapDead a s).trans (softwareTrap_ready h rfl)

end Sys2Proof.Machine
end

section
/-! What the logging of lines and a store in the own window leave (R110, R115, R117). -/

namespace Sys2Proof.Machine
open Sys2Proof

/-! ### A store in a window -/

/-- A store in a window changes the bytes, what is known of their soundness, and what the spare is to be sent; no tile or core. -/
theorem writeWin_eq (s : State) (t : Nat) (i : Fin 3) (ea : Nat) (bs : List Byte) :
    s.writeWin t i ea bs = { s with
      mem := (s.writeWin t i ea bs).mem, flips := (s.writeWin t i ea bs).flips, dirty := (s.writeWin t i ea bs).dirty,
      poison := (s.writeWin t i ea bs).poison, sys := (s.writeWin t i ea bs).sys, fns := (s.writeWin t i ea bs).fns,
      marks := (s.writeWin t i ea bs).marks, forwards := (s.writeWin t i ea bs).forwards } := by
  unfold State.writeWin State.mark
  dsimp only
  rw [sense_eq]
  split <;> rfl

section
variable (s : State) (ea : Nat) (bs : List Byte)
@[simp] theorem tiles_storeAt : (s.storeAt ea bs).tiles = s.tiles := by rw [State.storeAt, writeWin_eq]
@[simp] theorem cur_storeAt : (s.storeAt ea bs).cur = s.cur := by rw [State.storeAt, writeWin_eq]
@[simp] theorem ctx_storeAt : (s.storeAt ea bs).ctx = s.ctx := by rw [State.storeAt, writeWin_eq]
@[simp] theorem tile_storeAt (t : Nat) : (s.storeAt ea bs).tile t = s.tile t := by rw [State.tile, tiles_storeAt]; rfl
@[simp] theorem slot_storeAt : (s.storeAt ea bs).slot = s.slot := by simp [State.slot, State.slotAt]
@[simp] theorem half_storeAt : (s.storeAt ea bs).half = s.half := by simp [State.half]
@[simp] theorem act_storeAt : (s.storeAt ea bs).act = s.act := by simp [State.act]
end

/-! ### The lines of a write logged -/

/-- The logging of lines leaves the state, or reads the lines and adds them to the undo log of the activation (R115, R117). -/
theorem logs_cases {s u : State} {ea n : Nat} (h : s.logs ea n u) :
    u = s ∨ ∃ ks undo, u = (s.sense ks).setSlot { s.slot with act := { s.slot.act with undo := undo } } := by
  unfold State.logs State.logLines at h
  dsimp only at h
  split at h
  · cases h
    exact .inl rfl
  split at h
  · cases h
  have slot (ks : List Nat) : (s.sense ks).slotAt s.cur s.ctx = s.slot := by rw [sense_eq]; rfl
  have place (ks : List Nat) (x : Slot) : (s.sense ks).setSlotAt s.cur s.ctx x = (s.sense ks).setSlot x := by rw [sense_eq]; rfl
  injection h with h
  rw [State.modSlotAt, State.undoLines, slot, place] at h
  exact .inr ⟨_, _, h.symm⟩

section
variable {s u : State} {ea n : Nat} (h : s.logs ea n u)
include h
theorem cur_logs : u.cur = s.cur := by
  obtain rfl | ⟨ks, undo, rfl⟩ := logs_cases h
  · rfl
  · rw [sense_eq]; rfl
theorem ctx_logs : u.ctx = s.ctx := by
  obtain rfl | ⟨ks, undo, rfl⟩ := logs_cases h
  · rfl
  · rw [sense_eq]; rfl
theorem slot_logs : ∃ undo, u.slot = { s.slot with act := { s.slot.act with undo := undo } } := by
  obtain rfl | ⟨ks, undo, rfl⟩ := logs_cases h
  · exact ⟨_, rfl⟩
  · exact ⟨undo, slot_setSlot _ _⟩
theorem half_logs : u.half = s.half := by
  obtain ⟨undo, e⟩ := slot_logs h
  rw [State.half, e]; rfl
theorem tenant_logs : u.act.tenant = s.act.tenant := by
  obtain ⟨undo, e⟩ := slot_logs h
  rw [State.act, e]; rfl
theorem mem_logs : u.mem = s.mem := logLines_mem h
end

end Sys2Proof.Machine
end

section
/-! The privileged forms: what completes on its core, and what is a protection violation elsewhere (R66, R342, R409, R432). -/

namespace Sys2Proof.Machine
open Sys2Proof

/-- The effect of a form of the system core, as its state and value on its operand words (R432). -/
theorem runSys_some {f : SysOp} {s t : State} {x y v : Word} (h : f s x y = some (t, v)) : runSys f x y s = .ok (v, t) := by
  unfold runSys; rw [h]
theorem runSys_none {f : SysOp} {s : State} {x y : Word} (h : f s x y = none) : runSys f x y s = .error (.trap { code := 0x21 }) := by
  unfold runSys; rw [h]

/-- A form whose body reads a and b and runs f on the system core. -/
theorem systemYields_of {i : Reg → Reg → Reg → Instr} {f : SysOp} (hi : ∀ b a d s, exec (i b a d) s = systemForm b a d (runSys f) s) :
    SystemYields i f := by
  intro s b a d h r
  rw [hi]
  have run : (do let x ← rd a; let y ← rd b; privileged isSystem; runSys f x y : Exec Word) s
      = (do privileged isSystem; runSys f (s.val a) ((s.after a).val b) : Exec Word) ((s.after a).after b) := by
    rw [bind_ok (rd_run a s), bind_ok (rd_run b _)]
  have core (hc : s.cur = 3072) : isSystem ((s.after a).after b).cur = true := decide_eq_true hc
  refine ⟨fun hc t v hr => issueValue_ok h (run.trans ?_), fun hc hr => issueValue_illegalOperand h (run.trans ?_),
    fun hc => issueValue_traps h (run.trans ?_) rfl⟩
  · rw [bind_ok (privileged_ok (core hc)), runSys_some hr]
  · rw [bind_ok (privileged_ok (core hc)), runSys_none hr]
  · rw [bind_error (privileged_stop (decide_eq_false hc))]

/-- The effect of a translation form on its operand words (R66). -/
def coreEffect (f : State → Word → Word → State × Nat) (x y : Word) : Exec Word := do
  privileged isCore
  let s ← get
  let r := f s x y
  update fun _ => r.1
  pure (BitVec.ofNat 64 r.2)
/-- A form whose body comes to that effect. -/
theorem coreEffect_ends {o : Op} {d : Reg} {s u : State} {f : State → Word → Word → State × Nat} {x y : Word} {body : Exec Word}
    (h : s.Ready o) (hu : u.cur = s.cur) (hb : body s = coreEffect f x y u) :
    (isCore s.cur = true → issueValue o d body s = .next (((f u x y).1.give d (BitVec.ofNat 64 (f u x y).2)).retire o .next))
    ∧ (isCore s.cur = false → issueValue o d body s = .next (s.takeTrap s.half.pc { code := 0x30 })) := by
  refine ⟨fun hc => issueValue_ok h ?_, fun hc => issueValue_traps h ?_ rfl⟩
  · rw [hb, coreEffect, bind_ok (privileged_ok (by rw [hu, hc])), bind_ok (get_run u)]
    rfl
  · rw [hb, coreEffect, bind_error (privileged_stop (by rw [hu, hc]))]
theorem coreYields_of {i : Reg → Reg → Reg → Instr} {f : State → Word → Word → State × Nat}
    (hi : ∀ b a d s, exec (i b a d) s = translationForm (opAB b a d) a d (some b) f s) : CoreYields i f := by
  intro s b a d h r
  rw [hi]
  exact coreEffect_ends h rfl ((bind_ok (rd_run a s)).trans (bind_ok (rd_run b _)))
/-- A translation form of one operand. -/
theorem translationForm_one {s : State} {a d : Reg} (h : s.Ready (opA a d)) (f : State → Word → State × Nat) :
    let r := f (s.after a) (s.val a)
    (isCore s.cur = true →
      translationForm (opA a d) a d none (fun s x _ => f s x) s = .next ((r.1.give d (BitVec.ofNat 64 r.2)).retire (opA a d) .next))
    ∧ (isCore s.cur = false → translationForm (opA a d) a d none (fun s x _ => f s x) s = .next (s.takeTrap s.half.pc { code := 0x30 })) :=
  coreEffect_ends (f := fun s x _ => f s x) (y := 0#64) h rfl (bind_ok (rd_run a s))

end Sys2Proof.Machine
end

section
/-! Error queues, bound registers, wear, the release of frozen contexts, and the wake (R345 to R347, R395 to R404, R409). -/

namespace Sys2Proof.Machine
open Sys2Proof

/-! ### Error queues (R401) -/

section
variable {s : State} {b d : Reg} (h : s.Ready { srcs := [b], dsts := [d] }) (ha : (s.val b).toNat % 32 = 0)
  (hw : (s.after b).inWindow s.cur (s.val b).toNat 32 .store)
include h ha hw

theorem eqPop_empty (he : ((s.after b).fn (s.after b).act.tenant).eq = []) :
    execEqPop b d s = .next (((s.after b).spent.give d (BitVec.allOnes 64)).retire { srcs := [b], dsts := [d] } .next) := by
  refine issueValue_ok h ?_
  rw [bind_ok (rd_run b s), bind_ok (requireOperand_ok (decide_eq_true ha) _), bind_ok (get_run _)]
  refine (bind_ok (checkWin_ok hw 0)).trans ?_
  rw [he]
  rfl
theorem eqPop_pops {u : State} {e : ErrEvent} {rest : List ErrEvent} (he : ((s.after b).fn (s.after b).act.tenant).eq = e :: rest)
    (hc : (s.after b).ownClear (s.val b).toNat 32 = true) (hl : (s.after b).logs (s.val b).toNat 32 u) :
    execEqPop b d s = .next (((((u.storeAt (s.val b).toNat (leBytes 32 e.bits)).modFn (s.after b).act.tenant fun f => { f with eq := rest }).spent).give d
      (BitVec.ofNat 64 rest.length)).retire { srcs := [b], dsts := [d] } .next) := by
  have stored := storeOwn_ok (s := s.after b) (u := u) (bs := leBytes 32 e.bits) (ea := (s.val b).toNat)
    (by rwa [leBytes_length]) (by rwa [leBytes_length])
  refine issueValue_ok h ?_
  rw [bind_ok (rd_run b s), bind_ok (requireOperand_ok (decide_eq_true ha) _), bind_ok (get_run _)]
  refine (bind_ok (checkWin_ok hw 0)).trans ?_
  rw [he]
  dsimp only
  refine (bind_ok stored).trans ?_
  rw [bind_ok (update_run _ _), act_storeAt, tenant_logs hl]
  rfl

end

/-! ### Bound registers (R395, R397) -/

theorem ownsBound_after (s : State) (r : Reg) (i : Nat) : (s.after r).ownsBound i = s.ownsBound i := by simp [State.ownsBound]

theorem bndWr_ready {s : State} {b a : Reg} (h : s.Ready { srcs := [a, b] }) (hw : onlyBits (s.val a) [(5, 0), (9, 8), (12, 12)] = true)
    (ho : ((s.after a).after b).ownsBound (wfield (s.val a) 5 0) = true) :
    let x := s.val a
    let y := (s.after a).val b
    execBndWr b a s = .next ((((s.after a).after b).modTile s.cur fun t => (t.modBound (wfield x 5 0) fun _ => {
      count := 0, int := x.getLsbD 12, act := BitVec.ofNat 2 (wfield x 9 8), hi := BitVec.ofNat 32 (wfield y 63 32),
      lo := BitVec.ofNat 32 (wfield y 31 0) }).clearBound (wfield x 5 0)).retire { srcs := [a, b] } .next) := by
  intro x y
  refine issue_ok h ?_
  rw [bind_ok (rd_run a s), bind_ok (rd_run b _), bind_ok (get_run _)]
  dsimp only
  rw [bind_ok (requireOperand_ok (by rw [hw, ho]; rfl) _), bind_ok (update_run _ _), pure_run]
  rfl
theorem bndRd_ready {s : State} {a d : Reg} (h : s.Ready (opA a d)) (hw : onlyBits (s.val a) [(5, 0), (9, 8)] = true)
    (hk : wfield (s.val a) 9 8 < 3) (ho : (s.after a).ownsBound (wfield (s.val a) 5 0) = true) :
    let i := wfield (s.val a) 5 0
    let r := ((s.after a).tile s.cur).bnd.get (Fin.ofNat 64 i)
    let k := wfield (s.val a) 9 8
    execBndRd a d s = .next (((s.after a).give d (BitVec.ofNat 64 (if k = 0 then r.hi.toNat * 2 ^ 32 + r.lo.toNat
      else if k = 1 then r.act.toNat * 2 ^ 8 + (if r.int then 2 ^ 12 else 0) + i else r.count))).retire (opA a d) .next) := by
  intro i r k
  refine issueValue_ok h ?_
  rw [bind_ok (rd_run a s), bind_ok (get_run _)]
  dsimp only
  rw [bind_ok (requireOperand_ok (by rw [hw, decide_eq_true hk, ho]; rfl) _), pure_run]
  refine congrArg (fun n => Except.ok (BitVec.ofNat 64 n, s.after a)) ?_
  split
  · next h0 => rw [show k = 0 from h0]; rfl
  · next h1 => rw [show k = 1 from h1]; rfl
  · next h0 h1 => rw [if_neg h0, if_neg h1]; rfl
theorem bndClr_ready {s : State} {a : Reg} (h : s.Ready { srcs := [a] }) (hw : onlyBits (s.val a) [(5, 0), (8, 8)] = true)
    (ho : (s.after a).ownsBound (wfield (s.val a) 5 0) = true) :
    execBndClr a s = .next (((s.after a).modTile s.cur fun t => (if (s.val a).getLsbD 8 then (List.range 64).filter (s.after a).ownsBound
      else [wfield (s.val a) 5 0]).foldl Tile.clearBound t).retire { srcs := [a] } .next) := by
  refine issue_ok h ?_
  rw [bind_ok (rd_run a s), bind_ok (get_run _), bind_ok (requireOperand_ok (by rw [hw, ho]; rfl) _)]
  rfl

/-! ### Wear (R345 to R347) -/

theorem wearRd_ready {s : State} {b d : Reg} (h : s.Ready { srcs := [b], dsts := [d] }) (hk : (s.val b).toNat ≤ 3) :
    let s1 := s.after b
    let k := (s.val b).toNat
    let r := s1.life (s1.physTile s.cur)
    execWearRd b d s = .next ((s1.give d (BitVec.ofNat 64 (if k = 0 then (s1.fn s1.act.tenant).wearacct
      else if k = 1 then lifeState r else if k = 2 then lifeStress r else ((s1.tile s.cur).ctx s.ctx).wear))).retire
        { srcs := [b], dsts := [d] } .next) := by
  intro s1 k r
  refine issueValue_ok h ?_
  rw [bind_ok (rd_run b s), bind_ok (requireOperand_ok (decide_eq_true hk) _), bind_ok (get_run _), pure_run]
  refine congrArg (fun n => Except.ok (BitVec.ofNat 64 n, s.after b)) ?_
  split
  · next h0 => rw [show k = 0 from h0]; rfl
  · next h1 => rw [show k = 1 from h1]; rfl
  · next h2 => rw [show k = 2 from h2]; rfl
  · next h0 h1 h2 => rw [if_neg h0, if_neg h1, if_neg h2]; rfl

theorem sysWearSet_eq : sysWearSet = runSys fun s a b => some ((s.wearSet a b).1, BitVec.ofNat 64 (s.wearSet a b).2) := rfl
theorem sysFrzRel_eq : sysFrzRel = runSys fun s a b => if masterWordOk a && onlyBits b [(0, 0)] then
    some ((s.frzRel a (b.getLsbD 0)).1, BitVec.ofNat 64 (s.frzRel a (b.getLsbD 0)).2) else none := by
  funext a b s
  by_cases h : (masterWordOk a && onlyBits b [(0, 0)]) = true
  · exact (bind_ok (requireOperand_ok h s)).trans (runSys_some (by rw [if_pos h])).symm
  · exact (bind_error (requireOperand_stop (Bool.not_eq_true _ ▸ h) s)).trans (runSys_none (by rw [if_neg h])).symm

/-- Settles O37. -/
theorem defenceForms : Obligations.DefenceForms := by
  refine ⟨fun s b d h ha hw hc => ⟨fun he => (exec_eqPop b d s).trans (eqPop_empty h ha hw he),
      fun e rest u he hl => (exec_eqPop b d s).trans (eqPop_pops h ha hw he hc hl)⟩,
    fun s b a h hw ho => (exec_bndWr b a s).trans (bndWr_ready h hw ho),
    fun s a d h hw hk ho => (exec_bndRd a d s).trans (bndRd_ready h hw hk ho), fun s a h hw ho => ⟨fun hx => ?_, fun hx => ?_⟩,
    fun s b d h hk => (exec_wearRd b d s).trans (wearRd_ready h hk),
    systemYields_of fun b a d s => exec_wearSet b a d s,
    systemYields_of fun b a d s => (exec_frzRel b a d s).trans (by rw [execFrzRel, sysFrzRel_eq]), fun s hs hm => ?_⟩
  · rw [exec_bndClr, bndClr_ready h hw ho, hx]
    rfl
  · rw [exec_bndClr, bndClr_ready h hw ho, hx]
    rfl
  · have wake : s.sys.requestWake 1#64 = { s.sys with waking := true } := if_pos (by rw [hs]; rfl)
    refine (exec_wakeReq s).trans (event_some ?_)
    rw [hs, hm, State.modSys, wake]
    rfl

end Sys2Proof.Machine
end

section
/-! Leave (R338 to R343). -/

namespace Sys2Proof.Machine
open Sys2Proof

theorem bay_modBay (s : State) (b : Nat) (f : Bay → Bay) : (s.modBay b f).bay b = f (s.bay b) := by
  simp [State.modBay, State.bay, State.setBay, NMap.get?_set_same]

/-! ### lv.hold (R341, R343) -/

section
variable {s : State} {a : Reg} (h : s.Ready { srcs := [a] })
include h

/-- A granted request is executed again and taken. -/
theorem lvHold_granted (hr : (s.after a).act.lvReq = 2) :
    execLvHold a s = .next (((s.after a).modAct fun x => { x with lvReq := 3 }).retire { srcs := [a] } .next) := by
  refine issue_ok h ?_
  rw [bind_ok (rd_run a s), bind_ok (get_run _), if_pos hr, bind_ok (update_run _ _), pure_run]
theorem lvHold_waits (hr : (s.after a).act.lvReq = 1) :
    execLvHold a s = .next (s.setSlot { s.slot with waiting := true, waitOn := .hold }) := by
  refine (issue_error h ?_).trans (stopped_wait s 4 .hold)
  rw [bind_ok (rd_run a s), bind_ok (get_run _), if_neg (by rw [hr]; decide), if_pos hr]
  rfl

section
variable (h1 : (s.after a).act.lvReq ≠ 1) (h2 : (s.after a).act.lvReq ≠ 2) (hn : s.val a ≠ 0#64)
  (hl : (s.val a).toNat ≤ (s.after a).holdLimit) (h0 : (s.after a).act.hold = 0)
include h1 h2 hn hl h0

/-- The request of lv.hold. -/
def State.holdRequest (s : State) (n : Nat) : LvReq :=
  { cost := n, prio := s.act.prio, cycle := s.cycle, tileIdx := bayIdx s.cur, kind := 0, tile := s.cur, act := s.act.id, key := s.act.id }

theorem lvHold_reserve (hu : usesReserve s.cur (s.after a).share = true) :
    execLvHold a s = .next ((((s.after a).modBay (bayOf s.cur) fun y => { y with resUsed := y.resUsed + (s.val a).toNat }).modAct fun x =>
      { x with hold := (s.val a).toNat, lent := 0, lvReq := 3 }).retire { srcs := [a] } .next) := by
  refine issue_ok h ?_
  rw [bind_ok (rd_run a s), bind_ok (get_run _), if_neg h2, if_neg h1,
    bind_ok (requireOperand_ok (by rw [decide_eq_true hn, decide_eq_true hl, decide_eq_true h0]; rfl) _)]
  rw [cur_after, if_pos hu, bind_ok (update_run _ _), pure_run, State.leaveRequest, cur_after, if_pos hu]
  rfl
theorem lvHold_queues (hu : usesReserve s.cur s.share = false) :
    let s3 := (s.modBay (bayOf s.cur) fun y => { y with lvq := y.lvq ++ [(s.after a).holdRequest (s.val a).toNat] }).modAct fun x =>
      { x with lvReq := 1 }
    execLvHold a s = .next (s3.setSlot { s3.slot with waiting := true, waitOn := .hold }) := by
  intro s3
  have elsewhere : ¬ usesReserve s.cur (s.after a).share = true := by rw [share_after, hu]; exact Bool.false_ne_true
  have elsewhere' : ¬ usesReserve s.cur s.share = true := by rw [hu]; exact Bool.false_ne_true
  have request : s3 = (s.leaveRequest s.cur s.share ((s.after a).holdRequest (s.val a).toNat)).1.modAct fun x => { x with lvReq := 1 } := by
    rw [State.leaveRequest, if_neg elsewhere']
  refine (issue_error h ?_).trans ((stopped_waitIn s 4 .hold (fun u =>
    (u.leaveRequest u.cur u.share ((s.after a).holdRequest (s.val a).toNat)).1.modAct fun x => { x with lvReq := 1 })).trans
      (by rw [request]))
  rw [bind_ok (rd_run a s), bind_ok (get_run _), if_neg h2, if_neg h1,
    bind_ok (requireOperand_ok (by rw [decide_eq_true hn, decide_eq_true hl, decide_eq_true h0]; rfl) _)]
  rw [cur_after, if_neg elsewhere]
  rfl

end

end

/-! ### lv.drop, lv.stat and lv.share (R342, R343) -/

theorem lvDrop_ready {s : State} (h : s.Ready {}) :
    execLvDrop s = .next ((if s.act.hold = 0 then s else s.dropHold s.cur s.share s.act).retire {} .next) := issue_ok h rfl

theorem lvStat_ready {s : State} {b d : Reg} (h : s.Ready { srcs := [b], dsts := [d] }) (hk : (s.val b).toNat ≤ 3) :
    let s1 := s.after b
    let k := (s.val b).toNat
    let y := s.bay (bayOf s.cur)
    let res := usesReserve s.cur s1.share
    execLvStat b d s = .next ((s1.give d (BitVec.ofNat 64 (if k = 0 then if res then 176 - y.resUsed else y.pool - y.used
      else if k = 1 then if res then 176 else y.pool else if k = 2 then if res then 0 else y.lvq.length else s1.act.hold - s1.act.lent))).retire
        { srcs := [b], dsts := [d] } .next) := by
  intro s1 k y res
  refine issueValue_ok h ?_
  rw [bind_ok (rd_run b s), bind_ok (requireOperand_ok (decide_eq_true hk) _), bind_ok (get_run _)]
  refine congrArg (fun n => Except.ok (BitVec.ofNat 64 n, s.after b)) ?_
  split
  · next h0 => rw [show k = 0 from h0]; rfl
  · next h1 => rw [show k = 1 from h1]; rfl
  · next h2 => rw [show k = 2 from h2]; rfl
  · next h0 h1 h2 => rw [if_neg h0, if_neg h1, if_neg h2]; rfl

theorem execLvShare_eq (b a d : Reg) : execLvShare b a d = systemForm b a d (runSys fun s a b =>
    if a.toNat < 34 ∧ 10 ≤ b.toNat ∧ b.toNat ≤ 4095 then some (s.modBay a.toNat fun y => { y with pool := b.toNat }, 0#64) else some (s, 1#64)) := by
  refine congrArg (systemForm b a d) ?_
  funext x y s
  unfold lvShareStatus
  by_cases h : x.toNat < 34 ∧ 10 ≤ y.toNat ∧ y.toNat ≤ 4095
  · refine Eq.trans ?_ (runSys_some (by rw [if_pos h])).symm
    dsimp only
    rw [if_pos h]
    rfl
  · refine Eq.trans ?_ (runSys_some (by rw [if_neg h])).symm
    dsimp only
    rw [if_neg h]
    rfl

/-! ### Grants and timeouts (R339, R341) -/

theorem bays_grantEffect (s : State) (r : LvReq) : (s.grantEffect r).bays = s.bays := by
  unfold State.grantEffect
  split <;> rfl

/-- The head of a queue, where the free tokens cover it: its tokens are taken, it leaves the queue, and a tile is told. -/
theorem leaveGrant_head {s : State} {b : Nat} {r : LvReq} (h : lvHead (s.bay b).lvq = some r) (hc : r.cost ≤ (s.bay b).free) :
    ∃ f, s.leaveGrant b =
      some (((s.modBay b fun y => { (y.take false r.cost) with lvq := (s.bay b).lvq.erase r }).grantEffect r).modTile r.tile f) := by
  refine ⟨?tile, ?grant⟩
  case grant =>
    rw [State.leaveGrant, h]
    dsimp only
    rw [if_neg (Nat.not_lt.mpr hc)]
theorem leaveGrant_none {s : State} {b : Nat} {r : LvReq} (h : lvHead (s.bay b).lvq = some r) (hc : (s.bay b).free < r.cost) :
    s.leaveGrant b = none := by
  rw [State.leaveGrant, h]
  dsimp only
  rw [if_pos hc]
theorem bay_granted (s : State) (b : Nat) (r : LvReq) (f : Bay → Bay) (g : Tile → Tile) :
    (((s.modBay b f).grantEffect r).modTile r.tile g).bay b = f (s.bay b) := by
  rw [← bay_modBay s b f]
  change (((s.modBay b f).grantEffect r).bays.get? b).getD {} = ((s.modBay b f).bays.get? b).getD {}
  rw [bays_grantEffect]

/-- A wait of 4096 cycles is a trap of cause 3. -/
theorem leaveTimeout_eq {s : State} {t : Nat} {c : Fin 8} {r : LvReq} (hr : oldestReq (s.lvOf t (s.slotAt t c)) = some r)
    (hw : s.waitsOnLeave t (s.slotAt t c) = true) (h4 : 4096 ≤ (s.slotAt t c).act.lvWait) (hf : s.frozenShare t (s.shareAt t c) = false) :
    execLeaveTimeout t c s = .next ((s.takeTrapAt t c (s.slotAt t c).half.pc { code := 3, faddr := BitVec.ofNat 64 r.cost }).modSlotAt t c
      fun y => { y with act := { y.act with lvWait := 0 } }) := by
  refine event_some (m := "LEAVE_TIMEOUT") ?_
  dsimp only
  rw [hr]
  dsimp only
  rw [if_pos ⟨hw, h4, by rw [hf]; rfl⟩]

/-- Settles O38. -/
theorem leave : Obligations.Leave := by
  refine ⟨⟨fun s a h => ?_, fun s h => ⟨fun h0 => ?_, fun h0 => ?_⟩, fun s b d h => ?_,
    systemYields_of fun b a d s => (exec_lvShare b a d s).trans (by rw [execLvShare_eq])⟩, fun s b r h => ⟨fun hc => ?_, fun hc => ?_⟩,
    fun s t c r hr hw h4 hf => ?_⟩
  · intro s1 n r
    exact ⟨fun hr => (exec_lvHold a s).trans (lvHold_granted h hr), fun hr => (exec_lvHold a s).trans (lvHold_waits h hr),
      fun h1 h2 hn hl h0 => ⟨fun hu => (exec_lvHold a s).trans (lvHold_reserve h h1 h2 hn hl h0 hu),
        fun hu => (exec_lvHold a s).trans (lvHold_queues h h1 h2 hn hl h0 hu)⟩⟩
  · rw [exec_lvDrop, lvDrop_ready h, if_pos h0]
  · rw [exec_lvDrop, lvDrop_ready h, if_neg h0]
  · intro s1 k y hk
    have stat := (exec_lvStat b d s).trans (lvStat_ready h hk)
    refine ⟨fun hu => ?_, fun hu => ?_⟩
    · have general : usesReserve s.cur (s.after b).share = false := hu
      simp only [general, Bool.false_eq_true, if_false] at stat
      exact stat
    · have reserve : usesReserve s.cur (s.after b).share = true := hu
      simp only [reserve, if_true] at stat
      exact stat
  · obtain ⟨f, e⟩ := leaveGrant_head h hc
    refine ⟨_, (exec_leaveGrant b s).trans (event_some e), ?_⟩
    rw [bay_granted]
    exact ⟨rfl, rfl⟩
  · rw [exec_leaveGrant, execLeaveGrant, leaveGrant_none h hc]
    rfl
  · obtain ⟨phase, half⟩ := takeTrapAt_parks s (s.slotAt t c).half.pc (t := { code := 3, faddr := BitVec.ofNat 64 r.cost }) t c (show 3 < 0x10 by decide)
    refine ⟨_, (exec_leaveTimeout t c s).trans (leaveTimeout_eq hr hw h4 hf), ?_⟩
    rw [State.modSlotAt, slotAt_setSlotAt]
    exact ⟨phase, by rw [half]; rfl, rfl⟩

end Sys2Proof.Machine
end

section
/-! Translation instructions, TLB writes and resource entries (R64, R66, R67, R69 to R71). -/

namespace Sys2Proof.Machine
open Sys2Proof

/-! ### The statuses of tlb.wr (R67; log 67) -/

/-- The pages that tlb.wr refuses, in the order of their statuses, and what it leaves of one that it takes. -/
theorem tlbWr_eq {s : State} {a b : Word} {e : TlbEntry} {t : Nat} (he : e = pageEntry a b) (ht : t = s.coreTile a) : s.tlbWr a b =
    if (tagReserved a || attrReserved b) = true then (s, 1)
    else if e.va % 2 ^ e.bits ≠ 0 ∨ e.pa % 2 ^ e.bits ≠ 0 then (s, 2)
    else if (!(mappable e.pa && mappable (e.pa + 2 ^ e.bits - 1))) = true then (s, 3)
    else if (!(s.frameOk e.tenant e.pa && s.frameOk e.tenant (e.pa + 2 ^ e.bits - 4096))) = true then (s, 4)
    else if (tagWake a && !s.answerable t a) = true then (s.lateAnswer t a, 5)
    else (if tagWake a then (s.modTile t fun x => x.tlbInstall e).wakeMiss t a else s.modTile t fun x => x.tlbInstall e, 0) := by
  subst he ht
  rfl

theorem mem_set_toList {α : Type} {n : Nat} {v : Vector α n} {i : Nat} {x y : α} (hi : i < n) (h : y ∈ (v.set i x hi).toList) :
    y = x ∨ y ∈ v.toList := by
  rw [Vector.mem_toList_iff, Vector.mem_iff_getElem] at h
  obtain ⟨j, hj, rfl⟩ := h
  rw [Vector.getElem_set]
  split
  · exact .inl rfl
  · exact .inr (Vector.mem_toList_iff.mpr (Vector.getElem_mem hj))
theorem mem_set_self {α : Type} {n : Nat} (v : Vector α n) {i : Nat} (x : α) (hi : i < n) : x ∈ (v.set i x hi).toList :=
  Vector.mem_toList_iff.mpr (Vector.mem_iff_getElem.mpr ⟨i, hi, Vector.getElem_set_self hi⟩)

/-- A page that is placed takes one entry of the TLB, from which the pages that it overlaps have left. -/
theorem tlbInstall_tlb (t : Tile) (e : TlbEntry) : ∃ (i : Nat) (hi : i < 64),
    (t.tlbInstall e).tlb = (t.tlbRemove fun x => decide (x.tenant = e.tenant) && x.overlaps e.va e.bits).tlb.set i (some e) hi := by
  unfold Tile.tlbInstall
  dsimp only
  split
  · next i _ => exact ⟨i.val, i.isLt, rfl⟩
  · exact ⟨_, Fin.isLt _, rfl⟩
theorem mem_tlbRemove {t : Tile} {p : TlbEntry → Bool} {x : TlbEntry} (h : some x ∈ (t.tlbRemove p).tlb.toList) : p x = false := by
  rw [Vector.mem_toList_iff, Tile.tlbRemove, Vector.mem_map] at h
  obtain ⟨o, -, ho⟩ := h
  cases o with
  | none => cases ho
  | some y =>
    rw [Option.filter_some] at ho
    split at ho
    · next hp => cases ho; simpa using hp
    · cases ho
theorem tlbInstall_holds (t : Tile) (e : TlbEntry) : some e ∈ (t.tlbInstall e).tlb.toList
    ∧ ∀ x, some x ∈ (t.tlbInstall e).tlb.toList → x = e ∨ x.tenant ≠ e.tenant ∨ x.overlaps e.va e.bits = false := by
  obtain ⟨i, hi, tlb⟩ := tlbInstall_tlb t e
  rw [tlb]
  refine ⟨mem_set_self _ _ hi, fun x hx => ?_⟩
  obtain h | h := mem_set_toList hi hx
  · cases h
    exact .inl rfl
  · have apart := mem_tlbRemove h
    rw [Bool.and_eq_false_iff, decide_eq_false_iff_not] at apart
    exact .inr apart

theorem tlbWr_status {s : State} {a b : Word} {e : TlbEntry} {t : Nat} (he : e = pageEntry a b) (ht : t = s.coreTile a) :
    (tagReserved a = true ∨ attrReserved b = true → (s.tlbWr a b).2 = 1)
     ∧ (tagReserved a = false → attrReserved b = false →
         ((e.va % 2 ^ e.bits ≠ 0 ∨ e.pa % 2 ^ e.bits ≠ 0) → (s.tlbWr a b).2 = 2)
         ∧ (e.va % 2 ^ e.bits = 0 → e.pa % 2 ^ e.bits = 0 →
             (mappable e.pa = false ∨ mappable (e.pa + 2 ^ e.bits - 1) = false → (s.tlbWr a b).2 = 3)
             ∧ (mappable e.pa = true → mappable (e.pa + 2 ^ e.bits - 1) = true →
                 s.frameOk e.tenant e.pa = false ∨ s.frameOk e.tenant (e.pa + 2 ^ e.bits - 4096) = false → (s.tlbWr a b).2 = 4)
             ∧ (mappable e.pa = true → mappable (e.pa + 2 ^ e.bits - 1) = true → s.frameOk e.tenant e.pa = true →
                 s.frameOk e.tenant (e.pa + 2 ^ e.bits - 4096) = true → tagWake a = true → s.answerable t a = false → (s.tlbWr a b).2 = 5)
             ∧ (mappable e.pa = true → mappable (e.pa + 2 ^ e.bits - 1) = true → s.frameOk e.tenant e.pa = true →
                 s.frameOk e.tenant (e.pa + 2 ^ e.bits - 4096) = true → tagWake a = false →
                   s.tlbWr a b = (s.modTile t fun x => x.tlbInstall e, 0)))) := by
  refine ⟨fun h => ?_, fun h1 h2 => ⟨fun h => ?_, fun h3 h4 => ⟨fun h => ?_, fun h5 h6 h => ?_, fun h5 h6 h7 h8 h9 h10 => ?_, fun h5 h6 h7 h8 h9 => ?_⟩⟩⟩
  · rw [tlbWr_eq he ht, if_pos (by simpa using h)]
  · rw [tlbWr_eq he ht, if_neg (by simp [h1, h2]), if_pos h]
  · rw [tlbWr_eq he ht, if_neg (by simp [h1, h2]), if_neg (not_or.mpr ⟨not_not.mpr h3, not_not.mpr h4⟩), if_pos (by simpa using h)]
  · rw [tlbWr_eq he ht, if_neg (by simp [h1, h2]), if_neg (not_or.mpr ⟨not_not.mpr h3, not_not.mpr h4⟩), if_neg (by simp [h5, h6]),
      if_pos (by simpa using h)]
  · rw [tlbWr_eq he ht, if_neg (by simp [h1, h2]), if_neg (not_or.mpr ⟨not_not.mpr h3, not_not.mpr h4⟩), if_neg (by simp [h5, h6]),
      if_neg (by simp [h7, h8]), if_pos (by simp [h9, h10])]
  · rw [tlbWr_eq he ht, if_neg (by simp [h1, h2]), if_neg (not_or.mpr ⟨not_not.mpr h3, not_not.mpr h4⟩), if_neg (by simp [h5, h6]),
      if_neg (by simp [h7, h8]), if_neg (by simp [h9]), h9, if_neg Bool.false_ne_true]

/-! ### Resource entries (R69 to R71) -/

theorem invalOpen_false {s : State} {idx : Nat}
    (h : ∀ t ∈ s.launchTiles, ∀ v ∈ (s.tile t).inval, ¬ (v.1 = s.tablePid.getD 16 ∧ v.2.1 = idx)) : s.invalOpen idx = false := by
  rw [← Bool.not_eq_true, State.invalOpen, List.any_eq_true]
  rintro ⟨t, ht, open_⟩
  obtain ⟨v, hv, both⟩ := List.any_eq_true.mp open_
  exact h t ht v hv (by simpa using both)

section
variable {s : State} {b a d : Reg}

theorem resWr_completes {idx : Nat} (h : s.Ready (opAB b a d)) (hr : ((s.after a).after b).act.resWr = some idx)
    (hi : ((s.after a).after b).invalOpen idx = false) :
    execResWr b a d s = .next (((((s.after a).after b).modAct fun y => { y with resWr := none }).give d 0#64).retire (opAB b a d) .next) := by
  refine issueValue_ok h ?_
  rw [bind_ok (rd_run a s), bind_ok (rd_run b _), bind_ok (get_run _), hr]
  dsimp only
  rw [bind_ok (waitUntil_ok (by rw [hi]; rfl) _ _), bind_ok (update_run _ _), pure_run]

theorem resWr_stores {e : Rec512} (h : s.Ready (opAB b a d)) :
    let s2 := (s.after a).after b
    let idx := (s.val a).toNat
    let ea := ((s.after a).val b).toNat
    s2.act.resWr = none → ea % 64 = 0 → s2.inWindow s.cur ea 64 .load → idx < s2.tableLaunch.resCount →
    s2.ownClear ea 64 = true → s2.resMerge (s2.rec512 (s2.tableLaunch.resBase + 64 * idx)) (BitVec.ofNat 512 (s2.ownNat ea 64)) = some e →
      let s3 := ((s.reads ea 64).resStore idx e).modAct fun y => { y with resWr := some idx }
      execResWr b a d s = .next (s3.setSlot { s3.slot with waiting := true, waitOn := .issued }) := by
  intro s2 idx ea hr ha hw hi hc hm s3
  refine (issueValue_error h ?_).trans (stopped_waitIn s 4 .issued fun s =>
    ((s.senseWin s.cur s.share ea 64).resStore idx e).modAct fun y => { y with resWr := some idx })
  rw [bind_ok (rd_run a s), bind_ok (rd_run b _), bind_ok (get_run _), hr]
  dsimp only
  unfold localImage
  rw [bind_ok (recordAddr_ok ha hw), bind_ok (check_ok (decide_eq_true hi) _ _ _ _), bind_ok (ownWait_ok hc)]
  have merge : s2.resMerge (s2.rec512 (s2.tableLaunch.resBase + 64 * (s.val a).toNat))
      (rec512Of (s2.readWin s2.cur s2.share ((s.after a).val b).toNat 64)) = some e := hm
  rw [merge]
  rfl

theorem resRd_ready {u : State} (h : s.Ready { srcs := [a, b] }) :
    let s2 := (s.after a).after b
    let idx := (s.val a).toNat
    let ea := ((s.after a).val b).toNat
    let r := s2.resEntry s.cur s2.tablePid idx
    let s3 := s2.useRes s.cur s2.tablePid idx
    let e : Rec512 := if resTenant r = s2.act.tenant then r else BitVec.ofNat 512 (if resValid r then 2 ^ 99 else 0)
    ea % 64 = 0 → s2.inWindow s.cur ea 64 .store → idx < s2.tableLaunch.resCount → s3.ownClear ea 64 = true → s3.logs ea 64 u →
      execResRd b a s = .next ((u.storeAt ea (leBytes 64 e.toNat)).retire { srcs := [a, b] } .next) := by
  intro s2 idx ea r s3 e ha hw hi hc hl
  have stored := storeOwn_ok (s := s3) (u := u) (bs := leBytes 64 e.toNat) (ea := ea) (by rwa [leBytes_length]) (by rwa [leBytes_length])
  refine issue_ok h ?_
  rw [bind_ok (rd_run a s), bind_ok (rd_run b _)]
  unfold localImage
  rw [bind_ok (recordAddr_ok ha hw), bind_ok (get_run _), bind_ok (check_ok (decide_eq_true hi) _ _ _ _)]
  refine (bind_ok (update_run _ _)).trans ?_
  refine (bind_ok (keeping_ok stored _)).trans ?_
  rw [pure_run]

end

/-- Settles O39. -/
theorem translationForms : Obligations.TranslationForms := by
  refine ⟨⟨coreYields_of fun b a d s => exec_tlbWr b a d s, coreYields_of fun b a d s => exec_tlbNak b a d s, fun s a d h => ?_⟩,
    fun s a b => ?_, fun s b a d idx h hr hi => (exec_resWr b a d s).trans (resWr_completes h hr (invalOpen_false hi)),
    fun s b a d e h hr ha hw hi hc hm => (exec_resWr b a d s).trans (resWr_stores h hr ha hw hi hc hm),
    fun s u b a h ha hw hi hc hl => (exec_resRd b a s).trans (resRd_ready h ha hw hi hc hl)⟩
  · obtain ⟨inv, invStray⟩ := translationForm_one h State.tlbInv
    obtain ⟨invt, invtStray⟩ := translationForm_one h State.tlbInvt
    exact ⟨fun hc => ⟨(exec_tlbInv a d s).trans (inv hc), (exec_tlbInvt a d s).trans (invt hc)⟩,
      fun hc => ⟨(exec_tlbInv a d s).trans (invStray hc), (exec_tlbInvt a d s).trans (invtStray hc)⟩⟩
  · intro e t
    obtain ⟨reserved, rest⟩ := tlbWr_status (s := s) (e := e) (t := t) rfl rfl
    refine ⟨reserved, fun h1 h2 => ?_⟩
    obtain ⟨misaligned, rest⟩ := rest h1 h2
    refine ⟨misaligned, fun h3 h4 => ?_⟩
    obtain ⟨unmapped, frames, noAnswer, placed⟩ := rest h3 h4
    refine ⟨unmapped, frames, noAnswer, fun h5 h6 h7 h8 h9 => ?_⟩
    rw [placed h5 h6 h7 h8 h9]
    refine ⟨rfl, ?_⟩
    dsimp only
    rw [State.modTile, tile_setTile]
    exact tlbInstall_holds _ e

end Sys2Proof.Machine
end

section
/-! Instructions of the system core on partitions and virtual functions (R412, R413, R417, R421 to R432). -/

namespace Sys2Proof.Machine
open Sys2Proof

/-- What no step of a fold changes, the fold does not change. -/
theorem foldl_view {α β : Type} (g : State → β) {f : State → α → State} (hf : ∀ s x, g (f s x) = g s) (l : List α) (s : State) :
    g (l.foldl f s) = g s := by
  induction l generalizing s with
  | nil => rfl
  | cons x l ih => rw [List.foldl_cons, ih, hf]

/-! ### The partitions after a change of one, and of the bays (R412) -/

theorem get?_modPart {s : State} {pid : Nat} {p : Part} (h : s.parts.get? pid = some p) (f : Part → Part) :
    (s.modPart pid f).parts.get? pid = some (f p) := by
  unfold State.modPart
  rw [h]
  exact NMap.get?_set_same ..
theorem parts_reconfigureBay (s : State) (b : Nat) : (s.reconfigureBay b).parts = s.parts := by
  unfold State.reconfigureBay
  dsimp only
  repeat' split
  all_goals rfl
theorem parts_reconfigure (s : State) : s.reconfigure.parts = s.parts := foldl_view State.parts parts_reconfigureBay _ s

/-! ### part.mk (R412) -/

section
variable {s : State} {a d : Reg} (h : s.Ready { srcs := [a], dsts := [d] })
include h

theorem partMk_runs (hc : s.cur = 3072) (ha : (s.val a).toNat % 64 = 0) (hw : (s.after a).inWindow 3072 (s.val a).toNat 64 .load)
    (hr : (s.after a).readable (s.val a).toNat 64) :
    let r := ((s.after a).reads (s.val a).toNat 64).partMk (BitVec.ofNat 512 ((s.after a).ownNat (s.val a).toNat 64))
    execPartMk a d s = .next ((r.1.give d (BitVec.ofNat 64 r.2)).retire { srcs := [a], dsts := [d] } .next) := by
  intro r
  have own : (s.after a).inWindow (s.after a).cur (s.val a).toNat 64 .load := by rw [cur_after, hc]; exact hw
  refine issueValue_ok h ?_
  rw [bind_ok (rd_run a s), bind_ok (privileged_ok (decide_eq_true hc)), if_neg (not_not.mpr ha), bind_ok (get_run _)]
  refine (bind_ok (checkWin_ok own 0)).trans ?_
  refine (bind_ok (readOwn_ok hr)).trans ?_
  rw [bind_ok (get_run _)]
  rfl
theorem partMk_misaligned (hc : s.cur = 3072) (ha : (s.val a).toNat % 64 ≠ 0) :
    execPartMk a d s = .next (((s.after a).give d 1#64).retire { srcs := [a], dsts := [d] } .next) := by
  refine issueValue_ok h ?_
  rw [bind_ok (rd_run a s), bind_ok (privileged_ok (decide_eq_true hc)), if_pos ha, pure_run]
theorem partMk_elsewhere (hc : s.cur ≠ 3072) : execPartMk a d s = .next (s.takeTrap s.half.pc { code := 0x30 }) := by
  refine issueValue_traps h ?_ rfl
  rw [bind_ok (rd_run a s), bind_error (privileged_stop (decide_eq_false hc))]
theorem partFree_runs (hc : s.cur = 3072) (hb : onlyBits (s.val a) [(3, 0)] = true) :
    let r := (s.after a).partFree (s.val a).toNat
    execPartFree a d s = .next ((r.1.give d (BitVec.ofNat 64 r.2)).retire { srcs := [a], dsts := [d] } .next) := by
  intro r
  refine issueValue_ok h ?_
  rw [bind_ok (rd_run a s), bind_ok (privileged_ok (decide_eq_true hc))]
  exact runSys_some (by rw [sysFree, if_pos hb]; rfl)
theorem partFree_elsewhere (hc : s.cur ≠ 3072) : execPartFree a d s = .next (s.takeTrap s.half.pc { code := 0x30 }) := by
  refine issueValue_traps h ?_ rfl
  rw [bind_ok (rd_run a s), bind_error (privileged_stop (decide_eq_false hc))]

end

/-! ### What the forms on partitions answer and leave (R412, R413, R417) -/

theorem parts_noteSaved (s : State) (f : Nat) : (s.noteSaved f).parts = s.parts := rfl
theorem parts_giveTile (s : State) (t pid : Nat) (d : Rec512) : (s.giveTile t pid d).parts = s.parts := rfl
/-- The tiles of a new partition, and what is noted of its tenant, leave the table of partitions (R412). -/
theorem parts_placed (s : State) (ts : List Nat) (pid : Nat) (d : Rec512) (f : Nat) :
    ((ts.foldl (fun st t => st.giveTile t pid d) s).reconfigure.noteSaved f).parts = s.parts := by
  rw [parts_noteSaved, parts_reconfigure]
  exact foldl_view State.parts (f := fun (st : State) (t : Nat) => st.giveTile t pid d) (fun s t => parts_giveTile s t pid d) ts s
/-- A partition is made with its descriptor, in state 1. -/
theorem partMk_makes {s : State} {d : Rec512} (h : (s.partMk d).2 = 0) :
    (s.partMk d).1.parts.get? (descPid d) = some { desc := d } := by
  unfold State.partMk at h ⊢
  by_cases h1 : descMalformed d = true
  · rw [if_pos h1] at h
    exact absurd h (Nat.succ_ne_zero 0)
  rw [if_neg h1] at h ⊢
  by_cases h2 : ((s.parts.get? (descPid d)).isSome || !s.nodeFree (descNode d) (descHalf d) none
      || (partBays (nodeTiles (descNode d))).any s.bayDegraded || s.sys.asleep) = true
  · rw [if_pos h2] at h
    exact absurd h (Nat.succ_ne_zero 1)
  rw [if_neg h2]
  dsimp only
  rw [parts_placed]
  exact NMap.get?_set_same ..

theorem partMk_refuses (s : State) (d : Rec512) :
    (descMalformed d = true → s.partMk d = (s, 1))
    ∧ (descMalformed d = false → (s.parts.get? (descPid d)).isSome = true ∨ s.nodeFree (descNode d) (descHalf d) none = false →
      s.partMk d = (s, 2)) := by
  refine ⟨fun h => ?_, fun h h' => ?_⟩
  · rw [State.partMk, if_pos h]
  · rw [State.partMk, if_neg (by rw [h]; exact Bool.false_ne_true), if_pos ?_]
    obtain h' | h' := h' <;> simp [h']

theorem partHalt_begins {s : State} {pid : Nat} {p : Part} (h : s.parts.get? pid = some p) (hr : p.isReflex = false) (h1 : p.state = 1) :
    s.partHalt pid true = (s.modPart pid fun q => { q with state := 3 }, 0) := by
  rw [State.partHalt, h]
  dsimp only
  rw [if_neg (by rw [hr, h1]; decide), if_neg (by rw [h1]; decide), if_pos rfl, if_pos h1]
theorem partHalt_releases {s : State} {pid : Nat} {p : Part} (h : s.parts.get? pid = some p) (hr : p.isReflex = false) (h4 : p.state = 4) :
    s.partHalt pid false = (s.modPart pid fun q => { q with state := 1 }, 0) := by
  rw [State.partHalt, h]
  dsimp only
  rw [if_neg (by rw [hr, h4]; decide), if_neg (by rw [h4]; decide), if_neg Bool.false_ne_true, if_pos h4]
theorem haltComplete_eq {s : State} {pid : Nat} {p : Part} (h : s.parts.get? pid = some p) (h3 : p.state = 3) :
    execHaltComplete pid s = .next ((s.modPart pid fun q => { q with state := 4 }).raise 0 2) := by
  refine event_some (m := "HALT_COMPLETE") ?_
  rw [h]
  dsimp only
  rw [if_pos h3]

/-- Settles O41. -/
theorem partitionForms : Obligations.PartitionForms := by
  refine ⟨⟨fun s a d h => ⟨fun hc ha hw hr => (exec_partMk a d s).trans (partMk_runs h hc ha hw hr),
      fun hc ha => (exec_partMk a d s).trans (partMk_misaligned h hc ha), fun hc hb => (exec_partFree a d s).trans (partFree_runs h hc hb),
      fun hc => ⟨(exec_partMk a d s).trans (partMk_elsewhere h hc), (exec_partFree a d s).trans (partFree_elsewhere h hc)⟩⟩,
    systemYields_of fun b a d s => exec_partHold b a d s, systemYields_of fun b a d s => exec_partHalt b a d s,
    systemYields_of fun b a d s => exec_partSwap b a d s, systemYields_of fun b a d s => exec_shutPost b a d s,
    systemYields_of fun b a d s => exec_shutStat b a d s, systemYields_of fun b a d s => exec_vfCtlPause b a d s,
    systemYields_of fun b a d s => exec_vfCtlResume b a d s, systemYields_of fun b a d s => exec_vfCtlReset b a d s,
    systemYields_of fun b a d s => exec_vfCtlTeardown b a d s⟩,
    fun s d => ⟨(partMk_refuses s d).1, fun hm h => (partMk_refuses s d).2 hm (.inl h), fun hm h => (partMk_refuses s d).2 hm (.inr h),
      fun h => ⟨_, partMk_makes h, rfl, rfl⟩⟩,
    fun s pid h => ?_, fun s pid p h hr => ⟨fun h1 => ?_, fun h4 => ?_, fun h3 => ?_⟩⟩
  · rw [State.partFree, State.partHold, State.partHalt, h]
    exact ⟨rfl, rfl, rfl⟩
  · rw [partHalt_begins h hr h1, get?_modPart h]
    exact ⟨rfl, rfl⟩
  · rw [partHalt_releases h hr h4, get?_modPart h]
    exact ⟨rfl, rfl⟩
  · refine ⟨_, (exec_haltComplete pid s).trans (haltComplete_eq h h3), ?_⟩
    have raised (u : State) : (u.raise 0 2).parts = u.parts := rfl
    rw [raised, get?_modPart h]
    rfl

end Sys2Proof.Machine
end

section
/-! Invalidations of resource entries, retries of misses, frames, moves and rows (R58, R65 to R77, R483). -/

namespace Sys2Proof.Machine
open Sys2Proof

/-! ### Resource entries and misses (R58, R65, R67, R69) -/

theorem resourceInvalidation_eq {s : State} {t pid idx : Nat} {old : Rec512} {rest : List (Nat × Nat × Rec512)}
    (h : (s.tile t).inval = (pid, idx, old) :: rest) :
    execResourceInvalidation t s = .next (s.modTile t fun x => { x with
      inval := rest, rcache := x.rcache.filter fun y => decide (y.1 ≠ s.resTag (some pid) idx) }) := by
  refine event_some (m := "RESOURCE_INVALIDATION") ?_
  rw [State.invalidate, h]
theorem tlbMissRetry_eq {s : State} {t : Nat} {c : Fin 8} {h : Bool} {k : Nat} (hm : ((s.tile t).ctx c).missHalf = some h)
    (hr : (((s.tile t).ctx c).slot h).retryAt = some k) (hk : k ≤ s.cycle) :
    let x := ((s.tile t).ctx c).slot h
    execTlbMissRetry t c s = .next ((s.modHalfOf t c h fun y => { y with retryAt := none }).sendMiss t
      (if x.seizing then 2 else if (s.tile t).split ∧ 4 ≤ c.val then 1 else 0) x.act.tenant x.missVa.toNat x.missAcc false c.val 0) := by
  intro x
  have due : s.retryCtx t c = some ((s.modHalfOf t c h fun y => { y with retryAt := none }).sendMiss t
      (if x.seizing then 2 else if (s.tile t).split ∧ 4 ≤ c.val then 1 else 0) x.act.tenant x.missVa.toNat x.missAcc false c.val 0) := by
    rw [State.retryCtx, hm]
    dsimp only
    rw [hr]
    dsimp only
    rw [if_pos hk]
    simp only [Bool.and_eq_true, decide_eq_true_eq, x]
  refine event_some (m := "TLB_MISS_RETRY") ?_
  rw [due]

/-! ### Frames (R74, R75) -/

/-- A part of the memory, by its addresses. -/
theorem Memory.get_filter {m : Memory} (h : Memory.wf m) (q : Nat → Bool) (k : Nat) :
    Memory.get (m.filter fun c => q c.1) k = if q k then m.get k else Memory.unlisted := by
  induction m with
  | nil => cases q k <;> rfl
  | cons c r ih =>
    obtain ⟨a, v⟩ := c
    obtain ⟨rising, -, tail⟩ := Memory.wf_cons.mp h
    have above : k < a → Memory.get (r.filter fun c => q c.1) k = Memory.unlisted := fun hk =>
      Memory.get_below fun p hp => Nat.lt_trans hk (rising p (List.mem_of_mem_filter hp))
    by_cases hq : q a = true
    · rw [List.filter_cons_of_pos (p := fun c : Host.Cell => q c.1) (a := (a, v)) hq, Memory.get, Memory.get, ih tail]
      by_cases hk : k < a
      · rw [if_pos hk, if_pos hk, ite_self]
      · rw [if_neg hk, if_neg hk]
        by_cases ha : a = k
        · rw [if_pos ha, if_pos ha, if_pos (ha ▸ hq)]
        · rw [if_neg ha, if_neg ha]
    · rw [List.filter_cons_of_neg (p := fun c : Host.Cell => q c.1) (a := (a, v)) hq, ih tail, Memory.get]
      by_cases hk : k < a
      · rw [if_pos hk, ite_self, ← ih tail, above hk]
      · rw [if_neg hk]
        by_cases ha : a = k
        · rw [if_neg (ha ▸ hq), if_neg (ha ▸ hq)]
        · rw [if_neg ha]

/-- The rows that a scrub opens (R483) leave all else. -/
theorem opened_view {β : Type} (g : State → β) (hg : ∀ (s : State) rows, g { s with rows := rows } = g s) (ls : List Nat) (s : State) :
    g (ls.foldl State.openRow s) = g s := by
  refine foldl_view g (fun s l => ?_) ls s
  unfold State.openRow
  split
  · exact hg s _
  · rfl
theorem mem_scrub (s : State) (f : Nat) : (s.scrub f).mem = s.mem.filter fun c => decide (c.1 / 4096 ≠ f) :=
  congrArg (List.filter _) (opened_view State.mem (fun _ _ => rfl) _ s)
theorem poison_scrub (s : State) (f : Nat) : (s.scrub f).poison = s.poison.filter fun k => decide (k / 64 ≠ f) :=
  congrArg (List.filter _) (opened_view State.poison (fun _ _ => rfl) _ s)
theorem frame_scrub (s : State) (f : Nat) : (s.scrub f).frame f = s.frame f / 16 * 16 + 2 := by
  have frame : ((pageLines (f * 4096) 4096).foldl State.openRow s).frame f = s.frame f := opened_view (fun u => u.frame f) (fun _ _ => rfl) _ s
  rw [← frame]
  exact congrArg (Option.getD · 0) (NMap.get?_set_same ..)
theorem frame_setFrame (s : State) (f v : Nat) : (s.setFrame f v).frame f = v :=
  congrArg (Option.getD · 0) (NMap.get?_set_same ..)

/-- A scrub leaves zeros in its frame, and every other frame as it was. -/
theorem get_scrub {s : State} (h : s.Safe) (f k : Nat) : (s.scrub f).mem.get k = if k / 4096 = f then Memory.unlisted else s.mem.get k := by
  rw [mem_scrub, Memory.get_filter h (fun a => decide (a / 4096 ≠ f))]
  by_cases hk : k / 4096 = f
  · rw [if_pos hk, if_neg (by simpa using hk)]
  · rw [if_neg hk, if_pos (by simpa using hk)]

section
variable {s : State} {f : Nat} (hf : f * 4096 < Config.mainMemoryTop)
include hf

theorem frameStep_map (t : Fin 16) (h : s.frame f % 16 = 2) : s.frameStep f (.map t) = some (s.setFrame f (t.val * 16 + 3)) := by
  rw [State.frameStep, if_neg (Nat.not_le.mpr hf), if_pos h]
theorem frameStep_free (h : s.frame f % 16 = 3) (hu : s.unmapped f = true) :
    s.frameStep f .free = some (s.setFrame f (s.frame f / 16 * 16)) := by
  rw [State.frameStep, if_neg (Nat.not_le.mpr hf), if_pos ⟨h, hu⟩]
theorem frameStep_post (h : s.frame f % 16 = 0) : s.frameStep f .post =
    some ((s.setFrame f (s.frame f / 16 * 16 + 1)).modSys fun y => { y with scrubs := y.scrubs ++ [f] }) := by
  rw [State.frameStep, if_neg (Nat.not_le.mpr hf), if_pos h]
theorem frameStep_clean (h : s.frame f % 16 = 1) (hs : f ∈ s.sys.scrubs) (hu : s.sys.uncontained = false) :
    s.frameStep f .clean = some (s.scrub f) := by
  rw [State.frameStep, if_neg (Nat.not_le.mpr hf), if_pos ⟨h, by simpa using hs, by rw [hu]; rfl⟩]

end

/-! ### Moves (R76, R77) -/

section
variable {s : State} {n : Nat} {m : Move} (h : s.sys.moves[n]? = some m)
include h

theorem moveRound_eq (hc : m.converged = false) {a : MoveAct} (ha : a.num = n) : execMoveRound a s = .next (s.moveRound n m) := by
  refine event_some (m := "MOVE_ROUND") ?_
  rw [ha, h]
  exact if_neg (by rw [hc]; exact Bool.false_ne_true)
theorem moveFreeze_eq (hc : m.converged = true) (hf : m.frozen = false) : execMoveFreeze n s = .next (s.moveFreeze n m) := by
  refine event_some (m := "MOVE_FREEZE") ?_
  rw [h]
  simp only [hc, hf]
  rfl
theorem moveInstall_eq (hc : m.converged = true) (hf : m.frozen = true) (hq : s.moveQuiet m = true) :
    execMoveFreeze n s = .next (s.moveInstall n m) := by
  refine event_some (m := "MOVE_FREEZE") ?_
  rw [h]
  simp only [hc, hf, hq]
  rfl

end

/-- Settles O40. -/
theorem translationEvents : Obligations.TranslationEvents := by
  refine ⟨fun s t pid idx old rest h => ?_, fun s t c h k hm hr hk => (exec_tlbMissRetry t c s).trans (tlbMissRetry_eq hm hr hk),
    fun s f hf => ⟨fun t h => (exec_scrub _ s).trans (event_some (frameStep_map hf t h)),
      fun h hu => (exec_scrub _ s).trans (event_some (frameStep_free hf h hu)), fun h => ?_, fun hs hq h hu => ?_⟩,
    fun s n m h => ⟨fun hc a ha => (exec_moveRound a s).trans (moveRound_eq h hc ha),
      fun hc hf => (exec_moveFreeze n s).trans (moveFreeze_eq h hc hf),
      fun hc hf hq => (exec_moveFreeze n s).trans (moveInstall_eq h hc hf hq)⟩,
    fun s n r h => ?_, fun s n h => ?_⟩
  · refine ⟨_, (exec_resourceInvalidation t s).trans (resourceInvalidation_eq h), ?_⟩
    rw [State.modTile, tile_setTile]
    exact ⟨rfl, fun x hx => by simpa using (List.mem_filter.mp hx).2⟩
  · refine ⟨_, (exec_scrub _ s).trans (event_some (frameStep_post hf h)), ?_, ?_⟩
    · exact frame_setFrame s f _
    · exact List.mem_append_right _ (List.mem_singleton_self f)
  · refine ⟨_, (exec_scrub _ s).trans (event_some (frameStep_clean hf h hq hu)), ?_, fun k hk => ?_, fun k hk => ?_, fun p hp => ?_⟩
    · rw [frame_scrub]
      omega
    · rw [get_scrub hs, if_pos hk]
      rfl
    · rw [get_scrub hs, if_neg hk]
    · rw [poison_scrub] at hp
      simpa using (List.mem_filter.mp hp).2
  · refine (exec_rowCloseTimeout n s).trans (event_some ?_)
    rw [h]
    rfl
  · exact (exec_refresh n s).trans (event_some (if_pos h))

end Sys2Proof.Machine
end

section
/-! Vector instructions join the vector queue (R155, R215 to R246). -/

namespace Sys2Proof.Machine
open Sys2Proof

/-- A form that is a handover of an entry hands it over. -/
theorem handsOver_of {i : Instr} {x : VEntry} {accepts : BitVec 16 → Bool} {bad iso : Bool}
    (hi : ∀ s, exec i s = handover x accepts bad iso s) : HandsOver i x { pfx := accepts, badCode := bad, iso := iso } :=
  fun s h hq => (hi s).trans (handover_ok h hq)
/-- A memory form without a stride takes its base alone. -/
theorem handsOver_unstrided {i : Instr} {op : VOp} {km : Km} {base : Reg} {v : VReg} {i4 iso : Bool}
    (hi : ∀ s, exec i s = memForm op km .z base v i4 iso s) : HandsOver i { op := op, km := km, base := base, vd := v }
      { pfx := pfxOnly (fun f => decide (f ≤ 8) && (i4 || decide (f ≠ 1))) false true, badCode := !isVBase base, iso := iso } := by
  have code : isVBase base = (isVBase base && isVBase .z) := (Bool.and_true _).symm
  rw [code]
  exact handsOver_of hi

/-- Settles O43. -/
theorem vectorArithmeticHandsOver : Obligations.VectorArithmeticHandsOver :=
  ⟨fun t vs km vb va vd => handsOver_of fun s => exec_vfadd vs t km vb va vd s,
    fun t vs km vb va vd => handsOver_of fun s => exec_vfsub vs t km vb va vd s,
    fun t vs km vb va vd => handsOver_of fun s => exec_vfmul vs t km vb va vd s,
    fun t vs km vb va vd => handsOver_of fun s => exec_vfma vs t km vb va vd s,
    fun t vs km vb va vd => handsOver_of fun s => exec_vfnma vs t km vb va vd s,
    fun t vs km vb va vd => handsOver_of fun s => exec_vfmin vs t km vb va vd s,
    fun t vs km vb va vd => handsOver_of fun s => exec_vfmax vs t km vb va vd s,
    fun t vs km vb va vd => handsOver_of fun s => exec_vfdiv vs t km vb va vd s,
    fun z vs km vb va vd => handsOver_of fun s => exec_vadd vs z km vb va vd s,
    fun z vs km vb va vd => handsOver_of fun s => exec_vsub vs z km vb va vd s,
    fun z vs km vb va vd => handsOver_of fun s => exec_vmul vs z km vb va vd s,
    fun z vs km vb va vd => handsOver_of fun s => exec_vmac vs z km vb va vd s,
    fun z vs km vb va vd => handsOver_of fun s => exec_vminI vs z km vb va vd s,
    fun z vs km vb va vd => handsOver_of fun s => exec_vmaxI vs z km vb va vd s,
    fun z vs km vb va vd => handsOver_of fun s => exec_vminN vs z km vb va vd s,
    fun z vs km vb va vd => handsOver_of fun s => exec_vmaxN vs z km vb va vd s,
    fun z vs km vb va vd => handsOver_of fun s => exec_vand vs z km vb va vd s,
    fun z vs km vb va vd => handsOver_of fun s => exec_vor vs z km vb va vd s,
    fun z vs km vb va vd => handsOver_of fun s => exec_vxor vs z km vb va vd s,
    fun z vs km vb va vd => handsOver_of fun s => exec_vandn vs z km vb va vd s,
    fun z vs km vb va vd => handsOver_of fun s => exec_vsll vs z km vb va vd s,
    fun z vs km vb va vd => handsOver_of fun s => exec_vsrl vs z km vb va vd s,
    fun z vs km vb va vd => handsOver_of fun s => exec_vsra vs z km vb va vd s,
    fun vs z km vb vd => handsOver_of fun s => exec_vmov vs z km vb vd s⟩

/-- Settles O44. -/
theorem vectorOthersHandOver : Obligations.VectorOthersHandOver :=
  ⟨⟨fun z vs km vb va vd => handsOver_of fun s => exec_vceq vs z km vb va vd s,
    fun z vs km vb va vd => handsOver_of fun s => exec_vclt vs z km vb va vd s,
    fun z vs km vb va vd => handsOver_of fun s => exec_vcge vs z km vb va vd s,
    fun z vs km vb va vd => handsOver_of fun s => exec_vcltn vs z km vb va vd s,
    fun z vs km vb va vd => handsOver_of fun s => exec_vcgen vs z km vb va vd s,
    fun t vs km vb va vd => handsOver_of fun s => exec_vfeq vs t km vb va vd s,
    fun t vs km vb va vd => handsOver_of fun s => exec_vflt vs t km vb va vd s,
    fun t vs km vb va vd => handsOver_of fun s => exec_vfle vs t km vb va vd s,
    fun vb va vd => handsOver_of fun s => exec_kand vb va vd s,
    fun vb va vd => handsOver_of fun s => exec_kor vb va vd s,
    fun vb va vd => handsOver_of fun s => exec_kxor vb va vd s,
    fun vb va vd => handsOver_of fun s => exec_kandn vb va vd s,
    fun va vd => handsOver_of fun s => exec_knot va vd s,
    fun va vd => handsOver_of fun s => exec_kpop va vd s,
    fun va vd => handsOver_of fun s => exec_kfirst va vd s,
    fun va vd => handsOver_of fun s => exec_kword va vd s,
    fun vb vd => handsOver_of fun s => exec_klo vb vd s,
    fun vb vd => handsOver_of fun s => exec_kset vb vd s,
    fun km vb va vd => handsOver_of fun s => exec_vcvtF32Bf16 km vb va vd s,
    fun km vb va vd => handsOver_of fun s => exec_vcvtF32F16 km vb va vd s,
    fun km vb va vd => handsOver_of fun s => exec_vcvtBf16F32 km vb va vd s,
    fun km vb va vd => handsOver_of fun s => exec_vcvtF16F32 km vb va vd s,
    fun km va vd => handsOver_of fun s => exec_vcvtF16Bf16 km va vd s,
    fun km va vd => handsOver_of fun s => exec_vcvtBf16F16 km va vd s,
    fun km va vd => handsOver_of fun s => exec_vcvtF32I32 km va vd s,
    fun km va vd => handsOver_of fun s => exec_vcvtI32F32 km va vd s,
    fun km vb va vd => handsOver_of fun s => exec_vcvtF32I8 km vb va vd s,
    fun km vb va vd => handsOver_of fun s => exec_vwidI16I8 km vb va vd s,
    fun km vb va vd => handsOver_of fun s => exec_vwidI32I16 km vb va vd s,
    fun km vb va vd => handsOver_of fun s => exec_vwidN16N8 km vb va vd s,
    fun km vb va vd => handsOver_of fun s => exec_vwidN32N16 km vb va vd s,
    fun km vb va vd => handsOver_of fun s => exec_vnarI8I16 km vb va vd s,
    fun km vb va vd => handsOver_of fun s => exec_vnarI16I32 km vb va vd s,
    fun km vb va vd => handsOver_of fun s => exec_vgscLo km vb va vd s,
    fun km vb va vd => handsOver_of fun s => exec_vgscHi km vb va vd s,
    fun km vb va vd => handsOver_of fun s => exec_vunpkI8I4 km vb va vd s,
    fun km vb va vd => handsOver_of fun s => exec_vpkI4I8 km vb va vd s⟩,
    fun km vb va vd => handsOver_of fun s => exec_vpermB km vb va vd s,
    fun km vb va vd => handsOver_of fun s => exec_vnibLo km vb va vd s,
    fun km vb va vd => handsOver_of fun s => exec_vnibHi km vb va vd s,
    fun z km vb va vd => handsOver_of fun s => exec_vbcast z km vb va vd s,
    fun z km vb va vd => handsOver_of fun s => exec_vslup z km vb va vd s,
    fun z km vb va vd => handsOver_of fun s => exec_vsldn z km vb va vd s,
    fun z km va vd => handsOver_of fun s => exec_vcomp z km va vd s,
    fun z km vd => handsOver_of fun s => exec_vidx z km vd s,
    fun z el va vd => handsOver_of fun s => exec_vmvq z el va vd s,
    fun t km va vd => handsOver_of fun s => exec_vrsum t km va vd s,
    fun t km va vd => handsOver_of fun s => exec_vrmax t km va vd s,
    fun t km va vd => handsOver_of fun s => exec_vrmin t km va vd s,
    fun t km va vd => handsOver_of fun s => exec_vramax t km va vd s,
    fun t km va vd => handsOver_of fun s => exec_vramin t km va vd s,
    fun t km va vd => handsOver_of fun s => exec_vscan t km va vd s,
    fun t km vb va vd => handsOver_of fun s => exec_vhist t km vb va vd s,
    fun km va vd => handsOver_of fun s => exec_vexp2 km va vd s,
    fun km va vd => handsOver_of fun s => exec_vlog2 km va vd s,
    fun km va vd => handsOver_of fun s => exec_vrcp km va vd s,
    fun km va vd => handsOver_of fun s => exec_vrsqrt km va vd s,
    fun km va vd => handsOver_of fun s => exec_vsqrt km va vd s,
    fun km vb va vd => handsOver_of fun s => exec_vrngN32 km vb va vd s,
    fun km vb va vd => handsOver_of fun s => exec_vrngF32 km vb va vd s,
    fun t km va vd => handsOver_of fun s => exec_vord t km va vd s,
    fun t km va vd => handsOver_of fun s => exec_vordi t km va vd s,
    fun km base v => handsOver_unstrided fun s => exec_vld km base v s,
    fun km base v => handsOver_unstrided fun s => exec_vst km base v s,
    fun km stride base v => handsOver_of fun s => exec_vlds km stride base v s,
    fun km stride base v => handsOver_of fun s => exec_vsts km stride base v s,
    fun km base v => handsOver_unstrided fun s => exec_vldg km base v s,
    fun km base v => handsOver_unstrided fun s => exec_vstg km base v s,
    fun km base v => handsOver_unstrided fun s => exec_vldb km base v s⟩

end Sys2Proof.Machine
end

section
/-! Vector results, element by element (R35, R159, R217, R221 to R226, R232). -/

namespace Sys2Proof.Machine
open Sys2Proof

/-! ### Elements of a packed register (R159) -/

theorem vel_lt (w : Nat) (v : VecVal) (i : Nat) : vel w v i < 2 ^ w := Nat.mod_lt _ (Nat.two_pow_pos w)
/-- The number that holds elements one after the other. -/
def packNat (w : Nat) (xs : List Nat) : Nat := xs.foldr (fun x acc => x % 2 ^ w + acc * 2 ^ w) 0
theorem packElems_eq (w : Nat) (xs : List Nat) : packElems w xs = BitVec.ofNat 2048 (packNat w xs) := rfl
theorem packNat_lt (w : Nat) (xs : List Nat) : packNat w xs < 2 ^ (w * xs.length) := by
  induction xs with
  | nil => exact Nat.two_pow_pos _
  | cons x xs ih =>
    have first : x % 2 ^ w < 2 ^ w := Nat.mod_lt _ (Nat.two_pow_pos w)
    calc packNat w (x :: xs) = x % 2 ^ w + packNat w xs * 2 ^ w := rfl
      _ < (packNat w xs + 1) * 2 ^ w := by rw [Nat.add_mul]; omega
      _ ≤ 2 ^ (w * xs.length) * 2 ^ w := Nat.mul_le_mul_right _ ih
      _ = 2 ^ (w * (x :: xs).length) := by rw [← Nat.pow_add, List.length_cons, Nat.mul_add, Nat.mul_one]
theorem packNat_get (w : Nat) (xs : List Nat) {i : Nat} (hi : i < xs.length) : packNat w xs / 2 ^ (w * i) % 2 ^ w = xs[i] % 2 ^ w := by
  induction xs generalizing i with
  | nil => exact absurd hi (Nat.not_lt_zero i)
  | cons x xs ih =>
    have cons : packNat w (x :: xs) = x % 2 ^ w + packNat w xs * 2 ^ w := rfl
    cases i with
    | zero => rw [cons, Nat.mul_zero, Nat.pow_zero, Nat.div_one, Nat.add_mul_mod_self_right, Nat.mod_mod]; rfl
    | succ i =>
      have tail : (x % 2 ^ w + packNat w xs * 2 ^ w) / 2 ^ w = packNat w xs := by
        rw [Nat.add_mul_div_right _ _ (Nat.two_pow_pos w), Nat.div_eq_of_lt (Nat.mod_lt _ (Nat.two_pow_pos w)), Nat.zero_add]
      rw [cons, Nat.mul_succ, Nat.add_comm (w * i), Nat.pow_add, ← Nat.div_div_eq_div_mul, tail]
      exact ih (Nat.lt_of_succ_lt_succ hi)
theorem vel_packElems {w : Nat} {xs : List Nat} {i : Nat} (hi : i < xs.length) (hl : w * xs.length ≤ 2048) :
    vel w (packElems w xs) i = xs[i] % 2 ^ w := by
  have fits : packNat w xs < 2 ^ 2048 := Nat.lt_of_lt_of_le (packNat_lt w xs) (Nat.pow_le_pow_right (by decide) hl)
  rw [vel, packElems_eq, BitVec.toNat_ofNat, Nat.mod_eq_of_lt fits, packNat_get w xs hi]

/-- What an operation on elements leaves at each place: the operation where it is active, else what it held. -/
theorem vmap_vel (w : Nat) (act : Nat → Bool) (old : VecVal) (f : Nat → Elem) {i : Nat} (hi : i < 2048 / w) :
    ∃ v, (vmap w act old f).vd = some v ∧ vel w v i = if act i then (f i).1 % 2 ^ w else vel w old i := by
  refine ⟨_, rfl, ?_⟩
  rw [vel_packElems (by simpa using hi) (by simpa using Nat.mul_div_le 2048 w)]
  simp only [List.getElem_map, List.getElem_range]
  split
  · rfl
  · exact Nat.mod_eq_of_lt (vel_lt w old i)

/-! ### Bits of a packed mask (R225) -/

theorem testBit_packBits (bs : List Bool) (i : Nat) :
    (bs.foldr (fun (b : Bool) (acc : Nat) => (if b then 1 else 0) + 2 * acc) 0).testBit i = bs[i]?.getD false := by
  induction bs generalizing i with
  | nil => simp
  | cons b bs ih =>
    rw [List.foldr_cons]
    generalize bs.foldr (fun (b : Bool) (acc : Nat) => (if b then 1 else 0) + 2 * acc) 0 = n at ih
    cases i with
    | zero => cases b <;> simp [Nat.testBit_zero]
    | succ i =>
      have half : ((if b then 1 else 0) + 2 * n) / 2 = n := by split <;> omega
      rw [Nat.testBit_succ, half, ih]
      rfl
theorem vcompare_bit {w : Nat} (hw : 8 ≤ w) (act : Nat → Bool) (f : Nat → Bool × Flags) {i : Nat} (hi : i < 2048 / w) :
    ∃ k, (vcompare w act f).kd = some k ∧ k.getLsbD i = (act i && (f i).1) := by
  have few : 2048 / w ≤ 256 := Nat.div_le_of_le_mul (by omega)
  refine ⟨_, rfl, ?_⟩
  rw [packBits, BitVec.getLsbD_ofNat, decide_eq_true (by omega), Bool.true_and, testBit_packBits]
  simp only [List.map_map, List.getElem?_map, List.getElem?_range hi, Option.map_some, Option.getD_some, Function.comp]
  cases act i <;> rfl

/-! ### Integer operations without saturation wrap (R223) -/

theorem signedOf_congr (w x : Nat) : ∃ k : Int, signedOf w x = x + (2 ^ w : Nat) * k := by
  have whole : ((x % 2 ^ w : Nat) : Int) = x - (2 ^ w : Nat) * ((x / 2 ^ w : Nat) : Int) := by
    have := Nat.div_add_mod x (2 ^ w)
    rw [← Int.natCast_mul]
    omega
  unfold signedOf
  split
  · exact ⟨-((x / 2 ^ w : Nat) : Int), by rw [whole]; ring⟩
  · exact ⟨-((x / 2 ^ w : Nat) : Int) - 1, by rw [whole]; push_cast; ring⟩
theorem wrapInt_congr {w : Nat} {x : Int} {n : Nat} {k : Int} (h : x = n + (2 ^ w : Nat) * k) : wrapInt w x = n % 2 ^ w := by
  rw [wrapInt, h, Int.add_mul_emod_self_left, ← Int.natCast_emod, Int.toNat_natCast]
theorem intOp_add (w : Nat) (uns : Bool) (a b d : Nat) : intOp 0 w false uns a b d = (a + b) % 2 ^ w := by
  obtain ⟨k, hk⟩ := signedOf_congr w a
  obtain ⟨l, hl⟩ := signedOf_congr w b
  exact wrapInt_congr (k := k + l) (show signedOf w a + signedOf w b = _ by rw [hk, hl]; push_cast; ring)
theorem intOp_sub (w : Nat) (uns : Bool) (a d : Nat) {b : Nat} (hb : b < 2 ^ w) : intOp 1 w false uns a b d = (a + (2 ^ w - b)) % 2 ^ w := by
  obtain ⟨k, hk⟩ := signedOf_congr w a
  obtain ⟨l, hl⟩ := signedOf_congr w b
  exact wrapInt_congr (k := k - l - 1) (show signedOf w a - signedOf w b = _ by
    rw [hk, hl, Int.natCast_add, Int.ofNat_sub (Nat.le_of_lt hb)]; ring)

theorem bits_ge (z : EltSize) : 8 ≤ z.bits := by cases z <;> decide

/-- Settles O45: each form is a map over the elements, or a compare of them. -/
theorem vectorElementResults : Obligations.VectorElementResults := by
  intro x h vb i va old
  refine ⟨fun op t hop hi => ?_, fun z hi hs => ⟨fun hop => ?_, fun hop => ?_, fun hop => ?_, fun hop => ?_, fun hop => ?_⟩⟩
  · simp only [VEntry.compute, hop]
    exact vmap_vel _ _ _ _ hi
  · simp only [VEntry.compute, hop, entrySat, hs, intOp_add]
    obtain ⟨v, hv, e⟩ := vmap_vel z.bits (h.active x.km) old
      (fun i => ((vel z.bits va i + vel z.bits vb i) % 2 ^ z.bits, noFlags, none)) hi
    exact ⟨v, hv, by rw [e, Nat.mod_mod]⟩
  · have sub (i : Nat) := intOp_sub z.bits (entryUns x) (vel z.bits va i) (vel z.bits old i) (vel_lt z.bits vb i)
    simp only [VEntry.compute, hop, entrySat, hs]
    obtain ⟨v, hv, e⟩ := vmap_vel z.bits (h.active x.km) old
      (fun i => (intOp 1 z.bits false (entryUns x) (vel z.bits va i) (vel z.bits vb i) (vel z.bits old i), noFlags, none)) hi
    exact ⟨v, hv, by rw [e, sub, Nat.mod_mod]⟩
  · simp only [VEntry.compute, hop]
    obtain ⟨v, hv, e⟩ := vmap_vel z.bits (h.active x.km) old (fun i => (vel z.bits va i &&& vel z.bits vb i, noFlags, none)) hi
    exact ⟨v, hv, by rw [e, Nat.mod_eq_of_lt (Nat.and_lt_two_pow _ (vel_lt z.bits vb i))]⟩
  · simp only [VEntry.compute, hop]
    exact vcompare_bit (bits_ge z) _ _ hi
  · simp only [VEntry.compute, hop]
    obtain ⟨v, hv, e⟩ := vmap_vel z.bits (h.active x.km) old (fun _ => (vel z.bits va x.vb.val, noFlags, none)) hi
    exact ⟨v, hv, by rw [e, Nat.mod_eq_of_lt (vel_lt z.bits va _)]⟩

end Sys2Proof.Machine
end

section
/-! The vector stream: starts, bursts and bound traps (R216, R217, R219, R244, R484). -/

namespace Sys2Proof.Machine
open Sys2Proof

/-! ### A change of a tile's counters: what a start sees -/

section
variable {s : State} {t : Nat} {y : Tile} (ctxs : y.ctxs = (s.tile t).ctxs) (split : y.split = (s.tile t).split)
  (pids : ∀ i, (y.share i).pid = ((s.tile t).share i).pid)
include ctxs
theorem slotAt_setTile (c : Fin 8) : (s.setTile t y).slotAt t c = s.slotAt t c := by
  simp only [State.slotAt, Tile.ctx, tile_setTile, ctxs]
include split
theorem shareAt_setTile (c : Fin 8) : (s.setTile t y).shareAt t c = s.shareAt t c := by
  simp only [State.shareAt, slotAt_setTile ctxs, tile_setTile, split]
include pids
theorem streamRuns_setTile (c : Fin 8) : (s.setTile t y).streamRuns t c = s.streamRuns t c := by
  have frozen (i : Fin 3) : (s.setTile t y).frozenShare t i = s.frozenShare t i := by
    simp only [State.frozenShare, State.bay, State.part, State.pidAt, tile_setTile, pids, setTile_bays, setTile_parts, setTile_sys]
  simp only [State.streamRuns, slotAt_setTile ctxs, shareAt_setTile ctxs split, frozen]
end

theorem bay_modTile (s : State) (t b : Nat) (f : Tile → Tile) : (s.modTile t f).bay b = s.bay b := rfl
theorem share_modShare (x : Tile) (k j : Fin 3) (f : Share → Share) : (x.modShare k f).share j = if j = k then f (x.share k) else x.share j := by
  simp only [Tile.modShare, Tile.share, Vector.get_eq_getElem, Vector.getElem_set]
  by_cases h : j = k
  · rw [if_pos h, if_pos (by rw [h])]
  · rw [if_neg h, if_neg fun e => h (Fin.ext e.symm)]
/-- A start counts for the round robin, the deficits and the burst of its tile, and for nothing else (R216, R334, R244). -/
theorem vectorTurn_eq (s : State) (t : Nat) (c : Fin 8) (i : Fin 3) (tr : Bool) : ∃ y : Tile,
    ((s.vectorTurn t c).modTile t fun x => x.noteBurst i tr s.cycle) = s.setTile t y ∧ y.ctxs = (s.tile t).ctxs
    ∧ y.split = (s.tile t).split ∧ ∀ j, (y.share j).pid = ((s.tile t).share j).pid := by
  have burst (x : Tile) : (x.noteBurst i tr s.cycle).ctxs = x.ctxs ∧ (x.noteBurst i tr s.cycle).split = x.split
      ∧ ∀ j, ((x.noteBurst i tr s.cycle).share j) = x.share j := by
    unfold Tile.noteBurst
    repeat' split
    all_goals exact ⟨rfl, rfl, fun _ => rfl⟩
  have pidMod (x : Tile) (k : Fin 3) (v : Int) (j : Fin 3) : ((x.modShare k fun y => { y with vecD := v }).share j).pid = (x.share j).pid := by
    rw [share_modShare]
    split
    · next h => rw [h]
    · rfl
  have turn : ∃ y : Tile, s.vectorTurn t c = s.setTile t y ∧ y.ctxs = (s.tile t).ctxs ∧ y.split = (s.tile t).split
      ∧ ∀ j, (y.share j).pid = ((s.tile t).share j).pid := by
    unfold State.vectorTurn
    dsimp only
    split
    · exact ⟨_, rfl, rfl, rfl, fun j => (pidMod _ 1 _ j).trans (pidMod _ 0 _ j)⟩
    · exact ⟨_, rfl, rfl, rfl, fun _ => rfl⟩
  obtain ⟨y, e, ctxs, split, pids⟩ := turn
  obtain ⟨c1, s1, p1⟩ := burst y
  exact ⟨y.noteBurst i tr s.cycle, by rw [e, State.modTile, tile_setTile, setTile_setTile], c1.trans ctxs, s1.trans split,
    fun j => (congrArg Share.pid (p1 j)).trans (pids j)⟩

/-! ### Starts (R217) -/

/-- The operations whose effect is what they compute of the registers. -/
def VEntry.computes (x : VEntry) : Prop := x.vs = false ∧ ((∃ z op, x.op = .int op z ∨ x.op = .logic op z) ∨ ∃ op f, x.op = .fp op f)

theorem vectorBody_computes {x : VEntry} (h : x.computes) (s : State) :
    vectorBody x s = .ok ((), s.modHalf fun h => h.deliver x (x.compute h (h.v.get x.vb))) := by
  obtain ⟨scalar, ⟨z, op, hop | hop⟩ | ⟨op, f, hop⟩⟩ := h
  all_goals
    unfold vectorBody
    rw [hop]
    dsimp only
    rw [scalar]
    rfl

/-- The head entry of a stream that runs, and whose queues are ready, is performed and leaves the queue. -/
theorem vectorTry_delivers {s : State} {t : Nat} {c : Fin 8} {x : VEntry} {rest : List VEntry} (hq : (s.slotAt t c).half.vq = x :: rest)
    (hr : s.streamRuns t c = true) (ho : (s.slotAt t c).half.queuesReady x.queues = true) (hx : x.computes) :
    let h := (s.slotAt t c).half
    ∃ u, s.vectorTry t c = some u ∧ (u.slotAt t c).half = { h.deliver x (x.compute h (h.v.get x.vb)) with vq := rest } := by
  intro h
  have ready : ¬ (!(s.streamRuns t c && h.queuesReady x.queues)) = true := by rw [hr, ho]; exact Bool.false_ne_true
  let s0 : State := { s with cur := t, ctx := c }
  let u := (s0.modHalf fun h => h.deliver x (x.compute h (h.v.get x.vb))).modHalf fun h => { h with vq := rest }
  have run : (do vectorBody x; update fun s => s.modHalf fun h => { h with vq := rest } : Exec Unit) s0 = .ok ((), u) := by
    rw [bind_ok (vectorBody_computes hx s0)]
    rfl
  refine ⟨{ u with cur := s.cur, ctx := s.ctx }, ?_, ?_⟩
  · rw [State.vectorTry, hq]
    dsimp only
    rw [if_neg ready, run]
  · have half : u.half = { h.deliver x (x.compute h (h.v.get x.vb)) with vq := rest } := by
      refine (half_setHalf _ _).trans ?_
      rw [State.modHalf, half_setHalf]
      rfl
    exact half

theorem vectorStart_delivers {s : State} {t : Nat} {c : Fin 8} {x : VEntry} {rest : List VEntry} (hq : (s.slotAt t c).half.vq = x :: rest)
    (hb : s.needsBurst t c = false) (hp : s.vectorPick t = some c) (hr : s.streamRuns t c = true)
    (ho : (s.slotAt t c).half.queuesReady x.queues = true) (hx : x.computes) :
    let h := (s.slotAt t c).half
    ∃ u, s.vectorStart t c = some u ∧ (u.slotAt t c).half = { h.deliver x (x.compute h (h.v.get x.vb)) with vq := rest } := by
  intro h
  obtain ⟨y, e, ctxs, split, pids⟩ := vectorTurn_eq s t c (s.shareAt t c) (s.slotAt t c).headBurst
  have slot := slotAt_setTile ctxs c
  have start : s.vectorStart t c = (s.setTile t y).vectorTry t c := by
    rw [State.vectorStart, if_neg (by rw [hb]; exact Bool.false_ne_true), if_pos hp, ← e]
  obtain ⟨u, hu, half⟩ := vectorTry_delivers (s := s.setTile t y) (t := t) (c := c) (x := x) (rest := rest) (by rw [slot, hq])
    (by rw [streamRuns_setTile ctxs split pids, hr]) (by rw [slot, ho]) hx
  rw [slot] at half
  exact ⟨u, start.trans hu, half⟩

/-! ### Bursts and bound traps (R219, R244) -/

/-- A burst of no lender gives its token back to the bay (R244). -/
theorem burstEnd_eq {s : State} {t l : Nat} (hb : (s.tile t).burst = some l) (hl : l + 64 < s.cycle) (ha : (s.tile t).burstAct = 0) :
    s.burstEnd t = some ((s.modBay (bayOf t) fun b => b.give (s.tile t).burstRes 1).modTile t fun x =>
      { x with burst := none, burstRes := false, burstAct := 0 }) := by
  rw [State.burstEnd, hb, if_pos (show burstOver s.cycle (some l) = true from decide_eq_true hl), ha, State.burstToken, if_pos rfl]

theorem takeBoundTrap_eq {s : State} {t : Nat} {c : Fin 8} {b : Nat × Word} (hb : (s.slotAt t c).half.boundTrap = some b)
    (hl : (s.slotAt t c).phase = .live) (hw : (s.slotAt t c).wfrozen = false) (hf : s.frozenShare t (s.shareAt t c) = false)
    (hh : (s.slotAt t c).holds = false) :
    s.takeBoundTrap t c = some ((s.setSlotAt t c { s.slotAt t c with half := { (s.slotAt t c).half with boundTrap := none, vheld := true } }).takeTrapAt
      t c (s.slotAt t c).half.pc { code := 0x11, reason := b.1, faddr := b.2 }) := by
  rw [State.takeBoundTrap, hb]
  dsimp only
  rw [if_pos ⟨hl, by rw [hw]; rfl, by rw [hf]; rfl, by rw [hh]; rfl⟩]
theorem boundTrap_enterTrap (h : Half) (xpc : Word) (t : Trap) : (h.enterTrap xpc t).boundTrap = h.boundTrap := by
  simp only [Half.enterTrap, Half.record, Half.setTM, Half.setPP]
/-- A catchable trap is recorded, and leaves a bound trap as it was, whether it is caught or aborts (R388, R389). -/
theorem takeTrapAt_boundTrap (s : State) (tl : Nat) (c : Fin 8) (xpc : Word) {t : Trap} (h1 : ¬ t.code < 0x10) (h2 : t.code < 0x20) :
    let u := ((s.takeTrapAt tl c xpc t).slotAt tl c).half
    u.boundTrap = (s.slotAt tl c).half.boundTrap ∧ u.cause = causeWord t ∧ u.faddr = t.faddr := by
  dsimp only
  by_cases hc : (s.slotAt tl c).half.catches = true
  · rw [takeTrapAt_catches s xpc tl c h1 h2 hc]
    exact ⟨boundTrap_enterTrap _ _ _, rfl, rfl⟩
  · rw [takeTrapAt_aborts s xpc tl c h1 (by omega) fun _ => by simpa using hc]
    exact ⟨rfl, rfl, rfl⟩

/-- Settles O46. -/
theorem vectorStreamEvents : Obligations.VectorStreamEvents := by
  refine ⟨fun s t c x rest => ?_, fun s t l hb hl ha => ?_, fun s t c b hb hl hw hf hh => ?_⟩
  · intro h hq hb hp hr ho hs hop
    obtain ⟨u, hu, half⟩ := vectorStart_delivers hq hb hp hr ho ⟨hs, hop⟩
    exact ⟨u, (exec_vectorStart t c s).trans (event_some hu), half⟩
  · refine ⟨_, (exec_transcendentalBurstEnd t s).trans (event_some (burstEnd_eq hb hl ha)), ?_, ?_⟩
    · rw [State.modTile, tile_setTile]
    · rw [bay_modTile, bay_modBay]
  · refine ⟨_, (exec_boundTrap t c s).trans (event_some (takeBoundTrap_eq hb hl hw hf hh)), ?_⟩
    obtain ⟨bound, cause, faddr⟩ := takeTrapAt_boundTrap
      (s.setSlotAt t c { s.slotAt t c with half := { (s.slotAt t c).half with boundTrap := none, vheld := true } }) t c
      (s.slotAt t c).half.pc (t := { code := 0x11, reason := b.1, faddr := b.2 }) (show ¬ 0x11 < 0x10 by decide) (show 0x11 < 0x20 by decide)
    rw [slotAt_setSlotAt] at bound
    exact ⟨bound, cause, faddr⟩

end Sys2Proof.Machine
end

section
/-! done and flush, and the traps of done (R154, R315, R316, R389). -/

namespace Sys2Proof.Machine
open Sys2Proof

/-! ### A change of the running context that keeps its activation's number: what it leaves -/

section
variable {s : State} {x : Slot}
theorem share_setSlot (hx : x.seizing = s.slot.seizing) : (s.setSlot x).share = s.share := by
  change (s.setSlotAt s.cur s.ctx x).shareAt s.cur s.ctx = s.shareAt s.cur s.ctx
  unfold State.shareAt
  rw [slotAt_setSlotAt, tile_setSlotAt_split, hx]
  rfl
/-- The items of an activation stand in its share's out-buffer, by the activation's number. -/
theorem myItems_setSlot (hx : x.seizing = s.slot.seizing) (hid : x.act.id = s.act.id) : (s.setSlot x).myItems = s.myItems := by
  have shares : ((s.setSlot x).tile s.cur).shares = (s.tile s.cur).shares := tile_setSlotAt_shares s s.cur s.cur s.ctx x
  unfold State.myItems State.itemsOf
  rw [share_setSlot hx, State.act, slot_setSlot, hid]
  exact congrArg (fun v : Vector Share 3 => (v.get s.share).out.filter fun o => decide (o.act = s.act.id)) shares
end
theorem half_modAct (s : State) (f : Act → Act) : (s.modAct f).half = s.half := by rw [State.half, State.modAct, slot_setSlot]; rfl
theorem myItems_spent (s : State) : s.spent.myItems = s.myItems := myItems_setSlot rfl rfl
theorem myItems_commitUndo (s : State) : (commitUndo s).myItems = s.myItems := myItems_setSlot rfl rfl
theorem myItems_releaseAll (s : State) : s.releaseAll.myItems = s.myItems := myItems_setSlot rfl rfl

/-! ### The bits of the queues that hold entries (R389) -/

/-- A sum of rising powers of two has the bits of those that it takes. -/
theorem testBit_foldl_bits (p : Fin 8 → Prop) [DecidablePred p] (l : List (Fin 8)) (n : Nat) (hl : l.Pairwise (· < ·)) (hn : ∀ i ∈ l, n < 2 ^ i.val) (j : Nat) :
    (l.foldl (fun n i => if p i then n else n + 2 ^ i.val) n).testBit j = true ↔ n.testBit j = true ∨ ∃ i ∈ l, i.val = j ∧ ¬ p i := by
  induction l generalizing n with
  | nil => simp
  | cons i l ih =>
    obtain ⟨below, rest⟩ := List.pairwise_cons.mp hl
    have small : n < 2 ^ i.val := hn i List.mem_cons_self
    rw [List.foldl_cons]
    by_cases h : p i
    · rw [if_pos h, ih n rest fun k hk => hn k (List.mem_cons_of_mem _ hk)]
      simp [h]
    · have next : ∀ k ∈ l, n + 2 ^ i.val < 2 ^ k.val := fun k hk => by
        have := Nat.pow_le_pow_right (n := 2) (by decide) (below k hk : i.val + 1 ≤ k.val)
        rw [Nat.pow_succ] at this
        omega
      have bits : (n + 2 ^ i.val).testBit j = (decide (i.val = j) || n.testBit j) := by
        rw [Nat.add_comm, ← Nat.mul_one (2 ^ i.val), Nat.two_pow_add_eq_or_of_lt small, Nat.mul_one, Nat.testBit_or, Nat.testBit_two_pow]
      rw [if_neg h, ih _ rest next, bits]
      simp [h]
      tauto
theorem testBit_queueBits (h : Half) (j : Nat) : h.queueBits.testBit j = true ↔ ∃ k : Fin 8, k.val = j ∧ h.q.get k ≠ [] := by
  unfold Half.queueBits
  rw [testBit_foldl_bits (fun i => h.q.get i = []) _ 0 (List.pairwise_lt_finRange 8) fun i _ => Nat.two_pow_pos _]
  simp
theorem queueBits_eq_zero (h : Half) : h.queueBits = 0 ↔ ∀ i, h.q.get i = [] := by
  constructor
  · intro zero i
    by_contra some
    have := (testBit_queueBits h i.val).mpr ⟨i, rfl, some⟩
    rw [zero, Nat.zero_testBit] at this
    exact Bool.false_ne_true this
  · intro empty
    refine Nat.eq_of_testBit_eq fun j => ?_
    rw [Nat.zero_testBit, Bool.eq_false_iff, Ne, testBit_queueBits]
    rintro ⟨k, -, some⟩
    exact some (empty k)

/-! ### The release part (R315, R316) -/

section
variable {s : State}
/-- Without items the log is committed, and nothing is released. -/
theorem releaseOut_empty (h : (commitUndo s).myItems = []) : releaseOut s = .ok ((), commitUndo s) := by
  unfold releaseOut
  rw [bind_ok (update_run _ s), bind_ok (get_run _), if_neg (by simpa using h)]
  rfl
/-- With items, and nothing on its way that their release waits for, they are released. -/
theorem releaseOut_items (h : (commitUndo s).myItems ≠ []) (hv : s.half.vq = []) (hb : s.half.boundTrap = none)
    (hw : (commitUndo s).releaseStop true (if (commitUndo s).myItems.any fun o => o.kind.isHost then 4 else 3) = none)
    (hr : (commitUndo s).releasing = false) : releaseOut s = .ok ((), (commitUndo s).releaseAll.spent) := by
  have idle : (commitUndo s).vectorDone = true := by
    have half : (commitUndo s).half = s.half := half_modAct s _
    simp [State.vectorDone, half, hv, hb]
  unfold releaseOut
  rw [bind_ok (update_run _ s), bind_ok (get_run _), if_pos h, idle, hw]
  dsimp only
  rw [hr]
  rfl
end

/-! ### done -/

section
variable {s u : State} {n : Nat} (h : s.Ready { len := n }) (hv : s.half.vq = []) (hb : s.half.boundTrap = none)
include h hv hb

/-- done with an entry left in a queue. -/
theorem doneForm_queues (hq : s.half.queueBits ≠ 0) :
    doneForm n s = .next (s.takeTrap s.half.pc { code := 0x2A, faddr := BitVec.ofNat 64 s.half.queueBits }) := by
  refine issue_traps h ?_ rfl
  rw [bind_ok (vectorIdle_ok hv hb), bind_ok (get_run s), bind_error (check_stop (decide_eq_false hq) _ _ _ s)]

variable (hq : ∀ i, s.half.q.get i = []) (hm : s.mxPending s.cur s.act.id = false) (hx : s.transfersPending s.cur s.act.id = false)
include hq hm hx

/-- done with an error of its engine work. -/
theorem doneForm_engine {r : Nat} {f : Word} (he : s.act.engErr = some (r, f)) :
    doneForm n s = .next (s.takeTrap s.half.pc { code := 0x2B, reason := r, faddr := f }) := by
  refine issue_traps h ?_ rfl
  rw [bind_ok (vectorIdle_ok hv hb), bind_ok (get_run s), bind_ok (check_ok (decide_eq_true ((queueBits_eq_zero _).mpr hq)) _ _ _ s),
    bind_ok (waitUntil_ok (by rw [hm, hx]; rfl) _ s), he]
  rfl
/-- done whose work has ended: the release part, and the activation retires. -/
theorem doneForm_ends (he : s.act.engErr = none) (hr : releaseOut s = .ok ((), u)) :
    doneForm n s = .next ((u.setSlot { u.slot with phase := .retiring }).retire { len := n } .stay) := by
  refine issue_ok h ?_
  rw [bind_ok (vectorIdle_ok hv hb), bind_ok (get_run s), bind_ok (check_ok (decide_eq_true ((queueBits_eq_zero _).mpr hq)) _ _ _ s),
    bind_ok (waitUntil_ok (by rw [hm, hx]; rfl) _ s), he]
  refine (bind_ok hr).trans ?_
  rw [bind_ok (update_run _ u), pure_run]
end

/-! ### flush -/

section
variable {s : State} {n : Nat} (h : s.Ready { len := n })
include h
theorem flushForm_empty (hn : s.act.released = false) (hi : s.myItems = []) : flushForm n s = .next ((commitUndo s).spent.retire { len := n } .next) := by
  have none : (commitUndo s).myItems = [] := (myItems_commitUndo s).trans hi
  refine issue_ok h ?_
  rw [bind_ok (get_run s), if_neg (by rw [hn]; exact Bool.false_ne_true), bind_ok (releaseOut_empty none), bind_ok (get_run _), if_neg (by simpa using none)]
  rfl
theorem flushForm_items (hn : s.act.released = false) (hi : s.myItems ≠ []) {u : State} (hr : releaseOut s = .ok ((), u)) (hu : u.myItems = s.myItems) :
    flushForm n s = .next (u.setSlot { u.slot with waiting := true, waitOn := .other }) := by
  refine (issue_error (x := .waitIn .other fun _ => u) h ?_).trans (stopped_waitIn s n .other _)
  rw [bind_ok (get_run s), if_neg (by rw [hn]; exact Bool.false_ne_true), bind_ok hr, bind_ok (get_run u), if_pos (by rwa [hu])]
  rfl
/-- flush goes on once its items are injected. -/
theorem flushForm_released (hn : s.act.released = true) :
    flushForm n s = .next (if s.myItems = [] then (s.modAct fun a => { a with released := false }).spent.retire { len := n } .next
      else s.setSlot { s.slot with waiting := true, waitOn := .other }) := by
  by_cases hi : s.myItems = []
  · rw [if_pos hi]
    refine issue_ok h ?_
    rw [bind_ok (get_run s), if_pos hn, bind_ok (waitUntil_ok (decide_eq_true hi) _ s), bind_ok (update_run _ s)]
    rfl
  · rw [if_neg hi]
    refine (issue_error (x := .wait .other) h ?_).trans (stopped_wait s n .other)
    rw [bind_ok (get_run s), if_pos hn, decide_eq_false hi]
    rfl
end

/-- Settles O47: done and flush by their release part, which is empty or has nothing to wait for; the traps of done by the checks before it. -/
theorem doneAndFlush : Obligations.DoneAndFlush := by
  unfold Obligations.DoneAndFlush
  refine ⟨⟨fun s hv hb hq hm hx he => ⟨fun hi => ?_, fun hi hw hr => ?_⟩, fun s => ⟨fun hn hi => ?_, fun hn hi hv hb hw hr => ?_, fun hn => ?_⟩⟩,
    fun s h hv hb => ⟨fun ⟨i, hi⟩ => ?_, testBit_queueBits s.half, fun r f hq hm hx he => doneForm_engine h hv hb hq hm hx he⟩⟩
  · exact ⟨fun h => doneForm_ends h hv hb hq hm hx he (releaseOut_empty hi), fun h => doneForm_ends h hv hb hq hm hx he (releaseOut_empty hi)⟩
  · have out := releaseOut_items hi hv hb hw hr
    exact ⟨fun h => doneForm_ends h hv hb hq hm hx he out, fun h => doneForm_ends h hv hb hq hm hx he out⟩
  · exact ⟨fun h => flushForm_empty h hn hi, fun h => flushForm_empty h hn hi⟩
  · have same := myItems_commitUndo s
    have out := releaseOut_items (by rwa [same]) hv hb hw hr
    have items : (commitUndo s).releaseAll.spent.myItems = s.myItems := (myItems_spent _).trans ((myItems_releaseAll _).trans same)
    exact ⟨fun h => flushForm_items h hn hi out items, fun h => flushForm_items h hn hi out items⟩
  · exact ⟨fun h => flushForm_released h hn, fun h => flushForm_released h hn⟩
  · exact doneForm_queues h hv hb fun zero => hi ((queueBits_eq_zero _).mp zero i)

end Sys2Proof.Machine
end

section
/-! The events in the life of an activation (R303 to R318, R331, R335, R392). -/

namespace Sys2Proof.Machine
open Sys2Proof

/-! ### Message arrival (R305, R306, R318) -/

section
variable (s : State) (t : Nat) (m : Msg)
/-- A received message counts in its share, and changes nothing else. -/
theorem receive_cases : s.receive t m = s ∨ ∃ i, s.receive t m = s.modShareAt t i fun x => { x with received := x.received + 1 } := by
  unfold State.receive
  split
  · next i h => exact .inr ⟨i, rfl⟩
  · exact .inl rfl
theorem net_receive : (s.receive t m).net = s.net := by obtain h | ⟨i, h⟩ := receive_cases s t m <;> rw [h]; rfl
theorem inbox_receive : ((s.receive t m).tile t).inbox = (s.tile t).inbox := by
  obtain h | ⟨i, h⟩ := receive_cases s t m <;> rw [h]
  exact tile_modTile_view Tile.inbox s t t _ fun _ => rfl
theorem portQ_receive : ((s.receive t m).tile t).portQ = (s.tile t).portQ := by
  obtain h | ⟨i, h⟩ := receive_cases s t m <;> rw [h]
  exact tile_modTile_view Tile.portQ s t t _ fun _ => rfl
end
theorem tile_modTile (s : State) (t : Nat) (f : Tile → Tile) : (s.modTile t f).tile t = f (s.tile t) := tile_setTile s t _

section
variable {s : State} {n : Nat} {m : Msg} (hm : s.net[n]? = some m) (hb : pathBlocked s.net n m = false)
include hm hb

/-- A message that its tile's port thread performs. -/
theorem arrival_port (h : m.toPort = true) (hr : (m.isAnswer || decide ((s.tile m.dst).portQ.length < 16)) = true) :
    s.arrival n = some ((s.dropNet n).arrivePort m.dst m) := by
  unfold State.arrival
  rw [hm]
  dsimp only
  rw [hb, h, hr]
  rfl
/-- A message for the inbox of the image of a tile that is being restored. -/
theorem arrival_image (h : m.toPort = false) (hr : s.entryRoom m.dst m = true) (hi : s.intoImage m = true) :
    s.arrival n = some ((s.dropNet n).arriveImage m.dst m) := by
  unfold State.arrival
  rw [hm]
  dsimp only
  rw [hb, h, hr, hi]
  rfl
/-- A message for the inbox of its tile. -/
theorem arrival_inbox (h : m.toPort = false) (hr : s.inboxRoom m.dst m = true) (hi : s.intoImage m = false) (hn : (s.tile m.dst).inNet ≤ m.vnet) :
    s.arrival n = some (((s.dropNet n).arrive m.dst m).modTile m.dst fun x => { x with inNet := m.vnet + 1 }) := by
  have room : s.entryRoom m.dst m = true := by rw [State.entryRoom, hi]; exact hr
  unfold State.arrival
  rw [hm]
  dsimp only
  rw [hb, h, room, hi, if_pos hn]
  rfl

theorem messageArrival_inbox (h2 : m.kind ≠ 2) (h3 : m.kind ≠ 3) (h5 : m.kind ≠ 5) (hi : s.intoImage m = false) (hn : (s.tile m.dst).inNet ≤ m.vnet)
    (hr : s.inboxRoom m.dst m = true) (hc : (s.dropNet n).arrivalCheck m.dst m = .queue) :
    ∃ u, exec (.messageArrival n) s = .next u ∧ u.net = s.net.eraseIdx n
      ∧ (u.tile m.dst).inbox = (s.tile m.dst).inbox ++ [{ m with arrival := s.cycle }] := by
  have port : m.toPort = false := by simp [Msg.toPort, h2, h3, h5]
  have queued : (s.dropNet n).arrive m.dst m
      = ((s.dropNet n).receive m.dst m).modTile m.dst fun x => { x with inbox := x.inbox ++ [{ m with arrival := s.cycle }] } := by
    unfold State.arrive
    rw [hc]
    rfl
  refine ⟨_, (exec_messageArrival n s).trans (event_some (arrival_inbox hm hb port hr hi hn)), ?_, ?_⟩
  · rw [queued]
    exact net_receive _ _ _
  · rw [tile_modTile, queued, tile_modTile]
    exact congrArg (· ++ _) (inbox_receive (s.dropNet n) m.dst m)

theorem messageArrival_port (hl : (s.tile m.dst).portQ.length < 16) {o : PortOp}
    (ho : (m.kind = 2 ∧ m.remote = none ∧ o = .put m) ∨ (m.kind = 3 ∧ m.remote = none ∧ o = .arrive m)
      ∨ (m.kind = 5 ∧ m.isAnswer = false ∧ ∃ r, m.remote = some r ∧ o = .remote r)) :
    ∃ u, exec (.messageArrival n) s = .next u ∧ u.net = s.net.eraseIdx n ∧ (u.tile m.dst).portQ = (s.tile m.dst).portQ ++ [o] := by
  have port : m.toPort = true := by obtain ⟨h, -⟩ | ⟨h, -⟩ | ⟨h, -⟩ := ho <;> simp [Msg.toPort, h]
  refine ⟨_, (exec_messageArrival n s).trans (event_some (arrival_port hm hb port (by simp [hl]))), ?_⟩
  have received (q : PortOp) (hr : m.remote = none) (hq : (if m.kind = 2 then PortOp.put m else .arrive m) = q) :
      ((s.dropNet n).arrivePort m.dst m).net = s.net.eraseIdx n
      ∧ (((s.dropNet n).arrivePort m.dst m).tile m.dst).portQ = (s.tile m.dst).portQ ++ [q] := by
    unfold State.arrivePort
    rw [hr]
    dsimp only
    rw [hq, tile_modTile]
    exact ⟨net_receive _ _ _, congrArg (· ++ [q]) (portQ_receive (s.dropNet n) m.dst m)⟩
  obtain ⟨hk, hr, rfl⟩ | ⟨hk, hr, rfl⟩ | ⟨-, ha, r, hr, rfl⟩ := ho
  · exact received _ hr (if_pos hk)
  · exact received _ hr (if_neg (by omega))
  · unfold State.arrivePort
    rw [hr]
    dsimp only
    rw [ha, if_neg Bool.false_ne_true, tile_modTile]
    exact ⟨rfl, rfl⟩

theorem messageArrival_answer {r : RemoteOp} (h5 : m.kind = 5) (ha : m.isAnswer = true) (hr : m.remote = some r) :
    exec (.messageArrival n) s = .next ((s.dropNet n).answered r) := by
  have port : m.toPort = true := by simp [Msg.toPort, h5]
  have into : (s.dropNet n).arrivePort m.dst m = (s.dropNet n).answered r := by
    unfold State.arrivePort
    rw [hr]
    dsimp only
    rw [ha]
    rfl
  exact (exec_messageArrival n s).trans (event_some ((arrival_port hm hb port (by rw [ha]; rfl)).trans (congrArg some into)))

theorem messageArrival_image (h4 : m.kind ≤ 4) (h2 : m.kind ≠ 2) (h3 : m.kind ≠ 3) (hi : s.intoImage m = true) (hr : s.entryRoom m.dst m = true) :
    exec (.messageArrival n) s = .next ((s.dropNet n).arriveImage m.dst m) :=
  (exec_messageArrival n s).trans (event_some (arrival_image hm hb (by simp [Msg.toPort, h2, h3]; omega) hr hi))
end

/-! ### Binding (R307 to R309) -/

theorem binding_selected {s : State} {t : Nat} {it : RunItem} {c : Fin 8} {m : Msg} (h : s.select t = some (it, c))
    (hm : (s.tile t).inbox[it.pos]? = some m) :
    ∃ u, exec (.binding t c) s = .next u ∧ (u.slotAt t c).phase = .live ∧ (u.slotAt t c).act.tenant = m.tenant
      ∧ (u.slotAt t c).half.pc = BitVec.ofNat 64 (s.entryOf t it m).1 ∧ (u.slotAt t c).half.budget = BitVec.ofNat 64 (s.entryOf t it m).2
      ∧ (u.tile t).inbox = (s.tile t).inbox.eraseIdx it.pos := by
  have bound : ((s.select t).bind fun p => if p.2 = c then some (s.bind t p.1 c) else none) = some (s.bind t it c) := by
    rw [h, Option.bind_some, if_pos rfl]
  refine ⟨_, (exec_binding t c s).trans (event_some bound), ?_⟩
  unfold State.bind
  rw [hm]
  dsimp only
  have slot (s : State) (g : Tile → Tile) (k : Ctx) (x : Slot) (hg : (g (s.tile t)).ctx c = k.setSlot k.cur x) :
      (s.modTile t g).slotAt t c = x := by
    rw [State.slotAt, tile_modTile, hg, Ctx.setSlot_cur, Ctx.slot_setSlot]
  rw [slot _ _ _ _ (Tile.ctx_setCtx ..), tile_modTile]
  exact ⟨rfl, rfl, rfl, rfl, rfl⟩

/-! ### Which half of a context is the running one -/

/-- The half that a context runs in. -/
def State.side (s : State) (t : Nat) (c : Fin 8) : Bool := ((s.tile t).ctx c).cur

section
variable (t : Nat) (c : Fin 8)
theorem side_modTile (s : State) (u : Nat) (g : Tile → Tile) (hg : ∀ x, ((g x).ctx c).cur = (x.ctx c).cur) :
    (s.modTile u g).side t c = s.side t c := tile_modTile_view (fun x => (x.ctx c).cur) s u t g hg
theorem side_of_tiles {s u : State} (h : u.tiles = s.tiles) : u.side t c = s.side t c := by
  unfold State.side State.tile
  rw [h]
theorem side_onAct (s : State) (id : Nat) (f : Slot → Slot) : (s.onAct t id f).side t c = s.side t c :=
  side_modTile t c s t _ fun x => by simp [Tile.onAct, Tile.ctx, Vector.get_eq_getElem]
theorem side_transfers (s : State) (xs : List Transfer) : ({ s with transfers := xs } : State).side t c = s.side t c := rfl
theorem side_modBay (s : State) (b : Nat) (f : Bay → Bay) : (s.modBay b f).side t c = s.side t c := rfl
theorem side_dropHold (s : State) (i : Fin 3) (a : Act) : (s.dropHold t i a).side t c = s.side t c := by
  unfold State.dropHold
  dsimp only
  rw [side_onAct, side_modTile t c _ t, side_transfers, side_modTile t c _ t, side_modBay]
  · exact fun _ => rfl
  · exact fun _ => rfl
theorem side_cancelLeave (s : State) (act : Nat) : (s.cancelLeave t act).side t c = s.side t c := by
  unfold State.cancelLeave
  dsimp only
  rw [side_modTile t c _ t, side_modBay]
  exact fun _ => rfl
theorem side_chargeWear (s : State) (tenant cycles : Nat) : (s.chargeWear t c tenant cycles).side t c = s.side t c := by
  unfold State.chargeWear
  dsimp only
  rw [side_modTile t c _ t]
  · rfl
  · exact fun x => by rw [Tile.ctx_setCtx]
/-- After the end of an activation the half that held it is empty. -/
theorem endAct_clears (s : State) : (((s.endAct t c).tile t).ctx c).slot (s.side t c) = {} := by
  have side := ((side_chargeWear t c ((s.dropHold t (s.shareAt t c) (s.slotAt t c).act).cancelLeave t (s.slotAt t c).act.id)
    (s.slotAt t c).act.tenant (s.cycle - (s.slotAt t c).act.bound)).trans (side_cancelLeave t c _ _)).trans (side_dropHold t c s _ _)
  unfold State.endAct State.freeSlot
  rw [tile_modTile, ← side, Tile.ctx_setCtx]
  exact Ctx.slot_setSlot _ _ _
end

/-! ### Retirement (R315) -/

section
variable {s : State} {t : Nat} {c : Fin 8}

theorem doneRetire_of (hp : (s.slotAt t c).phase = .retiring) (hw : (s.slotAt t c).wfrozen = false) (hf : s.frozenShare t (s.shareAt t c) = false)
    (hh : s.injectHeld t (s.shareAt t c) (s.slotAt t c).act.id = false) :
    s.doneRetire t c = some ((s.injectNext t (s.shareAt t c) (s.slotAt t c).act.id).getD (s.endAct t c)) := by
  unfold State.doneRetire
  dsimp only
  rw [hf, hw, hp, hh, if_neg (by simp), if_pos rfl]
  cases s.injectNext t (s.shareAt t c) (s.slotAt t c).act.id <;> rfl
/-- No item of the activation is left: nothing is injected, and nothing waits for it. -/
theorem noItems {i : Fin 3} {act : Nat} (h : s.itemsOf t i act = []) : s.injectNext t i act = none ∧ s.injectHeld t i act = false := by
  have none : ∀ o ∈ ((s.tile t).share i).out, ¬ decide (o.act = act) = true := List.filter_eq_nil_iff.mp h
  constructor
  · unfold State.injectNext
    dsimp only
    rw [List.findIdx?_eq_none_iff.mpr fun o ho => Bool.eq_false_iff.mpr (none o ho)]
    rfl
  · unfold State.injectHeld
    rw [List.find?_eq_none.mpr none]
end

/-! ### Abort (R392) -/

section
variable {s : State} {t : Nat} {c : Fin 8} {tr : Trap} (hp : (s.slotAt t c).phase = .aborting) (ha : (s.slotAt t c).act.abort = some tr)
  (hf : s.frozenShare t (s.shareAt t c) = false)
include hp ha hf
theorem abort_begins (hs : (s.slotAt t c).act.abortStarted = false) : exec (.abort t c) s = .next (s.abortBegin t c) := by
  refine (exec_abort t c s).trans (event_some ?_)
  dsimp only
  rw [hp, ha]
  dsimp only
  rw [hf, hs]
  rfl
theorem abort_ends (hs : (s.slotAt t c).act.abortStarted = true) (hx : s.transfersPending t (s.slotAt t c).act.id = false)
    (hc : s.atomicPending t (s.slotAt t c).act.id = false) : exec (.abort t c) s = .next (s.abortEnd t c tr) := by
  refine (exec_abort t c s).trans (event_some ?_)
  dsimp only
  rw [hp, ha]
  dsimp only
  rw [hf, hs, hx, hc]
  rfl
end
theorem slotAt_abortBegin (s : State) (t : Nat) (c : Fin 8) : ((s.abortBegin t c).slotAt t c).act.abortStarted = true
    ∧ ((s.abortBegin t c).slotAt t c).half.vq = [] ∧ ((s.abortBegin t c).slotAt t c).half.loads = [] := by
  unfold State.abortBegin State.modSlotAt
  rw [slotAt_setSlotAt]
  exact ⟨rfl, rfl, rfl⟩
theorem tiles_post (s : State) (e : ErrEvent) : (s.post e).tiles = s.tiles := by rw [post_eq]
theorem tiles_undoOne (s : State) (u : UndoLine) : (s.undoOne u).tiles = s.tiles := by
  unfold State.undoOne State.mark
  dsimp only
  split <;> rfl
theorem tiles_undo (s : State) (us : List UndoLine) : (us.foldl State.undoOne s).tiles = s.tiles :=
  foldl_view State.tiles tiles_undoOne us s
theorem tiles_moveDead (s : State) (t : Nat) (i : Fin 3) (m : Msg) (reason cause : Nat) (faddr xpc : Word) :
    (s.moveDead t i m reason cause faddr xpc).tiles = s.tiles := by
  unfold State.moveDead State.moveDeadAt
  dsimp only
  split <;> rw [tiles_post] <;> exact modLaunchOf_tiles s _ _ _
theorem abortEnd_clears (s : State) (t : Nat) (c : Fin 8) (tr : Trap) : (((s.abortEnd t c tr).tile t).ctx c).slot (s.side t c) = {} := by
  have undone (e : ErrEvent) : (((s.slotAt t c).act.undo.foldl State.undoOne s).post e).side t c = s.side t c :=
    side_of_tiles t c ((tiles_post _ _).trans (tiles_undo _ _))
  unfold State.abortEnd
  dsimp only
  rw [← undone]
  split
  · rw [← side_modTile t c _ t fun y => { y with inbox := _ :: y.inbox }]
    · exact endAct_clears t c _
    · exact fun _ => rfl
  · rw [← side_of_tiles t c (tiles_moveDead _ _ _ _ _ _ _ _)]
    exact endAct_clears t c _
  · exact endAct_clears t c _

/-- Settles O48: the arrival by the kind of the message and where it enters, the binding by the selected item, retirement and abort by what is left
of the activation. -/
theorem activationEvents : Obligations.ActivationEvents := by
  unfold Obligations.ActivationEvents
  refine ⟨fun s n m hm hb => ⟨messageArrival_inbox hm hb, messageArrival_image hm hb, fun hl o ho => messageArrival_port hm hb hl ho,
      fun r => messageArrival_answer hm hb⟩, fun s t it c m => binding_selected, fun s t c hp hw hf => ⟨fun s1 hh hi => ?_, fun hi => ⟨?_, ?_⟩⟩,
    fun s t c tr hp ha hf => ⟨fun hs => ⟨_, abort_begins hp ha hf hs, slotAt_abortBegin s t c⟩, fun hs hx hc => ⟨abort_ends hp ha hf hs hx hc, ?_⟩⟩,
    fun s t c h0 hr => ?_, exec_illegalInstruction_traps⟩
  · exact (exec_doneRetire t c s).trans (event_some (by rw [doneRetire_of hp hw hf hh, hi, Option.getD_some]))
  · obtain ⟨next, held⟩ := noItems hi
    exact (exec_doneRetire t c s).trans (event_some (by rw [doneRetire_of hp hw hf held, next, Option.getD_none]))
  · exact endAct_clears t c s
  · exact abortEnd_clears s t c tr
  · exact (exec_budgetOverrun t c s).trans (event_some (if_pos ⟨h0, hr⟩))

end Sys2Proof.Machine
end

section
/-! What the computing forms leave unchanged (R33, R34, R45, R153, R182, R195 to R203). -/

namespace Sys2Proof.Machine
open Sys2Proof

/-! ### What a step inside the half leaves of it -/

/-- A half without the registers that an instruction names, the push registers, the flags and what goes on with every instruction. -/
def Half.bare (h : Half) : Half :=
  { h with
    g := Vector.replicate 40 0#64, n := Vector.replicate 8 0#64, npoison := 0#8, y := Vector.replicate 4 0#64, ypend := Vector.replicate 4 0,
    q := Vector.replicate 8 [], qwait := [], pc := 0#64, lastPc := 0#64, lpcnt := 0#64, lpbeg := 0#64, lpend := 0#64, fflags := 0#5,
    vheld := false, vparked := false }

/-- Between two halves only the queues read, the destinations and what `bare` leaves out differ. -/
def Half.holds (h u : Half) (srcs dsts : List Reg) : Prop :=
  (∀ i, .g i ∉ dsts → u.g.get i = h.g.get i)
  ∧ (∀ i, .n i ∉ dsts → u.n.get i = h.n.get i ∧ u.npoison.getLsbD i.val = h.npoison.getLsbD i.val)
  ∧ (∀ i, .q i ∉ srcs → .q i ∉ dsts → u.q.get i = h.q.get i)
  ∧ u.bare = h.bare

section
variable {h u w : Half} {srcs dsts srcs' dsts' : List Reg}

theorem Half.holds_mono (hh : h.holds u srcs dsts) (hs : srcs ⊆ srcs') (hd : dsts ⊆ dsts') : h.holds u srcs' dsts' := by
  obtain ⟨g, n, q, bare⟩ := hh
  exact ⟨fun i hi => g i fun m => hi (hd m), fun i hi => n i fun m => hi (hd m), fun i hi hi' => q i (fun m => hi (hs m)) fun m => hi' (hd m), bare⟩
theorem Half.holds_trans (h1 : h.holds u srcs dsts) (h2 : u.holds w srcs dsts) : h.holds w srcs dsts := by
  obtain ⟨g, n, q, bare⟩ := h1
  obtain ⟨g', n', q', bare'⟩ := h2
  exact ⟨fun i hi => (g' i hi).trans (g i hi), fun i hi => ⟨(n' i hi).1.trans (n i hi).1, (n' i hi).2.trans (n i hi).2⟩,
    fun i hi hi' => (q' i hi hi').trans (q i hi hi'), bare'.trans bare⟩
/-- A change of what no register names. -/
theorem Half.holds_of (hg : u.g = h.g) (hn : u.n = h.n) (hp : u.npoison = h.npoison) (hq : u.q = h.q) (hb : u.bare = h.bare) (srcs dsts : List Reg) :
    h.holds u srcs dsts :=
  ⟨fun _ _ => by rw [hg], fun _ _ => by rw [hn, hp]; exact ⟨rfl, rfl⟩, fun _ _ _ => by rw [hq], hb⟩
theorem Half.holds_refl (h : Half) (srcs dsts : List Reg) : h.holds h srcs dsts := Half.holds_of rfl rfl rfl rfl rfl srcs dsts
theorem get_set_ne {α : Type} {n : Nat} (v : Vector α n) {i j : Fin n} (x : α) (h : j ≠ i) : (v.set i.val x i.isLt).get j = v.get j := by
  simp only [Vector.get_eq_getElem, Vector.getElem_set]
  rw [if_neg fun e => h (Fin.ext e.symm)]
/-- Reading a register takes an entry from a queue at most. -/
theorem Half.holds_read (h : Half) (r : Reg) : h.holds (h.read r).2 [r] [] := by
  refine ⟨fun i _ => by rw [Half.read_g], fun i _ => by rw [Half.read_n, Half.read_npoison]; exact ⟨rfl, rfl⟩, fun i hi _ => ?_, by rw [Half.read_eq]; rfl⟩
  cases r with
  | q j =>
    have other : i ≠ j := fun e => hi (by rw [e]; exact List.mem_singleton_self _)
    unfold Half.read
    dsimp only
    split
    · exact get_set_ne _ _ other
    · rfl
  | _ => rfl
/-- Writing a register changes that register. -/
theorem Half.holds_write (h : Half) (d : Reg) (v : Word) : h.holds (h.write d v) [] [d] := by
  cases d with
  | g j => exact ⟨fun i hi => get_set_ne _ _ fun e => hi (by rw [e]; exact List.mem_singleton_self _), fun _ _ => ⟨rfl, rfl⟩, fun _ _ _ => rfl, rfl⟩
  | n j =>
    refine ⟨fun _ _ => rfl, fun i hi => ?_, fun _ _ _ => rfl, rfl⟩
    have other : i ≠ j := fun e => hi (by rw [e]; exact List.mem_singleton_self _)
    have apart : i.val ≠ j.val := fun e => other (Fin.ext e)
    refine ⟨get_set_ne _ _ other, ?_⟩
    simp only [Half.write, BitVec.getLsbD_and, BitVec.getLsbD_not, BitVec.getLsbD_shiftLeft, BitVec.getLsbD_one, i.isLt, decide_true, Bool.true_and]
    rcases Nat.lt_or_gt_of_ne apart with lt | gt
    · simp [lt]
    · simp [show ¬ i.val < j.val by omega, show ¬ i.val - j.val = 0 by omega]
  | q j => exact ⟨fun _ _ => rfl, fun _ _ => ⟨rfl, rfl⟩, fun i _ hi => get_set_ne _ _ fun e => hi (by rw [e]; exact List.mem_singleton_self _), rfl⟩
  | y _ | z | rsv _ => exact h.holds_refl [] _

theorem Half.advance_frame (h : Half) (n : Nat) (f : Flow) :
    ∃ pc lastPc lpcnt, h.advance n f = { h with pc := pc, lastPc := lastPc, lpcnt := lpcnt } := ⟨_, _, _, Half.advance_eq h n f⟩
/-- What holds until an instruction completes is kept when it has. -/
theorem Half.keeps_of_holds (hh : h.holds u srcs dsts) (n : Nat) (f : Flow) : h.keeps ((u.setPP false).goVector.advance n f) srcs dsts := by
  obtain ⟨g, regs, q, bare⟩ := hh
  obtain ⟨pc, lastPc, lpcnt, moved⟩ := (u.setPP false).goVector.advance_frame n f
  have same {α : Type} (p : Half → α) : p u.bare = p h.bare := congrArg p bare
  rw [moved]
  exact ⟨g, regs, q, same Half.e, same Half.v, same Half.k, same Half.h, same Half.vq, same Half.loads,
    congrArg (· &&& ~~~ statusPP) (same Half.status), same Half.cause, same Half.xpc, same Half.faddr, same Half.msgid, same Half.chan,
    same Half.budget, same Half.trapvec, same Half.tsave, same Half.tlpcnt, same Half.frnd, same Half.pfxsave, same Half.nanorg, same Half.boundTrap⟩
end

/-! ### A state that differs in the running half -/

/-- A state reached by changes of the running half that leave what `holds` says. -/
def State.reaches (s u : State) (srcs dsts : List Reg) : Prop := (u = s ∨ u = s.setHalf u.half) ∧ s.half.holds u.half srcs dsts

section
variable {s u : State} {srcs dsts : List Reg}

theorem reaches_refl (s : State) (srcs dsts : List Reg) : s.reaches s srcs dsts := ⟨.inl rfl, s.half.holds_refl srcs dsts⟩
theorem reaches_setHalf (hu : s.reaches u srcs dsts) {x : Half} (hx : u.half.holds x srcs dsts) : s.reaches (u.setHalf x) srcs dsts := by
  obtain ⟨same, holds⟩ := hu
  refine ⟨.inr ?_, by rw [half_setHalf]; exact Half.holds_trans holds hx⟩
  rw [half_setHalf]
  obtain same | same := same
  · rw [same]
  · rw [same, setHalf_setHalf]
theorem reaches_after (hu : s.reaches u srcs dsts) {r : Reg} (hr : r ∈ srcs) : s.reaches (u.after r) srcs dsts :=
  reaches_setHalf hu (Half.holds_mono (u.half.holds_read r) (by simpa using hr) (List.nil_subset _))
theorem reaches_give (hu : s.reaches u srcs dsts) {d : Reg} (hd : d ∈ dsts) (v : Word) : s.reaches (u.give d v) srcs dsts :=
  reaches_setHalf hu (Half.holds_trans (Half.holds_mono (u.half.holds_write d v) (List.nil_subset _) (by simpa using hd))
    (Half.holds_of rfl rfl rfl rfl rfl srcs dsts))
theorem reaches_flag (hu : s.reaches u srcs dsts) (f : Flags) : s.reaches (u.flag f) srcs dsts :=
  reaches_setHalf hu (Half.holds_of rfl rfl rfl rfl rfl srcs dsts)

variable {o : Op} {f : Flow}
/-- The completion of an instruction changes the running half, and that its context waits. -/
theorem onlyHalf_retire (hu : u = s ∨ u = s.setHalf u.half) (o : Op) (f : Flow) : s.onlyHalf (u.retire o f) := by
  have slot : u.retire o f = s.setSlot { s.slot with waiting := false, waitOn := .other, half := (u.retire o f).half } := by
    obtain rfl | same := hu
    · rw [half_retire]; rfl
    · generalize u.half = x at same
      subst same
      unfold State.retire
      rw [slot_setHalf, half_setHalf]
      unfold State.setHalf
      rw [setSlot_setSlot, State.half, slot_setSlot]
  refine ⟨fun k => ?_, slot⟩
  rw [slot]
  rfl
theorem half_retire_of (hp : o.isPfx = false) (hf : f ≠ .stay) : (u.retire o f).half = (u.half.setPP false).goVector.advance o.len f := by
  rw [half_retire, hp, if_neg Bool.false_ne_true, if_neg hf]
theorem next_ne_stay : Flow.next ≠ .stay := by simp
theorem half_retire_next (hp : o.isPfx = false) : (u.retire o .next).half = (u.half.setPP false).goVector.advance o.len .next :=
  half_retire_of hp next_ne_stay
theorem half_flag (u : State) (x : Flags) : (u.flag x).half = { u.half with fflags := u.half.fflags ||| x } := half_setHalf _ _
theorem regFrame_retire (hu : s.reaches u srcs dsts) (hp : o.isPfx = false) (hf : f ≠ .stay) :
    s.regFrame (u.retire o f) srcs dsts := by
  obtain ⟨same, holds⟩ := hu
  exact ⟨onlyHalf_retire same o f, by rw [half_retire_of hp hf]; exact Half.keeps_of_holds holds _ _⟩
end

/-! ### The shapes of the computing forms -/

/-- Two outcomes of one execution are one. -/
theorem next_eq {r : Host.Outcome State Fault Refusal} {t u : State} (hu : r = .next u) (ht : r = .next t) : u = t := by
  rw [hu] at ht
  injection ht

/-- The frame of an instruction that leaves the flags alone too. -/
def State.valueFrame (s t : State) (srcs dsts : List Reg) : Prop := s.regFrame t srcs dsts ∧ t.half.fflags = s.half.fflags

section
variable {s t u : State} {b a d : Reg} {o : Op} {v : Word} {f : Flow} {srcs dsts : List Reg}

theorem valueFrame_retire (hu : s.reaches u srcs dsts) (hf : u.half.fflags = s.half.fflags) (ht : u.retire o f = t) (hp : o.isPfx = false)
    (hn : f ≠ .stay) : s.valueFrame t srcs dsts := by
  subst ht
  exact ⟨regFrame_retire hu hp hn, by rw [half_retire_of hp hn]; simp [hf]⟩
theorem reaches_two (s : State) (a b : Reg) (dsts : List Reg) : s.reaches ((s.after a).after b) [a, b] dsts :=
  reaches_after (reaches_after (reaches_refl s _ _) (by simp)) (by simp)
theorem reaches_one (s : State) (a : Reg) (dsts : List Reg) : s.reaches (s.after a) [a] dsts := reaches_after (reaches_refl s _ _) (by simp)

/-- A form that reads two operands and gives a value. -/
theorem frame_two (ht : (((s.after a).after b).give d v).retire o f = t) (hp : o.isPfx = false) (hn : f ≠ .stay) :
    s.valueFrame t [a, b] [d] :=
  valueFrame_retire (reaches_give (reaches_two s a b [d]) (List.mem_singleton_self d) v) (by simp) ht hp hn
/-- A form that reads one. -/
theorem frame_one (ht : ((s.after a).give d v).retire o f = t) (hp : o.isPfx = false) (hn : f ≠ .stay) :
    s.valueFrame t [a] [d] :=
  valueFrame_retire (reaches_give (reaches_one s a [d]) (List.mem_singleton_self d) v) (by simp) ht hp hn
/-- A form that takes no entry from a queue. -/
theorem frame_none (ht : (s.give d v).retire o f = t) (srcs : List Reg) (hp : o.isPfx = false) (hn : f ≠ .stay) :
    s.valueFrame t srcs [d] :=
  valueFrame_retire (reaches_give (reaches_refl s srcs [d]) (List.mem_singleton_self d) v) (by simp) ht hp hn
end

/-! ### The integer forms (R196 to R201) -/

section
variable {s t : State} {b a d : Reg}

theorem binary_frame {i : Reg → Reg → Reg → Instr} {g : Word → Word → Word} (arm : ∀ b a d s, exec (i b a d) s = binary b a d g s)
    (h : s.Ready (opAB b a d)) (ht : exec (i b a d) s = .next t) : s.valueFrame t [a, b] [d] :=
  frame_two (next_eq ((arm b a d s).trans (binary_ready h g)) ht) rfl next_ne_stay
theorem unary_frame {i : Reg → Reg → Instr} {g : Word → Word} (arm : ∀ a d s, exec (i a d) s = unary a d g s)
    (h : s.Ready (opA a d)) (ht : exec (i a d) s = .next t) : s.valueFrame t [a] [d] :=
  frame_one (next_eq ((arm a d s).trans (unary_ready h g)) ht) rfl next_ne_stay
theorem compactBinary_frame {i : CReg → CReg → Instr} {g : Word → Word → Word} (arm : ∀ b d s, exec (i b d) s = compactBinary b d g s)
    {b d : CReg} (h : s.Ready (opCC b d)) (ht : exec (i b d) s = .next t) : s.valueFrame t [d.dst, b.src] [d.dst] :=
  frame_two (next_eq ((arm b d s).trans (compactBinary_ready h g)) ht) rfl next_ne_stay
theorem compactUnary_frame {i : BitVec 6 → CReg → Instr} {g : BitVec 6 → Word → Word} (arm : ∀ m d s, exec (i m d) s = compactUnary d (g m) s)
    {m : BitVec 6} {d : CReg} (h : s.Ready (opCI d)) (ht : exec (i m d) s = .next t) : s.valueFrame t [d.dst] [d.dst] :=
  frame_one (next_eq ((arm m d s).trans (compactUnary_ready h (g m))) ht) rfl next_ne_stay
theorem division_frame {i : Reg → Reg → Reg → Instr} {g : Word → Word → Word} (arm : ∀ b a d s, exec (i b a d) s = division b a d g s)
    (h : s.Ready (opAB b a d)) (hz : s.half.dzt = false) (ht : exec (i b a d) s = .next t) : s.valueFrame t [a, b] [d] :=
  frame_two (next_eq ((arm b a d s).trans (division_ready h g (.inr hz))) ht) rfl next_ne_stay
end

/-! ### The trap of a division (R198, R389) -/

/-- A trap that is caught or aborts leaves all but what it writes. -/
theorem trapFrame_takeTrap {s : State} {pc : Word} {tr : Trap} (h16 : 16 ≤ tr.code) (h48 : tr.code < 48) : s.trapFrame (s.takeTrap pc tr) := by
  unfold State.takeTrap State.takeTrapAt
  dsimp only
  rw [if_neg (by omega)]
  have set (x : Slot) (hx : x.half = { s.half with
      cause := x.half.cause, xpc := x.half.xpc, faddr := x.half.faddr, status := x.half.status, tsave := x.half.tsave, tlpcnt := x.half.tlpcnt,
      lpcnt := x.half.lpcnt, lastPc := x.half.lastPc, pc := x.half.pc }) : s.trapFrame (s.setSlot x) :=
    ⟨fun _ => rfl, by rw [slot_setSlot], by rw [State.half, slot_setSlot]; exact hx⟩
  split
  · split
    · exact set _ (Half.enterTrap_eq _ _ _)
    · exact set _ rfl
  · exact set _ rfl

/-! ### Scalar floating point (R182, R202 to R205) -/

section
variable {s t : State} {b a d : Reg}

theorem fpBinary_frame {i : Reg → Reg → Reg → Instr} {g : RMode → Nat → Nat → Nat × Flags} (hi : YieldsFp2 i g)
    (h : s.Ready { opAB b a d with pfx := onlyRnd }) (ht : exec (i b a d) s = .next t) : s.regFrame t [a, b] [d] := by
  rw [← next_eq (hi s b a d h) ht]
  exact regFrame_retire (reaches_give (reaches_flag (reaches_two s a b [d]) _) (List.mem_singleton_self d) _) rfl next_ne_stay
theorem fpFused_frame {i : Reg → Reg → Reg → Instr} {g : RMode → Nat → Nat → Nat → Nat × Flags} (hi : YieldsFp3 i g)
    (h : s.Ready { srcs := [d, a, b], dsts := [d], pfx := onlyRnd, badCode := !d.dstGN }) (ht : exec (i b a d) s = .next t) :
    s.regFrame t [d, a, b] [d] := by
  rw [← next_eq (hi s b a d h) ht]
  exact regFrame_retire (reaches_give (reaches_flag (reaches_after (reaches_after (reaches_refl s _ _) (by simp)) (by simp)) _) (by simp) _) rfl next_ne_stay
theorem fpUnary_frame {i : Reg → Reg → Instr} {g : RMode → Word → Nat × Flags} (hi : YieldsFp1 i g)
    (h : s.Ready { opA a d with pfx := onlyRnd }) (ht : exec (i a d) s = .next t) : s.regFrame t [a] [d] := by
  rw [← next_eq (hi s a d h) ht]
  exact regFrame_retire (reaches_give (reaches_flag (reaches_one s a [d]) _) (List.mem_singleton_self d) _) rfl next_ne_stay
/-- The forms that raise no flag. -/
theorem fpQuiet_frame {i : Reg → Reg → Instr} {g : Word → Nat} (hi : YieldsFp1 i fun _ x => (g x, 0#5))
    (h : s.Ready { opA a d with pfx := onlyRnd }) (ht : exec (i a d) s = .next t) : s.valueFrame t [a] [d] := by
  refine ⟨fpUnary_frame hi h ht, ?_⟩
  rw [← next_eq (hi s a d h) ht, half_retire_next (o := opA a d) rfl]
  have kept (u : State) : (u.flag 0#5).half.fflags = u.half.fflags := by
    rw [half_flag]
    exact BitVec.or_zero
  simp [kept]
end

/-! ### The forms of the obligation, by their shape -/

section
variable (s t : State) (b a d : Reg)

theorem integerTwo_frames (h : s.Ready (opAB b a d)) :
    ∀ i ∈ [Instr.add, .sub, .and, .or, .xor, .andn, .orn, .sll, .srl, .sra, .slt, .sltn, .min, .max, .minn, .maxn, .mul, .mulh, .mulhn,
        .addw, .subw, .sllw, .srlw, .sraw, .mulw], exec (i b a d) s = .next t → s.valueFrame t [a, b] [d] := by
  simp only [List.forall_mem_cons]
  exact ⟨binary_frame exec_add h, binary_frame exec_sub h, binary_frame exec_and h, binary_frame exec_or h, binary_frame exec_xor h,
    binary_frame exec_andn h, binary_frame exec_orn h, binary_frame exec_sll h, binary_frame exec_srl h, binary_frame exec_sra h,
    binary_frame exec_slt h, binary_frame exec_sltn h, binary_frame exec_min h, binary_frame exec_max h, binary_frame exec_minn h,
    binary_frame exec_maxn h, binary_frame exec_mul h, binary_frame exec_mulh h, binary_frame exec_mulhn h, binary_frame exec_addw h,
    binary_frame exec_subw h, binary_frame exec_sllw h, binary_frame exec_srlw h, binary_frame exec_sraw h, binary_frame exec_mulw h, List.forall_mem_nil _⟩
theorem division_frames (h : s.Ready (opAB b a d)) (hz : s.half.dzt = false) :
    ∀ i ∈ [Instr.div, .divn, .rem, .remn], exec (i b a d) s = .next t → s.valueFrame t [a, b] [d] := by
  simp only [List.forall_mem_cons]
  exact ⟨division_frame exec_div h hz, division_frame exec_divn h hz, division_frame exec_rem h hz, division_frame exec_remn h hz, List.forall_mem_nil _⟩
theorem divisionTrap_frames (h : s.Ready (opAB b a d)) (hd : s.half.dzt = true) (hz : (s.after a).val b = 0#64) :
    ∀ i ∈ [Instr.div, .divn, .rem, .remn], exec (i b a d) s = .next t → s.trapFrame t := by
  have traps {i : Reg → Reg → Reg → Instr} {g : Word → Word → Word} (arm : ∀ b a d s, exec (i b a d) s = division b a d g s)
      (ht : exec (i b a d) s = .next t) : s.trapFrame t := by
    rw [← next_eq ((arm b a d s).trans (division_traps h g hz hd)) ht]
    exact trapFrame_takeTrap (show 16 ≤ 19 by decide) (show 19 < 48 by decide)
  simp only [List.forall_mem_cons]
  exact ⟨traps exec_div, traps exec_divn, traps exec_rem, traps exec_remn, List.forall_mem_nil _⟩
theorem integerOne_frames (h : s.Ready (opA a d)) :
    (∀ i ∈ [Instr.clz, .ctz, .popc, .bswap], exec (i a d) s = .next t → s.valueFrame t [a] [d])
    ∧ (∀ m, ∀ i ∈ [Instr.addi, .andi, .ori, .xori, .slti], exec (i m a d) s = .next t → s.valueFrame t [a] [d])
    ∧ (∀ n, ∀ i ∈ [Instr.slli, .srli, .srai, .rori, .slliw, .srliw, .sraiw, .roriw], exec (i n a d) s = .next t → s.valueFrame t [a] [d]) := by
  simp only [List.forall_mem_cons]
  exact ⟨⟨unary_frame exec_clz h, unary_frame exec_ctz h, unary_frame exec_popc h, unary_frame exec_bswap h, List.forall_mem_nil _⟩,
    fun m => ⟨unary_frame (exec_addi m) h, unary_frame (exec_andi m) h, unary_frame (exec_ori m) h, unary_frame (exec_xori m) h,
      unary_frame (exec_slti m) h, List.forall_mem_nil _⟩,
    fun n => ⟨unary_frame (exec_slli n) h, unary_frame (exec_srli n) h, unary_frame (exec_srai n) h, unary_frame (exec_rori n) h,
      unary_frame (exec_slliw n) h, unary_frame (exec_srliw n) h, unary_frame (exec_sraiw n) h, unary_frame (exec_roriw n) h, List.forall_mem_nil _⟩⟩
theorem lix_frames (m : BitVec 18) :
    (s.Ready { dsts := [d] } → exec (.lix m d) s = .next t → s.valueFrame t [] [d])
    ∧ (s.Ready { srcs := [d], dsts := [d], badCode := !d.dstGN } → exec (.lixs m d) s = .next t → s.valueFrame t [d] [d]) :=
  ⟨fun h ht => frame_none (next_eq ((exec_lix m d s).trans (issueValue_ok h rfl)) ht) [] rfl next_ne_stay,
    fun h ht => frame_none (next_eq (exec_lixs_ready m h) ht) [d] rfl next_ne_stay⟩
theorem compactTwo_frames {b d : CReg} (h : s.Ready (opCC b d)) :
    ∀ i ∈ [Instr.compactAdd, .compactSub, .compactAnd, .compactOr, .compactXor, .compactSll, .compactSrl, .compactSra, .compactMul],
      exec (i b d) s = .next t → s.valueFrame t [d.dst, b.src] [d.dst] := by
  simp only [List.forall_mem_cons]
  exact ⟨compactBinary_frame exec_compactAdd h, compactBinary_frame exec_compactSub h, compactBinary_frame exec_compactAnd h,
    compactBinary_frame exec_compactOr h, compactBinary_frame exec_compactXor h, compactBinary_frame exec_compactSll h,
    compactBinary_frame exec_compactSrl h, compactBinary_frame exec_compactSra h, compactBinary_frame exec_compactMul h, List.forall_mem_nil _⟩
theorem compactOne_frames {m : BitVec 6} {d : CReg} (h : s.Ready (opCI d)) :
    ∀ i ∈ [Instr.compactAddi, .compactAndi, .compactSlli, .compactSrli, .compactSrai], exec (i m d) s = .next t → s.valueFrame t [d.dst] [d.dst] := by
  simp only [List.forall_mem_cons]
  exact ⟨compactUnary_frame exec_compactAddi h, compactUnary_frame exec_compactAndi h, compactUnary_frame exec_compactSlli h,
    compactUnary_frame exec_compactSrli h, compactUnary_frame exec_compactSrai h, List.forall_mem_nil _⟩
theorem compactMove_frame {b d : CReg} (h : s.Ready { srcs := [b.src], dsts := [d.dst], len := 2 }) (ht : exec (.compactMove b d) s = .next t) :
    s.valueFrame t [b.src] [d.dst] := frame_one (next_eq ((exec_compactMove b d s).trans (issueValue_ok h rfl)) ht) rfl next_ne_stay
theorem compactLix_frame {m : BitVec 6} {d : CReg} (h : s.Ready { dsts := [d.dst], len := 2 }) (ht : exec (.compactLix m d) s = .next t) :
    s.valueFrame t [] [d.dst] := frame_none (next_eq ((exec_compactLix m d s).trans (issueValue_ok h rfl)) ht) [] rfl next_ne_stay

theorem fpTwo_frames (h : s.Ready { opAB b a d with pfx := onlyRnd }) :
    ∀ i ∈ [Instr.fadd, .fsub, .fmul, .fdiv, .fmin, .fmax, .feq, .flt, .fle], exec (i b a d) s = .next t → s.regFrame t [a, b] [d] := by
  simp only [List.forall_mem_cons]
  exact ⟨fpBinary_frame (yieldsFp2_of_fpBinary exec_fadd) h, fpBinary_frame (yieldsFp2_of_fpBinary exec_fsub) h,
    fpBinary_frame (yieldsFp2_of_fpBinary exec_fmul) h, fpBinary_frame (yieldsFp2_of_fpBinary exec_fdiv) h,
    fpBinary_frame (yieldsFp2_of_fpBinary exec_fmin) h, fpBinary_frame (yieldsFp2_of_fpBinary exec_fmax) h,
    fpBinary_frame (yieldsFp2_of_fpBinary exec_feq) h, fpBinary_frame (yieldsFp2_of_fpBinary exec_flt) h,
    fpBinary_frame (yieldsFp2_of_fpBinary exec_fle) h, List.forall_mem_nil _⟩
theorem fpThree_frames (h : s.Ready { srcs := [d, a, b], dsts := [d], pfx := onlyRnd, badCode := !d.dstGN }) :
    ∀ i ∈ [Instr.fmadd, .fmsub, .fnmadd], exec (i b a d) s = .next t → s.regFrame t [d, a, b] [d] := by
  simp only [List.forall_mem_cons]
  exact ⟨fpFused_frame (yieldsFp3_of_fpFused exec_fmadd) h, fpFused_frame (yieldsFp3_of_fpFused exec_fmsub) h,
    fpFused_frame (yieldsFp3_of_fpFused exec_fnmadd) h, List.forall_mem_nil _⟩
theorem fpOne_frames (h : s.Ready { opA a d with pfx := onlyRnd }) :
    (∀ i ∈ [Instr.fsqrt, .fcvtI64F32, .fcvtN64F32, .fcvtI32F32, .fcvtN32F32, .fcvtF32I64, .fcvtF32N64, .fcvtF32Bf16, .fcvtF32F16],
      exec (i a d) s = .next t → s.regFrame t [a] [d])
    ∧ (∀ i ∈ [Instr.fclass, .fneg, .fabs], exec (i a d) s = .next t → s.valueFrame t [a] [d]) := by
  simp only [List.forall_mem_cons]
  exact ⟨⟨fpUnary_frame (yieldsFp1_of_fpUnary exec_fsqrt) h, fpUnary_frame (yieldsFp1_of_fpUnary exec_fcvtI64F32) h,
      fpUnary_frame (yieldsFp1_of_fpUnary exec_fcvtN64F32) h, fpUnary_frame (yieldsFp1_of_fpUnary exec_fcvtI32F32) h,
      fpUnary_frame (yieldsFp1_of_fpUnary exec_fcvtN32F32) h, fpUnary_frame (yieldsFp1_of_fpUnary exec_fcvtF32I64) h,
      fpUnary_frame (yieldsFp1_of_fpUnary exec_fcvtF32N64) h, fpUnary_frame (yieldsFp1_of_fpUnary exec_fcvtF32Bf16) h,
      fpUnary_frame (yieldsFp1_of_fpUnary exec_fcvtF32F16) h, List.forall_mem_nil _⟩,
    fpQuiet_frame (yieldsFp1_of_fpUnary exec_fclass) h, fpQuiet_frame (yieldsFp1_of_fpUnary exec_fneg) h,
    fpQuiet_frame (yieldsFp1_of_fpUnary exec_fabs) h, List.forall_mem_nil _⟩

end

/-- Giving a value writes its destination. -/
theorem Half.holds_give (h : Half) (d : Reg) (v : Word) : h.holds ((h.write d v).push v) [] [d] :=
  Half.holds_trans (h.holds_write d v) (Half.holds_of rfl rfl rfl rfl rfl [] [d])
theorem Half.read_setNanorg (h : Half) (n : Word) (r : Reg) : ({ h with nanorg := n }.read r).2 = { (h.read r).2 with nanorg := n } := by
  cases r with
  | q i =>
    unfold Half.read
    dsimp only
    split <;> rfl
  | _ => rfl
theorem Half.keeps_setNanorg {h u : Half} {n : Word} {srcs dsts : List Reg} (hk : Half.keeps { h with nanorg := n } u srcs dsts) :
    h.keeps { u with nanorg := h.nanorg } srcs dsts := by
  obtain ⟨g, n, q, e, v, k, h, vq, loads, status, cause, xpc, faddr, msgid, chan, budget, trapvec, tsave, tlpcnt, frnd, pfxsave, -, boundTrap⟩ := hk
  exact ⟨g, n, q, e, v, k, h, vq, loads, status, cause, xpc, faddr, msgid, chan, budget, trapvec, tsave, tlpcnt, frnd, pfxsave, rfl, boundTrap⟩
theorem half_noteNaN (u : State) (x : Option Nat) : ∃ n, (u.noteNaN x).half = { u.half with nanorg := n } := by
  rw [State.noteNaN, State.modHalf, half_setHalf]
  unfold Half.recordNaN
  split
  · split
    · exact ⟨_, rfl⟩
    · exact ⟨_, rfl⟩
  · exact ⟨_, rfl⟩

section
variable {s t : State} {base a d : Reg}

/-- A narrowing conversion may record its NaN in nanorg too (R188). -/
theorem fpNarrow_frame {i : Instr} {o : Op} {x : Option Nat} {f : Flags} {v : Word} (ho : o.isPfx = false)
    (hi : exec i s = .next (((((s.after a).noteNaN x).flag f).give d v).retire o .next)) (ht : exec i s = .next t) :
    s.onlyHalf t ∧ s.half.keeps { t.half with nanorg := s.half.nanorg } [a] [d] := by
  rw [← next_eq hi ht]
  obtain ⟨n, noted⟩ := half_noteNaN (s.after a) x
  constructor
  · refine onlyHalf_retire (.inr ?_) o .next
    rw [half_give, give_eq, State.flag, State.noteNaN, State.modHalf, State.modHalf, after_eq]
    simp only [setHalf_setHalf]
  · have read : Half.holds { s.half with nanorg := n } ((s.after a).noteNaN x).half [a] [d] := by
      rw [noted, half_after, ← Half.read_setNanorg]
      exact Half.holds_mono (Half.holds_read _ a) (fun _ m => m) (List.nil_subset _)
    have flagged := Half.holds_trans read (Half.holds_of (u := (((s.after a).noteNaN x).flag f).half) (by rw [half_flag]) (by rw [half_flag])
      (by rw [half_flag]) (by rw [half_flag]) (by rw [half_flag]; rfl) [a] [d])
    rw [half_retire_next ho, half_give]
    exact Half.keeps_setNanorg (Half.keeps_of_holds (Half.holds_trans flagged
      (Half.holds_mono (Half.holds_give _ d v) (List.nil_subset _) fun _ m => m)) _ _)

/-- A load corrects the soft errors of the words it reads, and gives their value. -/
theorem load_frame {i : Instr} {o : Op} {v : Word} {ea n : Nat} (ho : o.isPfx = false)
    (hi : exec i s = .next ((((s.after base).reads ea n).give d v).retire o .next)) (ht : exec i s = .next t) :
    ((s.after base).reads ea n).onlyHalf t ∧ (∀ k, t.mem.get k = s.mem.get k) ∧ s.half.keeps t.half [base] [d] ∧ t.half.fflags = s.half.fflags := by
  rw [← next_eq hi ht]
  have only := onlyHalf_retire (reaches_give (reaches_refl ((s.after base).reads ea n) [] [d]) (List.mem_singleton_self d) v).1 o .next
  have holds : s.half.holds (((s.after base).reads ea n).give d v).half [base] [d] := by
    rw [half_give, half_reads, half_after]
    exact Half.holds_trans (Half.holds_mono (s.half.holds_read base) (fun _ m => m) (List.nil_subset _))
      (Half.holds_mono (Half.holds_give _ d v) (List.nil_subset _) fun _ m => m)
  refine ⟨only, fun k => ?_, ?_, ?_⟩
  · rw [only.1 k, mem_reads]
    rfl
  · rw [half_retire_next ho]
    exact Half.keeps_of_holds holds _ _
  · rw [half_retire_next ho]
    simp
end

/-- Settles O57: each form reads its operands and gives a value, a change of the running half alone. -/
theorem registerFrames : Obligations.RegisterFrames := by
  unfold Obligations.RegisterFrames
  refine ⟨fun s t b a d h => ⟨integerTwo_frames s t b a d h, fun i hi hz => division_frames s t b a d h hz i hi,
      fun i hi hd hz => divisionTrap_frames s t b a d h hd hz i hi⟩, fun s t a d h => integerOne_frames s t a d h, fun s t b a d h => fpTwo_frames s t b a d h,
    fun s t b a d h => fpThree_frames s t b a d h, fun s t a d h => ⟨(fpOne_frames s t a d h).1, (fpOne_frames s t a d h).2, ?narrow⟩, fun s t m d => lix_frames s t d m,
    fun s t b d h => compactTwo_frames s t h, fun s t m b d => ⟨compactMove_frame s t, compactLix_frame s t, compactOne_frames s t⟩, ?load⟩
  case narrow =>
    simp only [List.forall_mem_cons]
    exact ⟨fpNarrow_frame rfl ((exec_fcvtBf16F32 a d s).trans (fpNarrow_ready h rfl)),
      fpNarrow_frame rfl ((exec_fcvtF16F32 a d s).trans (fpNarrow_ready h rfl)), List.forall_mem_nil _⟩
  case load => exact fun s t off y base d h hw hr => load_frame rfl ((exec_ld off y base d s).trans (loadOwn_ready h hw hr))

end Sys2Proof.Machine
end

section
/-! What the storing forms leave unchanged (R118, R120, R126, R168). -/

namespace Sys2Proof.Machine
open Sys2Proof

/-! ### The keys of a range of the own window: what they depend on -/

/-- The running context stands in the same share of a tile of the same mode, over the same memory. -/
def State.sameWindow (s u : State) : Prop :=
  u.cur = s.cur ∧ u.share = s.share ∧ (∀ t, (u.tile t).split = (s.tile t).split) ∧ u.mem = s.mem

section
variable {s u v : State}
theorem sameWindow_trans (h1 : s.sameWindow u) (h2 : u.sameWindow v) : s.sameWindow v := by
  obtain ⟨cur, share, split, mem⟩ := h1
  obtain ⟨cur', share', split', mem'⟩ := h2
  exact ⟨cur'.trans cur, share'.trans share, fun t => (split' t).trans (split t), mem'.trans mem⟩
theorem sameWindow_setSlot (s : State) {x : Slot} (hx : x.seizing = s.slot.seizing) : s.sameWindow (s.setSlot x) :=
  ⟨rfl, share_setSlot hx, fun t => tile_setSlotAt_split s s.cur t s.ctx x, rfl⟩
theorem sameWindow_setHalf (s : State) (x : Half) : s.sameWindow (s.setHalf x) := sameWindow_setSlot s rfl
theorem sameWindow_sense (s : State) (ks : List Nat) : s.sameWindow (s.sense ks) := by
  rw [sense_eq]
  exact ⟨rfl, rfl, fun _ => rfl, rfl⟩
theorem sameWindow_logs {ea n : Nat} (h : s.logs ea n u) : s.sameWindow u := by
  obtain rfl | ⟨ks, undo, rfl⟩ := logs_cases h
  · exact ⟨rfl, rfl, fun _ => rfl, rfl⟩
  · have slot : (s.sense ks).slot = s.slot := by rw [sense_eq]; rfl
    exact sameWindow_trans (sameWindow_sense s ks) (sameWindow_setSlot _ (by rw [slot]; rfl))
theorem sameWindow_of_reaches {srcs dsts : List Reg} (h : s.reaches u srcs dsts) : s.sameWindow u := by
  obtain ⟨rfl | same, -⟩ := h
  · exact ⟨rfl, rfl, fun _ => rfl, rfl⟩
  · rw [same]
    exact sameWindow_setHalf s _
theorem winKeys_of_sameWindow (h : s.sameWindow u) (ea n : Nat) : u.winKeys u.cur u.share ea n = s.winKeys s.cur s.share ea n := by
  obtain ⟨cur, share, split, -⟩ := h
  unfold State.winKeys State.spad State.physOf
  rw [cur, share, split]
/-- A store in the own window leaves every other byte as it was. -/
theorem get_storeAt_outside (hs : s.Safe) (h : s.sameWindow u) {ea : Nat} {bs : List Byte} {k : Nat} (hk : k ∉ s.winKeys s.cur s.share ea bs.length) :
    (u.storeAt ea bs).mem.get k = s.mem.get k := by
  have mem : u.mem = s.mem := h.2.2.2
  have outside : k ∉ u.winKeys u.cur u.share ea bs.length := by rwa [winKeys_of_sameWindow h]
  rw [State.storeAt, get_writeWin_outside (by rwa [mem]) _ _ _ _ outside, mem]
end

/-! ### The stores (R118, R120, R168) -/

/-- The frame of a store of n bytes at ea that reads these operands. -/
def State.storeFrame (s t : State) (ea n : Nat) (srcs : List Reg) : Prop :=
  (∀ k, k ∉ s.winKeys s.cur s.share ea n → t.mem.get k = s.mem.get k)
  ∧ s.half.keeps t.half srcs [] ∧ t.half.fflags = s.half.fflags ∧ t.half.y = s.half.y

section
variable {s v u t : State} {ea n : Nat} {srcs : List Reg} {bs : List Byte} {i : Instr} {o : Op}

theorem storeFrame_of (hs : s.Safe) (hv : s.reaches v srcs []) (hf : v.half.fflags = s.half.fflags) (hy : v.half.y = s.half.y)
    (hl : v.logs ea n u) (hb : bs.length = n) (hi : exec i s = .next ((u.storeAt ea bs).retire o .next)) (ht : exec i s = .next t)
    (ho : o.isPfx = false) : s.storeFrame t ea n srcs := by
  have half : (u.storeAt ea bs).half = v.half := (half_storeAt u ea bs).trans (half_logs hl)
  rw [← next_eq hi ht]
  refine ⟨fun k hk => ?_, ?_, ?_, ?_⟩
  · exact get_storeAt_outside hs (sameWindow_trans (sameWindow_of_reaches hv) (sameWindow_logs hl)) (by rwa [hb])
  · rw [half_retire_next ho, half]
    exact Half.keeps_of_holds hv.2 _ _
  · rw [half_retire_next ho, half]
    simp [hf]
  · rw [half_retire_next ho, half]
    simp [hy]
end

/-! ### Atomics in the own window (R126) -/

theorem mem_completed (x : State) (g : Flags) (d : Reg) (v : Word) (o : Op) (f : Flow) : (((x.flag g).give d v).ordered.retire o f).mem = x.mem := rfl

/-- An atomic that raises no flag writes its word, and its destination alone. -/
theorem amo_frame {i : Reg → Reg → Reg → Instr} {n : Nat} {f : AmoRule} (hi : AmoOwn i n f) (hf : ∀ old v c, (f old v c).2.2 = 0#5)
    {s u t : State} {b a d : Reg} {ea : Nat} (hs : s.Safe) (h : s.Ready (opAB b a d)) (ha : addrWord (s.val a) = .loc ea)
    (hw : ((s.after a).after b).inWindow s.cur ea n .store) (hm : ea % n = 0) (hl : ((s.after a).after b).logs ea n u) (hr : u.readable ea n)
    (ht : exec (i b a d) s = .next t) :
    (∀ k, k ∉ s.winKeys s.cur s.share ea n → t.mem.get k = s.mem.get k) ∧ s.half.keeps t.half [a, b] [d] ∧ t.half.fflags = s.half.fflags := by
  have out := hi s u b a d ea h ha hw hm hl hr
  rw [hf] at out
  rw [← next_eq out ht]
  have reached := reaches_two s a b [d]
  have window : s.sameWindow (u.reads ea n) :=
    sameWindow_trans (sameWindow_of_reaches reached) (sameWindow_trans (sameWindow_logs hl) (sameWindow_sense u _))
  have half (bs : List Byte) : ((u.reads ea n).storeAt ea bs).half = ((s.after a).after b).half := by
    rw [half_storeAt, half_reads, half_logs hl]
  have flags (x : State) : (x.flag 0#5).half = x.half := by
    rw [half_flag, BitVec.or_zero]
  refine ⟨fun k hk => ?_, ?_, ?_⟩
  · rw [mem_completed]
    exact get_storeAt_outside hs window (by rwa [leBytes_length])
  · rw [half_retire_next rfl, half_ordered, half_give, flags, half]
    refine Half.keeps_of_holds (Half.holds_trans reached.2 (Half.holds_mono (Half.holds_give _ d _) (List.nil_subset _) fun _ m => m)) _ _
  · rw [half_retire_next rfl, half_ordered, half_give, flags, half]
    simp

/-- The ten atomics on integers raise no flag. -/
theorem amoInteger_own (w : AmoWidth) : ∀ i ∈ [Instr.amoSwap, .amoAdd, .amoAnd, .amoOr, .amoXor, .amoMaxI, .amoMinI, .amoMaxN, .amoMinN, .amoCas],
    ∃ f, AmoOwn (i w) (match w with | .w32 => 4 | .w64 => 8) f ∧ ∀ old v c, (f old v c).2.2 = 0#5 := by
  have own {i : AmoWidth → Reg → Reg → Reg → Instr} {op : Nat} {sgn : Bool} {g : ∀ w, BitVec w → BitVec w → BitVec w → BitVec w}
      (h : AmoUniform i op sgn g) : ∃ f, AmoOwn (i w) (match w with | .w32 => 4 | .w64 => 8) f ∧ ∀ old v c, (f old v c).2.2 = 0#5 := by
    obtain ⟨⟨own32, -, -⟩, own64, -, -⟩ := h
    cases w with
    | w32 => exact ⟨_, own32, fun _ _ _ => rfl⟩
    | w64 => exact ⟨_, own64, fun _ _ _ => rfl⟩
  obtain ⟨swap, add, and, or, xor, maxI, minI, maxN, minN, cas, -⟩ := atomicResults
  simp only [List.forall_mem_cons]
  exact ⟨own swap, own add, own and, own or, own xor, own maxI, own minI, own maxN, own minN, own cas, nofun⟩

/-- Settles O58: each form writes the bytes of its range after its lines are logged, and changes its half by what it reads and gives. -/
theorem storeFrames : Obligations.StoreFrames := by
  unfold Obligations.StoreFrames
  refine ⟨?store, ?compact, ?atomic, ?shape⟩
  case store =>
    intro s u t off y base r hs h s2 ea hw hc hl ht
    exact storeFrame_of hs (reaches_two s r base []) (by simp) (by simp) hl (leBytes_length _ _)
      ((exec_st off y base r s).trans (storeOwnForm_ready h hw hc hl)) ht rfl
  case compact =>
    rintro s u t off b r n i hs h (⟨rfl, rfl⟩ | ⟨rfl, rfl⟩) s2 ea hw hc hl ht
    · exact storeFrame_of hs (reaches_two s r.src b.src []) (by simp) (by simp) hl (leBytes_length _ _)
        ((exec_compactStI64 off b r s).trans (storeOwnForm_ready (t := .i64) h hw hc hl)) ht rfl
    · exact storeFrame_of hs (reaches_two s r.src b.src []) (by simp) (by simp) hl (leBytes_length _ _)
        ((exec_compactStI32 off b r s).trans (storeOwnForm_ready (t := .i32) h hw hc hl)) ht rfl
  case atomic =>
    intro s u t w b a d ea hs h ha s2 n hw hm hl hr i hi ht
    obtain ⟨f, own, flags⟩ := amoInteger_own w i hi
    exact amo_frame own flags hs h ha hw hm hl hr ht
  case shape =>
    intro s u t n b hs h s1 ea hm hw hc hl ht
    exact storeFrame_of hs (reaches_one s b []) (by simp) (by simp) hl (leBytes_length _ _)
      ((exec_shpSt n b s).trans (shpSt_ready h hm n hw hc hl)) ht rfl

end Sys2Proof.Machine
end

section
/-! What control, sending, engine, extension, shape and control register forms leave unchanged (R44, R167, R168, R206 to R211, R255, R276, R319,
R324, R403 to R407). -/

namespace Sys2Proof.Machine
open Sys2Proof

theorem jump_ne_stay {pc : Word} : Flow.jump pc ≠ .stay := by simp

/-! ### Control (R44, R206 to R211) -/

section
variable {s t u : State} {o : Op} {f : Flow} {srcs : List Reg} {a b d : Reg}

theorem quietFrame_retire (hu : s.reaches u srcs []) (hf : u.half.fflags = s.half.fflags) (hy : u.half.y = s.half.y)
    (hp : u.half.ypend = s.half.ypend) (ht : u.retire o f = t) (ho : o.isPfx = false) (hn : f ≠ .stay) : s.quietFrame t srcs := by
  subst ht
  refine ⟨regFrame_retire hu ho hn, ?_, ?_, ?_⟩ <;> rw [half_retire_of ho hn] <;> simp [hf, hy, hp]
theorem quietFrame_two (ht : ((s.after a).after b).retire o f = t) (ho : o.isPfx = false) (hn : f ≠ .stay) :
    s.quietFrame t [a, b] := quietFrame_retire (reaches_two s a b []) (by simp) (by simp) (by simp) ht ho hn
theorem quietFrame_one (ht : (s.after a).retire o f = t) (ho : o.isPfx = false) (hn : f ≠ .stay) :
    s.quietFrame t [a] := quietFrame_retire (reaches_one s a []) (by simp) (by simp) (by simp) ht ho hn
theorem quietFrame_none (ht : s.retire o f = t) (ho : o.isPfx = false) (hn : f ≠ .stay) : s.quietFrame t [] :=
  quietFrame_retire (reaches_refl s [] []) rfl rfl rfl ht ho hn
/-- An instruction that does not write the loop registers leaves the body of the loop. -/
theorem loop_retire (hb : u.half.lpbeg = s.half.lpbeg) (he : u.half.lpend = s.half.lpend) (ht : u.retire o f = t) (ho : o.isPfx = false)
    (hn : f ≠ .stay) : t.half.lpbeg = s.half.lpbeg ∧ t.half.lpend = s.half.lpend := by
  subst ht
  rw [half_retire_of ho hn]
  simp [hb, he]
end

/-- The frame of a branch. -/
def State.branchFrame (s t : State) (srcs : List Reg) : Prop := s.quietFrame t srcs ∧ t.half.lpbeg = s.half.lpbeg ∧ t.half.lpend = s.half.lpend

theorem branch_frame {i : BitVec 12 → Reg → Reg → Instr} {cond : Word → Word → Prop} (hi : BranchesOn i cond) {s t : State} {m : BitVec 12} {b a : Reg}
    (h : s.Ready { srcs := [a, b] }) (ht : exec (i m b a) s = .next t) : s.branchFrame t [a, b] := by
  obtain ⟨taken, not⟩ := hi s m b a h
  have framed {f : Flow} (e : ((s.after a).after b).retire { srcs := [a, b] } f = t) (hn : f ≠ .stay) : s.branchFrame t [a, b] :=
    ⟨quietFrame_two e rfl hn, loop_retire (by simp) (by simp) e rfl hn⟩
  by_cases hc : cond (s.val a) ((s.after a).val b)
  · exact framed (next_eq (taken hc) ht) nofun
  · exact framed (next_eq (not hc) ht) nofun
theorem branch_frames {s t : State} {m : BitVec 12} {b a : Reg} (h : s.Ready { srcs := [a, b] }) :
    ∀ i ∈ [Instr.bEq, .bNe, .bLt, .bGe, .bLtn, .bGen], exec (i m b a) s = .next t → s.branchFrame t [a, b] := by
  obtain ⟨⟨eq, ne, lt, ge, ltn, gen, -⟩, -⟩ := controlFlowResults
  simp only [List.forall_mem_cons]
  exact ⟨branch_frame eq h, branch_frame ne h, branch_frame lt h, branch_frame ge h, branch_frame ltn h, branch_frame gen h, List.forall_mem_nil _⟩
theorem compactBranch_frames {s t : State} {m : BitVec 6} {a : CReg} (h : s.Ready { srcs := [a.src], len := 2 }) :
    ∀ i ∈ [Instr.compactBEq, .compactBNe], exec (i m a) s = .next t → s.branchFrame t [a.src] := by
  obtain ⟨⟨-, -, -, -, -, -, both⟩, -⟩ := controlFlowResults
  obtain ⟨eq, ne⟩ := both s m a h
  have framed {i : Instr} {f : Flow} (hn : f ≠ .stay) (e : exec i s = .next ((s.after a.src).retire { srcs := [a.src], len := 2 } f))
      (ht : exec i s = .next t) : s.branchFrame t [a.src] :=
    ⟨quietFrame_one (next_eq e ht) rfl hn, loop_retire (by simp) (by simp) (next_eq e ht) rfl hn⟩
  simp only [List.forall_mem_cons]
  refine ⟨framed ?_ eq, framed ?_ ne, nofun⟩ <;> split <;> nofun

section
variable {s t : State} {a d : Reg}
theorem jump_frames (m : BitVec 24) (n : BitVec 10) :
    (s.Ready {} → ∀ i ∈ [Instr.j m, .nop], exec i s = .next t → s.quietFrame t [])
    ∧ (s.Ready { len := 2 } → ∀ i ∈ [Instr.compactJ n, .compactNop], exec i s = .next t → s.quietFrame t [])
    ∧ (s.Ready { dsts := [.g 39] } → exec (.jal m) s = .next t → s.valueFrame t [] [.g 39]) := by
  obtain ⟨-, j, compactJ, jal, -, -, -, -, nop, compactNop, -⟩ := controlFlowResults
  simp only [List.forall_mem_cons]
  refine ⟨fun h => ⟨fun ht => ?_, fun ht => ?_, List.forall_mem_nil _⟩, fun h => ⟨fun ht => ?_, fun ht => ?_, List.forall_mem_nil _⟩, fun h ht => ?_⟩
  · exact quietFrame_none (next_eq (j s m h) ht) rfl jump_ne_stay
  · exact quietFrame_none (next_eq (nop s h) ht) rfl next_ne_stay
  · exact quietFrame_none (next_eq (compactJ s n h) ht) rfl jump_ne_stay
  · exact quietFrame_none (next_eq (compactNop s h) ht) rfl next_ne_stay
  · exact frame_none (next_eq (jal s m h) ht) [] rfl jump_ne_stay
theorem jumpReg_frames :
    ((s.val a).getLsbD 0 = false → (s.Ready { srcs := [a] } → exec (.jr a) s = .next t → s.quietFrame t [a])
      ∧ (s.Ready (opA a d) → exec (.jalr a d) s = .next t → s.valueFrame t [a] [d]))
    ∧ ((s.val (.g 39)).getLsbD 0 = false → s.Ready { srcs := [.g 39], len := 2 } → exec .compactJrLk s = .next t → s.quietFrame t [.g 39])
    ∧ (s.Ready { dsts := [d] } → exec (.pca d) s = .next t → s.valueFrame t [] [d]) := by
  obtain ⟨-, -, -, -, jr, jrLk, jalr, pca, -⟩ := controlFlowResults
  exact ⟨fun even => ⟨fun h ht => quietFrame_one (next_eq (jr s a h even) ht) rfl jump_ne_stay,
      fun h ht => frame_one (next_eq (jalr s a d h even) ht) rfl jump_ne_stay⟩,
    fun even h ht => quietFrame_one (next_eq (jrLk s h even) ht) rfl jump_ne_stay,
    fun h ht => frame_none (next_eq (pca s d h) ht) [] rfl next_ne_stay⟩
/-- The loop registers are no operands. -/
theorem reaches_loop {u : State} {srcs dsts : List Reg} (hu : s.reaches u srcs dsts) (b e c : Word) :
    s.reaches (u.modHalf fun h => { h with lpbeg := b, lpend := e, lpcnt := c }) srcs dsts :=
  reaches_setHalf hu (Half.holds_of rfl rfl rfl rfl rfl srcs dsts)
/-- lp writes the loop registers alone. -/
theorem lp_frame {len : BitVec 12} (h : s.Ready { srcs := [a] }) (hl : len ≠ 0#12) (hc : s.half.lpcnt = 0#64) (ht : exec (.lp len a) s = .next t) :
    s.quietFrame t [a] := by
  obtain ⟨lp, -⟩ := loopResults
  obtain ⟨skips, begins⟩ := lp s len a h hl hc
  by_cases zero : s.val a = 0#64
  · exact quietFrame_one (next_eq (skips zero) ht) rfl jump_ne_stay
  · have begun := next_eq (begins zero) ht
    refine quietFrame_retire (reaches_loop (reaches_one s a []) _ _ _) ?_ ?_ ?_ begun rfl next_ne_stay <;> simp [State.modHalf]
/-- In sequence, an instruction moves the program counter and counts the loop. -/
theorem Half.advance_next_frame (h : Half) (n : Nat) :
    ∃ pc lpcnt, h.advance n .next = { h with pc := pc, lpcnt := lpcnt, lastPc := h.pc } := by
  unfold Half.advance
  dsimp only
  split
  · split
    · exact ⟨_, _, rfl⟩
    · exact ⟨_, _, rfl⟩
  · exact ⟨_, _, rfl⟩
theorem pfx_frame {f : BitVec 4} {r : BitVec 3} {x : Bool} {g : BitVec 2} (h : s.Ready { len := 2, isPfx := true })
    (ht : exec (.pfx f r x g) s = .next t) : s.onlyHalf t ∧ t.half = { s.half with
      status := s.half.status ||| 1#64, pfxsave := t.half.pfxsave, pc := t.half.pc, lpcnt := t.half.lpcnt, lastPc := s.half.pc, vheld := false } := by
  obtain ⟨-, -, -, -, -, -, -, -, -, -, pfx⟩ := controlFlowResults
  rw [← next_eq (pfx s f r x g h) ht]
  refine ⟨onlyHalf_retire (.inr ?_) _ _, ?_⟩
  · rw [State.modHalf, half_setHalf]
  · rw [half_retire, if_pos rfl, State.modHalf, half_setHalf]
    generalize hu : Half.goVector _ = u
    obtain ⟨pc, lpcnt, moved⟩ := u.advance_next_frame 2
    rw [moved, ← hu]
    rfl
end

end Sys2Proof.Machine
end

section
/-! What sending, engine, extension, shape and control register forms leave unchanged (R167, R168, R255, R276, R319, R324, R403 to R407). -/

namespace Sys2Proof.Machine
open Sys2Proof

/-! ### Everything but the running context and what is said of its tile -/

/-- The same context runs, over the same memory, networks, other tiles, and other contexts of the tile. -/
def State.besides (s u : State) : Prop :=
  u.cur = s.cur ∧ u.ctx = s.ctx ∧ u.mem = s.mem ∧ u.net = s.net ∧ u.transfers = s.transfers ∧ (∀ x, x ≠ s.cur → u.tile x = s.tile x)
  ∧ ∀ c, c ≠ s.ctx → (u.tile s.cur).ctx c = (s.tile s.cur).ctx c

section
variable {s u v : State}

theorem besides_refl (s : State) : s.besides s := ⟨rfl, rfl, rfl, rfl, rfl, fun _ _ => rfl, fun _ _ => rfl⟩
theorem besides_trans (h1 : s.besides u) (h2 : u.besides v) : s.besides v := by
  obtain ⟨cur, ctx, mem, net, transfers, tiles, ctxs⟩ := h1
  obtain ⟨cur', ctx', mem', net', transfers', tiles', ctxs'⟩ := h2
  rw [cur] at tiles' ctxs'
  rw [ctx] at ctxs'
  exact ⟨cur'.trans cur, ctx'.trans ctx, mem'.trans mem, net'.trans net, transfers'.trans transfers, fun x hx => (tiles' x hx).trans (tiles x hx),
    fun c hc => (ctxs' c hc).trans (ctxs c hc)⟩
/-- A change of the running tile that leaves the other contexts. -/
theorem besides_modTile (s : State) (f : Tile → Tile) (hf : ∀ x c, c ≠ s.ctx → (f x).ctx c = x.ctx c) : s.besides (s.modTile s.cur f) :=
  ⟨rfl, rfl, rfl, rfl, rfl, fun _ hx => tile_setTile_ne _ _ hx.symm, fun c hc => by rw [tile_modTile]; exact hf _ c hc⟩
theorem besides_setSlot (s : State) (x : Slot) : s.besides (s.setSlot x) := besides_modTile s _ fun _ _ hc => Tile.ctx_setCtx_ne _ _ hc.symm
theorem besides_sense (s : State) (ks : List Nat) : s.besides (s.sense ks) := by
  rw [sense_eq]
  exact besides_refl _
theorem besides_retire (s : State) (o : Op) (f : Flow) : s.besides (s.retire o f) := besides_setSlot s _
theorem besides_of_reaches {srcs dsts : List Reg} (h : s.reaches u srcs dsts) : s.besides u := by
  obtain ⟨rfl | same, -⟩ := h
  · exact besides_refl _
  · rw [same]
    exact besides_setSlot s _

/-- The shares and the engines of the running tile, and the share of the running context, are the same. -/
def State.sameParts (s u : State) : Prop :=
  u.share = s.share ∧ (u.tile s.cur).shares = (s.tile s.cur).shares ∧ (u.tile s.cur).engines = (s.tile s.cur).engines

theorem sameParts_refl (s : State) : s.sameParts s := ⟨rfl, rfl, rfl⟩
theorem sameParts_trans (hc : u.cur = s.cur) (h1 : s.sameParts u) (h2 : u.sameParts v) : s.sameParts v := by
  obtain ⟨share, shares, engines⟩ := h1
  obtain ⟨share', shares', engines'⟩ := h2
  rw [hc] at shares' engines'
  exact ⟨share'.trans share, shares'.trans shares, engines'.trans engines⟩
theorem sameParts_setSlot (s : State) {x : Slot} (hx : x.seizing = s.slot.seizing) : s.sameParts (s.setSlot x) :=
  ⟨share_setSlot hx, tile_setSlotAt_shares s s.cur s.cur s.ctx x, tile_setSlotAt_engines s s.cur s.cur s.ctx x⟩
theorem sameParts_retire (s : State) (o : Op) (f : Flow) : s.sameParts (s.retire o f) := sameParts_setSlot s rfl
theorem sameParts_sense (s : State) (ks : List Nat) : s.sameParts (s.sense ks) := by
  rw [sense_eq]
  exact ⟨rfl, rfl, rfl⟩
theorem sameParts_of_reaches {srcs dsts : List Reg} (h : s.reaches u srcs dsts) : s.sameParts u := by
  obtain ⟨rfl | same, -⟩ := h
  · exact sameParts_refl _
  · rw [same]
    exact sameParts_setSlot s rfl
end

/-! ### What hands work over -/

section
variable {s u t : State} {srcs dsts : List Reg} {o : Op}

theorem handsFrame_retire (hb : s.besides u) (hh : s.half.holds u.half srcs []) (hf : u.half.fflags = s.half.fflags) (hy : u.half.y = s.half.y)
    (ho : o.isPfx = false) : s.handsFrame (u.retire o .next) srcs := by
  obtain ⟨-, -, mem, net, transfers, tiles, ctxs⟩ := besides_trans hb (besides_retire u o .next)
  refine ⟨fun k => by rw [mem], tiles, ctxs, net, transfers, ?_, ?_, ?_⟩ <;> rw [half_retire_next ho]
  · exact Half.keeps_of_holds hh _ _
  · simp [hf]
  · simp [hy]

/-- The state in which a sending form appends its item, or an engine form its command: its operands, and a body, are read. -/
def State.readies (s v : State) (srcs : List Reg) : Prop :=
  s.besides v ∧ s.sameParts v ∧ s.half.holds v.half srcs [] ∧ v.half.fflags = s.half.fflags ∧ v.half.y = s.half.y

theorem readies_of_reaches (h : s.reaches u srcs []) (hf : u.half.fflags = s.half.fflags) (hy : u.half.y = s.half.y) :
    s.readies u srcs := ⟨besides_of_reaches h, sameParts_of_reaches h, h.2, hf, hy⟩
theorem readies_two (s : State) (a b : Reg) : s.readies ((s.after a).after b) [a, b] := readies_of_reaches (reaches_two s a b []) (by simp) (by simp)
theorem readies_one (s : State) (a : Reg) : s.readies (s.after a) [a] := readies_of_reaches (reaches_one s a []) (by simp) (by simp)
theorem readies_sense (h : s.readies u srcs) (ks : List Nat) : s.readies (u.sense ks) srcs := by
  obtain ⟨beside, parts, holds, flags, y⟩ := h
  have half : (u.sense ks).half = u.half := by rw [sense_eq]; rfl
  exact ⟨besides_trans beside (besides_sense u ks), sameParts_trans beside.1 parts (sameParts_sense u ks), by rwa [half], by rwa [half], by rwa [half]⟩
theorem readies_body (h : s.readies u srcs) (w : Word) : s.readies (u.bodyRead w) srcs := readies_sense h _
theorem readies_bump (h : s.readies u srcs) : s.readies u.bump srcs := h

/-- A sending form appends an item to the out-buffer of its share. -/
theorem sendFrame_of {v : State} (hv : s.readies v srcs) {i : Instr} {n : Nat} {k : OutKind} (hi : exec i s = .next ((v.items n k).retire o .next))
    (ho : o.isPfx = false) (ht : exec i s = .next t) : s.sendFrame t srcs := by
  obtain ⟨beside, ⟨share, shares, engines⟩, holds, flags, y⟩ := hv
  have cur : v.cur = s.cur := beside.1
  rw [← next_eq hi ht]
  have half : (v.items n k).half = v.half := half_modTile v _ _ fun _ => rfl
  have appended := besides_modTile v (fun x => x.modShare v.share fun x => { x with out := x.out ++ [{ act := v.act.id, bytes := n, kind := k }] })
    fun _ _ _ => rfl
  obtain ⟨-, shares', engines'⟩ := sameParts_retire (v.items n k) o .next
  rw [show (v.items n k).cur = s.cur from cur] at shares' engines'
  have tile : (v.items n k).tile s.cur = (v.tile s.cur).modShare v.share fun x => { x with out := x.out ++ [{ act := v.act.id, bytes := n, kind := k }] } := by
    rw [← cur]
    exact tile_modTile v v.cur _
  have shareOf (j : Fin 3) : (((v.items n k).retire o .next).tile s.cur).share j = ((v.items n k).tile s.cur).share j :=
    congrArg (fun w : Vector Share 3 => w.get j) shares'
  have before (j : Fin 3) : (v.tile s.cur).share j = (s.tile s.cur).share j := congrArg (fun w : Vector Share 3 => w.get j) shares
  refine ⟨handsFrame_retire (besides_trans beside appended) (by rwa [half]) (by rwa [half]) (by rwa [half]) ho, fun j hj => ?_, fun j => ?_, ?_⟩
  · rw [shareOf, tile, share_modShare, if_neg (by rwa [share]), before]
  · refine congrArg (fun w : Vector Engine 3 => w.get j) (engines'.trans ?_)
    rw [← engines, tile]
    rfl
  · rw [shareOf, tile, share_modShare, if_pos share.symm, share, before]
end

/-- The sending forms with two operands, and those with one. -/
theorem send_frames {s t : State} {rep : Bool} {b a : Reg} :
    let s1 := s.after a
    let s2 := s1.after b
    let tw := s.val a
    let pw := s1.val b
    (s.Ready { srcs := [a, b] } → s2.outRoom (16 + wfield pw 39 32) = true →
      (∀ d, s2.resolve (wfield tw 10 0) = some d →
        (onlyBits tw [(10, 0), (21, 16)] = true → s2.bodyOk pw 0 → exec (.msgSend rep b a) s = .next t → s.sendFrame t [a, b])
        ∧ (onlyBits tw [(10, 0), (51, 32)] = true → wfield tw 51 32 % 8 = 0 → s2.bodyOk pw 8 → exec (.msgPut rep b a) s = .next t →
            s.sendFrame t [a, b]))
      ∧ (onlyBits tw [(7, 0), (21, 16)] = true → s2.member (wfield tw 7 0) = true → s2.bodyOk pw 0 → exec (.grpSend rep b a) s = .next t →
          s.sendFrame t [a, b]))
    ∧ (s.Ready { srcs := [a] } →
      (s1.bodyOk tw 0 → s1.outRoom (16 + wfield tw 39 32) = true → exec (.msgHost a) s = .next t → s.sendFrame t [a])
      ∧ (onlyBits tw [(7, 0), (26, 16), (37, 32)] = true → s1.member (wfield tw 7 0) = true → s1.outRoom 32 = true →
          exec (.barArr a) s = .next t → s.sendFrame t [a])
      ∧ (∀ d, s1.resolve (wfield tw 10 0) = some d →
        (∀ k : BitVec 3, onlyBits tw [(10, 0), (21, 16)] = true → s1.outRoom (16 + 8 * (k.toNat + 1)) = true →
          exec (.msgSendn k rep a) s = .next t → s.sendFrame t [a])
        ∧ (onlyBits tw [(10, 0)] = true → s1.outRoom 32 = true → exec (.msgSpawn a) s = .next t → s.sendFrame t [a]))) := by
  intro s1 s2 tw pw
  obtain ⟨⟨send, sendn, spawn, host, put⟩, -⟩ := messageSends
  obtain ⟨-, -, group, barrier⟩ := messagesAndGroups
  have two (w : Word) : s.readies (s2.bodyRead w) [a, b] := readies_body (readies_two s a b) w
  have one : s.readies s1 [a] := readies_one s a
  refine ⟨fun h room => ⟨fun d hd => ⟨fun bits body => ?_, fun bits aligned body => ?_⟩, fun bits member body => ?_⟩,
    fun h => ⟨fun body room => ?_, fun bits member room => ?_, fun d hd => ⟨fun k bits room => ?_, fun bits room => ?_⟩⟩⟩
  · exact sendFrame_of (two pw) (send s rep b a d h bits body hd room) rfl
  · exact sendFrame_of (two pw) (put s rep b a d h bits aligned body hd room) rfl
  · exact sendFrame_of (two pw) (group s rep b a h bits member body room) rfl
  · exact sendFrame_of (readies_body one tw) (host s a h body room) rfl
  · exact sendFrame_of one (barrier s a h bits member room) rfl
  · exact sendFrame_of one (sendn s k rep a d h bits hd room) rfl
  · exact sendFrame_of one (spawn s a d h bits hd room) rfl

/-! ### Engine commands (R255, R276, R278) -/

theorem engine_modEngine (x : Tile) (k j : Fin 3) (f : Engine → Engine) : (x.modEngine k f).engine j = if j = k then f (x.engine k) else x.engine j := by
  simp only [Tile.modEngine, Tile.engine, Vector.get_eq_getElem, Vector.getElem_set]
  by_cases h : j = k
  · rw [if_pos h, if_pos (by rw [h])]
  · rw [if_neg h, if_neg fun e => h (Fin.ext e.symm)]

section
variable {s v t : State} {srcs : List Reg}

/-- A command enters the engine of its share. -/
theorem engineFrame_of (hv : s.readies v srcs) {i : Instr} {o : Op} {sub : Nat} {nt : Bool} {c : Nat} {a b b0 : Word}
    (hi : exec i s = .next ((v.commands sub nt c a b b0).retire o .next)) (ho : o.isPfx = false) (ht : exec i s = .next t) :
    s.engineFrame t srcs := by
  obtain ⟨beside, ⟨share, shares, engines⟩, holds, flags, y⟩ := hv
  rw [← next_eq hi ht]
  generalize hf : (fun e : Engine => { e with entering := e.entering ++ [v.command sub nt c a b b0] }) = f
  have cmd : v.commands sub nt c a b b0 = v.bump.modEngine v.cur v.share f := by rw [← hf]; rfl
  rw [cmd]
  have cur : v.cur = s.cur := beside.1
  have half : (v.bump.modEngine v.cur v.share f).half = v.half := half_modTile v.bump _ _ fun _ => rfl
  have entered : v.besides (v.bump.modEngine v.cur v.share f) := besides_modTile v.bump (fun x => x.modEngine v.share f) fun _ _ _ => rfl
  obtain ⟨-, shares', engines'⟩ := sameParts_retire (v.bump.modEngine v.cur v.share f) o .next
  rw [show (v.bump.modEngine v.cur v.share f).cur = s.cur from cur] at shares' engines'
  have tile : (v.bump.modEngine v.cur v.share f).tile s.cur = (v.tile s.cur).modEngine v.share f := by
    rw [← cur]
    exact tile_modTile v.bump v.cur _
  refine ⟨handsFrame_retire (besides_trans beside entered) (by rwa [half]) (by rwa [half]) (by rwa [half]) ho, fun j => ?_, fun j hj => ?_⟩
  · refine congrArg (fun w : Vector Share 3 => w.get j) (shares'.trans ?_)
    rw [← shares, tile]
    rfl
  · refine (congrArg (fun w : Vector Engine 3 => w.get j) engines').trans ?_
    change ((State.tile _ s.cur).engine j) = _
    rw [tile, engine_modEngine, if_neg (by rwa [share])]
    exact congrArg (fun w : Vector Engine 3 => w.get j) engines
end

section
variable {s t : State} {b a : Reg}

/-- The engine of share k of a tile differs in its flags and origin at most. -/
def Tile.sameEngines (x y : Tile) (k : Fin 3) : Prop :=
  (∀ i, i ≠ k → y.engine i = x.engine i) ∧ y.engine k = { x.engine k with flags := (y.engine k).flags, origin := (y.engine k).origin }

/-- The status word clears the flags and the origin of the engine of the running share at most. -/
theorem mxStat_frame (h : s.Ready { srcs := [b], dsts := [a] }) (hw : onlyBits (s.val b) [(0, 0)] = true)
    (hp : (s.after b).mxPending s.cur s.act.id = false) (ht : exec (.mxStat b a) s = .next t) :
    (∀ k, t.mem.get k = s.mem.get k) ∧ s.half.keeps t.half [b] [a] ∧ t.half.fflags = s.half.fflags ∧ t.net = s.net
    ∧ (∀ z, z ≠ s.cur → t.tile z = s.tile z) ∧ (s.tile s.cur).sameEngines (t.tile s.cur) s.share := by
  have framed (v : State) (w : Word) (hb : (s.after b).besides v) (half : v.half = (s.after b).half)
      (he : ((s.after b).tile s.cur).sameEngines (v.tile s.cur) s.share)
      (hi : exec (.mxStat b a) s = .next ((v.give a w).retire { srcs := [b], dsts := [a] } .next)) :
      (∀ k, t.mem.get k = s.mem.get k) ∧ s.half.keeps t.half [b] [a] ∧ t.half.fflags = s.half.fflags ∧ t.net = s.net
      ∧ (∀ z, z ≠ s.cur → t.tile z = s.tile z) ∧ (s.tile s.cur).sameEngines (t.tile s.cur) s.share := by
    rw [← next_eq hi ht]
    have read : s.besides v := besides_trans (besides_setSlot s _) hb
    obtain ⟨-, -, mem, net, -, tiles, -⟩ := besides_trans read (besides_trans (besides_setSlot v _) (besides_retire (v.give a w) { srcs := [b], dsts := [a] } .next))
    refine ⟨fun k => by rw [mem], ?_, ?_, net, tiles, ?_⟩
    · rw [half_retire_next rfl, half_give, half, half_after]
      exact Half.keeps_of_holds (Half.holds_trans (Half.holds_mono (s.half.holds_read b) (fun _ m => m) (List.nil_subset _))
        (Half.holds_mono (Half.holds_give _ a w) (List.nil_subset _) fun _ m => m)) _ _
    · rw [half_retire_next rfl, half_give, half]
      simp
    · obtain ⟨-, -, given⟩ := sameParts_setSlot v (x := { v.slot with half := (v.half.write a w).push w }) rfl
      obtain ⟨-, -, retired⟩ := sameParts_retire (v.give a w) { srcs := [b], dsts := [a] } .next
      rw [show (v.give a w).cur = s.cur from read.1] at retired
      rw [read.1] at given
      have engines (i : Fin 3) : (((v.give a w).retire { srcs := [b], dsts := [a] } .next).tile s.cur).engine i = (v.tile s.cur).engine i :=
        congrArg (fun w : Vector Engine 3 => w.get i) (retired.trans given)
      obtain ⟨others, own⟩ := he
      simp only [engine_after] at others own
      refine ⟨fun i hi => (engines i).trans (others i hi), ?_⟩
      rw [engines]
      exact own
  by_cases hx : s.val b = 1#64
  · refine framed _ _ (besides_modTile (s.after b) (fun x => x.modEngine (s.after b).share fun e => { e with flags := 0#5, origin := none })
      fun _ _ _ => rfl) (half_modTile _ _ _ fun _ => rfl) ?_ ((exec_mxStat b a s).trans (mxStat_clears h hw hp hx))
    rw [cur_after, tile_modTile, share_after]
    refine ⟨fun i hi => ?_, ?_⟩
    · rw [engine_modEngine, if_neg hi]
    · rw [engine_modEngine, if_pos rfl]
  · exact framed _ _ (besides_refl _) rfl ⟨fun _ _ => rfl, rfl⟩ ((exec_mxStat b a s).trans (mxStat_reads h hw hp hx))

/-- The commands, mx.stat and mx.bay. -/
theorem engine_frames {nt : Bool} {c : BitVec 6} :
    let s1 := s.after a
    let s2 := s1.after b
    let x := s.val a
    let y := s1.val b
    (s.Ready { srcs := [a] } →
      (s1.commandOk 0 x 0#64 → exec (.mxLdb a) s = .next t → s.engineFrame t [a])
      ∧ (s1.commandOk 7 x 0#64 → exec (.mxCfg a) s = .next t → s.engineFrame t [a]))
    ∧ (s.Ready { srcs := [a], illegal := chanIllegal nt c } → s1.commandOk 2 0#64 x → exec (.mxZero nt c a) s = .next t → s.engineFrame t [a])
    ∧ (s.Ready { srcs := [a, b], illegal := chanIllegal nt c } → s2.commandOk 4 x y → exec (.mxLdacc nt c b a) s = .next t → s.engineFrame t [a, b])
    ∧ (s.Ready { srcs := [a, b], pfx := rdPfx, illegal := chanIllegal nt c } → s2.commandOk 3 x (rdShape s.half.pfx y) →
        exec (.mxRd nt c b a) s = .next t → s.engineFrame t [a, b])
    ∧ (s.Ready { srcs := [a, b], pfx := mmaPfx, illegal := chanIllegal nt c } →
      let sh := mmaShape s.half.pfx y
      (s2.commandOk 1 x sh → exec (.mxMma nt c b a) s = .next t → s.engineFrame t [a, b])
      ∧ (s2.mxWordsOk s.cur s2.share 5 x sh = true → s2.mxLimitsOk s.cur s2.share 5 x sh = true → s2.share ≠ 2 →
          ((s2.tile s.cur).share s2.share).bayMask = 0xFFFF#16 → s2.mxExtentFault s.cur s2.share 5 x sh = none → s2.outRoom 64 = true →
            exec (.mxBay nt c b a) s = .next t → s.sendFrame t [a, b])) := by
  intro s1 s2 x y
  obtain ⟨⟨ldb, mma, zero, rd, ldacc, cfg⟩, -, bay⟩ := engineForms
  have two : s.readies s2 [a, b] := readies_two s a b
  have one : s.readies s1 [a] := readies_one s a
  exact ⟨fun h => ⟨fun ok => engineFrame_of one (ldb s a h ok) rfl, fun ok => engineFrame_of one (cfg s a h ok) rfl⟩,
    fun h ok => engineFrame_of one (zero s nt c a h ok) rfl, fun h ok => engineFrame_of two (ldacc s nt c b a h ok) rfl,
    fun h ok => engineFrame_of two (rd s nt c b a h ok) rfl, fun h => ⟨fun ok => engineFrame_of two (mma s nt c b a h ok) rfl,
      fun words limits share mask extent room => sendFrame_of (readies_bump two) (bay s nt c b a h words limits share mask extent room) rfl⟩⟩
end

end Sys2Proof.Machine
end

section
/-! What the extension, shape and control register forms leave unchanged, and the frames of the effects together (R44, R167, R168, R403 to R407). -/

namespace Sys2Proof.Machine
open Sys2Proof

/-! ### A half that is kept but for a register that is no operand -/

/-- w is u with the `pfx` bit cleared, but for what `bare` leaves out. -/
def Half.ends (u w : Half) : Prop :=
  w.g = u.g ∧ w.n = u.n ∧ w.npoison = u.npoison ∧ w.q = u.q ∧ w.bare = (u.setPP false).bare

section
variable {h u w : Half} {srcs dsts : List Reg}
theorem Half.keeps_of_ends (hh : h.holds u srcs dsts) (hw : u.ends w) : h.keeps w srcs dsts := by
  obtain ⟨g, regs, q, bare⟩ := hh
  obtain ⟨g', n', p', q', bare'⟩ := hw
  have same {α : Type} (p : Half → α) (hp : p (u.setPP false).bare = p u.bare) : p w.bare = p h.bare :=
    (congrArg p bare').trans (hp.trans (congrArg p bare))
  have status : w.bare.status = h.bare.status &&& ~~~ statusPP := by
    rw [bare', ← bare]
    rfl
  exact ⟨by rw [g']; exact g, by rw [n', p']; exact regs, by rw [q']; exact q, same Half.e rfl, same Half.v rfl, same Half.k rfl, same Half.h rfl,
    same Half.vq rfl, same Half.loads rfl, status, same Half.cause rfl, same Half.xpc rfl, same Half.faddr rfl, same Half.msgid rfl,
    same Half.chan rfl, same Half.budget rfl, same Half.trapvec rfl, same Half.tsave rfl, same Half.tlpcnt rfl, same Half.frnd rfl,
    same Half.pfxsave rfl, same Half.nanorg rfl, same Half.boundTrap rfl⟩
/-- What completes an instruction moves the program counter and counts the loop. -/
theorem Half.ends_advance_e (x : Half) (e : Vector Word 8) (n : Nat) (f : Flow) :
    Half.ends { x with e := e } { (x.setPP false).goVector.advance n f with e := e } := by
  obtain ⟨pc, lastPc, lpcnt, moved⟩ := (x.setPP false).goVector.advance_frame n f
  rw [moved]
  exact ⟨rfl, rfl, rfl, rfl, rfl⟩
theorem Half.ends_advance_h (x : Half) (r : Vector Rec512 16) (n : Nat) (f : Flow) :
    Half.ends { x with h := r } { (x.setPP false).goVector.advance n f with h := r } := by
  obtain ⟨pc, lastPc, lpcnt, moved⟩ := (x.setPP false).goVector.advance_frame n f
  rw [moved]
  exact ⟨rfl, rfl, rfl, rfl, rfl⟩
end

/-! ### Extension registers (R167) -/

/-- The frame of a form that writes extension register n. -/
def State.extFrame (s t : State) (n : BitVec 3) (srcs : List Reg) : Prop :=
  s.onlyHalf t ∧ (∀ i, i ≠ n.toFin → t.half.e.get i = s.half.e.get i) ∧ s.half.keeps { t.half with e := s.half.e } srcs []
  ∧ t.half.fflags = s.half.fflags

section
variable {s t v : State} {a : Reg} {srcs : List Reg}

theorem extFrame_of {o : Op} {i : Instr} {n : BitVec 3} {x : Word} (hv : s.reaches v srcs []) (he : v.half.e = s.half.e)
    (hf : v.half.fflags = s.half.fflags) (hi : exec i s = .next ((v.modHalf fun h => (h.setE n x).push x).retire o .next)) (ho : o.isPfx = false)
    (ht : exec i s = .next t) : s.extFrame t n srcs := by
  rw [← next_eq hi ht, State.modHalf]
  have half : ((v.setHalf ((v.half.setE n x).push x)).retire o .next).half
      = (((v.half.setE n x).push x).setPP false).goVector.advance o.len .next := by rw [half_retire_next ho, half_setHalf]
  have held : s.half.holds { (v.half.setE n x).push x with e := s.half.e } srcs [] := by
    rw [← he]
    exact Half.holds_trans hv.2 (Half.holds_of rfl rfl rfl rfl rfl srcs [])
  refine ⟨onlyHalf_retire (.inr ?_) o .next, fun j hj => ?_, ?_, ?_⟩
  · rw [half_setHalf]
    obtain ⟨rfl | same, -⟩ := hv
    · rfl
    · rw [same, half_setHalf, setHalf_setHalf]
  · rw [half, Half.advance_e, Half.goVector_e, Half.setPP_e, ← he]
    exact get_set_ne v.half.e x hj
  · rw [half]
    exact Half.keeps_of_ends held (Half.ends_advance_e _ _ _ _)
  · rw [half, Half.advance_fflags, Half.goVector_fflags, Half.setPP_fflags, ← hf]
    rfl
theorem ext_frames {n : BitVec 3} {m : BitVec 16} :
    (s.Ready { srcs := [a] } → exec (.extW n a) s = .next t → s.extFrame t n [a])
    ∧ (s.Ready {} → ∀ i ∈ [Instr.extLix n m, .extLixs n m], exec i s = .next t → s.extFrame t n [])
    ∧ (s.Ready { dsts := [a] } → exec (.extGet n a) s = .next t → s.valueFrame t [] [a]) := by
  refine ⟨fun h => extFrame_of (reaches_one s a []) (by simp) (by simp) ((exec_extW n a s).trans (extW_ready n h)) rfl, fun h => ?_,
    fun h ht => frame_none (next_eq ((exec_extGet n a s).trans (extGet_ready n h)) ht) [] rfl next_ne_stay⟩
  simp only [List.forall_mem_cons]
  exact ⟨extFrame_of (reaches_refl s [] []) rfl rfl ((exec_extLix n m s).trans (extLix_ready n m h)) rfl,
    extFrame_of (reaches_refl s [] []) rfl rfl ((exec_extLixs n m s).trans (extLixs_ready n m h)) rfl, List.forall_mem_nil _⟩
end

/-! ### Shape registers (R168) -/

/-- The frame of a form that writes shape register n, u being the state whose half alone it changes. -/
def State.shapeFrame (s t : State) (n : BitVec 4) (u : State) (srcs : List Reg) : Prop :=
  u.onlyHalf t ∧ (∀ k, t.mem.get k = s.mem.get k) ∧ (∀ i, i ≠ n.toFin → t.half.h.get i = s.half.h.get i)
  ∧ s.half.keeps { t.half with h := s.half.h } srcs [] ∧ t.half.fflags = s.half.fflags ∧ t.half.y = s.half.y

section
variable {s t u v : State} {a : Reg} {srcs : List Reg}

theorem shapeFrame_of {o : Op} {i : Instr} {n : BitVec 4} {f : Half → Rec512} (hu : v = u ∨ v = u.setHalf v.half) (hm : u.mem = s.mem)
    (hv : s.half.holds v.half srcs []) (he : v.half.h = s.half.h) (hf : v.half.fflags = s.half.fflags) (hy : v.half.y = s.half.y)
    (hi : exec i s = .next ((v.modHalf fun h => h.setH n (f h)).retire o .next)) (ho : o.isPfx = false)
    (ht : exec i s = .next t) : s.shapeFrame t n u srcs := by
  rw [← next_eq hi ht, State.modHalf]
  generalize f v.half = x
  have half : ((v.setHalf (v.half.setH n x)).retire o .next).half = ((v.half.setH n x).setPP false).goVector.advance o.len .next := by
    rw [half_retire_next ho, half_setHalf]
  have held : s.half.holds { v.half.setH n x with h := s.half.h } srcs [] := by
    rw [← he]
    exact Half.holds_trans hv (Half.holds_of rfl rfl rfl rfl rfl srcs [])
  have only : u.onlyHalf ((v.setHalf (v.half.setH n x)).retire o .next) := by
    refine onlyHalf_retire (.inr ?_) o .next
    rw [half_setHalf]
    obtain rfl | same := hu
    · rfl
    · rw [same, half_setHalf, setHalf_setHalf]
  refine ⟨only, fun k => by rw [only.1 k, hm], fun j hj => ?_, ?_, ?_, ?_⟩
  · rw [half, Half.advance_h, Half.goVector_h, Half.setPP_h, ← he]
    exact get_set_ne v.half.h x hj
  · rw [half]
    exact Half.keeps_of_ends held (Half.ends_advance_h _ _ _ _)
  · rw [half, Half.advance_fflags, Half.goVector_fflags, Half.setPP_fflags, ← hf]
    rfl
  · rw [half, Half.advance_y, Half.goVector_y, Half.setPP_y, ← hy]
    rfl
theorem shape_frames {n : BitVec 4} {f : BitVec 6} (hf : f.toNat < 33) :
    (s.Ready { srcs := [a] } → (s.val a).toNat < 2 ^ (shapeField f.toNat).2 → exec (.shpSet n f a) s = .next t → s.shapeFrame t n s [a])
    ∧ (s.Ready { dsts := [a] } → exec (.shpGet n f a) s = .next t → s.valueFrame t [] [a])
    ∧ (s.Ready { srcs := [a] } → (s.val a).toNat % 64 = 0 → (s.after a).inWindow s.cur (s.val a).toNat 64 .load →
        (s.after a).readable (s.val a).toNat 64 → exec (.shpLd n a) s = .next t →
          s.shapeFrame t n ((s.after a).reads (s.val a).toNat 64) [a]) := by
  obtain ⟨⟨-, -, -, record, field⟩, -⟩ := extensionAndShapeRegisters
  obtain ⟨set, get⟩ := field s n f a hf
  have read := (reaches_one s a []).2
  refine ⟨fun h hx ht => ?_, fun h ht => frame_none (next_eq (get h) ht) [] rfl next_ne_stay, fun h hm hw hr ht => ?_⟩
  · exact shapeFrame_of (f := fun h => shapeSet (h.h.get n.toFin) f.toNat (s.val a).toNat) (reaches_one s a []).1 rfl read (by simp) (by simp)
      (by simp) (set h hx) rfl ht
  · have out := (record s n a h hm).1 hw hr
    refine shapeFrame_of (f := fun _ => BitVec.ofNat 512 ((s.after a).ownNat (s.val a).toNat 64)) (.inl rfl) (mem_reads _ _ _) ?_ ?_ ?_ ?_ out rfl ht
    · rw [half_reads]
      exact read
    all_goals simp
end

/-! ### Control registers (R403 to R407) -/

/-- A half with the control registers that a program writes taken from another. -/
def Half.withCsr (h c : Half) : Half :=
  { h with status := c.status, xpc := c.xpc, faddr := c.faddr, trapvec := c.trapvec, frnd := c.frnd, nanorg := c.nanorg, fflags := c.fflags }
theorem Half.write_withCsr (h c : Half) (d : Reg) (v : Word) : (h.withCsr c).write d v = (h.write d v).withCsr c := by cases d <;> rfl
theorem Half.bare_of_withCsr {w x : Half} (status : w.status = x.status) (xpc : w.xpc = x.xpc) (faddr : w.faddr = x.faddr)
    (trapvec : w.trapvec = x.trapvec) (frnd : w.frnd = x.frnd) (nanorg : w.nanorg = x.nanorg) (h : (w.withCsr x).bare = x.bare) :
    w.bare = x.bare := by
  rw [← h]
  simp only [Half.bare, Half.withCsr, status, xpc, faddr, trapvec, frnd, nanorg]

/-- Between two halves only control register k differs, and of the status its bit dzt. -/
def Half.csrOnly (h w : Half) (k : Nat) : Prop :=
  w = h.withCsr w ∧ (k ≠ 0 → w.status = h.status) ∧ (k ≠ 2 → w.xpc = h.xpc) ∧ (k ≠ 3 → w.faddr = h.faddr) ∧ (k ≠ 7 → w.trapvec = h.trapvec)
  ∧ (k ≠ 0x10 → w.fflags = h.fflags) ∧ (k ≠ 0x11 → w.frnd = h.frnd) ∧ (k ≠ 0x13 → w.nanorg = h.nanorg)
  ∧ w.status &&& ~~~ 9#64 = h.status &&& ~~~ 9#64
/-- What a write of control register k leaves of the tile and the device. -/
def State.csrBesides (v w : State) (k : Nat) : Prop :=
  v.besides w ∧ (w.tile v.cur).shares = (v.tile v.cur).shares ∧ (w.tile v.cur).engines = (v.tile v.cur).engines
  ∧ (k ≠ 0x25 → (w.tile v.cur).bndflag = (v.tile v.cur).bndflag) ∧ (k ≠ 0x3F0 → w.sys = v.sys)

theorem Half.csrOnly_refl (h : Half) (k : Nat) : h.csrOnly h k :=
  ⟨rfl, fun _ => rfl, fun _ => rfl, fun _ => rfl, fun _ => rfl, fun _ => rfl, fun _ => rfl, fun _ => rfl, rfl⟩
theorem csrBesides_refl (v : State) (k : Nat) : v.csrBesides v k := ⟨besides_refl v, rfl, rfl, fun _ => rfl, fun _ => rfl⟩
theorem csrBesides_setSlot (v : State) (x : Slot) (k : Nat) : v.csrBesides (v.setSlot x) k :=
  ⟨besides_setSlot v x, tile_setSlotAt_shares v v.cur v.cur v.ctx x, tile_setSlotAt_engines v v.cur v.cur v.ctx x,
    fun _ => tile_setSlotAt_bndflag v v.cur v.cur v.ctx x, fun _ => rfl⟩
theorem csrBesides_setHalf (v : State) (x : Half) (k : Nat) : v.csrBesides (v.setHalf x) k := csrBesides_setSlot v _ k
theorem csrBesides_trans {u v w : State} {k : Nat} (h1 : u.csrBesides v k) (h2 : v.csrBesides w k) : u.csrBesides w k := by
  obtain ⟨beside, shares, engines, bnd, sys⟩ := h1
  obtain ⟨beside', shares', engines', bnd', sys'⟩ := h2
  rw [beside.1] at shares' engines' bnd'
  exact ⟨besides_trans beside beside', shares'.trans shares, engines'.trans engines, fun h => (bnd' h).trans (bnd h), fun h => (sys' h).trans (sys h)⟩
/-- The bit that a program writes in the status is none of those that stay. -/
theorem maskInto_dzt (x y : Word) : maskInto x y statusDZT &&& ~~~ 9#64 = x &&& ~~~ 9#64 := by
  have masks : (8#64 &&& ~~~ 9#64) = 0#64 ∧ (~~~ 8#64 &&& ~~~ 9#64) = ~~~ 9#64 := by decide
  unfold maskInto statusDZT
  rw [BitVec.and_or_distrib_right, BitVec.and_assoc, BitVec.and_assoc, masks.1, masks.2, BitVec.and_zero, BitVec.or_zero]
/-- Each writable register has its field of the half, the bound flags of the tile, or the wake of the device. -/
theorem csrWrite_only (v : State) (k : Nat) (x y : Word) : v.csrBesides (v.csrWrite k x y) k ∧ v.half.csrOnly (v.csrWrite k x y).half k := by
  have inHalf (h : Half) (hh : v.half.csrOnly h k) : v.csrBesides (v.setHalf h) k ∧ v.half.csrOnly (v.setHalf h).half k :=
    ⟨csrBesides_setHalf v h k, by rwa [half_setHalf]⟩
  unfold State.csrWrite
  split
  case isTrue h => exact inHalf _ (by simpa [Half.csrOnly, Half.withCsr, h] using maskInto_dzt v.half.status y)
  split
  case isTrue h => exact inHalf _ (by simp [Half.csrOnly, Half.withCsr, h])
  split
  case isTrue h => exact inHalf _ (by simp [Half.csrOnly, Half.withCsr, h])
  split
  case isTrue h => exact inHalf _ (by simp [Half.csrOnly, Half.withCsr, h])
  split
  case isTrue h => exact inHalf _ (by simp [Half.csrOnly, Half.withCsr, h])
  split
  case isTrue h => exact inHalf _ (by simp [Half.csrOnly, Half.withCsr, h])
  split
  case isTrue h => exact inHalf _ (by simp [Half.csrOnly, Half.withCsr, h])
  split
  case isTrue h =>
    refine ⟨⟨besides_modTile v _ fun _ _ _ => rfl, ?_, ?_, fun n => absurd h n, fun _ => rfl⟩, ?_⟩
    · rw [tile_modTile]
    · rw [tile_modTile]
    · rw [half_modTile v v.cur]
      · exact v.half.csrOnly_refl k
      · exact fun _ => rfl
  split
  case isTrue h => exact ⟨⟨besides_refl v, rfl, rfl, fun _ => rfl, fun n => absurd h n⟩, v.half.csrOnly_refl k⟩
  exact ⟨csrBesides_refl v k, v.half.csrOnly_refl k⟩

section
variable {s t w : State} {k : Nat} {n : BitVec 10} {a d : Reg}

theorem ite_eq_of {α : Type} {c : Prop} [Decidable c] {x y z : α} (hx : x = z) (hy : ¬ c → y = z) : (if c then x else y) = z := by
  split
  · exact hx
  · next h => exact hy h
/-- The half in which a write of a control register, and the value that it answers, leave the context. -/
theorem half_csrDone {r : Half} {v : Word} (same : w.half = r.withCsr w.half) : ∃ pc lastPc lpcnt,
    ((w.give d v).retire { srcs := [a], dsts := [d] } .next).half
      = { ((r.write d v).push v).withCsr (w.half.setPP false) with vheld := false, pc := pc, lastPc := lastPc, lpcnt := lpcnt } := by
  obtain ⟨pc, lastPc, lpcnt, moved⟩ := ((((r.write d v).push v).withCsr w.half).setPP false).goVector.advance_frame 4 .next
  refine ⟨pc, lastPc, lpcnt, ?_⟩
  rw [half_retire_next rfl, half_give]
  conv_lhs => rw [same, Half.write_withCsr]
  exact moved
theorem csrFrame_of {v : Word} (hb : (s.after a).csrBesides w k) (hw : (s.after a).half.csrOnly w.half k)
    (ht : (w.give d v).retire { srcs := [a], dsts := [d] } .next = t) : s.csrFrame t k a d := by
  rw [← ht]
  have written := csrBesides_trans (csrBesides_trans (csrBesides_setHalf s (s.half.read a).2 k) hb) (csrBesides_setHalf w ((w.half.write d v).push v) k)
  obtain ⟨⟨-, -, mem, -, -, tiles, ctxs⟩, shares, engines, bnd, sys⟩ :=
    csrBesides_trans written (csrBesides_setSlot _ ((w.give d v).retire { srcs := [a], dsts := [d] } .next).slot k)
  rw [← give_eq, ← retire_eq] at mem tiles ctxs shares engines bnd sys
  obtain ⟨same, status, xpc, faddr, trapvec, fflags, frnd, nanorg, dzt⟩ := hw
  have held : s.half.holds (((s.after a).half.write d v).push v) [a] [d] := by
    rw [half_after]
    exact Half.holds_trans (Half.holds_mono (s.half.holds_read a) (fun _ m => m) (List.nil_subset _))
      (Half.holds_mono (Half.holds_give _ d v) (List.nil_subset _) fun _ m => m)
  obtain ⟨pc, lastPc, lpcnt, ended⟩ := half_csrDone (d := d) (v := v) same
  simp only [half_after, Half.read_status, Half.read_xpc, Half.read_faddr, Half.read_trapvec, Half.read_fflags, Half.read_frnd, Half.read_nanorg]
    at status xpc faddr trapvec fflags frnd nanorg dzt
  refine ⟨fun x => by rw [mem], tiles, ctxs, fun i => ⟨congrArg (fun v : Vector Share 3 => v.get i) shares,
    congrArg (fun v : Vector Engine 3 => v.get i) engines⟩, bnd, sys, ?_, fun hk => ?_, fun _ => ?_⟩ <;> rw [ended]
  · refine Half.keeps_of_ends held ⟨rfl, rfl, rfl, rfl, Half.bare_of_withCsr ?_ ?_ ?_ ?_ ?_ ?_ rfl⟩
    · exact ite_eq_of (by simp [Half.setPP, statusPP]) fun hk => (congrArg (· &&& ~~~ statusPP) (status hk)).trans (by simp [Half.setPP])
    · exact ite_eq_of (by simp) fun hk => (xpc hk).trans (by simp)
    · exact ite_eq_of (by simp) fun hk => (faddr hk).trans (by simp)
    · exact ite_eq_of (by simp) fun hk => (trapvec hk).trans (by simp)
    · exact ite_eq_of (by simp) fun hk => (frnd hk).trans (by simp)
    · exact ite_eq_of (by simp) fun hk => (nanorg hk).trans (by simp)
  · exact fflags hk
  · have masks : (~~~ 1#64 &&& ~~~ 9#64) = ~~~ 9#64 := by decide
    refine Eq.trans ?_ dzt
    change w.half.status &&& ~~~ 1#64 &&& ~~~ 9#64 = _
    rw [BitVec.and_assoc, masks]
theorem csr_frame (h : s.Ready { srcs := [a], dsts := [d] }) (hl : csrListed n.toNat = true)
    (hs : s.share = 2 → ¬ (0x40 ≤ n.toNat ∧ n.toNat < 0x60 ∧ 4 ≤ n.toNat % 16))
    (hv : n.toNat = 0x10 ∨ n.toNat = 0x13 → s.half.vq = [] ∧ s.half.boundTrap = none)
    (hx : (exec (.csrRw n a d) s = .next t ∧ (s.after a).csrWritable n.toNat = true ∧ (n.toNat = 7 → (s.val a).getLsbD 0 = false))
      ∨ (exec (.csrRs n a d) s = .next t ∧ (a = .z ∨ ((s.after a).csrWritable n.toNat = true
          ∧ (n.toNat = 7 → ((s.after a).csr n.toNat ||| s.val a).getLsbD 0 = false))))
      ∨ (exec (.csrRc n a d) s = .next t ∧ (a = .z ∨ ((s.after a).csrWritable n.toNat = true
          ∧ (n.toNat = 7 → ((s.after a).csr n.toNat &&& ~~~ s.val a).getLsbD 0 = false))))) :
    s.csrFrame t n.toNat a d := by
  have hv' : n.toNat = 0x10 ∨ n.toNat = 0x13 → (s.after a).half.vq = [] ∧ (s.after a).half.boundTrap = none := by simpa using hv
  have wrote {f : Word → Word → Word} (ht : csrForm n a d true f s = .next t) (hw : (s.after a).csrWritable n.toNat = true)
      (h7 : n.toNat = 7 → (f ((s.after a).csr n.toNat) (s.val a)).getLsbD 0 = false) : s.csrFrame t n.toNat a d := by
    obtain ⟨beside, half⟩ := csrWrite_only (s.after a) n.toNat (s.val a) (f ((s.after a).csr n.toNat) (s.val a))
    exact csrFrame_of beside half (next_eq (csrForm_writes hl h hs hv' hw h7) ht)
  have masked {f : Word → Word → Word} (ht : csrForm n a d (decide (a ≠ .z)) f s = .next t) (ha : a = .z ∨ ((s.after a).csrWritable n.toNat = true
      ∧ (n.toNat = 7 → (f ((s.after a).csr n.toNat) (s.val a)).getLsbD 0 = false))) : s.csrFrame t n.toNat a d := by
    by_cases hz : a = .z
    · rw [decide_eq_false (not_not_intro hz)] at ht
      exact csrFrame_of (csrBesides_refl _ _) (Half.csrOnly_refl _ _) (next_eq (csrForm_reads hl h hs hv') ht)
    · rw [decide_eq_true hz] at ht
      obtain ⟨hw, h7⟩ := ha.resolve_left hz
      exact wrote ht hw h7
  obtain ⟨ht, hw, h7⟩ | ⟨ht, ha⟩ | ⟨ht, ha⟩ := hx
  · exact wrote ((exec_csrRw n a d s).symm.trans ht) hw h7
  · exact masked ((exec_csrRs n a d s).symm.trans ht) ha
  · exact masked ((exec_csrRc n a d s).symm.trans ht) ha
end

/-- Settles O59: each form changes its half by what it reads and writes, and hands its item or command over. -/
theorem effectFrames : Obligations.EffectFrames := by
  unfold Obligations.EffectFrames
  refine ⟨fun s t m b a h => branch_frames h, fun s t m a h => compactBranch_frames h, fun s t m n => jump_frames m n, fun s t a d => ?registers,
    fun s t f r x g h => pfx_frame h, fun s t rep b a => send_frames, fun s t nt c b a => ?engine, fun s t n m a => ext_frames,
    fun s t n f a hf => shape_frames hf, fun s t n a d h hl => csr_frame h hl⟩
  case registers =>
    obtain ⟨jumps, link, pca⟩ := jumpReg_frames (s := s) (t := t) (a := a) (d := d)
    exact ⟨jumps, link, pca, fun len h hl hc => lp_frame h hl hc⟩
  case engine =>
    obtain ⟨one, zero, ldacc, rd, bay⟩ := engine_frames (s := s) (t := t) (b := b) (a := a) (nt := nt) (c := c)
    exact ⟨one, zero, ldacc, rd, bay, fun h hw hp => mxStat_frame h hw hp⟩

end Sys2Proof.Machine
end

section
/-! Fences, sends and the forms of the system core complete from conditions on the state and the operands (R298 to R300, R319, R412 to R432). -/

namespace Sys2Proof.Machine
open Sys2Proof

/-! ### Nothing on its way (R298) -/

section
variable {s : State} (h : s.calm)
include h

theorem releaseStop_calm (vec : Bool) (scope : Nat) : s.releaseStop vec scope = none := by
  obtain ⟨-, -, -, slices, self, away, stores, outbound⟩ := h
  have writes : s.myWrites vec = [] := List.filter_eq_nil_iff.mpr fun o ho => by
    by_cases tile : o.src.tile = s.cur
    · simp [slices o ho tile]
    · simp [tile]
  have probes : s.myProbes = [] := List.filter_eq_nil_iff.mpr fun o ho => by
    by_cases tile : o.src.tile = s.cur
    · simp [slices o ho tile]
    · simp [tile]
  have host : s.myOutbound vec = false := List.any_eq_false.mpr fun w hw => by
    by_cases tile : w.src.tile = s.cur
    · simp [outbound w hw tile]
    · simp [tile]
  unfold State.releaseStop
  simp [writes, probes, host, self, away, stores]
theorem ownClear_calm (ea n : Nat) : s.ownClear ea n = true := by
  obtain ⟨-, -, -, -, self, -⟩ := h
  rw [State.ownClear, self]
  rfl
end
theorem reads_sound {s : State} (h : s.flips = []) (ea n : Nat) : s.reads ea n = s := by
  unfold State.reads State.senseWin State.sense
  rw [if_pos h]

/-! ### Fences and caches (R298 to R300) -/

theorem rdcache_retire (s : State) (o : Op) (f : Flow) (t : Nat) : ((s.retire o f).tile t).rdcache = (s.tile t).rdcache :=
  tile_setSlotAt_rdcache s s.cur t s.ctx _
theorem ordered_completes :
    (∀ (s : State) (scope : Scope) (vec : Bool) (kind : FenceKind), s.Ready {} → s.calm →
      exec (.fence scope vec kind) s =
        .next ((if 3 ≤ scope.code then s.ordered.rdInvalidate s.cur s.act.tenant else s.ordered).retire {} .next))
    ∧ (∀ s : State, s.Ready { iso := true } → ∃ u, exec .cinvAll s = .next u ∧ ∀ x ∈ (u.tile s.cur).rdcache, x.tenant ≠ s.act.tenant)
    ∧ (∀ (s : State) (a : Reg) (idx off : Nat) (r : Rec512) (ps : List Part'), s.Ready { srcs := [a], iso := true } →
       addrWord (s.val a) = .glob idx off → (s.after a).resourceOk idx off 1 1 r → ((s.after a).used idx).translates (resVbase r + off) 1 1 ps →
         ∃ u, exec (.cinv a) s = .next u
           ∧ ∀ x ∈ (u.tile s.cur).rdcache, x.tenant = s.act.tenant → x.line ∉ linesOf (pathOf s.act.tenant r ps).keys) := by
  obtain ⟨⟨fence, all, one⟩, -⟩ := fences
  refine ⟨fun s scope vec kind h calm => ?_, fun s h => ⟨_, all s h, fun x hx => ?_⟩, fun s a idx off r ps h ha hr ht =>
    ⟨_, one s a idx off r ps h ha hr ht, fun x hx tenant line => ?_⟩⟩
  · exact fence s scope vec kind h (fun _ => ⟨calm.2.1, calm.2.2.1⟩) (fun _ => calm.1) fun _ => releaseStop_calm calm vec _
  · rw [rdcache_retire, State.rdInvalidate, tile_modTile] at hx
    exact of_decide_eq_true (List.mem_filter.mp hx).2
  · rw [rdcache_retire, tile_modTile] at hx
    have kept := (List.mem_filter.mp hx).2
    simp [tenant, line] at kept
theorem acquireRelease_completes :
    (∀ (s : State) (t : MemType) (a d : Reg) (ea : Nat), s.Ready (opA a d) → addrWord (s.val a) = .loc ea → ea % t.size = 0 →
       let s1 := s.after a
       s1.calm → s1.inWindow s.cur ea t.size .load → s1.flips = [] → s1.cleanOwn ea t.size →
         exec (.ldAcq false t a d) s = .next ((s1.ordered.give d (loaded t (s1.ownNat ea t.size))).retire (opA a d) .next))
    ∧ (∀ (s u : State) (t : MemType) (a r : Reg) (ea : Nat), s.Ready { srcs := [r, a] } → addrWord ((s.after r).val a) = .loc ea →
       ea % t.size = 0 →
       let s2 := (s.after r).after a
       s2.calm → s2.inWindow s.cur ea t.size .store → s2.ordered.logs ea t.size u →
         exec (.stRel false t a r) s = .next ((u.storeAt ea (leBytes t.size (s.val r).toNat)).retire { srcs := [r, a] } .next)) := by
  obtain ⟨-, -, -, load, -, -, store, -⟩ := fences
  refine ⟨?_, ?_⟩
  · intro s t a d ea h ha hm s1 calm hw sound clean
    have reads : s1.reads ea t.size = s1 := reads_sound sound ea t.size
    have loads : s.half.loads = [] := by simpa [s1] using calm.1
    have out := load s t a d ea h ha hm hw ⟨ownClear_calm calm ea t.size, by rw [reads]; exact clean⟩ loads
    rwa [reads] at out
  · intro s u t a r ea h ha hm s2 calm hw hl
    have clear : s2.ordered.ownClear ea t.size = true := by
      rw [State.ownClear, toSelf_ordered, cur_ordered, ctx_ordered]
      exact ownClear_calm calm ea t.size
    exact store s u t a r ea h ha hm hw (releaseStop_calm calm false 0) clear hl

/-! ### Sends into an empty out-buffer (R311, R319) -/

section
variable {s v : State} {srcs : List Reg}

/-- An empty out-buffer has room for any one item. -/
theorem outRoom_empty (h : ((s.tile s.cur).share s.share).out = []) {n : Nat} (hn : n ≤ 256) : s.outRoom n = true := by
  have limits : 1 ≤ (s.outLimits s.cur s.share).1 ∧ 256 ≤ (s.outLimits s.cur s.share).2 := by
    unfold State.outLimits
    split
    · decide
    · split <;> split <;> decide
  unfold State.outRoom
  rw [h]
  have fits : 0 + n ≤ (s.outLimits s.cur s.share).2 := by omega
  exact Bool.and_eq_true_iff.mpr ⟨decide_eq_true (by simpa using limits.1), decide_eq_true fits⟩
/-- What stands in the out-buffer after an item is appended. -/
theorem out_items (hv : s.readies v srcs) (ha : v.act = s.act) (n : Nat) (k : OutKind) (o : Op) :
    ((((v.items n k).retire o .next).tile s.cur).share s.share).out
      = ((s.tile s.cur).share s.share).out ++ [{ act := s.act.id, bytes := n, kind := k }] := by
  obtain ⟨beside, ⟨share, shares, -⟩, -⟩ := hv
  obtain ⟨-, shares', -⟩ := sameParts_retire (v.items n k) o .next
  rw [show (v.items n k).cur = s.cur from beside.1] at shares'
  have tile : (v.items n k).tile s.cur = (v.tile s.cur).modShare v.share fun x => { x with out := x.out ++ [{ act := v.act.id, bytes := n, kind := k }] } := by
    rw [← beside.1]
    exact tile_modTile v v.cur _
  have after : (((v.items n k).retire o .next).tile s.cur).share s.share = ((v.items n k).tile s.cur).share s.share :=
    congrArg (fun w : Vector Share 3 => w.get s.share) shares'
  rw [after, tile, share_modShare, if_pos share.symm, share, ha]
  exact congrArg (fun w : Vector Share 3 => (w.get s.share).out ++ [_]) shares
end

theorem sends_complete (s : State) (b a : Reg) (t : Nat) :
    let s1 := s.after a
    let s2 := s1.after b
    let tw := s.val a
    let pw := s1.val b
    let item (u : State) (n : Nat) (k : OutKind) : Prop :=
      ((u.tile s.cur).share s.share).out = [{ act := s.act.id, bytes := n, kind := k }]
    let body (v : State) (w : Word) (least : Nat) : Prop :=
      PayloadOk w least ∧ v.inWindow s.cur (wfield w 19 0) (wfield w 39 32) .load ∧ v.toSelf s.cur s.ctx = []
    ((s.tile s.cur).share s.share).out = [] →
    (s.Ready { srcs := [a, b] } → s2.resolve (wfield tw 10 0) = some t → ∀ rep,
      (onlyBits tw [(10, 0), (21, 16)] = true → body s2 pw 0 → ∃ u m, exec (.msgSend rep b a) s = .next u
        ∧ item u (16 + wfield pw 39 32) (.msgs [m]) ∧ m.kind = 0 ∧ m.dst = t ∧ m.chan = wfield tw 21 16 ∧ m.body = s2.body pw)
      ∧ (onlyBits tw [(10, 0), (51, 32)] = true → wfield tw 51 32 % 8 = 0 → body s2 pw 8 → ∃ u m, exec (.msgPut rep b a) s = .next u
        ∧ item u (16 + wfield pw 39 32) (.msgs [m]) ∧ m.kind = 2 ∧ m.dst = t ∧ m.addr = wfield tw 51 32 ∧ m.body = s2.body pw))
    ∧ (s.Ready { srcs := [a] } → s1.resolve (wfield tw 10 0) = some t →
      (∀ (k : BitVec 3) rep, onlyBits tw [(10, 0), (21, 16)] = true → ∃ u m, exec (.msgSendn k rep a) s = .next u
        ∧ item u (16 + 8 * (k.toNat + 1)) (.msgs [m]) ∧ m.kind = 0 ∧ m.dst = t ∧ m.body = wordsBody (s1.half.n.toList.take (k.toNat + 1)))
      ∧ (onlyBits tw [(10, 0)] = true → ∃ u m, exec (.msgSpawn a) s = .next u
        ∧ item u 32 (.msgs [m]) ∧ m.kind = 1 ∧ m.dst = t ∧ m.body = wordsBody [s1.half.e.get 0, s1.half.e.get 1, s1.half.e.get 2]))
    ∧ (s.Ready { srcs := [a] } → body s1 tw 0 → ∃ u m, exec (.msgHost a) s = .next u
        ∧ item u (16 + wfield tw 39 32) (.host m) ∧ m.dest = 0x7FF#11 ∧ m.body = s1.body tw) := by
  intro s1 s2 tw pw item body empty
  obtain ⟨⟨send, sendn, spawn, host, put⟩, -⟩ := messageSends
  have two : s.readies s2 [a, b] := readies_two s a b
  have one : s.readies s1 [a] := readies_one s a
  have emptyIn {v : State} {srcs : List Reg} (hv : s.readies v srcs) : ((v.tile v.cur).share v.share).out = [] := by
    obtain ⟨beside, ⟨share, shares, -⟩, -⟩ := hv
    rw [beside.1, share]
    exact (congrArg (fun w : Vector Share 3 => (w.get s.share).out) shares).trans empty
  have appended {v : State} {srcs : List Reg} (hv : s.readies v srcs) (ha : v.act = s.act) (n : Nat) (k : OutKind) (o : Op) :
      item ((v.items n k).retire o .next) n k := by
    have out := out_items hv ha n k o
    rwa [empty] at out
  have ready {v : State} {srcs : List Reg} (hv : s.readies v srcs) {w : Word} {least : Nat} (hb : body v w least) : v.bodyOk w least := by
    obtain ⟨payload, window, self⟩ := hb
    refine ⟨payload, by rwa [hv.1.1], ?_⟩
    rw [State.ownClear, hv.1.1, hv.1.2.1, self]
    rfl
  have room {v : State} {srcs : List Reg} (hv : s.readies v srcs) {w : Word} {least : Nat} (hb : body v w least) :
      v.outRoom (16 + wfield w 39 32) = true := outRoom_empty (emptyIn hv) (by have := hb.1.2.2.2.2; omega)
  refine ⟨fun h dst rep => ⟨fun bits hb => ?_, fun bits aligned hb => ?_⟩, fun h dst => ⟨fun k rep bits => ?_, fun bits => ?_⟩, fun h hb => ?_⟩
  · exact ⟨_, _, send s rep b a t h bits (ready two hb) dst (room two hb), appended (readies_body two pw) (by simp [s2, s1, State.bodyRead]) _ _ _, rfl, rfl, rfl, rfl⟩
  · exact ⟨_, _, put s rep b a t h bits aligned (ready two hb) dst (room two hb), appended (readies_body two pw) (by simp [s2, s1, State.bodyRead]) _ _ _, rfl, rfl, rfl, rfl⟩
  · have fits : s1.outRoom (16 + 8 * (k.toNat + 1)) = true := outRoom_empty (emptyIn one) (by have := k.isLt; omega)
    exact ⟨_, _, sendn s k rep a t h bits dst fits, appended one (by simp [s1]) _ _ _, rfl, rfl, rfl⟩
  · exact ⟨_, _, spawn s a t h bits dst (outRoom_empty (emptyIn one) (by decide)), appended one (by simp [s1]) _ _ _, rfl, rfl, rfl⟩
  · exact ⟨_, _, host s a h (ready one hb) (room one hb), appended (readies_body one tw) (by simp [s1, State.bodyRead]) _ _ _, rfl, rfl⟩

/-! ### Partitions (R132, R412, R413, R417 to R425) -/

theorem onlyBits_of_lt {w : Word} {n : Nat} (h : w.toNat < 2 ^ (n + 1)) : onlyBits w [(n, 0)] = true := by
  refine List.all_eq_true.mpr fun i _ => ?_
  by_cases hi : i ≤ n
  · simp [hi]
  · have clear : w.getLsbD i = false := Nat.testBit_eq_false_of_lt (Nat.lt_of_lt_of_le h (Nat.pow_le_pow_right (by decide) (by omega)))
    simp [clear]

theorem parts_takeTile (s : State) (t : Nat) (i : Fin 3) : (s.takeTile t i).parts = s.parts := rfl
theorem parts_applyUnit (s : State) (p : Part) (b c mode : Nat) : (s.applyUnit p b c mode).parts = s.parts := by
  have tiles (g : Tile → Tile) (ts : List Nat) : (ts.foldl (fun (a : State) t => a.modTile t g) s).parts = s.parts :=
    foldl_view State.parts (f := fun (a : State) t => a.modTile t g) (fun _ _ => rfl) ts s
  unfold State.applyUnit
  dsimp only
  split <;> exact tiles _ _
theorem parts_logOnly (s : State) (e : ErrEvent) : (s.logOnly e).parts = s.parts := by
  rw [State.logOnly, enterLog_eq]
theorem parts_recheckShutter (s s0 : State) (pid : Nat) (p : Part) (dl : Nat) (us : List ShutterUnit) :
    (s.recheckShutter s0 pid p dl us).parts = s.parts := by
  refine foldl_view State.parts (fun u b => ?_) _ s
  split
  · rfl
  · exact parts_logOnly u _

theorem partFree_frees {s : State} {pid : Nat} {p : Part} (h : s.parts.get? pid = some p) (hr : p.isReflex = false) (hl : p.launch = none)
    (hi : p.image = []) (hs : p.state = 1 ∨ p.state = 4) : (s.partFree pid).2 = 0 ∧ (s.partFree pid).1.parts = s.parts.erase pid := by
  have saved : savedState p.state = false := by obtain e | e := hs <;> rw [e] <;> rfl
  have idle : ¬ (p.state = 9 ∨ p.state = 3 ∨ p.state = 5 ∨ p.state = 8) := by omega
  unfold State.partFree
  rw [h]
  dsimp only
  rw [if_neg (by simp [hr, hl, hi, saved]), if_neg idle]
  refine ⟨rfl, ?_⟩
  rw [parts_noteSaved, parts_reconfigure]
  exact congrArg (fun m => NMap.erase m pid) (foldl_view State.parts (fun s t => parts_takeTile s t p.shareIdx) p.tiles s)
theorem partMk_zero {s : State} {d : Rec512} (hm : descMalformed d = false) (hn : s.parts.get? (descPid d) = none)
    (hf : s.nodeFree (descNode d) (descHalf d) none = true) (hb : ∀ b ∈ partBays (nodeTiles (descNode d)), s.bayDegraded b = false)
    (ha : s.sys.asleep = false) : (s.partMk d).2 = 0 := by
  have bays : (partBays (nodeTiles (descNode d))).any s.bayDegraded = false := List.any_eq_false.mpr fun b hx => by rw [hb b hx]; exact Bool.false_ne_true
  unfold State.partMk
  rw [if_neg (by rw [hm]; exact Bool.false_ne_true), if_neg (by simp [hn, hf, bays, ha])]

/-- Making and freeing partitions on the system core. -/
theorem partTable_completes (s : State) (a d : Reg) (hc : s.cur = 3072) (h : s.Ready { srcs := [a], dsts := [d] }) :
    let s1 := s.after a
    let x := s.val a
    let ends (u : State) : Host.Outcome State Fault Refusal := .next ((u.give d 0#64).retire { srcs := [a], dsts := [d] } .next)
    (let r := BitVec.ofNat 512 (s1.ownNat x.toNat 64)
     x.toNat % 64 = 0 → s1.inWindow 3072 x.toNat 64 .load → s1.calm → s1.flips = [] → s1.cleanOwn x.toNat 64 →
     descMalformed r = false → s.parts.get? (descPid r) = none → s1.nodeFree (descNode r) (descHalf r) none = true →
     (∀ b ∈ partBays (nodeTiles (descNode r)), s1.bayDegraded b = false) → s.sys.asleep = false →
       ∃ u, exec (.partMk a d) s = ends u ∧ u.parts.get? (descPid r) = some { desc := r })
    ∧ (∀ p, x.toNat < 16 → s.parts.get? x.toNat = some p → p.isReflex = false → p.launch = none → p.image = [] → p.state = 1 ∨ p.state = 4 →
        ∃ u, exec (.partFree a d) s = ends u ∧ u.parts = s.parts.erase x.toNat) := by
  intro s1 x ends
  refine ⟨fun hm hw calm sound clean well absent free bays awake => ?_, fun p hx hp hr hl hi hs => ?_⟩
  · have reads : s1.reads x.toNat 64 = s1 := reads_sound sound x.toNat 64
    have out := partMk_runs h hc hm hw ⟨ownClear_calm calm x.toNat 64, by rw [reads]; exact clean⟩
    dsimp only at out
    rw [reads] at out
    have zero := partMk_zero (s := s1) well absent free bays awake
    rw [zero] at out
    exact ⟨_, (exec_partMk a d s).trans out, partMk_makes zero⟩
  · obtain ⟨zero, parts⟩ := partFree_frees (s := s1) hp hr hl hi hs
    have out := partFree_runs h hc (onlyBits_of_lt hx)
    dsimp only at out
    rw [zero] at out
    exact ⟨_, (exec_partFree a d s).trans out, parts⟩

/-- The word of a number below 16, and of 0 or 1. -/
theorem sysHold_runs {s : State} {x y : Word} {on : Bool} (hx : x.toNat < 16) (hy : y = if on then 1#64 else 0#64) :
    sysHold s x y = natOut (s.partHold x.toNat on) ∧ sysHalt s x y = natOut (s.partHalt x.toNat on) := by
  have bits : (onlyBits x [(3, 0)] && decide (y.toNat ≤ 1)) = true := by
    rw [onlyBits_of_lt hx, hy]
    cases on <;> rfl
  have sets : decide (y = 1#64) = on := by
    rw [hy]
    cases on <;> rfl
  unfold sysHold sysHalt
  rw [if_pos bits, if_pos bits, sets]
  exact ⟨rfl, rfl⟩
theorem shutPost_posts {s : State} {pid dl : Nat} {p : Part} (h : s.parts.get? pid = some p) (hr : p.isReflex = false) (h1 : p.state = 1)
    (hf : s.dtime + s.partFloor pid p dl ≤ dl) :
    (s.shutPost pid dl).2 = 0#64 ∧ ((s.shutPost pid dl).1.parts.get? pid).map (·.state) = some 9 := by
  unfold State.shutPost
  rw [h]
  dsimp only
  rw [if_neg (by rw [h1]; decide), if_neg (by rw [hr, h1]; decide), if_neg (by omega)]
  refine ⟨rfl, ?_⟩
  have applied := foldl_view State.parts (f := fun (a : State) (u : ShutterUnit) => a.applyUnit p u.bay u.chan u.mode)
    (fun u x => parts_applyUnit u p x.bay x.chan x.mode) (s.shutUnits pid p dl)
  rw [parts_recheckShutter, applied, get?_modPart h]
  rfl

/-- The save of a halted partition, and its restore, by their swap words (R417 to R420). -/
theorem partSwap_saves {s : State} {k : Nat} {p : Part} (h : s.parts.get? k = some p) (hr : p.isReflex = false) (h4 : p.state = 4) :
    s.partSwap (some k) false none 0
      = ({ (s.modPart k fun p => { p with state := 5 }) with
           swaps := (s.modPart k fun p => { p with state := 5 }).swaps ++ [{ out := some k, toDram := false, back := none, node := 0 }] }, 0) := by
  simp [State.partSwap, h, hr, h4]
theorem partSwap_restores {s : State} {k : Nat} {p : Part} (h : s.parts.get? k = some p) (hr : p.isReflex = false) (h7 : p.state = 7)
    (hs : p.inShadow = false) (hf : s.nodeFree (descNode p.desc) (descHalf p.desc) none = true) (hm : s.shadowMet (descNode p.desc) [k] = false) :
    s.partSwap none false (some k) 0
      = ({ (s.modPart k fun p => { p with state := 8 }) with
           swaps := (s.modPart k fun p => { p with state := 8 }).swaps
             ++ [{ out := none, toDram := false, back := some k, node := descNode p.desc }] }, 0) := by
  simp [State.partSwap, h, hr, h7, hs, hf, hm, savedState]

/-- The swap words of a save and of a restore. -/
theorem swapWords : ∀ k : Fin 16,
    (let x := BitVec.ofNat 64 (16 + k.val)
     onlyBits x [(5, 0), (12, 8)] = true ∧ x.getLsbD 4 = true ∧ x.getLsbD 5 = false ∧ x.getLsbD 12 = false ∧ wfield x 3 0 = k.val)
    ∧ (let x := BitVec.ofNat 64 (4096 + 256 * k.val)
       onlyBits x [(5, 0), (12, 8)] = true ∧ x.getLsbD 4 = false ∧ x.getLsbD 5 = false ∧ x.getLsbD 12 = true ∧ wfield x 11 8 = k.val) := by decide
theorem sysSwap_save (s : State) (k : Fin 16) : sysSwap s (BitVec.ofNat 64 (16 + k.val)) 0#64 = natOut (s.partSwap (some k.val) false none 0) := by
  obtain ⟨⟨bits, out, dram, back, num⟩, -⟩ := swapWords k
  unfold sysSwap
  rw [if_pos (by rw [bits]; decide), out, dram, back, num]
  rfl
theorem sysSwap_restore (s : State) (k : Fin 16) :
    sysSwap s (BitVec.ofNat 64 (4096 + 256 * k.val)) 0#64 = natOut (s.partSwap none false (some k.val) 0) := by
  obtain ⟨-, bits, out, dram, back, num⟩ := swapWords k
  unfold sysSwap
  rw [if_pos (by rw [bits]; decide), out, dram, back, num]
  rfl

/-! ### Virtual functions (R429 to R432) -/

theorem functionWord (f : Fin 16) : onlyBits (BitVec.ofNat 64 f.val) [(3, 0)] = true ∧ (BitVec.ofNat 64 f.val).toNat = f.val :=
  ⟨onlyBits_of_lt (by simp; omega), by simp; omega⟩
/-- The words of a teardown. -/
theorem teardownWords : ∀ (q : Fin 8) (kill : Bool),
    let y := BitVec.ofNat 64 (3 + q.val * 256 + if kill then 65536 else 0)
    onlyBits y [(1, 0), (16, 8)] = true ∧ wfield y 1 0 = 3 ∧ wfield y 15 8 = q.val ∧ y.getLsbD 16 = kill := by decide

section
variable {s : State} {f : Fin 16}
/-- A form of vf.ctl on a function that is not being reset, by the operation that its word or its constructor names. -/
theorem sysVf_runs {op : Word → Nat} {y : Word} (hb : onlyBits y [(1, 0), (16, 8)] = true) (ho : op y = 3 ∨ wfield y 16 8 = 0) :
    sysVf op s (BitVec.ofNat 64 f.val) y = natOut (s.vfCtl f.val (op y) (wfield y 15 8) (y.getLsbD 16)) := by
  unfold sysVf
  rw [if_pos (by simpa [functionWord f, hb] using ho), (functionWord f).2]
theorem vfCtl_eq (hr : (s.fn f.val).resetting = false) (q : Nat) (kill : Bool) :
    s.vfCtl f.val 0 q kill = (s.modFn f.val Fn.pause, 0) ∧ s.vfCtl f.val 1 q kill = (s.modFn f.val Fn.resume, 0)
    ∧ s.vfCtl f.val 2 q kill = (s.resetBegin f.val, 0) := by
  have running : ¬ (s.fn f.val).resetting = true := by rw [hr]; exact Bool.false_ne_true
  exact ⟨if_neg running, if_neg running, if_neg running⟩
theorem vfCtl_teardown (hr : (s.fn f.val).resetting = false) (q : Fin 8) (kill : Bool) :
    s.vfCtl f.val 3 q kill = (s.teardown f.val q kill, 0) := by
  have running : ¬ (s.fn f.val).resetting = true := by rw [hr]; exact Bool.false_ne_true
  refine (if_neg running).trans ((if_neg (by omega)).trans ?_)
  congr 2
  exact Fin.ext (Nat.mod_eq_of_lt q.isLt)
end

/-- The forms of the system core on a partition. -/
theorem systemOnParts_completes (s : State) (b a d : Reg) (p : Part) (hc : s.cur = 3072) (h : s.Ready (opAB b a d)) :
    let s2 := (s.after a).after b
    let x := s.val a
    let y := (s.after a).val b
    let ends (u : State) (v : Word) : Host.Outcome State Fault Refusal := .next ((u.give d v).retire (opAB b a d) .next)
    let becomes (u : State) (k n : Nat) : Prop := (u.parts.get? k).map (·.state) = some n
    (x.toNat < 16 → s.parts.get? x.toNat = some p →
      (∀ on : Bool, y = (if on then 1#64 else 0#64) →
        (p.isReflex = true → exec (.partHold b a d) s = ends s2 2#64)
        ∧ (p.isReflex = false → p.state ∈ [3, 5, 8, 9] → exec (.partHold b a d) s = ends s2 3#64)
        ∧ (p.isReflex = false → p.state ∉ [3, 5, 8, 9] →
            exec (.partHold b a d) s = ends (s2.modPart x.toNat fun q => { q with hold := on }) 0#64))
      ∧ (p.isReflex = false → p.state = 1 → y = 1#64 → ∃ u, exec (.partHalt b a d) s = ends u 0#64 ∧ becomes u x.toNat 3)
      ∧ (p.isReflex = false → p.state = 4 → y = 0#64 → ∃ u, exec (.partHalt b a d) s = ends u 0#64 ∧ becomes u x.toNat 1)
      ∧ (p.isReflex = false → p.state = 1 → s2.dtime + s2.partFloor x.toNat p y.toNat ≤ y.toNat →
          ∃ u, exec (.shutPost b a d) s = ends u 0#64 ∧ becomes u x.toNat 9)
      ∧ (y.toNat ≤ 3 → exec (.shutStat b a d) s = ends s2 (BitVec.ofNat 64 (s2.shutStat x.toNat y.toNat))))
    ∧ (∀ k : Fin 16, s.parts.get? k.val = some p → p.isReflex = false → y = 0#64 →
      (p.state = 4 → x = BitVec.ofNat 64 (16 + k.val) → ∃ u, exec (.partSwap b a d) s = ends u 0#64 ∧ becomes u k.val 5
        ∧ u.swaps = s.swaps ++ [{ out := some k.val, toDram := false, back := none, node := 0 }])
      ∧ (p.state = 7 → p.inShadow = false → s2.nodeFree (descNode p.desc) (descHalf p.desc) none = true →
          s2.shadowMet (descNode p.desc) [k.val] = false → x = BitVec.ofNat 64 (4096 + 256 * k.val) →
            ∃ u, exec (.partSwap b a d) s = ends u 0#64 ∧ becomes u k.val 8
              ∧ u.swaps = s.swaps ++ [{ out := none, toDram := false, back := some k.val, node := descNode p.desc }])) := by
  intro s2 x y ends becomes
  obtain ⟨⟨-, hold, halt, swap, post, stat, -⟩, -⟩ := partitionForms
  have runs {i : Reg → Reg → Reg → Instr} {f : SysOp} (hi : SystemYields i f) {u : State} {v : Word} (hf : f s2 x y = some (u, v)) :
      exec (i b a d) s = ends u v := (hi s b a d h).1 hc u v hf
  refine ⟨fun hx hp => ⟨fun on hy => ⟨fun hr => ?_, fun hr hs => ?_, fun hr hs => ?_⟩, fun hr h1 hy => ?_, fun hr h4 hy => ?_, fun hr h1 hf => ?_, fun hy => ?_⟩,
    fun k hp hr hy => ⟨fun h4 hx => ?_, fun h7 hs hf hm hx => ?_⟩⟩
  · refine runs hold ((sysHold_runs hx hy).1.trans ?_)
    rw [State.partHold, show s2.parts.get? x.toNat = some p from hp]
    exact congrArg natOut (if_pos hr)
  · refine runs hold ((sysHold_runs hx hy).1.trans ?_)
    rw [State.partHold, show s2.parts.get? x.toNat = some p from hp]
    dsimp only
    rw [if_neg (by rw [hr]; exact Bool.false_ne_true), if_pos (by simpa using hs)]
    rfl
  · refine runs hold ((sysHold_runs hx hy).1.trans ?_)
    rw [State.partHold, show s2.parts.get? x.toNat = some p from hp]
    dsimp only
    rw [if_neg (by rw [hr]; exact Bool.false_ne_true), if_neg (by simpa using hs)]
    rfl
  · have begun := partHalt_begins (s := s2) hp hr h1
    refine ⟨_, runs halt ((sysHold_runs (on := true) hx hy).2.trans (congrArg natOut begun)), ?_⟩
    exact congrArg (Option.map (·.state)) (get?_modPart (s := s2) hp _)
  · have released := partHalt_releases (s := s2) hp hr h4
    refine ⟨_, runs halt ((sysHold_runs (on := false) hx hy).2.trans (congrArg natOut released)), ?_⟩
    exact congrArg (Option.map (·.state)) (get?_modPart (s := s2) hp _)
  · obtain ⟨zero, state⟩ := shutPost_posts (s := s2) hp hr h1 hf
    refine ⟨_, runs post (u := (s2.shutPost x.toNat y.toNat).1) ?_, state⟩
    unfold sysShutPost
    rw [if_pos (onlyBits_of_lt hx), ← zero]
  · refine runs stat ?_
    unfold sysShutStat
    rw [if_pos (by rw [onlyBits_of_lt hx, decide_eq_true hy]; rfl)]
    rfl
  · have saved := partSwap_saves (s := s2) hp hr h4
    refine ⟨(s2.partSwap (some k.val) false none 0).1, runs swap ?_, ?_, ?_⟩
    · rw [hx, hy, sysSwap_save, saved]
      rfl
    · rw [saved]
      exact congrArg (Option.map (·.state)) (get?_modPart (s := s2) hp _)
    · rw [saved]
      exact congrArg (· ++ _) (modPart_swaps s2 _ _)
  · have saved := partSwap_restores (s := s2) hp hr h7 hs hf hm
    refine ⟨(s2.partSwap none false (some k.val) 0).1, runs swap ?_, ?_, ?_⟩
    · rw [hx, hy, sysSwap_restore, saved]
      rfl
    · rw [saved]
      exact congrArg (Option.map (·.state)) (get?_modPart (s := s2) hp _)
    · rw [saved]
      exact congrArg (· ++ _) (modPart_swaps s2 _ _)

/-- The forms of the system core on a function. -/
theorem systemOnFunctions_completes (s : State) (b a d : Reg) (hc : s.cur = 3072) (h : s.Ready (opAB b a d)) :
    let s2 := (s.after a).after b
    let x := s.val a
    let y := (s.after a).val b
    let ends (u : State) (v : Word) : Host.Outcome State Fault Refusal := .next ((u.give d v).retire (opAB b a d) .next)
    ∀ f : Fin 16, x = BitVec.ofNat 64 f.val → (s.fn f.val).resetting = false →
      (y = 0#64 → exec (.vfCtlPause b a d) s = ends (s2.modFn f.val Fn.pause) 0#64)
      ∧ (∀ i ∈ [Instr.vfCtlPause b a d, .vfCtlResume b a d], y = 1#64 → exec i s = ends (s2.modFn f.val Fn.resume) 0#64)
      ∧ (∀ i ∈ [Instr.vfCtlPause b a d, .vfCtlReset b a d], y = 2#64 → exec i s = ends (s2.resetBegin f.val) 0#64)
      ∧ (∀ (q : Fin 8) (kill : Bool), y = BitVec.ofNat 64 (3 + q.val * 256 + if kill then 65536 else 0) →
          ∀ i ∈ [Instr.vfCtlPause b a d, .vfCtlTeardown b a d], exec i s = ends (s2.teardown f.val q kill) 0#64) := by
  intro s2 x y ends f hx hr
  obtain ⟨⟨-, -, -, -, -, -, pause, resume, reset, teardown⟩, -⟩ := partitionForms
  have runs {i : Reg → Reg → Reg → Instr} {f : SysOp} (hi : SystemYields i f) {u : State} {v : Word} (hf : f s2 x y = some (u, v)) :
      exec (i b a d) s = ends u v := (hi s b a d h).1 hc u v hf
  have named {i : Reg → Reg → Reg → Instr} {op : Word → Nat} {u : State} (hi : SystemYields i (sysVf op)) (hb : onlyBits y [(1, 0), (16, 8)] = true)
      (ho : op y = 3 ∨ wfield y 16 8 = 0) (hu : s2.vfCtl f.val (op y) (wfield y 15 8) (y.getLsbD 16) = (u, 0)) : exec (i b a d) s = ends u 0#64 :=
    runs hi (by rw [hx, sysVf_runs hb ho, hu]; rfl)
  have ops (q : Nat) (kill : Bool) : s2.vfCtl f.val 0 q kill = (s2.modFn f.val Fn.pause, 0) ∧ s2.vfCtl f.val 1 q kill = (s2.modFn f.val Fn.resume, 0)
      ∧ s2.vfCtl f.val 2 q kill = (s2.resetBegin f.val, 0) := vfCtl_eq (s := s2) hr q kill
  simp only [List.forall_mem_cons]
  refine ⟨fun hy => ?_, ⟨fun hy => ?_, fun hy => ?_, List.forall_mem_nil _⟩, ⟨fun hy => ?_, fun hy => ?_, List.forall_mem_nil _⟩, fun q kill hy => ?_⟩
  · exact named pause (by rw [hy]; decide) (.inr (by rw [hy]; decide)) (by rw [hy]; exact (ops _ _).1)
  · exact named pause (by rw [hy]; decide) (.inr (by rw [hy]; decide)) (by rw [hy]; exact (ops _ _).2.1)
  · exact named resume (by rw [hy]; decide) (.inr (by rw [hy]; decide)) (ops _ _).2.1
  · exact named pause (by rw [hy]; decide) (.inr (by rw [hy]; decide)) (by rw [hy]; exact (ops _ _).2.2)
  · exact named reset (by rw [hy]; decide) (.inr (by rw [hy]; decide)) (ops _ _).2.2
  · obtain ⟨bits, op, queue, killed⟩ := teardownWords q kill
    rw [← hy] at bits op queue killed
    have torn : s2.vfCtl f.val 3 (wfield y 15 8) (y.getLsbD 16) = (s2.teardown f.val q kill, 0) := by
      rw [queue, killed]
      exact vfCtl_teardown (s := s2) hr q kill
    exact ⟨named pause bits (.inl op) (by rw [op]; exact torn), named teardown bits (.inl rfl) torn, List.forall_mem_nil _⟩

/-- Settles O60: each form's result stands in the lemmas about it, whose conditions hold where nothing is on its way and the operands are in range. -/
theorem orderedSendingAndPartitionFormsComplete : Obligations.OrderedSendingAndPartitionFormsComplete := by
  unfold Obligations.OrderedSendingAndPartitionFormsComplete
  obtain ⟨fence, all, one⟩ := ordered_completes
  obtain ⟨acquire, release⟩ := acquireRelease_completes
  refine ⟨⟨fence, all, one, acquire, release⟩, sends_complete, partTable_completes,
    fun s b a d p hc h => ⟨(systemOnParts_completes s b a d p hc h).1, (systemOnParts_completes s b a d p hc h).2, systemOnFunctions_completes s b a d hc h⟩,
    fun s n p hp h3 => ⟨_, (exec_haltComplete n s).trans (haltComplete_eq hp h3), ?_⟩⟩
  exact congrArg (Option.map (·.state)) (get?_modPart hp _)

end Sys2Proof.Machine
end

section
/-! Accesses at their slices (R54, R61, R63, R82, R128, R284). -/

namespace Sys2Proof.Machine
open Sys2Proof

/-! ### Masked writes (R61) -/

/-- The byte at a written key: the masked bits are the cell's. -/
theorem Memory.get_writeMasked_inside {m : Memory} (h : Memory.wf m) {cs : List (Nat × Byte × Byte)} (hn : (cs.map (·.1)).Nodup)
    {c : Nat × Byte × Byte} (hc : c ∈ cs) : (m.writeMasked cs).get c.1 = (m.get c.1 &&& ~~~ c.2.2) ||| (c.2.1 &&& c.2.2) := by
  induction cs generalizing m with
  | nil => cases hc
  | cons x r ih =>
    obtain ⟨a, v, k⟩ := x
    obtain ⟨first, rest⟩ := List.nodup_cons.1 hn
    rw [Memory.writeMasked]
    rcases List.mem_cons.1 hc with rfl | hc
    · rw [Memory.get_writeMasked_outside (Memory.wf_set h _ _) r fun c hc e => first (List.mem_map.2 ⟨c, hc, e⟩)]
      exact Memory.get_set_same h _ _
    · rw [ih (Memory.wf_set h _ _) rest hc, Memory.get_set_ne h _ fun e => first (List.mem_map.2 ⟨c, hc, e.symm⟩)]

/-- A write of whole bytes replaces them. -/
theorem whole_byte (x v : Byte) : ((x &&& ~~~ 0xFF#8) ||| (v &&& 0xFF#8)) = v := by
  show ((x &&& ~~~ BitVec.allOnes 8) ||| (v &&& BitVec.allOnes 8)) = v
  simp only [BitVec.not_allOnes, BitVec.and_zero, BitVec.zero_or, BitVec.and_allOnes]
theorem keys_plainCells {ks : List Nat} {bs : List Byte} (hl : ks.length = bs.length) : (plainCells ks bs).map (·.1) = ks := by
  unfold plainCells
  rw [List.map_map]
  exact List.map_fst_zip hl.le
/-- The bytes at the keys of a write of whole bytes. -/
theorem gets_writeMasked_plain {m : Memory} (h : Memory.wf m) {ks : List Nat} {bs : List Byte} (hn : ks.Nodup) (hl : ks.length = bs.length) :
    ks.map (m.writeMasked (plainCells ks bs)).get = bs := by
  refine List.ext_getElem (by simpa using hl) fun i h1 h2 => ?_
  have hi : i < ks.length := by simpa using h1
  have mem : (ks[i], bs[i], 0xFF#8) ∈ plainCells ks bs :=
    List.mem_map.2 ⟨(ks[i], bs[i]), by rw [← List.getElem_zip (h := by simp; omega)]; exact List.getElem_mem _, rfl⟩
  rw [List.getElem_map, Memory.get_writeMasked_inside h (by rw [keys_plainCells hl]; exact hn) mem]
  exact whole_byte _ _

/-! ### Lines that an access reads or writes (R54, R63, R82) -/

section
variable (s : State)
theorem readLines_cache (ls : List (Nat × Bool)) : s.CacheOnly (s.readLines ls) :=
  State.CacheOnly.foldl (fun s l => by
    by_cases h : l.2 = true
    · rw [if_pos h]; exact readLine_cache s true l.1
    · rw [if_neg h]; exact l2Touch_cache s l.1 false) ls s
theorem writeLine_cache (nc : Bool) (l : Nat) : s.CacheOnly (s.writeLine nc l) := by
  unfold State.writeLine
  split
  · exact (l2Flush_cache s l).trans (openRow_cache _ l)
  · exact l2Touch_cache s l true
theorem writeLines_cache (ls : List (Nat × Bool)) : s.CacheOnly (s.writeLines ls) :=
  State.CacheOnly.foldl (fun (s : State) (l : Nat × Bool) => writeLine_cache s l.2 l.1) ls s
theorem dropNc_cache (ls : List (Nat × Bool)) : s.CacheOnly (s.dropNc ls) :=
  State.CacheOnly.foldl (fun s l => by
    split
    · exact l2Flush_cache s l.1
    · exact State.CacheOnly.refl s) ls s
end
section
variable {s u : State} (h : s.CacheOnly u)
include h
theorem mem_cacheOnly : u.mem = s.mem := by rw [h]
theorem sliceQ_cacheOnly : u.sliceQ = s.sliceQ := by rw [h]
theorem tiles_cacheOnly : u.tiles = s.tiles := by rw [h]
theorem tile_cacheOnly (t : Nat) : u.tile t = s.tile t := by unfold State.tile; rw [tiles_cacheOnly h]
theorem loadBytes_cacheOnly (o : SliceOp) (addrs : List Nat) : u.loadBytes o addrs = s.loadBytes o addrs := by
  unfold State.loadBytes State.fromRd State.rdHit State.tenantOf
  rw [h]
  rfl
end
/-- A write at the slices takes the cells whose controllers take them. -/
theorem mem_writeCells (s : State) (cells : List (Nat × Byte × Byte)) : (s.writeCells cells).mem = s.mem.writeMasked (cells.filter fun c => s.takes c.1) := rfl
theorem sliceQ_writeCells (s : State) (cells : List (Nat × Byte × Byte)) : (s.writeCells cells).sliceQ = s.sliceQ := rfl
theorem tiles_writeCells (s : State) (cells : List (Nat × Byte × Byte)) : (s.writeCells cells).tiles = s.tiles := rfl
theorem tile_writeCells (s : State) (cells : List (Nat × Byte × Byte)) (t : Nat) : (s.writeCells cells).tile t = s.tile t := rfl
theorem takes_contained {s : State} (h : s.sys.uncontained = false) (k : Nat) : s.takes k = true := by simp [State.takes, h]
theorem mem_writeCells_contained {s : State} (h : s.sys.uncontained = false) (cells : List (Nat × Byte × Byte)) :
    (s.writeCells cells).mem = s.mem.writeMasked cells := by
  rw [mem_writeCells, List.filter_eq_self.2 fun c _ => takes_contained h c.1]
theorem get_writeCells_outside {s : State} (h : s.Safe) {cells : List (Nat × Byte × Byte)} {k : Nat} (hk : k ∉ cells.map (·.1)) :
    (s.writeCells cells).mem.get k = s.mem.get k := by
  rw [mem_writeCells]
  exact Memory.get_writeMasked_outside h _ fun c hc e => hk (List.mem_map.2 ⟨c, List.mem_of_mem_filter hc, e⟩)

/-! ### Answers (R62) -/

/-- An answer reaches both halves of its context. -/
theorem slot_sendReply (s : State) (t : Nat) (c : Fin 8) (id : Nat) (r : Reply) (h : Bool) :
    (((s.sendReply t c id r).tile t).ctx c).slot h = (((s.tile t).ctx c).slot h).answer id r := by
  unfold State.sendReply
  rw [tile_modTile]
  dsimp only
  rw [Tile.ctx_setCtx]
  cases h <;> rfl
@[simp] theorem mem_sendReply (s : State) (t : Nat) (c : Fin 8) (id : Nat) (r : Reply) : (s.sendReply t c id r).mem = s.mem := rfl
theorem sliceQ_sendReply (s : State) (t : Nat) (c : Fin 8) (id : Nat) (r : Reply) : (s.sendReply t c id r).sliceQ = s.sliceQ := rfl
theorem ctx_rdFillLines (s : State) (t tn u : Nat) (ls : List Nat) (c : Fin 8) : ((s.rdFillLines t tn ls).tile u).ctx c = (s.tile u).ctx c := by
  unfold State.rdFillLines
  exact tile_modTile_view (fun x => x.ctx c) s t u _ fun _ => rfl

/-! ### What an access does at its slice -/

section
variable {s : State} {o : SliceOp}
theorem performAccess_load {id : Nat} {addrs : List Nat} (h : o.what = .load id addrs) : s.performAccess o =
    let s1 := s.readLines (o.lines ((mainKeys addrs).filter fun k => (s.fromRd o k).isNone))
    (s1.rdFillLines o.src.tile (s.tenantOf o.src.pid) (linesOf ((mainKeys addrs).filter (GlobalPath.rcKey o.parts)))).sendReply o.src.tile o.src.c id
      (if s1.loadPoisoned o addrs then .poisoned 1 0#64 else .value (BitVec.ofNat 64 (leNat (s.loadBytes o addrs)))) := by
  unfold State.performAccess
  rw [h]
  dsimp only
  rw [loadBytes_cacheOnly (readLines_cache s _)]
theorem performAccess_store {cells : List (Nat × Byte × Byte)} (h : o.what = .store cells) : s.performAccess o =
    ((s.writeLines (o.lines (cells.map (·.1)))).writeCells cells).rdPatch o.src.tile (s.tenantOf o.src.pid)
      (cells.filter fun c => GlobalPath.rcKey o.parts c.1) := by
  unfold State.performAccess
  rw [h]
theorem performAccess_host {f : Fin 16} {cells : List (Nat × Byte × Byte)} (h : o.what = .host f cells) :
    s.performAccess o = (s.writeLines (o.lines (cells.map (·.1)))).writeCells cells := by
  unfold State.performAccess
  rw [h]
theorem performAccess_amo_poisoned {id op : Nat} {w64 : Bool} {ks : List Nat} {v cmp : Word} (h : o.what = .amo id op w64 ks v cmp)
    (hp : s.keysPoisoned ks = true) : s.performAccess o =
      ((s.readLines ((o.lines ks).map fun l => (l.1, false))).dropNc (o.lines ks)).sendReply o.src.tile o.src.c id (.poisoned 1 0#64) := by
  unfold State.performAccess
  rw [h]
  exact if_pos hp
theorem performAccess_amo_clean {id op : Nat} {w64 : Bool} {ks : List Nat} {v cmp : Word} (h : o.what = .amo id op w64 ks v cmp)
    (hp : s.keysPoisoned ks = false) :
    let r := amoApply op w64 (leNat (s.bytesAt ks)) v.toNat cmp.toNat
    s.performAccess o = (((s.writeLines ((o.lines ks).map fun l => (l.1, false))).writeCells (plainCells ks (leBytes (amoSize w64) r.1))).dropNc
      (o.lines ks)).sendReply o.src.tile o.src.c id (.value r.2.1 r.2.2) := by
  unfold State.performAccess
  rw [h]
  exact if_neg (by rw [hp]; exact Bool.false_ne_true)
end

/-- What an access does is no change of the slices' queue. -/
theorem sliceQ_performAccess (s : State) (o : SliceOp) : (s.performAccess o).sliceQ = s.sliceQ := by
  cases h : o.what with
  | load id addrs => rw [performAccess_load h]; exact sliceQ_cacheOnly (u := s.readLines _) (readLines_cache s _)
  | store cells => rw [performAccess_store h]; exact sliceQ_cacheOnly (u := s.writeLines _) (writeLines_cache s _)
  | amo id op w64 ks v cmp =>
    cases hp : s.keysPoisoned ks with
    | true =>
      rw [performAccess_amo_poisoned h hp, sliceQ_sendReply]
      exact sliceQ_cacheOnly ((readLines_cache s _).trans (dropNc_cache _ _))
    | false =>
      rw [performAccess_amo_clean h hp, sliceQ_sendReply, sliceQ_cacheOnly (dropNc_cache _ _), sliceQ_writeCells]
      exact sliceQ_cacheOnly (writeLines_cache s _)
  | host f cells => rw [performAccess_host h]; exact sliceQ_cacheOnly (u := s.writeLines _) (writeLines_cache s _)
  | probe slice => unfold State.performAccess; rw [h]
/-- A load reads. -/
theorem mem_performAccess_load {s : State} {o : SliceOp} {id : Nat} {addrs : List Nat} (h : o.what = .load id addrs) :
    (s.performAccess o).mem = s.mem := by
  rw [performAccess_load h]
  exact mem_cacheOnly (u := s.readLines _) (readLines_cache s _)
theorem mem_performAccess_amo_poisoned {s : State} {o : SliceOp} {id op : Nat} {w64 : Bool} {ks : List Nat} {v cmp : Word}
    (h : o.what = .amo id op w64 ks v cmp) (hp : s.keysPoisoned ks = true) : (s.performAccess o).mem = s.mem := by
  rw [performAccess_amo_poisoned h hp, mem_sendReply]
  exact mem_cacheOnly ((readLines_cache s _).trans (dropNc_cache _ _))
theorem mem_performAccess_amo_clean {s : State} {o : SliceOp} {id op : Nat} {w64 : Bool} {ks : List Nat} {v cmp : Word}
    (h : o.what = .amo id op w64 ks v cmp) (hp : s.keysPoisoned ks = false) :
    (s.performAccess o).mem = ((s.writeLines ((o.lines ks).map fun l => (l.1, false))).writeCells
      (plainCells ks (leBytes (amoSize w64) (amoApply op w64 (leNat (s.bytesAt ks)) v.toNat cmp.toNat).1))).mem := by
  rw [performAccess_amo_clean h hp, mem_sendReply]
  exact mem_cacheOnly (dropNc_cache _ _)
/-- The memory after a store or an inbound write. -/
theorem mem_performAccess_store {s : State} {o : SliceOp} {cells : List (Nat × Byte × Byte)} (h : o.what = .store cells ∨ ∃ f, o.what = .host f cells) :
    (s.performAccess o).mem = ((s.writeLines (o.lines (cells.map (·.1)))).writeCells cells).mem := by
  rcases h with h | ⟨f, h⟩
  · rw [performAccess_store h]; rfl
  · rw [performAccess_host h]
theorem safe_writeLines {s : State} (h : s.Safe) (ls : List (Nat × Bool)) : (s.writeLines ls).Safe := by
  unfold State.Safe
  rw [mem_cacheOnly (writeLines_cache s ls)]
  exact h
/-- No byte changes but those that the access writes. -/
theorem get_performAccess_outside {s : State} (hs : s.Safe) (o : SliceOp) {k : Nat} (hk : k ∉ o.what.keys) :
    (s.performAccess o).mem.get k = s.mem.get k := by
  have stored {cells : List (Nat × Byte × Byte)} (ls : List (Nat × Bool)) (hk : k ∉ cells.map (·.1)) :
      ((s.writeLines ls).writeCells cells).mem.get k = s.mem.get k := by
    rw [get_writeCells_outside (safe_writeLines hs ls) hk, mem_cacheOnly (writeLines_cache s ls)]
  cases h : o.what with
  | load id addrs => rw [mem_performAccess_load h]
  | store cells => rw [mem_performAccess_store (.inl h)]; exact stored _ (by simpa [h, SliceWhat.keys] using hk)
  | amo id op w64 ks v cmp =>
    rw [h] at hk
    cases hp : s.keysPoisoned ks with
    | true => rw [mem_performAccess_amo_poisoned h hp]
    | false =>
      rw [mem_performAccess_amo_clean h hp]
      refine stored _ fun inside => hk ?_
      obtain ⟨c, hc, rfl⟩ := List.mem_map.1 inside
      obtain ⟨p, hp, rfl⟩ := List.mem_map.1 hc
      exact (List.of_mem_zip hp).1
  | host f cells => rw [mem_performAccess_store (.inr ⟨f, h⟩)]; exact stored _ (by simpa [h, SliceWhat.keys] using hk)
  | probe slice => unfold State.performAccess; rw [h]
/-- A store, or an inbound write, replaces the masked bits. -/
theorem get_performAccess_store {s : State} (hs : s.Safe) {o : SliceOp} {cells : List (Nat × Byte × Byte)}
    (h : o.what = .store cells ∨ ∃ f, o.what = .host f cells) (hu : (s.writeLines (o.lines (cells.map (·.1)))).sys.uncontained = false)
    (hn : (cells.map (·.1)).Nodup) {c : Nat × Byte × Byte} (hc : c ∈ cells) :
    (s.performAccess o).mem.get c.1 = (s.mem.get c.1 &&& ~~~ c.2.2) ||| (c.2.1 &&& c.2.2) := by
  rw [mem_performAccess_store h, mem_writeCells_contained hu, mem_cacheOnly (writeLines_cache s _)]
  exact Memory.get_writeMasked_inside hs hn hc
/-- An atomic replaces its word. -/
theorem bytesAt_performAccess_amo {s : State} (hs : s.Safe) {o : SliceOp} {id op : Nat} {w64 : Bool} {ks : List Nat} {v cmp : Word}
    (h : o.what = .amo id op w64 ks v cmp) (hp : s.keysPoisoned ks = false)
    (hu : (s.writeLines ((o.lines ks).map fun l => (l.1, false))).sys.uncontained = false) (hn : ks.Nodup) (hl : ks.length = amoSize w64) :
    (s.performAccess o).bytesAt ks = leBytes (amoSize w64) (amoApply op w64 (leNat (s.bytesAt ks)) v.toNat cmp.toNat).1 := by
  unfold State.bytesAt
  rw [mem_performAccess_amo_clean h hp, mem_writeCells_contained hu, mem_cacheOnly (writeLines_cache s _)]
  exact gets_writeMasked_plain hs hn (by rw [hl, leBytes_length])
/-- What a load, or an atomic, answers both halves of its context. -/
theorem answers_performAccess_load {s : State} {o : SliceOp} {id : Nat} {addrs : List Nat} (h : o.what = .load id addrs) (b : Bool) :
    (((s.performAccess o).tile o.src.tile).ctx o.src.c).slot b = (((s.tile o.src.tile).ctx o.src.c).slot b).answer id
      (if (s.readLines (o.lines ((mainKeys addrs).filter fun k => (s.fromRd o k).isNone))).loadPoisoned o addrs then .poisoned 1 0#64
       else .value (BitVec.ofNat 64 (leNat (s.loadBytes o addrs)))) := by
  rw [performAccess_load h, slot_sendReply, ctx_rdFillLines, tile_cacheOnly (readLines_cache s _)]
theorem answers_performAccess_amo {s : State} {o : SliceOp} {id op : Nat} {w64 : Bool} {ks : List Nat} {v cmp : Word}
    (h : o.what = .amo id op w64 ks v cmp) (b : Bool) :
    let answer (r : Reply) : Slot := (((s.tile o.src.tile).ctx o.src.c).slot b).answer id r
    let r := amoApply op w64 (leNat (s.bytesAt ks)) v.toNat cmp.toNat
    (s.keysPoisoned ks = true → (((s.performAccess o).tile o.src.tile).ctx o.src.c).slot b = answer (.poisoned 1 0#64))
    ∧ (s.keysPoisoned ks = false → (((s.performAccess o).tile o.src.tile).ctx o.src.c).slot b = answer (.value r.2.1 r.2.2)) := by
  refine ⟨fun hp => ?_, fun hp => ?_⟩
  · rw [performAccess_amo_poisoned h hp, slot_sendReply, tile_cacheOnly ((readLines_cache s _).trans (dropNc_cache _ _))]
  · rw [performAccess_amo_clean h hp, slot_sendReply, tile_cacheOnly (dropNc_cache _ _), tile_writeCells, tile_cacheOnly (writeLines_cache s _)]

/-! ### Lines that are filled, and probes (R63, R82, R296) -/

theorem l2_post (s : State) (e : ErrEvent) : (s.post e).l2 = s.l2 := by rw [post_eq]
theorem l2_quarantine (s : State) (f c : Nat) : (s.quarantine f c).l2 = s.l2 := by
  unfold State.quarantine
  dsimp only
  repeat' split
  all_goals simp only [l2_post, State.modSys]
theorem l2_recordPoison (s : State) (k : Nat) : (s.recordPoison k).l2 = s.l2 := by
  unfold State.recordPoison
  repeat' split
  all_goals first | rfl | exact l2_quarantine s _ _
theorem l2_readError (s : State) (k : Nat) : (s.readError k).l2 = s.l2 := by
  unfold State.readError State.logOnly
  dsimp only
  split
  · rw [post_eq]; exact l2_recordPoison s k
  · rw [enterLog_eq]; exact l2_recordPoison s k
theorem l2_openRow (s : State) (l : Nat) : (s.openRow l).l2 = s.l2 := by unfold State.openRow; split <;> rfl
/-- A controller that reads a line leaves the shared cache. -/
theorem l2_ctlRead (s : State) (l : Nat) : (s.ctlRead l).l2 = s.l2 := by
  unfold State.ctlRead
  split
  · rfl
  · exact (foldl_view State.l2 (fun s i => l2_readError s _) _ _).trans (l2_openRow s l)
/-- A line that is touched is the cache's first. -/
theorem l2Touch_first (s : State) (l : Nat) (w : Bool) : ∃ x r, (s.l2Touch l w).l2 = x :: r ∧ x.line = l := by
  unfold State.l2Touch
  split
  · next x h =>
    refine ⟨_, _, rfl, ?_⟩
    unfold State.cached at h
    split at h
    · simpa using List.find?_some h
    · cases h
  · dsimp only
    split
    · exact ⟨_, _, rfl, rfl⟩
    · exact ⟨_, _, rfl, rfl⟩
/-- A line that is filled is full. -/
theorem cached_l2Fill (s : State) {l : Nat} (h : l * 256 < Config.structuresTop) : ∃ x, (s.l2Fill l).cached l = some x ∧ x.full = true := by
  obtain ⟨x, r, first, line⟩ := l2Touch_first s l false
  unfold State.cached
  rw [if_pos h]
  unfold State.l2Fill
  dsimp only
  rw [l2_ctlRead, first, List.map_cons, if_pos line, List.find?_cons_of_pos (by simpa using line)]
  exact ⟨_, rfl, rfl⟩
theorem lineFill_fills {s : State} {l : Nat} (h : (∃ o ∈ s.sliceQ, l ∈ linesOf (s.missing o)) ∨ ∃ x, s.cached l = some x ∧ x.full = false) :
    s.lineFill l = some (s.l2Fill l) := by
  unfold State.lineFill
  refine if_pos ?_
  rcases h with ⟨o, ho, hl⟩ | ⟨x, hx, hf⟩
  · exact Bool.or_eq_true_iff.2 (.inr (List.any_eq_true.2 ⟨o, ho, List.contains_iff_mem.2 hl⟩))
  · rw [hx]
    dsimp only
    rw [hf]
    rfl
theorem probeStep_answered {s : State} {n slice : Nat} {o : SliceOp} (h : s.sliceQ[n]? = some o) (hw : o.what = .probe slice)
    (hc : ∀ x ∈ s.sliceQ.take n, s.countsFor o.src.pid slice x = false) : s.probeStep n = some { s with sliceQ := s.sliceQ.eraseIdx n } := by
  unfold State.probeStep
  rw [h, Option.bind_some, hw]
  refine if_neg fun counted => ?_
  obtain ⟨x, hx, hx2⟩ := List.any_eq_true.1 counted
  rw [hc x hx] at hx2
  exact Bool.false_ne_true hx2
theorem sliceStep_performs {s : State} {n : Nat} {o : SliceOp} (h : s.sliceQ[n]? = some o) (hf : s.sliceFree n o = true) (hr : s.accessReady o = true) :
    s.sliceStep n = some ({ s with sliceQ := s.sliceQ.eraseIdx n }.performAccess o) := by
  unfold State.sliceStep
  rw [h]
  exact if_pos (by rw [hf, hr]; rfl)

/-- Settles O49: an access that nothing holds back is performed, and what it does stands in the lemmas about its kind. -/
theorem sliceAccesses : Obligations.SliceAccesses := by
  unfold Obligations.SliceAccesses
  refine ⟨fun s n o ho hf hr => ?_, fun s line hl h => ?_, fun s n slice o ho hw hc => ?_⟩
  · intro s0 keys answers
    refine ⟨s0.performAccess o, (exec_sliceAccess n s).trans (event_some (sliceStep_performs ho hf hr)), sliceQ_performAccess s0 o,
      fun hs k hk => get_performAccess_outside (s := s0) hs o hk,
      fun id addrs hw => ⟨mem_performAccess_load (s := s0) hw, fun b => answers_performAccess_load (s := s0) hw b⟩,
      fun hs hu cells hw hn c hc => ?_, fun id op w64 ks v cmp hw => ⟨fun hp => ?_, fun hp => ?_⟩⟩
    · have written : keys = cells.map (·.1) := by
        rcases hw with hw | ⟨f, hw⟩ <;> exact congrArg SliceWhat.keys hw
      exact get_performAccess_store (s := s0) hs hw (by rw [← written]; exact hu) hn hc
    · exact ⟨mem_performAccess_amo_poisoned (s := s0) hw hp, fun b => (answers_performAccess_amo (s := s0) hw b).1 hp⟩
    · exact ⟨fun b => (answers_performAccess_amo (s := s0) hw b).2 hp,
        fun hs hu hn hl => bytesAt_performAccess_amo (s := s0) hs hw hp hu hn hl⟩
  · exact ⟨s.l2Fill line, (exec_lineFill line s).trans (event_some (lineFill_fills h)), mem_cacheOnly (l2Fill_cache s line),
      sliceQ_cacheOnly (l2Fill_cache s line), cached_l2Fill s hl⟩
  · exact (exec_probe n s).trans (event_some (probeStep_answered ho hw hc))

end Sys2Proof.Machine
end

section
/-! Replies and port threads (R62, R123, R124, R128, R153, R318, R320, R324, R396). -/

namespace Sys2Proof.Machine
open Sys2Proof

/-! ### Replies land (R62, R153, R396) -/

/-- The first element that satisfies a predicate is the first one that satisfies a narrower one, where it satisfies that too. -/
theorem find?_narrow {α : Type} {p q : α → Bool} {l : List α} {x : α} (h : l.find? p = some x) (hq : q x = true) (hw : ∀ y, q y = true → p y = true) :
    l.find? q = some x := by
  obtain ⟨hx, before, after, split, none⟩ := List.find?_eq_some_iff_append.1 h
  refine List.find?_eq_some_iff_append.2 ⟨hq, before, after, split, fun y hy => ?_⟩
  have := none y hy
  cases hqy : q y with
  | false => rfl
  | true => rw [hw y hqy] at this; exact absurd this (by decide)

section
variable {x : Slot} {l : PendLoad} (hf : (x.half.loads.find? fun l => l.reply.isSome) = some l)
include hf
theorem landReply_value {v : Word} {fl : Flags} (hr : l.reply = some (.value v fl)) :
    x.landReply = some { x with half := x.half.landLoad l v fl } ∧ x.staleReply = none := by
  constructor
  · unfold Slot.landReply
    rw [find?_narrow hf (by simp [hr, Reply.aborts]) fun y hy => (Bool.and_eq_true_iff.1 hy).1, Option.bind_some, hr]
    rfl
  · unfold Slot.staleReply
    rw [hf, Option.bind_some, hr]
theorem landReply_poisoned {reason : Nat} {w : Word} (hp : x.phase ≠ .frozen) (hr : l.reply = some (.poisoned reason w)) :
    let y : Slot := { x with half := { x.half with loads := x.half.loads.filter fun z => decide (z.id ≠ l.id) } }
    x.landReply = some (if x.phase = .aborting then y
      else y.beginAbort l.pc { code := 0x28, reason := reason, faddr := l.faddr, place := l.place, target := l.target }) ∧ x.staleReply = none := by
  constructor
  · unfold Slot.landReply
    rw [find?_narrow hf (by simp [hr, hp]) fun y hy => (Bool.and_eq_true_iff.1 hy).1, Option.bind_some, hr]
    rfl
  · unfold Slot.staleReply
    rw [hf, Option.bind_some, hr]
theorem acquired_value {v : Word} {fl : Flags} (hr : l.reply = some (.value v fl)) (s : State) (t : Nat) (c : Fin 8) :
    s.acquired t c x =
      (let s1 := if l.acq then s.orderPoint t c else s
       if l.inv then s1.rdInvalidate t x.act.tenant else s1) := by
  unfold State.acquired
  rw [hf]
  dsimp only
  rw [hr]
theorem acquired_poisoned {reason : Nat} {w : Word} (hr : l.reply = some (.poisoned reason w)) (s : State) (t : Nat) (c : Fin 8) :
    s.acquired t c x = s := by
  unfold State.acquired
  rw [hf]
  dsimp only
  rw [hr]
end
/-- Where no load of a half is answered, none lands. -/
theorem landReply_none {x : Slot} (h : ∀ l ∈ x.half.loads, l.reply = none) : x.landReply = none := by
  unfold Slot.landReply
  rw [List.find?_eq_none.2 fun l hl => by simp [h l hl]]
  rfl
theorem loadReply_none {s : State} {t : Nat} {c : Fin 8} {h : Bool} (hn : ∀ l ∈ (((s.tile t).ctx c).slot h).half.loads, l.reply = none) :
    s.loadReply t c h = none := by
  unfold State.loadReply
  dsimp only
  rw [landReply_none hn]
  rfl
/-- A reply that is no stale version lands, and acquires where its load does. -/
theorem loadReply_lands {s : State} {t : Nat} {c : Fin 8} {h : Bool} {y : Slot}
    (hy : (((s.tile t).ctx c).slot h).landReply = some y ∧ (((s.tile t).ctx c).slot h).staleReply = none) :
    s.loadReply t c h = some ((s.modTile t fun z => z.setCtx c (((s.tile t).ctx c).setSlot h y)).acquired t c (((s.tile t).ctx c).slot h)) := by
  obtain ⟨lands, fresh⟩ := hy
  unfold State.loadReply
  dsimp only
  rw [lands, Option.bind_some, fresh]
/-- The first half's answer goes first. -/
theorem execLoadReply_of {s u : State} {t : Nat} {c : Fin 8} {h : Bool}
    (first : h = true → ∀ l ∈ (((s.tile t).ctx c).slot false).half.loads, l.reply = none) (hu : s.loadReply t c h = some u) :
    exec (.loadReply t c) s = .next u := by
  refine (exec_loadReply t c s).trans (event_some ?_)
  cases h with
  | false => rw [hu]
  | true => rw [loadReply_none (first rfl)]; exact hu

theorem fflags_arrive (h : Half) (r : Reg) (id : Nat) (v : Word) : (h.arrive r id v).fflags = h.fflags := by
  unfold Half.arrive
  repeat' split
  all_goals rfl
/-- What a value that lands leaves in its half (R34, R128, R153). -/
theorem landLoad_lands (h : Half) (l : PendLoad) (v : Word) (fl : Flags) :
    let u := h.landLoad l v fl
    let x := extendLoad l.size l.signed v.toNat
    u.fflags = h.fflags ||| fl ∧ (∀ y ∈ u.loads, y.id ≠ l.id) ∧ (∀ i, l.d = .g i → u.g.get i = x)
      ∧ ∀ k : Fin 4, (h.ypend.get k = l.id + 1 → u.y.get k = x ∧ u.ypend.get k = 0) := by
  refine ⟨?_, fun y hy => by simpa using List.of_mem_filter hy, fun i hi => ?_, fun k hk => ⟨?_, ?_⟩⟩
  · refine congrArg (· ||| fl) ((fflags_arrive _ _ _ _).trans ?_)
    split <;> rfl
  · show ((if l.amo then h.setNR else h).arrive l.d l.id _).g.get i = _
    rw [hi]
    exact Vector.getElem_set_self _
  · exact (Vector.getElem_ofFn _).trans (if_pos (decide_eq_true hk))
  · exact (Vector.getElem_ofFn _).trans (if_pos (decide_eq_true hk))

theorem replies_land (s : State) (t : Nat) (c : Fin 8) (h : Bool) (l : PendLoad) :
    let k := (s.tile t).ctx c
    let x := k.slot h
    let lands (y : Slot) : State := s.modTile t fun z => z.setCtx c (k.setSlot h y)
    (x.half.loads.find? fun l => l.reply.isSome) = some l → (h = true → ∀ l ∈ (k.slot false).half.loads, l.reply = none) →
      (∀ v fl, l.reply = some (.value v fl) →
        let u := lands { x with half := x.half.landLoad l v fl }
        let u1 := if l.acq then u.orderPoint t c else u
        exec (.loadReply t c) s = .next (if l.inv then u1.rdInvalidate t x.act.tenant else u1))
      ∧ (∀ reason w, x.phase ≠ .frozen → l.reply = some (.poisoned reason w) →
        let y : Slot := { x with half := { x.half with loads := x.half.loads.filter fun z => decide (z.id ≠ l.id) } }
        exec (.loadReply t c) s = .next (lands (if x.phase = .aborting then y
          else y.beginAbort l.pc { code := 0x28, reason := reason, faddr := l.faddr, place := l.place, target := l.target }))) := by
  intro k x lands hf first
  refine ⟨fun v fl hr => execLoadReply_of first ?_, fun reason w hp hr => execLoadReply_of first ?_⟩
  · rw [loadReply_lands (landReply_value hf hr), acquired_value hf hr]
  · rw [loadReply_lands (landReply_poisoned hf hp hr), acquired_poisoned hf hr]

/-! ### Port threads (R123, R124, R318, R320, R324) -/

section
variable {s : State} {t : Nat} {o : PortOp} {rest : List PortOp}
/-- The port thread takes the first operation of its queue. -/
theorem portNext_takes (h : (s.tile t).portQ = o :: rest) (f : State → PortOp → Option State) :
    s.portNext t f = f (s.modTile t fun x => { x with portQ := rest }) o := by
  unfold State.portNext
  rw [h]
theorem port_remote {r : RemoteOp} (h : (s.tile t).portQ = .remote r :: rest) :
    exec (.portThreadOperation t) s = .next ((s.modTile t fun x => { x with portQ := rest }).portAccess t r) :=
  (exec_portThreadOperation t s).trans (event_some (portNext_takes h _))
theorem port_land {c : Fin 8} {sh : Fin 3} {id dst : Nat} {bs : List Byte} {bad : List Nat} {r : Reply}
    (h : (s.tile t).portQ = .land c sh id dst bs bad r :: rest) :
    exec (.portThreadOperation t) s = .next (((s.modTile t fun x => { x with portQ := rest }).landWin t sh dst bs bad).sendReply t c id r) :=
  (exec_portThreadOperation t s).trans (event_some (portNext_takes h _))
theorem port_put {m : Msg} (h : (s.tile t).portQ = .put m :: rest) :
    exec (.put t) s = .next ((s.modTile t fun x => { x with portQ := rest }).performPut t m) :=
  (exec_put t s).trans (event_some (portNext_takes h _))
theorem port_arrive {m : Msg} (h : (s.tile t).portQ = .arrive m :: rest) :
    exec (.barrierArrival t) s = .next ((s.modTile t fun x => { x with portQ := rest }).performArrival t m) :=
  (exec_barrierArrival t s).trans (event_some (portNext_takes h _))
end
/-- An atomic of another tile of the bay (R128). -/
theorem portAccess_amo (s : State) (t tl : Nat) (c : Fin 8) (sh : Fin 3) (id op : Nat) (w64 : Bool) (addr : Nat) (v cmp : Word) :
    let s2 := s.senseWin t sh addr (amoSize w64)
    let r := amoApply op w64 (leNat (s2.readWin t sh addr (amoSize w64))) v.toNat cmp.toNat
    let answers (u : State) (x : Reply) : State := u.sendPort t sh tl 1 (.answer tl c sh id (some x))
    (s2.winPoisoned t sh addr (amoSize w64) = true → s.portAccess t (.amo tl c sh id op w64 addr v cmp) = answers s2 (.poisoned 0 0#64))
    ∧ (s2.winPoisoned t sh addr (amoSize w64) = false → s.portAccess t (.amo tl c sh id op w64 addr v cmp)
        = answers (s2.writeWin t sh addr (leBytes (amoSize w64) r.1)) (.value r.2.1 r.2.2)) :=
  ⟨fun h => if_pos h, fun h => if_neg (by rw [h]; exact Bool.false_ne_true)⟩
section
variable {s : State} {t : Nat} {m : Msg} {i : Fin 3} (hi : s.shareFor t m = some i)
include hi
theorem performPut_lands (h : s.checkWindow t i 0#32 m.addr m.body.length .put = none) :
    s.performPut t m = s.landWin t i m.addr m.body ((List.range m.body.length).filter fun k => m.pmask.getLsbD (k / 8)) := by
  unfold State.performPut
  rw [hi]
  dsimp only [Option.getD_some]
  rw [h]
theorem performPut_refused {r : Nat} (h : s.checkWindow t i 0#32 m.addr m.body.length .put = some r) :
    s.performPut t m = s.post {
      type := 12, tenant := m.tenant, cause := r, info := m.dest.toNat + m.addr * 2 ^ 32, loc := m.addr, ptile := s.physTile t,
      ltile := m.dest.toNat } := by
  unfold State.performPut
  rw [hi]
  dsimp only [Option.getD_some]
  rw [h]
end

/-! A barrier's home (R324). -/

/-- An injection counts in its share, and adds one message to the network. -/
theorem barriers_inject (s : State) (t u : Nat) (i : Fin 3) (m : Msg) : ((s.inject t i m).tile u).barriers = (s.tile u).barriers :=
  tile_modTile_view Tile.barriers s t u (fun x => x.modShare i _) fun _ => rfl
theorem net_inject (s : State) (t : Nat) (i : Fin 3) (m : Msg) : (s.inject t i m).net = s.net ++ [s.stamp t i m] := rfl
theorem net_injections (t : Nat) (i : Fin 3) (f : Nat → Msg) (ks : List Nat) (s : State) :
    (ks.foldl (fun (st : State) k => st.inject t i (f k)) s).net.length = s.net.length + ks.length := by
  induction ks generalizing s with
  | nil => rfl
  | cons k ks ih =>
    rw [List.foldl_cons, ih, net_inject, List.length_append, List.length_cons, List.length_cons]
    simp only [List.length_nil]
    omega
theorem tile_modPart (s : State) (n u : Nat) (g : Part → Part) : (s.modPart n g).tile u = s.tile u := by
  unfold State.tile
  rw [modPart_tiles]

section
variable {s : State} {t : Nat} {m : Msg} {i : Fin 3} (hi : s.shareFor t m = some i)
include hi
/-- An arrival of the group that the barrier gathers counts; the last one answers every member and begins the next generation. -/
theorem performArrival_counts :
    let w := m.word 0
    let key := barrierKey i (wfield w 26 16)
    let b := ((s.tile t).barriers.get? key).getD {}
    let n := (members ((s.launchOf (s.pidAt t i)).group (wfield w 7 0))).length
    b.count = 0 ∨ b.grp = wfield w 7 0 →
      (b.count + 1 ≠ n → ((s.performArrival t m).tile t).barriers.get? key = some { count := b.count + 1, gen := b.gen, grp := wfield w 7 0 }
        ∧ (s.performArrival t m).net = s.net)
      ∧ (b.count + 1 = n → ((s.performArrival t m).tile t).barriers.get? key = some { count := 0, gen := b.gen + 1, grp := wfield w 7 0 }
        ∧ (s.performArrival t m).net.length = s.net.length + n) := by
  intro w key b n hb
  have own : ¬ (b.count ≠ 0 ∧ b.grp ≠ wfield w 7 0) := by tauto
  refine ⟨fun more => ?_, fun last => ?_⟩
  · have counted : s.performArrival t m = s.modTile t fun x =>
        { x with barriers := x.barriers.set key { b with count := b.count + 1, grp := wfield w 7 0 } } := by
      unfold State.performArrival
      rw [hi]
      exact (if_neg own).trans (if_neg more)
    rw [counted, tile_modTile]
    exact ⟨NMap.get?_set_same _ _ _, rfl⟩
  · have released : ∃ (f : Nat → Msg) (g : Launch → Launch), s.performArrival t m =
        ((members ((s.launchOf (s.pidAt t i)).group (wfield w 7 0))).foldl (fun (st : State) k => st.inject t i (f k))
          (s.modTile t fun x => { x with barriers := x.barriers.set key { count := 0, gen := b.gen + 1, grp := wfield w 7 0 } })).modLaunchOf
          m.pid m.launch g := by
      unfold State.performArrival
      rw [hi]
      exact ⟨_, _, (if_neg own).trans (if_pos last)⟩
    obtain ⟨f, g, released⟩ := released
    rw [released, State.modLaunchOf, tile_modPart, modPart_net, net_injections]
    refine ⟨?_, rfl⟩
    rw [foldl_view (fun u => (u.tile t).barriers) fun u k => barriers_inject u t t i (f k), tile_modTile]
    exact NMap.get?_set_same _ _ _
end

/-- Settles O50: what lands stands in the lemmas about replies, what a port thread does in those about its operations. -/
theorem repliesAndPortThreads : Obligations.RepliesAndPortThreads := by
  unfold Obligations.RepliesAndPortThreads
  refine ⟨⟨replies_land, landLoad_lands⟩, fun s t rest => ?_⟩
  intro s1
  refine ⟨fun tl c sh id addr size h => port_remote h, fun tl c sh id addr bs h => port_remote h,
    fun tl c sh id op w64 addr v cmp h => ⟨fun hp => ?_, fun hp => ?_⟩, fun c sh id dst bs bad r h => port_land h,
    fun m i h hi => ⟨fun hc => ?_, fun r hc => ?_⟩, fun m i h hi => ?_⟩
  · exact (port_remote h).trans (congrArg _ ((portAccess_amo s1 t tl c sh id op w64 addr v cmp).1 hp))
  · exact (port_remote h).trans (congrArg _ ((portAccess_amo s1 t tl c sh id op w64 addr v cmp).2 hp))
  · exact (port_put h).trans (congrArg _ (performPut_lands hi hc))
  · exact (port_put h).trans (congrArg _ (performPut_refused hi hc))
  · intro w key b n hb
    exact ⟨_, port_arrive h, performArrival_counts (s := s1) hi hb⟩

end Sys2Proof.Machine
end

section
/-! The host port: posted writes, the inbox window, the host channel and the error window (R52, R293, R294, R304, R394, R446 to R448). -/

namespace Sys2Proof.Machine
open Sys2Proof

/-! ### Functions after changes -/

theorem fn_modFn_same (s : State) (n : Nat) (g : Fn → Fn) : (s.modFn n g).fn n = g (s.fn n) := by
  simp [State.fn, State.modFn, Vector.get_eq_getElem]
theorem fn_modPart (s : State) (n f : Nat) (g : Part → Part) : (s.modPart n g).fn f = s.fn f := by
  unfold State.modPart
  split <;> rfl
/-- An event leaves what it does not concern of a function. -/
theorem fn_post_view {α : Type} (g : Fn → α) (hg : ∀ x, g x.quiet = g x) (s : State) (e : ErrEvent) (f : Nat) : g ((s.post e).fn f) = g (s.fn f) := by
  rw [← hg, ← fn_quiet, quiet_post, fn_quiet, hg]
theorem freezeFn_freezes (s : State) (f a : Nat) : ((s.freezeFn f a).fn f).frozen = true ∧ (s.freezeFn f a).mem = s.mem := by
  unfold State.freezeFn
  refine ⟨?_, post_mem _ _⟩
  rw [fn_post_view Fn.frozen fun _ => rfl, fn_modFn_same]

/-! ### Writes that leave and writes that come in (R52, R293, R294) -/

theorem acceptOutbound_lands {s : State} {f : Fin 16} {o : OutWrite} {rest : List OutWrite} (h : (s.fn f.val).outbound = o :: rest)
    (hq : ∀ x ∈ s.sliceQ, x.what.hostFn = none → x.what.isProbe = false → x.ordered.holds o.ordered = false) :
    s.acceptOutbound f = some ({ s with mem := s.mem.writeMasked o.cells }.modFn f.val fun g => { g with outbound := rest }) := by
  unfold State.acceptOutbound
  rw [h]
  refine if_neg fun held => ?_
  obtain ⟨x, hx, holds⟩ := List.any_eq_true.1 held
  simp only [Bool.and_eq_true, Option.isNone_iff_eq_none, Bool.not_eq_true'] at holds
  obtain ⟨⟨scalar, noProbe⟩, holds⟩ := holds
  rw [hq x hx scalar noProbe] at holds
  exact Bool.false_ne_true holds

section
variable {s : State} {f : Fin 16} {a : Nat} {bs : List Byte} (hr : s.refuses f.val = false) (hb : bs ≠ [])
include hr hb
theorem serves_write : ¬ (s.refuses f.val || bs.isEmpty) = true := by simp [hr, hb]
theorem postedWrite_queued (ht : a + bs.length ≤ Config.mainMemoryTop)
    (hk : f = 0 ∨ ∀ k ∈ (List.range bs.length).map fun i => a + i, s.frame (k / 4096) / 16 = f.val) :
    s.postedWrite f a bs = { s with
      fresh := s.fresh + 1
      sliceQ := s.sliceQ ++ [{ src := { tile := 0, c := 0, pid := 16 }, what := .host f (plainCells ((List.range bs.length).map fun i => a + i) bs), seq := s.fresh }] } := by
  unfold State.postedWrite
  rw [if_neg (serves_write hr hb)]
  dsimp only
  rw [if_neg (by omega), if_neg]
  rintro ⟨other, foreign⟩
  obtain ⟨k, hk2, ne⟩ := List.any_eq_true.1 foreign
  rcases hk with hk | hk
  · exact other hk
  · exact of_decide_eq_true ne (hk k hk2)
theorem postedWrite_beyond (ht : Config.mainMemoryTop < a + bs.length) : s.postedWrite f a bs = s.freezeFn f.val a := by
  unfold State.postedWrite
  rw [if_neg (serves_write hr hb)]
  exact if_pos ht
end

/-! ### The inbox window (R304, R446) -/

theorem sendRefusal_le (s : State) (g : Fn) (f : Nat) : s.sendRefusal g f ≤ 4 := by
  unfold State.sendRefusal
  dsimp only
  repeat' split
  all_goals omega
/-- A status below a count is their word. -/
theorem toNat_status {st n : Nat} (h : st ≤ 4) (hn : n < 4294967296) : (BitVec.ofNat 64 (st + n * 2 ^ 32)).toNat = st + n * 2 ^ 32 := by
  have bound : st + n * 4294967296 < 18446744073709551616 := by omega
  rw [BitVec.toNat_ofNat]
  norm_num
  exact bound
theorem sendst_sendStatus (g : Fn) {st : Nat} (h : st ≤ 4) :
    (g.sendStatus st).sendst.toNat = st + (if st = 0 then g.sendst.toNat / 2 ^ 32 % 2 ^ 32 else (g.sendst.toNat / 2 ^ 32 + 1) % 2 ^ 32) * 2 ^ 32 := by
  unfold Fn.sendStatus
  dsimp only
  generalize g.sendst.toNat / 2 ^ 32 = n
  rw [toNat_status h (by split <;> omega), Nat.mod_add_mod]

theorem seq_sendStatus (g : Fn) (st : Nat) : (g.sendStatus st).seq = g.seq := by cases g; rfl
/-- The message of a send to a tile of a launch. -/
def Fn.hostMessage (g : Fn) (f : Fin 16) (pid : Nat) (l : Launch) (t : Nat) : Msg :=
  let c := g.sendctl
  { msgid := BitVec.ofNat 32 (0x7FF * 2 ^ 21 + g.seq % 2 ^ 21), launch := l.num, tenant := f.val,
    kind := if c.getLsbD 32 then 1 else 0, source := 0x7FF#11, vnet := 0,
    chan := if c.getLsbD 32 then 0 else wfield c 21 16,
    dest := BitVec.ofNat 11 (wfield c 10 0), dst := t, src := 4096 + f.val, pid := pid,
    body := (List.range (wfield c 31 24)).map fun i => (g.payload[i]?).getD 0#8 }
/-- What an accepted send counts: its status, its sequence number, and in its launch. -/
def State.sendCounted (s : State) (f : Fin 16) (pid : Nat) : State :=
  ((s.modFn f.val fun g => g.sendStatus 0).modFn f.val fun g => { g with seq := (g.seq + 1) % 2 ^ 21 }).modPart pid
    fun q => { q with launch := q.launch.map fun l => { l with hostSent := l.hostSent + 1 } }
theorem fn_sendCounted (s : State) (f : Fin 16) (pid : Nat) :
    (s.sendCounted f pid).fn f.val = { (s.fn f.val).sendStatus 0 with seq := ((s.fn f.val).seq + 1) % 2 ^ 21 } := by
  unfold State.sendCounted
  rw [fn_modPart, fn_modFn_same, fn_modFn_same, seq_sendStatus]
theorem net_sendCounted (s : State) (f : Fin 16) (pid : Nat) : (s.sendCounted f pid).net = s.net := modPart_net _ pid _

section
variable {s : State} {f : Fin 16} (hr : s.refuses f.val = false) (hq : ∀ o ∈ s.sliceQ, o.what.hostFn ≠ some f)
include hr hq
theorem senddb_refused (h : s.sendRefusal (s.fn f.val) f.val ≠ 0) :
    s.senddb f = some (s.modFn f.val fun g => g.sendStatus (s.sendRefusal (s.fn f.val) f.val)) := by
  have served : ¬ s.refuses f.val = true := by rw [hr]; exact Bool.false_ne_true
  have after : ¬ (s.sliceQ.any fun o => decide (o.what.hostFn = some f)) = true := by simpa using hq
  unfold State.senddb
  dsimp only
  rw [if_neg served, if_neg after, if_pos h]
/-- An accepted send enters the network. -/
theorem senddb_sends {pid : Nat} {p : Part} {l : Launch} {t : Nat} (h0 : s.sendRefusal (s.fn f.val) f.val = 0)
    (hl : s.launchPart f.val (wfield (s.fn f.val).sendctl 63 48) (wfield (s.fn f.val).sendctl 10 0) = some (pid, p, l))
    (ht : p.tileOf (wfield (s.fn f.val).sendctl 10 0 % 1024) = some t) (hs : savedState p.state = false) :
    s.senddb f = some { s.sendCounted f pid with net := (s.sendCounted f pid).net ++ [(s.fn f.val).hostMessage f pid l t] } := by
  have served : ¬ s.refuses f.val = true := by rw [hr]; exact Bool.false_ne_true
  have after : ¬ (s.sliceQ.any fun o => decide (o.what.hostFn = some f)) = true := by simpa using hq
  have live : ¬ savedState p.state = true := by rw [hs]; exact Bool.false_ne_true
  unfold State.senddb
  dsimp only
  rw [if_neg served, if_neg after, h0, if_neg (by decide), hl, Option.bind_some]
  dsimp only
  rw [ht, Option.map_some]
  exact congrArg some (if_neg live)
end

/-! ### The host channel and the error window (R447, R448) -/

/-- A message that meets room in its ring is written there. -/
theorem hostChannelWrite_writes {s : State} {n : Nat} {m : Msg} (hm : s.hostq[n]? = some m) (hn : ∀ x ∈ s.hostq.take n, x.tenant ≠ m.tenant)
    (ho : (s.fn m.tenant).outbound = []) (ht : s.torn m = false) (hh : (s.fn m.tenant).hcheld = []) (hr : (s.fn m.tenant).ringRoom = true) :
    s.hostChannelWrite n = some ({ s with hostq := s.hostq.eraseIdx n }.writeRing m.tenant m) := by
  have first : ¬ ((s.hostq.take n).any (fun x => decide (x.tenant = m.tenant)) || decide ((s.fn m.tenant).outbound ≠ [])) = true := by
    simpa [ho] using hn
  unfold State.hostChannelWrite
  rw [hm]
  dsimp only
  rw [if_neg first, if_neg (by rw [ht]; exact Bool.false_ne_true)]
  exact congrArg some (if_pos ⟨hh, hr⟩)
/-- Where the next message of a function's ring is written, and its bytes. -/
def Fn.ringPlace (g : Fn) (f : Nat) : Nat := hostKey (f % 16) (g.hcbase.toNat / 4096 * 4096 + 256 * (g.hcprod.toNat % g.ringSize))
def Msg.ringBytes (m : Msg) : List Byte := leBytes 16 m.header ++ m.body ++ List.replicate (240 - m.body.length) 0#8
theorem writeRing_eq (s : State) (f : Nat) (m : Msg) : s.writeRing f m =
    (State.modFn { s with mem := s.mem.write ((s.fn f).ringPlace f) m.ringBytes } f fun g => { g with hcprod := g.hcprod + 1#64 }).postInbox f 1
      ((s.fn f).hcprod.toNat % (s.fn f).ringSize) := rfl
theorem mem_writeRing (s : State) (f : Nat) (m : Msg) : (s.writeRing f m).mem = s.mem.write ((s.fn f).ringPlace f) m.ringBytes := by
  rw [writeRing_eq, State.postInbox, modFn_mem, modFn_mem]
theorem hostq_writeRing (s : State) (f : Nat) (m : Msg) : (s.writeRing f m).hostq = s.hostq := by
  rw [writeRing_eq, State.postInbox, modFn_hostq, modFn_hostq]
theorem hcprod_writeRing (s : State) (f : Nat) (m : Msg) : ((s.writeRing f m).fn f).hcprod = (s.fn f).hcprod + 1#64 := by
  rw [writeRing_eq, State.postInbox, fn_modFn_same, fn_modFn_same]
  exact congrArg Fn.hcprod (quiet_postInbox { (s.fn f) with hcprod := (s.fn f).hcprod + 1#64 } 1 _)

section
variable {s : State} {f : Fin 16} (hr : s.refuses f.val = false)
include hr
theorem eqPopHost_pops {e : ErrEvent} {rest : List ErrEvent} (h : (s.fn f.val).eq = e :: rest) :
    s.eqPopHost f = s.modFn f.val fun g => { g with eq := rest, eqdata := BitVec.ofNat 256 e.bits } := by
  unfold State.eqPopHost
  dsimp only
  rw [if_neg (by rw [hr]; exact Bool.false_ne_true), h]
theorem eqPopHost_empty (h : (s.fn f.val).eq = []) : s.eqPopHost f = s.modFn f.val fun g => { g with eqdata := 0#256 } := by
  unfold State.eqPopHost
  dsimp only
  rw [if_neg (by rw [hr]; exact Bool.false_ne_true), h]
end

/-- Settles O51: writes go out and come in, sends and messages for the host leave as their lemmas say, and EQPOP takes the oldest event. -/
theorem hostPort : Obligations.HostPort := by
  unfold Obligations.HostPort
  refine ⟨⟨fun s f o rest h hq => ?_, fun s f a bs hr hb => ?_⟩, fun s f hr hq => ?_, fun s n m hm hn h16 ho ht hh hr => ?_, fun s f hr => ?_⟩
  · refine ⟨_, (exec_hostPortAcceptance f s).trans (event_some (acceptOutbound_lands h hq)), ?_, fun hs hn => ⟨fun c hc => ?_, fun k hk => ?_⟩⟩
    · rw [fn_modFn_same]
    · exact Memory.get_writeMasked_inside hs hn hc
    · exact Memory.get_writeMasked_outside hs o.cells fun c hc e => hk (List.mem_map.2 ⟨c, hc, e⟩)
  · intro keys
    refine ⟨fun ht hk => ?_, fun ht => ?_⟩
    · exact (exec_hostPostedWrite f a bs s).trans (event_some (congrArg some (postedWrite_queued hr hb ht hk)))
    · exact ⟨_, (exec_hostPostedWrite f a bs s).trans (event_some (congrArg some (postedWrite_beyond hr hb ht))), freezeFn_freezes s f.val a⟩
  · intro g c
    refine ⟨fun h => ⟨_, (exec_senddb f s).trans (event_some (senddb_refused hr hq h)), rfl, ?_⟩, fun pid p l t h0 hl ht hs => ?_⟩
    · rw [fn_modFn_same]
      exact (sendst_sendStatus g (sendRefusal_le s g f.val)).trans (by rw [if_neg h])
    · refine ⟨_, (exec_senddb f s).trans (event_some (senddb_sends hr hq h0 hl ht hs)), congrArg Fn.seq (fn_sendCounted s f pid), ?_,
        congrArg (· ++ _) (net_sendCounted s f pid)⟩
      refine (congrArg (fun x : Fn => x.sendst.toNat) (fn_sendCounted s f pid)).trans ((sendst_sendStatus g (by decide)).trans ?_)
      rw [if_pos rfl, Nat.zero_add]
  · intro g a
    refine ⟨_, (exec_hostChannelWrite n s).trans (event_some (hostChannelWrite_writes hm hn ho ht hh hr)), hostq_writeRing _ _ m,
      hcprod_writeRing _ _ m, ?_⟩
    rw [mem_writeRing, Fn.ringPlace, Nat.mod_eq_of_lt h16]
    rfl
  · exact ⟨fun e rest h => (exec_eqpop f s).trans (event_some (congrArg some (eqPopHost_pops hr h))),
      fun h => (exec_eqpop f s).trans (event_some (congrArg some (eqPopHost_empty hr h)))⟩

end Sys2Proof.Machine
end

section
/-! How engine commands and transfers go on and end (R85 to R104, R255 to R257, R263, R280, R291). -/

namespace Sys2Proof.Machine
open Sys2Proof

/-! ### What a command's leave leaves (R256, R338) -/

section
variable (s : State) (t u : Nat) (i j : Fin 3)
theorem engine_modTile {g : Tile → Tile} (hg : ∀ x, (g x).engines = x.engines) : ((s.modTile t g).tile u).engine j = (s.tile u).engine j :=
  congrArg (fun v : Vector Engine 3 => v.get j) (tile_modTile_view Tile.engines s t u g hg)
theorem engine_onAct (a : Nat) (f : Slot → Slot) : ((s.onAct t a f).tile u).engine j = (s.tile u).engine j := engine_modTile s t u j fun _ => rfl
theorem tile_modBay (b : Nat) (f : Bay → Bay) : (s.modBay b f).tile u = s.tile u := rfl
theorem engine_leaveRequest (r : LvReq) : (((s.leaveRequest t i r).1).tile u).engine j = (s.tile u).engine j := by
  unfold State.leaveRequest
  repeat' split
  all_goals rfl
theorem engine_obtainLeave (a : Nat) (r : LvReq) : (((s.obtainLeave t i a r).1).tile u).engine j = (s.tile u).engine j := by
  unfold State.obtainLeave
  split
  · split
    · exact engine_onAct s t u j a _
    · exact engine_leaveRequest s t u i j r
  · exact engine_leaveRequest s t u i j r
theorem engine_modEngine_same (f : Engine → Engine) : ((s.modEngine t i f).tile t).engine i = f ((s.tile t).engine i) := by
  unfold State.modEngine
  rw [tile_modTile, engine_modEngine, if_pos rfl]
end

/-! ### Commands of the engine (R255 to R257, R263, R280) -/

/-- What enters the queue: the first entering command, with the leave that it has got or waits for. -/
theorem mxEnter_enters {s : State} {t : Nat} {i : Fin 3} {c : MxCmd} {rest : List MxCmd} (h : ((s.tile t).engine i).entering = c :: rest) :
    (((s.mxEnter t i).tile t).engine i).entering = rest
    ∧ ∃ c1, (((s.mxEnter t i).tile t).engine i).queue = ((s.tile t).engine i).queue ++ [c1] ∧ c1.uid = c.uid ∧ c1.a = c.a ∧ c1.b = c.b
        ∧ (c.sub ≠ 1 → c.sub ≠ 5 → c1.wantsLeave = false) := by
  have entered : ∃ (u : State) (c1 : MxCmd), s.mxEnter t i = u.modEngine t i (fun e => { e with entering := rest, queue := e.queue ++ [c1] })
      ∧ (u.tile t).engine i = (s.tile t).engine i ∧ c1.uid = c.uid ∧ c1.a = c.a ∧ c1.b = c.b ∧ (c.sub ≠ 1 → c.sub ≠ 5 → c1.wantsLeave = false) := by
    unfold State.mxEnter
    rw [h]
    refine ⟨_, _, rfl, ?_, rfl, rfl, rfl, fun h1 h5 => ?_⟩
    · split
      · exact engine_obtainLeave s t t i i c.act _
      · rfl
    · simp [h1, h5]
  obtain ⟨u, c1, eq, engine, fields⟩ := entered
  rw [eq, engine_modEngine_same, engine]
  exact ⟨rfl, c1, rfl, fields⟩

theorem mxStart_eq (s : State) (t : Nat) (i : Fin 3) (c : MxCmd) :
    let r := s.runMx t i c
    let s1 := r.st.modEngine t i fun e =>
      { (e.updateCmd c.uid fun x => { x with started := true, flags := r.flags, poison := r.poison, lastBuf := r.buf }) with flags := e.flags ||| r.flags }
    (r.err = none → s.mxStart t i c = s1) ∧ (∀ reason, r.err = some reason → s.mxStart t i c = s1.engineError t c.act c.tenant reason c.a) := by
  intro r s1
  unfold State.mxStart
  exact ⟨fun h => by dsimp only; rw [h], fun reason h => by dsimp only; rw [h]⟩
theorem mxComplete_eq (s : State) (t : Nat) (i : Fin 3) (c : MxCmd) :
    let s2 := (s.modEngine t i fun e => { e with queue := e.queue.filter fun x => decide (x.uid ≠ c.uid) }).leaveReturn t i c.act c.tokens c.fromHold
    (c.bay = none → s.mxComplete t i c = s2.mxNotify t i c c.flags c.poison)
    ∧ (∀ b, c.bay = some b → s.mxComplete t i c = ({ s2 with bayOps := s2.bayOps.map fun o => BayOp.memberDone o b.2 t c }).bayFinish b.2) := by
  intro s2
  unfold State.mxComplete
  exact ⟨fun h => by dsimp only; rw [h], fun b h => by dsimp only; rw [h]⟩

theorem commands_go_on :
    (∀ (s : State) (t : Nat) (i : Fin 3) (c : MxCmd) (rest : List MxCmd),
       let f (_ : Fin 3) (e : Engine) : Bool := decide (e.queue.length < 8) && (match e.entering with | x :: _ => x.bay.isNone | [] => false)
       let g (_ : Fin 3) (e : Engine) : Bool := decide (e.queue.length < 8) && (match e.entering with | x :: _ => x.bay.isSome | [] => false)
       ((s.tile t).engine i).entering = c :: rest →
         (s.engineShare t f = some i → exec (.mxQueueEntry t) s = .next (s.mxEnter t i))
         ∧ (s.engineShare t g = some i → exec (.mxBayMember t) s = .next (s.mxEnter t i))
         ∧ (((s.mxEnter t i).tile t).engine i).entering = rest
         ∧ ∃ c1, (((s.mxEnter t i).tile t).engine i).queue = ((s.tile t).engine i).queue ++ [c1] ∧ c1.uid = c.uid ∧ c1.a = c.a ∧ c1.b = c.b
             ∧ (c.sub ≠ 1 → c.sub ≠ 5 → c1.wantsLeave = false)) := by
  intro s t i c rest f g h
  exact ⟨fun hf => (exec_mxQueueEntry t s).trans (event_some (congrArg (Option.map _) hf)),
    fun hg => (exec_mxBayMember t s).trans (event_some (congrArg (Option.map _) hg)), mxEnter_enters h⟩

/-! ### Transfers (R85 to R104) -/

section
variable {s : State} {n : Nat} {x : Transfer} (hx : s.transfers[n]? = some x)
include hx
theorem execStreamerSegment_sends (hp : x.phase = .sent) (hf : s.forkReady x = true) (hh : s.transferHeld x = false) :
    let s1 := if x.idx = [] then s.senseIndex x else s
    exec (.streamerSegment n) s = .next ({ s1 with fresh := s1.fresh + 1 }.setTransfer (s1.sendSegments x)) := by
  refine (exec_streamerSegment n s).trans (event_some ?_)
  rw [hx]
  exact if_pos ⟨hp, hf, by rw [hh]; rfl⟩
theorem execStreamerLine_serves {p k : Nat} (hp : x.phase = .running) (hh : s.transferHeld x = false) (hl : s.nextLine x = some (p, k))
    (hc : s.portClear x p k = true) : exec (.streamerLine n) s = .next (s.servePiece x p k) := by
  refine (exec_streamerLine n s).trans (event_some ?_)
  rw [hx]
  dsimp only
  rw [if_pos ⟨hp, by rw [hh]; rfl⟩, hl]
  exact if_pos hc
theorem execStreamerCancel_stops (hr : x.cancelReq = true) (hc : x.phase ≠ .cancelled) (he : ∀ st, x.phase ≠ .ended st) :
    exec (.streamerCancel n) s = .next ((s.setTransfer { x with phase := .cancelled }).dropCopyRequest x) := by
  refine (exec_streamerCancel n s).trans (event_some ?_)
  rw [hx]
  dsimp only
  split
  · next st h => exact absurd h (he st)
  · next h => exact absurd h hc
  · exact if_pos hr
theorem execTransferEnd_ends {st : Nat} (hp : x.phase = .ended st) : exec (.transferEnd n) s = .next (s.endTransfer x st false) := by
  refine (exec_transferEnd n s).trans (event_some ?_)
  rw [hx]
  dsimp only
  rw [hp]
theorem execTransferEnd_cancelled (hp : x.phase = .cancelled) : exec (.transferEnd n) s = .next (s.endTransfer x 0 true) := by
  refine (exec_transferEnd n s).trans (event_some ?_)
  rw [hx]
  dsimp only
  rw [hp]
end
theorem sendSegments_eq (s : State) {x : Transfer} (h : x.form.gather = false ∨ x.idx ≠ []) :
    let c := (s.tile x.tile).chan x.share x.chan
    s.sendSegments x = { x with phase := .running, lo := c.min, hi := c.max, arrived := s.fresh } := by
  have listed : ¬ (x.form.gather && decide (x.idx = [])) = true := by
    rcases h with h | h <;> simp [h]
  unfold State.sendSegments
  dsimp only
  rw [if_neg listed]
theorem sendSegments_sent (s : State) (x : Transfer) : (s.sendSegments x).phase = .running ∧ (s.sendSegments x).arrived = s.fresh := ⟨rfl, rfl⟩

/-! The end of a transfer takes it out; what it then gives back, asks for and tells is no transfer. -/

section
variable (s : State) (x : Transfer)
theorem transfers_unspecify : (s.unspecify x).transfers = s.transfers := by
  unfold State.unspecify
  split <;> rfl
theorem transfers_leaveReturn (t : Nat) (i : Fin 3) (a k : Nat) (b : Bool) : (s.leaveReturn t i a k b).transfers = s.transfers := by
  unfold State.leaveReturn
  repeat' split
  all_goals rfl
theorem transfers_post (e : ErrEvent) : (s.post e).transfers = s.transfers := by rw [post_eq]
theorem transfers_engineError (t a tn r : Nat) (d : Word) : (s.engineError t a tn r d).transfers = s.transfers := by
  unfold State.engineError
  split
  · rfl
  · exact transfers_post s _
theorem transfers_followOn : (s.followOn x).transfers = s.transfers := by
  unfold State.followOn
  dsimp only
  split
  · exact transfers_post s _
  · rfl
theorem transfers_cpNotify (st : Nat) : (s.cpNotify x st).transfers = s.transfers := by
  unfold State.cpNotify
  split <;> rfl
theorem transfers_endTransfer (st : Nat) (b : Bool) : (s.endTransfer x st b).transfers = s.transfers.filter fun y => decide (y.uid ≠ x.uid) := by
  have freed (k : CopyChan → CopyChan) (t : Nat) (i : Fin 3) (a n : Nat) (f : Bool) :
      (((({ s.unspecify x with transfers := (s.unspecify x).transfers.filter fun y => decide (y.uid ≠ x.uid) }).modChan x.tile x.share x.chan k).dropCopyRequest
        x).leaveReturn t i a n f).transfers = s.transfers.filter fun y => decide (y.uid ≠ x.uid) := by
    rw [transfers_leaveReturn, ← transfers_unspecify s x]
    rfl
  unfold State.endTransfer
  dsimp only
  split
  · exact freed _ _ _ _ _ _
  · rw [transfers_cpNotify]
    split
    · split
      · rw [transfers_followOn]; exact freed _ _ _ _ _ _
      · exact freed _ _ _ _ _ _
    · rw [transfers_engineError]
      split
      · rw [transfers_followOn]; exact freed _ _ _ _ _ _
      · exact freed _ _ _ _ _ _
end

/-- Settles O52: commands and transfers take the steps of their lemmas. -/
theorem engineAndStreamerSteps : Obligations.EngineAndStreamerSteps := by
  unfold Obligations.EngineAndStreamerSteps
  refine ⟨⟨commands_go_on, fun s t i c hs hc => ?_, fun s t i c hs hc => ?_, fun s t o h => ?_⟩, fun s n x hx => ?_⟩
  · have start : exec (.mxCommandStart t) s = .next (s.mxStart t i c) := by
      refine (exec_mxCommandStart t s).trans (event_some ?_)
      rw [hs, Option.bind_some, hc, Option.map_some]
    exact ⟨fun h => start.trans (congrArg _ ((mxStart_eq s t i c).1 h)), fun reason h => start.trans (congrArg _ ((mxStart_eq s t i c).2 reason h))⟩
  · have complete : exec (.mxCommandComplete t) s = .next (s.mxComplete t i c) := by
      refine (exec_mxCommandComplete t s).trans (event_some ?_)
      rw [hs, Option.bind_some, hc, Option.map_some]
    exact ⟨fun h => complete.trans (congrArg _ ((mxComplete_eq s t i c).1 h)), fun b h => complete.trans (congrArg _ ((mxComplete_eq s t i c).2 b h))⟩
  · exact (exec_mxBayFold t s).trans (event_some (by rw [h, Option.map_some]))
  · refine ⟨fun hp hf hh => ?_, fun p k hp hh hl hc => execStreamerLine_serves hx hp hh hl hc,
      fun hr hc he => execStreamerCancel_stops hx hr hc he, fun st hp => execTransferEnd_ends hx hp, fun hp => execTransferEnd_cancelled hx hp,
      fun st b y hy => ?_⟩
    · intro c s1 y
      obtain ⟨phase, arrived⟩ := sendSegments_sent s1 x
      refine ⟨execStreamerSegment_sends hx hp hf hh, phase, arrived, fun listed same => ?_⟩
      have := sendSegments_eq s1 listed
      rw [same] at this
      exact (congrArg (fun u : State => u.sendSegments x) same).trans this
    · rw [transfers_endTransfer] at hy
      simpa using (List.mem_filter.1 hy).2

end Sys2Proof.Machine
end

section
/-! Request doorbells, host queues, registers and function reset (R354, R394, R430, R439, R445, R449). -/

namespace Sys2Proof.Machine
open Sys2Proof

/-! ### Request doorbells (R354, R449) -/

section
variable {s : State} {f : Fin 16} {v : Word} (hr : s.refuses f.val = false)
include hr
/-- A doorbell with no table to act on answers code 4. -/
theorem requestDoor_none (h : s.sys.asleep = true ∨ s.parts.get? (wfield v 19 16) = none) (op : State → Nat → ReqTable → State × Word) :
    s.requestDoor f v op = s.modFn f.val fun g => { g with rqres := errWord 4 } := by
  unfold State.requestDoor
  rw [if_neg (by rw [hr]; exact Bool.false_ne_true)]
  dsimp only
  by_cases asleep : s.sys.asleep = true
  · rw [if_pos asleep]
  · rw [if_neg asleep, h.resolve_left asleep]
/-- A doorbell acts on the table of the partition that its value names. -/
theorem requestDoor_acts {p : Part} (ha : s.sys.asleep = false) (hp : s.parts.get? (wfield v 19 16) = some p)
    (op : State → Nat → ReqTable → State × Word) :
    s.requestDoor f v op = (op s (wfield v 19 16) p.req).1.modFn f.val fun g => { g with rqres := (op s (wfield v 19 16) p.req).2 } := by
  unfold State.requestDoor
  rw [if_neg (by rw [hr]; exact Bool.false_ne_true)]
  dsimp only
  rw [if_neg (by rw [ha]; exact Bool.false_ne_true), hp]
end

theorem doorbells_act (s : State) (f : Fin 16) (v : BitVec 64) (hr : s.refuses f.val = false) :
    let pid := wfield v 19 16
    let i := wfield v 11 0
    let answer (u : State) (w : Word) : State := u.modFn f.val fun g => { g with rqres := w }
    (s.sys.asleep = true ∨ s.parts.get? pid = none →
      exec (.rqsub f v) s = .next (answer s (errWord 4)) ∧ exec (.rqrd f v) s = .next (answer s (errWord 4))
      ∧ exec (.rqcan f v) s = .next (answer s (errWord 4)))
    ∧ (∀ p, s.sys.asleep = false → s.parts.get? pid = some p →
      exec (.rqsub f v) s = .next (answer (s.putTable pid (p.req.submit (s.fn f.val).rqstage f.val).1) (p.req.submit (s.fn f.val).rqstage f.val).2)
      ∧ (ownRecord p.req f.val i = true →
          exec (.rqrd f v) s = .next (answer (s.modFn f.val fun g => { g with rqstage := p.req.recAt i }) 0#64)
          ∧ exec (.rqcan f v) s = .next (answer (s.putTable pid (p.req.cancel i (v.getLsbD 12)).1)
              (BitVec.ofNat 64 (p.req.cancel i (v.getLsbD 12)).2)))
      ∧ (ownRecord p.req f.val i = false →
          exec (.rqrd f v) s = .next (answer s (errWord 4)) ∧ exec (.rqcan f v) s = .next (answer s (errWord 4)))) := by
  intro pid i answer
  refine ⟨fun h => ⟨?_, ?_, ?_⟩, fun p ha hp => ⟨?_, fun own => ⟨?_, ?_⟩, fun other => ⟨?_, ?_⟩⟩⟩
  · exact (exec_rqsub f v s).trans (event_some (congrArg some (requestDoor_none hr h _)))
  · exact (exec_rqrd f v s).trans (event_some (congrArg some (requestDoor_none hr h _)))
  · exact (exec_rqcan f v s).trans (event_some (congrArg some (requestDoor_none hr h _)))
  · exact (exec_rqsub f v s).trans (event_some (congrArg some (requestDoor_acts hr ha hp _)))
  · refine (exec_rqrd f v s).trans (event_some (congrArg some ((requestDoor_acts hr ha hp _).trans ?_)))
    dsimp only
    rw [if_pos own]
  · refine (exec_rqcan f v s).trans (event_some (congrArg some ((requestDoor_acts hr ha hp _).trans ?_)))
    dsimp only
    rw [if_pos own]
    rfl
  · refine (exec_rqrd f v s).trans (event_some (congrArg some ((requestDoor_acts hr ha hp _).trans ?_)))
    dsimp only
    rw [if_neg (by rw [other]; exact Bool.false_ne_true)]
  · refine (exec_rqcan f v s).trans (event_some (congrArg some ((requestDoor_acts hr ha hp _).trans ?_)))
    dsimp only
    rw [if_neg (by rw [other]; exact Bool.false_ne_true)]

/-! ### Host queues (R439) -/

theorem queue_setQueue (s : State) (f : Nat) (q : Fin 8) (x : HostQ) : ((s.setQueue f q x).fn f).queues.get q = x := by
  unfold State.setQueue
  rw [fn_modFn_same]
  exact Vector.getElem_set_self _
theorem queue_setQueue_ne (s : State) (f : Nat) {q p : Fin 8} (x : HostQ) (h : p ≠ q) :
    ((s.setQueue f q x).fn f).queues.get p = (s.fn f).queues.get p := by
  unfold State.setQueue
  rw [fn_modFn_same]
  exact get_set_ne (s.fn f).queues x h

/-! ### Registers (R394, R430, R445, R455) -/

theorem doorClosed_served {s : State} {f : Fin 16} (h : s.refuses f.val = false) (off : Nat) (read : Bool) : s.doorClosed f off read = false := by
  obtain ⟨runs, booted⟩ := Bool.or_eq_false_iff.1 h
  simp [State.doorClosed, runs, booted]
/-- A function that this access freezes (R394). -/
theorem complete_freezeFn (s : State) (f a : Nat) :
    (((s.freezeFn f a).complete f none).fn f).frozen = true ∧ (((s.freezeFn f a).complete f none).fn f).reads = none :: (s.fn f).reads := by
  have reads : ((s.freezeFn f a).fn f).reads = (s.fn f).reads := by
    rw [State.freezeFn, fn_post_view Fn.reads fun _ => rfl, fn_modFn_same]
  unfold State.complete
  rw [fn_modFn_same]
  exact ⟨(freezeFn_freezes s f a).1, congrArg (none :: ·) reads⟩

section
variable {s : State} {f : Fin 16} {off : Nat}
/-- An access that is not aligned, or of another size, freezes the function. -/
theorem registerWrite_freezes {v : Word} {n : Nat} (hc : s.doorClosed f off false = false) (h : off % 8 ≠ 0 ∨ 0x10000 ≤ off ∨ n ≠ 8) :
    s.registerWrite f off v n = some (s.freezeFn f.val off) := by
  unfold State.registerWrite
  rw [if_neg (by rw [hc]; exact Bool.false_ne_true), if_pos h]
theorem registerRead_freezes {n : Nat} (hc : s.doorClosed f off true = false) (h : off % 8 ≠ 0 ∨ 0x10000 ≤ off ∨ n ≠ 8) :
    s.registerRead f off n = (s.freezeFn f.val off).complete f.val none := by
  unfold State.registerRead
  rw [if_neg (by rw [hc]; exact Bool.false_ne_true), if_pos h]
theorem registerWrite_served {v : Word} (hc : s.doorClosed f off false = false) (ho : off < 0x10000) (ha : off % 8 = 0) (hd : isDoorbell off = false) :
    s.registerWrite f off v 8 =
      if 0x8000 ≤ off then some (if f = 0 then s.writePf off v else s) else some (s.modFn f.val fun g => g.writeReg off v) := by
  unfold State.registerWrite
  rw [if_neg (by rw [hc]; exact Bool.false_ne_true), if_neg (by omega), if_neg (by rw [hd]; exact Bool.false_ne_true)]
theorem registerRead_served (hc : s.doorClosed f off true = false) (ho : off < 0x10000) (ha : off % 8 = 0) :
    s.registerRead f off 8 = s.complete f.val (some (s.readReg f off)) := by
  unfold State.registerRead
  rw [if_neg (by rw [hc]; exact Bool.false_ne_true), if_neg (by omega)]
theorem registerWrite_closed {v : Word} {n : Nat} (hc : s.doorClosed f off false = true) : s.registerWrite f off v n = some s := by
  unfold State.registerWrite
  exact if_pos hc
theorem registerRead_closed {n : Nat} (hc : s.doorClosed f off true = true) : s.registerRead f off n = s.complete f.val none := by
  unfold State.registerRead
  exact if_pos hc
theorem execRegisterWrite_write {v : Word} {n : Nat} {u : State} (h : s.registerWrite f off v n = some u) : exec (.registerWrite f off (.write v n)) s = .next u :=
  (exec_registerWrite f off (.write v n) s).trans (event_some h)
theorem execRegisterWrite_read {n : Nat} {u : State} (h : s.registerRead f off n = u) : exec (.registerWrite f off (.read n)) s = .next u :=
  (exec_registerWrite f off (.read n) s).trans (event_some (congrArg some h))
/-- After a failed boot the mailbox alone is in service, and the reads of the first registers. -/
theorem doorClosed_failed (hb : 0x80 ≤ s.sys.bootst) (h : f ≠ 0 ∨ off < 0x8000 ∨ 0x80D0 ≤ off) (read : Bool) (hr : read = true → 0x18 ≤ off) :
    s.doorClosed f off read = true := by
  have other : (decide (f = 0) && mailboxOff off) = false := by
    rcases h with h | h | h
    · simp [h]
    · simp [mailboxOff, h]
    · simp [mailboxOff, h]
  have late : (read && decide (off < 0x18)) = false := by
    cases read with
    | false => rfl
    | true => simpa using hr rfl
  simp [State.doorClosed, State.bootFailed, hb, other, late]
theorem doorClosed_mailbox (hr : (s.fn f.val).refuses = false) (h0 : f = 0) (hl : 0x8000 ≤ off) (hh : off < 0x80D0) : s.doorClosed f off false = false := by
  have mailbox : (decide (f = 0) && mailboxOff off) = true := by simp [h0, mailboxOff, hl, hh]
  simp [State.doorClosed, hr, mailbox]
theorem doorClosed_refusing (hr : (s.fn f.val).refuses = true) (read : Bool) : s.doorClosed f off read = true := by simp [State.doorClosed, hr]
theorem isDoorbell_mailbox (hl : 0x8000 ≤ off) : isDoorbell off = false := by
  have below : [0x10F8, 0x2400, 0x2410, 0x3020, 0x4040, 0x4050, 0x4058].contains off = false := by
    simp only [List.contains_eq_mem, List.mem_cons, List.not_mem_nil, or_false, decide_eq_false_iff_not, not_or]
    omega
  have queue : queueOff off = false := by simp [queueOff]; omega
  unfold isDoorbell
  rw [below, queue]
  rfl
end

theorem registers_served (s : State) (f : Fin 16) (off : Nat) (v : BitVec 64) (hr : s.refuses f.val = false) (ho : off < 0x10000) :
    (off % 8 ≠ 0 → (∃ u, exec (.registerWrite f off (.write v)) s = .next u ∧ (u.fn f.val).frozen = true)
      ∧ ∃ u, exec (.registerWrite f off (.read)) s = .next u ∧ (u.fn f.val).frozen = true ∧ (u.fn f.val).reads = none :: (s.fn f.val).reads)
    ∧ (∀ n, n ≠ 8 → ∃ u, exec (.registerWrite f off (.write v n)) s = .next u ∧ (u.fn f.val).frozen = true)
    ∧ (off % 8 = 0 → isDoorbell off = false →
        (off < 0x8000 → exec (.registerWrite f off (.write v)) s = .next (s.modFn f.val fun g => g.writeReg off v))
        ∧ (0x8000 ≤ off → f ≠ 0 → exec (.registerWrite f off (.write v)) s = .next s)
        ∧ (0x8000 ≤ off → f = 0 → exec (.registerWrite f off (.write v)) s = .next (s.writePf off v)))
    ∧ (off % 8 = 0 → exec (.registerWrite f off (.read)) s =
        .next (s.modFn f.val fun g => { g with reads := some (s.readReg f off) :: g.reads })) := by
  have open' (read : Bool) : s.doorClosed f off read = false := doorClosed_served hr off read
  refine ⟨fun ha => ⟨⟨_, execRegisterWrite_write (registerWrite_freezes (open' _) (.inl ha)), (freezeFn_freezes s f.val off).1⟩,
      _, execRegisterWrite_read (registerRead_freezes (open' _) (.inl ha)), complete_freezeFn s f.val off⟩,
    fun n hn => ⟨_, execRegisterWrite_write (registerWrite_freezes (open' _) (.inr (.inr hn))), (freezeFn_freezes s f.val off).1⟩,
    fun ha hd => ⟨fun hl => ?_, fun hl h0 => ?_, fun hl h0 => ?_⟩, fun ha => execRegisterWrite_read (registerRead_served (open' _) ho ha)⟩
  · exact execRegisterWrite_write ((registerWrite_served (open' _) ho ha hd).trans (if_neg (by omega)))
  · exact execRegisterWrite_write ((registerWrite_served (open' _) ho ha hd).trans ((if_pos hl).trans (congrArg some (if_neg h0))))
  · exact execRegisterWrite_write ((registerWrite_served (open' _) ho ha hd).trans ((if_pos hl).trans (congrArg some (if_pos h0))))

/-- What the writes of some registers leave in their function. -/
theorem writeReg_registers (g : Fn) (v : Word) :
    (g.writeReg 0x10F0 v).sendctl = v ∧ (g.writeReg 0x2408 v).getaddr = v ∧ (g.writeReg 0x3010 v).dmcons = v
    ∧ (g.writeReg 0x5018 v).hccons = v ∧ (g.hcprod = g.hccons → (g.writeReg 0x5000 v).hcbase = v)
    ∧ (g.hcprod ≠ g.hccons → (g.writeReg 0x5000 v).hcbase = g.hcbase) := by
  refine ⟨?_, ?_, ?_, ?_, fun h => ?_, fun h => ?_⟩
  · simp [Fn.writeReg]
  · simp [Fn.writeReg]
  · simp [Fn.writeReg]
  · simp [Fn.writeReg]
  · simp [Fn.writeReg, h]
  · simp [Fn.writeReg, h]

/-! ### Function level reset (R430) -/

theorem resetEnd_ends (s : State) (f : Nat) :
    ((s.resetEnd f).fn f).resetting = false ∧ ((s.resetEnd f).fn f).frozen = false ∧ ((s.resetEnd f).fn f).eq = [] ∧ ((s.resetEnd f).fn f).vin = [] := by
  unfold State.resetEnd
  dsimp only
  rw [fn_modFn_same]
  exact ⟨rfl, rfl, rfl, rfl⟩

/-- Settles O53: the doorbells act on the table that they name, the registers take and give their values, and a reset begins and ends. -/
theorem hostRegisters : Obligations.HostRegisters := by
  unfold Obligations.HostRegisters
  refine ⟨doorbells_act, fun s f q v hr => ?_, registers_served, fun s f off n hr => ?_, fun s f off hr hb => ⟨fun h => ⟨fun v n => ?_, fun ho n => ?_⟩, fun h0 hl hh ha v => ?_⟩,
    writeReg_registers, fun s f => ⟨fun h => ?_, fun h hd => ⟨?_, resetEnd_ends s f.val⟩⟩⟩
  · have taken : (if s.refuses f.val then s else s.setQueue f.val q (((s.fn f.val).queues.get q).submit v s.cycle))
        = s.setQueue f.val q (((s.fn f.val).queues.get q).submit v s.cycle) := if_neg (by rw [hr]; exact Bool.false_ne_true)
    refine ⟨_, (exec_qtail f q v s).trans (event_some (congrArg some taken)), ?_, ?_, fun p hp => queue_setQueue_ne s f.val _ hp⟩
    · rw [queue_setQueue]; rfl
    · rw [queue_setQueue]; rfl
  · exact execRegisterWrite_read (registerRead_closed (doorClosed_refusing hr true))
  · exact execRegisterWrite_write (registerWrite_closed (doorClosed_failed hb h false nofun))
  · exact execRegisterWrite_read (registerRead_closed (doorClosed_failed hb h true fun _ => ho))
  · refine execRegisterWrite_write ((registerWrite_served (doorClosed_mailbox hr h0 hl hh) (by omega) ha (isDoorbell_mailbox hl)).trans ?_)
    exact (if_pos hl).trans (congrArg some (if_pos h0))
  · exact (exec_functionLevelReset f s).trans (event_some (if_pos (by rw [h]; rfl)))
  · exact (exec_functionLevelReset f s).trans (event_some ((if_neg (by rw [h]; decide)).trans (if_pos hd)))

end Sys2Proof.Machine
end

section
/-! Admission and the end of a launch (R328, R431, R439 to R441). -/

namespace Sys2Proof.Machine
open Sys2Proof

/-! ### Admission (R439, R440) -/

/-- The placer's check of an entry's reserved words. -/
theorem reserved_iff (w : Nat → Nat) :
    ((List.range 3).all (fun k => decide (w (4 + k) = 0)) && decide (bits (w 1) 46 36 = 0) && decide (bits (w 3) 63 16 = 0)) = true
      ↔ ¬ (w 4 ≠ 0 ∨ w 5 ≠ 0 ∨ w 6 ≠ 0 ∨ bits (w 1) 46 36 ≠ 0 ∨ bits (w 3) 63 16 ≠ 0) := by
  simp [List.range_succ]
  tauto

/-- What the placer does with the first entry of a queue: it goes on, the entry fails, or its launch begins. -/
theorem admission_takes {s : State} {pid f : Nat} {q : Fin 8} {bell i : Nat} {more : List Nat} {p : Part} (ha : s.sys.asleep = false)
    (hs : s.sys.suspended = false) (hb : s.sys.bootst = 6) (he : earliest (s.candidates pid) = some (f, q, bell))
    (hq : ((s.fn f).queues.get q).pending = i :: more) (hp : s.parts.get? pid = some p) (hl : p.launch = none) (h1 : p.state = 1) :
    let x := (s.fn f).queues.get q
    let s0 := s.setQueue f q (x.take i)
    let w (k : Nat) : Nat := s.entryWord f x i k
    let len := bits (w 1) 31 0
    let im := s.mem.bytes (hostKey f (w 0)) len
    let bs := (List.range (bits (w 3) 15 0)).map fun k =>
      (leNat (s.mem.bytes (hostKey f (w 2 + 16 * k)) 8), leNat (s.mem.bytes (hostKey f (w 2 + 16 * k + 8)) 8))
    let zero := (List.range 3).all (fun k => decide (w (4 + k) = 0)) && decide (bits (w 1) 46 36 = 0) && decide (bits (w 3) 63 16 = 0)
    let r := s.admitLaunch f pid im len bs
    s.admission pid = if x.cancelled.contains i then some s0
      else if (if zero then r.1 else 1) ≠ 0 then some (s0.writeEntry f x i 0 (if zero then r.1 else 1))
      else some ((s0.startLaunch pid f q.val p im (imgSects im) r.2).writeEntry f x i (launchNumber p.nextLaunch) 0) := by
  intro x s0 w len im bs zero r
  have free : (p.launch.isNone && decide (p.state = 1)) = true := by rw [hl, h1]; rfl
  unfold State.admission
  rw [hp]
  dsimp only
  rw [free, ha, hs, hb, if_neg (by decide), he, Option.bind_some]
  dsimp only
  rw [hq]

theorem admissions (s : State) (pid f : Nat) (q : Fin 8) (bell i : Nat) (more : List Nat)
    (ha : s.sys.asleep = false) (hs : s.sys.suspended = false) (hb : s.sys.bootst = 6) (he : earliest (s.candidates pid) = some (f, q, bell))
    (hq : ((s.fn f).queues.get q).pending = i :: more) :
    let x := (s.fn f).queues.get q
    let s0 := s.setQueue f q (x.take i)
    let w (k : Nat) : Nat := s.entryWord f x i k
    let len := bits (w 1) 31 0
    let im := s.mem.bytes (hostKey f (w 0)) len
    let bs := (List.range (bits (w 3) 15 0)).map fun k =>
      (leNat (s.mem.bytes (hostKey f (w 2 + 16 * k)) 8), leNat (s.mem.bytes (hostKey f (w 2 + 16 * k + 8)) 8))
    let reserved := w 4 ≠ 0 ∨ w 5 ≠ 0 ∨ w 6 ≠ 0 ∨ bits (w 1) 46 36 ≠ 0 ∨ bits (w 3) 63 16 ≠ 0
    let r := s.admitLaunch f pid im len bs
    (∀ p, s.parts.get? pid = some p → p.launch = none → p.state = 1 →
      (i ∈ x.cancelled → exec (.admission pid) s = .next s0)
      ∧ (i ∉ x.cancelled → reserved → exec (.admission pid) s = .next (s0.writeEntry f x i 0 1))
      ∧ (i ∉ x.cancelled → ¬ reserved → r.1 ≠ 0 → exec (.admission pid) s = .next (s0.writeEntry f x i 0 r.1))
      ∧ (i ∉ x.cancelled → ¬ reserved → r.1 = 0 → exec (.admission pid) s =
          .next ((s0.startLaunch pid f q.val p im (imgSects im) r.2).writeEntry f x i (launchNumber p.nextLaunch) 0))) := by
  intro x s0 w len im bs reserved r p hp hl h1
  have takes := admission_takes ha hs hb he hq hp hl h1
  have waits (h : i ∉ x.cancelled) : ¬ x.cancelled.contains i = true := by simpa using h
  have run {u : State} (h : s.admission pid = some u) : exec (.admission pid) s = .next u := (exec_admission pid s).trans (event_some h)
  refine ⟨fun hc => run (takes.trans (if_pos (by simpa using hc))), fun hc hr => run (takes.trans ((if_neg (waits hc)).trans ?_)),
    fun hc hr hx => run (takes.trans ((if_neg (waits hc)).trans ?_)), fun hc hr hx => run (takes.trans ((if_neg (waits hc)).trans ?_))⟩
  · rw [if_neg fun zero => (reserved_iff w).1 zero hr]
    exact if_pos (by decide)
  · rw [if_pos ((reserved_iff w).2 hr)]
    exact if_pos hx
  · rw [if_pos ((reserved_iff w).2 hr)]
    exact if_neg fun nz => nz hx

/-! ### The end of a launch (R328, R431, R441) -/

section
variable (s : State)
theorem parts_zeroKeeps (p : Part) (l : Launch) (bays : List Nat) : (s.zeroKeeps p l bays).parts = s.parts := by
  refine foldl_view State.parts (fun s t => ?_) _ s
  refine foldl_view State.parts (fun s k => ?_) l.keeps s
  rfl
theorem hostq_zeroKeeps (p : Part) (l : Launch) (bays : List Nat) : (s.zeroKeeps p l bays).hostq = s.hostq := by
  refine foldl_view State.hostq (fun s t => ?_) _ s
  refine foldl_view State.hostq (fun s k => ?_) l.keeps s
  rfl
theorem queueDone_modFns (f : Nat) (q : Fin 8) : (s.queueDone f q).parts = s.parts ∧ (s.queueDone f q).hostq = s.hostq := by
  unfold State.queueDone
  dsimp only
  split
  · exact ⟨rfl, rfl⟩
  · exact ⟨rfl, rfl⟩
/-- A launch that ends leaves its partition, whose tiles forget it. -/
theorem clearLaunch_clears {pid : Nat} {p q : Part} (l : Launch) (h : s.parts.get? pid = some q) :
    ((s.clearLaunch pid p l).parts.get? pid).map (·.launch) = some none ∧ (s.clearLaunch pid p l).hostq = s.hostq := by
  have left : (if p.away then s else p.tiles.foldl (fun (st : State) t => st.modTile t fun x => x.endLaunch p.shareIdx pid l) s).parts = s.parts
      ∧ (if p.away then s else p.tiles.foldl (fun (st : State) t => st.modTile t fun x => x.endLaunch p.shareIdx pid l) s).hostq = s.hostq := by
    split
    · exact ⟨rfl, rfl⟩
    · refine ⟨foldl_view State.parts (fun s t => ?_) _ s, foldl_view State.hostq (fun s t => ?_) _ s⟩
      · rfl
      · rfl
  unfold State.clearLaunch
  dsimp only
  generalize (if p.away then s else p.tiles.foldl (fun (st : State) t => st.modTile t fun x => x.endLaunch p.shareIdx pid l) s) = u at left
  obtain ⟨parts, hostq⟩ := left
  have cleared (g : Part → Part) (hg : (g q).launch = none) : ((u.modPart pid g).parts.get? pid).map (·.launch) = some none := by
    rw [get?_modPart (by rw [parts]; exact h), Option.map_some, hg]
  have kept (g : Part → Part) : (u.modPart pid g).hostq = s.hostq := (modPart_hostq u pid g).trans hostq
  split
  · exact ⟨cleared _ rfl, kept _⟩
  · exact ⟨cleared _ rfl, kept _⟩
end
/-- The end of a launch: its partition is free, and the host is told of it unless its queue is torn down. -/
theorem endLaunch_ends {s : State} {pid : Nat} {p : Part} (l : Launch) (hp : s.parts.get? pid = some p) :
    ((s.endLaunch pid p l).parts.get? pid).map (·.launch) = some none
    ∧ (l.torn = true → (s.endLaunch pid p l).hostq = s.hostq)
    ∧ (l.torn = false → ∃ m, (s.endLaunch pid p l).hostq = s.hostq ++ [m] ∧ m.source = 0x7FE#11 ∧ m.launch = l.num ∧ m.tenant = l.tenant) := by
  unfold State.endLaunch
  dsimp only
  generalize hm : endMessage l _ _ = m
  have told (u : State) (hu : u.parts = s.parts) (v r : Nat) (bad : List Nat) (q : Fin 8) :
      ((((((u.postInbox l.tenant 2 v).raise l.tenant r).zeroKeeps p l bad).clearLaunch pid p l).queueDone l.tenant q).parts.get? pid).map (·.launch) = some none
      ∧ (((((u.postInbox l.tenant 2 v).raise l.tenant r).zeroKeeps p l bad).clearLaunch pid p l).queueDone l.tenant q).hostq = u.hostq := by
    generalize hk : ((u.postInbox l.tenant 2 v).raise l.tenant r).zeroKeeps p l bad = w
    have parts : w.parts = s.parts := by rw [← hk, parts_zeroKeeps]; exact hu
    have hostq : w.hostq = u.hostq := by rw [← hk, hostq_zeroKeeps]; rfl
    obtain ⟨cleared, kept⟩ := clearLaunch_clears w (p := p) l (by rw [parts]; exact hp)
    obtain ⟨parts', hostq'⟩ := queueDone_modFns (w.clearLaunch pid p l) l.tenant q
    rw [parts', hostq']
    exact ⟨cleared, kept.trans hostq⟩
  cases torn : l.torn with
  | true =>
    obtain ⟨cleared, kept⟩ := told s rfl (m.word 0).toNat 1 (s.badBays p l) (Fin.ofNat 8 l.queue)
    exact ⟨cleared, fun _ => kept, nofun⟩
  | false =>
    obtain ⟨cleared, kept⟩ := told { s with hostq := s.hostq ++ [m] } rfl (m.word 0).toNat 1 (s.badBays p l) (Fin.ofNat 8 l.queue)
    exact ⟨cleared, nofun, fun _ => ⟨m, kept, by rw [← hm]; rfl, by rw [← hm]; rfl, by rw [← hm]; rfl⟩⟩

/-- A sweep that is due: it ends an idle launch that it has found so before, or notes what it has found. -/
theorem sweep_due {s : State} {pid : Nat} {p : Part} {l : Launch} (hp : s.parts.get? pid = some p) (hl : p.launch = some l)
    (hd : l.sweepAt + 4096 ≤ s.cycle) :
    let a := s.sentSum p l
    let b := s.receivedSum p
    let calm := !haltedState p.state && ((s.holdings p).all fun x => s.tileIdle x.1 x.2 pid l) && s.unitsIdle pid p l && decide (a = b)
    let keepOn (last : Option (Nat × Nat)) : State := s.modPart pid fun q => { q with launch := some { l with lastSweep := last, sweepAt := s.cycle } }
    s.sweep pid = if calm && decide (l.lastSweep = some (a, b)) then
        (if (s.fn l.tenant).outbound.all fun o => decide (o.src.pid ≠ pid) then some (s.endLaunch pid p l) else some (keepOn (some (a, b))))
      else some (keepOn (if calm then some (a, b) else none)) := by
  intro a b calm keepOn
  unfold State.sweep
  rw [hp, Option.bind_some, hl, Option.bind_some]
  exact if_neg (by omega)

/-- Settles O54: the placer and the sweep do what their lemmas say, case by case. -/
theorem launchLife : Obligations.LaunchLife := by
  unfold Obligations.LaunchLife
  refine ⟨admissions, fun s pid p l hp hl hd => ?_⟩
  intro a b calm keepOn
  have due : s.sweep pid = if calm && decide (l.lastSweep = some (a, b)) then
        (if (s.fn l.tenant).outbound.all fun o => decide (o.src.pid ≠ pid) then some (s.endLaunch pid p l) else some (keepOn (some (a, b))))
      else some (keepOn (if calm then some (a, b) else none)) := sweep_due hp hl hd
  have run {u : State} (h : s.sweep pid = some u) : exec (.sweep pid) s = .next u := (exec_sweep pid s).trans (event_some h)
  refine ⟨fun hc => run (due.trans ?_), fun hc hn => run (due.trans ?_), fun hc hn ho => ⟨run (due.trans ?_), endLaunch_ends l hp⟩⟩
  · rw [hc]
    rfl
  · rw [if_neg fun h => hn (of_decide_eq_true (Bool.and_eq_true_iff.1 h).2), if_pos hc]
  · rw [if_pos (Bool.and_eq_true_iff.2 ⟨hc, decide_eq_true hn⟩)]
    exact if_pos (List.all_eq_true.2 fun o h => decide_eq_true (ho o h))

end Sys2Proof.Machine
end

section
/-! The mailbox (R450, R452, R453, R457 to R460). -/

namespace Sys2Proof.Machine
open Sys2Proof

/-- The end of a request: its status, its result and vector 4. -/
def State.mbEnds (r : State × Nat) : State := (r.1.modSys fun y => y.mbDone r.2).raise 0 4

section
variable {s : State} (hb : s.sys.mbBusy = true)
include hb
/-- The mailbox serves the operation that its first word names. -/
theorem mailbox_serves {n : Nat} {f : State → Option (State × Nat)} {r : State × Nat} (h : s.sys.mbWord 0 = n) (hf : f s = some r) :
    mailbox n f s = some (State.mbEnds r) := by
  unfold mailbox
  simp [hb, h, hf, State.mbEnds]

theorem mailbox_operations :
    (s.sys.mbWord 0 = 1 → exec .mbExecSystemInstruction s = .next (State.mbEnds s.mbExec))
    ∧ (s.sys.mbWord 0 = 2 → exec .mbSlotConfig s = .next (State.mbEnds s.measureOp.mbSlot))
    ∧ (s.sys.mbWord 0 = 3 → ∀ r, s.mbArm = some r → exec .mbWicketArm s = .next (State.mbEnds (r.1.measureOp, r.2)))
    ∧ (s.sys.mbWord 0 = 4 → exec .mbErrorArea s = .next (State.mbEnds s.mbArea))
    ∧ (s.sys.mbWord 0 = 5 → exec .mbPowerCap s = .next (State.mbEnds s.mbCap))
    ∧ (s.sys.mbWord 0 = 8 → exec .mbPeerWord s = .next (State.mbEnds s.measureOp.mbPeer))
    ∧ (s.sys.mbWord 0 = 9 → exec .mbLifetimeRecord s = .next (State.mbEnds s.mbLife)) := by
  refine ⟨fun h => ?_, fun h => ?_, fun h r hr => ?_, fun h => ?_, fun h => ?_, fun h => ?_, fun h => ?_⟩
  · exact (exec_mbExecSystemInstruction s).trans (event_some (mailbox_serves hb h rfl))
  · exact (exec_mbSlotConfig s).trans (event_some (mailbox_serves hb h rfl))
  · exact (exec_mbWicketArm s).trans (event_some (mailbox_serves hb h (by rw [hr]; rfl)))
  · exact (exec_mbErrorArea s).trans (event_some (mailbox_serves hb h rfl))
  · exact (exec_mbPowerCap s).trans (event_some (mailbox_serves hb h rfl))
  · exact (exec_mbPeerWord s).trans (event_some (mailbox_serves hb h rfl))
  · exact (exec_mbLifetimeRecord s).trans (event_some (mailbox_serves hb h rfl))

/-- Sleep and wake (R459). -/
theorem mailbox_sleeps (h : s.sys.mbWord 0 = 6) :
    (s.sys.mbWord 1 = 0 → s.maySleep = true → exec .mbSleep s = .next (State.mbEnds (s.enterSleep, 0)) ∧ s.enterSleep.sys.asleep = true)
    ∧ (s.sys.mbWord 1 = 0 → s.maySleep = false → exec .mbSleep s = .next (State.mbEnds (s, 3)))
    ∧ (s.sys.mbWord 1 = 1 → exec .mbWake s = .next (State.mbEnds (s.modSys fun y => y.requestWake 1#64, 0)))
    ∧ (1 < s.sys.mbWord 1 → exec .mbSleep s = .next (State.mbEnds (s, 2))) := by
  have sleep {r : State × Nat} (hr : s.mbSleep = some r) : exec .mbSleep s = .next (State.mbEnds r) :=
    (exec_mbSleep s).trans (event_some (mailbox_serves hb h hr))
  refine ⟨fun h0 may => ⟨sleep ?_, rfl⟩, fun h0 may => sleep ?_, fun h1 => ?_, fun h2 => sleep ?_⟩
  · rw [State.mbSleep, h0, may]
    rfl
  · rw [State.mbSleep, h0, may]
    rfl
  · exact (exec_mbWake s).trans (event_some (mailbox_serves hb h (if_pos h1)))
  · unfold State.mbSleep
    split
    · next e => omega
    · next e => omega
    · rfl
/-- Suspend and resume (R460). -/
theorem mailbox_suspends (h : s.sys.mbWord 0 = 7) :
    (s.sys.mbWord 1 = 0 → s.sys.role ≠ 1 → s.sys.suspended = false →
      exec .mbSuspend s = .next (State.mbEnds (s.modSys fun y => { y with suspended := true }, 0)))
    ∧ (s.sys.mbWord 1 = 1 → s.sys.suspended = true → exec .mbResume s = .next (State.mbEnds (s.modSys fun y => { y with suspended := false }, 0))) := by
  refine ⟨fun h0 role runs => (exec_mbSuspend s).trans (event_some (mailbox_serves hb h ?_)),
    fun h1 held => (exec_mbResume s).trans (event_some (mailbox_serves hb h ((if_pos h1).trans (congrArg some (if_pos held)))))⟩
  rw [State.mbSuspend, h0]
  exact congrArg some (if_neg (by simp [role, runs]))
end

/-- Settles O55: the mailbox serves each operation, and the cap's bounds refuse what lies outside. -/
theorem mailboxServes : Obligations.Mailbox := by
  unfold Obligations.Mailbox
  intro s hb ends op
  obtain ⟨exec1, slot, arm, area, cap, peer, life⟩ := mailbox_operations hb
  refine ⟨exec1, slot, arm, area, cap, mailbox_sleeps hb, mailbox_suspends hb, peer, life, fun h => ?_, fun r => rfl⟩
  unfold State.mbCap
  exact if_pos h

end Sys2Proof.Machine
end

section
/-! The memory under the operations of the state: those that leave it alone, each once. -/

namespace Sys2Proof.Machine
open Sys2Proof

@[simp] theorem mem_foldl {α : Type} {f : State → α → State} (h : ∀ s x, (f s x).mem = s.mem) (l : List α) (s : State) :
    (l.foldl f s).mem = s.mem := foldl_view State.mem h l s
theorem mem_ite {p : Prop} [Decidable p] {s t u : State} (h : t.mem = s.mem) (k : u.mem = s.mem) : (if p then t else u).mem = s.mem := by
  split <;> assumption
@[simp] theorem mem_useRes (s : State) (t : Nat) (p : Option Nat) (i : Nat) : (s.useRes t p i).mem = s.mem := useRes_mem s t p i
@[simp] theorem mem_used (s : State) (i : Nat) : (s.used i).mem = s.mem := used_mem s i
@[simp] theorem mem_takeTrapAt (s : State) (t : Nat) (c : Fin 8) (a : Word) (x : Trap) : (s.takeTrapAt t c a x).mem = s.mem :=
  takeTrapAt_mem s t c a x
@[simp] theorem mem_takeTrap (s : State) (a : Word) (x : Trap) : (s.takeTrap a x).mem = s.mem := takeTrap_mem s a x
@[simp] theorem mem_raise (s : State) (f v : Nat) : (s.raise f v).mem = s.mem := by rfl
@[simp] theorem mem_countMiss (s : State) : s.countMiss.mem = s.mem := by
  unfold State.countMiss
  dsimp only
  (repeat' split) <;> simp
@[simp] theorem mem_enterLog (s : State) (e : ErrEvent) : (s.enterLog e).mem = s.mem := by
  unfold State.enterLog
  dsimp only
  split <;> simp
@[simp] theorem mem_logOnly (s : State) (e : ErrEvent) : (s.logOnly e).mem = s.mem := by simp [State.logOnly]
@[simp] theorem mem_postWord (s : State) (w : Nat) (two : Bool) : (s.postWord w two).mem = s.mem := by
  unfold State.postWord
  dsimp only
  split <;> simp
@[simp] theorem mem_senseWord (s : State) (w : Nat) : (s.senseWord w).mem = s.mem := by
  unfold State.senseWord
  dsimp only
  (repeat' split) <;> simp
@[simp] theorem mem_sealEdge (s : State) : s.sealEdge.mem = s.mem := by simp [State.sealEdge]
@[simp] theorem mem_holdReflex (s : State) (on : Bool) : (s.holdReflex on).mem = s.mem := by
  unfold State.holdReflex
  split <;> simp
@[simp] theorem mem_takeOver (s : State) : s.takeOver.mem = s.mem := by simp [State.takeOver]
@[simp] theorem mem_modTile (s : State) (t : Nat) (f : Tile → Tile) : (s.modTile t f).mem = s.mem := by rfl
@[simp] theorem mem_modChan (s : State) (t : Nat) (i : Fin 3) (c : Nat) (f : CopyChan → CopyChan) : (s.modChan t i c f).mem = s.mem := by rfl
@[simp] theorem mem_dropBuffered (s : State) (t : Nat) (i : Fin 3) (act : Nat) (p : Transfer → Bool) : (s.dropBuffered t i act p).mem = s.mem := by
  simp [State.dropBuffered]
@[simp] theorem mem_modSlotAt (s : State) (t : Nat) (c : Fin 8) (f : Slot → Slot) : (s.modSlotAt t c f).mem = s.mem := by rfl
@[simp] theorem mem_abortBegin (s : State) (t : Nat) (c : Fin 8) : (s.abortBegin t c).mem = s.mem := by simp [State.abortBegin]
@[simp] theorem mem_freeSlot (s : State) (t : Nat) (c : Fin 8) : (s.freeSlot t c).mem = s.mem := by rfl
@[simp] theorem mem_setLife (s : State) (w : Nat) (r : Rec512) : (s.setLife w r).mem = s.mem := by rfl
@[simp] theorem mem_chargeWear (s : State) (t : Nat) (c : Fin 8) (tenant cycles : Nat) : (s.chargeWear t c tenant cycles).mem = s.mem := by rfl
@[simp] theorem mem_modBay (s : State) (b : Nat) (f : Bay → Bay) : (s.modBay b f).mem = s.mem := by rfl
@[simp] theorem mem_cancelLeave (s : State) (t act : Nat) : (s.cancelLeave t act).mem = s.mem := by rfl
@[simp] theorem mem_onAct (s : State) (t id : Nat) (f : Slot → Slot) : (s.onAct t id f).mem = s.mem := by rfl
@[simp] theorem mem_dropHold (s : State) (t : Nat) (i : Fin 3) (a : Act) : (s.dropHold t i a).mem = s.mem := by rfl
@[simp] theorem mem_endAct (s : State) (t : Nat) (c : Fin 8) : (s.endAct t c).mem = s.mem := by simp [State.endAct]
@[simp] theorem mem_inject (s : State) (t : Nat) (i : Fin 3) (m0 : Msg) : (s.inject t i m0).mem = s.mem := by rfl
@[simp] theorem mem_sendHost (s : State) (t : Nat) (i : Fin 3) (m : Msg) : (s.sendHost t i m).mem = s.mem := by rfl
@[simp] theorem mem_senseWin (s : State) (t : Nat) (i : Fin 3) (ea n : Nat) : (s.senseWin t i ea n).mem = s.mem := by simp [State.senseWin]
@[simp] theorem mem_senseIndex (s : State) (x : Transfer) : (s.senseIndex x).mem = s.mem := by
  unfold State.senseIndex
  split <;> simp
@[simp] theorem mem_leaveRequest (s : State) (t : Nat) (i : Fin 3) (r : LvReq) : (s.leaveRequest t i r).1.mem = s.mem := by
  unfold State.leaveRequest
  split <;> simp
@[simp] theorem mem_obtainLeave (s : State) (t : Nat) (i : Fin 3) (act : Nat) (r : LvReq) : (s.obtainLeave t i act r).1.mem = s.mem := by
  unfold State.obtainLeave
  dsimp only
  (repeat' split) <;> simp
@[simp] theorem mem_releaseCopy (s0 : State) (x0 : Transfer) : (s0.releaseCopy x0).mem = s0.mem := by
  unfold State.releaseCopy
  dsimp only
  (repeat' split) <;> simp
@[simp] theorem mem_releasePub (s : State) (p : Pub) : (s.releasePub p).mem = s.mem := by rfl
@[simp] theorem mem_modEngine (s : State) (t : Nat) (i : Fin 3) (f : Engine → Engine) : (s.modEngine t i f).mem = s.mem := by rfl
@[simp] theorem mem_bayRelease (s : State) (t : Nat) (c : MxCmd) : (s.bayRelease t c).mem = s.mem := by
  unfold State.bayRelease
  exact mem_foldl (fun s x => mem_modEngine s _ _ _) _ _
@[simp] theorem mem_releaseItem (s : State) (t : Nat) (i : Fin 3) (k : OutKind) : (s.releaseItem t i k).mem = s.mem := by
  unfold State.releaseItem
  dsimp only
  (repeat' split) <;> simp
@[simp] theorem mem_rdInvalidate (s : State) (t tenant : Nat) : (s.rdInvalidate t tenant).mem = s.mem := by rfl
@[simp] theorem mem_acquired (s : State) (t : Nat) (c : Fin 8) (x : Slot) : (s.acquired t c x).mem = s.mem := by
  unfold State.acquired
  dsimp only
  (repeat' split) <;> simp
@[simp] theorem mem_sendMiss (s : State) (t : Nat) (i : Fin 3) (tenant va access : Nat) (eng : Bool) (unit xid : Nat) :
    (s.sendMiss t i tenant va access eng unit xid).mem = s.mem := by rfl
@[simp] theorem mem_modHalfOf (s : State) (t : Nat) (c : Fin 8) (h : Bool) (f : Slot → Slot) : (s.modHalfOf t c h f).mem = s.mem := by rfl
@[simp] theorem mem_modTileChan (s : State) (t ch : Nat) (f : CopyChan → CopyChan) : (s.modTileChan t ch f).mem = s.mem := by rfl
@[simp] theorem mem_setSlot (s : State) (x : Slot) : (s.setSlot x).mem = s.mem := by rfl
@[simp] theorem mem_setHalf (s : State) (h : Half) : (s.setHalf h).mem = s.mem := by rfl
@[simp] theorem mem_modHalf (s : State) (f : Half → Half) : (s.modHalf f).mem = s.mem := by rfl
@[simp] theorem mem_undoLines (s : State) (t : Nat) (i : Fin 3) (lines : List Nat) : (s.undoLines t i lines).1.mem = s.mem := by
  simp [State.undoLines]
@[simp] theorem mem_quarantine (s : State) (f ctl : Nat) : (s.quarantine f ctl).mem = s.mem := by
  unfold State.quarantine
  dsimp only
  (repeat' split) <;> simp
@[simp] theorem mem_recordPoison (s : State) (k : Nat) : (s.recordPoison k).mem = s.mem := by
  unfold State.recordPoison
  (repeat' split) <;> simp
@[simp] theorem mem_readError (s : State) (k : Nat) : (s.readError k).mem = s.mem := by
  unfold State.readError
  dsimp only
  split <;> simp
@[simp] theorem mem_openRow (s : State) (line : Nat) : (s.openRow line).mem = s.mem := by
  unfold State.openRow
  split <;> simp
@[simp] theorem mem_ctlRead (s : State) (line : Nat) : (s.ctlRead line).mem = s.mem := by
  unfold State.ctlRead
  dsimp only
  split <;> simp
@[simp] theorem mem_writeBack (s : State) (x : L2Line) : (s.writeBack x).mem = s.mem := by
  unfold State.writeBack
  split
  · rfl
  · refine (mem_foldl (fun s x => ?_) _ _).trans (by simp)
    split
    · simp
    · split <;> rfl
@[simp] theorem mem_l2Flush (s : State) (line : Nat) : (s.l2Flush line).mem = s.mem := by
  unfold State.l2Flush
  dsimp only
  split <;> simp
@[simp] theorem mem_l2Touch (s : State) (line : Nat) (wr : Bool) : (s.l2Touch line wr).mem = s.mem := by
  unfold State.l2Touch
  dsimp only
  (repeat' split) <;> simp
@[simp] theorem mem_l2Fill (s : State) (line : Nat) : (s.l2Fill line).mem = s.mem := by simp [State.l2Fill]
@[simp] theorem mem_readLine (s : State) (nc : Bool) (line : Nat) : (s.readLine nc line).mem = s.mem := by
  unfold State.readLine
  (repeat' split) <;> simp
@[simp] theorem mem_vRead (s : State) (o : SliceOp) : (s.vRead o).mem = s.mem := by simp [State.vRead]
@[simp] theorem mem_rdFillLines (s : State) (t tenant : Nat) (lines : List Nat) : (s.rdFillLines t tenant lines).mem = s.mem := by rfl
@[simp] theorem mem_postCells (s : State) (vec : Bool) (seq after : Nat) (p : GlobalPath) (cells : List (Nat × Byte × Byte)) :
    (s.postCells vec seq after p cells).mem = s.mem := by
  unfold State.postCells
  dsimp only
  (repeat' split) <;> simp
@[simp] theorem mem_parkVector (s : State) (t : Nat) (c : Fin 8) (pc : Word) (tr : Trap) : (s.parkVector t c pc tr).mem = s.mem := by
  unfold State.parkVector
  dsimp only
  split <;> simp
@[simp] theorem mem_vectorTurn (s : State) (t : Nat) (c : Fin 8) : (s.vectorTurn t c).mem = s.mem := by
  unfold State.vectorTurn
  dsimp only
  split <;> simp
@[simp] theorem mem_sendPort (s : State) (t : Nat) (i : Fin 3) (dst vnet : Nat) (o : RemoteOp) : (s.sendPort t i dst vnet o).mem = s.mem := by rfl
@[simp] theorem mem_clearWin (s : State) (t : Nat) (i : Fin 3) (ea n : Nat) : (s.clearWin t i ea n).mem = s.mem := by rfl
@[simp] theorem mem_poisonSector (s : State) (k : Nat) : (s.poisonSector k).mem = s.mem := by
  unfold State.poisonSector
  (repeat' split) <;> simp
@[simp] theorem mem_poisonSectors (s : State) (ks : List Nat) : (s.poisonSectors ks).mem = s.mem := by simp [State.poisonSectors]
@[simp] theorem mem_performArrival (s : State) (t : Nat) (m : Msg) : (s.performArrival t m).mem = s.mem := by
  unfold State.performArrival
  dsimp only
  (repeat' split) <;> simp
@[simp] theorem mem_mxEnter (s : State) (t : Nat) (i : Fin 3) : (s.mxEnter t i).mem = s.mem := by
  unfold State.mxEnter
  dsimp only
  (repeat' split) <;> simp
@[simp] theorem mem_mxSense (s : State) (tl : Nat) (sh : Fin 3) (c : MxCmd) : (s.mxSense tl sh c).mem = s.mem := by
  unfold State.mxSense
  have h := mem_foldl (f := fun (st : State) x => if x.2.2 = AccKind.load then st.senseWin tl sh x.1 x.2.1 else st)
    (fun s x => by split <;> simp) (s.mxExtents tl sh c.sub c.a c.b) s
  dsimp only
  split <;> simp [h]
@[simp] theorem mem_latchLoad (s : State) (t : Nat) (i : Fin 3) (b : Bool) (tag : Nat × Nat) : (s.latchLoad t i b tag).mem = s.mem := by rfl
@[simp] theorem mem_runLdb (s : State) (tl : Nat) (sh : Fin 3) (c : MxCmd) : (s.runLdb tl sh c).st.mem = s.mem := by rfl
@[simp] theorem mem_latchStep (s : State) (t : Nat) (i : Fin 3) (prev : Option Bool) (tag : Nat × Nat) :
    (s.latchStep t i prev tag).1.mem = s.mem := by
  unfold State.latchStep
  dsimp only
  split <;> simp
@[simp] theorem mem_latchSteps (s : State) (t : Nat) (i : Fin 3) (tenant base n k : Nat) (prev : Option Bool) :
    (s.latchSteps t i tenant base n k prev).1.mem = s.mem := by
  induction n generalizing s k prev with
  | zero => rfl
  | succ n ih => simp [State.latchSteps, ih]
@[simp] theorem mem_engineError (s : State) (t act tenant reason : Nat) (detail : Word) : (s.engineError t act tenant reason detail).mem = s.mem := by
  unfold State.engineError
  dsimp only
  split <;> simp
@[simp] theorem mem_leaveReturn (s : State) (t : Nat) (i : Fin 3) (act tokens : Nat) (fromHold : Bool) :
    (s.leaveReturn t i act tokens fromHold).mem = s.mem := by
  unfold State.leaveReturn
  dsimp only
  (repeat' split) <;> simp
@[simp] theorem mem_mxNotify (s : State) (t : Nat) (i : Fin 3) (c : MxCmd) (flags : Flags) (poison : Bool) :
    (s.mxNotify t i c flags poison).mem = s.mem := by
  unfold State.mxNotify
  split <;> simp
@[simp] theorem mem_bayFinish (s : State) (uid : Nat) : (s.bayFinish uid).mem = s.mem := by
  unfold State.bayFinish
  dsimp only
  (repeat' split) <;> simp
@[simp] theorem mem_mxComplete (s : State) (t : Nat) (i : Fin 3) (c : MxCmd) : (s.mxComplete t i c).mem = s.mem := by
  unfold State.mxComplete
  dsimp only
  split <;> simp
@[simp] theorem mem_burstToken (s : State) (t lender : Nat) (res : Bool) : (s.burstToken t lender res).mem = s.mem := by
  unfold State.burstToken
  dsimp only
  split <;> simp
@[simp] theorem mem_writeLine (s : State) (nc : Bool) (line : Nat) : (s.writeLine nc line).mem = s.mem := by
  unfold State.writeLine
  split <;> simp
@[simp] theorem mem_clearPoison (s : State) (whole : List Nat) : (s.clearPoison whole).mem = s.mem := by rfl
@[simp] theorem mem_bind (s : State) (t : Nat) (it : RunItem) (c : Fin 8) : (s.bind t it c).mem = s.mem := by
  unfold State.bind
  dsimp only
  split <;> simp
@[simp] theorem mem_readLines (s : State) (ls : List (Nat × Bool)) : (s.readLines ls).mem = s.mem := by simp [State.readLines]
@[simp] theorem mem_writeLines (s : State) (ls : List (Nat × Bool)) : (s.writeLines ls).mem = s.mem := by simp [State.writeLines]
@[simp] theorem mem_rdPatch (s : State) (t tenant : Nat) (cells : List (Nat × Byte × Byte)) : (s.rdPatch t tenant cells).mem = s.mem := by rfl
@[simp] theorem mem_dropNc (s : State) (ls : List (Nat × Bool)) : (s.dropNc ls).mem = s.mem := by simp [State.dropNc]
@[simp] theorem mem_answered (s : State) (a : RemoteOp) : (s.answered a).mem = s.mem := by
  unfold State.answered
  dsimp only
  (repeat' split) <;> simp
@[simp] theorem mem_receive (s : State) (t : Nat) (m : Msg) : (s.receive t m).mem = s.mem := by
  unfold State.receive
  split <;> simp
@[simp] theorem mem_dropNet (s : State) (n : Nat) : (s.dropNet n).mem = s.mem := by rfl
@[simp] theorem mem_discard (s : State) (t : Nat) (m : Msg) : (s.discard t m).mem = s.mem := by simp [State.discard]
@[simp] theorem mem_grantEffect (s : State) (r : LvReq) : (s.grantEffect r).mem = s.mem := by
  unfold State.grantEffect
  dsimp only
  split <;> simp
@[simp] theorem mem_setTransfer (s : State) (x : Transfer) : (s.setTransfer x).mem = s.mem := by rfl
@[simp] theorem mem_dropCopyRequest (s : State) (x : Transfer) : (s.dropCopyRequest x).mem = s.mem := by rfl
@[simp] theorem mem_parkTransfer (s : State) (x : Transfer) (t : Trap) : (s.parkTransfer x t).mem = s.mem := by
  unfold State.parkTransfer
  dsimp only
  split <;> simp
@[simp] theorem mem_freezeStreamer (s : State) (x : Transfer) (k : Nat) (a : Word) : (s.freezeStreamer x k a).mem = s.mem := by
  simp [State.freezeStreamer]
@[simp] theorem mem_readSource (s : State) (keys : List Nat) (ps : GlobalPath) : (s.readSource keys ps).mem = s.mem := by
  unfold State.readSource
  dsimp only
  split <;> simp
@[simp] theorem mem_applyDepth (s : State) (x : Transfer) (k : Nat) : (s.applyDepth x k).mem = s.mem := by rfl
@[simp] theorem mem_followOn (s : State) (x : Transfer) : (s.followOn x).mem = s.mem := by
  unfold State.followOn
  dsimp only
  split <;> simp
@[simp] theorem mem_cpNotify (s : State) (x : Transfer) (st : Nat) : (s.cpNotify x st).mem = s.mem := by
  unfold State.cpNotify
  dsimp only
  split <;> simp
@[simp] theorem mem_setSlotT (s : State) (n : Nat) (x : TSlot) : (s.setSlotT n x).mem = s.mem := by rfl
@[simp] theorem mem_freshKeys (s : State) (k n : Nat) : (s.freshKeys k n).mem = s.mem := by rfl
@[simp] theorem mem_senseKeys (s : State) (k n : Nat) : (s.senseKeys k n).mem = s.mem := by simp [State.senseKeys]
@[simp] theorem mem_senseCfg (s : State) (slot : Nat) : (s.senseCfg slot).mem = s.mem := by simp [State.senseCfg]
@[simp] theorem mem_notifyCommit (s : State) (slot : Nat) (h : Rec512) (p : Pub) : (s.notifyCommit slot h p).mem = s.mem := by
  unfold State.notifyCommit
  dsimp only
  split <;> simp
@[simp] theorem mem_readSlot (s0 : State) (slot size : Nat) (pin : Bool) : (s0.readSlot slot size pin).1.mem = s0.mem := by
  unfold State.readSlot
  dsimp only
  split <;> simp
@[simp] theorem mem_injectUnit (s : State) (t : Nat) (i : Fin 3) (m : Msg) : (s.injectUnit t i m).mem = s.mem := by rfl
@[simp] theorem mem_cmbStore (s : State) (e : CmbEntry) (i : Fin 3) : (s.cmbStore e i).mem = s.mem := by
  unfold State.cmbStore
  dsimp only
  split <;> simp
@[simp] theorem mem_postInbox (s : State) (f ty data : Nat) : (s.postInbox f ty data).mem = s.mem := by rfl
@[simp] theorem mem_placeTimerItem (s : State) (t : Nat) (m : Msg) : (s.placeTimerItem t m).mem = s.mem := by rfl
@[simp] theorem mem_offerTimerItem (s : State) (t : Nat) (i : Fin 4) (m : Msg) : (s.offerTimerItem t i m).mem = s.mem := by
  unfold State.offerTimerItem
  split <;> simp
@[simp] theorem mem_controlDue (s : State) (t : Nat) (i : Fin 4) : (s.controlDue t i).mem = s.mem := by
  unfold State.controlDue
  split <;> simp
@[simp] theorem mem_reloadBudgets (s : State) (t : Nat) (i : Fin 4) : (s.reloadBudgets t i).mem = s.mem := by rfl
@[simp] theorem mem_timerEdge (s : State) (t : Nat) (i : Fin 4) : (s.timerEdge t i).mem = s.mem := by
  unfold State.timerEdge
  dsimp only
  (repeat' split) <;> simp
@[simp] theorem mem_wicketNote (s : State) (b t ch : Nat) (ws : List Word) : (s.wicketNote b t ch ws).mem = s.mem := by rfl
@[simp] theorem mem_setPools (s : State) : s.setPools.mem = s.mem := by
  unfold State.setPools
  exact mem_foldl (fun s b => mem_modBay s b _) _ _
@[simp] theorem mem_releaseStreamer (s : State) (k tenant : Nat) (ab : Bool) : (s.releaseStreamer k tenant ab).mem = s.mem := by rfl
@[simp] theorem mem_frzRel (s : State) (w : Word) (ab : Bool) : (s.frzRel w ab).1.mem = s.mem := by
  unfold State.frzRel
  dsimp only
  (repeat' split) <;> simp
@[simp] theorem mem_wearSet (s : State) (a b : Word) : (s.wearSet a b).1.mem = s.mem := by
  unfold State.wearSet
  dsimp only
  (repeat' split) <;> simp
@[simp] theorem mem_noteSaved (s : State) (f : Nat) : (s.noteSaved f).mem = s.mem := by rfl
@[simp] theorem mem_reconfigureBay (s : State) (b : Nat) : (s.reconfigureBay b).mem = s.mem := by
  unfold State.reconfigureBay
  dsimp only
  (repeat' split) <;> simp
@[simp] theorem mem_reconfigure (s : State) : s.reconfigure.mem = s.mem := by
  unfold State.reconfigure
  exact mem_foldl (fun s b => mem_reconfigureBay s b) _ _
@[simp] theorem mem_giveTile (s : State) (t pid : Nat) (d : Rec512) : (s.giveTile t pid d).mem = s.mem := by rfl
@[simp] theorem mem_partMk (s : State) (d : Rec512) : (s.partMk d).1.mem = s.mem := by
  unfold State.partMk
  dsimp only
  (repeat' split) <;> simp
@[simp] theorem mem_partHold (s : State) (pid : Nat) (on : Bool) : (s.partHold pid on).1.mem = s.mem := by
  unfold State.partHold
  (repeat' split) <;> simp
@[simp] theorem mem_partHalt (s : State) (pid : Nat) (on : Bool) : (s.partHalt pid on).1.mem = s.mem := by
  unfold State.partHalt
  (repeat' split) <;> simp
@[simp] theorem mem_partSwap (s : State) (out : Option Nat) (toDram : Bool) (back : Option Nat) (node : Nat) :
    (s.partSwap out toDram back node).1.mem = s.mem := by
  unfold State.partSwap
  extract_lets outSt inSt nd s1 s2
  have h1 : s1.mem = s.mem := by cases out <;> simp [s1]
  have h2 : s2.mem = s.mem := by cases back <;> simp [s2, h1]
  split
  · rfl
  · split
    · rfl
    · split
      · rfl
      · exact h2
@[simp] theorem mem_recheckShutter (s s0 : State) (pid : Nat) (p : Part) (dl : Nat) (units : List ShutterUnit) :
    (s.recheckShutter s0 pid p dl units).mem = s.mem := mem_foldl (fun s x => by split <;> simp) _ _
@[simp] theorem mem_applyUnit (s : State) (p : Part) (b c mode : Nat) : (s.applyUnit p b c mode).mem = s.mem := by
  unfold State.applyUnit
  dsimp only
  split <;> simp
@[simp] theorem mem_shutPost (s : State) (pid dl : Nat) : (s.shutPost pid dl).1.mem = s.mem := by
  unfold State.shutPost
  dsimp only
  (repeat' split) <;> simp
@[simp] theorem mem_stopTimers (s : State) (p : Part) : (s.stopTimers p).mem = s.mem := by
  unfold State.stopTimers
  split <;> simp
@[simp] theorem mem_dropHost (s : State) (p : Msg → Bool) : (s.dropHost p).mem = s.mem := by rfl
@[simp] theorem mem_dropMsgs (s : State) (p : Msg → Bool) : (s.dropMsgs p).mem = s.mem := by rfl
@[simp] theorem mem_abortSaved (s : State) (pid : Nat) (p : Part) : (s.abortSaved pid p).mem = s.mem := by simp [State.abortSaved]
@[simp] theorem mem_killActs (s : State) (p : Act → Bool) (reason : Nat) : (s.killActs p reason).mem = s.mem := by rfl
@[simp] theorem mem_tearLaunch (s : State) (pid : Nat) (p : Part) (l : Launch) (kill : Bool) : (s.tearLaunch pid p l kill).mem = s.mem := by
  unfold State.tearLaunch
  dsimp only
  split <;> simp
@[simp] theorem mem_resetSaved (s : State) (pid : Nat) (p : Part) : (s.resetSaved pid p).mem = s.mem := by simp [State.resetSaved]
@[simp] theorem mem_setQueue (s : State) (f : Nat) (q : Fin 8) (x : HostQ) : (s.setQueue f q x).mem = s.mem := by rfl
@[simp] theorem mem_queueDone (s : State) (f : Nat) (q : Fin 8) : (s.queueDone f q).mem = s.mem := by
  unfold State.queueDone
  dsimp only
  split <;> simp
@[simp] theorem mem_setResult (s : State) (r : Rec512) : (s.setResult r).mem = s.mem := by rfl
@[simp] theorem mem_dropPub (s : State) (p : Pub) : (s.dropPub p).mem = s.mem := by simp [State.dropPub]
@[simp] theorem mem_configureSlot (s : State) (slot : Nat) (c : Rec512) : (s.configureSlot slot c).mem = s.mem := by
  unfold State.configureSlot
  dsimp only
  (repeat' split) <;> simp
@[simp] theorem mem_mbSlot (s : State) : s.mbSlot.1.mem = s.mem := by
  unfold State.mbSlot
  dsimp only
  split
  · rfl
  · simp
@[simp] theorem mem_measure (s : State) (i : Fin 8) (x : List Byte) : (s.measure i x).mem = s.mem := by rfl
@[simp] theorem mem_measureOp (s : State) : s.measureOp.mem = s.mem := by rfl
@[simp] theorem mem_mbArea (s : State) : s.mbArea.1.mem = s.mem := by
  unfold State.mbArea
  dsimp only
  split
  · rfl
  · split
    · rfl
    · dsimp only
      split <;> rfl
@[simp] theorem mem_mbCap (s : State) : s.mbCap.1.mem = s.mem := by
  unfold State.mbCap
  simp only [apply_ite Prod.fst, apply_ite State.mem, mem_setPools, modSys_mem, ite_self]
@[simp] theorem mem_mbPeer (s : State) : s.mbPeer.1.mem = s.mem := by
  unfold State.mbPeer
  dsimp only
  (repeat' split) <;> simp
@[simp] theorem mem_mbLife (s : State) : s.mbLife.1.mem = s.mem := by
  unfold State.mbLife
  simp only [apply_ite Prod.fst, apply_ite State.mem, mem_setResult, ite_self]
@[simp] theorem mem_senseSaved (s : State) (t : Nat) (i : Fin 3) : (s.senseSaved t i).mem = s.mem := by simp [State.senseSaved]
@[simp] theorem mem_dropTokens (s : State) (t : Nat) (i : Fin 3) : (s.dropTokens t i).mem = s.mem := by rfl
@[simp] theorem mem_readHalves (s : State) (p : Part) (m : TileImage) : (s.readHalves p m).mem = s.mem := by
  unfold State.readHalves
  split <;> simp
@[simp] theorem mem_rdForget (s : State) (tenant : Nat) : (s.rdForget tenant).mem = s.mem := by rfl
@[simp] theorem mem_setFrame (s : State) (f v : Nat) : (s.setFrame f v).mem = s.mem := by rfl
@[simp] theorem mem_setMove (s : State) (n : Nat) (m : Move) : (s.setMove n m).mem = s.mem := by rfl
@[simp] theorem mem_dropMove (s : State) (n : Nat) : (s.dropMove n).mem = s.mem := by rfl
@[simp] theorem mem_setFrames (s : State) (tenant pa size st : Nat) :
    (s.setFrames tenant pa size st).mem = s.mem := mem_foldl (fun s x => by dsimp only; split <;> simp) _ _
@[simp] theorem mem_releaseQuarantine (s : State) : s.releaseQuarantine.mem = s.mem := by rfl
@[simp] theorem mem_moveFreeze (s : State) (n : Nat) (m : Move) : (s.moveFreeze n m).mem = s.mem := by rfl
@[simp] theorem mem_resumeChan (s : State) (t ch : Nat) : (s.resumeChan t ch).mem = s.mem := by rfl
@[simp] theorem mem_resumeMoved (s : State) (m : Move) (t : Nat) : (s.resumeMoved m t).mem = s.mem := by
  unfold State.resumeMoved
  refine (mem_foldl (fun s c => ?_) _ _).trans (mem_foldl (fun s c => ?_) _ _)
  · split
    · rfl
    · split <;> simp
  · split
    · rfl
    · dsimp only
      split <;> simp
@[simp] theorem mem_wake (s : State) : s.wake.mem = s.mem := by rfl
@[simp] theorem mem_afterEvent (s : State) : s.afterEvent.mem = s.mem := by rfl
@[simp] theorem mem_at (s : State) (t : Nat) (c : Fin 8) : (s.at t c).mem = s.mem := by rfl
@[simp] theorem mem_issueTurn (s : State) (t : Nat) (c : Fin 8) (d : Int × Int × Bool × Bool) : (s.issueTurn t c d).mem = s.mem := by rfl
@[simp] theorem mem_strike (s : State) : s.strike.mem = s.mem := by
  unfold State.strike
  dsimp only
  split <;> simp
@[simp] theorem mem_chargeSeizures (s : State) : s.chargeSeizures.mem = s.mem := by rfl
@[simp] theorem mem_modAct (s : State) (f : Act → Act) : (s.modAct f).mem = s.mem := by rfl
@[simp] theorem mem_commitUndo (s : State) : (commitUndo s).mem = s.mem := by rfl
@[simp] theorem mem_releaseAll (s : State) : s.releaseAll.mem = s.mem := by rfl
@[simp] theorem mem_markBay (s : State) : s.markBay.mem = s.mem := by simp [State.markBay]
@[simp] theorem mem_toBay (s : State) (tgt : Nat) (o : RemoteOp) (id : Nat) (load : Bool) : (s.toBay tgt o id load).mem = s.mem := by
  simp [State.toBay]
@[simp] theorem mem_rdTouch (s : State) (keys : List Nat) : (s.rdTouch keys).mem = s.mem := by rfl
@[simp] theorem mem_posts (s : State) (p : GlobalPath) (bs : List Byte) : (s.posts p bs).mem = s.mem := by simp [State.posts]
@[simp] theorem mem_csrWrite (s : State) (n : Nat) (a v : Word) : (s.csrWrite n a v).mem = s.mem := by
  unfold State.csrWrite
  (repeat' split) <;> simp
@[simp] theorem mem_lateAnswer (s : State) (t : Nat) (w : Word) : (s.lateAnswer t w).mem = s.mem := by
  unfold State.lateAnswer
  split <;> simp
@[simp] theorem mem_wakeMiss (s : State) (t : Nat) (w : Word) : (s.wakeMiss t w).mem = s.mem := by
  unfold State.wakeMiss
  dsimp only
  (repeat' split) <;> simp
@[simp] theorem mem_tlbWr (s : State) (a b : Word) : (s.tlbWr a b).1.mem = s.mem := by
  unfold State.tlbWr
  dsimp only
  (repeat' split) <;> simp
@[simp] theorem mem_refuseChan (s : State) (t ch st : Nat) : (s.refuseChan t ch st).mem = s.mem := by
  unfold State.refuseChan
  split <;> simp
@[simp] theorem mem_refuseCtx (s : State) (t : Nat) (c : Fin 8) (h perm : Bool) : (s.refuseCtx t c h perm).mem = s.mem := by
  unfold State.refuseCtx
  dsimp only
  split <;> simp
@[simp] theorem mem_tlbNak (s : State) (a b : Word) : (s.tlbNak a b).1.mem = s.mem := by
  unfold State.tlbNak
  dsimp only
  (repeat' split) <;> simp
@[simp] theorem mem_bayTlbRemove (s : State) (p : TlbEntry → Bool) : (s.bayTlbRemove p).mem = s.mem := by simp [State.bayTlbRemove]
@[simp] theorem mem_tlbInv (s : State) (a : Word) : (s.tlbInv a).1.mem = s.mem := by
  unfold State.tlbInv
  (repeat' split) <;> simp
@[simp] theorem mem_tlbInvt (s : State) (a : Word) : (s.tlbInvt a).1.mem = s.mem := by
  unfold State.tlbInvt
  split <;> simp
@[simp] theorem mem_refuseHost (s : State) (fn slot : Nat) : (s.refuseHost fn slot).mem = s.mem := by simp [State.refuseHost]
@[simp] theorem mem_hostPublish (s0 : State) (fn : Nat) (v : Word) : (s0.hostPublish fn v).mem = s0.mem := by
  unfold State.hostPublish
  dsimp only
  (repeat' split) <;> simp
@[simp] theorem mem_hostGet (s0 : State) (fn : Nat) (v : Word) : (s0.hostGet fn v).mem = s0.mem := by
  unfold State.hostGet
  dsimp only
  (repeat' split) <;> simp
@[simp] theorem mem_freezeFn (s : State) (fn a : Nat) : (s.freezeFn fn a).mem = s.mem := by simp [State.freezeFn]
@[simp] theorem mem_postedWrite (s : State) (fn : Fin 16) (a : Nat) (bs : List Byte) : (s.postedWrite fn a bs).mem = s.mem := by
  unfold State.postedWrite
  dsimp only
  (repeat' split) <;> simp
@[simp] theorem mem_eqPopHost (s : State) (fn : Fin 16) : (s.eqPopHost fn).mem = s.mem := by
  unfold State.eqPopHost
  dsimp only
  (repeat' split) <;> simp
@[simp] theorem mem_setReq (s : State) (pid : Nat) (q : ReqTable) : (setReq s pid q).mem = s.mem := by simp [setReq]
@[simp] theorem mem_mailboxDoor (s : State) : s.mailboxDoor.mem = s.mem := by
  unfold State.mailboxDoor
  dsimp only
  (repeat' split) <;> simp
@[simp] theorem mem_writePf (s : State) (off : Nat) (v : Word) : (s.writePf off v).mem = s.mem := by
  unfold State.writePf
  refine mem_ite (mem_ite rfl (modSys_mem _ _)) (mem_ite (mem_mailboxDoor s) (mem_ite ?_ (mem_ite ?_ rfl)))
  · exact modSys_mem _ _
  · exact modSys_mem _ _
@[simp] theorem mem_complete (s : State) (fn : Nat) (v : Option Word) : (s.complete fn v).mem = s.mem := by rfl
@[simp] theorem mem_registerRead (s : State) (fn : Fin 16) (off n : Nat) : (s.registerRead fn off n).mem = s.mem := by
  unfold State.registerRead
  (repeat' split) <;> simp
@[simp] theorem mem_makeReflex (s : State) (tenant grant : Nat) : (s.makeReflex tenant grant).mem = s.mem := by
  unfold State.makeReflex
  dsimp only
  rw [mem_foldl fun s b => mem_modTile s _ _, modSys_mem, mem_foldl fun _ _ => mem_giveTile _ _ _ _]
@[simp] theorem mem_applyTimer (s : State) (x : List Nat) : (s.applyTimer x).mem = s.mem := by
  unfold State.applyTimer
  dsimp only
  (repeat' split) <;> simp
@[simp] theorem mem_applyMsg (s : State) (q : QueuedMsg) : (s.applyMsg q).mem = s.mem := by
  unfold State.applyMsg
  dsimp only
  (repeat' split) <;> simp
@[simp] theorem mem_fetchFault (s : State) : s.fetchFault.mem = s.mem := by rfl

end Sys2Proof.Machine
end

section
/-! The canonical form of the memory under the operations that write it. -/

namespace Sys2Proof.Machine
open Sys2Proof

variable {s : State}

/-- The canonical form of a memory (log 2), as a predicate that `simp` leaves whole. -/
def Canonical (m : Memory) : Prop := Memory.wf m
theorem safe_iff : s.Safe ↔ Canonical s.mem := Iff.rfl
@[simp] theorem canonical_write {m : Memory} (h : Canonical m) (a : Nat) (bs : List Byte) : Canonical (m.write a bs) := Memory.wf_write h a bs
@[simp] theorem canonical_writeMasked {m : Memory} (h : Canonical m) (cs : List (Nat × Byte × Byte)) : Canonical (m.writeMasked cs) :=
  Memory.wf_writeMasked h cs
@[simp] theorem canonical_filter {m : Memory} (h : Canonical m) (p : Host.Cell → Bool) : Canonical (m.filter p) := Memory.wf_filter h p
@[simp] theorem canonical_setAll {α : Type} {m : Memory} (h : Canonical m) (l : List α) (k : α → Nat) (v : α → Byte) :
    Canonical (l.foldl (fun (m : Memory) x => m.set (k x) (v x)) m) := Memory.wf_foldl h l _ fun _ _ hm => Memory.wf_set hm _ _

/-! ### How the operations are put together -/

theorem canonical_of_mem {u : State} (e : u.mem = s.mem) (h : Canonical s.mem) : Canonical u.mem := by rwa [e]
theorem canonical_ite {p : Prop} [Decidable p] {t u : State} (h : p → Canonical t.mem) (k : ¬ p → Canonical u.mem) :
    Canonical (if p then t else u).mem := by
  split
  · exact h ‹_›
  · exact k ‹_›
theorem canonical_fold {α : Type} {f : State → α → State} (hf : ∀ s x, Canonical s.mem → Canonical (f s x).mem) (l : List α)
    (h : Canonical s.mem) : Canonical (l.foldl f s).mem := by
  induction l generalizing s with
  | nil => exact h
  | cons x l ih => exact ih (hf s x h)

@[simp] theorem canonical_writeWin (h : Canonical s.mem) (t : Nat) (i : Fin 3) (ea : Nat) (bs : List Byte) :
    Canonical (s.writeWin t i ea bs).mem := wf_writeWin h t i ea bs
theorem canonical_foldr {α : Type} {f : α → State → State} (hf : ∀ x s, Canonical s.mem → Canonical (f x s).mem) (l : List α)
    (h : Canonical s.mem) : Canonical (l.foldr f s).mem := by
  induction l with
  | nil => exact h
  | cons x l ih => exact hf x _ ih

/-! ### Aborts, ports and the slices -/

@[simp] theorem canonical_undoOne (h : Canonical s.mem) (u : UndoLine) : Canonical (s.undoOne u).mem := by
  simp only [State.undoOne, mem_mark]
  exact canonical_write h _ _
@[simp] theorem canonical_moveDeadAt (h : Canonical s.mem) (t : Nat) (w : BitVec 11) (m : Msg) (reason cause : Nat) (faddr xpc : Word) :
    Canonical (s.moveDeadAt t w m reason cause faddr xpc).mem := by
  unfold State.moveDeadAt
  dsimp only
  split
  · simpa
  · simpa using canonical_write h _ _
@[simp] theorem canonical_moveDead (h : Canonical s.mem) (t : Nat) (i : Fin 3) (m : Msg) (reason cause : Nat) (faddr xpc : Word) :
    Canonical (s.moveDead t i m reason cause faddr xpc).mem := canonical_moveDeadAt h _ _ _ _ _ _ _
@[simp] theorem canonical_moveDeadAway (h : Canonical s.mem) (t : Nat) (m : Msg) (reason : Nat) : Canonical (s.moveDeadAway t m reason).mem :=
  canonical_moveDeadAt h _ _ _ _ _ _ _
@[simp] theorem canonical_moveDeadLast (h : Canonical s.mem) (t : Nat) (i : Fin 3) (m : Msg) (reason : Nat) :
    Canonical (s.moveDeadLast t i m reason).mem := canonical_moveDead h _ _ _ _ _ _ _
@[simp] theorem canonical_abortEnd (h : Canonical s.mem) (t : Nat) (c : Fin 8) (tr : Trap) : Canonical (s.abortEnd t c tr).mem := by
  have hu := canonical_fold (fun s u h => canonical_undoOne h u) (s.slotAt t c).act.undo h
  unfold State.abortEnd
  dsimp only
  rw [mem_endAct]
  split <;> simp [hu]
@[simp] theorem canonical_landWin (h : Canonical s.mem) (t : Nat) (i : Fin 3) (ea : Nat) (bs : List Byte) (bad : List Nat) :
    Canonical (s.landWin t i ea bs bad).mem := by
  simpa [State.landWin] using canonical_writeWin h t i ea bs
@[simp] theorem canonical_portAccess (h : Canonical s.mem) (t : Nat) (o : RemoteOp) : Canonical (s.portAccess t o).mem := by
  cases o with
  | load => simpa [State.portAccess]
  | store tl c sh id addr bs => simpa [State.portAccess] using canonical_writeWin h t sh addr bs
  | amo =>
    simp only [State.portAccess]
    split
    · simpa
    · simpa using canonical_writeWin (by simpa) _ _ _ _
  | answer => exact h
@[simp] theorem canonical_performPut (h : Canonical s.mem) (t : Nat) (m : Msg) : Canonical (s.performPut t m).mem := by
  unfold State.performPut
  dsimp only
  split <;> simp [h]
@[simp] theorem canonical_writeCells (h : Canonical s.mem) (cells : List (Nat × Byte × Byte)) : Canonical (s.writeCells cells).mem := by
  rw [mem_writeCells]
  exact Memory.wf_writeMasked h _
@[simp] theorem canonical_performAccess (h : Canonical s.mem) (o : SliceOp) : Canonical (s.performAccess o).mem := by
  unfold State.performAccess
  dsimp only
  split
  · simpa
  · simpa using canonical_writeCells (by simpa) _
  · split
    · simpa
    · simpa using canonical_writeCells (by simpa) _
  · exact canonical_writeCells (by simpa) _
  · exact h
@[simp] theorem canonical_writeThrough (h : Canonical s.mem) (cells : List (Nat × Byte × Byte)) : Canonical (s.writeThrough cells).mem :=
  canonical_writeCells (by simpa) _
@[simp] theorem canonical_landCells (h : Canonical s.mem) (cov : NMap (Nat × Bool)) (ps : GlobalPath) (cells : List (Nat × Byte × Bool)) :
    Canonical (s.landCells cov ps cells).1.mem := by
  unfold State.landCells
  simp only [mem_mark, mem_poisonSectors, mem_clearPoison, mem_sense]
  exact Memory.wf_foldl (by simpa) _ _ fun m x hm => Memory.wf_set hm _ _
@[simp] theorem canonical_writeRing (h : Canonical s.mem) (f : Nat) (m : Msg) : Canonical (s.writeRing f m).mem := by
  rw [mem_writeRing]
  exact canonical_write h _ _

/-! ### Messages -/

@[simp] theorem canonical_arrivePort (h : Canonical s.mem) (t : Nat) (m : Msg) : Canonical (s.arrivePort t m).mem := by
  unfold State.arrivePort
  split
  · split <;> simp [h]
  · simpa
@[simp] theorem canonical_arriveImage (h : Canonical s.mem) (t : Nat) (m : Msg) : Canonical (s.arriveImage t m).mem := by
  unfold State.arriveImage
  split
  · exact h
  · split
    · exact canonical_moveDeadAway h _ _ _
    · dsimp only
      split <;> simp [h]
@[simp] theorem canonical_arrive (h : Canonical s.mem) (t : Nat) (m : Msg) : Canonical (s.arrive t m).mem := by
  unfold State.arrive
  dsimp only
  split
  · simpa
  · split <;> simp [h]
  · simpa
  · simpa
@[simp] theorem canonical_hostMessage (h : Canonical s.mem) (m : Msg) : Canonical (s.hostMessage m).mem := by
  unfold State.hostMessage
  dsimp only
  split
  · exact canonical_writeRing h _ _
  · split <;> simpa

/-! ### The matrix engine -/

@[simp] theorem canonical_accSet (h : Canonical s.mem) (t : Nat) (i : Fin 3) (r j v : Nat) : Canonical (s.accSet t i r j v).mem := by
  simp only [State.accSet, mem_mark]
  exact canonical_write h _ _
theorem canonical_accRow (h : Canonical s.mem) (t : Nat) (i : Fin 3) (r : Nat) (f : State → Nat → Nat) (l : List Nat) :
    Canonical (l.foldl (fun (st : State) j => st.accSet t i r j (f st j)) s).mem := canonical_fold (fun _ _ k => canonical_accSet k _ _ _ _ _) l h
theorem canonical_fst {α β : Type} {f : State × β → α → State × β} (hf : ∀ a x, Canonical a.1.mem → Canonical (f a x).1.mem) (l : List α)
    {a : State × β} (h : Canonical a.1.mem) : Canonical (l.foldl f a).1.mem := by
  induction l generalizing a with
  | nil => exact h
  | cons x l ih => exact ih (hf a x h)
@[simp] theorem canonical_runMma (h : Canonical s.mem) (t : Nat) (i : Fin 3) (c : MxCmd) : Canonical (s.runMma t i c).st.mem := by
  unfold State.runMma
  dsimp only
  rw [mem_modEngine]
  exact canonical_fst (fun a x k => canonical_fst (fun a y k => canonical_accSet k _ _ _ _ _) _ k) _ (by simpa)
@[simp] theorem canonical_runZero (h : Canonical s.mem) (t : Nat) (i : Fin 3) (c : MxCmd) : Canonical (s.runZero t i c).st.mem := by
  unfold State.runZero
  dsimp only
  exact canonical_fold (fun s r k => by simpa using canonical_accRow k _ _ _ _ _) _ h
@[simp] theorem canonical_runLdacc (h : Canonical s.mem) (t : Nat) (i : Fin 3) (c : MxCmd) : Canonical (s.runLdacc t i c).st.mem := by
  unfold State.runLdacc
  dsimp only
  exact canonical_fold (fun u r k => by simpa using canonical_accRow k _ _ _ _ _) _ h
theorem mem_logEngine {u : State} {t : Nat} {i : Fin 3} {act ea n : Nat} (e : s.logEngine t i act ea n = some u) : u.mem = s.mem := by
  unfold State.logEngine at e
  dsimp only at e
  repeat' split at e
  · cases e; rfl
  · cases e; rfl
  · cases e
  · cases e; simp
/-- What a beat of a read-out stores. -/
theorem canonical_stores (h : Canonical s.mem) (t : Nat) (i : Fin 3) (a : Option (List Byte) × Nat → Nat) (l : List (Option (List Byte) × Nat)) :
    Canonical (l.foldl (fun (st : State) x => match x.1 with
      | some bs => st.writeWin t i (a x) bs
      | none => st) s).mem := by
  refine canonical_fold (fun v x k => ?_) l h
  split
  · exact canonical_writeWin k _ _ _ _
  · exact k
@[simp] theorem canonical_rdBeat (h : Canonical s.mem) (t : Nat) (i : Fin 3) (act ea : Nat) (es : List (Option (List Byte))) (n : Nat)
    (bad : Bool) : Canonical (s.rdBeat t i act ea es n bad).1.mem := by
  unfold State.rdBeat
  split
  · exact h
  · next u hu =>
    extract_lets s2 whole s3
    have h2 : Canonical s2.mem := canonical_stores (canonical_of_mem (mem_logEngine hu) h) t i (fun x => ea + x.2 * n) es.zipIdx
    have h3 : Canonical s3.mem := canonical_ite (fun _ => by simpa) fun _ => h2
    exact canonical_ite (fun _ => by simpa) fun _ => h3
@[simp] theorem canonical_rdRow {r : MxResult} (h : Canonical r.st.mem) (t : Nat) (i : Fin 3) (c : MxCmd) (n : Nat) :
    Canonical (State.rdRow r t i c n).st.mem := by
  unfold State.rdRow
  dsimp only
  refine canonical_fst (fun a x k => ?_) _ ?_
  · exact canonical_rdBeat k _ _ _ _ _ _ _
  · simpa
theorem canonical_rdRows {r : MxResult} (h : Canonical r.st.mem) (t : Nat) (i : Fin 3) (c : MxCmd) (l : List Nat) :
    Canonical (l.foldl (fun r n => State.rdRow r t i c n) r).st.mem := by
  induction l generalizing r with
  | nil => exact h
  | cons n l ih => exact ih (canonical_rdRow h t i c n)
@[simp] theorem canonical_runRd (h : Canonical s.mem) (t : Nat) (i : Fin 3) (c : MxCmd) : Canonical (s.runRd t i c).st.mem := by
  have hr := canonical_rdRows (r := { st := s }) h t i c (List.range (shM c.b))
  unfold State.runRd
  dsimp only
  split
  · exact canonical_fold (fun u r k => by simpa using canonical_accRow k _ _ _ _ _) _ hr
  · exact hr
@[simp] theorem canonical_runMx (h : Canonical s.mem) (t : Nat) (i : Fin 3) (c : MxCmd) : Canonical (s.runMx t i c).st.mem := by
  unfold State.runMx
  dsimp only
  split <;> simp [h]
@[simp] theorem canonical_mxStart (h : Canonical s.mem) (t : Nat) (i : Fin 3) (c : MxCmd) : Canonical (s.mxStart t i c).mem := by
  unfold State.mxStart
  dsimp only
  split <;> simp [h]
@[simp] theorem canonical_bayFold (h : Canonical s.mem) (t : Nat) (c : MxCmd) : Canonical (s.bayFold t c).mem := by
  unfold State.bayFold
  exact canonical_fold (fun u r k => by simpa using canonical_accRow k _ _ _ _ _) _ h

/-! ### Transfers and the backing store -/

@[simp] theorem canonical_backB (h : Canonical s.mem) (t : Nat) (i : Fin 3) (o : Nat) (cells : List (Nat × Byte × Bool)) :
    Canonical (s.backB t i o cells).mem := by
  unfold State.backB
  split
  · exact h
  · exact canonical_landCells h _ _ _
@[simp] theorem canonical_refillStep (h : Canonical s.mem) (t : Nat) (i : Fin 3) (o : Nat) : Canonical (s.refillStep t i o).mem := by
  unfold State.refillStep
  dsimp only
  rw [mem_modTile]
  split
  · exact canonical_landCells (by simpa) _ _ _
  · exact h
theorem canonical_landBeat {u : State} {x y : Transfer} {p : Nat} {sk dk : List Nat} {ps : GlobalPath} (h : Canonical s.mem)
    (e : s.landBeat x p sk dk ps = some (u, y)) : Canonical u.mem := by
  unfold State.landBeat at e
  dsimp only at e
  obtain ⟨v, hv, e⟩ := Option.map_eq_some_iff.1 e
  have hc : Canonical v.mem := by
    split at hv
    · exact canonical_of_mem (mem_logEngine hv) h
    · cases hv; exact h
  cases e
  split <;> simp [hc]
@[simp] theorem canonical_landBeats (h : Canonical s.mem) (x : Transfer) (p : Nat) (sk dk : List Nat) (ps : GlobalPath) (n : Nat) :
    Canonical (s.landBeats x p sk dk ps n).1.mem := by
  induction n generalizing s x p sk dk with
  | zero => exact h
  | succ n ih =>
    unfold State.landBeats
    split
    · exact h
    · split
      · exact h
      · next r hr => exact ih (canonical_landBeat h hr) _ _ _ _
@[simp] theorem canonical_servePiece (h : Canonical s.mem) (x : Transfer) (p n : Nat) : Canonical (s.servePiece x p n).mem := by
  unfold State.servePiece
  extract_lets k bad
  clear_value k
  have hb : ∀ t, Canonical (bad t).mem := fun t => canonical_ite (fun _ => by simpa) fun _ => by simpa
  split
  · simpa
  · split
    · simpa
    · split
      · exact hb _
      · split
        · exact hb _
        · dsimp only
          rw [mem_setTransfer]
          split <;> simp [h]
@[simp] theorem canonical_unspecify (h : Canonical s.mem) (x : Transfer) : Canonical (s.unspecify x).mem := by
  unfold State.unspecify
  split
  · exact canonical_setAll h _ _ _
  · exact h
@[simp] theorem canonical_endTransfer (h : Canonical s.mem) (x : Transfer) (n : Nat) (b : Bool) : Canonical (s.endTransfer x n b).mem := by
  unfold State.endTransfer
  dsimp only
  split
  · simpa using canonical_unspecify h x
  · simp only [mem_cpNotify]
    split <;> split <;> simpa using canonical_unspecify h x

/-! ### The request table -/

@[simp] theorem canonical_deliverMap (h : Canonical s.mem) (p : Part) (bs : List Byte) (a l : Nat) : Canonical (s.deliverMap p bs a l).mem := by
  unfold State.deliverMap
  dsimp only
  split <;> simp [h]
@[simp] theorem canonical_batchStep (h : Canonical s.mem) (pid : Nat) (w : Word) : Canonical (s.batchStep pid w).mem := by
  unfold State.batchStep
  split
  · exact h
  · dsimp only
    exact canonical_fold (fun u k hu => by simpa) _ (canonical_fold (fun u k hu => canonical_deliverMap hu _ _ _ _) _ (by simpa))
@[simp] theorem canonical_maskBeat (h : Canonical s.mem) (pid : Nat) (p : Part) (v : BitVec 512) (m : Nat × Nat) :
    Canonical (s.maskBeat pid p v m).mem := by
  unfold State.maskBeat
  dsimp only
  split
  · simpa
  · split <;> simp [h]
@[simp] theorem canonical_resetNotice (h : Canonical s.mem) (pid tenant : Nat) : Canonical (s.resetNotice pid tenant).mem := by
  unfold State.resetNotice
  split
  · exact h
  · dsimp only
    split
    · simpa
    · exact canonical_fold (fun u m hu => canonical_maskBeat hu _ _ _ _) _ (by simpa)

/-! ### The Wicket and the reserve -/

@[simp] theorem canonical_wicketGo (h : Canonical s.mem) (b : Nat) (q : SeizeReq) (t : Nat) : Canonical (s.wicketGo b q t).mem :=
  canonical_arrive (by simpa) _ _
@[simp] theorem canonical_dropWicketItems (h : Canonical s.mem) (t : Nat) : Canonical (s.dropWicketItems t).mem :=
  canonical_fold (fun u m hu => canonical_moveDeadLast hu _ _ _ _) _ (by simpa)
@[simp] theorem canonical_zeroRange (h : Canonical s.mem) (k n : Nat) : Canonical (s.zeroRange k n).mem := canonical_filter h _
@[simp] theorem canonical_clearReserve (h : Canonical s.mem) (t : Nat) : Canonical (s.clearReserve t).mem := by
  unfold State.clearReserve
  dsimp only
  rw [mem_modTile]
  refine canonical_zeroRange (canonical_zeroRange ?_ _ _) _ _
  exact canonical_ite (fun _ => by simp [h]) fun _ => by simp [h]
@[simp] theorem canonical_disarmBay (h : Canonical s.mem) (b : Nat) : Canonical (s.disarmBay b).mem := by
  unfold State.disarmBay
  rw [mem_setPools, mem_modBay]
  exact canonical_fold (fun u i hu => canonical_clearReserve hu _) _ h
@[simp] theorem canonical_unfreeze (h : Canonical s.mem) (b : Nat) : Canonical (s.unfreeze b).mem := by
  unfold State.unfreeze
  extract_lets s1 s2 y s3
  have h1 : s1.mem = s.mem := mem_foldl (fun u i => mem_modTile u _ _) _ _
  have h3 : Canonical s3.mem := by
    refine canonical_of_mem (s := s) ?_ h
    unfold s3
    split <;> simp [s2, h1]
  exact canonical_ite (fun _ => canonical_disarmBay h3 b) fun _ => h3
@[simp] theorem canonical_armTile (h : Canonical s.mem) (t pid : Nat) (l : Launch) : Canonical (s.armTile t pid l).mem := by
  unfold State.armTile
  dsimp only
  rw [mem_modTile]
  refine canonical_write (canonical_write ?_ _ _) _ _
  exact canonical_fold (fun u w hu => canonical_write hu _ _) _ (canonical_clearReserve h t)
@[simp] theorem canonical_armBay (h : Canonical s.mem) (b : Nat) (r : Rec512) : Canonical (s.armBay b r).mem := by
  unfold State.armBay
  split
  · exact h
  · dsimp only
    rw [mem_setPools, mem_modBay]
    exact canonical_fold (fun u i hu => canonical_armTile hu _ _ _) _ h

/-! ### Partitions, saves and restores -/

@[simp] theorem canonical_dropKeys (h : Canonical s.mem) (p : Nat → Bool) : Canonical (s.dropKeys p).mem := canonical_filter h _
@[simp] theorem canonical_clearTile (h : Canonical s.mem) (t : Nat) (i : Fin 3) : Canonical (s.clearTile t i).mem := canonical_filter h _
@[simp] theorem canonical_takeTile (h : Canonical s.mem) (t : Nat) (i : Fin 3) : Canonical (s.takeTile t i).mem := canonical_filter h _
@[simp] theorem canonical_partFree (h : Canonical s.mem) (pid : Nat) : Canonical (s.partFree pid).1.mem := by
  unfold State.partFree
  split
  · exact h
  · split
    · exact h
    · split
      · exact h
      · simp only [mem_noteSaved, mem_reconfigure]
        exact canonical_fold (fun u t hu => canonical_takeTile hu _ _) _ h
@[simp] theorem canonical_storeHalves (h : Canonical s.mem) (p : Part) (m : TileImage) : Canonical (s.storeHalves p m).mem :=
  canonical_landCells h _ _ _
@[simp] theorem canonical_savePart (h : Canonical s.mem) (pid : Nat) (p : Part) (shadow : Bool) (st : Nat) :
    Canonical (s.savePart pid p shadow st).mem := by
  unfold State.savePart
  extract_lets s0 imgs xs s1 s2 s3 s4
  have h1 : Canonical s1.mem :=
    canonical_of_mem ((mem_foldl (fun u t => mem_dropTokens u _ _) _ _).trans (mem_foldl (fun u t => mem_senseSaved u _ _) _ _)) h
  have h3 : Canonical s3.mem := canonical_fold (fun u t hu => canonical_takeTile hu _ _) _ h1
  have h4 : Canonical s4.mem := canonical_ite (fun _ => h3) fun _ => canonical_fold (fun u m hu => canonical_storeHalves hu _ _) _ h3
  simpa
@[simp] theorem canonical_writeCellsAt (h : Canonical s.mem) (base : Nat) (cs : List Host.Cell) : Canonical (s.writeCellsAt base cs).mem :=
  canonical_setAll h cs _ _
@[simp] theorem canonical_restoreTile (h : Canonical s.mem) (q : Part) (pid : Nat) (f : Nat → Nat) (hs : List (List Byte)) (m : TileImage) :
    Canonical (s.restoreTile q pid f hs m).mem := by
  unfold State.restoreTile
  split
  · exact h
  · next t _ =>
    extract_lets i s1 base s2 s3 x sp eng ks burst y s4 reqs s5
    have h3 : Canonical s3.mem :=
      canonical_write (canonical_writeCellsAt (canonical_writeCellsAt (canonical_clearTile (by simpa) _ _) _ _) _ _) _ _
    exact canonical_foldr (fun k u hu => by simpa) _ h3
theorem canonical_restoreTiles (h : Canonical s.mem) (p q : Part) (pid : Nat) (f : Nat → Nat) (ms : List TileImage) :
    Canonical (ms.foldl (fun (a : State) m => (a.readHalves p m).restoreTile q pid f (a.halfImages p m) m) s).mem :=
  canonical_fold (fun _ _ hu => canonical_restoreTile (by simpa) _ _ _ _ _) _ h
@[simp] theorem canonical_restorePart (h : Canonical s.mem) (pid : Nat) (p : Part) (node : Nat) : Canonical (s.restorePart pid p node).mem := by
  unfold State.restorePart
  extract_lets q f members q1 xs s1 s2 arm s3
  have h0 : Canonical ({ s with parts := s.parts.set pid q1 } : State).mem := h
  have h1 : Canonical s1.mem := canonical_restoreTiles h0 _ _ _ _ _
  have h2 : Canonical s2.mem := canonical_of_mem (mem_foldl (fun u x => mem_modBay u _ _) _ _) h1
  exact canonical_of_mem (mem_noteSaved s3 _) h2

/-! ### Functions, queues and launches -/

@[simp] theorem canonical_resetBegin (h : Canonical s.mem) (f : Nat) : Canonical (s.resetBegin f).mem := by
  unfold State.resetBegin
  dsimp only
  refine canonical_fold (fun u p hu => canonical_resetNotice hu _ _) _ (canonical_of_mem (s := s) ?_ h)
  simp
@[simp] theorem canonical_writeEntry (h : Canonical s.mem) (f : Nat) (q : HostQ) (i num status : Nat) :
    Canonical (s.writeEntry f q i num status).mem := canonical_write h _ _
@[simp] theorem canonical_cancelWaiter (h : Canonical s.mem) (f : Nat) (nums : List (Nat × Nat)) (q : Fin 8) (i : Nat) :
    Canonical (s.cancelWaiter f nums q i).mem := canonical_ite (fun _ => by simpa using canonical_writeEntry h _ _ _ _ _) fun _ => h
@[simp] theorem canonical_teardown (h : Canonical s.mem) (f : Nat) (q : Fin 8) (kill : Bool) : Canonical (s.teardown f q kill).mem := by
  unfold State.teardown
  extract_lets x s1 s2 mine s3 nums s4
  have h2 : Canonical s2.mem := canonical_fold (fun u i hu => canonical_writeEntry hu _ _ _ _ _) _ h
  have h3 : Canonical s3.mem := canonical_fold (fun u y hu => by simpa) _ h2
  have h4 : Canonical s4.mem := canonical_fold (fun u k hu => canonical_ite (fun _ => hu) fun _ =>
    canonical_fold (fun v i hv => canonical_cancelWaiter hv _ _ _ _) _ hu) _ h3
  simpa
@[simp] theorem canonical_vfCtl (h : Canonical s.mem) (f op q : Nat) (kill : Bool) : Canonical (s.vfCtl f op q kill).1.mem := by
  unfold State.vfCtl
  split
  · exact h
  · split
    · exact h
    · exact h
    · exact canonical_resetBegin h f
    · split
      · exact h
      · exact canonical_teardown h _ _ _
@[simp] theorem mem_clearLaunch (s : State) (pid : Nat) (p : Part) (l : Launch) : (s.clearLaunch pid p l).mem = s.mem := by
  unfold State.clearLaunch
  extract_lets s1 s2 wk
  have h1 : s1.mem = s.mem := mem_ite rfl (mem_foldl (fun u t => mem_modTile u _ _) _ _)
  have h2 : s2.mem = s.mem := (modPart_mem _ _ _).trans h1
  exact mem_ite h2 h2
@[simp] theorem canonical_zeroWin (h : Canonical s.mem) (t : Nat) (i : Fin 3) (a n : Nat) : Canonical (s.zeroWin t i a n).mem :=
  canonical_zeroRange h _ _
@[simp] theorem canonical_storeBytes (h : Canonical s.mem) (k : Nat) (bs : List Byte) : Canonical (s.storeBytes k bs).mem := by
  simp only [State.storeBytes, mem_mark]
  exact canonical_write h _ _
@[simp] theorem canonical_writeBSection (h : Canonical s.mem) (t : Nat) (i : Fin 3) (d : List Byte) : Canonical (s.writeBSection t i d).mem :=
  canonical_backB (canonical_landCells h _ _ _) _ _ _ _
@[simp] theorem canonical_startTile (h : Canonical s.mem) (t : Nat) (p : Part) (tenant : Nat) (ss : List Sect) (ks : List (Nat × Nat × Bool)) :
    Canonical (s.startTile t p tenant ss ks).mem := by
  unfold State.startTile
  extract_lets i code s1 s2 s3 s4 s5 s6
  have h1 : Canonical s1.mem := canonical_fold (fun u k hu => canonical_zeroWin hu _ _ _ _) _ (canonical_zeroWin h _ _ _ _)
  have h4 : Canonical s4.mem := canonical_write (canonical_storeBytes (canonical_dropKeys h1 _) _ _) _ _
  have h5 : Canonical s5.mem := canonical_fold (fun u d hu => canonical_writeBSection hu _ _ _) _ h4
  exact h5
@[simp] theorem canonical_writeData (h : Canonical s.mem) (tenant : Nat) (table : List Rec512) (d : List Byte) :
    Canonical (s.writeData tenant table d).mem := by
  unfold State.writeData
  dsimp only
  split
  · exact h
  · exact canonical_writeThrough h _
@[simp] theorem canonical_startLaunch (h : Canonical s.mem) (pid f q : Nat) (p : Part) (im : List Byte) (ss : List Sect) (table : List Rec512) :
    Canonical (s.startLaunch pid f q p im ss table).mem := by
  unfold State.startLaunch
  dsimp only
  rw [modSys_mem]
  refine canonical_fold (fun u d hu => canonical_writeData hu _ _ _) _ ?_
  refine canonical_fold (fun u t hu => canonical_startTile hu _ _ _ _ _) _ ?_
  exact canonical_writeThrough (by simpa) _
@[simp] theorem canonical_zeroKeeps (h : Canonical s.mem) (p : Part) (l : Launch) (bays : List Nat) : Canonical (s.zeroKeeps p l bays).mem :=
  canonical_fold (fun _ _ hu => canonical_fold (fun _ _ hv => canonical_zeroWin hv _ _ _ _) _ hu) _ h
@[simp] theorem canonical_endLaunch (h : Canonical s.mem) (pid : Nat) (p : Part) (l : Launch) : Canonical (s.endLaunch pid p l).mem := by
  unfold State.endLaunch
  dsimp only
  rw [mem_queueDone, mem_clearLaunch]
  refine canonical_zeroKeeps ?_ _ _ _
  split <;> simpa

/-! ### Frames, moves, slots and the clock -/

@[simp] theorem canonical_scrub (h : Canonical s.mem) (f : Nat) : Canonical (s.scrub f).mem := by
  rw [mem_scrub]
  exact canonical_filter h _
@[simp] theorem canonical_moveLines (h : Canonical s.mem) (m : Move) (lines : List Nat) : Canonical (s.moveLines m lines).mem :=
  canonical_fold (fun u l hu => canonical_landCells (by simpa) _ _ _) _ h
@[simp] theorem canonical_moveRound (h : Canonical s.mem) (n : Nat) (m : Move) : Canonical (s.moveRound n m).mem := by
  have hm := canonical_moveLines h m (if m.round = 0 then pageLines m.src m.size else m.todo)
  unfold State.moveRound
  extract_lets s1 m1
  refine canonical_ite (fun _ => ?_) fun _ => canonical_ite (fun _ => ?_) fun _ => ?_
  · simpa
  · simpa
  · simpa
@[simp] theorem canonical_moveInstall (h : Canonical s.mem) (n : Nat) (m : Move) : Canonical (s.moveInstall n m).mem := by
  unfold State.moveInstall
  dsimp only
  refine canonical_of_mem (mem_foldl (fun u t => mem_resumeMoved u _ _) _ _) ?_
  simpa using canonical_moveLines h _ _
@[simp] theorem canonical_setBuf (h : Canonical s.mem) (n : Nat) (i : Fin 4) (bs : List Byte) (bad : List Nat) :
    Canonical (s.setBuf n i bs bad).mem := canonical_write h _ _
@[simp] theorem canonical_startWriting (h : Canonical s.mem) (n : Nat) (ps : List Pub) : Canonical (s.startWriting n ps).mem := by
  induction ps generalizing s with
  | nil => exact h
  | cons p ps ih =>
    unfold State.startWriting
    dsimp only
    split
    · exact h
    · split
      · exact ih (by simpa)
      · split
        · exact h
        · simpa using canonical_setBuf h _ _ _ _
@[simp] theorem canonical_nextWriting (h : Canonical s.mem) (n : Nat) : Canonical (s.nextWriting n).mem := by
  unfold State.nextWriting
  dsimp only
  split
  · exact h
  · exact canonical_startWriting (by simpa) _ _
@[simp] theorem canonical_slotsEnd (h : Canonical s.mem) : Canonical s.slotsEnd.mem :=
  canonical_fold (fun u x hu => by simpa using canonical_nextWriting hu _) _ h
@[simp] theorem canonical_tick (h : Canonical s.mem) : Canonical s.tick.mem := by
  unfold State.tick
  simpa using canonical_slotsEnd h
@[simp] theorem canonical_resStore (h : Canonical s.mem) (n : Nat) (e : Rec512) : Canonical (s.resStore n e).mem := by
  unfold State.resStore
  dsimp only
  refine canonical_of_mem (mem_foldl (fun u t => mem_modTile u _ _) _ _) ?_
  exact canonical_writeThrough (by simpa) _

/-! ### Sleep, and the peer's deltas -/

@[simp] theorem canonical_enterSleep (h : Canonical s.mem) : Canonical s.enterSleep.mem := by
  unfold State.enterSleep
  dsimp only
  refine canonical_dropKeys (canonical_of_mem (mem_foldl (fun u l => mem_l2Flush u l) _ _) h) _
@[simp] theorem canonical_applyLine (h : Canonical s.mem) (l : Nat × List Byte × List Nat) : Canonical (s.applyLine l).mem := by
  unfold State.applyLine
  split
  · exact canonical_write h _ _
  · exact h
@[simp] theorem canonical_applyDelta (h : Canonical s.mem) (lines : List (Nat × List Byte × List Nat)) (timers : List (List Nat))
    (msgs : List QueuedMsg) : Canonical (s.applyDelta lines timers msgs).mem := by
  unfold State.applyDelta
  dsimp only
  refine canonical_of_mem (mem_foldl (fun u m => mem_applyMsg u m) _ _) ?_
  refine canonical_of_mem (mem_foldl (fun u t => mem_modTile u _ _) _ _) ?_
  refine canonical_of_mem (mem_foldl (fun u x => mem_applyTimer u x) _ _) ?_
  exact canonical_fold (fun u l hu => canonical_applyLine hu l) _ h

end Sys2Proof.Machine
end

section
/-! Which actions and instruction forms keep the memory's canonical form, beyond those of `Laws/Keeps`. -/

namespace Sys2Proof.Machine
open Sys2Proof

/-! ### Updates -/

/-- An update whose new state is canonical where the old one is. -/
theorem keeps_update_canonical {f : State → State} (hf : ∀ s : State, Canonical s.mem → Canonical (f s).mem) : Keeps (update f) :=
  keeps_update hf
/-- A stop that carries out an update which leaves the memory alone. -/
theorem keeps_waitIn {α : Type} (k : WaitOn) {f : State → State} (hf : ∀ s : State, (f s).mem = s.mem) :
    Keeps (stop (.waitIn k f) : Exec α) := keeps_stop fun _ hs => canonical_of_mem (hf _) hs
theorem keeps_trapOn {α : Type} (t : Trap) {f : State → State} (hf : ∀ s : State, (f s).mem = s.mem) :
    Keeps (stop (.trapOn f t) : Exec α) := keeps_stop fun _ hs => canonical_of_mem (hf _) hs
theorem keeps_trapStop {α : Type} (t : Trap) : Keeps (stop (.trap t) : Exec α) := keeps_stop trivial
/-- Reads that the check depends on stand before it; where it traps, they are part of the trap. -/
theorem keeps_keeping {α : Type} {f : State → State} (hf : ∀ s : State, (f s).mem = s.mem) {m : Exec α} (hm : Keeps m) : Keeps (keeping f m) := by
  intro s h
  unfold keeping
  refine ⟨fun a t e => (hm s h).1 a t ?_, fun x e => ?_⟩
  · split at e
    · cases e
    · cases e
    · exact e
  · split at e
    · cases e
      exact fun u hu => canonical_of_mem (hf u) hu
    · next g t hg =>
      cases e
      exact fun u hu => (hm s h).2 _ hg (f u) (canonical_of_mem (hf u) hu)
    · exact (hm s h).2 x e

/-- An action that is taken under a condition, and what follows either way. -/
theorem keeps_when {α : Type} {c : Prop} [Decidable c] {e : Exec Unit} {k : Unit → Exec α} (he : Keeps e) (hk : ∀ r, Keeps (k r)) :
    Keeps (if c then e >>= k else k ()) := keeps_ite (fun _ => keeps_bind he hk) fun _ => hk ()
theorem keeps_either {α β : Type} {c : Prop} [Decidable c] {e f : Exec β} {k : β → Exec α} (he : Keeps e) (hf : Keeps f) (hk : ∀ r, Keeps (k r)) :
    Keeps (if c then e >>= k else f >>= k) := keeps_ite (fun _ => keeps_bind he hk) fun _ => keeps_bind hf hk

/-! ### Shared actions -/

section
variable {α : Type}

theorem keeps_spadFault (ea : Int) (ti r : Nat) : Keeps (spadFault ea ti r : Exec α) := keeps_trap _ _ _
theorem keeps_illegalOperand : Keeps (illegalOperand : Exec α) := keeps_trap _ _ _
theorem keeps_tmFault (r : Nat) (w : Word) : Keeps (tmFault r w : Exec α) := keeps_trapStop _
end

theorem keeps_isolated : Keeps isolated := keeps_bind keeps_get fun _ => keeps_check _ _ _ _
theorem keeps_address : Keeps address := keeps_bind keeps_get fun _ => keeps_pure _
theorem keeps_tmCheck (b : Bool) (r : Nat) (w : Word) : Keeps (tmCheck b r w) := keeps_ite (fun _ => keeps_pure ()) fun _ => keeps_tmFault r w
theorem keeps_tmWord (w : Word) (fs : List (Nat × Nat)) (b : Bool) : Keeps (tmWord w fs b) :=
  keeps_bind (keeps_requireOperand _) fun _ => keeps_bind (keeps_tmCheck _ _ _) fun _ => keeps_pure _
theorem keeps_bayTarget (ti : Nat) (ea : Int) : Keeps (bayTarget ti ea) :=
  keeps_bind keeps_get fun _ => keeps_bind (keeps_check _ _ _ _) fun _ => keeps_pure _
theorem keeps_remoteStore (t ea : Nat) (bs : List Byte) : Keeps (remoteStore t ea bs) :=
  keeps_bind keeps_get fun _ => keeps_bind (keeps_waitUntil _ _) fun _ => keeps_bind keeps_freshId fun _ =>
    keeps_bind (keeps_update_mem fun s => by simp) fun _ => keeps_markNonReplayable
theorem keeps_globalPathOf (r : Rec512) (idx off size acc : Nat) : Keeps (globalPathOf r idx off size acc) := by
  refine keeps_bind keeps_get fun s => ?_
  split
  · exact keeps_pure _
  · exact keeps_trapUsed _ _
theorem keeps_invalidateMine : Keeps invalidateMine := keeps_update_mem fun s => by simp
theorem keeps_globalStore (p : GlobalPath) (bs : List Byte) : Keeps (globalStore p bs) := keeps_update_mem fun s => by simp
theorem keeps_globalLoad (idx off : Nat) (t : MemType) (d : Reg) (p : GlobalPath) (acq : Bool) : Keeps (globalLoad idx off t d p acq) := by
  have served (bs : List Byte) : Keeps (do
      update fun s => s.rdTouch p.keys
      wrPush d (extendLoad t.size t.signed (leNat bs))
      if acq then invalidateMine) :=
    keeps_bind (keeps_update_mem fun s => by simp) fun _ => keeps_bind (keeps_wrPush _ _) fun _ =>
      keeps_ite (fun _ => keeps_invalidateMine) fun _ => keeps_pure _
  refine keeps_bind keeps_get fun s => ?_
  split
  · exact keeps_ite (fun _ => keeps_bind (keeps_trapUsed _ _) fun _ => served _) fun _ => served _
  · exact keeps_bind (keeps_waitUntil _ _) fun _ => keeps_bind keeps_freshId fun _ => keeps_bind (keeps_sliceAccess _) fun _ => keeps_pendingLoad _
theorem keeps_reqTable : Keeps reqTable := by
  refine keeps_bind keeps_get fun s => ?_
  split
  · exact keeps_bind (keeps_waitUntil _ _) fun _ => keeps_pure _
  · exact keeps_illegalOperand
theorem keeps_setTable (n : Nat) (q : ReqTable) : Keeps (setTable n q) := keeps_update_mem fun s => by simp
theorem keeps_readList (a n : Nat) : Keeps (readList a n) :=
  keeps_bind keeps_get fun _ => keeps_bind (keeps_checkWin _ _ _ _ _) fun _ => keeps_bind (keeps_readOwn _ _) fun _ => keeps_pure _
theorem keeps_extWrite (n : BitVec 3) (v : Word) : Keeps (extWrite n v) := keeps_update_mem fun s => by simp
theorem keeps_mxIssue (sub : Nat) (notify : Bool) (ch : Nat) (a b b0 : Word) : Keeps (mxIssue sub notify ch a b b0) := by
  refine keeps_bind keeps_get fun s => keeps_bind (keeps_requireOperand _) fun _ => ?_
  extract_lets e md enter
  have hj (r : PUnit) : Keeps (enter r) := keeps_bind (keeps_waitUntil _ _) fun _ => keeps_bind keeps_freshId fun _ =>
    keeps_update_mem fun s => by simp
  split
  · exact keeps_bind (keeps_spadFault _ _ _) fun r => hj r
  · exact hj ()
theorem mem_releaseStop {s : State} {vec : Bool} {scope : Nat} {f : State → State} (h : s.releaseStop vec scope = some f) (u : State) :
    (commitUndo (f u)).mem = u.mem := by rw [mem_commitUndo, releaseStop_mem h]
theorem keeps_releaseOut : Keeps releaseOut := by
  refine keeps_bind (keeps_update_mem mem_commitUndo) fun _ => keeps_bind keeps_get fun s => keeps_ite (fun _ => ?_) fun _ => keeps_pure _
  extract_lets -underBinder release
  suffices h : ∀ r, Keeps (release r) from keeps_when (keeps_waitIn _ mem_commitUndo) h
  intro r
  unfold release
  split
  · next f hf => exact keeps_waitIn _ fun u => mem_releaseStop hf u
  · exact keeps_when (keeps_waitIn _ mem_commitUndo) fun _ =>
      keeps_bind (keeps_update_mem mem_releaseAll) fun _ => keeps_markNonReplayable
/-- What a form of the system core answers, with its result, is canonical. -/
def LeadsPair {β : Type} (o : Option (State × β)) : Prop := ∀ r, o = some r → Canonical r.1.mem
@[simp] theorem leadsPair_none {β : Type} : LeadsPair (none : Option (State × β)) := fun r e => by cases e
@[simp] theorem leadsPair_some {β : Type} {r : State × β} : LeadsPair (some r) ↔ Canonical r.1.mem :=
  ⟨fun h => h r rfl, fun h u e => by cases e; exact h⟩
/-- A form of the system core keeps the canonical form. -/
def SysOp.Keeps (f : SysOp) : Prop := ∀ s a b, Canonical s.mem → LeadsPair (f s a b)
theorem keeps_runSys {f : SysOp} (hf : f.Keeps) (a b : Word) : Keeps (runSys f a b) := by
  intro s h
  unfold runSys
  split
  · next r hr => exact ⟨fun x t e => by cases e; exact hf s a b h r hr, fun x e => by cases e⟩
  · exact ⟨fun x t e => (by cases e), fun x e => by cases e; trivial⟩
theorem keeps_sysWearSet (a b : Word) : Keeps (sysWearSet a b) :=
  keeps_get_bind fun s hs => keeps_bind (keeps_update fun _ _ => canonical_of_mem (mem_wearSet s _ _) hs) fun _ => keeps_pure _
theorem keeps_sysFrzRel (a b : Word) : Keeps (sysFrzRel a b) :=
  keeps_bind (keeps_requireOperand _) fun _ => keeps_get_bind fun s hs =>
    keeps_bind (keeps_update fun _ _ => canonical_of_mem (mem_frzRel s _ _) hs) fun _ => keeps_pure _
theorem keeps_cpCheck (f : CpForm) (c : Nat) (notify chain : Bool) (tw : Option Word) (b : Bool) : Keeps (cpCheck f c notify chain tw b) := by
  unfold cpCheck
  refine keeps_bind keeps_get fun s => keeps_bind (keeps_requireOperand _) fun _ => ?_
  extract_lets -underBinder e i ext rest
  suffices h : ∀ t, Keeps (rest t) by
    split
    · exact keeps_bind (keeps_pure _) h
    · exact keeps_bind (keeps_requireOperand _) fun _ => keeps_bind (keeps_targetTile _) fun _ => keeps_bind (keeps_requireOperand _) fun _ =>
        keeps_bind (keeps_pure _) h
  intro other
  unfold rest
  extract_lets -underBinder srcT dstT sw dw rest1
  suffices h : ∀ r, Keeps (rest1 r) from keeps_either (keeps_requireOperand _) (keeps_requireOperand _) h
  intro _
  unfold rest1
  extract_lets -underBinder rest2
  suffices h : ∀ r, Keeps (rest2 r) from keeps_when (keeps_requireOperand _) h
  intro _
  unfold rest2
  refine keeps_bind (keeps_requireOperand _) fun _ => ?_
  extract_lets -underBinder so dofs same
  refine keeps_bind (keeps_requireOperand _) fun _ => ?_
  extract_lets -underBinder rest3
  suffices h : ∀ r, Keeps (rest3 r) from keeps_when (keeps_requireOperand _) h
  intro _
  unfold rest3
  extract_lets -underBinder rest4
  suffices h : ∀ r, Keeps (rest4 r) from keeps_ite
    (fun _ => keeps_either (keeps_checkResource _ _ _ _) (keeps_checkResource _ _ _ _) fun _ => keeps_bind (keeps_pure _) h)
    fun _ => keeps_bind (keeps_pure _) h
  intro _
  unfold rest4
  extract_lets -underBinder first rest5
  have hfirst (s : State) : (first s).mem = s.mem := by unfold first; split <;> simp
  clear_value first
  suffices h : ∀ r, Keeps (rest5 r) from keeps_either (keeps_keeping hfirst
    (keeps_either (keeps_checkResource _ _ _ _) (keeps_checkResource _ _ _ _) fun _ => keeps_pure _)) (keeps_pure _) h
  intro _
  unfold rest5
  extract_lets -underBinder both rest6
  have hboth (s : State) : (both s).mem = s.mem := by unfold both; split <;> simp [hfirst]
  clear_value both
  suffices h : ∀ r, Keeps (rest6 r) from keeps_ite (fun _ => keeps_bind (keeps_keeping hboth (keeps_checkWin _ _ _ _ _)) fun _ => h ()) fun _ => h ()
  intro _
  unfold rest6
  extract_lets -underBinder rest7
  suffices h : ∀ r, Keeps (rest7 r) from keeps_ite (fun _ => keeps_bind (keeps_keeping hboth (keeps_checkWin _ _ _ _ _)) fun _ => h ()) fun _ => h ()
  intro _
  unfold rest7
  extract_lets -underBinder rest8
  suffices h : ∀ r, Keeps (rest8 r) from keeps_ite (fun _ => keeps_bind (keeps_keeping hboth (keeps_checkWin _ _ _ _ _)) fun _ => h ()) fun _ => h ()
  intro _
  exact keeps_when (keeps_keeping hboth (keeps_checkOut _)) fun _ => keeps_pure _

end Sys2Proof.Machine
end

section
/-! The vector stream keeps the memory's canonical form. -/

namespace Sys2Proof.Machine
open Sys2Proof

theorem keeps_vReserved (b : Bool) (w : Word) : Keeps (vReserved b w) := keeps_ite (fun _ => keeps_pure ()) fun _ => keeps_trapStop _
theorem keeps_vAddress (x : VEntry) : Keeps (vAddress x) := by
  refine keeps_bind (keeps_rd _) fun _ => ?_
  split
  · exact keeps_bind (keeps_rd _) fun _ => keeps_pure _
  · exact keeps_bind (keeps_rd _) fun _ => keeps_pure _
  · exact keeps_pure _
theorem keeps_vLocalPlace (x : VEntry) : Keeps (vLocalPlace x) :=
  keeps_bind (keeps_vAddress x) fun _ => keeps_bind (keeps_vReserved _ _) fun _ => keeps_bind keeps_get fun _ => keeps_pure _
theorem keeps_vElemAddr (ea : Int) (n : Nat) (k : AccKind) : Keeps (vElemAddr ea n k) :=
  keeps_bind keeps_get fun _ => keeps_bind (keeps_checkWin _ _ _ _ _) fun _ => keeps_when (keeps_spadFault _ _ _) fun _ => keeps_pure _
theorem keeps_vectorTurnComes (x : VEntry) : Keeps (vectorTurnComes x) := keeps_bind keeps_get fun _ => keeps_waitUntil _ _
theorem keeps_forM {α : Type} {f : α → Exec Unit} (hf : ∀ x, Keeps (f x)) (l : List α) : Keeps (l.forM f) := by
  induction l with
  | nil => exact keeps_pure ()
  | cons x l ih => exact keeps_bind (hf x) fun _ => ih
theorem keeps_vLocalLoad (x : VEntry) : Keeps (vLocalLoad x) := by
  refine keeps_bind (keeps_vLocalPlace x) fun p => ?_
  refine keeps_bind (keeps_forM (fun i => keeps_bind (keeps_vElemAddr _ _ _) fun _ => keeps_pure _) _) fun _ => ?_
  refine keeps_bind (keeps_vectorTurnComes x) fun _ => keeps_bind keeps_get fun s => ?_
  dsimp only
  split
  · exact keeps_trapOn _ fun s => by simp
  · exact keeps_update_mem fun s => by simp
theorem keeps_vLocalStore (x : VEntry) : Keeps (vLocalStore x) := by
  refine keeps_bind (keeps_vLocalPlace x) fun p => ?_
  refine keeps_bind (keeps_forM (fun i => keeps_bind (keeps_vElemAddr _ _ _) fun _ => keeps_logWrite _ _) _) fun _ => ?_
  refine keeps_bind (keeps_vectorTurnComes x) fun _ => keeps_bind keeps_get fun s => ?_
  exact keeps_update_canonical fun u hu => by simp [hu]
theorem keeps_vGlobalPath (x : VEntry) (acc : Nat) : Keeps (vGlobalPath x acc) := by
  refine keeps_bind (keeps_vAddress x) fun _ => keeps_bind (keeps_vReserved _ _) fun _ => keeps_bind keeps_get fun s => ?_
  refine keeps_ite (fun _ => keeps_pure _) fun _ => ?_
  refine keeps_bind (keeps_checkResource _ _ _ _) fun _ => keeps_bind (keeps_checkUsed _ _ _ _ _) fun _ => keeps_bind keeps_get fun u => ?_
  dsimp only
  split
  · exact keeps_pure _
  · exact keeps_trapUsed _ _
theorem keeps_vGlobalLoad (x : VEntry) : Keeps (vGlobalLoad x) := by
  refine keeps_bind (keeps_vGlobalPath x 1) fun g => ?_
  cases g with
  | none => exact keeps_pure _
  | some g =>
    refine keeps_get_bind fun s hs => keeps_bind (keeps_waitUntil _ _) fun _ => ?_
    refine keeps_when (keeps_trapOn _ fun u => by simp) fun _ => keeps_update fun _ _ => ?_
    exact canonical_of_mem (s := s) (by simp) hs
theorem keeps_vGlobalStore (x : VEntry) : Keeps (vGlobalStore x) := by
  refine keeps_bind (keeps_vGlobalPath x 2) fun g => ?_
  cases g with
  | none => exact keeps_pure _
  | some g =>
    refine keeps_bind keeps_get fun s => keeps_bind (keeps_waitUntil _ _) fun _ => keeps_bind (keeps_update_mem fun u => by simp) fun _ => ?_
    exact keeps_ite (fun _ => keeps_update_mem fun u => by simp) fun _ => keeps_pure _
theorem keeps_deliver (f : State → Half → Half) : Keeps (update fun s => s.modHalf (f s)) := keeps_update_mem fun s => by simp
theorem keeps_vectorBody (x : VEntry) : Keeps (vectorBody x) := by
  unfold vectorBody
  extract_lets qb
  split
  · exact keeps_vLocalLoad x
  · exact keeps_vLocalLoad x
  · exact keeps_vLocalLoad x
  · exact keeps_vLocalStore x
  · exact keeps_vLocalStore x
  · exact keeps_vGlobalLoad x
  · exact keeps_vGlobalStore x
  · exact keeps_bind (keeps_rd _) fun _ => keeps_deliver _
  · exact keeps_bind (keeps_rd _) fun _ => keeps_bind (keeps_rd _) fun _ => keeps_bind (keeps_rd _) fun _ => keeps_bind (keeps_rd _) fun _ =>
      keeps_deliver _
  · exact keeps_ite (fun _ => keeps_bind (keeps_rd _) fun _ => keeps_deliver _) fun _ => keeps_deliver _

/-! ### A start of the vector unit -/

section
variable {s u : State} {t : Nat} {c : Fin 8}

theorem canonical_vectorTry (h : Canonical s.mem) (e : s.vectorTry t c = some u) : Canonical u.mem := by
  unfold State.vectorTry at e
  dsimp only at e
  split at e
  · cases e
  · next x rest _ =>
    split at e
    · cases e
    · have hb : Keeps (do vectorBody x; update fun s => s.modHalf fun h => { h with vq := rest }) :=
        keeps_bind (keeps_vectorBody x) fun _ => keeps_deliver _
      have hs := hb { s with cur := t, ctx := c } h
      split at e
      · next a v hv =>
        cases e
        have hm : Canonical v.mem := hs.1 _ _ hv
        exact hm
      · cases e
        split <;> simpa
      · next f tr hf =>
        cases e
        have hv : Canonical (f { s with cur := t, ctx := c }).mem := hs.2 _ hf _ h
        split <;> simpa
      · cases e
theorem mem_askBurst (e : s.askBurst t c = some u) : u.mem = s.mem := by
  unfold State.askBurst at e
  dsimp only at e
  split at e
  · cases e
  · cases e
    simp
theorem canonical_vectorStart (h : Canonical s.mem) (e : s.vectorStart t c = some u) : Canonical u.mem := by
  unfold State.vectorStart at e
  dsimp only at e
  split at e
  · exact canonical_of_mem (mem_askBurst e) h
  · split at e
    · exact canonical_vectorTry (by simpa) e
    · cases e
end

end Sys2Proof.Machine
end

section
/-! The device's own events and those from outside keep the memory's canonical form. -/

namespace Sys2Proof.Machine
open Sys2Proof

/-- What an event answers, if it is possible, is canonical. -/
def Leads (o : Option State) : Prop := ∀ t, o = some t → Canonical t.mem
@[simp] theorem leads_none : Leads none := fun t e => by cases e
@[simp] theorem leads_some {t : State} : Leads (some t) ↔ Canonical t.mem := ⟨fun h => h t rfl, fun h u e => by cases e; exact h⟩
theorem leads_ite {p : Prop} [Decidable p] {o q : Option State} (h : p → Leads o) (k : ¬ p → Leads q) : Leads (if p then o else q) := by
  split
  · exact h ‹_›
  · exact k ‹_›
theorem leads_bind {α : Type} {o : Option α} {f : α → Option State} (h : ∀ a, o = some a → Leads (f a)) : Leads (o.bind f) := by
  cases o with
  | none => exact leads_none
  | some a => exact h a rfl
theorem leads_map {α : Type} {o : Option α} {f : α → State} (h : ∀ a, o = some a → Canonical (f a).mem) : Leads (o.map f) := by
  cases o with
  | none => exact leads_none
  | some a => exact leads_some.2 (h a rfl)
theorem leads_findSome {α : Type} {f : α → Option State} (h : ∀ a, Leads (f a)) (l : List α) : Leads (l.findSome? f) := by
  intro t e
  obtain ⟨a, -, ha⟩ := List.exists_of_findSome?_eq_some e
  exact h a t ha
theorem keeps_leads {m : String} {r : State → Option State} (hr : ∀ s, Canonical s.mem → Leads (r s)) : KeepsNext fun s => event m (r s) :=
  keeps_event fun s t hs e => hr s hs t e

section
variable {s : State}

/-! ### Activations and replies -/

theorem leads_controlEdge (h : Canonical s.mem) : Leads s.controlEdge := by
  unfold State.controlEdge
  split
  · simp
  · dsimp only
    rw [leads_some]
    split <;> split <;> simpa
theorem leads_injectNext (h : Canonical s.mem) (t : Nat) (i : Fin 3) (act : Nat) : Leads (s.injectNext t i act) :=
  leads_bind fun _ _ => leads_map fun _ _ => by simpa
theorem leads_doneRetire (h : Canonical s.mem) (t : Nat) (c : Fin 8) : Leads (s.doneRetire t c) := by
  unfold State.doneRetire
  dsimp only
  refine leads_ite (fun _ => leads_none) fun _ => ?_
  split
  · next u hu => exact leads_some.2 (leads_injectNext h _ _ _ u hu)
  · exact leads_ite (fun _ => by simpa) fun _ => leads_none
theorem leads_loadReply (h : Canonical s.mem) (t : Nat) (c : Fin 8) (b : Bool) : Leads (s.loadReply t c b) := by
  refine leads_bind fun y _ => ?_
  dsimp only
  split
  · simpa
  · exact leads_ite (fun _ => by simpa) fun _ => leads_none
theorem leads_retryCtx (h : Canonical s.mem) (t : Nat) (c : Fin 8) : Leads (s.retryCtx t c) := by
  unfold State.retryCtx
  split
  · simp
  · dsimp only
    split
    · exact leads_ite (fun _ => by simpa) fun _ => leads_none
    · simp
theorem leads_retryChan (h : Canonical s.mem) (t c : Nat) : Leads (s.retryChan t c) := by
  unfold State.retryChan
  split
  · exact leads_ite (fun _ => by simpa) fun _ => leads_none
  · simp
theorem leads_portNext (h : Canonical s.mem) (t : Nat) {f : State → PortOp → Option State} (hf : ∀ u o, Canonical u.mem → Leads (f u o)) :
    Leads (s.portNext t f) := by
  unfold State.portNext
  split
  · simp
  · exact hf _ _ (by simpa)
theorem leads_invalidate (h : Canonical s.mem) (t : Nat) : Leads (s.invalidate t) := by
  unfold State.invalidate
  split
  · simp
  · simpa
theorem leads_burstEnd (h : Canonical s.mem) (t : Nat) : Leads (s.burstEnd t) := by
  unfold State.burstEnd
  dsimp only
  split
  · simpa
  · split
    · exact leads_ite (fun _ => by simpa) fun _ => leads_none
    · simp
theorem leads_takeBoundTrap (h : Canonical s.mem) (t : Nat) (c : Fin 8) : Leads (s.takeBoundTrap t c) := by
  unfold State.takeBoundTrap
  dsimp only
  split
  · exact leads_ite (fun _ => by simpa) fun _ => leads_none
  · simp

/-! ### Slices, messages and leave -/

theorem leads_sliceStep (h : Canonical s.mem) (n : Nat) : Leads (s.sliceStep n) := by
  unfold State.sliceStep
  split
  · simp
  · split <;> simp [h]
theorem leads_probeStep (h : Canonical s.mem) (n : Nat) : Leads (s.probeStep n) := by
  refine leads_bind fun o _ => ?_
  split
  · exact leads_ite (fun _ => leads_none) fun _ => by simpa
  · simp
theorem leads_lineFill (h : Canonical s.mem) (l : Nat) : Leads (s.lineFill l) := by
  unfold State.lineFill
  dsimp only
  exact leads_ite (fun _ => by simpa) fun _ => leads_none
theorem leads_arrival (h : Canonical s.mem) (n : Nat) : Leads (s.arrival n) := by
  unfold State.arrival
  split
  · simp
  · dsimp only
    split
    · simp
    · split
      · split <;> simp [h]
      · split
        · simp
        · split
          · simp [h]
          · split <;> simp [h]
theorem leads_leaveGrant (h : Canonical s.mem) (b : Nat) : Leads (s.leaveGrant b) := by
  unfold State.leaveGrant
  split
  · simp
  · dsimp only
    exact leads_ite (fun _ => leads_none) fun _ => by simpa

/-! ### The Transom -/

theorem leads_pinEnd (h : Canonical s.mem) (n : Nat) : Leads (s.pinEnd n) := by
  unfold State.pinEnd
  dsimp only
  split
  · simp
  · exact leads_ite (fun _ => leads_none) fun _ => by simpa
theorem leads_commitSlot (h : Canonical s.mem) (n : Nat) : Leads (s.commitSlot n) := by
  unfold State.commitSlot
  dsimp only
  split
  · refine leads_ite (fun _ => leads_none) fun _ => leads_some.2 ?_
    exact canonical_ite (fun _ => by simpa) fun _ => by simpa
  · simp
theorem mem_getFits {u : State} {r : TmReq} {n : Nat} (e : s.getFits r n = .ok u) : u.mem = s.mem := by
  unfold State.getFits at e
  split at e
  · cases e; rfl
  · split at e
    · cases e
    · split at e
      · next v hv => cases e; exact logLines_mem hv
      · cases e
theorem leads_acceptRequest (h : Canonical s.mem) (n : Nat) : Leads (s.acceptRequest n) := by
  refine leads_bind fun r _ => leads_ite (fun _ => leads_none) fun _ => ?_
  extract_lets s0 c size x
  have h0 : Canonical s0.mem := by simpa [s0]
  refine leads_ite (fun _ => by simpa) fun _ => leads_ite (fun _ => ?_) fun _ => by simpa [x]
  split
  · simpa
  · next u hu =>
    have hm : Canonical u.mem := canonical_of_mem (mem_getFits hu) h0
    simpa
theorem leads_stagingComplete (h : Canonical s.mem) (n : Nat) : Leads (s.stagingComplete n) :=
  leads_bind fun p _ => leads_ite (fun _ => leads_none) fun _ => by simpa
theorem leads_installMirror (h : Canonical s.mem) (r : Rec512) (bs : List Byte) (bad : List Nat) : Leads (s.installMirror r bs bad) := by
  unfold State.installMirror
  dsimp only
  refine leads_ite (fun _ => leads_none) fun _ => ?_
  split
  · simp
  · simp [h]

/-! ### Requests, combines and the host -/

theorem leads_reqOperation (h : Canonical s.mem) (n : Nat) : Leads (s.reqOperation n) := by
  refine leads_bind fun p _ => ?_
  split
  · simp
  · dsimp only
    split <;> simp [h]
theorem leads_kvOperation (h : Canonical s.mem) (n : Nat) : Leads (s.kvOperation n) := by
  refine leads_bind fun o _ => leads_map fun p _ => ?_
  dsimp only
  split <;> simpa
theorem leads_combineArrive (h : Canonical s.mem) (n : Nat) : Leads (s.combineArrive n) := by
  refine leads_bind fun p _ => ?_
  dsimp only
  refine leads_ite (fun _ => leads_none) fun _ => ?_
  split
  · exact leads_ite (fun _ => leads_none) fun _ => by simpa
  · exact leads_ite (fun _ => by simpa) fun _ => by simpa
theorem leads_acceptOutbound (h : Canonical s.mem) (f : Fin 16) : Leads (s.acceptOutbound f) := by
  unfold State.acceptOutbound
  split
  · simp
  · split <;> simp [h]
theorem leads_hostChannelWrite (h : Canonical s.mem) (n : Nat) : Leads (s.hostChannelWrite n) := by
  unfold State.hostChannelWrite
  split
  · dsimp only
    refine leads_ite (fun _ => leads_none) fun _ => leads_some.2 ?_
    split <;> simp [h]
  · dsimp only
    split
    · exact leads_ite (fun _ => leads_some.2 (canonical_writeRing (by simpa) _ _)) fun _ => leads_none
    · simp
theorem leads_senddb (h : Canonical s.mem) (f : Fin 16) : Leads (s.senddb f) := by
  unfold State.senddb
  dsimp only
  refine leads_ite (fun _ => by simpa) fun _ => leads_ite (fun _ => leads_none) fun _ => leads_ite (fun _ => by simpa) fun _ => ?_
  refine leads_bind fun p _ => leads_map fun t _ => ?_
  exact canonical_ite (fun _ => by simp [h]) fun _ => by simpa
theorem leads_registerWrite (h : Canonical s.mem) (f : Fin 16) (off : Nat) (v : Word) (n : Nat) : Leads (s.registerWrite f off v n) := by
  unfold State.registerWrite
  refine leads_ite (fun _ => by simpa) fun _ => leads_ite (fun _ => by simpa) fun _ => leads_ite (fun _ => leads_none) fun _ => ?_
  refine leads_ite (fun _ => leads_some.2 ?_) fun _ => by simpa
  exact canonical_ite (fun _ => by simpa) fun _ => h
@[simp] theorem mem_requestDoor {f : Fin 16} {v : Word} {op : State → Nat → ReqTable → State × Word}
    (hop : ∀ s n q, (op s n q).1.mem = s.mem) (s : State) : (s.requestDoor f v op).mem = s.mem := by
  unfold State.requestDoor
  split
  · rfl
  · dsimp only
    rw [modFn_mem]
    split
    · rfl
    · split
      · exact hop _ _ _
      · rfl

/-! ### Timers, the Wicket, swaps and shutters -/

theorem leads_timerEvent (h : Canonical s.mem) (t : Nat) : Leads (s.timerEvent t) := by
  unfold State.timerEvent
  split
  · simpa
  · exact leads_map fun _ _ => by simpa
theorem leads_seizeRequest (h : Canonical s.mem) (b : Nat) : Leads (s.seizeRequest b) := by
  refine leads_map fun q _ => ?_
  dsimp only
  refine canonical_ite (fun _ => by simpa) fun _ => canonical_ite (fun _ => by simpa) fun _ => ?_
  rw [mem_wicketNote]
  exact canonical_fold (fun u i hu => canonical_wicketGo hu _ _ _) _ (by simpa)
theorem leads_forcedRelease (h : Canonical s.mem) (b : Nat) : Leads (s.forcedRelease b) := by
  unfold State.forcedRelease
  extract_lets y s1 mine
  have h1 : Canonical s1.mem := by
    refine canonical_fold (fun u i hu => canonical_dropWicketItems ?_ _) _ h
    rwa [mem_modTile]
  clear_value s1
  exact leads_ite (fun _ => by simpa) fun _ => leads_none
theorem leads_wicketRelease (h : Canonical s.mem) (b : Nat) : Leads (s.wicketRelease b) :=
  leads_ite (fun _ => by simp [h]) fun _ => leads_none
theorem leads_swapComplete (h : Canonical s.mem) (n : Nat) : Leads (s.swapComplete n) := by
  refine leads_bind fun w _ => ?_
  extract_lets s0 saved
  have hsaved : Leads saved := by
    unfold saved
    split
    · exact leads_some.2 h
    · exact leads_bind fun p _ => leads_ite (fun _ => by simp [s0, h]) fun _ => leads_none
  refine leads_bind fun u hu => ?_
  have hm := hsaved u hu
  split
  · simpa
  · refine leads_bind fun p _ => leads_ite (fun _ => leads_none) fun _ => ?_
    simp [hm]
theorem leads_shutterUnitEnd (h : Canonical s.mem) (n : Nat) : Leads (s.shutterUnitEnd n) := by
  refine leads_bind fun p _ => leads_bind fun x _ => leads_ite (fun _ => leads_none) fun _ => ?_
  split
  · simpa
  · exact leads_map fun _ _ => by simpa
theorem leads_shutterVacant (h : Canonical s.mem) (n : Nat) : Leads (s.shutterVacant n) :=
  leads_bind fun p _ => leads_bind fun x _ => leads_ite (fun _ => by simp [h]) fun _ => leads_none

/-! ### Launches, frames and moves -/

theorem leads_admission (h : Canonical s.mem) (n : Nat) : Leads (s.admission n) := by
  unfold State.admission
  dsimp only
  refine leads_ite (fun _ => leads_none) fun _ => leads_bind fun c _ => ?_
  split
  · simp
  · refine leads_ite (fun _ => by simpa) fun _ => leads_ite (fun _ => by simp [h]) fun _ => ?_
    split
    · simp
    · simp [h]
theorem leads_sweep (h : Canonical s.mem) (n : Nat) : Leads (s.sweep n) := by
  refine leads_bind fun p _ => leads_bind fun l _ => leads_ite (fun _ => leads_none) fun _ => ?_
  dsimp only
  refine leads_ite (fun _ => leads_ite (fun _ => by simp [h]) fun _ => by simpa) fun _ => by simpa
theorem leads_frameStep (h : Canonical s.mem) (f : Nat) (k : FrameStep) : Leads (s.frameStep f k) := by
  unfold State.frameStep
  dsimp only
  refine leads_ite (fun _ => leads_none) fun _ => ?_
  cases k with
  | map t => exact leads_ite (fun _ => by simpa) fun _ => leads_none
  | free => exact leads_ite (fun _ => by simpa) fun _ => leads_none
  | post => exact leads_ite (fun _ => by simpa) fun _ => leads_none
  | clean => exact leads_ite (fun _ => by simp [h]) fun _ => leads_none
theorem leads_moveStart (h : Canonical s.mem) (src : Nat) (tag attr : Word) : Leads (s.moveStart src tag attr) :=
  leads_ite (fun _ => leads_none) fun _ => by simpa

/-! ### The mailbox, boot, the monitors and the peer -/

theorem leads_mailbox (n : Nat) {f : State → Option (State × Nat)} (hf : LeadsPair (f s)) : Leads (mailbox n f s) :=
  leads_ite (fun _ => leads_map fun r hr => by simpa using hf r hr) fun _ => leads_none
theorem leads_boot (h : Canonical s.mem) (ok : Bool) (bs : List Byte) (t g : Nat) (b : Bool) : Leads (s.boot ok bs t g b) := by
  unfold State.boot
  extract_lets k s1 s2
  have h1 : Canonical s1.mem := canonical_ite (fun _ => by simpa) fun _ => h
  have h2 : Canonical s2.mem := by
    clear_value k
    unfold s2
    split <;> simpa
  exact leads_ite (fun _ => leads_none) fun _ => leads_ite (fun _ => by simpa) fun _ => by simpa
theorem leads_deltaCommit (h : Canonical s.mem) (a b c : Bool) (ls : List (Nat × List Byte × List Nat)) (ts : List (List Nat))
    (ms : List QueuedMsg) : Leads (s.deltaCommit a b c ls ts ms) := by
  unfold State.deltaCommit
  dsimp only
  refine leads_ite (fun _ => ?_) fun _ => leads_ite (fun _ => leads_ite (fun _ => by simp [h]) fun _ => leads_some.2 ?_) fun _ => leads_none
  · split
    · simp
    · exact leads_some.2 (canonical_ite (fun _ => by simpa) fun _ => by simpa)
  · rw [modSys_mem]
    exact canonical_fold (fun u l hu => canonical_applyLine hu l) _ h
theorem leads_monitorSample (h : Canonical s.mem) (w b e : Nat) : Leads (s.monitorSample w b e) :=
  leads_ite (fun _ => leads_none) fun _ => by simpa
theorem leads_heartbeat (h : Canonical s.mem) (r e : Nat) : Leads (s.heartbeat r e) :=
  leads_ite (fun _ => leads_none) fun _ => by simpa
theorem leads_quote (h : Canonical s.mem) (n : BitVec 256) (m : BitVec 8) : Leads (s.quote n m) :=
  leads_ite (fun _ => leads_some.2 (canonical_ite (fun _ => by simpa) fun _ => h)) fun _ => leads_none
theorem leads_wakeComplete (h : Canonical s.mem) : Leads s.wakeComplete :=
  leads_ite (fun _ => by simpa) fun _ => leads_none
end

end Sys2Proof.Machine
end

section
/-! The instruction forms and the forms of the system core keep the memory's canonical form. -/

namespace Sys2Proof.Machine
open Sys2Proof

/-! ### Computing forms -/

theorem keeps_division (b a d : Reg) (f : Word → Word → Word) : KeepsNext (division b a d f) :=
  keeps_issueValue (keeps_bind (keeps_rd _) fun _ => keeps_bind (keeps_rd _) fun _ => keeps_bind keeps_get fun _ =>
    keeps_bind (keeps_check _ _ _ _) fun _ => keeps_pure _)
theorem keeps_fpForm (o : Op) (d : Reg) {body : RMode → Exec (Nat × Flags)} (hb : ∀ m, Keeps (body m)) : KeepsNext (fpForm o d body) :=
  keeps_issueValue (keeps_bind keeps_get fun _ => keeps_bind (hb _) fun _ => keeps_bind (keeps_raiseFlags _) fun _ => keeps_pure _)
theorem keeps_fpBinary (b a d : Reg) (f : RMode → Nat → Nat → Nat × Flags) : KeepsNext (fpBinary b a d f) :=
  keeps_fpForm _ _ fun _ => keeps_bind (keeps_rd _) fun _ => keeps_bind (keeps_rd _) fun _ => keeps_pure _
theorem keeps_fpUnary (a d : Reg) (f : RMode → Word → Nat × Flags) : KeepsNext (fpUnary a d f) :=
  keeps_fpForm _ _ fun _ => keeps_bind (keeps_rd _) fun _ => keeps_pure _
theorem keeps_fpFused (b a d : Reg) (f : RMode → Nat → Nat → Nat → Nat × Flags) : KeepsNext (fpFused b a d f) :=
  keeps_fpForm _ _ fun _ => keeps_bind (keeps_rd _) fun _ => keeps_bind (keeps_rd _) fun _ => keeps_bind (keeps_rd _) fun _ => keeps_pure _
theorem keeps_fpNarrow (a d : Reg) (x : Fmt) : KeepsNext (fpNarrow a d x) :=
  keeps_fpForm _ _ fun _ => keeps_bind (keeps_rd _) fun _ => keeps_bind (keeps_update_mem fun s => by simp) fun _ => keeps_pure _
theorem keeps_compactBinary (b d : CReg) (f : Word → Word → Word) : KeepsNext (compactBinary b d f) :=
  keeps_issueValue (keeps_bind (keeps_rd _) fun _ => keeps_bind (keeps_rd _) fun _ => keeps_pure _)
theorem keeps_compactUnary (d : CReg) (f : Word → Word) : KeepsNext (compactUnary d f) :=
  keeps_issueValue (keeps_bind (keeps_rd _) fun _ => keeps_pure _)

/-! ### Control -/

theorem keeps_branch (w : Word) (b a : Reg) (c : Word → Word → Bool) : KeepsNext (branch w b a c) :=
  keeps_issue (keeps_bind (keeps_rd _) fun _ => keeps_bind (keeps_rd _) fun _ => keeps_bind keeps_address fun _ => keeps_pure _)
theorem keeps_compactBranch (i : BitVec 6) (a : CReg) (c : Word → Bool) : KeepsNext (compactBranch i a c) :=
  keeps_issue (keeps_bind (keeps_rd _) fun _ => keeps_bind keeps_address fun _ => keeps_pure _)
theorem keeps_jumpReg (n : Nat) (a : Reg) : KeepsNext (jumpReg n a) :=
  keeps_issue (keeps_bind (keeps_rd _) fun _ => keeps_bind (keeps_requireOperand _) fun _ => keeps_pure _)
theorem keeps_softwareTrap (n : Nat) (a : Reg) : KeepsNext (softwareTrap n a) :=
  keeps_issue (keeps_bind (keeps_rd _) fun _ => keeps_trap _ _ _)
theorem keeps_doneForm (n : Nat) : KeepsNext (doneForm n) := by
  refine keeps_issue (keeps_bind keeps_vectorIdle fun _ => keeps_bind keeps_get fun s => keeps_bind (keeps_check _ _ _ _) fun _ =>
    keeps_bind (keeps_waitUntil _ _) fun _ => ?_)
  extract_lets retire
  have hr (u : Unit) : Keeps (retire u) := keeps_bind keeps_releaseOut fun _ => keeps_bind (keeps_update_mem fun s => by simp) fun _ => keeps_pure _
  split
  · exact keeps_bind (keeps_trap _ _ _) hr
  · exact hr ()
theorem keeps_flushForm (n : Nat) : KeepsNext (flushForm n) := by
  refine keeps_issue (keeps_bind keeps_get fun s => ?_)
  extract_lets finish
  have hf (u : Unit) : Keeps (finish u) := keeps_bind keeps_markNonReplayable fun _ => keeps_pure _
  refine keeps_ite (fun _ => ?_) fun _ => ?_
  · exact keeps_bind (keeps_waitUntil _ _) fun _ => keeps_bind (keeps_update_mem fun s => by simp) hf
  · refine keeps_bind keeps_releaseOut fun _ => keeps_get_bind fun u hu => ?_
    exact keeps_when (keeps_stop fun _ _ => hu) hf
theorem keeps_csrForm (n : BitVec 10) (a d : Reg) (w : Bool) (f : Word → Word → Word) : KeepsNext (csrForm n a d w f) := by
  refine keeps_issueValue (keeps_bind (keeps_rd _) fun x => ?_)
  extract_lets -underBinder k
  refine keeps_bind keeps_get fun s0 => keeps_bind (keeps_requireOperand _) fun _ => ?_
  extract_lets -underBinder access
  suffices h : ∀ u, Keeps (access u) from keeps_when keeps_vectorIdle h
  intro _
  refine keeps_bind keeps_get fun s => ?_
  extract_lets -underBinder old new answer
  have ha (u : Unit) : Keeps (answer u) := keeps_pure _
  exact keeps_ite (fun _ => keeps_bind (keeps_requireOperand _) fun _ => keeps_bind (keeps_requireOperand _) fun _ =>
    keeps_bind (keeps_update_mem fun s => by simp) ha) fun _ => ha ()

/-! ### Memory, copies and requests -/

theorem keeps_amoForm (op : Nat) (w : Bool) (b a d : Reg) : KeepsNext (amoForm op w b a d) := by
  refine keeps_issue (keeps_bind (keeps_rd _) fun _ => keeps_bind (keeps_rd _) fun _ => keeps_bind keeps_get fun s => ?_)
  dsimp only
  split
  · exact keeps_illegalOperand
  · refine keeps_bind (keeps_checkWin _ _ _ _ _) fun _ => keeps_when (keeps_spadFault _ _ _) fun _ => ?_
    refine keeps_bind (keeps_logWrite _ _) fun _ => keeps_bind (keeps_readOwn _ _) fun _ => ?_
    refine keeps_bind (keeps_update_canonical fun s hs => by simp [hs]) fun _ => ?_
    exact keeps_bind (keeps_raiseFlags _) fun _ => keeps_bind (keeps_wrPush _ _) fun _ => keeps_bind keeps_orderHere fun _ => keeps_pure _
  · refine keeps_bind (keeps_bayTarget _ _) fun _ => keeps_bind (keeps_checkWin _ _ _ _ _) fun _ => keeps_when (keeps_spadFault _ _ _) fun _ => ?_
    refine keeps_bind (keeps_releaseWait _ _ _) fun _ => keeps_bind keeps_get fun _ => keeps_bind (keeps_waitUntil _ _) fun _ => ?_
    refine keeps_bind keeps_freshId fun _ => keeps_bind (keeps_update_mem fun s => by simp) fun _ => ?_
    exact keeps_bind (keeps_pendingLoad _) fun _ => keeps_pure _
  · refine keeps_bind keeps_isolated fun _ => keeps_bind (keeps_checkResource _ _ _ _) fun _ => keeps_bind (keeps_checkUsed _ _ _ _ _) fun _ => ?_
    refine keeps_bind (keeps_globalPathOf _ _ _ _ _) fun _ => keeps_bind (keeps_checkUsed _ _ _ _ _) fun _ => ?_
    refine keeps_bind (keeps_releaseWait _ _ _) fun _ => keeps_bind keeps_get fun _ => keeps_bind keeps_freshId fun _ => ?_
    exact keeps_bind (keeps_sliceAccess _) fun _ => keeps_bind (keeps_pendingLoad _) fun _ => keeps_pure _
theorem keeps_cpForm (f : CpForm) (o : Op) (c : BitVec 4) (notify chain : Bool) (a : Reg) (tw : Option Reg) (b : Bool) :
    KeepsNext (cpForm f o c notify chain a tw b) := by
  have sent (w : Option Word) : Keeps (do
      let p ← cpCheck f c.toNat notify chain w b
      let s ← get
      let id := ((s.tile s.cur).chan s.share c.toNat).nid
      let uid ← freshId
      update fun s => s.modChan s.cur s.share c.toNat fun k => { k with nid := k.nid + 1#64 }
      let x := { p.x with id := id, uid := uid }
      if p.buffered then appendOut 64 (.copy x) else update fun s => s.releaseCopy x
      pure id : Exec Word) := by
    refine keeps_bind (keeps_cpCheck _ _ _ _ _ _) fun p => keeps_bind keeps_get fun s => keeps_bind keeps_freshId fun _ => ?_
    refine keeps_bind (keeps_update_mem fun s => by simp) fun _ => ?_
    exact keeps_either (keeps_appendOut _ _) (keeps_update_mem fun s => by simp) fun _ => keeps_pure _
  refine keeps_issueValue ?_
  cases tw with
  | none => exact keeps_bind (keeps_pure _) sent
  | some r => exact keeps_bind (keeps_rd _) fun _ => keeps_bind (keeps_pure _) sent
theorem keeps_cmbForm (op : Nat) (i : Bool) (b a : Reg) : KeepsNext (cmbForm op i b a) :=
  keeps_issue (keeps_bind (keeps_rd _) fun _ => keeps_bind (keeps_rd _) fun _ => keeps_bind (keeps_requireOperand _) fun _ =>
    keeps_bind (keeps_targetTile _) fun _ => keeps_bind keeps_get fun _ => keeps_bind (keeps_appendOut _ _) fun _ => keeps_pure _)
theorem keeps_tmRequest (g : Bool) (b a : Reg) : KeepsNext (tmRequest g b a) := by
  refine keeps_issue (keeps_bind (keeps_rd _) fun _ => keeps_bind (keeps_tmWord _ _ _) fun _ => keeps_bind keeps_get fun s => ?_)
  extract_lets -underBinder c n ask
  have hask (u : Unit) : Keeps (ask u) := keeps_bind (keeps_tmCheck _ _ _) fun _ => keeps_bind keeps_freshId fun _ =>
    keeps_bind (keeps_update_mem fun s => by simp) fun _ => keeps_bind (keeps_pendingLoad _) fun _ => keeps_pure _
  exact keeps_ite (fun _ => keeps_bind (keeps_checkWin _ _ _ _ _) fun _ => keeps_bind (keeps_ownWait _ _) fun _ =>
    keeps_bind (keeps_logWrite _ _) hask) fun _ => hask ()
theorem keeps_reqValue (b a : Reg) {body : Word → Exec Word} (hb : ∀ w, Keeps (body w)) : KeepsNext (reqValue b a body) :=
  keeps_issueValue (keeps_bind (keeps_rd _) hb)
theorem keeps_kvForm (op : Nat) (b a : Reg) : KeepsNext (kvForm op b a) :=
  keeps_issue (keeps_bind (keeps_rd _) fun _ => keeps_bind (keeps_requireOperand _) fun _ => keeps_bind keeps_get fun _ =>
    keeps_bind keeps_freshId fun _ => keeps_bind (keeps_update_mem fun s => by simp) fun _ => keeps_bind (keeps_pendingLoad _) fun _ =>
    keeps_bind keeps_markNonReplayable fun _ => keeps_pure _)

/-! ### The system core -/

theorem keeps_systemForm (b a d : Reg) {f : Word → Word → Exec Word} (hf : ∀ x y, Keeps (f x y)) : KeepsNext (systemForm b a d f) :=
  keeps_issueValue (keeps_bind (keeps_rd _) fun _ => keeps_bind (keeps_rd _) fun _ => keeps_bind (keeps_privileged _) fun _ => hf _ _)
theorem keeps_partForm (b a d : Reg) {f : SysOp} (hf : f.Keeps) : KeepsNext (partForm b a d f) := keeps_systemForm b a d (keeps_runSys hf)
theorem keeps_translationForm (o : Op) (a d : Reg) (b : Option Reg) {f : State → Word → Word → State × Nat}
    (hf : ∀ s x y, (f s x y).1.mem = s.mem) : KeepsNext (translationForm o a d b f) := by
  have effect (x y : Word) : Keeps (do
      privileged isCore
      let s ← get
      let r := f s x y
      update fun _ => r.1
      pure (BitVec.ofNat 64 r.2) : Exec Word) :=
    keeps_bind (keeps_privileged _) fun _ => keeps_get_bind fun s hs =>
      keeps_bind (keeps_update fun _ _ => canonical_of_mem (hf s x y) hs) fun _ => keeps_pure _
  refine keeps_issueValue (keeps_bind (keeps_rd _) fun x => ?_)
  cases b with
  | none => exact keeps_bind (keeps_pure _) fun _ => effect _ _
  | some r => exact keeps_bind (keeps_rd _) fun _ => effect _ _

section
variable {s : State}

@[simp] theorem leadsPair_natOut {r : State × Nat} : LeadsPair (natOut r) ↔ Canonical r.1.mem := leadsPair_some
theorem leadsPair_ite {β : Type} {p : Prop} [Decidable p] {o q : Option (State × β)} (h : LeadsPair o) (k : LeadsPair q) :
    LeadsPair (if p then o else q) := by
  split
  · exact h
  · exact k
end
theorem keeps_sysFrz : sysFrz.Keeps := fun s a b h => leadsPair_ite (by simpa) leadsPair_none
theorem keeps_sysLvShare : sysLvShare.Keeps := fun s a b h => leadsPair_natOut.2 (canonical_ite (fun _ => by simpa) fun _ => h)
theorem keeps_sysWear : sysWear.Keeps := fun s a b h => by simpa [sysWear]
theorem keeps_sysMk : sysMk.Keeps := fun s a b h => by simpa [sysMk]
theorem keeps_sysFree : sysFree.Keeps := fun s a b h => leadsPair_ite (by simp [h]) leadsPair_none
theorem keeps_sysHold : sysHold.Keeps := fun s a b h => leadsPair_ite (by simpa) leadsPair_none
theorem keeps_sysHalt : sysHalt.Keeps := fun s a b h => leadsPair_ite (by simpa) leadsPair_none
theorem keeps_sysSwap : sysSwap.Keeps := fun s a b h => leadsPair_ite (by simpa) leadsPair_none
theorem keeps_sysShutPost : sysShutPost.Keeps := fun s a b h => leadsPair_ite (by simpa) leadsPair_none
theorem keeps_sysShutStat : sysShutStat.Keeps := fun s a b h => leadsPair_ite (by simpa) leadsPair_none
theorem keeps_sysVf (op : Word → Nat) : (sysVf op).Keeps := fun s a b h => leadsPair_ite (by simp [h]) leadsPair_none
theorem keeps_mailboxForm {n : Nat} {f : SysOp} (e : mailboxForm n = some f) : f.Keeps := by
  unfold mailboxForm at e
  split at e <;> cases e
  · exact keeps_sysFrz
  · exact keeps_sysLvShare
  · exact keeps_sysWear
  · exact keeps_sysMk
  · exact keeps_sysFree
  · exact keeps_sysHold
  · exact keeps_sysHalt
  · exact keeps_sysSwap
  · exact keeps_sysShutPost
  · exact keeps_sysShutStat
  · exact keeps_sysVf _
@[simp] theorem canonical_mbExec {s : State} (h : Canonical s.mem) : Canonical s.mbExec.1.mem := by
  unfold State.mbExec
  split
  · next r hr =>
    obtain ⟨f, hf, e⟩ := Option.bind_eq_some_iff.1 hr
    have hm := keeps_mailboxForm hf s _ _ h r e
    simpa
  · exact h

/-! ### The vector forms -/

theorem keeps_handover (x : VEntry) (f : BitVec 16 → Bool) (bad iso : Bool) : KeepsNext (handover x f bad iso) :=
  keeps_issue (keeps_bind keeps_get fun _ => keeps_bind (keeps_waitUntil _ _) fun _ => keeps_bind keeps_freshId fun _ =>
    keeps_bind (keeps_update_mem fun s => by simp) fun _ => keeps_pure _)
theorem keeps_vsForm (o : VOp) (vs : Bool) (km : Km) (vb va vd : VReg) (f : BitVec 16 → Bool) : KeepsNext (vsForm o vs km vb va vd f) :=
  keeps_handover _ _ _ _
theorem keeps_cmpForm (o : VOp) (vs : Bool) (km : Km) (vb va vd : VReg) : KeepsNext (cmpForm o vs km vb va vd) := keeps_handover _ _ _ _
theorem keeps_maskForm (o : VOp) (vb va vd : VReg) (b : Bool) : KeepsNext (maskForm o vb va vd b) := keeps_handover _ _ _ _
theorem keeps_vForm (o : VOp) (km : Km) (vb va vd : VReg) (f : BitVec 16 → Bool) : KeepsNext (vForm o km vb va vd f) := keeps_handover _ _ _ _
theorem keeps_vqForm (o : VOp) (km : Km) (vb va vd : VReg) (f : BitVec 16 → Bool) : KeepsNext (vqForm o km vb va vd f) := keeps_handover _ _ _ _
theorem keeps_memForm (o : VOp) (km : Km) (st b : Reg) (v : VReg) (i iso : Bool) : KeepsNext (memForm o km st b v i iso) := keeps_handover _ _ _ _

end Sys2Proof.Machine
end

section
/-! Every instruction keeps the memory's canonical form: those whose body is a list of actions, then those that choose. -/

namespace Sys2Proof.Machine
open Sys2Proof

theorem keeps_execLix (imm : BitVec 18) (d : Reg) : KeepsNext (execLix imm d) :=
  keeps_issueValue (keeps_pure _)
theorem keeps_execLixs (imm : BitVec 18) (d : Reg) : KeepsNext (execLixs imm d) :=
  keeps_issueValue (keeps_bind (keeps_rd _) fun _ => keeps_pure _)
theorem keeps_execJ (imm : BitVec 24) : KeepsNext (execJ imm) :=
  keeps_issue (keeps_bind keeps_address fun _ => keeps_pure _)
theorem keeps_execJal (imm : BitVec 24) : KeepsNext (execJal imm) :=
  keeps_issue (keeps_bind keeps_address fun _ => keeps_bind (keeps_wrPush _ _) fun _ => keeps_pure _)
theorem keeps_execNop : KeepsNext execNop :=
  keeps_issue (keeps_pure _)
theorem keeps_execJalr (a d : Reg) : KeepsNext (execJalr a d) :=
  keeps_issue (keeps_bind (keeps_rd _) fun _ => keeps_bind (keeps_requireOperand _) fun _ => keeps_bind keeps_address fun _ =>
    keeps_bind (keeps_wrPush _ _) fun _ => keeps_pure _)
theorem keeps_execPca (d : Reg) : KeepsNext (execPca d) :=
  keeps_issueValue (keeps_bind keeps_address fun _ => keeps_pure _)
theorem keeps_execLdb (off : BitVec 3) (t : MemType) (ti base d : Reg) : KeepsNext (execLdb off t ti base d) :=
  keeps_issue (keeps_bind (keeps_rd _) fun _ => keeps_bind (keeps_rd _) fun _ => keeps_bind (keeps_requireOperand _) fun _ =>
    keeps_bind (keeps_bayTarget _ _) fun _ => keeps_bind (keeps_checkWin _ _ _ _ _) fun _ => keeps_bind keeps_get fun _ =>
    keeps_bind (keeps_waitUntil _ _) fun _ => keeps_bind keeps_freshId fun _ => keeps_bind (keeps_update_mem fun s => by simp) fun _ =>
    keeps_bind (keeps_pendingLoad _) fun _ => keeps_pure _)
theorem keeps_execStb (off : BitVec 3) (t : MemType) (ti base r : Reg) : KeepsNext (execStb off t ti base r) :=
  keeps_issue (keeps_bind (keeps_rd _) fun _ => keeps_bind (keeps_rd _) fun _ => keeps_bind (keeps_rd _) fun _ =>
    keeps_bind (keeps_requireOperand _) fun _ => keeps_bind (keeps_bayTarget _ _) fun _ => keeps_bind (keeps_checkWin _ _ _ _ _) fun _ =>
    keeps_bind (keeps_remoteStore _ _ _) fun _ => keeps_pure _)
theorem keeps_execLdg (scale : BitVec 3) (t : MemType) (o res d : Reg) : KeepsNext (execLdg scale t o res d) :=
  keeps_issue (keeps_bind (keeps_rd _) fun _ => keeps_bind (keeps_rd _) fun _ => keeps_bind (keeps_globalPath _ _ _ _) fun _ =>
    keeps_bind (keeps_globalLoad _ _ _ _ _ _) fun _ => keeps_pure _)
theorem keeps_execStg (scale : BitVec 3) (t : MemType) (o res r : Reg) : KeepsNext (execStg scale t o res r) :=
  keeps_issue (keeps_bind (keeps_rd _) fun _ => keeps_bind (keeps_rd _) fun _ => keeps_bind (keeps_rd _) fun _ =>
    keeps_bind (keeps_globalPath _ _ _ _) fun _ => keeps_bind (keeps_globalStore _ _) fun _ => keeps_pure _)
theorem keeps_execCinvAll : KeepsNext execCinvAll :=
  keeps_issue (keeps_bind keeps_invalidateMine fun _ => keeps_pure _)
theorem keeps_execMsgSend (rep : Bool) (b a : Reg) : KeepsNext (execMsgSend rep b a) :=
  keeps_issue (keeps_bind (keeps_rd _) fun _ => keeps_bind (keeps_rd _) fun _ => keeps_bind (keeps_requireOperand _) fun _ =>
    keeps_bind (keeps_payloadWord _ _) fun _ => keeps_bind (keeps_targetTile _) fun _ => keeps_bind (keeps_bodyOwn _ _) fun _ =>
    keeps_bind keeps_get fun _ => keeps_bind (keeps_appendOut _ _) fun _ => keeps_pure _)
theorem keeps_execMsgSendn (k : BitVec 3) (rep : Bool) (a : Reg) : KeepsNext (execMsgSendn k rep a) :=
  keeps_issue (keeps_bind (keeps_rd _) fun _ => keeps_bind (keeps_requireOperand _) fun _ => keeps_bind (keeps_targetTile _) fun _ =>
    keeps_bind keeps_get fun _ => keeps_bind (keeps_appendOut _ _) fun _ => keeps_pure _)
theorem keeps_execMsgSpawn (a : Reg) : KeepsNext (execMsgSpawn a) :=
  keeps_issue (keeps_bind (keeps_rd _) fun _ => keeps_bind (keeps_requireOperand _) fun _ => keeps_bind (keeps_targetTile _) fun _ =>
    keeps_bind keeps_get fun _ => keeps_bind (keeps_appendOut _ _) fun _ => keeps_pure _)
theorem keeps_execMsgHost (b : Reg) : KeepsNext (execMsgHost b) :=
  keeps_issue (keeps_bind (keeps_rd _) fun _ => keeps_bind (keeps_payloadWord _ _) fun _ => keeps_bind (keeps_bodyOwn _ _) fun _ =>
    keeps_bind keeps_get fun _ => keeps_bind (keeps_appendOut _ _) fun _ => keeps_pure _)
theorem keeps_execMsgPut (rep : Bool) (b a : Reg) : KeepsNext (execMsgPut rep b a) :=
  keeps_issue (keeps_bind (keeps_rd _) fun _ => keeps_bind (keeps_rd _) fun _ => keeps_bind (keeps_requireOperand _) fun _ =>
    keeps_bind (keeps_payloadWord _ _) fun _ => keeps_bind (keeps_targetTile _) fun _ => keeps_bind (keeps_bodyOwn _ _) fun _ =>
    keeps_bind keeps_get fun _ => keeps_bind (keeps_appendOut _ _) fun _ => keeps_pure _)
theorem keeps_execMsgArg (b a : Reg) : KeepsNext (execMsgArg b a) :=
  keeps_issueValue (keeps_bind (keeps_rd _) fun _ => keeps_bind (keeps_requireOperand _) fun _ => keeps_bind keeps_get fun _ =>
    keeps_bind (keeps_check _ _ _ _) fun _ => keeps_pure _)
theorem keeps_execMsgHdr (b a : Reg) : KeepsNext (execMsgHdr b a) :=
  keeps_issueValue (keeps_bind (keeps_rd _) fun _ => keeps_bind (keeps_requireOperand _) fun _ => keeps_bind keeps_get fun _ => keeps_pure _)
theorem keeps_execMsgMask (c : BitVec 6) (b : Reg) : KeepsNext (execMsgMask c b) :=
  keeps_issue (keeps_bind (keeps_rd _) fun _ => keeps_bind (keeps_requireOperand _) fun _ => keeps_bind keeps_get fun _ =>
    keeps_bind (keeps_requireOperand _) fun _ => keeps_bind (keeps_update_mem fun s => by simp) fun _ => keeps_pure _)
theorem keeps_execBarArr (a : Reg) : KeepsNext (execBarArr a) :=
  keeps_issue (keeps_bind (keeps_rd _) fun _ => keeps_bind keeps_get fun _ => keeps_bind (keeps_requireOperand _) fun _ =>
    keeps_bind (keeps_appendOut _ _) fun _ => keeps_pure _)
theorem keeps_execGrpRank (b a : Reg) : KeepsNext (execGrpRank b a) :=
  keeps_issueValue (keeps_bind (keeps_rd _) fun _ => keeps_bind (keeps_requireOperand _) fun _ => keeps_bind keeps_get fun _ => keeps_pure _)
theorem keeps_execGrpSize (b a : Reg) : KeepsNext (execGrpSize b a) :=
  keeps_issueValue (keeps_bind (keeps_rd _) fun _ => keeps_bind keeps_get fun _ => keeps_bind (keeps_requireOperand _) fun _ => keeps_pure _)
theorem keeps_execGrpTile (b a : Reg) : KeepsNext (execGrpTile b a) :=
  keeps_issueValue (keeps_bind (keeps_rd _) fun _ => keeps_bind keeps_get fun _ => keeps_bind (keeps_requireOperand _) fun _ => keeps_pure _)
theorem keeps_execGrpSend (rep : Bool) (b a : Reg) : KeepsNext (execGrpSend rep b a) :=
  keeps_issue (keeps_bind (keeps_rd _) fun _ => keeps_bind (keeps_rd _) fun _ => keeps_bind keeps_get fun _ =>
    keeps_bind (keeps_requireOperand _) fun _ => keeps_bind (keeps_payloadWord _ _) fun _ => keeps_bind (keeps_bodyOwn _ _) fun _ =>
    keeps_bind (keeps_appendOut _ _) fun _ => keeps_pure _)
theorem keeps_execMxLdb (a : Reg) : KeepsNext (execMxLdb a) :=
  keeps_issue (keeps_bind (keeps_rd _) fun _ => keeps_bind (keeps_mxIssue _ _ _ _ _ _) fun _ => keeps_pure _)
theorem keeps_execMxMma (notify : Bool) (c : BitVec 6) (b a : Reg) : KeepsNext (execMxMma notify c b a) :=
  keeps_issue (keeps_bind (keeps_rd _) fun _ => keeps_bind (keeps_rd _) fun _ => keeps_bind keeps_get fun _ =>
    keeps_bind (keeps_mxIssue _ _ _ _ _ _) fun _ => keeps_pure _)
theorem keeps_execMxZero (notify : Bool) (c : BitVec 6) (b : Reg) : KeepsNext (execMxZero notify c b) :=
  keeps_issue (keeps_bind (keeps_rd _) fun _ => keeps_bind (keeps_mxIssue _ _ _ _ _ _) fun _ => keeps_pure _)
theorem keeps_execMxRd (notify : Bool) (c : BitVec 6) (b a : Reg) : KeepsNext (execMxRd notify c b a) :=
  keeps_issue (keeps_bind (keeps_rd _) fun _ => keeps_bind (keeps_rd _) fun _ => keeps_bind keeps_get fun _ =>
    keeps_bind (keeps_mxIssue _ _ _ _ _ _) fun _ => keeps_pure _)
theorem keeps_execMxLdacc (notify : Bool) (c : BitVec 6) (b a : Reg) : KeepsNext (execMxLdacc notify c b a) :=
  keeps_issue (keeps_bind (keeps_rd _) fun _ => keeps_bind (keeps_rd _) fun _ => keeps_bind (keeps_mxIssue _ _ _ _ _ _) fun _ => keeps_pure _)
theorem keeps_execMxCfg (a : Reg) : KeepsNext (execMxCfg a) :=
  keeps_issue (keeps_bind (keeps_rd _) fun _ => keeps_bind (keeps_mxIssue _ _ _ _ _ _) fun _ => keeps_pure _)
theorem keeps_execCpCancel (c : BitVec 4) (b a : Reg) : KeepsNext (execCpCancel c b a) :=
  keeps_issue (keeps_bind (keeps_rd _) fun _ => keeps_bind (keeps_rd _) fun _ => keeps_bind keeps_get fun _ =>
    keeps_bind (keeps_requireOperand _) fun _ => keeps_bind (keeps_update_mem fun s => by simp) fun _ =>
    keeps_bind keeps_markNonReplayable fun _ => keeps_pure _)
theorem keeps_execCpCfg (c : BitVec 4) (b a : Reg) : KeepsNext (execCpCfg c b a) :=
  keeps_issueValue (keeps_bind (keeps_rd _) fun _ => keeps_bind keeps_get fun _ => keeps_bind (keeps_requireOperand _) fun _ =>
    keeps_bind (keeps_requireOperand _) fun _ => keeps_bind (keeps_update_mem fun s => by simp) fun _ => keeps_pure _)
theorem keeps_execCpCrec (c : BitVec 4) (b a : Reg) : KeepsNext (execCpCrec c b a) :=
  keeps_issueValue (keeps_bind (keeps_rd _) fun _ => keeps_bind keeps_get fun _ => keeps_bind (keeps_requireOperand _) fun _ =>
    keeps_bind (keeps_requireOperand _) fun _ => keeps_pure _)
theorem keeps_execTmArm (b : Reg) : KeepsNext (execTmArm b) :=
  keeps_issue (keeps_bind (keeps_rd _) fun _ => keeps_bind (keeps_tmWord _ _ _) fun _ => keeps_bind (keeps_targetTile _) fun _ =>
    keeps_bind keeps_get fun _ => keeps_bind (keeps_tmCheck _ _ _) fun _ => keeps_bind (keeps_update_mem fun s => by simp) fun _ =>
    keeps_bind keeps_markNonReplayable fun _ => keeps_pure _)
theorem keeps_execReqSub (b a : Reg) : KeepsNext (execReqSub b a) :=
  keeps_reqValue _ _ (fun _ => keeps_bind (keeps_recordAddr _ _) fun _ => keeps_bind (keeps_readOwn _ _) fun _ =>
    keeps_bind keeps_reqTable fun _ => keeps_bind keeps_get fun _ => keeps_bind (keeps_setTable _ _) fun _ =>
    keeps_bind keeps_markNonReplayable fun _ => keeps_pure _)
theorem keeps_execReqStep (a : Reg) : KeepsNext (execReqStep a) :=
  keeps_issue (keeps_bind (keeps_rd _) fun _ => keeps_bind keeps_get fun _ => keeps_bind (keeps_requireOperand _) fun _ =>
    keeps_bind (keeps_appendOut _ _) fun _ => keeps_pure _)
theorem keeps_execReqRd (b a : Reg) : KeepsNext (execReqRd b a) :=
  keeps_reqValue _ _ (fun _ => keeps_bind (keeps_requireOperand _) fun _ => keeps_bind (keeps_recordAddr _ _) fun _ =>
    keeps_bind keeps_reqTable fun _ => keeps_bind (keeps_storeOwn _ _) fun _ => keeps_pure _)
theorem keeps_execReqCommit (b a : Reg) : KeepsNext (execReqCommit b a) :=
  keeps_reqValue _ _ (fun _ => keeps_bind (keeps_requireOperand _) fun _ => keeps_bind (keeps_readList _ _) fun _ =>
    keeps_bind keeps_reqTable fun _ => keeps_bind keeps_get fun _ => keeps_bind (keeps_setTable _ _) fun _ => keeps_pure _)
theorem keeps_execReqFault (a : Reg) : KeepsNext (execReqFault a) :=
  keeps_issue (keeps_bind (keeps_rd _) fun _ => keeps_bind (keeps_requireOperand _) fun _ => keeps_bind (keeps_appendOut _ _) fun _ => keeps_pure _)
theorem keeps_execReqCfgStopset (b a : Reg) : KeepsNext (execReqCfgStopset b a) :=
  keeps_reqValue _ _ (fun _ => keeps_bind (keeps_requireOperand _) fun _ => keeps_bind (keeps_readList _ _) fun _ =>
    keeps_bind keeps_reqTable fun _ => keeps_bind (keeps_setTable _ _) fun _ => keeps_bind keeps_markNonReplayable fun _ => keeps_pure _)
theorem keeps_execReqCancel (free : Bool) (b a : Reg) : KeepsNext (execReqCancel free b a) :=
  keeps_reqValue _ _ (fun _ => keeps_bind (keeps_requireOperand _) fun _ => keeps_bind keeps_reqTable fun _ =>
    keeps_bind (keeps_setTable _ _) fun _ => keeps_bind keeps_markNonReplayable fun _ => keeps_pure _)
theorem keeps_execWktSeize (b a : Reg) : KeepsNext (execWktSeize b a) :=
  keeps_issue (keeps_bind (keeps_rd _) fun _ => keeps_bind (keeps_rd _) fun _ => keeps_bind keeps_get fun _ =>
    keeps_bind (keeps_requireOperand _) fun _ => keeps_bind (keeps_releaseWait _ _ _) fun _ =>
    keeps_bind (keeps_update_mem fun s => by simp) fun _ => keeps_bind keeps_markNonReplayable fun _ => keeps_pure _)
theorem keeps_execWktStat (b a : Reg) : KeepsNext (execWktStat b a) :=
  keeps_issueValue (keeps_bind (keeps_rd _) fun _ => keeps_bind (keeps_requireOperand _) fun _ => keeps_bind keeps_get fun _ => keeps_pure _)
theorem keeps_execExtW (n : BitVec 3) (a : Reg) : KeepsNext (execExtW n a) :=
  keeps_issue (keeps_bind (keeps_rd _) fun _ => keeps_bind (keeps_extWrite _ _) fun _ => keeps_pure _)
theorem keeps_execExtGet (n : BitVec 3) (a : Reg) : KeepsNext (execExtGet n a) :=
  keeps_issueValue (keeps_bind keeps_get fun _ => keeps_pure _)
theorem keeps_execExtLix (n : BitVec 3) (imm : BitVec 16) : KeepsNext (execExtLix n imm) :=
  keeps_issue (keeps_bind (keeps_extWrite _ _) fun _ => keeps_pure _)
theorem keeps_execExtLixs (n : BitVec 3) (imm : BitVec 16) : KeepsNext (execExtLixs n imm) :=
  keeps_issue (keeps_bind keeps_get fun _ => keeps_bind (keeps_extWrite _ _) fun _ => keeps_pure _)
theorem keeps_execShpLd (n : BitVec 4) (b : Reg) : KeepsNext (execShpLd n b) :=
  keeps_issue (keeps_bind (keeps_rd _) fun _ => keeps_bind (keeps_recordAddr _ _) fun _ => keeps_bind (keeps_readOwn _ _) fun _ =>
    keeps_bind (keeps_update_mem fun s => by simp) fun _ => keeps_pure _)
theorem keeps_execShpSt (n : BitVec 4) (b : Reg) : KeepsNext (execShpSt n b) :=
  keeps_issue (keeps_bind (keeps_rd _) fun _ => keeps_bind (keeps_recordAddr _ _) fun _ => keeps_bind keeps_get fun _ =>
    keeps_bind (keeps_storeOwn _ _) fun _ => keeps_pure _)
theorem keeps_execShpSet (n : BitVec 4) (f : BitVec 6) (a : Reg) : KeepsNext (execShpSet n f a) :=
  keeps_issue (keeps_bind (keeps_rd _) fun _ => keeps_bind (keeps_requireOperand _) fun _ =>
    keeps_bind (keeps_update_mem fun s => by simp) fun _ => keeps_pure _)
theorem keeps_execShpGet (n : BitVec 4) (f : BitVec 6) (a : Reg) : KeepsNext (execShpGet n f a) :=
  keeps_issueValue (keeps_bind keeps_get fun _ => keeps_pure _)
theorem keeps_execBndWr (b a : Reg) : KeepsNext (execBndWr b a) :=
  keeps_issue (keeps_bind (keeps_rd _) fun _ => keeps_bind (keeps_rd _) fun _ => keeps_bind keeps_get fun _ =>
    keeps_bind (keeps_requireOperand _) fun _ => keeps_bind (keeps_update_mem fun s => by simp) fun _ => keeps_pure _)
theorem keeps_execBndRd (a d : Reg) : KeepsNext (execBndRd a d) :=
  keeps_issueValue (keeps_bind (keeps_rd _) fun _ => keeps_bind keeps_get fun _ => keeps_bind (keeps_requireOperand _) fun _ => keeps_pure _)
theorem keeps_execBndClr (a : Reg) : KeepsNext (execBndClr a) :=
  keeps_issue (keeps_bind (keeps_rd _) fun _ => keeps_bind keeps_get fun _ => keeps_bind (keeps_requireOperand _) fun _ =>
    keeps_bind (keeps_update_mem fun s => by simp) fun _ => keeps_pure _)
theorem keeps_execLvStat (b d : Reg) : KeepsNext (execLvStat b d) :=
  keeps_issueValue (keeps_bind (keeps_rd _) fun _ => keeps_bind (keeps_requireOperand _) fun _ => keeps_bind keeps_get fun _ => keeps_pure _)
theorem keeps_execCompactLix (imm : BitVec 6) (d : CReg) : KeepsNext (execCompactLix imm d) :=
  keeps_issueValue (keeps_pure _)
theorem keeps_execCompactJ (imm : BitVec 10) : KeepsNext (execCompactJ imm) :=
  keeps_issue (keeps_bind keeps_address fun _ => keeps_pure _)
theorem keeps_execCompactNop : KeepsNext execCompactNop :=
  keeps_issue (keeps_pure _)
theorem keeps_execPfx (fmt : BitVec 4) (rnd : BitVec 3) (sat : Bool) (gs : BitVec 2) : KeepsNext (execPfx fmt rnd sat gs) :=
  keeps_issue (keeps_bind (keeps_update_mem fun s => by simp) fun _ => keeps_pure _)
theorem keeps_execCompactMove (b d : CReg) : KeepsNext (execCompactMove b d) := keeps_issueValue (keeps_rd _)

/-! ### Loops, fences and ordered accesses -/

theorem keeps_execLp (len : BitVec 12) (a : Reg) : KeepsNext (execLp len a) := by
  intro s t h e
  refine keeps_issue (keeps_bind (keeps_rd _) fun _ => keeps_bind keeps_address fun _ => ?_) s t h e
  exact keeps_ite (fun _ => keeps_pure _) fun _ => keeps_bind (keeps_update_mem fun s => by simp) fun _ => keeps_pure _
theorem keeps_execTret : KeepsNext execTret := by
  refine keeps_issue (keeps_bind keeps_get fun _ => keeps_bind (keeps_check _ _ _ _) fun _ => keeps_bind (keeps_requireOperand _) fun _ => ?_)
  exact keeps_bind (keeps_update_mem fun _ => rfl) fun _ => keeps_pure _
theorem keeps_execFence (c : Scope) (vec : Bool) (k : FenceKind) : KeepsNext (execFence c vec k) := by
  refine keeps_issue ?_
  refine keeps_when keeps_vectorIdle fun _ => keeps_when (keeps_acquireWait _) fun _ => ?_
  exact keeps_when (keeps_releaseWait _ _ _) fun _ => keeps_when keeps_invalidateMine fun _ => keeps_pure _
theorem keeps_execLdAcq (sys : Bool) (t : MemType) (a d : Reg) : KeepsNext (execLdAcq sys t a d) := by
  refine keeps_issue (keeps_bind (keeps_rd _) fun _ => keeps_bind keeps_get fun s => ?_)
  split
  · exact keeps_illegalOperand
  · refine keeps_bind (keeps_requireOperand _) fun _ => keeps_when (keeps_spadFault _ _ _) fun _ => ?_
    refine keeps_bind (keeps_checkWin _ _ _ _ _) fun _ => keeps_bind (keeps_readOwn _ _) fun _ => keeps_bind (keeps_acquireWait _) fun _ => ?_
    exact keeps_bind (keeps_wrPush _ _) fun _ => keeps_pure _
  · refine keeps_bind (keeps_requireOperand _) fun _ => keeps_when (keeps_spadFault _ _ _) fun _ => keeps_bind (keeps_bayTarget _ _) fun _ => ?_
    refine keeps_bind (keeps_checkWin _ _ _ _ _) fun _ => keeps_bind (keeps_acquireWait _) fun _ => keeps_bind keeps_get fun _ => ?_
    refine keeps_bind (keeps_waitUntil _ _) fun _ => keeps_bind keeps_freshId fun _ => keeps_bind (keeps_update_mem fun s => by simp) fun _ => ?_
    exact keeps_bind (keeps_pendingLoad _) fun _ => keeps_pure _
  · refine keeps_bind keeps_isolated fun _ => keeps_bind (keeps_check _ _ _ _) fun _ => keeps_bind (keeps_globalPath _ _ _ _) fun _ => ?_
    exact keeps_bind (keeps_acquireWait _) fun _ => keeps_bind (keeps_globalLoad _ _ _ _ _ _) fun _ => keeps_pure _
theorem keeps_execStRel (sys : Bool) (t : MemType) (a r : Reg) : KeepsNext (execStRel sys t a r) := by
  refine keeps_issue (keeps_bind (keeps_rd _) fun _ => keeps_bind (keeps_rd _) fun _ => keeps_bind keeps_get fun s => ?_)
  dsimp only
  split
  · exact keeps_illegalOperand
  · refine keeps_bind (keeps_requireOperand _) fun _ => keeps_when (keeps_spadFault _ _ _) fun _ => keeps_bind (keeps_checkWin _ _ _ _ _) fun _ => ?_
    exact keeps_bind (keeps_releaseWait _ _ _) fun _ => keeps_bind (keeps_storeOwn _ _) fun _ => keeps_pure _
  · refine keeps_bind (keeps_requireOperand _) fun _ => keeps_when (keeps_spadFault _ _ _) fun _ => keeps_bind (keeps_bayTarget _ _) fun _ => ?_
    refine keeps_bind (keeps_checkWin _ _ _ _ _) fun _ => keeps_bind (keeps_releaseWait _ _ _) fun _ => ?_
    exact keeps_bind (keeps_remoteStore _ _ _) fun _ => keeps_pure _
  · refine keeps_bind keeps_isolated fun _ => keeps_bind (keeps_check _ _ _ _) fun _ => keeps_bind (keeps_globalPath _ _ _ _) fun _ => ?_
    refine keeps_bind (keeps_releaseWait _ _ _) fun _ => keeps_bind (keeps_globalStore _ _) fun _ => ?_
    exact keeps_bind keeps_invalidateMine fun _ => keeps_pure _
theorem keeps_execCinv (a : Reg) : KeepsNext (execCinv a) := by
  refine keeps_issue (keeps_bind (keeps_rd _) fun _ => ?_)
  split
  · exact keeps_bind (keeps_globalPath _ _ _ _) fun _ => keeps_bind (keeps_update_mem fun s => by simp) fun _ => keeps_pure _
  · exact keeps_illegalOperand

/-! ### The matrix engine, combines and the Transom -/

theorem keeps_execMxBay (notify : Bool) (c : BitVec 6) (b a : Reg) : KeepsNext (execMxBay notify c b a) := by
  refine keeps_issue (keeps_bind (keeps_rd _) fun _ => keeps_bind (keeps_rd _) fun _ => keeps_bind keeps_get fun s => ?_)
  extract_lets -underBinder sh
  refine keeps_bind (keeps_requireOperand _) fun _ => ?_
  extract_lets -underBinder enter
  have hj (u : Unit) : Keeps (enter u) := keeps_bind (keeps_checkOut _) fun _ => keeps_bind keeps_freshId fun _ =>
    keeps_bind (keeps_appendOut _ _) fun _ => keeps_pure _
  split
  · exact keeps_bind (keeps_spadFault _ _ _) hj
  · exact hj ()
theorem keeps_execMxStat (b a : Reg) : KeepsNext (execMxStat b a) := by
  refine keeps_issueValue (keeps_bind (keeps_rd _) fun _ => keeps_bind (keeps_requireOperand _) fun _ => keeps_bind keeps_get fun s => ?_)
  exact keeps_bind (keeps_waitUntil _ _) fun _ => keeps_when (keeps_update_mem fun s => by simp) fun _ => keeps_pure _
theorem keeps_execCmbLgc (op : LgcOp) (b a : Reg) : KeepsNext (execCmbLgc op b a) := by
  cases op with
  | and => exact keeps_cmbForm _ _ _ _
  | or => exact keeps_cmbForm _ _ _ _
  | xor => exact keeps_cmbForm _ _ _ _
theorem keeps_execTmPub (now : Bool) (b : Reg) : KeepsNext (execTmPub now b) := by
  refine keeps_issue (keeps_bind (keeps_rd _) fun _ => keeps_bind (keeps_tmWord _ _ _) fun _ => keeps_bind keeps_get fun s => ?_)
  refine keeps_bind (keeps_checkWin _ _ _ _ _) fun _ => keeps_bind (keeps_tmCheck _ _ _) fun _ => keeps_bind (keeps_tmCheck _ _ _) fun _ => ?_
  refine keeps_bind (keeps_ownWait _ _) fun _ => keeps_bind (keeps_update_mem fun s => by simp) fun _ => keeps_bind keeps_get fun u => ?_
  refine keeps_ite (fun _ => ?_) fun _ => keeps_bind (keeps_appendOut _ _) fun _ => keeps_pure _
  exact keeps_bind (keeps_releaseWait _ _ _) fun _ => keeps_bind (keeps_update_mem fun s => by simp) fun _ =>
    keeps_bind keeps_markNonReplayable fun _ => keeps_pure _
theorem keeps_execTmCfg (r : Bool) (b a : Reg) : KeepsNext (execTmCfg r b a) := by
  refine keeps_issueValue (keeps_bind (keeps_rd _) fun _ => keeps_bind (keeps_tmWord _ _ _) fun _ => keeps_bind keeps_get fun s => ?_)
  refine keeps_ite (fun _ => ?_) fun _ => ?_
  · refine keeps_bind (keeps_checkWin _ _ _ _ _) fun _ => keeps_bind (keeps_update_mem fun s => by simp) fun _ => ?_
    refine keeps_bind (keeps_storeOwn _ _) fun _ => keeps_bind (keeps_update_mem fun s => ?_) fun _ => keeps_pure _
    split <;> rfl
  · refine keeps_bind (keeps_checkWin _ _ _ _ _) fun _ => keeps_bind (keeps_readOwn _ _) fun _ => ?_
    refine keeps_bind (keeps_update_mem fun s => by simp) fun _ => keeps_ite (fun _ => ?_) fun _ => keeps_pure _
    exact keeps_bind (keeps_update_mem fun s => by simp) fun _ => keeps_bind keeps_markNonReplayable fun _ => keeps_pure _

/-! ### Requests, timers and the Wicket -/

theorem keeps_execReqCfgRows (b a : Reg) : KeepsNext (execReqCfgRows b a) := by
  refine keeps_reqValue _ _ fun w => keeps_bind (keeps_requireOperand _) fun _ => keeps_bind keeps_reqTable fun _ => ?_
  refine keeps_bind keeps_markNonReplayable fun _ => keeps_ite (fun _ => keeps_pure _) fun _ => ?_
  exact keeps_bind (keeps_setTable _ _) fun _ => keeps_pure _
theorem keeps_execTmrSet (b a : Reg) : KeepsNext (execTmrSet b a) := by
  intro s t h e
  refine keeps_issue (keeps_bind (keeps_rd _) fun _ => keeps_bind (keeps_rd _) fun _ => keeps_bind (keeps_requireOperand _) fun _ => ?_) s t h e
  refine keeps_bind keeps_get fun _ => keeps_bind (keeps_requireOperand _) fun _ => ?_
  exact keeps_bind (keeps_update_mem fun s => by simp) fun _ => keeps_pure _
theorem keeps_execTmrRd (b a : Reg) : KeepsNext (execTmrRd b a) := fun s t h e =>
  keeps_issueValue (keeps_bind (keeps_rd _) fun _ => keeps_bind (keeps_requireOperand _) fun _ => keeps_bind keeps_get fun _ =>
    keeps_pure _) s t h e
theorem keeps_execWktRel (a : Reg) : KeepsNext (execWktRel a) := by
  intro s t h e
  refine keeps_issue (keeps_bind (keeps_rd _) fun _ => keeps_bind keeps_get fun _ => keeps_bind (keeps_requireOperand _) fun _ => ?_) s t h e
  exact keeps_bind (keeps_releaseWait _ _ _) fun _ => keeps_bind (keeps_update_mem fun s => by simp) fun _ =>
    keeps_bind keeps_markNonReplayable fun _ => keeps_pure _
theorem keeps_execRecSlice (i : BitVec 6) (b a : Reg) : KeepsNext (execRecSlice i b a) := by
  refine keeps_issueValue (keeps_bind (keeps_rd _) fun _ => keeps_bind (keeps_requireOperand _) fun _ => keeps_bind keeps_get fun s => ?_)
  refine keeps_bind (keeps_checkWin _ _ _ _ _) fun _ => keeps_bind (keeps_readOwn _ _) fun _ => ?_
  refine keeps_when (keeps_trapStop _) fun _ => keeps_bind (keeps_requireOperand _) fun _ => ?_
  exact keeps_bind (keeps_storeOwn _ _) fun _ => keeps_pure _

/-! ### Error queues, resources, leave and the system core -/

theorem keeps_execEqPop (b d : Reg) : KeepsNext (execEqPop b d) := by
  refine keeps_issueValue (keeps_bind (keeps_rd _) fun _ => keeps_bind (keeps_requireOperand _) fun _ => keeps_bind keeps_get fun s => ?_)
  refine keeps_bind (keeps_checkWin _ _ _ _ _) fun _ => ?_
  have hj (v : Word) : Keeps (do markNonReplayable; pure v : Exec Word) := keeps_bind keeps_markNonReplayable fun _ => keeps_pure _
  split
  · exact keeps_bind (keeps_pure _) hj
  · exact keeps_bind (keeps_storeOwn _ _) fun _ => keeps_bind (keeps_update_mem fun s => by simp) fun _ => keeps_bind (keeps_pure _) hj
theorem keeps_execResWr (b a d : Reg) : KeepsNext (execResWr b a d) := by
  refine keeps_issueValue (keeps_bind (keeps_rd _) fun x => keeps_bind (keeps_rd _) fun ea => keeps_bind keeps_get fun s => ?_)
  split
  · exact keeps_bind (keeps_waitUntil _ _) fun _ => keeps_bind (keeps_update_mem fun s => by simp) fun _ => keeps_pure _
  · refine keeps_bind (keeps_recordAddr _ _) fun _ => keeps_bind (keeps_check _ _ _ _) fun _ => keeps_bind (keeps_ownWait _ _) fun _ => ?_
    dsimp only
    split
    · exact keeps_trap _ _ _
    · refine keeps_stop fun u hu => ?_
      rw [safe_iff, mem_modAct]
      exact canonical_resStore (by simpa using safe_iff.1 hu) _ _
theorem keeps_execResRd (b a : Reg) : KeepsNext (execResRd b a) := by
  refine keeps_issue (keeps_bind (keeps_rd _) fun _ => keeps_bind (keeps_rd _) fun _ => keeps_bind (keeps_recordAddr _ _) fun _ => ?_)
  refine keeps_bind keeps_get fun _ => keeps_bind (keeps_check _ _ _ _) fun _ => keeps_bind (keeps_update_mem fun s => by simp) fun _ => ?_
  exact keeps_bind (keeps_keeping (fun s => by simp) (keeps_storeOwn _ _)) fun _ => keeps_pure _
theorem keeps_execWearRd (b d : Reg) : KeepsNext (execWearRd b d) :=
  keeps_issueValue (keeps_bind (keeps_rd _) fun _ => keeps_bind (keeps_requireOperand _) fun _ => keeps_bind keeps_get fun _ => keeps_pure _)
theorem keeps_execLvHold (a : Reg) : KeepsNext (execLvHold a) := by
  refine keeps_issue (keeps_bind (keeps_rd _) fun _ => keeps_bind keeps_get fun s => keeps_ite (fun _ => ?_) fun _ => ?_)
  · exact keeps_bind (keeps_update_mem fun s => by simp) fun _ => keeps_pure _
  · refine keeps_ite (fun _ => keeps_wait _) fun _ => keeps_bind (keeps_requireOperand _) fun _ => keeps_ite (fun _ => ?_) fun _ => ?_
    · exact keeps_bind (keeps_update_mem fun s => by simp) fun _ => keeps_pure _
    · exact keeps_waitIn _ fun s => by simp
theorem keeps_execLvDrop : KeepsNext execLvDrop :=
  keeps_issue (keeps_bind (keeps_update_mem fun _ => mem_ite rfl (mem_dropHold _ _ _ _)) fun _ => keeps_pure _)
theorem keeps_execLvShare (b a d : Reg) : KeepsNext (execLvShare b a d) := by
  refine keeps_issueValue (keeps_bind (keeps_rd _) fun _ => keeps_bind (keeps_rd _) fun _ => keeps_bind (keeps_privileged _) fun _ => ?_)
  exact keeps_when (keeps_update_mem fun s => by simp) fun _ => keeps_pure _
theorem keeps_execPartMk (a d : Reg) : KeepsNext (execPartMk a d) := by
  refine keeps_issueValue (keeps_bind (keeps_rd _) fun _ => keeps_bind (keeps_privileged _) fun _ => keeps_ite (fun _ => keeps_pure _) fun _ => ?_)
  refine keeps_bind keeps_get fun _ => keeps_bind (keeps_checkWin _ _ _ _ _) fun _ => keeps_bind (keeps_readOwn _ _) fun _ => ?_
  exact keeps_get_bind fun s hs => keeps_bind (keeps_update fun _ _ => canonical_of_mem (mem_partMk s _) hs) fun _ => keeps_pure _
theorem keeps_execPartFree (a d : Reg) : KeepsNext (execPartFree a d) :=
  keeps_issueValue (keeps_bind (keeps_rd _) fun _ => keeps_bind (keeps_privileged _) fun _ => keeps_runSys keeps_sysFree _ _)
theorem keeps_execIllegalInstruction (w : BitVec 32) : KeepsNext (execIllegalInstruction w) := by
  intro s t h e
  unfold execIllegalInstruction at e
  split at e
  · cases e
  · exact stopped_safe (x := .trap _) h trivial e

end Sys2Proof.Machine
end

section
/-! Every event keeps the memory's canonical form. -/

namespace Sys2Proof.Machine
open Sys2Proof

theorem keeps_execControlEdge : KeepsNext execControlEdge := keeps_leads fun _ h => leads_controlEdge h
theorem keeps_execDoneRetire (t : Nat) (c : Fin 8) : KeepsNext (execDoneRetire t c) := keeps_leads fun _ h => leads_doneRetire h _ _
theorem keeps_execVectorStart (t : Nat) (c : Fin 8) : KeepsNext (execVectorStart t c) := keeps_leads fun _ h => fun _ e => canonical_vectorStart h e
theorem keeps_execResourceInvalidation (t : Nat) : KeepsNext (execResourceInvalidation t) := keeps_leads fun _ h => leads_invalidate h _
theorem keeps_execTranscendentalBurstEnd (t : Nat) : KeepsNext (execTranscendentalBurstEnd t) := keeps_leads fun _ h => leads_burstEnd h _
theorem keeps_execSliceAccess (n : Nat) : KeepsNext (execSliceAccess n) := keeps_leads fun _ h => leads_sliceStep h _
theorem keeps_execProbe (n : Nat) : KeepsNext (execProbe n) := keeps_leads fun _ h => leads_probeStep h _
theorem keeps_execLineFill (line : Nat) : KeepsNext (execLineFill line) := keeps_leads fun _ h => leads_lineFill h _
theorem keeps_execMessageArrival (n : Nat) : KeepsNext (execMessageArrival n) := keeps_leads fun _ h => leads_arrival h _
theorem keeps_execLeaveGrant (bay : Nat) : KeepsNext (execLeaveGrant bay) := keeps_leads fun _ h => leads_leaveGrant h _
theorem keeps_execReadPinEnd (n : Nat) : KeepsNext (execReadPinEnd n) := keeps_leads fun _ h => leads_pinEnd h _
theorem keeps_execTransomCommit (n : Nat) : KeepsNext (execTransomCommit n) := keeps_leads fun _ h => leads_commitSlot h _
theorem keeps_execTransomRequestAccept (n : Nat) : KeepsNext (execTransomRequestAccept n) := keeps_leads fun _ h => leads_acceptRequest h _
theorem keeps_execTransomStagingComplete (n : Nat) : KeepsNext (execTransomStagingComplete n) := keeps_leads fun _ h => leads_stagingComplete h _
theorem keeps_execReqStepOperation (n : Nat) : KeepsNext (execReqStepOperation n) := keeps_leads fun _ h => leads_reqOperation h _
theorem keeps_execKvOperation (n : Nat) : KeepsNext (execKvOperation n) := keeps_leads fun _ h => leads_kvOperation h _
theorem keeps_execCombineArrival (n : Nat) : KeepsNext (execCombineArrival n) := keeps_leads fun _ h => leads_combineArrive h _
theorem keeps_execHostPortAcceptance (fn : Fin 16) : KeepsNext (execHostPortAcceptance fn) := keeps_leads fun _ h => leads_acceptOutbound h _
theorem keeps_execHostChannelWrite (n : Nat) : KeepsNext (execHostChannelWrite n) := keeps_leads fun _ h => leads_hostChannelWrite h _
theorem keeps_execTimerEdge (t : Nat) : KeepsNext (execTimerEdge t) := keeps_leads fun _ h => leads_timerEvent h _
theorem keeps_execSeizeRequest (bay : Nat) : KeepsNext (execSeizeRequest bay) := keeps_leads fun _ h => leads_seizeRequest h _
theorem keeps_execForcedRelease (bay : Nat) : KeepsNext (execForcedRelease bay) := keeps_leads fun _ h => leads_forcedRelease h _
theorem keeps_execWicketRelease (bay : Nat) : KeepsNext (execWicketRelease bay) := keeps_leads fun _ h => leads_wicketRelease h _
theorem keeps_execWakeComplete : KeepsNext execWakeComplete := keeps_leads fun _ h => leads_wakeComplete h
theorem keeps_execSwapComplete (n : Nat) : KeepsNext (execSwapComplete n) := keeps_leads fun _ h => leads_swapComplete h _
theorem keeps_execShutterUnitEnd (n : Nat) : KeepsNext (execShutterUnitEnd n) := keeps_leads fun _ h => leads_shutterUnitEnd h _
theorem keeps_execShutterVacant (n : Nat) : KeepsNext (execShutterVacant n) := keeps_leads fun _ h => leads_shutterVacant h _
theorem keeps_execAdmission (n : Nat) : KeepsNext (execAdmission n) := keeps_leads fun _ h => leads_admission h _
theorem keeps_execSweep (n : Nat) : KeepsNext (execSweep n) := keeps_leads fun _ h => leads_sweep h _
theorem keeps_execScrub (a : FrameAct) : KeepsNext (execScrub a) := keeps_leads fun _ h => leads_frameStep h _ _
theorem keeps_execBoundTrap (t : Nat) (c : Fin 8) : KeepsNext (execBoundTrap t c) := keeps_leads fun _ h => leads_takeBoundTrap h _ _
theorem keeps_execMirrorInstall (h : BitVec 512) (d : MirrorData) : KeepsNext (execMirrorInstall h d) :=
  keeps_leads fun _ h => leads_installMirror h _ _ _
theorem keeps_execPubdb (fn : Fin 16) (v : BitVec 64) : KeepsNext (execPubdb fn v) := keeps_leads fun _ h => by simpa
theorem keeps_execGetdb (fn : Fin 16) (v : BitVec 64) : KeepsNext (execGetdb fn v) := keeps_leads fun _ h => by simpa
theorem keeps_execHostPostedWrite (fn : Fin 16) (a : Nat) (bs : List (BitVec 8)) : KeepsNext (execHostPostedWrite fn a bs) :=
  keeps_leads fun _ h => by simpa
theorem keeps_execSenddb (fn : Fin 16) : KeepsNext (execSenddb fn) := keeps_leads fun _ h => leads_senddb h _
theorem keeps_execEqpop (fn : Fin 16) : KeepsNext (execEqpop fn) := keeps_leads fun _ h => by simpa
theorem keeps_execBoot (ok : Bool) (measured : List (BitVec 8)) (tenant grant : BitVec 4) (record : Bool) :
    KeepsNext (execBoot ok measured tenant grant record) :=
  keeps_leads fun _ h => leads_boot h _ _ _ _ _
theorem keeps_execDeltaCommit (complete torn overfull : Bool) (lines : List (Nat × List (BitVec 8) × List Nat)) (timers : List (List Nat))
    (msgs : List QueuedMsg) : KeepsNext (execDeltaCommit complete torn overfull lines timers msgs) :=
  keeps_leads fun _ h => leads_deltaCommit h _ _ _ _ _ _
theorem keeps_execMonitorSample (w bti em : Nat) : KeepsNext (execMonitorSample w bti em) := keeps_leads fun _ h => leads_monitorSample h _ _ _
theorem keeps_execHeartbeat (role epoch _edge _dt : Nat) : KeepsNext (execHeartbeat role epoch _edge _dt) :=
  keeps_leads fun _ h => leads_heartbeat h _ _
theorem keeps_execQuoteRequest (nonce : BitVec 256) (mask : BitVec 8) : KeepsNext (execQuoteRequest nonce mask) :=
  keeps_leads fun _ h => leads_quote h _ _

/-! ### Activations, replies and port threads -/

theorem keeps_execAbort (t : Nat) (c : Fin 8) : KeepsNext (execAbort t c) := by
  refine keeps_leads fun s h => ?_
  dsimp only
  split
  · refine leads_ite (fun _ => leads_none) fun _ => leads_ite (fun _ => by simpa) fun _ => ?_
    exact leads_ite (fun _ => leads_none) fun _ => by simp [h]
  · exact leads_none
theorem keeps_execLoadReply (t : Nat) (c : Fin 8) : KeepsNext (execLoadReply t c) := by
  refine keeps_leads fun s h => ?_
  split
  · next u hu => exact leads_some.2 (leads_loadReply h _ _ _ u hu)
  · exact leads_loadReply h _ _ _
theorem keeps_execBudgetOverrun (t : Nat) (c : Fin 8) : KeepsNext (execBudgetOverrun t c) :=
  keeps_leads fun _ h => leads_ite (fun _ => by simpa) fun _ => leads_none
theorem keeps_execLeaveTimeout (t : Nat) (c : Fin 8) : KeepsNext (execLeaveTimeout t c) := by
  refine keeps_leads fun s h => ?_
  dsimp only
  split
  · exact leads_ite (fun _ => by simpa) fun _ => leads_none
  · exact leads_none
theorem keeps_execTlbMissRetry (t : Nat) (c : Fin 8) : KeepsNext (execTlbMissRetry t c) := by
  refine keeps_leads fun s h => ?_
  split
  · next u hu => exact leads_some.2 (leads_retryCtx h _ _ u hu)
  · exact leads_findSome (fun ch => leads_retryChan h t ch) _
theorem keeps_execPortThreadOperation (t : Nat) : KeepsNext (execPortThreadOperation t) := by
  refine keeps_leads fun s h => leads_portNext h t fun u o hu => ?_
  split
  · simp [hu]
  · simp [hu]
  · exact leads_none
theorem keeps_execPut (t : Nat) : KeepsNext (execPut t) := by
  refine keeps_leads fun s h => leads_portNext h t fun u o hu => ?_
  split
  · simp [hu]
  · exact leads_none
theorem keeps_execBarrierArrival (t : Nat) : KeepsNext (execBarrierArrival t) := by
  refine keeps_leads fun s h => leads_portNext h t fun u o hu => ?_
  split
  · simpa
  · exact leads_none
theorem keeps_execBinding (t : Nat) (c : Fin 8) : KeepsNext (execBinding t c) :=
  keeps_leads fun _ h => leads_bind fun _ _ => leads_ite (fun _ => by simpa) fun _ => leads_none

/-! ### The matrix engine -/

theorem keeps_execMxQueueEntry (t : Nat) : KeepsNext (execMxQueueEntry t) := keeps_leads fun _ h => leads_map fun _ _ => by simpa
theorem keeps_execMxBayMember (t : Nat) : KeepsNext (execMxBayMember t) := keeps_leads fun _ h => leads_map fun _ _ => by simpa
theorem keeps_execMxCommandStart (t : Nat) : KeepsNext (execMxCommandStart t) :=
  keeps_leads fun _ h => leads_bind fun _ _ => leads_map fun _ _ => canonical_mxStart h _ _ _
theorem keeps_execMxCommandComplete (t : Nat) : KeepsNext (execMxCommandComplete t) :=
  keeps_leads fun _ h => leads_bind fun _ _ => leads_map fun _ _ => by simpa
theorem keeps_execMxBayFold (t : Nat) : KeepsNext (execMxBayFold t) :=
  keeps_leads fun _ h => leads_map fun o _ => by simpa using canonical_bayFold h t o.cmd
theorem keeps_execBstoreRefill (t : Nat) : KeepsNext (execBstoreRefill t) :=
  keeps_leads fun _ h => leads_map fun _ _ => canonical_refillStep h _ _ _

/-! ### Transfers -/

theorem keeps_execStreamerSegment (n : Nat) : KeepsNext (execStreamerSegment n) := by
  refine keeps_leads fun s h => ?_
  split
  · refine leads_ite (fun _ => leads_some.2 ?_) fun _ => leads_none
    rw [mem_setTransfer]
    exact canonical_ite (fun _ => by simpa) fun _ => h
  · exact leads_none
theorem keeps_execStreamerCancel (n : Nat) : KeepsNext (execStreamerCancel n) := by
  refine keeps_leads fun s h => ?_
  split
  · split
    · exact leads_none
    · exact leads_none
    · exact leads_ite (fun _ => by simpa) fun _ => leads_none
  · exact leads_none
theorem keeps_execStreamerLine (n : Nat) : KeepsNext (execStreamerLine n) := by
  refine keeps_leads fun s h => ?_
  split
  · refine leads_ite (fun _ => leads_bind fun _ _ => leads_ite (fun _ => ?_) fun _ => leads_none) fun _ => leads_none
    exact leads_some.2 (canonical_servePiece h _ _ _)
  · exact leads_none
theorem keeps_execTransferEnd (n : Nat) : KeepsNext (execTransferEnd n) := by
  refine keeps_leads fun s h => ?_
  split
  · split
    · exact leads_some.2 (canonical_endTransfer h _ _ _)
    · exact leads_some.2 (canonical_endTransfer h _ _ _)
    · exact leads_none
  · exact leads_none

/-! ### The mailbox -/

theorem keeps_mailbox {m : String} {n : Nat} {f : State → Option (State × Nat)} (hf : ∀ s, Canonical s.mem → LeadsPair (f s)) :
    KeepsNext fun s => event m (mailbox n f s) := keeps_leads fun s h => leads_mailbox n (hf s h)
theorem leadsPair_mbArm {s : State} (h : Canonical s.mem) : LeadsPair s.mbArm := by
  unfold State.mbArm
  dsimp only
  refine leadsPair_ite (by simpa) (leadsPair_ite ?_ (leadsPair_ite (by simpa) (leadsPair_ite (by simpa) (by simp [h]))))
  exact leadsPair_ite (by simpa) (leadsPair_ite (by simp [h]) leadsPair_none)
theorem leadsPair_mbSleep {s : State} (h : Canonical s.mem) : LeadsPair s.mbSleep := by
  unfold State.mbSleep
  split
  · exact leadsPair_some.2 (canonical_ite (fun _ => canonical_enterSleep h) fun _ => h)
  · exact leadsPair_none
  · simpa
theorem leadsPair_mbSuspend {s : State} (h : Canonical s.mem) : LeadsPair s.mbSuspend := by
  unfold State.mbSuspend
  split
  · refine leadsPair_some.2 ?_
    split <;> simpa
  · exact leadsPair_none
  · simpa
theorem leadsPair_mbResume {s : State} (h : Canonical s.mem) : LeadsPair s.mbResume := by
  refine leadsPair_ite (leadsPair_some.2 ?_) leadsPair_none
  split <;> simpa
theorem keeps_execMbExecSystemInstruction : KeepsNext execMbExecSystemInstruction := keeps_mailbox fun _ h => leadsPair_some.2 (canonical_mbExec h)
theorem keeps_execMbSlotConfig : KeepsNext execMbSlotConfig := keeps_mailbox fun s h => by simpa
theorem keeps_execMbWicketArm : KeepsNext execMbWicketArm := by
  refine keeps_mailbox fun s h r hr => ?_
  obtain ⟨q, hq, e⟩ := Option.map_eq_some_iff.1 hr
  cases e
  simpa using leadsPair_mbArm h q hq
theorem keeps_execMbErrorArea : KeepsNext execMbErrorArea := keeps_mailbox fun s h => by simpa
theorem keeps_execMbPowerCap : KeepsNext execMbPowerCap := keeps_mailbox fun s h => by simpa
theorem keeps_execMbSleep : KeepsNext execMbSleep := keeps_mailbox fun _ h => leadsPair_mbSleep h
theorem keeps_execMbWake : KeepsNext execMbWake := keeps_mailbox fun s h => leadsPair_ite (by simpa) leadsPair_none
theorem keeps_execMbSuspend : KeepsNext execMbSuspend := keeps_mailbox fun _ h => leadsPair_mbSuspend h
theorem keeps_execMbResume : KeepsNext execMbResume := keeps_mailbox fun _ h => leadsPair_mbResume h
theorem keeps_execMbPeerWord : KeepsNext execMbPeerWord := keeps_mailbox fun s h => by simpa
theorem keeps_execMbLifetimeRecord : KeepsNext execMbLifetimeRecord := keeps_mailbox fun s h => by simpa

/-! ### Partitions, functions and moves -/

theorem keeps_execHaltComplete (n : Nat) : KeepsNext (execHaltComplete n) := by
  refine keeps_leads fun s h => ?_
  split
  · exact leads_ite (fun _ => by simpa) fun _ => leads_none
  · exact leads_none
theorem canonical_resetEnd {s : State} (h : Canonical s.mem) (f : Nat) : Canonical (s.resetEnd f).mem := by
  unfold State.resetEnd
  extract_lets mine s1 s2
  have h1 : Canonical s1.mem := canonical_of_mem (mem_foldl (fun u y => mem_clearLaunch u _ _ _) _ _) h
  simpa
theorem keeps_execFunctionLevelReset (f : Fin 16) : KeepsNext (execFunctionLevelReset f) := by
  refine keeps_leads fun s h => leads_ite (fun _ => by simp [h]) fun _ => ?_
  exact leads_ite (fun _ => leads_some.2 (canonical_resetEnd h _)) fun _ => leads_none
theorem keeps_execMoveRound (a : MoveAct) : KeepsNext (execMoveRound a) := by
  refine keeps_leads fun s h => ?_
  split
  · exact leads_ite (fun _ => leads_none) fun _ => by simp [h]
  · exact leads_ite (fun _ => leads_moveStart h _ _ _) fun _ => leads_none
theorem keeps_execMoveFreeze (n : Nat) : KeepsNext (execMoveFreeze n) := by
  refine keeps_leads fun s h => ?_
  split
  · refine leads_ite (fun _ => leads_none) fun _ => leads_ite (fun _ => by simpa) fun _ => ?_
    exact leads_ite (fun _ => by simp [h]) fun _ => leads_none
  · exact leads_none
theorem keeps_execWakeReq : KeepsNext execWakeReq := keeps_leads fun s h => leads_ite (fun _ => by simpa) fun _ => leads_none

/-! ### The host and the world outside -/

theorem keeps_execRqsub (f : Fin 16) (v : BitVec 64) : KeepsNext (execRqsub f v) :=
  keeps_leads fun s h => leads_some.2 (canonical_of_mem (mem_requestDoor (fun _ _ _ => by simp) s) h)
theorem keeps_execRqrd (f : Fin 16) (v : BitVec 64) : KeepsNext (execRqrd f v) := by
  refine keeps_leads fun s h => leads_some.2 (canonical_of_mem (mem_requestDoor (fun _ _ _ => ?_) s) h)
  dsimp only
  split <;> rfl
theorem keeps_execRqcan (f : Fin 16) (v : BitVec 64) : KeepsNext (execRqcan f v) := by
  refine keeps_leads fun s h => leads_some.2 (canonical_of_mem (mem_requestDoor (fun _ _ _ => ?_) s) h)
  dsimp only
  split <;> simp
theorem keeps_execQtail (f : Fin 16) (q : Fin 8) (v : BitVec 64) : KeepsNext (execQtail f q v) :=
  keeps_leads fun s h => leads_some.2 (canonical_ite (fun _ => h) fun _ => by simpa)
theorem keeps_execRegisterWrite (f : Fin 16) (off : Nat) (a : BarAccess) : KeepsNext (execRegisterWrite f off a) := by
  refine keeps_leads fun s h => ?_
  cases a with
  | write v n => exact leads_registerWrite h _ _ _ _
  | read n => simpa
theorem keeps_execRowCloseTimeout (n : Nat) : KeepsNext (execRowCloseTimeout n) := keeps_leads fun _ h => leads_map fun _ _ => h
theorem keeps_execRefresh (n : Nat) : KeepsNext (execRefresh n) := keeps_leads fun _ h => leads_ite (fun _ => leads_some.2 h) fun _ => leads_none
theorem keeps_execPtmExchange (n : Nat) : KeepsNext (execPtmExchange n) := keeps_leads fun _ h => leads_some.2 h

end Sys2Proof.Machine
end

section
/-! O5: every instruction, every event and every cycle keeps the memory's canonical form. -/

namespace Sys2Proof.Machine
open Sys2Proof

/-! ### Every constructor -/

theorem exec_keeps (i : Instr) : KeepsNext (exec i) := by
  cases i with
  | add | sub | and | or | xor | andn | orn | sll | srl | sra | slt | sltn | min | max | minn | maxn | mul | mulh | mulhn | addw | subw
  | sllw | srlw | sraw | mulw =>
    unfold exec
    exact keeps_binary _ _ _ _
  | div | divn | rem | remn =>
    unfold exec
    exact keeps_division _ _ _ _
  | clz | ctz | popc | bswap | addi | andi | ori | xori | slli | srli | srai | rori | slliw | srliw | sraiw | roriw | slti =>
    unfold exec
    exact keeps_unary _ _ _
  | lix => exact keeps_execLix _ _
  | lixs => exact keeps_execLixs _ _
  | fadd | fsub | fmul | fdiv | fmin | fmax | feq | flt | fle =>
    unfold exec
    exact keeps_fpBinary _ _ _ _
  | fsqrt | fclass | fneg | fabs | fcvtI64F32 | fcvtN64F32 | fcvtI32F32 | fcvtN32F32 | fcvtF32I64 | fcvtF32N64 | fcvtF32Bf16 | fcvtF32F16 =>
    unfold exec
    exact keeps_fpUnary _ _ _
  | fmadd | fmsub | fnmadd =>
    unfold exec
    exact keeps_fpFused _ _ _ _
  | fcvtBf16F32 | fcvtF16F32 =>
    unfold exec
    exact keeps_fpNarrow _ _ _
  | bEq | bNe | bLt | bGe | bLtn | bGen =>
    unfold exec
    exact keeps_branch _ _ _ _
  | j => exact keeps_execJ _
  | jal => exact keeps_execJal _
  | nop => exact keeps_execNop
  | jr | compactJrLk =>
    unfold exec
    exact keeps_jumpReg _ _
  | jalr => exact keeps_execJalr _ _
  | lp => exact keeps_execLp _ _
  | pca => exact keeps_execPca _
  | done | compactDone =>
    unfold exec
    exact keeps_doneForm _
  | flush | compactFlush =>
    unfold exec
    exact keeps_flushForm _
  | ld | compactLdI64 | compactLdI32 =>
    unfold exec
    exact keeps_loadOwn _ _ _ _ _
  | st | compactStI64 | compactStI32 =>
    unfold exec
    exact keeps_storeOwnForm _ _ _ _ _
  | ldb => exact keeps_execLdb _ _ _ _ _
  | stb => exact keeps_execStb _ _ _ _ _
  | ldg => exact keeps_execLdg _ _ _ _ _
  | stg => exact keeps_execStg _ _ _ _ _
  | amoSwap | amoAdd | amoAnd | amoOr | amoXor | amoMaxI | amoMinI | amoMaxN | amoMinN | amoCas | amoFadd =>
    unfold exec
    exact keeps_amoForm _ _ _ _ _
  | fence => exact keeps_execFence _ _ _
  | ldAcq => exact keeps_execLdAcq _ _ _ _
  | stRel => exact keeps_execStRel _ _ _ _
  | cinv => exact keeps_execCinv _
  | cinvAll => exact keeps_execCinvAll
  | msgSend => exact keeps_execMsgSend _ _ _
  | msgSendn => exact keeps_execMsgSendn _ _ _
  | msgSpawn => exact keeps_execMsgSpawn _
  | msgHost => exact keeps_execMsgHost _
  | msgPut => exact keeps_execMsgPut _ _ _
  | msgArg => exact keeps_execMsgArg _ _
  | msgHdr => exact keeps_execMsgHdr _ _
  | msgMask => exact keeps_execMsgMask _ _
  | barArr => exact keeps_execBarArr _
  | grpRank => exact keeps_execGrpRank _ _
  | grpSize => exact keeps_execGrpSize _ _
  | grpTile => exact keeps_execGrpTile _ _
  | grpSend => exact keeps_execGrpSend _ _ _
  | mxLdb => exact keeps_execMxLdb _
  | mxMma => exact keeps_execMxMma _ _ _ _
  | mxZero => exact keeps_execMxZero _ _ _
  | mxRd => exact keeps_execMxRd _ _ _ _
  | mxLdacc => exact keeps_execMxLdacc _ _ _ _
  | mxBay => exact keeps_execMxBay _ _ _ _
  | mxStat => exact keeps_execMxStat _ _
  | mxCfg => exact keeps_execMxCfg _
  | cpGl | cpGb | cpLg | cpGg | cpLb | cpLs | cpLsb | cpPl | gxLd | gxSt | gxLdb =>
    unfold exec
    exact keeps_cpForm _ _ _ _ _ _ _ _
  | cpCancel => exact keeps_execCpCancel _ _ _
  | cpCfg => exact keeps_execCpCfg _ _ _
  | cpCrec => exact keeps_execCpCrec _ _ _
  | cmbMax | cmbMin | cmbAdd =>
    unfold exec
    exact keeps_cmbForm _ _ _ _
  | cmbLgc => exact keeps_execCmbLgc _ _ _
  | tmPub => exact keeps_execTmPub _ _
  | tmGet | tmAge =>
    unfold exec
    exact keeps_tmRequest _ _ _
  | tmArm => exact keeps_execTmArm _
  | tmCfg => exact keeps_execTmCfg _ _ _
  | reqSub => exact keeps_execReqSub _ _
  | reqStep => exact keeps_execReqStep _
  | reqRd => exact keeps_execReqRd _ _
  | reqCommit => exact keeps_execReqCommit _ _
  | reqFault => exact keeps_execReqFault _
  | reqCfgRows => exact keeps_execReqCfgRows _ _
  | reqCfgStopset => exact keeps_execReqCfgStopset _ _
  | reqCancel => exact keeps_execReqCancel _ _ _
  | reqKvAttach | reqKvDetach | reqKvEvict | reqKvRelease =>
    unfold exec
    exact keeps_kvForm _ _ _
  | tmrSet => exact keeps_execTmrSet _ _
  | tmrRd => exact keeps_execTmrRd _ _
  | wktSeize => exact keeps_execWktSeize _ _
  | wktRel => exact keeps_execWktRel _
  | wktStat => exact keeps_execWktStat _ _
  | extW => exact keeps_execExtW _ _
  | extGet => exact keeps_execExtGet _ _
  | extLix => exact keeps_execExtLix _ _
  | extLixs => exact keeps_execExtLixs _ _
  | shpLd => exact keeps_execShpLd _ _
  | shpSt => exact keeps_execShpSt _ _
  | shpSet => exact keeps_execShpSet _ _ _
  | shpGet => exact keeps_execShpGet _ _ _
  | recSlice => exact keeps_execRecSlice _ _ _
  | csrRw | csrRs | csrRc =>
    unfold exec
    exact keeps_csrForm _ _ _ _ _
  | wakeReq => exact keeps_execWakeReq
  | tret => exact keeps_execTret
  | trapAb | trapDead =>
    unfold exec
    exact keeps_softwareTrap _ _
  | frzRel =>
    unfold exec
    exact keeps_systemForm _ _ _ keeps_sysFrzRel
  | eqPop => exact keeps_execEqPop _ _
  | tlbWr =>
    unfold exec
    exact keeps_translationForm _ _ _ _ fun s x y => mem_tlbWr ..
  | tlbNak =>
    unfold exec
    exact keeps_translationForm _ _ _ _ fun s x y => mem_tlbNak ..
  | tlbInv =>
    unfold exec
    exact keeps_translationForm _ _ _ _ fun s x y => mem_tlbInv ..
  | tlbInvt =>
    unfold exec
    exact keeps_translationForm _ _ _ _ fun s x y => mem_tlbInvt ..
  | resWr => exact keeps_execResWr _ _ _
  | resRd => exact keeps_execResRd _ _
  | bndWr => exact keeps_execBndWr _ _
  | bndRd => exact keeps_execBndRd _ _
  | bndClr => exact keeps_execBndClr _
  | wearRd => exact keeps_execWearRd _ _
  | lvHold => exact keeps_execLvHold _
  | lvDrop => exact keeps_execLvDrop
  | lvStat => exact keeps_execLvStat _ _
  | lvShare => exact keeps_execLvShare _ _ _
  | wearSet =>
    unfold exec
    exact keeps_systemForm _ _ _ keeps_sysWearSet
  | partMk => exact keeps_execPartMk _ _
  | partFree => exact keeps_execPartFree _ _
  | partHold =>
    unfold exec
    exact keeps_partForm _ _ _ keeps_sysHold
  | partHalt =>
    unfold exec
    exact keeps_partForm _ _ _ keeps_sysHalt
  | partSwap =>
    unfold exec
    exact keeps_partForm _ _ _ keeps_sysSwap
  | shutPost =>
    unfold exec
    exact keeps_partForm _ _ _ keeps_sysShutPost
  | shutStat =>
    unfold exec
    exact keeps_partForm _ _ _ keeps_sysShutStat
  | vfCtlPause =>
    unfold exec
    exact keeps_partForm _ _ _ (keeps_sysVf _)
  | vfCtlResume =>
    unfold exec
    exact keeps_partForm _ _ _ (keeps_sysVf _)
  | vfCtlReset =>
    unfold exec
    exact keeps_partForm _ _ _ (keeps_sysVf _)
  | vfCtlTeardown =>
    unfold exec
    exact keeps_partForm _ _ _ (keeps_sysVf _)
  | vfadd | vfsub | vfmul | vfma | vfnma | vfmin | vfmax | vfdiv | vadd | vsub | vmul | vmac | vminI | vmaxI | vminN | vmaxN | vand | vor
  | vxor | vandn | vsll | vsrl | vsra | vmov =>
    unfold exec
    exact keeps_vsForm _ _ _ _ _ _ _
  | vceq | vclt | vcge | vcltn | vcgen | vfeq | vflt | vfle =>
    unfold exec
    exact keeps_cmpForm _ _ _ _ _ _
  | kand | kor | kxor | kandn | knot | kpop | kfirst | kword | klo | kset =>
    unfold exec
    exact keeps_maskForm _ _ _ _ _
  | vcvtF32Bf16 | vcvtF32F16 | vcvtBf16F32 | vcvtF16F32 | vcvtF16Bf16 | vcvtBf16F16 | vcvtF32I32 | vcvtI32F32 | vcvtF32I8 | vwidI16I8
  | vwidI32I16 | vwidN16N8 | vwidN32N16 | vnarI8I16 | vnarI16I32 | vgscLo | vgscHi | vunpkI8I4 | vpkI4I8 | vpermB | vnibLo | vnibHi | vbcast
  | vslup | vsldn | vcomp | vidx | vscan | vhist | vexp2 | vlog2 | vrcp | vrsqrt | vsqrt | vrngN32 | vrngF32 | vord | vordi =>
    unfold exec
    exact keeps_vForm _ _ _ _ _ _
  | vmvq | vrsum | vrmax | vrmin | vramax | vramin =>
    unfold exec
    exact keeps_vqForm _ _ _ _ _ _
  | vld | vst | vlds | vsts | vldg | vstg | vldb =>
    unfold exec
    exact keeps_memForm _ _ _ _ _ _ _
  | compactAdd | compactSub | compactAnd | compactOr | compactXor | compactSll | compactSrl | compactSra | compactMul =>
    unfold exec
    exact keeps_compactBinary _ _ _
  | compactMove => exact keeps_execCompactMove _ _
  | compactAddi | compactAndi | compactSlli | compactSrli | compactSrai =>
    unfold exec
    exact keeps_compactUnary _ _
  | compactLix => exact keeps_execCompactLix _ _
  | compactBEq | compactBNe =>
    unfold exec
    exact keeps_compactBranch _ _ _
  | compactJ => exact keeps_execCompactJ _
  | compactNop => exact keeps_execCompactNop
  | pfx => exact keeps_execPfx _ _ _ _
  | messageArrival => exact keeps_execMessageArrival _
  | binding => exact keeps_execBinding _ _
  | vectorStart => exact keeps_execVectorStart _ _
  | boundTrap => exact keeps_execBoundTrap _ _
  | tlbMissRetry => exact keeps_execTlbMissRetry _ _
  | abort => exact keeps_execAbort _ _
  | budgetOverrun => exact keeps_execBudgetOverrun _ _
  | leaveGrant => exact keeps_execLeaveGrant _
  | leaveTimeout => exact keeps_execLeaveTimeout _ _
  | doneRetire => exact keeps_execDoneRetire _ _
  | sliceAccess => exact keeps_execSliceAccess _
  | lineFill => exact keeps_execLineFill _
  | loadReply => exact keeps_execLoadReply _ _
  | portThreadOperation => exact keeps_execPortThreadOperation _
  | put => exact keeps_execPut _
  | barrierArrival => exact keeps_execBarrierArrival _
  | probe => exact keeps_execProbe _
  | resourceInvalidation => exact keeps_execResourceInvalidation _
  | streamerSegment => exact keeps_execStreamerSegment _
  | streamerLine => exact keeps_execStreamerLine _
  | transferEnd => exact keeps_execTransferEnd _
  | streamerCancel => exact keeps_execStreamerCancel _
  | mxQueueEntry => exact keeps_execMxQueueEntry _
  | mxCommandStart => exact keeps_execMxCommandStart _
  | mxCommandComplete => exact keeps_execMxCommandComplete _
  | mxBayMember => exact keeps_execMxBayMember _
  | mxBayFold => exact keeps_execMxBayFold _
  | transomRequestAccept => exact keeps_execTransomRequestAccept _
  | transomStagingComplete => exact keeps_execTransomStagingComplete _
  | transomCommit => exact keeps_execTransomCommit _
  | readPinEnd => exact keeps_execReadPinEnd _
  | mirrorInstall => exact keeps_execMirrorInstall _ _
  | pubdb => exact keeps_execPubdb _ _
  | getdb => exact keeps_execGetdb _ _
  | hostPostedWrite => exact keeps_execHostPostedWrite _ _ _
  | senddb => exact keeps_execSenddb _
  | hostChannelWrite => exact keeps_execHostChannelWrite _
  | eqpop => exact keeps_execEqpop _
  | rqsub => exact keeps_execRqsub _ _
  | rqrd => exact keeps_execRqrd _ _
  | rqcan => exact keeps_execRqcan _ _
  | qtail => exact keeps_execQtail _ _ _
  | admission => exact keeps_execAdmission _
  | mbExecSystemInstruction => exact keeps_execMbExecSystemInstruction
  | mbSlotConfig => exact keeps_execMbSlotConfig
  | mbWicketArm => exact keeps_execMbWicketArm
  | mbErrorArea => exact keeps_execMbErrorArea
  | mbPowerCap => exact keeps_execMbPowerCap
  | mbSleep => exact keeps_execMbSleep
  | mbWake => exact keeps_execMbWake
  | wakeComplete => exact keeps_execWakeComplete
  | mbSuspend => exact keeps_execMbSuspend
  | mbResume => exact keeps_execMbResume
  | mbPeerWord => exact keeps_execMbPeerWord
  | mbLifetimeRecord => exact keeps_execMbLifetimeRecord
  | registerWrite => exact keeps_execRegisterWrite _ _ _
  | functionLevelReset => exact keeps_execFunctionLevelReset _
  | boot => exact keeps_execBoot _ _ _ _ _
  | timerEdge => exact keeps_execTimerEdge _
  | controlEdge => exact keeps_execControlEdge
  | deltaCommit => exact keeps_execDeltaCommit _ _ _ _ _ _
  | sweep => exact keeps_execSweep _
  | seizeRequest => exact keeps_execSeizeRequest _
  | wicketRelease => exact keeps_execWicketRelease _
  | forcedRelease => exact keeps_execForcedRelease _
  | reqStepOperation => exact keeps_execReqStepOperation _
  | kvOperation => exact keeps_execKvOperation _
  | combineArrival => exact keeps_execCombineArrival _
  | haltComplete => exact keeps_execHaltComplete _
  | swapComplete => exact keeps_execSwapComplete _
  | bstoreRefill => exact keeps_execBstoreRefill _
  | shutterUnitEnd => exact keeps_execShutterUnitEnd _
  | shutterVacant => exact keeps_execShutterVacant _
  | moveRound => exact keeps_execMoveRound _
  | moveFreeze => exact keeps_execMoveFreeze _
  | scrub => exact keeps_execScrub _
  | rowCloseTimeout => exact keeps_execRowCloseTimeout _
  | refresh => exact keeps_execRefresh _
  | monitorSample => exact keeps_execMonitorSample _ _ _
  | illegalInstruction => exact keeps_execIllegalInstruction _
  | transcendentalBurstEnd => exact keeps_execTranscendentalBurstEnd _
  | heartbeat role epoch edge dt => exact keeps_execHeartbeat role epoch edge dt
  | ptmExchange => exact keeps_execPtmExchange _
  | quoteRequest => exact keeps_execQuoteRequest _ _
  | hostPortAcceptance => exact keeps_execHostPortAcceptance _

/-! ### The device's own events -/

/-- Each event of a list keeps the canonical form. -/
def AllKeep (l : List Meaning) : Prop := ∀ e ∈ l, KeepsNext e
theorem allKeep_nil : AllKeep [] := fun _ h => absurd h List.not_mem_nil
theorem allKeep_cons {e : Meaning} {l : List Meaning} (h : KeepsNext e) (k : AllKeep l) : AllKeep (e :: l) := List.forall_mem_cons.2 ⟨h, k⟩
theorem allKeep_append {l r : List Meaning} (h : AllKeep l) (k : AllKeep r) : AllKeep (l ++ r) := List.forall_mem_append.2 ⟨h, k⟩
theorem allKeep_map {α : Type} {f : α → Meaning} (h : ∀ x, KeepsNext (f x)) (l : List α) : AllKeep (l.map f) :=
  List.forall_mem_map.2 fun x _ => h x
theorem allKeep_upTo {f : Nat → Meaning} (h : ∀ x, KeepsNext (f x)) (n : Nat) : AllKeep (upTo n f) := allKeep_map h _
theorem allKeep_flatMap {α : Type} {f : α → List Meaning} (h : ∀ x, AllKeep (f x)) (l : List α) : AllKeep (l.flatMap f) := by
  intro e he
  obtain ⟨x, -, hx⟩ := List.mem_flatMap.1 he
  exact h x e hx

theorem allKeep_ctxEvents (t : Nat) (c : Fin 8) : AllKeep (ctxEvents t c) := by
  unfold ctxEvents
  repeat' with_reducible apply allKeep_cons
  · exact keeps_execAbort t c
  · exact keeps_execDoneRetire t c
  · exact keeps_execLoadReply t c
  · exact keeps_execBudgetOverrun t c
  · exact keeps_execLeaveTimeout t c
  · exact keeps_execTlbMissRetry t c
  · exact keeps_execVectorStart t c
  · exact allKeep_nil
theorem allKeep_tileEvents (t : Nat) : AllKeep (tileEvents t) := by
  refine allKeep_append (allKeep_append (allKeep_flatMap (allKeep_ctxEvents t) _) ?_) (allKeep_map (keeps_execBinding t) _)
  repeat' with_reducible apply allKeep_cons
  · exact keeps_execPortThreadOperation t
  · exact keeps_execPut t
  · exact keeps_execBarrierArrival t
  · exact keeps_execResourceInvalidation t
  · exact keeps_execMxQueueEntry t
  · exact keeps_execMxBayMember t
  · exact keeps_execMxCommandStart t
  · exact keeps_execMxCommandComplete t
  · exact keeps_execMxBayFold t
  · exact keeps_execTranscendentalBurstEnd t
  · exact keeps_execBstoreRefill t
  · exact allKeep_nil
theorem allKeep_mailboxEvents :
    AllKeep [execMbExecSystemInstruction, execMbSlotConfig, execMbWicketArm, execMbErrorArea, execMbPowerCap, execMbSleep, execMbWake,
      execMbSuspend, execMbResume, execMbPeerWord, execMbLifetimeRecord, execWakeComplete] := by
  repeat' with_reducible apply allKeep_cons
  · exact keeps_execMbExecSystemInstruction
  · exact keeps_execMbSlotConfig
  · exact keeps_execMbWicketArm
  · exact keeps_execMbErrorArea
  · exact keeps_execMbPowerCap
  · exact keeps_execMbSleep
  · exact keeps_execMbWake
  · exact keeps_execMbSuspend
  · exact keeps_execMbResume
  · exact keeps_execMbPeerWord
  · exact keeps_execMbLifetimeRecord
  · exact keeps_execWakeComplete
  · exact allKeep_nil
theorem keeps_resetWhenDue (f : Fin 16) :
    KeepsNext fun s => if (s.fn f.val).resetting then execFunctionLevelReset f s else .refused (.noSuchEvent "FUNCTION_LEVEL_RESET") := by
  intro s t h e
  dsimp only at e
  split at e
  · exact keeps_execFunctionLevelReset f s t h e
  · cases e
theorem allKeep_candidateEvents (s : State) : AllKeep s.candidateEvents := by
  unfold State.candidateEvents
  repeat' with_reducible apply allKeep_append
  · exact allKeep_cons keeps_execControlEdge allKeep_nil
  · exact allKeep_flatMap (fun _ => allKeep_tileEvents _) _
  · exact allKeep_upTo keeps_execSliceAccess _
  · exact allKeep_upTo keeps_execProbe _
  · exact allKeep_map keeps_execLineFill _
  · exact allKeep_upTo keeps_execMessageArrival _
  · exact allKeep_map (fun _ => keeps_execLeaveGrant _) _
  · exact allKeep_upTo keeps_execStreamerSegment _
  · exact allKeep_upTo keeps_execStreamerCancel _
  · exact allKeep_upTo keeps_execStreamerLine _
  · exact allKeep_upTo keeps_execTransferEnd _
  · exact allKeep_map (fun _ => keeps_execReadPinEnd _) _
  · exact allKeep_map (fun _ => keeps_execTransomCommit _) _
  · exact allKeep_upTo keeps_execTransomRequestAccept _
  · exact allKeep_upTo keeps_execTransomStagingComplete _
  · exact allKeep_map (fun _ => keeps_execReqStepOperation _) _
  · exact allKeep_upTo keeps_execKvOperation _
  · exact allKeep_upTo keeps_execCombineArrival _
  · exact allKeep_map keeps_execHostPortAcceptance _
  · exact allKeep_upTo keeps_execHostChannelWrite _
  · exact allKeep_map (fun _ => keeps_execTimerEdge _) _
  · exact allKeep_map (fun _ => keeps_execSeizeRequest _) _
  · exact allKeep_map (fun _ => keeps_execForcedRelease _) _
  · exact allKeep_map (fun _ => keeps_execWicketRelease _) _
  · exact allKeep_mailboxEvents
  · exact allKeep_map (fun _ => keeps_execHaltComplete _) _
  · exact allKeep_upTo keeps_execSwapComplete _
  · exact allKeep_map (fun _ => keeps_execShutterUnitEnd _) _
  · exact allKeep_map (fun _ => keeps_execShutterVacant _) _
  · exact allKeep_map keeps_resetWhenDue _
  · exact allKeep_upTo keeps_execAdmission _
  · exact allKeep_map (fun _ => keeps_execSweep _) _
  · exact allKeep_map (fun _ => keeps_execScrub _) _
  · exact allKeep_upTo (fun _ => keeps_execMoveRound _) _
  · exact allKeep_upTo keeps_execMoveFreeze _
theorem leads_nextEvent {s : State} (h : Canonical s.mem) : Leads s.nextEvent := by
  intro t e
  obtain ⟨f, hf, hft⟩ := List.exists_of_findSome?_eq_some e
  split at hft
  · next hu =>
    cases hft
    exact allKeep_candidateEvents s f hf s t h hu
  · cases hft

/-! ### A step -/

theorem runFetched_keeps : KeepsNext runFetched := by
  intro s t h e
  unfold runFetched at e
  split at e
  · exact exec_keeps _ s t h e
  · exact exec_keeps _ s t h e
  · cases e
    exact canonical_of_mem (mem_fetchFault s) h
theorem issueOn_keeps {run : Meaning} (hrun : KeepsNext run) (t : Nat) (c : Fin 8) : KeepsNext fun s => s.issueOn run t c := by
  intro s u h e
  have h0 : Canonical (s.at t c).mem := h
  suffices issued : ∃ v : State, Canonical v.mem ∧ u = v.afterIssue t c (s.turnOf t) by
    obtain ⟨v, hv, rfl⟩ := issued
    exact canonical_of_mem (mem_afterIssue v t c _) hv
  dsimp only [State.issueOn] at e
  split at e
  · cases e
    exact ⟨_, canonical_of_mem (mem_takeTrap _ _ _) h0, rfl⟩
  · split at e
    · next v hv =>
      cases e
      exact ⟨v, leads_takeBoundTrap h0 t c v hv, rfl⟩
    · split at e
      · next v hv =>
        cases e
        exact ⟨v, hrun _ v h0 hv, rfl⟩
      · cases e
      · cases e
theorem proceed_keeps {run : Meaning} (hrun : KeepsNext run) : KeepsNext fun s => s.proceed run := by
  intro s t h e
  dsimp only [State.proceed] at e
  split at e
  · next v hv =>
    cases e
    refine canonical_of_mem (mem_afterEvent v) ?_
    split at hv
    · exact leads_nextEvent h v hv
    · cases hv
  · split at e
    · exact issueOn_keeps hrun _ _ s t h e
    · cases e
      exact canonical_tick h
theorem step_keeps : KeepsNext step := by
  intro s t h e
  unfold step at e
  split at e
  · exact proceed_keeps runFetched_keeps s t h e
  · split at e
    · split at e
      · next v hv =>
        cases e
        refine canonical_of_mem (mem_afterEvent v) (exec_keeps _ _ v ?_ hv)
        exact h
      · exact proceed_keeps runFetched_keeps s t h e
    · cases e
      exact h

/-- Settles O5, from what each instruction and event keeps, which is what the shared operations that write memory keep. -/
theorem stepKeepsMemory : Obligations.StepKeepsMemory := step_keeps

end Sys2Proof.Machine
end
